-- ==== Sys2Proof/Word.lean ====
section
/-! DEFINITION. The machine's word types and the index types of its register files (02 R35, R38). -/
namespace Sys2Proof

/-- A general register, an address in flight, a system register (R35). -/
abbrev Word := BitVec 64
/-- One byte. -/
abbrev Byte := BitVec 8
/-- A register g0 to g31. -/
abbrev GReg := Fin 32
/-- A tile t0 to t15, or a weight slot w0 to w15. -/
abbrev TReg := Fin 16
/-- An accumulator a0 to a3, or a histogram bank h0 to h3. -/
abbrev AReg := Fin 4
/-- A mailbox slot m0 to m31. -/
abbrev MReg := Fin 32

end Sys2Proof
end

