-- ==== Sys2Proof/Syntax.lean ====
section
/-! DEFINITION. The instruction syntax: the operand types and `Instr`, one constructor per row of the opcode table.
201 constructors have a word (02 R38 to R52). The other 128 are steps of the machine that have no word: their operands say
which of the things in flight the step takes (an index into a list of the state), or what comes in from outside. -/
namespace Sys2Proof

/-- The ordering field (R46). -/
inductive Ord where | rlx | acq | rel | ar
  deriving DecidableEq, Repr
/-- The scope field (R46). -/
inductive Scope where | core | die | dev | sys
  deriving DecidableEq, Repr
/-- The rounding field (R46). -/
inductive Rnd where | rne | rtz | rdn | rup | sr
  deriving DecidableEq, Repr
/-- The element size of TMOVS (R109). -/
inductive Size where | b | h | w | d
  deriving DecidableEq, Repr
/-- An element format (R48), in the order of its codes. -/
inductive Fmt where | fp32 | bf16 | fp16 | e4m3 | e5m2 | int8 | int32 | q4
  deriving DecidableEq, Repr
/-- The mode of an accumulator (R98). -/
inductive AccMode where | fp32 | int32
  deriving DecidableEq, Repr
/-- What an access does, as translation checks it (R353, R362). -/
inductive Access where | read | write | exec
  deriving DecidableEq, Repr
/-- A comparison condition (R127), in the order of its codes. -/
inductive Cond where | eq | ne | lt | le | gt | ge | un | ord
  deriving DecidableEq, Repr
/-- The operation of TRED (R131). -/
inductive RedOp where | add | max | min
  deriving DecidableEq, Repr
/-- The mode of TBC (R132). -/
inductive TbcMode where | row | col | scalar
  deriving DecidableEq, Repr
/-- The mode of TRND (R135). -/
inductive TrndMode where | bits | unit | mask
  deriving DecidableEq, Repr
/-- A 4-bit block type (R78). -/
inductive Q4Type where | t0 | t1 | t2 | t3
  deriving DecidableEq, Repr
/-- The sets a FENCE orders (R238): loads, stores, engine and mailbox work. -/
structure FenceSet where
  l : Bool
  s : Bool
  e : Bool
  deriving DecidableEq, Repr

/-- How the host answers a request that has a completion (R29, R236). `changed v` is a success that finds v in the bytes of an AMO:
an agent of the host has stored it there, so that a compare of the CAS loop fails. -/
inductive HostReply where | ok | denied | abort | changed (v : Nat)
  deriving DecidableEq, Repr
/-- What the host's translation service answers (R363): a translation with its permission bits, or a fault. -/
inductive AtsAnswer where
  | granted (iova : Nat) (r w : Bool)
  | fault
  deriving DecidableEq, Repr
/-- The result code of a page-request response (R364). -/
inductive PriCode where | success | invalid | failure
  deriving DecidableEq, Repr
/-- A link window (R374): valid, the rights of the peer's loads, stores and AMOs, the peer paddocks that may use it, and its
first byte and the first byte after it, in 4 KiB units of PA[46:12]. -/
structure LinkWindow where
  v : Bool
  r : Bool
  w : Bool
  a : Bool
  pmask : BitVec 7
  base : Nat
  limit : Nat
  deriving DecidableEq, Repr
/-- The operations of the AMOs (R234). -/
inductive AmoOp where | add | and | or | xor | min | max | minu | maxu | swp | cas | fadd
  deriving DecidableEq, Repr
/-- What a flit of type data brings from the peer card on virtual channel 0 (R439), or an idle one: a request of one of its paddocks (7 for its
firmware and engines) for this card's memory, within one line. -/
inductive PeerRequest where
  | none
  | load (pad pa size : Nat)
  | store (pad pa size value : Nat)
  | amo (pad : Nat) (op : AmoOp) (size pa operand compare : Nat)
  deriving DecidableEq, Repr
/-- Where a host access goes (R434, R438): BAR2 of a virtual function, its BAR0 or that of physical function 0. -/
inductive HostBar where | bar2 (vf : Nat) | bar0 (fn : Nat)
  deriving DecidableEq, Repr
/-- Who writes a device register: the driver through PF 0's BAR0, or a yard controller at machine level, which reaches the same registers (R434);
the paddock's function n; a supervisor of a set; or firmware. -/
inductive Party where | pf | vf (n : Nat) | supervisor (pset : Nat) | firmware
  deriving DecidableEq, Repr
/-- Where a bit error is found (R392, R393): a word of HBM or of the L2 by PA / 8, a scratchpad byte's word by core and offset, a
register by the class, index and row that EROW gives it; state written by the bundle in hand, by the physical structure; an entry of a
core's instruction cache, private data cache or CTC, or of a set's STC; a core's NI queues and rename state. -/
inductive ErrorPlace where
  | hbm (word : Nat) | l2 (word : Nat) | scratch (core off : Nat) | register (core cls index row : Nat) | icache (core line : Nat)
  | niBuffer (core : Nat) | unretired (core part : Nat) | dataCache (core line : Nat) | ctc (core index : Nat) | stc (pset index : Nat)
  | sram (die word : Nat)
  deriving DecidableEq, Repr

/-- An instruction of Lymos, or a step of the machine that has no word: one constructor per row of the opcode table. -/
inductive Instr where
  /-- `BEQ`. R144. Branches to pc + 4 × off12 when g[ga] equals g[gb]. -/
  | beq (ga : GReg) (gb : GReg) (off : BitVec 12)
  /-- `BNE`. R144. Branches when g[ga] differs from g[gb]. -/
  | bne (ga : GReg) (gb : GReg) (off : BitVec 12)
  /-- `BLT`. R144. Branches when g[ga] is below g[gb], signed. -/
  | blt (ga : GReg) (gb : GReg) (off : BitVec 12)
  /-- `BGE`. R144. Branches when g[ga] is at least g[gb], signed. -/
  | bge (ga : GReg) (gb : GReg) (off : BitVec 12)
  /-- `BLTU`. R144. Branches when g[ga] is below g[gb], unsigned. -/
  | bltu (ga : GReg) (gb : GReg) (off : BitVec 12)
  /-- `BGEU`. R144. Branches when g[ga] is at least g[gb], unsigned. -/
  | bgeu (ga : GReg) (gb : GReg) (off : BitVec 12)
  /-- `J`. R145. Jumps to pc + 4 × off25 without linking. -/
  | j (off : BitVec 25)
  /-- `JAL`. R145. Jumps to pc + 4 × off20 and writes the address after the bundle to gd. -/
  | jal (gd : GReg) (off : BitVec 20)
  /-- `JALR`. R145. Jumps to g[ga] + 4 × imm15 and links gd. -/
  | jalr (gd : GReg) (ga : GReg) (imm : BitVec 15)
  /-- `LDB`. R231. Relaxed offset-form load of a sign-extended byte. -/
  | ldb (gd : GReg) (ga : GReg) (imm : BitVec 12)
  /-- `LDBZ`. R231. Relaxed offset-form load of a zero-extended byte. -/
  | ldbz (gd : GReg) (ga : GReg) (imm : BitVec 12)
  /-- `LDH`. R231. Relaxed offset-form load of a sign-extended halfword. -/
  | ldh (gd : GReg) (ga : GReg) (imm : BitVec 12)
  /-- `LDHZ`. R231. Relaxed offset-form load of a zero-extended halfword. -/
  | ldhz (gd : GReg) (ga : GReg) (imm : BitVec 12)
  /-- `LDW`. R231. Relaxed offset-form load of a sign-extended word. -/
  | ldw (gd : GReg) (ga : GReg) (imm : BitVec 12)
  /-- `LDWZ`. R231. Relaxed offset-form load of a zero-extended word. -/
  | ldwz (gd : GReg) (ga : GReg) (imm : BitVec 12)
  /-- `LDD`. R231. Relaxed offset-form load of a doubleword. -/
  | ldd (gd : GReg) (ga : GReg) (imm : BitVec 12)
  /-- `STB`. R231. Relaxed offset-form store of a byte, leaving at retirement. -/
  | stb (gd : GReg) (ga : GReg) (imm : BitVec 12)
  /-- `STH`. R231. Relaxed offset-form store of a halfword. -/
  | sth (gd : GReg) (ga : GReg) (imm : BitVec 12)
  /-- `STW`. R231. Relaxed offset-form store of a word. -/
  | stw (gd : GReg) (ga : GReg) (imm : BitVec 12)
  /-- `STD`. R231. Relaxed offset-form store of a doubleword. -/
  | std (gd : GReg) (ga : GReg) (imm : BitVec 12)
  /-- `LDB_ORDERED`. R231. Ordered-form byte load with ord and scope, sign-extended. -/
  | ldbOrd (gd : GReg) (ga : GReg) (ord : Ord) (sc : Scope)
  /-- `LDBZ_ORDERED`. R231. Ordered-form byte load, zero-extended. -/
  | ldbzOrd (gd : GReg) (ga : GReg) (ord : Ord) (sc : Scope)
  /-- `LDH_ORDERED`. R231. Ordered-form halfword load, sign-extended. -/
  | ldhOrd (gd : GReg) (ga : GReg) (ord : Ord) (sc : Scope)
  /-- `LDHZ_ORDERED`. R231. Ordered-form halfword load, zero-extended. -/
  | ldhzOrd (gd : GReg) (ga : GReg) (ord : Ord) (sc : Scope)
  /-- `LDW_ORDERED`. R231. Ordered-form word load, sign-extended. -/
  | ldwOrd (gd : GReg) (ga : GReg) (ord : Ord) (sc : Scope)
  /-- `LDWZ_ORDERED`. R231. Ordered-form word load, zero-extended. -/
  | ldwzOrd (gd : GReg) (ga : GReg) (ord : Ord) (sc : Scope)
  /-- `LDD_ORDERED`. R231. Ordered-form doubleword load; with .acq an acquire. -/
  | lddOrd (gd : GReg) (ga : GReg) (ord : Ord) (sc : Scope)
  /-- `STB_ORDERED`. R231. Ordered-form byte store; with .rel a release. -/
  | stbOrd (ga : GReg) (gb : GReg) (ord : Ord) (sc : Scope)
  /-- `STH_ORDERED`. R231. Ordered-form halfword store. -/
  | sthOrd (ga : GReg) (gb : GReg) (ord : Ord) (sc : Scope)
  /-- `STW_ORDERED`. R231. Ordered-form word store. -/
  | stwOrd (ga : GReg) (gb : GReg) (ord : Ord) (sc : Scope)
  /-- `STD_ORDERED`. R231. Ordered-form doubleword store. -/
  | stdOrd (ga : GReg) (gb : GReg) (ord : Ord) (sc : Scope)
  /-- `AMOADD_W`. R234. 32-bit atomic add at the serialisation point, returning the old value. -/
  | amoaddW (gd : GReg) (ga : GReg) (gb : GReg) (ord : Ord) (sc : Scope)
  /-- `AMOAND_W`. R234. 32-bit atomic AND. -/
  | amoandW (gd : GReg) (ga : GReg) (gb : GReg) (ord : Ord) (sc : Scope)
  /-- `AMOOR_W`. R234. 32-bit atomic OR. -/
  | amoorW (gd : GReg) (ga : GReg) (gb : GReg) (ord : Ord) (sc : Scope)
  /-- `AMOXOR_W`. R234. 32-bit atomic XOR. -/
  | amoxorW (gd : GReg) (ga : GReg) (gb : GReg) (ord : Ord) (sc : Scope)
  /-- `AMOMIN_W`. R234. 32-bit atomic signed minimum. -/
  | amominW (gd : GReg) (ga : GReg) (gb : GReg) (ord : Ord) (sc : Scope)
  /-- `AMOMAX_W`. R234. 32-bit atomic signed maximum. -/
  | amomaxW (gd : GReg) (ga : GReg) (gb : GReg) (ord : Ord) (sc : Scope)
  /-- `AMOMINU_W`. R234. 32-bit atomic unsigned minimum. -/
  | amominuW (gd : GReg) (ga : GReg) (gb : GReg) (ord : Ord) (sc : Scope)
  /-- `AMOMAXU_W`. R234. 32-bit atomic unsigned maximum. -/
  | amomaxuW (gd : GReg) (ga : GReg) (gb : GReg) (ord : Ord) (sc : Scope)
  /-- `AMOSWP_W`. R234. 32-bit atomic swap. -/
  | amoswpW (gd : GReg) (ga : GReg) (gb : GReg) (ord : Ord) (sc : Scope)
  /-- `AMOCAS_W`. R234. 32-bit atomic compare-and-swap against gd. -/
  | amocasW (gd : GReg) (ga : GReg) (gb : GReg) (ord : Ord) (sc : Scope)
  /-- `AMOFADD_W`. R234. Atomic FP32 add rounded RNE, old value zero-extended. -/
  | amofaddW (gd : GReg) (ga : GReg) (gb : GReg) (ord : Ord) (sc : Scope)
  /-- `AMOADD_D`. R234. 64-bit atomic add. -/
  | amoaddD (gd : GReg) (ga : GReg) (gb : GReg) (ord : Ord) (sc : Scope)
  /-- `AMOAND_D`. R234. 64-bit atomic AND. -/
  | amoandD (gd : GReg) (ga : GReg) (gb : GReg) (ord : Ord) (sc : Scope)
  /-- `AMOOR_D`. R234. 64-bit atomic OR. -/
  | amoorD (gd : GReg) (ga : GReg) (gb : GReg) (ord : Ord) (sc : Scope)
  /-- `AMOXOR_D`. R234. 64-bit atomic XOR. -/
  | amoxorD (gd : GReg) (ga : GReg) (gb : GReg) (ord : Ord) (sc : Scope)
  /-- `AMOMIN_D`. R234. 64-bit atomic signed minimum. -/
  | amominD (gd : GReg) (ga : GReg) (gb : GReg) (ord : Ord) (sc : Scope)
  /-- `AMOMAX_D`. R234. 64-bit atomic signed maximum. -/
  | amomaxD (gd : GReg) (ga : GReg) (gb : GReg) (ord : Ord) (sc : Scope)
  /-- `AMOMINU_D`. R234. 64-bit atomic unsigned minimum. -/
  | amominuD (gd : GReg) (ga : GReg) (gb : GReg) (ord : Ord) (sc : Scope)
  /-- `AMOMAXU_D`. R234. 64-bit atomic unsigned maximum. -/
  | amomaxuD (gd : GReg) (ga : GReg) (gb : GReg) (ord : Ord) (sc : Scope)
  /-- `AMOSWP_D`. R234. 64-bit atomic swap. -/
  | amoswpD (gd : GReg) (ga : GReg) (gb : GReg) (ord : Ord) (sc : Scope)
  /-- `AMOCAS_D`. R234. 64-bit atomic compare-and-swap. -/
  | amocasD (gd : GReg) (ga : GReg) (gb : GReg) (ord : Ord) (sc : Scope)
  /-- `AMOFADD_D`. R234. Atomic add of two FP32 lanes. -/
  | amofaddD (gd : GReg) (ga : GReg) (gb : GReg) (ord : Ord) (sc : Scope)
  /-- `REDADD_W`. R237. Gathered 32-bit integer add reduction with no result. -/
  | redaddW (ga : GReg) (gb : GReg) (ord : Ord) (sc : Scope)
  /-- `REDADD_D`. R237. Gathered 64-bit integer add reduction. -/
  | redaddD (ga : GReg) (gb : GReg) (ord : Ord) (sc : Scope)
  /-- `REDFADD_W`. R237. Gathered FP32 add reduction. -/
  | redfaddW (ga : GReg) (gb : GReg) (ord : Ord) (sc : Scope)
  /-- `REDMAX_W`. R237. Gathered 32-bit signed max reduction. -/
  | redmaxW (ga : GReg) (gb : GReg) (ord : Ord) (sc : Scope)
  /-- `REDMAX_D`. R237. Gathered 64-bit signed max reduction. -/
  | redmaxD (ga : GReg) (gb : GReg) (ord : Ord) (sc : Scope)
  /-- `FENCE`. R238. Orders older accesses of the named kinds before younger ones at a scope. -/
  | fence (set : FenceSet) (sc : Scope)
  /-- `RELB`. R239. Branded release writing a value and the brand as one 128-byte sync line. -/
  | relb (ga : GReg) (gb : GReg) (sc : Scope)
  /-- `ACQB`. R240. Branded acquire reading a sync line and running the brand test. -/
  | acqb (gd : GReg) (ga : GReg) (sc : Scope)
  /-- `CLWB`. R241. Writes a dirty L2 copy of a line back to HBM. -/
  | clwb (ga : GReg)
  /-- `CLINV`. R241. Invalidates the core's private copy of a line. -/
  | clinv (ga : GReg)
  /-- `PREF`. R242. Prefetches a range into home slices and optionally the private cache. -/
  | pref (ga : GReg) (gb : GReg) (ef : Bool) (priv : Bool)
  /-- `RETAIN`. R243. Requests a retention entry for a physical range and returns a status. -/
  | retain (gd : GReg) (ga : GReg) (gb : GReg) (ways : Fin 8)
  /-- `UNPIN`. R244. Clears a retention entry and lifts its marks. -/
  | unpin (gd : GReg) (ga : GReg)
  /-- `SEND`. R246. Relaxed send of a 64-bit value to a mailbox slot of a launch cell. -/
  | send (ga : GReg) (gb : GReg) (m : MReg)
  /-- `SENDB`. R246. Branded send, a release carrying the written brand. -/
  | sendb (ga : GReg) (gb : GReg) (m : MReg) (sc : Scope)
  /-- `RECV`. R250. Takes the value of a mailbox slot, blocking while it is empty. -/
  | recv (gd : GReg) (m : MReg)
  /-- `RECVANY`. R250. Takes the lowest present slot among a mask. -/
  | recvany (gd : GReg) (ga : GReg) (gb : GReg)
  /-- `PEEK`. R250. Reads a slot's value and presence without blocking or clearing. -/
  | peek (gd : GReg) (gb : GReg) (m : MReg)
  /-- `CPY`. R252. Starts a bulk copy on the copy engine with a completion message. -/
  | cpy (gd : GReg) (ga : GReg) (gb : GReg) (m : MReg) (sc : Scope)
  /-- `CPYF`. R251. Starts a bulk fill with a repeating 64-bit pattern. -/
  | cpyf (gd : GReg) (ga : GReg) (gb : GReg) (m : MReg) (sc : Scope)
  /-- `ARED_FP32`. R255. Enters an FP32 all-reduce of a buffer with the peer card. -/
  | aredFp32 (gd : GReg) (ga : GReg) (gb : GReg) (m : MReg)
  /-- `ARED_BF16`. R255. Enters a BF16 all-reduce of a buffer with the peer card. -/
  | aredBf16 (gd : GReg) (ga : GReg) (gb : GReg) (m : MReg)
  /-- `TLD`. R106. Loads ROWS strided rows into a tile's data or band. -/
  | tld (ta : TReg) (ga : GReg) (gb : GReg) (band : Bool) (ef : Bool)
  /-- `TST`. R106. Stores ROWS strided rows of a tile at retirement. -/
  | tst (ta : TReg) (ga : GReg) (gb : GReg) (band : Bool) (ef : Bool)
  /-- `TGTH`. R106. Gathers tile rows at offsets from an INT32 offset tile. -/
  | tgth (ta : TReg) (tb : TReg) (ga : GReg) (gb : GReg) (band : Bool) (ef : Bool)
  /-- `TSCT`. R106. Scatters tile rows to offsets from an INT32 offset tile. -/
  | tsct (ta : TReg) (tb : TReg) (ga : GReg) (gb : GReg) (band : Bool) (ef : Bool)
  /-- `TSHAPE_SET`. R107. Writes a tile descriptor from a register after validity checks. -/
  | tshapeSet (ta : TReg) (ga : GReg)
  /-- `TSHAPE_READ`. R107. Reads a tile descriptor into a register. -/
  | tshapeRead (ta : TReg) (gb : GReg)
  /-- `TZERO`. R108. Zeroes a tile's data and band, keeping its descriptor. -/
  | tzero (ta : TReg)
  /-- `TMOV`. R108. Copies one tile into another. -/
  | tmov (ta : TReg) (tb : TReg)
  /-- `TMOVS`. R109. Inserts the low bytes of a register into tile data. -/
  | tmovs (ta : TReg) (ga : GReg) (gb : GReg) (size : Size)
  /-- `WLD`. R110. Loads a weight slot image from memory. -/
  | wld (w : TReg) (fmt : Fmt) (ga : GReg) (gb : GReg) (ef : Bool)
  /-- `WLDT`. R111. Fills a weight slot from a 64 × 64-byte tile. -/
  | wldt (w : TReg) (tb : TReg)
  /-- `ACCSV`. R113. Stores an accumulator as a 16 KiB image. -/
  | accsv (a : AReg) (ga : GReg)
  /-- `ACCLD`. R113. Loads an accumulator from a 16 KiB image with a mode. -/
  | accld (a : AReg) (ga : GReg) (mode : AccMode)
  /-- `TKADD`. R320. Builds a task record and sends it to a launch cell's task queue. -/
  | tkadd (gd : GReg) (ga : GReg) (gb : GReg)
  /-- `TKADDB`. R320. Sends a task as a branded release of its scope. -/
  | tkaddb (gd : GReg) (ga : GReg) (gb : GReg) (sc : Scope)
  /-- `RECVT`. R322. Takes or steals a task into the landing area, or returns DONE. -/
  | recvt (gd : GReg) (ga : GReg) (lgw : BitVec 3) (lgh : BitVec 2)
  /-- `TKDONE`. R324. Ends the task in hand and reports to its owning NI. -/
  | tkdone
  /-- `TKSNAP`. R325. Records a snapshot for the task in hand. -/
  | tksnap (ga : GReg) (gb : GReg)
  /-- `LNCH`. R326. Enqueues a launch record from device code and returns a status. -/
  | lnch (gd : GReg) (ga : GReg) (gb : GReg)
  /-- `BAR`. R328. Contributes to the next barrier episode of a group. -/
  | bar (lgw : BitVec 3) (lgh : BitVec 2) (m : MReg)
  /-- `LKACQ`. R331. Requests the lock on a line, status to a mailbox slot. -/
  | lkacq (ga : GReg) (m : MReg)
  /-- `LKTRY`. R331. Requests a line lock without joining the hitch queue. -/
  | lktry (ga : GReg) (m : MReg)
  /-- `LKREL`. R332. Releases a held line lock by hand-off or FREE. -/
  | lkrel (ga : GReg)
  /-- `MRED_ADD_I64`. R328. Contributes an i64 sum to a group reduction episode. -/
  | mredAddI64 (ga : GReg) (lgw : BitVec 3) (lgh : BitVec 2) (m : MReg)
  /-- `MRED_MAX_I64`. R328. Contributes to an i64 max reduction. -/
  | mredMaxI64 (ga : GReg) (lgw : BitVec 3) (lgh : BitVec 2) (m : MReg)
  /-- `MRED_MIN_I64`. R328. Contributes to an i64 min reduction. -/
  | mredMinI64 (ga : GReg) (lgw : BitVec 3) (lgh : BitVec 2) (m : MReg)
  /-- `MRED_AND_I64`. R328. Contributes to an i64 AND reduction. -/
  | mredAndI64 (ga : GReg) (lgw : BitVec 3) (lgh : BitVec 2) (m : MReg)
  /-- `MRED_OR_I64`. R328. Contributes to an i64 OR reduction. -/
  | mredOrI64 (ga : GReg) (lgw : BitVec 3) (lgh : BitVec 2) (m : MReg)
  /-- `MRED_ADD_F32`. R328. Contributes to an f32 sum reduction. -/
  | mredAddF32 (ga : GReg) (lgw : BitVec 3) (lgh : BitVec 2) (m : MReg)
  /-- `MRED_MAX_F32`. R328. Contributes to an f32 max reduction. -/
  | mredMaxF32 (ga : GReg) (lgw : BitVec 3) (lgh : BitVec 2) (m : MReg)
  /-- `MRED_MIN_F32`. R328. Contributes to an f32 min reduction. -/
  | mredMinF32 (ga : GReg) (lgw : BitVec 3) (lgh : BitVec 2) (m : MReg)
  /-- `SYSRD`. R350. Reads a system register at retirement. -/
  | sysrd (gd : GReg) (n : BitVec 10)
  /-- `SYSWR`. R350. Writes a system register at retirement. -/
  | syswr (ga : GReg) (n : BitVec 10)
  /-- `TRAP`. R351. Retires and takes the SYSCALL trap with a code. -/
  | trap (code : BitVec 10)
  /-- `TRET`. R352. Returns from a trap to EPC at the previous level. -/
  | tret
  /-- `XLATI_RANGE`. R360. Removes cached translations of an ASID over a range across the paddock. -/
  | xlatiRange (ga : GReg) (gb : GReg) (p : Fin 8)
  /-- `XLATI_ASID`. R360. Removes all cached translations of an ASID. -/
  | xlatiAsid (ga : GReg) (p : Fin 8)
  /-- `XLATI_ALL`. R360. Removes every cached translation and ASID-cache entry. -/
  | xlatiAll (p : Fin 8)
  /-- `XLATP`. R362. Probes a translation without trapping and reports the result. -/
  | xlatp (gd : GReg) (ga : GReg) (user : Bool) (acc : Access)
  /-- `CTXSV`. R377. Writes the stream's context image to memory. -/
  | ctxsv (ga : GReg)
  /-- `CTXLD`. R378. Checks and loads a whole context image at retirement. -/
  | ctxld (ga : GReg)
  /-- `HALT`. R148. Ends the stream once stores, copies and locks have drained. -/
  | halt
  /-- `NOP_C`. R147. C-form no-operation used as the C-part of a pair. -/
  | nopC
  /-- `BRK`. R416. Halts the core for the debugger or takes the DEBUG trap. -/
  | brk (code : BitVec 10)
  /-- `TRCMARK`. R416. Emits a MARK trace packet with a code and value. -/
  | trcmark (ga : GReg) (code : BitVec 10)
  /-- `PERFRD`. R418. Reads a performance counter at retirement. -/
  | perfrd (gd : GReg) (n : BitVec 10)
  /-- `ADD`. R138. 64-bit integer add. -/
  | add (gd : GReg) (ga : GReg) (gb : GReg)
  /-- `SUB`. R138. 64-bit integer subtract. -/
  | sub (gd : GReg) (ga : GReg) (gb : GReg)
  /-- `MUL`. R138. Low 64 bits of the product. -/
  | mul (gd : GReg) (ga : GReg) (gb : GReg)
  /-- `MULH`. R138. High 64 bits of the signed product. -/
  | mulh (gd : GReg) (ga : GReg) (gb : GReg)
  /-- `MULHU`. R138. High 64 bits of the unsigned product. -/
  | mulhu (gd : GReg) (ga : GReg) (gb : GReg)
  /-- `DIV`. R139. Signed division toward zero that never traps. -/
  | div (gd : GReg) (ga : GReg) (gb : GReg)
  /-- `DIVU`. R139. Unsigned division. -/
  | divu (gd : GReg) (ga : GReg) (gb : GReg)
  /-- `REM`. R139. Signed remainder. -/
  | rem (gd : GReg) (ga : GReg) (gb : GReg)
  /-- `REMU`. R139. Unsigned remainder. -/
  | remu (gd : GReg) (ga : GReg) (gb : GReg)
  /-- `AND`. R138. Bitwise AND. -/
  | and (gd : GReg) (ga : GReg) (gb : GReg)
  /-- `OR`. R138. Bitwise OR. -/
  | or (gd : GReg) (ga : GReg) (gb : GReg)
  /-- `XOR`. R138. Bitwise XOR. -/
  | xor (gd : GReg) (ga : GReg) (gb : GReg)
  /-- `SLL`. R138. Logical left shift by B[5:0]. -/
  | sll (gd : GReg) (ga : GReg) (gb : GReg)
  /-- `SRL`. R138. Logical right shift. -/
  | srl (gd : GReg) (ga : GReg) (gb : GReg)
  /-- `SRA`. R138. Arithmetic right shift. -/
  | sra (gd : GReg) (ga : GReg) (gb : GReg)
  /-- `SLT`. R138. Signed set-less-than. -/
  | slt (gd : GReg) (ga : GReg) (gb : GReg)
  /-- `SLTU`. R138. Unsigned set-less-than. -/
  | sltu (gd : GReg) (ga : GReg) (gb : GReg)
  /-- `MIN`. R138. Signed minimum. -/
  | min (gd : GReg) (ga : GReg) (gb : GReg)
  /-- `MAX`. R138. Signed maximum. -/
  | max (gd : GReg) (ga : GReg) (gb : GReg)
  /-- `MINU`. R138. Unsigned minimum. -/
  | minu (gd : GReg) (ga : GReg) (gb : GReg)
  /-- `MAXU`. R138. Unsigned maximum. -/
  | maxu (gd : GReg) (ga : GReg) (gb : GReg)
  /-- `CLZ`. R138. Counts leading zero bits. -/
  | clz (gd : GReg) (ga : GReg)
  /-- `CTZ`. R138. Counts trailing zero bits. -/
  | ctz (gd : GReg) (ga : GReg)
  /-- `POPC`. R138. Counts one bits. -/
  | popc (gd : GReg) (ga : GReg)
  /-- `SEL`. R138. Selects A if g[gc] is nonzero, else B. -/
  | sel (gd : GReg) (ga : GReg) (gb : GReg) (gc : GReg)
  /-- `ADDI`. R140. Adds a sign-extended immediate. -/
  | addi (gd : GReg) (ga : GReg) (imm : BitVec 12)
  /-- `SLTI`. R140. Signed compare with an immediate. -/
  | slti (gd : GReg) (ga : GReg) (imm : BitVec 12)
  /-- `ANDI`. R140. AND with a zero-extended immediate. -/
  | andi (gd : GReg) (ga : GReg) (imm : BitVec 12)
  /-- `ORI`. R140. OR with a zero-extended immediate. -/
  | ori (gd : GReg) (ga : GReg) (imm : BitVec 12)
  /-- `XORI`. R140. XOR with a zero-extended immediate. -/
  | xori (gd : GReg) (ga : GReg) (imm : BitVec 12)
  /-- `SLLI`. R140. Logical left shift by an immediate. -/
  | slli (gd : GReg) (ga : GReg) (sh : BitVec 6)
  /-- `SRLI`. R140. Logical right shift by an immediate. -/
  | srli (gd : GReg) (ga : GReg) (sh : BitVec 6)
  /-- `SRAI`. R140. Arithmetic right shift by an immediate. -/
  | srai (gd : GReg) (ga : GReg) (sh : BitVec 6)
  /-- `LHI`. R141. Writes a sign-extended 20-bit immediate shifted left by 12. -/
  | lhi (gd : GReg) (imm : BitVec 20)
  /-- `BFXZ`. R142. Extracts a zero-extended bit field. -/
  | bfxz (gd : GReg) (ga : GReg) (pos : BitVec 6) (width : BitVec 7)
  /-- `BFXS`. R142. Extracts a sign-extended bit field. -/
  | bfxs (gd : GReg) (ga : GReg) (pos : BitVec 6) (width : BitVec 7)
  /-- `BFINS`. R142. Inserts low bits of ga into a field of gd. -/
  | bfins (gd : GReg) (ga : GReg) (pos : BitVec 6) (width : BitVec 7)
  /-- `FADD`. R143. FP32 add rounded once. -/
  | fadd (gd : GReg) (ga : GReg) (gb : GReg) (rnd : Rnd)
  /-- `FSUB`. R143. FP32 subtract rounded once. -/
  | fsub (gd : GReg) (ga : GReg) (gb : GReg) (rnd : Rnd)
  /-- `FMUL`. R143. FP32 multiply rounded once. -/
  | fmul (gd : GReg) (ga : GReg) (gb : GReg) (rnd : Rnd)
  /-- `FMIN`. R143. FP32 minimum. -/
  | fmin (gd : GReg) (ga : GReg) (gb : GReg)
  /-- `FMAX`. R143. FP32 maximum. -/
  | fmax (gd : GReg) (ga : GReg) (gb : GReg)
  /-- `FCVTIF`. R143. Converts a signed 64-bit integer to FP32. -/
  | fcvtif (gd : GReg) (ga : GReg) (rnd : Rnd)
  /-- `FCVTFI`. R143. Converts FP32 to a saturated INT32, sign-extended. -/
  | fcvtfi (gd : GReg) (ga : GReg) (rnd : Rnd)
  /-- `FCMP`. R143. Compares FP32 values under a condition, writing 1 or 0. -/
  | fcmp (gd : GReg) (ga : GReg) (gb : GReg) (cond : Cond)
  /-- `FFMA`. R143. Fused FP32 multiply-add rounded once. -/
  | ffma (gd : GReg) (ga : GReg) (gb : GReg) (gc : GReg) (rnd : Rnd)
  /-- `TADD`. R123. Elementwise tile add. -/
  | tadd (td : TReg) (ta : TReg) (tb : TReg) (sat : Bool) (rnd : Rnd)
  /-- `TSUB`. R123. Elementwise tile subtract. -/
  | tsub (td : TReg) (ta : TReg) (tb : TReg) (sat : Bool) (rnd : Rnd)
  /-- `TMUL`. R123. Elementwise tile multiply. -/
  | tmul (td : TReg) (ta : TReg) (tb : TReg) (sat : Bool) (rnd : Rnd)
  /-- `TFMA`. R123. Elementwise fused multiply-add of three tiles. -/
  | tfma (td : TReg) (ta : TReg) (tb : TReg) (tc : TReg) (sat : Bool) (rnd : Rnd)
  /-- `TMAX`. R124. Elementwise maximum. -/
  | tmax (td : TReg) (ta : TReg) (tb : TReg)
  /-- `TMIN`. R124. Elementwise minimum. -/
  | tmin (td : TReg) (ta : TReg) (tb : TReg)
  /-- `TAND`. R126. Bitwise AND of tile bytes. -/
  | tand (td : TReg) (ta : TReg) (tb : TReg)
  /-- `TOR`. R126. Bitwise OR of tile bytes. -/
  | tor (td : TReg) (ta : TReg) (tb : TReg)
  /-- `TXOR`. R126. Bitwise XOR of tile bytes. -/
  | txor (td : TReg) (ta : TReg) (tb : TReg)
  /-- `TSEL`. R127. Selects elements of ta or tb by a mask tile. -/
  | tsel (td : TReg) (ta : TReg) (tb : TReg) (tc : TReg)
  /-- `TCMP`. R127. Writes mask elements from an elementwise comparison. -/
  | tcmp (td : TReg) (ta : TReg) (tb : TReg) (cond : Cond)
  /-- `TSCL`. R123. Multiplies every element by a scalar from a register. -/
  | tscl (td : TReg) (ta : TReg) (gb : GReg) (sat : Bool) (rnd : Rnd)
  /-- `TCLAMP`. R125. Clamps every element between two register bounds. -/
  | tclamp (td : TReg) (ta : TReg) (gb : GReg) (sat : Bool) (rnd : Rnd)
  /-- `TABS`. R124. Elementwise absolute value. -/
  | tabs (td : TReg) (ta : TReg) (sat : Bool)
  /-- `TNEG`. R124. Elementwise negation. -/
  | tneg (td : TReg) (ta : TReg) (sat : Bool)
  /-- `TEXP2`. R128. Elementwise 2^x rounded once. -/
  | texp2 (td : TReg) (ta : TReg) (sat : Bool) (rnd : Rnd)
  /-- `TLOG2`. R128. Elementwise log2 rounded once. -/
  | tlog2 (td : TReg) (ta : TReg) (sat : Bool) (rnd : Rnd)
  /-- `TRCP`. R128. Elementwise reciprocal rounded once. -/
  | trcp (td : TReg) (ta : TReg) (sat : Bool) (rnd : Rnd)
  /-- `TRSQ`. R128. Elementwise reciprocal square root. -/
  | trsq (td : TReg) (ta : TReg) (sat : Bool) (rnd : Rnd)
  /-- `TSQRT`. R128. Elementwise square root. -/
  | tsqrt (td : TReg) (ta : TReg) (sat : Bool) (rnd : Rnd)
  /-- `TCVT`. R129. Converts one part of a tile to a target format. -/
  | tcvt (td : TReg) (ta : TReg) (part : Fin 4) (fmt : Fmt) (sat : Bool) (rnd : Rnd)
  /-- `TQNT`. R130. Quantises source rows to Q4 blocks at a block offset. -/
  | tqnt (td : TReg) (ta : TReg) (blk : Fin 8) (ty : Q4Type) (sat : Bool) (rnd : Rnd)
  /-- `TRED`. R131. Reduces rows or columns along the fixed pairwise tree. -/
  | tred (td : TReg) (ta : TReg) (op : RedOp) (col : Bool) (sat : Bool) (rnd : Rnd)
  /-- `TBC`. R132. Broadcasts a row, a column element or a scalar pattern. -/
  | tbc (td : TReg) (ta : TReg) (gb : GReg) (mode : TbcMode)
  /-- `TTR`. R133. Transposes a tile. -/
  | ttr (td : TReg) (ta : TReg)
  /-- `TIOTA`. R134. Writes base + i × step + c into each element. -/
  | tiota (td : TReg) (ta : TReg) (gb : GReg) (sat : Bool) (rnd : Rnd)
  /-- `TRND`. R135. Fills a tile from generator steps as bits, unit values or a mask. -/
  | trnd (td : TReg) (ta : TReg) (gb : GReg) (mode : TrndMode) (sat : Bool) (rnd : Rnd)
  /-- `MMA`. R114. Accumulates tile A times a weight sub-block into an accumulator. -/
  | mma (a : AReg) (t : TReg) (w : TReg) (q : Fin 4)
  /-- `MMAZ`. R114. Matrix product into a zeroed accumulator, setting its mode. -/
  | mmaz (a : AReg) (t : TReg) (w : TReg) (q : Fin 4)
  /-- `ACCZ`. R112. Zeroes an accumulator and sets its mode. -/
  | accz (a : AReg) (mode : AccMode)
  /-- `DRAIN`. R115. Scales, rounds and writes an accumulator part into a tile, optionally counting into a
  histogram. -/
  | drain (a : AReg) (t : TReg) (gs : GReg) (q : Fin 4) (h : AReg) (he : Bool) (sat : Bool) (rnd : Rnd)
  /-- `HSTRD`. R116. Writes a histogram bank into a tile. -/
  | hstrd (t : TReg) (h : AReg)
  /-- `HSTCLR`. R116. Clears a histogram bank. -/
  | hstclr (h : AReg)
  /-- `XNOP`. R147. X-form no-operation. -/
  | xnop
  /-- `MARK_TABLE_CLEAR`. R23. Every 2^20 cycles the load-squash mark table is cleared. -/
  | markTableClear (core : Nat)
  /-- `HOME_READ`. R171. A load, fill or acquire request is served at the home slice or misses and allocates a W
  line. -/
  | homeRead (i : Nat)
  /-- `HBM_FILL`. R165. A stack read completes, the fill is written and parked requests are served in order. -/
  | hbmFill (line : Nat)
  /-- `FILL_ARRIVAL`. R216. A fill reaches the requesting core and is installed T or U or only satisfies its
  load. -/
  | fillArrival (i : Nat)
  /-- `STORE_ROUND`. R208. A write reaches its home, performs and opens an update round. -/
  | storeRound (i : Nat)
  /-- `UPDATE`. R209. A sharer merges an update, enters H and acknowledges, or drops the line. -/
  | sharerUpdate (i : Nat)
  /-- `UPDATE_ACKNOWLEDGEMENT`. R208. A sharer's acknowledgement arrives at the home; the last one commits the
  round. -/
  | updateAck (i : Nat)
  /-- `COMMIT`. R209. A commit returns a sharer's H line to T. -/
  | roundCommit (i : Nat)
  /-- `DONE`. R210. A done reaches the writer and decrements its outstanding-store counter. -/
  | storeDone (i : Nat)
  /-- `EVICTION_NOTICE`. R212. A replaced T line's notice clears the sharer bit at the home. -/
  | evictionNotice (i : Nat)
  /-- `RECALL`. R213. A recall invalidates a sharer's T copy and is acknowledged. -/
  | recall (i : Nat)
  /-- `GATHER_REQUEST`. R218. A core's first reduction to a line takes it to G and creates a G copy. -/
  | gatherRequest (i : Nat)
  /-- `G_RECALL`. R219. A gatherer sends its G copy home and invalidates it. -/
  | gRecall (i : Nat)
  /-- `GATHERED_COPY`. R219. A recalled G copy arrives home; the last one triggers the combine and return to N. -/
  | gatheredCopy (i : Nat)
  /-- `WAY_REQUEST`. R220. A gatherer asks the home to recall a G line to free a way. -/
  | wayRequest (i : Nat)
  /-- `AMO_AT_HOME`. R234. An AMO reads and writes its bytes as one step at its serialisation point. -/
  | amoAtHome (i : Nat)
  /-- `AMO_REPLY`. R235. An AMO's reply reaches the core, which retires it or takes its fault. -/
  | amoReply (i : Nat)
  /-- `SCRATCHPAD_PORT_ACCESS`. R160. An access arrives at a cell's scratchpad port and is served in arrival
  order. -/
  | scratchpadPortAccess (i : Nat)
  /-- `HOST_AGENT_REQUEST`. R236. A host access or AMO reaches the host agent, which forwards or refuses it. -/
  | hostAgentRequest (i : Nat)
  /-- `HOST_COMPLETION`. R236. A PCIe completion returns to the host agent, ending the access or continuing a
  CAS loop. -/
  | hostCompletion (i : Nat) (r : HostReply)
  /-- `PEER_ACCESS`. R169. An access crossing the bridge is carried by the link engines to the peer card. -/
  | peerAccess (i : Nat)
  /-- `POSTED_REFUSAL`. R446. A refusal of a posted write arrives, releasing its counter entry. -/
  | postedRefusal (i : Nat)
  /-- `MACHINE_CHECK_POSTED`. R446. The asynchronous POSTED machine check is taken at a bundle boundary. -/
  | machineCheckPosted (core : Nat)
  /-- `U_LINE_AGE_EXPIRY`. R216. A U line that has resided 4,096 cycles is invalidated. -/
  | uLineAgeExpiry (core line : Nat)
  /-- `CARRY_FRAME_SHIFT`. R224. When CYC enters a new 4,096-cycle frame the brand carry moves back one frame. -/
  | carryFrameShift (core : Nat)
  /-- `ACCESS_LOCK_TIMEOUT`. R164. A wait on a K line or a full set passes the lock timeout: LOCK-TIMEOUT or
  OVERDUE. -/
  | accessLockTimeout (i : Nat)
  /-- `REQUEST_PROMOTION`. R228. A ready request that has waited 64 cycles at a slice bank is promoted. -/
  | requestPromotion (i : Nat)
  /-- `ESCAPE_CHANNEL_MOVE`. R13. A data packet with no adaptive slot for 16 mesh cycles moves to the escape
  channel. -/
  | escapeChannelMove (i : Nat)
  /-- `SHARED_POINT_PROMOTION`. R297. A request waiting at a router, channel, NI or link queue passes its
  promotion time. -/
  | sharedPointPromotion (i : Nat)
  /-- `COPY_MARK`. R191. A retired copy marks a destination line E at its home, recalling T copies. -/
  | copyMark (job : Nat)
  /-- `COPY_ENGINE_WRITE`. R252. The copy engine writes a destination line, returning it from E to N. -/
  | copyEngineWrite (job line : Nat) (memErr : Bool)
  /-- `COPY_COMPLETION`. R252. When all writes have committed the completion word is sent as a branded message. -/
  | copyCompletion (job : Nat)
  /-- `ARED_MATCH`. R256. The link engines match ARED entries of one tag on both cards; `peerBuf` is the peer's buffer, as byte ranges of its own
  card. -/
  | aredMatch (k : Nat) (peerBuf : List (Nat × Nat)) (peerBf16 : Bool)
  /-- `ARED_CHUNK`. R256. An incoming ARED chunk is added into the local buffer. -/
  | aredChunk (k chunk : Nat) (incoming : BitVec 1024)
  /-- `ARED_COMPLETION`. R257. An ARED's completion is sent once its local writes have committed. -/
  | aredCompletion (k : Nat)
  /-- `RETENTION_REQUEST`. R243. The retention master applies a RETAIN or UNPIN and copies the table to every
  slice. -/
  | retentionRequest (i : Nat)
  /-- `STC_REQUEST`. R358. A CTC miss reaches its STC slice, hits or starts a walk. -/
  | stcRequest (i : Nat)
  /-- `WALK_COMPLETE`. R354. A page walk finishes and returns a translation or a page fault. -/
  | walkComplete (i : Nat)
  /-- `ATS_COMPLETION`. R363. The host's ATS translation completion arrives at the slice. -/
  | atsCompletion (k : Nat) (ans : AtsAnswer)
  /-- `PRI_RESPONSE`. R364. A PRI Page Request response arrives and is matched by index and PASID. -/
  | priResponse (pset index pasid : Nat) (code : PriCode)
  /-- `ATS_INVALIDATION`. R366. An ATS Invalidation Request acts as xlati range and is completed. -/
  | atsInvalidation (vf pasid base len : Nat)
  /-- `XLATI_REMOVAL`. R360. A core or slice removes matching translations and acknowledges. -/
  | xlatiRemoval (i : Nat)
  /-- `BOUNDARY_DROP`. R371. A packet reaching a boundary port without permission is dropped, refused and
  logged. -/
  | boundaryDrop (i cell port : Nat)
  /-- `MESSAGE_ARRIVAL`. R247. A message reaches the receiving NI and enters slot, queue or loft, or is
  discarded. -/
  | messageArrival (i : Nat)
  /-- `LOFT_MOVE`. R247. When the queue has room the NI moves the oldest lofted record into it. -/
  | loftMove (core : Nat) (task : Bool)
  /-- `SEND_RETRY`. R249. A refused message or task is retried every 256 cycles. -/
  | sendRetry (i : Nat)
  /-- `MAILBOX_OVERFLOW`. R397. The asynchronous mailbox-overflow trap is taken when the loft is full. -/
  | mailboxOverflow (core : Nat)
  /-- `TASK_ARRIVAL`. R285. A task reaches the owning NI's queue or loft. -/
  | taskArrival (i : Nat)
  /-- `STEAL_REQUEST`. R287. A thief's request reaches a member NI, which gives up its tail task or nothing. -/
  | stealRequest (i : Nat)
  /-- `STEAL_REPLY`. R287. A steal's answer reaches the thief, which takes the task or continues its ring. -/
  | stealReply (i : Nat)
  /-- `TASK_COMPLETION_REPORT`. R288. A TKDONE report reaches the owning NI, counted for barrier tasks. -/
  | taskCompletionReport (i : Nat)
  /-- `EPISODE_CONTRIBUTION`. R282. A BAR or MRED contribution reaches the combining logic; the last completes
  the episode. -/
  | episodeContribution (i : Nat)
  /-- `QPORT_WRITE`. R269. A host or firmware write to a launch queue's enqueue port; the last word enters the
  record. -/
  | qportWrite (pset queue off : Nat) (value : Word)
  /-- `DISPATCH`. R272. The dispatcher chooses a candidate, tests it and places it or pre-empts for it. -/
  | dispatch (pset : Nat)
  /-- `PREEMPTION_SAVE`. R276. A stream is squashed, drained and saved into its frame, and the cell released. -/
  | preemptionSave (core : Nat)
  /-- `LAUNCH_START`. R275. Once its saves complete a placed launch starts one fresh stream per cell. -/
  | launchStart (launch : Nat)
  /-- `STREAM_RESUME`. R279. A pre-empted launch's streams are restored and the late ring drained. -/
  | streamResume (launch : Nat)
  /-- `LATE_RING_APPEND`. R279. An arrival for a pre-empted stream is appended to its late ring. -/
  | lateRingAppend (i : Nat)
  /-- `SWEEP`. R292. With every live stream idle the dispatcher sums task counts; two matches return DONE. -/
  | sweep (launch : Nat)
  /-- `LAUNCH_END`. R293. When every stream has halted the cells are released or retained and the end word
  written. -/
  | launchEnd (launch : Nat)
  /-- `LNCH_REQUEST`. R326. An LNCH request reaches the dispatcher, which enqueues the record and replies. -/
  | lnchRequest (i : Nat)
  /-- `LOCK_REQUEST`. R306. A LOCK or try request reaches the home and is granted, linked or answered BUSY. -/
  | lockRequest (i : Nat)
  /-- `LINK`. R306. A LINK sets the holder's or waiter's NEXT, or completes a STUB hand-off. -/
  | lockLink (i : Nat)
  /-- `HANDOFF`. R306. The line, lock and brand reach the next waiter, which holds and is granted, or returns
  PASS. -/
  | handoff (i : Nat)
  /-- `MOVED`. R306. MOVED updates HOLDER at the home after a hand-off. -/
  | lockMoved (i : Nat)
  /-- `FREE`. R306. A FREE reaches the home, which frees the line or awaits the LINK. -/
  | lockFree (i : Nat)
  /-- `FREED`. R306. FREED reaches the releaser and frees its STUB entry. -/
  | lockFreed (i : Nat)
  /-- `WITHDRAW`. R308. A WITHDRAW enters the home's withdrawal table or is refused. -/
  | withdraw (i : Nat)
  /-- `PASS`. R308. A returned hand-off makes the home pass the lock over the withdrawn waiter. -/
  | lockPass (i : Nat)
  /-- `WITHDRAW_RETRY`. R308. A refused WITHDRAW is retried every 256 cycles. -/
  | withdrawRetry (i : Nat)
  /-- `LOCK_WAIT_TIMEOUT`. R309. A waiting lock request passes the lock timeout and withdraws with TIMEOUT. -/
  | lockWaitTimeout (core line : Nat)
  /-- `LOCK_SAVED`. R310. SAVED(NEXT) from a pre-empted holder sets SAVED at the home. -/
  | lockSaved (i : Nat)
  /-- `LOCK_RESUME`. R310. A resumed NI's RESUME makes the home send the line and NEXT. -/
  | lockResume (i : Nat)
  /-- `PROBE_TIMER`. R312. A request waiting each 2^16 cycles sends a deadlock probe. -/
  | probeTimer (core line : Nat)
  /-- `PROBE`. R313. A probe is forwarded, dropped, or closes a cycle and withdraws with DEADLOCK. -/
  | probe (i : Nat)
  /-- `QUIESCE`. R375. PCTL.QUIESCE moves a paddock set from RUN to QUIESCING. -/
  | quiesce (pset : Nat)
  /-- `QUIESCE_COMPLETE`. R375. A quiescing set with empty queues and no launch enters STOPPED. -/
  | quiesceComplete (pset : Nat)
  /-- `QUIESCE_LIMIT`. R375. QLIM cycles pass while quiescing; the set returns to RUN with BUSY. -/
  | quiesceLimit (pset : Nat)
  /-- `FLUSH`. R375. PCTL.FLUSH in STOPPED starts the slice recall, write-back and invalidation. -/
  | flush (pset : Nat)
  /-- `FLUSH_COMPLETE`. R375. Every slice has finished its flush and FLUSHING falls. -/
  | flushComplete (pset : Nat)
  /-- `PADDOCK_RESUME`. R369. PCTL.RESUME returns a STOPPED set to RUN. -/
  | paddockResume (pset : Nat)
  /-- `KILL`. R390. A KILL write ends a named launch, optionally writing a core dump. -/
  | kill (pset : Nat) (value : Word)
  /-- `PRICTL_WRITE`. R368. Writing ENABLE clears PRICTL.STOPPED. -/
  | prictlWrite (pset : Nat) (value : Word)
  /-- `LOFTCTL_WRITE`. R397. A supervisor write of SIZE resizes the loft and rewrites held records. -/
  | loftctlWrite (core : Nat) (value : Word)
  /-- `LINK_WINDOW_WRITE`. R374. Firmware writes a link-window entry and the table is sent to the peer. -/
  | linkWindowWrite (entry word : Nat) (value : Word)
  /-- `LINK_WINDOW_TABLE`. R374. A peer's link-window table arrives and replaces the local copy. -/
  | linkWindowTable (table : List LinkWindow)
  /-- `RRCTL_WRITE`. R421. Sets record or replay mode, or is refused while a launch exists. -/
  | rrctlWrite (pset : Nat) (value : Word)
  /-- `REPLAY_DIVERGE`. R423. A logged point's event is held 2^24 cycles or the log ends; DIVERGED is set. -/
  | replayDiverge (pset seg : Nat)
  /-- `HALTREQ`. R411. DCTL.HALTREQ requests a debug halt at the next bundle boundary. -/
  | haltreq (core : Nat)
  /-- `DEBUG_HALT`. R413. The core halts at a bundle boundary and writes its halt image. -/
  | debugHalt (core : Nat)
  /-- `DEBUG_RESUME`. R413. DCTL.RESUME reloads the halt image and continues. -/
  | debugResume (core : Nat)
  /-- `DEBUG_STEP`. R413. DCTL.STEP runs one bundle from the image and halts again. -/
  | debugStep (core : Nat)
  /-- `TRACE_SINK_WRITE`. R419. A trace-class sink write performs and TRCHEAD advances. -/
  | traceSinkWrite (core : Nat) (faulted : Bool)
  /-- `TRACE_OVERFLOW`. R419. When encoder room returns an OVERFLOW packet reports dropped packets. -/
  | traceOverflow (core : Nat)
  /-- `REGISTER_WRITE`. R5. A write to any register with no behaviour of its own. -/
  | registerWrite (by_ : Party) (pa : Nat) (value : Word)
  /-- `SCRUB`. R392. The scrubber reads a word, correcting single-bit and poisoning double-bit errors. -/
  | scrub (loc : ErrorPlace) (double : Bool)
  /-- `CORE_LOSS`. R399. A lost core's stream is restarted elsewhere or its launch killed. -/
  | coreLoss (core : Nat)
  /-- `CORE_LOSS_NI_TIMEOUT`. R399. The lost NI gives no answer within 2^16 cycles and the launch is killed. -/
  | coreLossNiTimeout (core : Nat)
  /-- `ACK_TIMEOUT`. R401. A missing sharer acknowledgement is resent, then the sharer is fenced off. -/
  | ackTimeout (line sharer : Nat)
  /-- `MACHINE_CHECK_FENCE_OFF`. R399. The asynchronous FENCE-OFF machine check is taken by a launch's other
  streams. -/
  | machineCheckFenceOff (core : Nat)
  /-- `BEAT_REPLAY`. R400. A mesh beat failing CRC is replayed from the link's replay buffer. -/
  | beatReplay (cell port : Nat)
  /-- `MESH_LINK_FAILURE`. R400. A mesh link fails after 8 replays or loss of training and its packets are held. -/
  | meshLinkFailure (cell port : Nat)
  /-- `DETOUR_COMPUTED`. R400. The yard controller's detour is ready and held packets leave on the detour
  channel. -/
  | detourComputed (cell port : Nat)
  /-- `UCIE_LANE_LOSS`. R402. A UCIe module loses lanes and retrains at half width or is disabled. -/
  | ucieLaneLoss (module : Nat)
  /-- `UCIE_RETRAIN_DONE`. R402. A UCIe module finishes retraining and resumes traffic. -/
  | ucieRetrainDone (module : Nat) (ok : Bool)
  /-- `DIE_WARM_RESET`. R404. A die warm reset kills its launches, writes back, and refuses requests. -/
  | dieWarmReset (die : Fin 2)
  /-- `DIE_READMIT`. R404. The reset die retrains, self-tests and is readmitted after feature acceptance. -/
  | dieReadmit (die : Fin 2) (failed : List Nat)
  /-- `POWER_CONTROL`. R441. Each 1 ms the yard controllers adjust quarter clocks and MMA spacing to the cap. -/
  | powerControl (quarter : Fin 4) (overCap : Bool)
  /-- `PWRCTL_CAP`. R441. A write of PWRCTL.CAP selects 600 W or 450 W. -/
  | pwrctlCap (value : Word)
  /-- `THERMAL_THROTTLE`. R441. Junction temperature above 95 °C lowers the clocks. -/
  | thermalThrottle (quarter : Fin 4)
  /-- `THERMAL_SHUTDOWN`. R441. At 110 °C both dies are held in reset. -/
  | thermalShutdown
  /-- `AGEING_REPLAN`. R442. Every 2^30 cycles voltages and ceilings are re-planned from the delay monitors. -/
  | ageingReplan (quarter : Fin 4) (raise : BitVec 16) (limitHit : Bool)
  /-- `CARD_RESET`. R433. The boot ROM starts verifying the flash image. -/
  | cardReset
  /-- `PERST_DEASSERT`. R433. Deassertion of PERST# starts the PCI Express LTSSM. -/
  | perstDeassert
  /-- `IMAGE_VERIFIED`. R433. Image verification ends, starting training and self-test or entering recovery. -/
  | imageVerified (slotA slotB : Bool)
  /-- `SELF_TEST_COMPLETE`. R433. Training and self-test end and the feature words are published. -/
  | selfTestComplete (failed : List Nat)
  /-- `CONFIGURATION_REQUEST`. R433. A PCIe Configuration Request, answered with CRS until stage 2 ends. -/
  | configurationRequest
  /-- `FEATACC_WRITE`. R436. The driver's answer fixes the accepted feature set and lets start-up continue. -/
  | feataccWrite (value : Word)
  /-- `SAHAX_TRAINING`. R440. The Sahax Link trains, card numbers settle and windows are exchanged. -/
  | sahaxTraining (peerId : Word)
  /-- `SAHAX_TRAIN_TIMEOUT`. R440. No link within 50 ms; the card runs alone as card 0. -/
  | sahaxTrainTimeout
  /-- `PADDOCK_ACTIVATION`. R433. The configured paddock sets become active at the end of start-up. -/
  | paddockActivation (config : List Nat)
  /-- `HOST_BAR2_ACCESS`. R438. A host access through VF BAR2 is served at its serialisation point or refused. -/
  | hostBar2Access (bar : HostBar) (off : Nat) (size : Nat) (write : Option Nat)
  /-- `SAHAX_FLIT`. R439. A Sahax flit arrives, is corrected and checked, and delivered or NAKed. -/
  | sahaxFlit (seq : BitVec 12) (ack : BitVec 12) (bad : Bool) (body : PeerRequest)
  /-- `SAHAX_NAK`. R440. A NAK makes the sender replay; 16 replays retrain the link. -/
  | sahaxNak (seq : BitVec 12)
  /-- `SAHAX_LINK_LOSS`. R440. A retrain exceeding 1 ms or a failed identity check loses the link. -/
  | sahaxLinkLoss
  /-- `SAHAX_RETRAIN_ATTEMPT`. R440. Every 100 ms a lost link retrains and is readmitted only with the same
  peer. -/
  | sahaxRetrainAttempt (peerId : Option Word)
  /-- `SAHAX_RETRAIN_COMPLETE`. R440. A Sahax Link retrain started by sixteen replays of one flit completes
  within 1 ms and the link carries traffic again. -/
  | sahaxRetrainComplete
  /-- `HBM_WRITE_COMPLETE`. R241. A write of an L2 line to HBM completes at the stack, so a CLWB performs and
  leaves the store counter, and a write-back finishes. -/
  | hbmWriteComplete (i : Nat)
  deriving DecidableEq, Repr

end Sys2Proof
end

