-- ==== Sys2Proof/WellFormed.lean ====
section
/-! DEFINITION. Well-formed instructions: the checks of an encoding that its fields' types do not make (R44 to R46). A word
whose fields fail one raises the illegal-instruction trap, kind RESERVED (R51). -/
namespace Sys2Proof

/-- R46: with ordering .rlx the scope field must be zero. -/
def ordOk (o : Ord) (s : Scope) : Bool := o != .rlx || s == .core
/-- R46, CM loads: .rlx or .acq. -/
def loadOrdOk (o : Ord) (s : Scope) : Bool := (o == .rlx || o == .acq) && ordOk o s
/-- R46, CM stores and reductions: .rlx or .rel. -/
def storeOrdOk (o : Ord) (s : Scope) : Bool := (o == .rlx || o == .rel) && ordOk o s
/-- R46, RELB, ACQB, SENDB and TKADDB: .dev or .sys. -/
def wideScope (s : Scope) : Bool := s == .dev || s == .sys
/-- R349: the numbers that name a system register. -/
def sysNumbers : List Nat := [0x000, 0x001, 0x002, 0x003, 0x008, 0x010, 0x011, 0x012, 0x013, 0x014, 0x018, 0x020, 0x021, 0x022]
/-- R349: the number is listed. -/
def sysNumberListed (n : BitVec 10) : Bool := sysNumbers.contains n.toNat

/-- Whether the fields of an instruction pass every encoding check of R44 to R48 (R237 to R255, R319, R349, R362, R416).
A step with no word has no encoding and passes. -/
def Instr.wf : Instr → Bool
  | .beq _ _ _ => true
  | .bne _ _ _ => true
  | .blt _ _ _ => true
  | .bge _ _ _ => true
  | .bltu _ _ _ => true
  | .bgeu _ _ _ => true
  | .j _ => true
  | .jal _ _ => true
  | .jalr _ _ _ => true
  | .ldb _ _ _ => true
  | .ldbz _ _ _ => true
  | .ldh _ _ _ => true
  | .ldhz _ _ _ => true
  | .ldw _ _ _ => true
  | .ldwz _ _ _ => true
  | .ldd _ _ _ => true
  | .stb _ _ _ => true
  | .sth _ _ _ => true
  | .stw _ _ _ => true
  | .std _ _ _ => true
  | .ldbOrd _ _ ord sc => loadOrdOk ord sc
  | .ldbzOrd _ _ ord sc => loadOrdOk ord sc
  | .ldhOrd _ _ ord sc => loadOrdOk ord sc
  | .ldhzOrd _ _ ord sc => loadOrdOk ord sc
  | .ldwOrd _ _ ord sc => loadOrdOk ord sc
  | .ldwzOrd _ _ ord sc => loadOrdOk ord sc
  | .lddOrd _ _ ord sc => loadOrdOk ord sc
  | .stbOrd _ _ ord sc => storeOrdOk ord sc
  | .sthOrd _ _ ord sc => storeOrdOk ord sc
  | .stwOrd _ _ ord sc => storeOrdOk ord sc
  | .stdOrd _ _ ord sc => storeOrdOk ord sc
  | .amoaddW _ _ _ ord sc => ordOk ord sc
  | .amoandW _ _ _ ord sc => ordOk ord sc
  | .amoorW _ _ _ ord sc => ordOk ord sc
  | .amoxorW _ _ _ ord sc => ordOk ord sc
  | .amominW _ _ _ ord sc => ordOk ord sc
  | .amomaxW _ _ _ ord sc => ordOk ord sc
  | .amominuW _ _ _ ord sc => ordOk ord sc
  | .amomaxuW _ _ _ ord sc => ordOk ord sc
  | .amoswpW _ _ _ ord sc => ordOk ord sc
  | .amocasW _ _ _ ord sc => ordOk ord sc
  | .amofaddW _ _ _ ord sc => ordOk ord sc
  | .amoaddD _ _ _ ord sc => ordOk ord sc
  | .amoandD _ _ _ ord sc => ordOk ord sc
  | .amoorD _ _ _ ord sc => ordOk ord sc
  | .amoxorD _ _ _ ord sc => ordOk ord sc
  | .amominD _ _ _ ord sc => ordOk ord sc
  | .amomaxD _ _ _ ord sc => ordOk ord sc
  | .amominuD _ _ _ ord sc => ordOk ord sc
  | .amomaxuD _ _ _ ord sc => ordOk ord sc
  | .amoswpD _ _ _ ord sc => ordOk ord sc
  | .amocasD _ _ _ ord sc => ordOk ord sc
  | .amofaddD _ _ _ ord sc => ordOk ord sc
  | .redaddW _ _ ord sc => storeOrdOk ord sc
  | .redaddD _ _ ord sc => storeOrdOk ord sc
  | .redfaddW _ _ ord sc => storeOrdOk ord sc
  | .redmaxW _ _ ord sc => storeOrdOk ord sc
  | .redmaxD _ _ ord sc => storeOrdOk ord sc
  | .fence set _ => set.l || set.s || set.e
  | .relb _ _ sc => wideScope sc
  | .acqb _ _ sc => wideScope sc
  | .clwb _ => true
  | .clinv _ => true
  | .pref _ _ _ _ => true
  | .retain _ _ _ _ => true
  | .unpin _ _ => true
  | .send _ _ _ => true
  | .sendb _ _ _ sc => wideScope sc
  | .recv _ _ => true
  | .recvany gd _ gb => gb == 0 || gd != gb
  | .peek gd gb _ => gb == 0 || gd != gb
  | .cpy _ _ _ _ _ => true
  | .cpyf _ _ _ _ _ => true
  | .aredFp32 _ _ _ _ => true
  | .aredBf16 _ _ _ _ => true
  | .tld _ _ _ _ _ => true
  | .tst _ _ _ _ _ => true
  | .tgth _ _ _ _ _ _ => true
  | .tsct _ _ _ _ _ _ => true
  | .tshapeSet _ _ => true
  | .tshapeRead _ _ => true
  | .tzero _ => true
  | .tmov _ _ => true
  | .tmovs _ _ _ _ => true
  | .wld _ fmt _ gb _ => fmt != .fp32 && fmt != .int32 && (fmt == .q4 || gb == 0)
  | .wldt _ _ => true
  | .accsv _ _ => true
  | .accld _ _ _ => true
  | .tkadd _ _ _ => true
  | .tkaddb _ _ _ sc => wideScope sc
  | .recvt _ _ lgw _ => lgw.toNat ≤ 4
  | .tkdone => true
  | .tksnap _ _ => true
  | .lnch _ _ _ => true
  | .bar lgw _ _ => lgw.toNat ≤ 4
  | .lkacq _ _ => true
  | .lktry _ _ => true
  | .lkrel _ => true
  | .mredAddI64 _ lgw _ _ => lgw.toNat ≤ 4
  | .mredMaxI64 _ lgw _ _ => lgw.toNat ≤ 4
  | .mredMinI64 _ lgw _ _ => lgw.toNat ≤ 4
  | .mredAndI64 _ lgw _ _ => lgw.toNat ≤ 4
  | .mredOrI64 _ lgw _ _ => lgw.toNat ≤ 4
  | .mredAddF32 _ lgw _ _ => lgw.toNat ≤ 4
  | .mredMaxF32 _ lgw _ _ => lgw.toNat ≤ 4
  | .mredMinF32 _ lgw _ _ => lgw.toNat ≤ 4
  | .sysrd _ n => sysNumberListed n
  | .syswr _ n => sysNumberListed n
  | .trap _ => true
  | .tret => true
  | .xlatiRange _ _ _ => true
  | .xlatiAsid _ _ => true
  | .xlatiAll _ => true
  | .xlatp _ _ _ _ => true
  | .ctxsv _ => true
  | .ctxld _ => true
  | .halt => true
  | .nopC => true
  | .brk _ => true
  | .trcmark _ _ => true
  | .perfrd _ n => n.toNat < 15
  | .add _ _ _ => true
  | .sub _ _ _ => true
  | .mul _ _ _ => true
  | .mulh _ _ _ => true
  | .mulhu _ _ _ => true
  | .div _ _ _ => true
  | .divu _ _ _ => true
  | .rem _ _ _ => true
  | .remu _ _ _ => true
  | .and _ _ _ => true
  | .or _ _ _ => true
  | .xor _ _ _ => true
  | .sll _ _ _ => true
  | .srl _ _ _ => true
  | .sra _ _ _ => true
  | .slt _ _ _ => true
  | .sltu _ _ _ => true
  | .min _ _ _ => true
  | .max _ _ _ => true
  | .minu _ _ _ => true
  | .maxu _ _ _ => true
  | .clz _ _ => true
  | .ctz _ _ => true
  | .popc _ _ => true
  | .sel _ _ _ _ => true
  | .addi _ _ _ => true
  | .slti _ _ _ => true
  | .andi _ _ _ => true
  | .ori _ _ _ => true
  | .xori _ _ _ => true
  | .slli _ _ _ => true
  | .srli _ _ _ => true
  | .srai _ _ _ => true
  | .lhi _ _ => true
  | .bfxz _ _ _ width => width.toNat ≤ 64
  | .bfxs _ _ _ width => width.toNat ≤ 64
  | .bfins _ _ _ width => width.toNat ≤ 64
  | .fadd _ _ _ _ => true
  | .fsub _ _ _ _ => true
  | .fmul _ _ _ _ => true
  | .fmin _ _ _ => true
  | .fmax _ _ _ => true
  | .fcvtif _ _ _ => true
  | .fcvtfi _ _ _ => true
  | .fcmp _ _ _ _ => true
  | .ffma _ _ _ _ _ => true
  | .tadd _ _ _ _ _ => true
  | .tsub _ _ _ _ _ => true
  | .tmul _ _ _ _ _ => true
  | .tfma _ _ _ _ _ _ => true
  | .tmax _ _ _ => true
  | .tmin _ _ _ => true
  | .tand _ _ _ => true
  | .tor _ _ _ => true
  | .txor _ _ _ => true
  | .tsel _ _ _ _ => true
  | .tcmp _ _ _ _ => true
  | .tscl _ _ _ _ _ => true
  | .tclamp _ _ _ _ _ => true
  | .tabs _ _ _ => true
  | .tneg _ _ _ => true
  | .texp2 _ _ _ _ => true
  | .tlog2 _ _ _ _ => true
  | .trcp _ _ _ _ => true
  | .trsq _ _ _ _ => true
  | .tsqrt _ _ _ _ => true
  | .tcvt _ _ _ _ _ _ => true
  | .tqnt _ _ _ _ _ _ => true
  | .tred _ _ _ _ _ _ => true
  | .tbc _ _ _ _ => true
  | .ttr _ _ => true
  | .tiota _ _ _ _ _ => true
  | .trnd _ _ gb mode _ rnd => rnd != .sr && (mode == .mask || gb == 0)
  | .mma _ _ _ _ => true
  | .mmaz _ _ _ _ => true
  | .accz _ _ => true
  | .drain _ _ _ _ h he _ _ => he || h == 0
  | .hstrd _ _ => true
  | .hstclr _ => true
  | .xnop => true
  | .markTableClear _ => true
  | .homeRead _ => true
  | .hbmFill _ => true
  | .fillArrival _ => true
  | .storeRound _ => true
  | .sharerUpdate _ => true
  | .updateAck _ => true
  | .roundCommit _ => true
  | .storeDone _ => true
  | .evictionNotice _ => true
  | .recall _ => true
  | .gatherRequest _ => true
  | .gRecall _ => true
  | .gatheredCopy _ => true
  | .wayRequest _ => true
  | .amoAtHome _ => true
  | .amoReply _ => true
  | .scratchpadPortAccess _ => true
  | .hostAgentRequest _ => true
  | .hostCompletion _ _ => true
  | .peerAccess _ => true
  | .postedRefusal _ => true
  | .machineCheckPosted _ => true
  | .uLineAgeExpiry _ _ => true
  | .carryFrameShift _ => true
  | .accessLockTimeout _ => true
  | .requestPromotion _ => true
  | .escapeChannelMove _ => true
  | .sharedPointPromotion _ => true
  | .copyMark _ => true
  | .copyEngineWrite _ _ _ => true
  | .copyCompletion _ => true
  | .aredMatch _ _ _ => true
  | .aredChunk _ _ _ => true
  | .aredCompletion _ => true
  | .retentionRequest _ => true
  | .stcRequest _ => true
  | .walkComplete _ => true
  | .atsCompletion _ _ => true
  | .priResponse _ _ _ _ => true
  | .atsInvalidation _ _ _ _ => true
  | .xlatiRemoval _ => true
  | .boundaryDrop _ _ _ => true
  | .messageArrival _ => true
  | .loftMove _ _ => true
  | .sendRetry _ => true
  | .mailboxOverflow _ => true
  | .taskArrival _ => true
  | .stealRequest _ => true
  | .stealReply _ => true
  | .taskCompletionReport _ => true
  | .episodeContribution _ => true
  | .qportWrite _ _ _ _ => true
  | .dispatch _ => true
  | .preemptionSave _ => true
  | .launchStart _ => true
  | .streamResume _ => true
  | .lateRingAppend _ => true
  | .sweep _ => true
  | .launchEnd _ => true
  | .lnchRequest _ => true
  | .lockRequest _ => true
  | .lockLink _ => true
  | .handoff _ => true
  | .lockMoved _ => true
  | .lockFree _ => true
  | .lockFreed _ => true
  | .withdraw _ => true
  | .lockPass _ => true
  | .withdrawRetry _ => true
  | .lockWaitTimeout _ _ => true
  | .lockSaved _ => true
  | .lockResume _ => true
  | .probeTimer _ _ => true
  | .probe _ => true
  | .quiesce _ => true
  | .quiesceComplete _ => true
  | .quiesceLimit _ => true
  | .flush _ => true
  | .flushComplete _ => true
  | .paddockResume _ => true
  | .kill _ _ => true
  | .prictlWrite _ _ => true
  | .loftctlWrite _ _ => true
  | .linkWindowWrite _ _ _ => true
  | .linkWindowTable _ => true
  | .rrctlWrite _ _ => true
  | .replayDiverge _ _ => true
  | .haltreq _ => true
  | .debugHalt _ => true
  | .debugResume _ => true
  | .debugStep _ => true
  | .traceSinkWrite _ _ => true
  | .traceOverflow _ => true
  | .registerWrite _ _ _ => true
  | .scrub _ _ => true
  | .coreLoss _ => true
  | .coreLossNiTimeout _ => true
  | .ackTimeout _ _ => true
  | .machineCheckFenceOff _ => true
  | .beatReplay _ _ => true
  | .meshLinkFailure _ _ => true
  | .detourComputed _ _ => true
  | .ucieLaneLoss _ => true
  | .ucieRetrainDone _ _ => true
  | .dieWarmReset _ => true
  | .dieReadmit _ _ => true
  | .powerControl _ _ => true
  | .pwrctlCap _ => true
  | .thermalThrottle _ => true
  | .thermalShutdown => true
  | .ageingReplan _ _ _ => true
  | .cardReset => true
  | .perstDeassert => true
  | .imageVerified _ _ => true
  | .selfTestComplete _ => true
  | .configurationRequest => true
  | .feataccWrite _ => true
  | .sahaxTraining _ => true
  | .sahaxTrainTimeout => true
  | .paddockActivation _ => true
  | .hostBar2Access _ _ _ _ => true
  | .sahaxFlit _ _ _ _ => true
  | .sahaxNak _ => true
  | .sahaxLinkLoss => true
  | .sahaxRetrainAttempt _ => true
  | .sahaxRetrainComplete => true
  | .hbmWriteComplete _ => true

end Sys2Proof
end

