-- ==== Sys2Proof/Decode.lean ====
section
/-! DEFINITION. Decoding: from a 32-bit word to an instruction or the kind of the illegal-instruction trap (02 R38 to R53),
and the encoder, written from the same tables. -/
namespace Sys2Proof

/-- The n bits of w from bit lo up. -/
def fld (w lo n : Nat) : Nat := w / 2 ^ lo % 2 ^ n

/-- R46. -/
def Ord.ofCode : Nat → Ord | 0 => .rlx | 1 => .acq | 2 => .rel | _ => .ar
/-- R46. -/
def Ord.code : Ord → Nat | .rlx => 0 | .acq => 1 | .rel => 2 | .ar => 3
/-- R46. -/
def Scope.ofCode : Nat → Scope | 0 => .core | 1 => .die | 2 => .dev | _ => .sys
/-- R46. -/
def Scope.code : Scope → Nat | .core => 0 | .die => 1 | .dev => 2 | .sys => 3
/-- R46: codes 5 to 7 are reserved. -/
def Rnd.ofCode : Nat → Option Rnd
  | 0 => some .rne | 1 => some .rtz | 2 => some .rdn | 3 => some .rup | 4 => some .sr | _ => none
/-- R46. -/
def Rnd.code : Rnd → Nat | .rne => 0 | .rtz => 1 | .rdn => 2 | .rup => 3 | .sr => 4
/-- R109. -/
def Size.ofCode : Nat → Size | 0 => .b | 1 => .h | 2 => .w | _ => .d
/-- R109. -/
def Size.code : Size → Nat | .b => 0 | .h => 1 | .w => 2 | .d => 3
/-- R48: codes 8 to 15 are reserved in an encoding. -/
def Fmt.ofCode : Nat → Option Fmt
  | 0 => some .fp32 | 1 => some .bf16 | 2 => some .fp16 | 3 => some .e4m3 | 4 => some .e5m2 | 5 => some .int8
  | 6 => some .int32 | 7 => some .q4 | _ => none
/-- R48. -/
def Fmt.code : Fmt → Nat
  | .fp32 => 0 | .bf16 => 1 | .fp16 => 2 | .e4m3 => 3 | .e5m2 => 4 | .int8 => 5 | .int32 => 6 | .q4 => 7
/-- R112, R113. -/
def AccMode.ofCode : Nat → AccMode | 0 => .fp32 | _ => .int32
/-- R112, R113. -/
def AccMode.code : AccMode → Nat | .fp32 => 0 | .int32 => 1
/-- R362: 0b11 is reserved. -/
def Access.ofCode : Nat → Option Access | 0 => some .read | 1 => some .write | 2 => some .exec | _ => none
/-- R362. -/
def Access.code : Access → Nat | .read => 0 | .write => 1 | .exec => 2
/-- R127. -/
def Cond.ofCode : Nat → Cond
  | 0 => .eq | 1 => .ne | 2 => .lt | 3 => .le | 4 => .gt | 5 => .ge | 6 => .un | _ => .ord
/-- R127. -/
def Cond.code : Cond → Nat
  | .eq => 0 | .ne => 1 | .lt => 2 | .le => 3 | .gt => 4 | .ge => 5 | .un => 6 | .ord => 7
/-- R131: 0b11 is reserved. -/
def RedOp.ofCode : Nat → Option RedOp | 0 => some .add | 1 => some .max | 2 => some .min | _ => none
/-- R131. -/
def RedOp.code : RedOp → Nat | .add => 0 | .max => 1 | .min => 2
/-- R132: 0b11 is reserved. -/
def TbcMode.ofCode : Nat → Option TbcMode | 0 => some .row | 1 => some .col | 2 => some .scalar | _ => none
/-- R132. -/
def TbcMode.code : TbcMode → Nat | .row => 0 | .col => 1 | .scalar => 2
/-- R135: 0b11 is reserved. -/
def TrndMode.ofCode : Nat → Option TrndMode | 0 => some .bits | 1 => some .unit | 2 => some .mask | _ => none
/-- R135. -/
def TrndMode.code : TrndMode → Nat | .bits => 0 | .unit => 1 | .mask => 2
/-- R65. -/
def Q4Type.ofCode : Nat → Q4Type | 0 => .t0 | 1 => .t1 | 2 => .t2 | _ => .t3
/-- R65. -/
def Q4Type.code : Q4Type → Nat | .t0 => 0 | .t1 => 1 | .t2 => 2 | .t3 => 3
/-- R238: bit 0 is l, bit 1 is s and bit 2 is e. -/
def FenceSet.ofCode (n : Nat) : FenceSet := { l := n % 2 == 1, s := n / 2 % 2 == 1, e := n / 4 % 2 == 1 }
/-- R238. -/
def FenceSet.code (f : FenceSet) : Nat := f.l.toNat + 2 * f.s.toNat + 4 * f.e.toNat


/-- Major 0x01 (R144 and R49, R50). -/
def decBr (w : Nat) : Option (Option Instr) :=
  match fld w 12 3 with
  | 0 => some (some (.beq (Fin.ofNat 32 (fld w 20 5)) (Fin.ofNat 32 (fld w 15 5)) (BitVec.ofNat 12 (fld w 0 12))))
  | 1 => some (some (.bne (Fin.ofNat 32 (fld w 20 5)) (Fin.ofNat 32 (fld w 15 5)) (BitVec.ofNat 12 (fld w 0 12))))
  | 4 => some (some (.blt (Fin.ofNat 32 (fld w 20 5)) (Fin.ofNat 32 (fld w 15 5)) (BitVec.ofNat 12 (fld w 0 12))))
  | 5 => some (some (.bge (Fin.ofNat 32 (fld w 20 5)) (Fin.ofNat 32 (fld w 15 5)) (BitVec.ofNat 12 (fld w 0 12))))
  | 6 => some (some (.bltu (Fin.ofNat 32 (fld w 20 5)) (Fin.ofNat 32 (fld w 15 5)) (BitVec.ofNat 12 (fld w 0 12))))
  | 7 => some (some (.bgeu (Fin.ofNat 32 (fld w 20 5)) (Fin.ofNat 32 (fld w 15 5)) (BitVec.ofNat 12 (fld w 0 12))))
  | _ => none

/-- Major 0x02 (R145 and R49, R50). -/
def decJ (w : Nat) : Option (Option Instr) :=
  some (some (.j (BitVec.ofNat 25 (fld w 0 25))))

/-- Major 0x03 (R145 and R49, R50). -/
def decJal (w : Nat) : Option (Option Instr) :=
  some (some (.jal (Fin.ofNat 32 (fld w 20 5)) (BitVec.ofNat 20 (fld w 0 20))))

/-- Major 0x04 (R145 and R49, R50). -/
def decJalr (w : Nat) : Option (Option Instr) :=
  some (some (.jalr (Fin.ofNat 32 (fld w 20 5)) (Fin.ofNat 32 (fld w 15 5)) (BitVec.ofNat 15 (fld w 0 15))))

/-- Major 0x05 (R231 and R49, R50). -/
def decLdi (w : Nat) : Option (Option Instr) :=
  match fld w 12 3 with
  | 0 => some (some (.ldb (Fin.ofNat 32 (fld w 20 5)) (Fin.ofNat 32 (fld w 15 5)) (BitVec.ofNat 12 (fld w 0 12))))
  | 1 => some (some (.ldbz (Fin.ofNat 32 (fld w 20 5)) (Fin.ofNat 32 (fld w 15 5)) (BitVec.ofNat 12 (fld w 0 12))))
  | 2 => some (some (.ldh (Fin.ofNat 32 (fld w 20 5)) (Fin.ofNat 32 (fld w 15 5)) (BitVec.ofNat 12 (fld w 0 12))))
  | 3 => some (some (.ldhz (Fin.ofNat 32 (fld w 20 5)) (Fin.ofNat 32 (fld w 15 5)) (BitVec.ofNat 12 (fld w 0 12))))
  | 4 => some (some (.ldw (Fin.ofNat 32 (fld w 20 5)) (Fin.ofNat 32 (fld w 15 5)) (BitVec.ofNat 12 (fld w 0 12))))
  | 5 => some (some (.ldwz (Fin.ofNat 32 (fld w 20 5)) (Fin.ofNat 32 (fld w 15 5)) (BitVec.ofNat 12 (fld w 0 12))))
  | 6 => some (some (.ldd (Fin.ofNat 32 (fld w 20 5)) (Fin.ofNat 32 (fld w 15 5)) (BitVec.ofNat 12 (fld w 0 12))))
  | _ => none

/-- Major 0x06 (R231 and R49, R50). -/
def decSti (w : Nat) : Option (Option Instr) :=
  match fld w 12 3 with
  | 0 => some (some (.stb (Fin.ofNat 32 (fld w 20 5)) (Fin.ofNat 32 (fld w 15 5)) (BitVec.ofNat 12 (fld w 0 12))))
  | 1 => some (some (.sth (Fin.ofNat 32 (fld w 20 5)) (Fin.ofNat 32 (fld w 15 5)) (BitVec.ofNat 12 (fld w 0 12))))
  | 2 => some (some (.stw (Fin.ofNat 32 (fld w 20 5)) (Fin.ofNat 32 (fld w 15 5)) (BitVec.ofNat 12 (fld w 0 12))))
  | 3 => some (some (.std (Fin.ofNat 32 (fld w 20 5)) (Fin.ofNat 32 (fld w 15 5)) (BitVec.ofNat 12 (fld w 0 12))))
  | _ => none

/-- Major 0x07 (R231 and R49, R50). -/
def decMem (w : Nat) : Option (Option Instr) :=
  match fld w 0 6 with
  | 0 => some (if fld w 10 5 == 0 then some (.ldbOrd (Fin.ofNat 32 (fld w 20 5)) (Fin.ofNat 32 (fld w 15 5)) (Ord.ofCode (fld w 8 2)) (Scope.ofCode (fld w 6 2))) else none)
  | 1 => some (if fld w 10 5 == 0 then some (.ldbzOrd (Fin.ofNat 32 (fld w 20 5)) (Fin.ofNat 32 (fld w 15 5)) (Ord.ofCode (fld w 8 2)) (Scope.ofCode (fld w 6 2))) else none)
  | 2 => some (if fld w 10 5 == 0 then some (.ldhOrd (Fin.ofNat 32 (fld w 20 5)) (Fin.ofNat 32 (fld w 15 5)) (Ord.ofCode (fld w 8 2)) (Scope.ofCode (fld w 6 2))) else none)
  | 3 => some (if fld w 10 5 == 0 then some (.ldhzOrd (Fin.ofNat 32 (fld w 20 5)) (Fin.ofNat 32 (fld w 15 5)) (Ord.ofCode (fld w 8 2)) (Scope.ofCode (fld w 6 2))) else none)
  | 4 => some (if fld w 10 5 == 0 then some (.ldwOrd (Fin.ofNat 32 (fld w 20 5)) (Fin.ofNat 32 (fld w 15 5)) (Ord.ofCode (fld w 8 2)) (Scope.ofCode (fld w 6 2))) else none)
  | 5 => some (if fld w 10 5 == 0 then some (.ldwzOrd (Fin.ofNat 32 (fld w 20 5)) (Fin.ofNat 32 (fld w 15 5)) (Ord.ofCode (fld w 8 2)) (Scope.ofCode (fld w 6 2))) else none)
  | 6 => some (if fld w 10 5 == 0 then some (.lddOrd (Fin.ofNat 32 (fld w 20 5)) (Fin.ofNat 32 (fld w 15 5)) (Ord.ofCode (fld w 8 2)) (Scope.ofCode (fld w 6 2))) else none)
  | 8 => some (if fld w 20 5 == 0 then some (.stbOrd (Fin.ofNat 32 (fld w 15 5)) (Fin.ofNat 32 (fld w 10 5)) (Ord.ofCode (fld w 8 2)) (Scope.ofCode (fld w 6 2))) else none)
  | 9 => some (if fld w 20 5 == 0 then some (.sthOrd (Fin.ofNat 32 (fld w 15 5)) (Fin.ofNat 32 (fld w 10 5)) (Ord.ofCode (fld w 8 2)) (Scope.ofCode (fld w 6 2))) else none)
  | 10 => some (if fld w 20 5 == 0 then some (.stwOrd (Fin.ofNat 32 (fld w 15 5)) (Fin.ofNat 32 (fld w 10 5)) (Ord.ofCode (fld w 8 2)) (Scope.ofCode (fld w 6 2))) else none)
  | 11 => some (if fld w 20 5 == 0 then some (.stdOrd (Fin.ofNat 32 (fld w 15 5)) (Fin.ofNat 32 (fld w 10 5)) (Ord.ofCode (fld w 8 2)) (Scope.ofCode (fld w 6 2))) else none)
  | 16 => some (some (.amoaddW (Fin.ofNat 32 (fld w 20 5)) (Fin.ofNat 32 (fld w 15 5)) (Fin.ofNat 32 (fld w 10 5)) (Ord.ofCode (fld w 8 2)) (Scope.ofCode (fld w 6 2))))
  | 17 => some (some (.amoandW (Fin.ofNat 32 (fld w 20 5)) (Fin.ofNat 32 (fld w 15 5)) (Fin.ofNat 32 (fld w 10 5)) (Ord.ofCode (fld w 8 2)) (Scope.ofCode (fld w 6 2))))
  | 18 => some (some (.amoorW (Fin.ofNat 32 (fld w 20 5)) (Fin.ofNat 32 (fld w 15 5)) (Fin.ofNat 32 (fld w 10 5)) (Ord.ofCode (fld w 8 2)) (Scope.ofCode (fld w 6 2))))
  | 19 => some (some (.amoxorW (Fin.ofNat 32 (fld w 20 5)) (Fin.ofNat 32 (fld w 15 5)) (Fin.ofNat 32 (fld w 10 5)) (Ord.ofCode (fld w 8 2)) (Scope.ofCode (fld w 6 2))))
  | 20 => some (some (.amominW (Fin.ofNat 32 (fld w 20 5)) (Fin.ofNat 32 (fld w 15 5)) (Fin.ofNat 32 (fld w 10 5)) (Ord.ofCode (fld w 8 2)) (Scope.ofCode (fld w 6 2))))
  | 21 => some (some (.amomaxW (Fin.ofNat 32 (fld w 20 5)) (Fin.ofNat 32 (fld w 15 5)) (Fin.ofNat 32 (fld w 10 5)) (Ord.ofCode (fld w 8 2)) (Scope.ofCode (fld w 6 2))))
  | 22 => some (some (.amominuW (Fin.ofNat 32 (fld w 20 5)) (Fin.ofNat 32 (fld w 15 5)) (Fin.ofNat 32 (fld w 10 5)) (Ord.ofCode (fld w 8 2)) (Scope.ofCode (fld w 6 2))))
  | 23 => some (some (.amomaxuW (Fin.ofNat 32 (fld w 20 5)) (Fin.ofNat 32 (fld w 15 5)) (Fin.ofNat 32 (fld w 10 5)) (Ord.ofCode (fld w 8 2)) (Scope.ofCode (fld w 6 2))))
  | 24 => some (some (.amoswpW (Fin.ofNat 32 (fld w 20 5)) (Fin.ofNat 32 (fld w 15 5)) (Fin.ofNat 32 (fld w 10 5)) (Ord.ofCode (fld w 8 2)) (Scope.ofCode (fld w 6 2))))
  | 25 => some (some (.amocasW (Fin.ofNat 32 (fld w 20 5)) (Fin.ofNat 32 (fld w 15 5)) (Fin.ofNat 32 (fld w 10 5)) (Ord.ofCode (fld w 8 2)) (Scope.ofCode (fld w 6 2))))
  | 26 => some (some (.amofaddW (Fin.ofNat 32 (fld w 20 5)) (Fin.ofNat 32 (fld w 15 5)) (Fin.ofNat 32 (fld w 10 5)) (Ord.ofCode (fld w 8 2)) (Scope.ofCode (fld w 6 2))))
  | 32 => some (some (.amoaddD (Fin.ofNat 32 (fld w 20 5)) (Fin.ofNat 32 (fld w 15 5)) (Fin.ofNat 32 (fld w 10 5)) (Ord.ofCode (fld w 8 2)) (Scope.ofCode (fld w 6 2))))
  | 33 => some (some (.amoandD (Fin.ofNat 32 (fld w 20 5)) (Fin.ofNat 32 (fld w 15 5)) (Fin.ofNat 32 (fld w 10 5)) (Ord.ofCode (fld w 8 2)) (Scope.ofCode (fld w 6 2))))
  | 34 => some (some (.amoorD (Fin.ofNat 32 (fld w 20 5)) (Fin.ofNat 32 (fld w 15 5)) (Fin.ofNat 32 (fld w 10 5)) (Ord.ofCode (fld w 8 2)) (Scope.ofCode (fld w 6 2))))
  | 35 => some (some (.amoxorD (Fin.ofNat 32 (fld w 20 5)) (Fin.ofNat 32 (fld w 15 5)) (Fin.ofNat 32 (fld w 10 5)) (Ord.ofCode (fld w 8 2)) (Scope.ofCode (fld w 6 2))))
  | 36 => some (some (.amominD (Fin.ofNat 32 (fld w 20 5)) (Fin.ofNat 32 (fld w 15 5)) (Fin.ofNat 32 (fld w 10 5)) (Ord.ofCode (fld w 8 2)) (Scope.ofCode (fld w 6 2))))
  | 37 => some (some (.amomaxD (Fin.ofNat 32 (fld w 20 5)) (Fin.ofNat 32 (fld w 15 5)) (Fin.ofNat 32 (fld w 10 5)) (Ord.ofCode (fld w 8 2)) (Scope.ofCode (fld w 6 2))))
  | 38 => some (some (.amominuD (Fin.ofNat 32 (fld w 20 5)) (Fin.ofNat 32 (fld w 15 5)) (Fin.ofNat 32 (fld w 10 5)) (Ord.ofCode (fld w 8 2)) (Scope.ofCode (fld w 6 2))))
  | 39 => some (some (.amomaxuD (Fin.ofNat 32 (fld w 20 5)) (Fin.ofNat 32 (fld w 15 5)) (Fin.ofNat 32 (fld w 10 5)) (Ord.ofCode (fld w 8 2)) (Scope.ofCode (fld w 6 2))))
  | 40 => some (some (.amoswpD (Fin.ofNat 32 (fld w 20 5)) (Fin.ofNat 32 (fld w 15 5)) (Fin.ofNat 32 (fld w 10 5)) (Ord.ofCode (fld w 8 2)) (Scope.ofCode (fld w 6 2))))
  | 41 => some (some (.amocasD (Fin.ofNat 32 (fld w 20 5)) (Fin.ofNat 32 (fld w 15 5)) (Fin.ofNat 32 (fld w 10 5)) (Ord.ofCode (fld w 8 2)) (Scope.ofCode (fld w 6 2))))
  | 42 => some (some (.amofaddD (Fin.ofNat 32 (fld w 20 5)) (Fin.ofNat 32 (fld w 15 5)) (Fin.ofNat 32 (fld w 10 5)) (Ord.ofCode (fld w 8 2)) (Scope.ofCode (fld w 6 2))))
  | 48 => some (if fld w 20 5 == 0 then some (.redaddW (Fin.ofNat 32 (fld w 15 5)) (Fin.ofNat 32 (fld w 10 5)) (Ord.ofCode (fld w 8 2)) (Scope.ofCode (fld w 6 2))) else none)
  | 49 => some (if fld w 20 5 == 0 then some (.redaddD (Fin.ofNat 32 (fld w 15 5)) (Fin.ofNat 32 (fld w 10 5)) (Ord.ofCode (fld w 8 2)) (Scope.ofCode (fld w 6 2))) else none)
  | 50 => some (if fld w 20 5 == 0 then some (.redfaddW (Fin.ofNat 32 (fld w 15 5)) (Fin.ofNat 32 (fld w 10 5)) (Ord.ofCode (fld w 8 2)) (Scope.ofCode (fld w 6 2))) else none)
  | 51 => some (if fld w 20 5 == 0 then some (.redmaxW (Fin.ofNat 32 (fld w 15 5)) (Fin.ofNat 32 (fld w 10 5)) (Ord.ofCode (fld w 8 2)) (Scope.ofCode (fld w 6 2))) else none)
  | 52 => some (if fld w 20 5 == 0 then some (.redmaxD (Fin.ofNat 32 (fld w 15 5)) (Fin.ofNat 32 (fld w 10 5)) (Ord.ofCode (fld w 8 2)) (Scope.ofCode (fld w 6 2))) else none)
  | _ => none

/-- Major 0x08 (R238 and R49, R50). -/
def decSync (w : Nat) : Option (Option Instr) :=
  match fld w 0 5 with
  | 0 => some (if fld w 10 15 == 0 then some (.fence (FenceSet.ofCode (fld w 7 3)) (Scope.ofCode (fld w 5 2))) else none)
  | 1 => some (if fld w 7 3 == 0 && fld w 20 5 == 0 then some (.relb (Fin.ofNat 32 (fld w 15 5)) (Fin.ofNat 32 (fld w 10 5)) (Scope.ofCode (fld w 5 2))) else none)
  | 2 => some (if fld w 7 8 == 0 then some (.acqb (Fin.ofNat 32 (fld w 20 5)) (Fin.ofNat 32 (fld w 15 5)) (Scope.ofCode (fld w 5 2))) else none)
  | 3 => some (if fld w 5 10 == 0 && fld w 20 5 == 0 then some (.clwb (Fin.ofNat 32 (fld w 15 5))) else none)
  | 4 => some (if fld w 5 10 == 0 && fld w 20 5 == 0 then some (.clinv (Fin.ofNat 32 (fld w 15 5))) else none)
  | 5 => some (if fld w 5 2 == 0 && fld w 9 1 == 0 && fld w 20 5 == 0 then some (.pref (Fin.ofNat 32 (fld w 15 5)) (Fin.ofNat 32 (fld w 10 5)) (fld w 8 1 == 1) (fld w 7 1 == 1)) else none)
  | 6 => some (if fld w 8 2 == 0 then some (.retain (Fin.ofNat 32 (fld w 20 5)) (Fin.ofNat 32 (fld w 15 5)) (Fin.ofNat 32 (fld w 10 5)) (Fin.ofNat 8 (fld w 5 3))) else none)
  | 7 => some (if fld w 5 10 == 0 then some (.unpin (Fin.ofNat 32 (fld w 20 5)) (Fin.ofNat 32 (fld w 15 5))) else none)
  | _ => none

/-- Major 0x09 (R246 and R49, R50). -/
def decMsg (w : Nat) : Option (Option Instr) :=
  match fld w 2 3 with
  | 0 => some (if fld w 0 2 == 0 && fld w 20 5 == 0 then some (.send (Fin.ofNat 32 (fld w 15 5)) (Fin.ofNat 32 (fld w 10 5)) (Fin.ofNat 32 (fld w 5 5))) else none)
  | 1 => some (if fld w 20 5 == 0 then some (.sendb (Fin.ofNat 32 (fld w 15 5)) (Fin.ofNat 32 (fld w 10 5)) (Fin.ofNat 32 (fld w 5 5)) (Scope.ofCode (fld w 0 2))) else none)
  | 2 => some (if fld w 0 2 == 0 && fld w 10 10 == 0 then some (.recv (Fin.ofNat 32 (fld w 20 5)) (Fin.ofNat 32 (fld w 5 5))) else none)
  | 3 => some (if fld w 0 2 == 0 && fld w 5 5 == 0 then some (.recvany (Fin.ofNat 32 (fld w 20 5)) (Fin.ofNat 32 (fld w 15 5)) (Fin.ofNat 32 (fld w 10 5))) else none)
  | 4 => some (if fld w 0 2 == 0 && fld w 15 5 == 0 then some (.peek (Fin.ofNat 32 (fld w 20 5)) (Fin.ofNat 32 (fld w 10 5)) (Fin.ofNat 32 (fld w 5 5))) else none)
  | _ => none

/-- Major 0x0A (R252 and R49, R50). -/
def decCopy (w : Nat) : Option (Option Instr) :=
  match fld w 2 3 with
  | 0 => some (some (.cpy (Fin.ofNat 32 (fld w 20 5)) (Fin.ofNat 32 (fld w 15 5)) (Fin.ofNat 32 (fld w 10 5)) (Fin.ofNat 32 (fld w 5 5)) (Scope.ofCode (fld w 0 2))))
  | 1 => some (some (.cpyf (Fin.ofNat 32 (fld w 20 5)) (Fin.ofNat 32 (fld w 15 5)) (Fin.ofNat 32 (fld w 10 5)) (Fin.ofNat 32 (fld w 5 5)) (Scope.ofCode (fld w 0 2))))
  | 2 => some (if fld w 0 2 == 3 then some (.aredFp32 (Fin.ofNat 32 (fld w 20 5)) (Fin.ofNat 32 (fld w 15 5)) (Fin.ofNat 32 (fld w 10 5)) (Fin.ofNat 32 (fld w 5 5))) else none)
  | 3 => some (if fld w 0 2 == 3 then some (.aredBf16 (Fin.ofNat 32 (fld w 20 5)) (Fin.ofNat 32 (fld w 15 5)) (Fin.ofNat 32 (fld w 10 5)) (Fin.ofNat 32 (fld w 5 5))) else none)
  | _ => none

/-- Major 0x0B (R106 and R49, R50). -/
def decTm (w : Nat) : Option (Option Instr) :=
  match fld w 0 5 with
  | 0 => some (if fld w 17 4 == 0 then some (.tld (Fin.ofNat 16 (fld w 21 4)) (Fin.ofNat 32 (fld w 12 5)) (Fin.ofNat 32 (fld w 7 5)) (fld w 6 1 == 1) (fld w 5 1 == 1)) else none)
  | 1 => some (if fld w 17 4 == 0 then some (.tst (Fin.ofNat 16 (fld w 21 4)) (Fin.ofNat 32 (fld w 12 5)) (Fin.ofNat 32 (fld w 7 5)) (fld w 6 1 == 1) (fld w 5 1 == 1)) else none)
  | 2 => some (some (.tgth (Fin.ofNat 16 (fld w 21 4)) (Fin.ofNat 16 (fld w 17 4)) (Fin.ofNat 32 (fld w 12 5)) (Fin.ofNat 32 (fld w 7 5)) (fld w 6 1 == 1) (fld w 5 1 == 1)))
  | 3 => some (some (.tsct (Fin.ofNat 16 (fld w 21 4)) (Fin.ofNat 16 (fld w 17 4)) (Fin.ofNat 32 (fld w 12 5)) (Fin.ofNat 32 (fld w 7 5)) (fld w 6 1 == 1) (fld w 5 1 == 1)))
  | 4 => some (match fld w 5 2 with
    | 0 => if fld w 7 5 == 0 && fld w 17 4 == 0 then some (.tshapeSet (Fin.ofNat 16 (fld w 21 4)) (Fin.ofNat 32 (fld w 12 5))) else none
    | 1 => if fld w 12 9 == 0 then some (.tshapeRead (Fin.ofNat 16 (fld w 21 4)) (Fin.ofNat 32 (fld w 7 5))) else none
    | _ => none)
  | 5 => some (if fld w 5 16 == 0 then some (.tzero (Fin.ofNat 16 (fld w 21 4))) else none)
  | 6 => some (if fld w 5 12 == 0 then some (.tmov (Fin.ofNat 16 (fld w 21 4)) (Fin.ofNat 16 (fld w 17 4))) else none)
  | 7 => some (if fld w 17 4 == 0 then some (.tmovs (Fin.ofNat 16 (fld w 21 4)) (Fin.ofNat 32 (fld w 12 5)) (Fin.ofNat 32 (fld w 7 5)) (Size.ofCode (fld w 5 2))) else none)
  | 8 => some (if fld w 6 1 == 0 then (Fmt.ofCode (fld w 17 4)).map fun fmt => .wld (Fin.ofNat 16 (fld w 21 4)) fmt (Fin.ofNat 32 (fld w 12 5)) (Fin.ofNat 32 (fld w 7 5)) (fld w 5 1 == 1) else none)
  | 9 => some (if fld w 5 12 == 0 then some (.wldt (Fin.ofNat 16 (fld w 21 4)) (Fin.ofNat 16 (fld w 17 4))) else none)
  | 10 => some (if fld w 5 7 == 0 && fld w 17 4 == 0 && fld w 23 2 == 0 then some (.accsv (Fin.ofNat 4 (fld w 21 2)) (Fin.ofNat 32 (fld w 12 5))) else none)
  | 11 => some (if fld w 6 6 == 0 && fld w 17 4 == 0 && fld w 23 2 == 0 then some (.accld (Fin.ofNat 4 (fld w 21 2)) (Fin.ofNat 32 (fld w 12 5)) (AccMode.ofCode (fld w 5 1))) else none)
  | _ => none

/-- Major 0x0C (R320 and R49, R50). -/
def decProg (w : Nat) : Option (Option Instr) :=
  match fld w 0 5 with
  | 0 => some (if fld w 5 5 == 0 then some (.tkadd (Fin.ofNat 32 (fld w 20 5)) (Fin.ofNat 32 (fld w 15 5)) (Fin.ofNat 32 (fld w 10 5))) else none)
  | 1 => some (if fld w 7 3 == 0 then some (.tkaddb (Fin.ofNat 32 (fld w 20 5)) (Fin.ofNat 32 (fld w 15 5)) (Fin.ofNat 32 (fld w 10 5)) (Scope.ofCode (fld w 5 2))) else none)
  | 2 => some (if fld w 5 5 == 0 then some (.recvt (Fin.ofNat 32 (fld w 20 5)) (Fin.ofNat 32 (fld w 15 5)) (BitVec.ofNat 3 (fld w 12 3)) (BitVec.ofNat 2 (fld w 10 2))) else none)
  | 3 => some (if fld w 5 20 == 0 then some .tkdone else none)
  | 4 => some (if fld w 5 5 == 0 && fld w 20 5 == 0 then some (.tksnap (Fin.ofNat 32 (fld w 15 5)) (Fin.ofNat 32 (fld w 10 5))) else none)
  | 5 => some (if fld w 5 5 == 0 then some (.lnch (Fin.ofNat 32 (fld w 20 5)) (Fin.ofNat 32 (fld w 15 5)) (Fin.ofNat 32 (fld w 10 5))) else none)
  | 6 => some (if fld w 15 10 == 0 then some (.bar (BitVec.ofNat 3 (fld w 12 3)) (BitVec.ofNat 2 (fld w 10 2)) (Fin.ofNat 32 (fld w 5 5))) else none)
  | 7 => some (if fld w 10 5 == 0 && fld w 20 5 == 0 then some (.lkacq (Fin.ofNat 32 (fld w 15 5)) (Fin.ofNat 32 (fld w 5 5))) else none)
  | 8 => some (if fld w 10 5 == 0 && fld w 20 5 == 0 then some (.lktry (Fin.ofNat 32 (fld w 15 5)) (Fin.ofNat 32 (fld w 5 5))) else none)
  | 9 => some (if fld w 5 10 == 0 && fld w 20 5 == 0 then some (.lkrel (Fin.ofNat 32 (fld w 15 5))) else none)
  | 16 => some (if fld w 20 5 == 0 then some (.mredAddI64 (Fin.ofNat 32 (fld w 15 5)) (BitVec.ofNat 3 (fld w 12 3)) (BitVec.ofNat 2 (fld w 10 2)) (Fin.ofNat 32 (fld w 5 5))) else none)
  | 17 => some (if fld w 20 5 == 0 then some (.mredMaxI64 (Fin.ofNat 32 (fld w 15 5)) (BitVec.ofNat 3 (fld w 12 3)) (BitVec.ofNat 2 (fld w 10 2)) (Fin.ofNat 32 (fld w 5 5))) else none)
  | 18 => some (if fld w 20 5 == 0 then some (.mredMinI64 (Fin.ofNat 32 (fld w 15 5)) (BitVec.ofNat 3 (fld w 12 3)) (BitVec.ofNat 2 (fld w 10 2)) (Fin.ofNat 32 (fld w 5 5))) else none)
  | 19 => some (if fld w 20 5 == 0 then some (.mredAndI64 (Fin.ofNat 32 (fld w 15 5)) (BitVec.ofNat 3 (fld w 12 3)) (BitVec.ofNat 2 (fld w 10 2)) (Fin.ofNat 32 (fld w 5 5))) else none)
  | 20 => some (if fld w 20 5 == 0 then some (.mredOrI64 (Fin.ofNat 32 (fld w 15 5)) (BitVec.ofNat 3 (fld w 12 3)) (BitVec.ofNat 2 (fld w 10 2)) (Fin.ofNat 32 (fld w 5 5))) else none)
  | 24 => some (if fld w 20 5 == 0 then some (.mredAddF32 (Fin.ofNat 32 (fld w 15 5)) (BitVec.ofNat 3 (fld w 12 3)) (BitVec.ofNat 2 (fld w 10 2)) (Fin.ofNat 32 (fld w 5 5))) else none)
  | 25 => some (if fld w 20 5 == 0 then some (.mredMaxF32 (Fin.ofNat 32 (fld w 15 5)) (BitVec.ofNat 3 (fld w 12 3)) (BitVec.ofNat 2 (fld w 10 2)) (Fin.ofNat 32 (fld w 5 5))) else none)
  | 26 => some (if fld w 20 5 == 0 then some (.mredMinF32 (Fin.ofNat 32 (fld w 15 5)) (BitVec.ofNat 3 (fld w 12 3)) (BitVec.ofNat 2 (fld w 10 2)) (Fin.ofNat 32 (fld w 5 5))) else none)
  | _ => none

/-- Major 0x0D (R350 and R49, R50). -/
def decSys (w : Nat) : Option (Option Instr) :=
  match fld w 0 5 with
  | 0 => some (if fld w 15 5 == 0 then some (.sysrd (Fin.ofNat 32 (fld w 20 5)) (BitVec.ofNat 10 (fld w 5 10))) else none)
  | 1 => some (if fld w 20 5 == 0 then some (.syswr (Fin.ofNat 32 (fld w 15 5)) (BitVec.ofNat 10 (fld w 5 10))) else none)
  | 2 => some (if fld w 15 10 == 0 then some (.trap (BitVec.ofNat 10 (fld w 5 10))) else none)
  | 3 => some (if fld w 5 20 == 0 then some .tret else none)
  | 4 => some (match fld w 5 2 with
    | 0 => if fld w 20 5 == 0 then some (.xlatiRange (Fin.ofNat 32 (fld w 15 5)) (Fin.ofNat 32 (fld w 10 5)) (Fin.ofNat 8 (fld w 7 3))) else none
    | 1 => if fld w 10 5 == 0 && fld w 20 5 == 0 then some (.xlatiAsid (Fin.ofNat 32 (fld w 15 5)) (Fin.ofNat 8 (fld w 7 3))) else none
    | 2 => if fld w 10 15 == 0 then some (.xlatiAll (Fin.ofNat 8 (fld w 7 3))) else none
    | _ => none)
  | 5 => some (if fld w 8 7 == 0 then (Access.ofCode (fld w 5 2)).map fun acc => .xlatp (Fin.ofNat 32 (fld w 20 5)) (Fin.ofNat 32 (fld w 15 5)) (fld w 7 1 == 1) acc else none)
  | 6 => some (if fld w 5 10 == 0 && fld w 20 5 == 0 then some (.ctxsv (Fin.ofNat 32 (fld w 15 5))) else none)
  | 7 => some (if fld w 5 10 == 0 && fld w 20 5 == 0 then some (.ctxld (Fin.ofNat 32 (fld w 15 5))) else none)
  | 8 => some (if fld w 5 20 == 0 then some .halt else none)
  | 9 => some (if fld w 5 20 == 0 then some .nopC else none)
  | _ => none

/-- Major 0x0E (R416 and R49, R50). -/
def decDbg (w : Nat) : Option (Option Instr) :=
  match fld w 0 5 with
  | 0 => some (if fld w 15 10 == 0 then some (.brk (BitVec.ofNat 10 (fld w 5 10))) else none)
  | 1 => some (if fld w 20 5 == 0 then some (.trcmark (Fin.ofNat 32 (fld w 15 5)) (BitVec.ofNat 10 (fld w 5 10))) else none)
  | 2 => some (if fld w 15 5 == 0 then some (.perfrd (Fin.ofNat 32 (fld w 20 5)) (BitVec.ofNat 10 (fld w 5 10))) else none)
  | _ => none

/-- Major 0x20 (R138 and R49, R50). -/
def decAlu (w : Nat) : Option (Option Instr) :=
  match fld w 0 5 with
  | 0 => some (if fld w 5 5 == 0 then some (.add (Fin.ofNat 32 (fld w 20 5)) (Fin.ofNat 32 (fld w 15 5)) (Fin.ofNat 32 (fld w 10 5))) else none)
  | 1 => some (if fld w 5 5 == 0 then some (.sub (Fin.ofNat 32 (fld w 20 5)) (Fin.ofNat 32 (fld w 15 5)) (Fin.ofNat 32 (fld w 10 5))) else none)
  | 2 => some (if fld w 5 5 == 0 then some (.mul (Fin.ofNat 32 (fld w 20 5)) (Fin.ofNat 32 (fld w 15 5)) (Fin.ofNat 32 (fld w 10 5))) else none)
  | 3 => some (if fld w 5 5 == 0 then some (.mulh (Fin.ofNat 32 (fld w 20 5)) (Fin.ofNat 32 (fld w 15 5)) (Fin.ofNat 32 (fld w 10 5))) else none)
  | 4 => some (if fld w 5 5 == 0 then some (.mulhu (Fin.ofNat 32 (fld w 20 5)) (Fin.ofNat 32 (fld w 15 5)) (Fin.ofNat 32 (fld w 10 5))) else none)
  | 5 => some (if fld w 5 5 == 0 then some (.div (Fin.ofNat 32 (fld w 20 5)) (Fin.ofNat 32 (fld w 15 5)) (Fin.ofNat 32 (fld w 10 5))) else none)
  | 6 => some (if fld w 5 5 == 0 then some (.divu (Fin.ofNat 32 (fld w 20 5)) (Fin.ofNat 32 (fld w 15 5)) (Fin.ofNat 32 (fld w 10 5))) else none)
  | 7 => some (if fld w 5 5 == 0 then some (.rem (Fin.ofNat 32 (fld w 20 5)) (Fin.ofNat 32 (fld w 15 5)) (Fin.ofNat 32 (fld w 10 5))) else none)
  | 8 => some (if fld w 5 5 == 0 then some (.remu (Fin.ofNat 32 (fld w 20 5)) (Fin.ofNat 32 (fld w 15 5)) (Fin.ofNat 32 (fld w 10 5))) else none)
  | 9 => some (if fld w 5 5 == 0 then some (.and (Fin.ofNat 32 (fld w 20 5)) (Fin.ofNat 32 (fld w 15 5)) (Fin.ofNat 32 (fld w 10 5))) else none)
  | 10 => some (if fld w 5 5 == 0 then some (.or (Fin.ofNat 32 (fld w 20 5)) (Fin.ofNat 32 (fld w 15 5)) (Fin.ofNat 32 (fld w 10 5))) else none)
  | 11 => some (if fld w 5 5 == 0 then some (.xor (Fin.ofNat 32 (fld w 20 5)) (Fin.ofNat 32 (fld w 15 5)) (Fin.ofNat 32 (fld w 10 5))) else none)
  | 12 => some (if fld w 5 5 == 0 then some (.sll (Fin.ofNat 32 (fld w 20 5)) (Fin.ofNat 32 (fld w 15 5)) (Fin.ofNat 32 (fld w 10 5))) else none)
  | 13 => some (if fld w 5 5 == 0 then some (.srl (Fin.ofNat 32 (fld w 20 5)) (Fin.ofNat 32 (fld w 15 5)) (Fin.ofNat 32 (fld w 10 5))) else none)
  | 14 => some (if fld w 5 5 == 0 then some (.sra (Fin.ofNat 32 (fld w 20 5)) (Fin.ofNat 32 (fld w 15 5)) (Fin.ofNat 32 (fld w 10 5))) else none)
  | 15 => some (if fld w 5 5 == 0 then some (.slt (Fin.ofNat 32 (fld w 20 5)) (Fin.ofNat 32 (fld w 15 5)) (Fin.ofNat 32 (fld w 10 5))) else none)
  | 16 => some (if fld w 5 5 == 0 then some (.sltu (Fin.ofNat 32 (fld w 20 5)) (Fin.ofNat 32 (fld w 15 5)) (Fin.ofNat 32 (fld w 10 5))) else none)
  | 17 => some (if fld w 5 5 == 0 then some (.min (Fin.ofNat 32 (fld w 20 5)) (Fin.ofNat 32 (fld w 15 5)) (Fin.ofNat 32 (fld w 10 5))) else none)
  | 18 => some (if fld w 5 5 == 0 then some (.max (Fin.ofNat 32 (fld w 20 5)) (Fin.ofNat 32 (fld w 15 5)) (Fin.ofNat 32 (fld w 10 5))) else none)
  | 19 => some (if fld w 5 5 == 0 then some (.minu (Fin.ofNat 32 (fld w 20 5)) (Fin.ofNat 32 (fld w 15 5)) (Fin.ofNat 32 (fld w 10 5))) else none)
  | 20 => some (if fld w 5 5 == 0 then some (.maxu (Fin.ofNat 32 (fld w 20 5)) (Fin.ofNat 32 (fld w 15 5)) (Fin.ofNat 32 (fld w 10 5))) else none)
  | 21 => some (if fld w 5 10 == 0 then some (.clz (Fin.ofNat 32 (fld w 20 5)) (Fin.ofNat 32 (fld w 15 5))) else none)
  | 22 => some (if fld w 5 10 == 0 then some (.ctz (Fin.ofNat 32 (fld w 20 5)) (Fin.ofNat 32 (fld w 15 5))) else none)
  | 23 => some (if fld w 5 10 == 0 then some (.popc (Fin.ofNat 32 (fld w 20 5)) (Fin.ofNat 32 (fld w 15 5))) else none)
  | 24 => some (some (.sel (Fin.ofNat 32 (fld w 20 5)) (Fin.ofNat 32 (fld w 15 5)) (Fin.ofNat 32 (fld w 10 5)) (Fin.ofNat 32 (fld w 5 5))))
  | _ => none

/-- Major 0x21 (R140 and R49, R50). -/
def decAlui (w : Nat) : Option (Option Instr) :=
  match fld w 12 3 with
  | 0 => some (some (.addi (Fin.ofNat 32 (fld w 20 5)) (Fin.ofNat 32 (fld w 15 5)) (BitVec.ofNat 12 (fld w 0 12))))
  | 1 => some (some (.slti (Fin.ofNat 32 (fld w 20 5)) (Fin.ofNat 32 (fld w 15 5)) (BitVec.ofNat 12 (fld w 0 12))))
  | 2 => some (some (.andi (Fin.ofNat 32 (fld w 20 5)) (Fin.ofNat 32 (fld w 15 5)) (BitVec.ofNat 12 (fld w 0 12))))
  | 3 => some (some (.ori (Fin.ofNat 32 (fld w 20 5)) (Fin.ofNat 32 (fld w 15 5)) (BitVec.ofNat 12 (fld w 0 12))))
  | 4 => some (some (.xori (Fin.ofNat 32 (fld w 20 5)) (Fin.ofNat 32 (fld w 15 5)) (BitVec.ofNat 12 (fld w 0 12))))
  | 5 => some (if fld w 6 6 == 0 then some (.slli (Fin.ofNat 32 (fld w 20 5)) (Fin.ofNat 32 (fld w 15 5)) (BitVec.ofNat 6 (fld w 0 6))) else none)
  | 6 => some (if fld w 6 6 == 0 then some (.srli (Fin.ofNat 32 (fld w 20 5)) (Fin.ofNat 32 (fld w 15 5)) (BitVec.ofNat 6 (fld w 0 6))) else none)
  | 7 => some (if fld w 6 6 == 0 then some (.srai (Fin.ofNat 32 (fld w 20 5)) (Fin.ofNat 32 (fld w 15 5)) (BitVec.ofNat 6 (fld w 0 6))) else none)
  | _ => none

/-- Major 0x22 (R141 and R49, R50). -/
def decLhi (w : Nat) : Option (Option Instr) :=
  some (some (.lhi (Fin.ofNat 32 (fld w 20 5)) (BitVec.ofNat 20 (fld w 0 20))))

/-- Major 0x23 (R142 and R49, R50). -/
def decBf (w : Nat) : Option (Option Instr) :=
  match fld w 0 2 with
  | 0 => some (some (.bfxz (Fin.ofNat 32 (fld w 20 5)) (Fin.ofNat 32 (fld w 15 5)) (BitVec.ofNat 6 (fld w 9 6)) (BitVec.ofNat 7 (fld w 2 7))))
  | 1 => some (some (.bfxs (Fin.ofNat 32 (fld w 20 5)) (Fin.ofNat 32 (fld w 15 5)) (BitVec.ofNat 6 (fld w 9 6)) (BitVec.ofNat 7 (fld w 2 7))))
  | 2 => some (some (.bfins (Fin.ofNat 32 (fld w 20 5)) (Fin.ofNat 32 (fld w 15 5)) (BitVec.ofNat 6 (fld w 9 6)) (BitVec.ofNat 7 (fld w 2 7))))
  | _ => none

/-- Major 0x24 (R143 and R49, R50). -/
def decFp (w : Nat) : Option (Option Instr) :=
  match fld w 0 5 with
  | 0 => some (if fld w 5 2 == 0 then (Rnd.ofCode (fld w 7 3)).map fun rnd => .fadd (Fin.ofNat 32 (fld w 20 5)) (Fin.ofNat 32 (fld w 15 5)) (Fin.ofNat 32 (fld w 10 5)) rnd else none)
  | 1 => some (if fld w 5 2 == 0 then (Rnd.ofCode (fld w 7 3)).map fun rnd => .fsub (Fin.ofNat 32 (fld w 20 5)) (Fin.ofNat 32 (fld w 15 5)) (Fin.ofNat 32 (fld w 10 5)) rnd else none)
  | 2 => some (if fld w 5 2 == 0 then (Rnd.ofCode (fld w 7 3)).map fun rnd => .fmul (Fin.ofNat 32 (fld w 20 5)) (Fin.ofNat 32 (fld w 15 5)) (Fin.ofNat 32 (fld w 10 5)) rnd else none)
  | 3 => some (if fld w 5 5 == 0 then some (.fmin (Fin.ofNat 32 (fld w 20 5)) (Fin.ofNat 32 (fld w 15 5)) (Fin.ofNat 32 (fld w 10 5))) else none)
  | 4 => some (if fld w 5 5 == 0 then some (.fmax (Fin.ofNat 32 (fld w 20 5)) (Fin.ofNat 32 (fld w 15 5)) (Fin.ofNat 32 (fld w 10 5))) else none)
  | 5 => some (if fld w 5 2 == 0 && fld w 10 5 == 0 then (Rnd.ofCode (fld w 7 3)).map fun rnd => .fcvtif (Fin.ofNat 32 (fld w 20 5)) (Fin.ofNat 32 (fld w 15 5)) rnd else none)
  | 6 => some (if fld w 5 2 == 0 && fld w 10 5 == 0 then (Rnd.ofCode (fld w 7 3)).map fun rnd => .fcvtfi (Fin.ofNat 32 (fld w 20 5)) (Fin.ofNat 32 (fld w 15 5)) rnd else none)
  | 7 => some (if fld w 5 2 == 0 then some (.fcmp (Fin.ofNat 32 (fld w 20 5)) (Fin.ofNat 32 (fld w 15 5)) (Fin.ofNat 32 (fld w 10 5)) (Cond.ofCode (fld w 7 3))) else none)
  | _ => none

/-- Major 0x25 (R143 and R49, R50). -/
def decFfma (w : Nat) : Option (Option Instr) :=
  some (if fld w 0 2 == 0 then (Rnd.ofCode (fld w 2 3)).map fun rnd => .ffma (Fin.ofNat 32 (fld w 20 5)) (Fin.ofNat 32 (fld w 15 5)) (Fin.ofNat 32 (fld w 10 5)) (Fin.ofNat 32 (fld w 5 5)) rnd else none)

/-- Major 0x26 (R123 and R49, R50). -/
def decVa (w : Nat) : Option (Option Instr) :=
  match fld w 0 4 with
  | 0 => some (if fld w 8 4 == 0 && fld w 16 1 == 0 then (Rnd.ofCode (fld w 4 3)).map fun rnd => .tadd (Fin.ofNat 16 (fld w 21 4)) (Fin.ofNat 16 (fld w 17 4)) (Fin.ofNat 16 (fld w 12 4)) (fld w 7 1 == 1) rnd else none)
  | 1 => some (if fld w 8 4 == 0 && fld w 16 1 == 0 then (Rnd.ofCode (fld w 4 3)).map fun rnd => .tsub (Fin.ofNat 16 (fld w 21 4)) (Fin.ofNat 16 (fld w 17 4)) (Fin.ofNat 16 (fld w 12 4)) (fld w 7 1 == 1) rnd else none)
  | 2 => some (if fld w 8 4 == 0 && fld w 16 1 == 0 then (Rnd.ofCode (fld w 4 3)).map fun rnd => .tmul (Fin.ofNat 16 (fld w 21 4)) (Fin.ofNat 16 (fld w 17 4)) (Fin.ofNat 16 (fld w 12 4)) (fld w 7 1 == 1) rnd else none)
  | 3 => some (if fld w 16 1 == 0 then (Rnd.ofCode (fld w 4 3)).map fun rnd => .tfma (Fin.ofNat 16 (fld w 21 4)) (Fin.ofNat 16 (fld w 17 4)) (Fin.ofNat 16 (fld w 12 4)) (Fin.ofNat 16 (fld w 8 4)) (fld w 7 1 == 1) rnd else none)
  | 4 => some (if fld w 4 8 == 0 && fld w 16 1 == 0 then some (.tmax (Fin.ofNat 16 (fld w 21 4)) (Fin.ofNat 16 (fld w 17 4)) (Fin.ofNat 16 (fld w 12 4))) else none)
  | 5 => some (if fld w 4 8 == 0 && fld w 16 1 == 0 then some (.tmin (Fin.ofNat 16 (fld w 21 4)) (Fin.ofNat 16 (fld w 17 4)) (Fin.ofNat 16 (fld w 12 4))) else none)
  | 6 => some (if fld w 4 8 == 0 && fld w 16 1 == 0 then some (.tand (Fin.ofNat 16 (fld w 21 4)) (Fin.ofNat 16 (fld w 17 4)) (Fin.ofNat 16 (fld w 12 4))) else none)
  | 7 => some (if fld w 4 8 == 0 && fld w 16 1 == 0 then some (.tor (Fin.ofNat 16 (fld w 21 4)) (Fin.ofNat 16 (fld w 17 4)) (Fin.ofNat 16 (fld w 12 4))) else none)
  | 8 => some (if fld w 4 8 == 0 && fld w 16 1 == 0 then some (.txor (Fin.ofNat 16 (fld w 21 4)) (Fin.ofNat 16 (fld w 17 4)) (Fin.ofNat 16 (fld w 12 4))) else none)
  | 9 => some (if fld w 4 4 == 0 && fld w 16 1 == 0 then some (.tsel (Fin.ofNat 16 (fld w 21 4)) (Fin.ofNat 16 (fld w 17 4)) (Fin.ofNat 16 (fld w 12 4)) (Fin.ofNat 16 (fld w 8 4))) else none)
  | 10 => some (if fld w 4 4 == 0 && fld w 11 1 == 0 && fld w 16 1 == 0 then some (.tcmp (Fin.ofNat 16 (fld w 21 4)) (Fin.ofNat 16 (fld w 17 4)) (Fin.ofNat 16 (fld w 12 4)) (Cond.ofCode (fld w 8 3))) else none)
  | 11 => some (if fld w 8 4 == 0 then (Rnd.ofCode (fld w 4 3)).map fun rnd => .tscl (Fin.ofNat 16 (fld w 21 4)) (Fin.ofNat 16 (fld w 17 4)) (Fin.ofNat 32 (fld w 12 5)) (fld w 7 1 == 1) rnd else none)
  | 12 => some (if fld w 8 4 == 0 then (Rnd.ofCode (fld w 4 3)).map fun rnd => .tclamp (Fin.ofNat 16 (fld w 21 4)) (Fin.ofNat 16 (fld w 17 4)) (Fin.ofNat 32 (fld w 12 5)) (fld w 7 1 == 1) rnd else none)
  | _ => none

/-- Major 0x27 (R124 and R49, R50). -/
def decVb (w : Nat) : Option (Option Instr) :=
  match fld w 0 4 with
  | 0 => some (if fld w 4 3 == 0 && fld w 8 9 == 0 then some (.tabs (Fin.ofNat 16 (fld w 21 4)) (Fin.ofNat 16 (fld w 17 4)) (fld w 7 1 == 1)) else none)
  | 1 => some (if fld w 4 3 == 0 && fld w 8 9 == 0 then some (.tneg (Fin.ofNat 16 (fld w 21 4)) (Fin.ofNat 16 (fld w 17 4)) (fld w 7 1 == 1)) else none)
  | 2 => some (if fld w 8 9 == 0 then (Rnd.ofCode (fld w 4 3)).map fun rnd => .texp2 (Fin.ofNat 16 (fld w 21 4)) (Fin.ofNat 16 (fld w 17 4)) (fld w 7 1 == 1) rnd else none)
  | 3 => some (if fld w 8 9 == 0 then (Rnd.ofCode (fld w 4 3)).map fun rnd => .tlog2 (Fin.ofNat 16 (fld w 21 4)) (Fin.ofNat 16 (fld w 17 4)) (fld w 7 1 == 1) rnd else none)
  | 4 => some (if fld w 8 9 == 0 then (Rnd.ofCode (fld w 4 3)).map fun rnd => .trcp (Fin.ofNat 16 (fld w 21 4)) (Fin.ofNat 16 (fld w 17 4)) (fld w 7 1 == 1) rnd else none)
  | 5 => some (if fld w 8 9 == 0 then (Rnd.ofCode (fld w 4 3)).map fun rnd => .trsq (Fin.ofNat 16 (fld w 21 4)) (Fin.ofNat 16 (fld w 17 4)) (fld w 7 1 == 1) rnd else none)
  | 6 => some (if fld w 8 9 == 0 then (Rnd.ofCode (fld w 4 3)).map fun rnd => .tsqrt (Fin.ofNat 16 (fld w 21 4)) (Fin.ofNat 16 (fld w 17 4)) (fld w 7 1 == 1) rnd else none)
  | 7 => some (if fld w 14 3 == 0 then (Fmt.ofCode (fld w 8 4)).bind fun fmt => (Rnd.ofCode (fld w 4 3)).map fun rnd => .tcvt (Fin.ofNat 16 (fld w 21 4)) (Fin.ofNat 16 (fld w 17 4)) (Fin.ofNat 4 (fld w 12 2)) fmt (fld w 7 1 == 1) rnd else none)
  | 8 => some (if fld w 10 2 == 0 && fld w 15 2 == 0 then (Rnd.ofCode (fld w 4 3)).map fun rnd => .tqnt (Fin.ofNat 16 (fld w 21 4)) (Fin.ofNat 16 (fld w 17 4)) (Fin.ofNat 8 (fld w 12 3)) (Q4Type.ofCode (fld w 8 2)) (fld w 7 1 == 1) rnd else none)
  | 9 => some (if fld w 9 1 == 0 && fld w 12 5 == 0 then (RedOp.ofCode (fld w 10 2)).bind fun op => (Rnd.ofCode (fld w 4 3)).map fun rnd => .tred (Fin.ofNat 16 (fld w 21 4)) (Fin.ofNat 16 (fld w 17 4)) op (fld w 8 1 == 1) (fld w 7 1 == 1) rnd else none)
  | 10 => some (if fld w 4 4 == 0 && fld w 10 2 == 0 then (TbcMode.ofCode (fld w 8 2)).map fun mode => .tbc (Fin.ofNat 16 (fld w 21 4)) (Fin.ofNat 16 (fld w 17 4)) (Fin.ofNat 32 (fld w 12 5)) mode else none)
  | 11 => some (if fld w 4 13 == 0 then some (.ttr (Fin.ofNat 16 (fld w 21 4)) (Fin.ofNat 16 (fld w 17 4))) else none)
  | 12 => some (if fld w 8 4 == 0 then (Rnd.ofCode (fld w 4 3)).map fun rnd => .tiota (Fin.ofNat 16 (fld w 21 4)) (Fin.ofNat 16 (fld w 17 4)) (Fin.ofNat 32 (fld w 12 5)) (fld w 7 1 == 1) rnd else none)
  | 13 => some (if fld w 10 2 == 0 then (TrndMode.ofCode (fld w 8 2)).bind fun mode => (Rnd.ofCode (fld w 4 3)).map fun rnd => .trnd (Fin.ofNat 16 (fld w 21 4)) (Fin.ofNat 16 (fld w 17 4)) (Fin.ofNat 32 (fld w 12 5)) mode (fld w 7 1 == 1) rnd else none)
  | _ => none

/-- Major 0x28 (R114 and R49, R50). -/
def decMx (w : Nat) : Option (Option Instr) :=
  match fld w 0 3 with
  | 0 => some (if fld w 3 9 == 0 && fld w 18 1 == 0 then some (.mma (Fin.ofNat 4 (fld w 23 2)) (Fin.ofNat 16 (fld w 19 4)) (Fin.ofNat 16 (fld w 14 4)) (Fin.ofNat 4 (fld w 12 2))) else none)
  | 1 => some (if fld w 3 9 == 0 && fld w 18 1 == 0 then some (.mmaz (Fin.ofNat 4 (fld w 23 2)) (Fin.ofNat 16 (fld w 19 4)) (Fin.ofNat 16 (fld w 14 4)) (Fin.ofNat 4 (fld w 12 2))) else none)
  | 2 => some (if fld w 3 9 == 0 && fld w 13 10 == 0 then some (.accz (Fin.ofNat 4 (fld w 23 2)) (AccMode.ofCode (fld w 12 1))) else none)
  | 3 => some (if fld w 3 2 == 0 then (Rnd.ofCode (fld w 5 3)).map fun rnd => .drain (Fin.ofNat 4 (fld w 23 2)) (Fin.ofNat 16 (fld w 19 4)) (Fin.ofNat 32 (fld w 14 5)) (Fin.ofNat 4 (fld w 12 2)) (Fin.ofNat 4 (fld w 10 2)) (fld w 9 1 == 1) (fld w 8 1 == 1) rnd else none)
  | 4 => some (if fld w 3 7 == 0 && fld w 12 7 == 0 && fld w 23 2 == 0 then some (.hstrd (Fin.ofNat 16 (fld w 19 4)) (Fin.ofNat 4 (fld w 10 2))) else none)
  | 5 => some (if fld w 3 7 == 0 && fld w 12 13 == 0 then some (.hstclr (Fin.ofNat 4 (fld w 10 2))) else none)
  | _ => none

/-- Major 0x29 (R147 and R49, R50). -/
def decXnop (w : Nat) : Option (Option Instr) :=
  some (if fld w 0 25 == 0 then some .xnop else none)

/-- The meaning of a word by its major (R49): none for an unassigned major or minor, some none for an assigned one whose
reserved fields or field codes are bad. -/
def decodeMajor (w : Nat) : Option (Option Instr) :=
  match fld w 25 6 with
  | 0x01 => decBr w
  | 0x02 => decJ w
  | 0x03 => decJal w
  | 0x04 => decJalr w
  | 0x05 => decLdi w
  | 0x06 => decSti w
  | 0x07 => decMem w
  | 0x08 => decSync w
  | 0x09 => decMsg w
  | 0x0A => decCopy w
  | 0x0B => decTm w
  | 0x0C => decProg w
  | 0x0D => decSys w
  | 0x0E => decDbg w
  | 0x20 => decAlu w
  | 0x21 => decAlui w
  | 0x22 => decLhi w
  | 0x23 => decBf w
  | 0x24 => decFp w
  | 0x25 => decFfma w
  | 0x26 => decVa w
  | 0x27 => decVb w
  | 0x28 => decMx w
  | 0x29 => decXnop w
  | _ => none

/-- The kinds of the illegal-instruction trap (R51). -/
inductive Illegal where | unassigned | featureAbsent | reserved
  deriving DecidableEq, Repr

/-- The features an encoding can belong to (R52), at their bits of FEATACC (R435). -/
inductive Feature where | matrix | linelock | allred | gather | q4blk | trace
  deriving DecidableEq, Repr

/-- The bit of FEATDEV and FEATACC that stands for a feature (R435). -/
def Feature.bit : Feature → Nat
  | .matrix => 0 | .linelock => 1 | .allred => 2 | .gather => 3 | .q4blk => 4 | .trace => 5

/-- R52: the features that the encoding of a word belongs to, read from its major, minor and format field alone. -/
def wordFeatures (w : Nat) : List Feature :=
  match fld w 25 6 with
  | 0x28 => [.matrix]
  | 0x0B =>
    match fld w 0 5 with
    | 8 => if fld w 17 4 == 7 then [.matrix, .q4blk] else [.matrix]
    | 9 => [.matrix]
    | 10 => [.matrix]
    | 11 => [.matrix]
    | _ => []
  | 0x0C => if 7 ≤ fld w 0 5 && fld w 0 5 ≤ 9 then [.linelock] else []
  | 0x0A => if 2 ≤ fld w 2 3 && fld w 2 3 ≤ 3 then [.allred] else []
  | 0x07 => if 0x30 ≤ fld w 0 6 && fld w 0 6 ≤ 0x34 then [.gather] else []
  | 0x27 =>
    match fld w 0 4 with
    | 7 => if fld w 8 4 == 7 then [.q4blk] else []
    | 8 => [.q4blk]
    | _ => []
  | 0x0E => if fld w 0 5 == 1 then [.trace] else []
  | _ => []

/-- R51: the instruction of a word, or the first kind of illegal-instruction trap that applies, in the order UNASSIGNED,
FEATURE-ABSENT, RESERVED. `present` says which features are present (R52); P (bit 31) plays no part (R39). -/
def decodeWord (present : Feature → Bool) (w : Nat) : Except Illegal Instr :=
  match decodeMajor w with
  | none => .error .unassigned
  | some r =>
    if (wordFeatures w).all present then
      match r with
      | none => .error .reserved
      | some i => if i.wf then .ok i else .error .reserved
    else .error .featureAbsent

/-- The instruction of a word as the opcode table numbers its bits, with every feature present. -/
def decodeTableWord (nbits w : Nat) : Option Instr :=
  if nbits == 32 then
    match decodeWord (fun _ => true) (w % 2 ^ 32) with
    | .ok i => some i
    | .error _ => none
  else none


/-- The word of an instruction with P = 0, from the formats of R43 and the map of R49 and R50: a sum of its fields, each at
its place. A step that has no word has none. -/
def encode : Instr → Option Nat
  | .beq ga gb off => some (0x02000000 + ga.val * 0x100000 + gb.val * 0x8000 + off.toNat)
  | .bne ga gb off => some (0x02001000 + ga.val * 0x100000 + gb.val * 0x8000 + off.toNat)
  | .blt ga gb off => some (0x02004000 + ga.val * 0x100000 + gb.val * 0x8000 + off.toNat)
  | .bge ga gb off => some (0x02005000 + ga.val * 0x100000 + gb.val * 0x8000 + off.toNat)
  | .bltu ga gb off => some (0x02006000 + ga.val * 0x100000 + gb.val * 0x8000 + off.toNat)
  | .bgeu ga gb off => some (0x02007000 + ga.val * 0x100000 + gb.val * 0x8000 + off.toNat)
  | .j off => some (0x04000000 + off.toNat)
  | .jal gd off => some (0x06000000 + gd.val * 0x100000 + off.toNat)
  | .jalr gd ga imm => some (0x08000000 + gd.val * 0x100000 + ga.val * 0x8000 + imm.toNat)
  | .ldb gd ga imm => some (0x0A000000 + gd.val * 0x100000 + ga.val * 0x8000 + imm.toNat)
  | .ldbz gd ga imm => some (0x0A001000 + gd.val * 0x100000 + ga.val * 0x8000 + imm.toNat)
  | .ldh gd ga imm => some (0x0A002000 + gd.val * 0x100000 + ga.val * 0x8000 + imm.toNat)
  | .ldhz gd ga imm => some (0x0A003000 + gd.val * 0x100000 + ga.val * 0x8000 + imm.toNat)
  | .ldw gd ga imm => some (0x0A004000 + gd.val * 0x100000 + ga.val * 0x8000 + imm.toNat)
  | .ldwz gd ga imm => some (0x0A005000 + gd.val * 0x100000 + ga.val * 0x8000 + imm.toNat)
  | .ldd gd ga imm => some (0x0A006000 + gd.val * 0x100000 + ga.val * 0x8000 + imm.toNat)
  | .stb gd ga imm => some (0x0C000000 + gd.val * 0x100000 + ga.val * 0x8000 + imm.toNat)
  | .sth gd ga imm => some (0x0C001000 + gd.val * 0x100000 + ga.val * 0x8000 + imm.toNat)
  | .stw gd ga imm => some (0x0C002000 + gd.val * 0x100000 + ga.val * 0x8000 + imm.toNat)
  | .std gd ga imm => some (0x0C003000 + gd.val * 0x100000 + ga.val * 0x8000 + imm.toNat)
  | .ldbOrd gd ga ord sc => some (0x0E000000 + gd.val * 0x100000 + ga.val * 0x8000 + ord.code * 0x100 + sc.code * 0x40)
  | .ldbzOrd gd ga ord sc => some (0x0E000001 + gd.val * 0x100000 + ga.val * 0x8000 + ord.code * 0x100 + sc.code * 0x40)
  | .ldhOrd gd ga ord sc => some (0x0E000002 + gd.val * 0x100000 + ga.val * 0x8000 + ord.code * 0x100 + sc.code * 0x40)
  | .ldhzOrd gd ga ord sc => some (0x0E000003 + gd.val * 0x100000 + ga.val * 0x8000 + ord.code * 0x100 + sc.code * 0x40)
  | .ldwOrd gd ga ord sc => some (0x0E000004 + gd.val * 0x100000 + ga.val * 0x8000 + ord.code * 0x100 + sc.code * 0x40)
  | .ldwzOrd gd ga ord sc => some (0x0E000005 + gd.val * 0x100000 + ga.val * 0x8000 + ord.code * 0x100 + sc.code * 0x40)
  | .lddOrd gd ga ord sc => some (0x0E000006 + gd.val * 0x100000 + ga.val * 0x8000 + ord.code * 0x100 + sc.code * 0x40)
  | .stbOrd ga gb ord sc => some (0x0E000008 + ga.val * 0x8000 + gb.val * 0x400 + ord.code * 0x100 + sc.code * 0x40)
  | .sthOrd ga gb ord sc => some (0x0E000009 + ga.val * 0x8000 + gb.val * 0x400 + ord.code * 0x100 + sc.code * 0x40)
  | .stwOrd ga gb ord sc => some (0x0E00000A + ga.val * 0x8000 + gb.val * 0x400 + ord.code * 0x100 + sc.code * 0x40)
  | .stdOrd ga gb ord sc => some (0x0E00000B + ga.val * 0x8000 + gb.val * 0x400 + ord.code * 0x100 + sc.code * 0x40)
  | .amoaddW gd ga gb ord sc => some (0x0E000010 + gd.val * 0x100000 + ga.val * 0x8000 + gb.val * 0x400 + ord.code * 0x100 + sc.code * 0x40)
  | .amoandW gd ga gb ord sc => some (0x0E000011 + gd.val * 0x100000 + ga.val * 0x8000 + gb.val * 0x400 + ord.code * 0x100 + sc.code * 0x40)
  | .amoorW gd ga gb ord sc => some (0x0E000012 + gd.val * 0x100000 + ga.val * 0x8000 + gb.val * 0x400 + ord.code * 0x100 + sc.code * 0x40)
  | .amoxorW gd ga gb ord sc => some (0x0E000013 + gd.val * 0x100000 + ga.val * 0x8000 + gb.val * 0x400 + ord.code * 0x100 + sc.code * 0x40)
  | .amominW gd ga gb ord sc => some (0x0E000014 + gd.val * 0x100000 + ga.val * 0x8000 + gb.val * 0x400 + ord.code * 0x100 + sc.code * 0x40)
  | .amomaxW gd ga gb ord sc => some (0x0E000015 + gd.val * 0x100000 + ga.val * 0x8000 + gb.val * 0x400 + ord.code * 0x100 + sc.code * 0x40)
  | .amominuW gd ga gb ord sc => some (0x0E000016 + gd.val * 0x100000 + ga.val * 0x8000 + gb.val * 0x400 + ord.code * 0x100 + sc.code * 0x40)
  | .amomaxuW gd ga gb ord sc => some (0x0E000017 + gd.val * 0x100000 + ga.val * 0x8000 + gb.val * 0x400 + ord.code * 0x100 + sc.code * 0x40)
  | .amoswpW gd ga gb ord sc => some (0x0E000018 + gd.val * 0x100000 + ga.val * 0x8000 + gb.val * 0x400 + ord.code * 0x100 + sc.code * 0x40)
  | .amocasW gd ga gb ord sc => some (0x0E000019 + gd.val * 0x100000 + ga.val * 0x8000 + gb.val * 0x400 + ord.code * 0x100 + sc.code * 0x40)
  | .amofaddW gd ga gb ord sc => some (0x0E00001A + gd.val * 0x100000 + ga.val * 0x8000 + gb.val * 0x400 + ord.code * 0x100 + sc.code * 0x40)
  | .amoaddD gd ga gb ord sc => some (0x0E000020 + gd.val * 0x100000 + ga.val * 0x8000 + gb.val * 0x400 + ord.code * 0x100 + sc.code * 0x40)
  | .amoandD gd ga gb ord sc => some (0x0E000021 + gd.val * 0x100000 + ga.val * 0x8000 + gb.val * 0x400 + ord.code * 0x100 + sc.code * 0x40)
  | .amoorD gd ga gb ord sc => some (0x0E000022 + gd.val * 0x100000 + ga.val * 0x8000 + gb.val * 0x400 + ord.code * 0x100 + sc.code * 0x40)
  | .amoxorD gd ga gb ord sc => some (0x0E000023 + gd.val * 0x100000 + ga.val * 0x8000 + gb.val * 0x400 + ord.code * 0x100 + sc.code * 0x40)
  | .amominD gd ga gb ord sc => some (0x0E000024 + gd.val * 0x100000 + ga.val * 0x8000 + gb.val * 0x400 + ord.code * 0x100 + sc.code * 0x40)
  | .amomaxD gd ga gb ord sc => some (0x0E000025 + gd.val * 0x100000 + ga.val * 0x8000 + gb.val * 0x400 + ord.code * 0x100 + sc.code * 0x40)
  | .amominuD gd ga gb ord sc => some (0x0E000026 + gd.val * 0x100000 + ga.val * 0x8000 + gb.val * 0x400 + ord.code * 0x100 + sc.code * 0x40)
  | .amomaxuD gd ga gb ord sc => some (0x0E000027 + gd.val * 0x100000 + ga.val * 0x8000 + gb.val * 0x400 + ord.code * 0x100 + sc.code * 0x40)
  | .amoswpD gd ga gb ord sc => some (0x0E000028 + gd.val * 0x100000 + ga.val * 0x8000 + gb.val * 0x400 + ord.code * 0x100 + sc.code * 0x40)
  | .amocasD gd ga gb ord sc => some (0x0E000029 + gd.val * 0x100000 + ga.val * 0x8000 + gb.val * 0x400 + ord.code * 0x100 + sc.code * 0x40)
  | .amofaddD gd ga gb ord sc => some (0x0E00002A + gd.val * 0x100000 + ga.val * 0x8000 + gb.val * 0x400 + ord.code * 0x100 + sc.code * 0x40)
  | .redaddW ga gb ord sc => some (0x0E000030 + ga.val * 0x8000 + gb.val * 0x400 + ord.code * 0x100 + sc.code * 0x40)
  | .redaddD ga gb ord sc => some (0x0E000031 + ga.val * 0x8000 + gb.val * 0x400 + ord.code * 0x100 + sc.code * 0x40)
  | .redfaddW ga gb ord sc => some (0x0E000032 + ga.val * 0x8000 + gb.val * 0x400 + ord.code * 0x100 + sc.code * 0x40)
  | .redmaxW ga gb ord sc => some (0x0E000033 + ga.val * 0x8000 + gb.val * 0x400 + ord.code * 0x100 + sc.code * 0x40)
  | .redmaxD ga gb ord sc => some (0x0E000034 + ga.val * 0x8000 + gb.val * 0x400 + ord.code * 0x100 + sc.code * 0x40)
  | .fence set sc => some (0x10000000 + set.code * 0x80 + sc.code * 0x20)
  | .relb ga gb sc => some (0x10000001 + ga.val * 0x8000 + gb.val * 0x400 + sc.code * 0x20)
  | .acqb gd ga sc => some (0x10000002 + gd.val * 0x100000 + ga.val * 0x8000 + sc.code * 0x20)
  | .clwb ga => some (0x10000003 + ga.val * 0x8000)
  | .clinv ga => some (0x10000004 + ga.val * 0x8000)
  | .pref ga gb ef priv => some (0x10000005 + ga.val * 0x8000 + gb.val * 0x400 + ef.toNat * 0x100 + priv.toNat * 0x80)
  | .retain gd ga gb ways => some (0x10000006 + gd.val * 0x100000 + ga.val * 0x8000 + gb.val * 0x400 + ways.val * 0x20)
  | .unpin gd ga => some (0x10000007 + gd.val * 0x100000 + ga.val * 0x8000)
  | .send ga gb m => some (0x12000000 + ga.val * 0x8000 + gb.val * 0x400 + m.val * 0x20)
  | .sendb ga gb m sc => some (0x12000004 + ga.val * 0x8000 + gb.val * 0x400 + m.val * 0x20 + sc.code)
  | .recv gd m => some (0x12000008 + gd.val * 0x100000 + m.val * 0x20)
  | .recvany gd ga gb => some (0x1200000C + gd.val * 0x100000 + ga.val * 0x8000 + gb.val * 0x400)
  | .peek gd gb m => some (0x12000010 + gd.val * 0x100000 + gb.val * 0x400 + m.val * 0x20)
  | .cpy gd ga gb m sc => some (0x14000000 + gd.val * 0x100000 + ga.val * 0x8000 + gb.val * 0x400 + m.val * 0x20 + sc.code)
  | .cpyf gd ga gb m sc => some (0x14000004 + gd.val * 0x100000 + ga.val * 0x8000 + gb.val * 0x400 + m.val * 0x20 + sc.code)
  | .aredFp32 gd ga gb m => some (0x1400000B + gd.val * 0x100000 + ga.val * 0x8000 + gb.val * 0x400 + m.val * 0x20)
  | .aredBf16 gd ga gb m => some (0x1400000F + gd.val * 0x100000 + ga.val * 0x8000 + gb.val * 0x400 + m.val * 0x20)
  | .tld ta ga gb band ef => some (0x16000000 + ta.val * 0x200000 + ga.val * 0x1000 + gb.val * 0x80 + band.toNat * 0x40 + ef.toNat * 0x20)
  | .tst ta ga gb band ef => some (0x16000001 + ta.val * 0x200000 + ga.val * 0x1000 + gb.val * 0x80 + band.toNat * 0x40 + ef.toNat * 0x20)
  | .tgth ta tb ga gb band ef => some (0x16000002 + ta.val * 0x200000 + tb.val * 0x20000 + ga.val * 0x1000 + gb.val * 0x80 + band.toNat * 0x40 + ef.toNat * 0x20)
  | .tsct ta tb ga gb band ef => some (0x16000003 + ta.val * 0x200000 + tb.val * 0x20000 + ga.val * 0x1000 + gb.val * 0x80 + band.toNat * 0x40 + ef.toNat * 0x20)
  | .tshapeSet ta ga => some (0x16000004 + ta.val * 0x200000 + ga.val * 0x1000)
  | .tshapeRead ta gb => some (0x16000024 + ta.val * 0x200000 + gb.val * 0x80)
  | .tzero ta => some (0x16000005 + ta.val * 0x200000)
  | .tmov ta tb => some (0x16000006 + ta.val * 0x200000 + tb.val * 0x20000)
  | .tmovs ta ga gb size => some (0x16000007 + ta.val * 0x200000 + ga.val * 0x1000 + gb.val * 0x80 + size.code * 0x20)
  | .wld w fmt ga gb ef => some (0x16000008 + w.val * 0x200000 + fmt.code * 0x20000 + ga.val * 0x1000 + gb.val * 0x80 + ef.toNat * 0x20)
  | .wldt w tb => some (0x16000009 + w.val * 0x200000 + tb.val * 0x20000)
  | .accsv a ga => some (0x1600000A + a.val * 0x200000 + ga.val * 0x1000)
  | .accld a ga mode => some (0x1600000B + a.val * 0x200000 + ga.val * 0x1000 + mode.code * 0x20)
  | .tkadd gd ga gb => some (0x18000000 + gd.val * 0x100000 + ga.val * 0x8000 + gb.val * 0x400)
  | .tkaddb gd ga gb sc => some (0x18000001 + gd.val * 0x100000 + ga.val * 0x8000 + gb.val * 0x400 + sc.code * 0x20)
  | .recvt gd ga lgw lgh => some (0x18000002 + gd.val * 0x100000 + ga.val * 0x8000 + lgw.toNat * 0x1000 + lgh.toNat * 0x400)
  | .tkdone => some (0x18000003)
  | .tksnap ga gb => some (0x18000004 + ga.val * 0x8000 + gb.val * 0x400)
  | .lnch gd ga gb => some (0x18000005 + gd.val * 0x100000 + ga.val * 0x8000 + gb.val * 0x400)
  | .bar lgw lgh m => some (0x18000006 + lgw.toNat * 0x1000 + lgh.toNat * 0x400 + m.val * 0x20)
  | .lkacq ga m => some (0x18000007 + ga.val * 0x8000 + m.val * 0x20)
  | .lktry ga m => some (0x18000008 + ga.val * 0x8000 + m.val * 0x20)
  | .lkrel ga => some (0x18000009 + ga.val * 0x8000)
  | .mredAddI64 ga lgw lgh m => some (0x18000010 + ga.val * 0x8000 + lgw.toNat * 0x1000 + lgh.toNat * 0x400 + m.val * 0x20)
  | .mredMaxI64 ga lgw lgh m => some (0x18000011 + ga.val * 0x8000 + lgw.toNat * 0x1000 + lgh.toNat * 0x400 + m.val * 0x20)
  | .mredMinI64 ga lgw lgh m => some (0x18000012 + ga.val * 0x8000 + lgw.toNat * 0x1000 + lgh.toNat * 0x400 + m.val * 0x20)
  | .mredAndI64 ga lgw lgh m => some (0x18000013 + ga.val * 0x8000 + lgw.toNat * 0x1000 + lgh.toNat * 0x400 + m.val * 0x20)
  | .mredOrI64 ga lgw lgh m => some (0x18000014 + ga.val * 0x8000 + lgw.toNat * 0x1000 + lgh.toNat * 0x400 + m.val * 0x20)
  | .mredAddF32 ga lgw lgh m => some (0x18000018 + ga.val * 0x8000 + lgw.toNat * 0x1000 + lgh.toNat * 0x400 + m.val * 0x20)
  | .mredMaxF32 ga lgw lgh m => some (0x18000019 + ga.val * 0x8000 + lgw.toNat * 0x1000 + lgh.toNat * 0x400 + m.val * 0x20)
  | .mredMinF32 ga lgw lgh m => some (0x1800001A + ga.val * 0x8000 + lgw.toNat * 0x1000 + lgh.toNat * 0x400 + m.val * 0x20)
  | .sysrd gd n => some (0x1A000000 + gd.val * 0x100000 + n.toNat * 0x20)
  | .syswr ga n => some (0x1A000001 + ga.val * 0x8000 + n.toNat * 0x20)
  | .trap code => some (0x1A000002 + code.toNat * 0x20)
  | .tret => some (0x1A000003)
  | .xlatiRange ga gb p => some (0x1A000004 + ga.val * 0x8000 + gb.val * 0x400 + p.val * 0x80)
  | .xlatiAsid ga p => some (0x1A000024 + ga.val * 0x8000 + p.val * 0x80)
  | .xlatiAll p => some (0x1A000044 + p.val * 0x80)
  | .xlatp gd ga user acc => some (0x1A000005 + gd.val * 0x100000 + ga.val * 0x8000 + user.toNat * 0x80 + acc.code * 0x20)
  | .ctxsv ga => some (0x1A000006 + ga.val * 0x8000)
  | .ctxld ga => some (0x1A000007 + ga.val * 0x8000)
  | .halt => some (0x1A000008)
  | .nopC => some (0x1A000009)
  | .brk code => some (0x1C000000 + code.toNat * 0x20)
  | .trcmark ga code => some (0x1C000001 + ga.val * 0x8000 + code.toNat * 0x20)
  | .perfrd gd n => some (0x1C000002 + gd.val * 0x100000 + n.toNat * 0x20)
  | .add gd ga gb => some (0x40000000 + gd.val * 0x100000 + ga.val * 0x8000 + gb.val * 0x400)
  | .sub gd ga gb => some (0x40000001 + gd.val * 0x100000 + ga.val * 0x8000 + gb.val * 0x400)
  | .mul gd ga gb => some (0x40000002 + gd.val * 0x100000 + ga.val * 0x8000 + gb.val * 0x400)
  | .mulh gd ga gb => some (0x40000003 + gd.val * 0x100000 + ga.val * 0x8000 + gb.val * 0x400)
  | .mulhu gd ga gb => some (0x40000004 + gd.val * 0x100000 + ga.val * 0x8000 + gb.val * 0x400)
  | .div gd ga gb => some (0x40000005 + gd.val * 0x100000 + ga.val * 0x8000 + gb.val * 0x400)
  | .divu gd ga gb => some (0x40000006 + gd.val * 0x100000 + ga.val * 0x8000 + gb.val * 0x400)
  | .rem gd ga gb => some (0x40000007 + gd.val * 0x100000 + ga.val * 0x8000 + gb.val * 0x400)
  | .remu gd ga gb => some (0x40000008 + gd.val * 0x100000 + ga.val * 0x8000 + gb.val * 0x400)
  | .and gd ga gb => some (0x40000009 + gd.val * 0x100000 + ga.val * 0x8000 + gb.val * 0x400)
  | .or gd ga gb => some (0x4000000A + gd.val * 0x100000 + ga.val * 0x8000 + gb.val * 0x400)
  | .xor gd ga gb => some (0x4000000B + gd.val * 0x100000 + ga.val * 0x8000 + gb.val * 0x400)
  | .sll gd ga gb => some (0x4000000C + gd.val * 0x100000 + ga.val * 0x8000 + gb.val * 0x400)
  | .srl gd ga gb => some (0x4000000D + gd.val * 0x100000 + ga.val * 0x8000 + gb.val * 0x400)
  | .sra gd ga gb => some (0x4000000E + gd.val * 0x100000 + ga.val * 0x8000 + gb.val * 0x400)
  | .slt gd ga gb => some (0x4000000F + gd.val * 0x100000 + ga.val * 0x8000 + gb.val * 0x400)
  | .sltu gd ga gb => some (0x40000010 + gd.val * 0x100000 + ga.val * 0x8000 + gb.val * 0x400)
  | .min gd ga gb => some (0x40000011 + gd.val * 0x100000 + ga.val * 0x8000 + gb.val * 0x400)
  | .max gd ga gb => some (0x40000012 + gd.val * 0x100000 + ga.val * 0x8000 + gb.val * 0x400)
  | .minu gd ga gb => some (0x40000013 + gd.val * 0x100000 + ga.val * 0x8000 + gb.val * 0x400)
  | .maxu gd ga gb => some (0x40000014 + gd.val * 0x100000 + ga.val * 0x8000 + gb.val * 0x400)
  | .clz gd ga => some (0x40000015 + gd.val * 0x100000 + ga.val * 0x8000)
  | .ctz gd ga => some (0x40000016 + gd.val * 0x100000 + ga.val * 0x8000)
  | .popc gd ga => some (0x40000017 + gd.val * 0x100000 + ga.val * 0x8000)
  | .sel gd ga gb gc => some (0x40000018 + gd.val * 0x100000 + ga.val * 0x8000 + gb.val * 0x400 + gc.val * 0x20)
  | .addi gd ga imm => some (0x42000000 + gd.val * 0x100000 + ga.val * 0x8000 + imm.toNat)
  | .slti gd ga imm => some (0x42001000 + gd.val * 0x100000 + ga.val * 0x8000 + imm.toNat)
  | .andi gd ga imm => some (0x42002000 + gd.val * 0x100000 + ga.val * 0x8000 + imm.toNat)
  | .ori gd ga imm => some (0x42003000 + gd.val * 0x100000 + ga.val * 0x8000 + imm.toNat)
  | .xori gd ga imm => some (0x42004000 + gd.val * 0x100000 + ga.val * 0x8000 + imm.toNat)
  | .slli gd ga sh => some (0x42005000 + gd.val * 0x100000 + ga.val * 0x8000 + sh.toNat)
  | .srli gd ga sh => some (0x42006000 + gd.val * 0x100000 + ga.val * 0x8000 + sh.toNat)
  | .srai gd ga sh => some (0x42007000 + gd.val * 0x100000 + ga.val * 0x8000 + sh.toNat)
  | .lhi gd imm => some (0x44000000 + gd.val * 0x100000 + imm.toNat)
  | .bfxz gd ga pos width => some (0x46000000 + gd.val * 0x100000 + ga.val * 0x8000 + pos.toNat * 0x200 + width.toNat * 0x4)
  | .bfxs gd ga pos width => some (0x46000001 + gd.val * 0x100000 + ga.val * 0x8000 + pos.toNat * 0x200 + width.toNat * 0x4)
  | .bfins gd ga pos width => some (0x46000002 + gd.val * 0x100000 + ga.val * 0x8000 + pos.toNat * 0x200 + width.toNat * 0x4)
  | .fadd gd ga gb rnd => some (0x48000000 + gd.val * 0x100000 + ga.val * 0x8000 + gb.val * 0x400 + rnd.code * 0x80)
  | .fsub gd ga gb rnd => some (0x48000001 + gd.val * 0x100000 + ga.val * 0x8000 + gb.val * 0x400 + rnd.code * 0x80)
  | .fmul gd ga gb rnd => some (0x48000002 + gd.val * 0x100000 + ga.val * 0x8000 + gb.val * 0x400 + rnd.code * 0x80)
  | .fmin gd ga gb => some (0x48000003 + gd.val * 0x100000 + ga.val * 0x8000 + gb.val * 0x400)
  | .fmax gd ga gb => some (0x48000004 + gd.val * 0x100000 + ga.val * 0x8000 + gb.val * 0x400)
  | .fcvtif gd ga rnd => some (0x48000005 + gd.val * 0x100000 + ga.val * 0x8000 + rnd.code * 0x80)
  | .fcvtfi gd ga rnd => some (0x48000006 + gd.val * 0x100000 + ga.val * 0x8000 + rnd.code * 0x80)
  | .fcmp gd ga gb cond => some (0x48000007 + gd.val * 0x100000 + ga.val * 0x8000 + gb.val * 0x400 + cond.code * 0x80)
  | .ffma gd ga gb gc rnd => some (0x4A000000 + gd.val * 0x100000 + ga.val * 0x8000 + gb.val * 0x400 + gc.val * 0x20 + rnd.code * 0x4)
  | .tadd td ta tb sat rnd => some (0x4C000000 + td.val * 0x200000 + ta.val * 0x20000 + tb.val * 0x1000 + sat.toNat * 0x80 + rnd.code * 0x10)
  | .tsub td ta tb sat rnd => some (0x4C000001 + td.val * 0x200000 + ta.val * 0x20000 + tb.val * 0x1000 + sat.toNat * 0x80 + rnd.code * 0x10)
  | .tmul td ta tb sat rnd => some (0x4C000002 + td.val * 0x200000 + ta.val * 0x20000 + tb.val * 0x1000 + sat.toNat * 0x80 + rnd.code * 0x10)
  | .tfma td ta tb tc sat rnd => some (0x4C000003 + td.val * 0x200000 + ta.val * 0x20000 + tb.val * 0x1000 + tc.val * 0x100 + sat.toNat * 0x80 + rnd.code * 0x10)
  | .tmax td ta tb => some (0x4C000004 + td.val * 0x200000 + ta.val * 0x20000 + tb.val * 0x1000)
  | .tmin td ta tb => some (0x4C000005 + td.val * 0x200000 + ta.val * 0x20000 + tb.val * 0x1000)
  | .tand td ta tb => some (0x4C000006 + td.val * 0x200000 + ta.val * 0x20000 + tb.val * 0x1000)
  | .tor td ta tb => some (0x4C000007 + td.val * 0x200000 + ta.val * 0x20000 + tb.val * 0x1000)
  | .txor td ta tb => some (0x4C000008 + td.val * 0x200000 + ta.val * 0x20000 + tb.val * 0x1000)
  | .tsel td ta tb tc => some (0x4C000009 + td.val * 0x200000 + ta.val * 0x20000 + tb.val * 0x1000 + tc.val * 0x100)
  | .tcmp td ta tb cond => some (0x4C00000A + td.val * 0x200000 + ta.val * 0x20000 + tb.val * 0x1000 + cond.code * 0x100)
  | .tscl td ta gb sat rnd => some (0x4C00000B + td.val * 0x200000 + ta.val * 0x20000 + gb.val * 0x1000 + sat.toNat * 0x80 + rnd.code * 0x10)
  | .tclamp td ta gb sat rnd => some (0x4C00000C + td.val * 0x200000 + ta.val * 0x20000 + gb.val * 0x1000 + sat.toNat * 0x80 + rnd.code * 0x10)
  | .tabs td ta sat => some (0x4E000000 + td.val * 0x200000 + ta.val * 0x20000 + sat.toNat * 0x80)
  | .tneg td ta sat => some (0x4E000001 + td.val * 0x200000 + ta.val * 0x20000 + sat.toNat * 0x80)
  | .texp2 td ta sat rnd => some (0x4E000002 + td.val * 0x200000 + ta.val * 0x20000 + sat.toNat * 0x80 + rnd.code * 0x10)
  | .tlog2 td ta sat rnd => some (0x4E000003 + td.val * 0x200000 + ta.val * 0x20000 + sat.toNat * 0x80 + rnd.code * 0x10)
  | .trcp td ta sat rnd => some (0x4E000004 + td.val * 0x200000 + ta.val * 0x20000 + sat.toNat * 0x80 + rnd.code * 0x10)
  | .trsq td ta sat rnd => some (0x4E000005 + td.val * 0x200000 + ta.val * 0x20000 + sat.toNat * 0x80 + rnd.code * 0x10)
  | .tsqrt td ta sat rnd => some (0x4E000006 + td.val * 0x200000 + ta.val * 0x20000 + sat.toNat * 0x80 + rnd.code * 0x10)
  | .tcvt td ta part fmt sat rnd => some (0x4E000007 + td.val * 0x200000 + ta.val * 0x20000 + part.val * 0x1000 + fmt.code * 0x100 + sat.toNat * 0x80 + rnd.code * 0x10)
  | .tqnt td ta blk ty sat rnd => some (0x4E000008 + td.val * 0x200000 + ta.val * 0x20000 + blk.val * 0x1000 + ty.code * 0x100 + sat.toNat * 0x80 + rnd.code * 0x10)
  | .tred td ta op col sat rnd => some (0x4E000009 + td.val * 0x200000 + ta.val * 0x20000 + op.code * 0x400 + col.toNat * 0x100 + sat.toNat * 0x80 + rnd.code * 0x10)
  | .tbc td ta gb mode => some (0x4E00000A + td.val * 0x200000 + ta.val * 0x20000 + gb.val * 0x1000 + mode.code * 0x100)
  | .ttr td ta => some (0x4E00000B + td.val * 0x200000 + ta.val * 0x20000)
  | .tiota td ta gb sat rnd => some (0x4E00000C + td.val * 0x200000 + ta.val * 0x20000 + gb.val * 0x1000 + sat.toNat * 0x80 + rnd.code * 0x10)
  | .trnd td ta gb mode sat rnd => some (0x4E00000D + td.val * 0x200000 + ta.val * 0x20000 + gb.val * 0x1000 + mode.code * 0x100 + sat.toNat * 0x80 + rnd.code * 0x10)
  | .mma a t w q => some (0x50000000 + a.val * 0x800000 + t.val * 0x80000 + w.val * 0x4000 + q.val * 0x1000)
  | .mmaz a t w q => some (0x50000001 + a.val * 0x800000 + t.val * 0x80000 + w.val * 0x4000 + q.val * 0x1000)
  | .accz a mode => some (0x50000002 + a.val * 0x800000 + mode.code * 0x1000)
  | .drain a t gs q h he sat rnd => some (0x50000003 + a.val * 0x800000 + t.val * 0x80000 + gs.val * 0x4000 + q.val * 0x1000 + h.val * 0x400 + he.toNat * 0x200 + sat.toNat * 0x100 + rnd.code * 0x20)
  | .hstrd t h => some (0x50000004 + t.val * 0x80000 + h.val * 0x400)
  | .hstclr h => some (0x50000005 + h.val * 0x400)
  | .xnop => some (0x52000000)
  | .markTableClear _ => none
  | .homeRead _ => none
  | .hbmFill _ => none
  | .fillArrival _ => none
  | .storeRound _ => none
  | .sharerUpdate _ => none
  | .updateAck _ => none
  | .roundCommit _ => none
  | .storeDone _ => none
  | .evictionNotice _ => none
  | .recall _ => none
  | .gatherRequest _ => none
  | .gRecall _ => none
  | .gatheredCopy _ => none
  | .wayRequest _ => none
  | .amoAtHome _ => none
  | .amoReply _ => none
  | .scratchpadPortAccess _ => none
  | .hostAgentRequest _ => none
  | .hostCompletion _ _ => none
  | .peerAccess _ => none
  | .postedRefusal _ => none
  | .machineCheckPosted _ => none
  | .uLineAgeExpiry _ _ => none
  | .carryFrameShift _ => none
  | .accessLockTimeout _ => none
  | .requestPromotion _ => none
  | .escapeChannelMove _ => none
  | .sharedPointPromotion _ => none
  | .copyMark _ => none
  | .copyEngineWrite _ _ _ => none
  | .copyCompletion _ => none
  | .aredMatch _ _ _ => none
  | .aredChunk _ _ _ => none
  | .aredCompletion _ => none
  | .retentionRequest _ => none
  | .stcRequest _ => none
  | .walkComplete _ => none
  | .atsCompletion _ _ => none
  | .priResponse _ _ _ _ => none
  | .atsInvalidation _ _ _ _ => none
  | .xlatiRemoval _ => none
  | .boundaryDrop _ _ _ => none
  | .messageArrival _ => none
  | .loftMove _ _ => none
  | .sendRetry _ => none
  | .mailboxOverflow _ => none
  | .taskArrival _ => none
  | .stealRequest _ => none
  | .stealReply _ => none
  | .taskCompletionReport _ => none
  | .episodeContribution _ => none
  | .qportWrite _ _ _ _ => none
  | .dispatch _ => none
  | .preemptionSave _ => none
  | .launchStart _ => none
  | .streamResume _ => none
  | .lateRingAppend _ => none
  | .sweep _ => none
  | .launchEnd _ => none
  | .lnchRequest _ => none
  | .lockRequest _ => none
  | .lockLink _ => none
  | .handoff _ => none
  | .lockMoved _ => none
  | .lockFree _ => none
  | .lockFreed _ => none
  | .withdraw _ => none
  | .lockPass _ => none
  | .withdrawRetry _ => none
  | .lockWaitTimeout _ _ => none
  | .lockSaved _ => none
  | .lockResume _ => none
  | .probeTimer _ _ => none
  | .probe _ => none
  | .quiesce _ => none
  | .quiesceComplete _ => none
  | .quiesceLimit _ => none
  | .flush _ => none
  | .flushComplete _ => none
  | .paddockResume _ => none
  | .kill _ _ => none
  | .prictlWrite _ _ => none
  | .loftctlWrite _ _ => none
  | .linkWindowWrite _ _ _ => none
  | .linkWindowTable _ => none
  | .rrctlWrite _ _ => none
  | .replayDiverge _ _ => none
  | .haltreq _ => none
  | .debugHalt _ => none
  | .debugResume _ => none
  | .debugStep _ => none
  | .traceSinkWrite _ _ => none
  | .traceOverflow _ => none
  | .registerWrite _ _ _ => none
  | .scrub _ _ => none
  | .coreLoss _ => none
  | .coreLossNiTimeout _ => none
  | .ackTimeout _ _ => none
  | .machineCheckFenceOff _ => none
  | .beatReplay _ _ => none
  | .meshLinkFailure _ _ => none
  | .detourComputed _ _ => none
  | .ucieLaneLoss _ => none
  | .ucieRetrainDone _ _ => none
  | .dieWarmReset _ => none
  | .dieReadmit _ _ => none
  | .powerControl _ _ => none
  | .pwrctlCap _ => none
  | .thermalThrottle _ => none
  | .thermalShutdown => none
  | .ageingReplan _ _ _ => none
  | .cardReset => none
  | .perstDeassert => none
  | .imageVerified _ _ => none
  | .selfTestComplete _ => none
  | .configurationRequest => none
  | .feataccWrite _ => none
  | .sahaxTraining _ => none
  | .sahaxTrainTimeout => none
  | .paddockActivation _ => none
  | .hostBar2Access _ _ _ _ => none
  | .sahaxFlit _ _ _ _ => none
  | .sahaxNak _ => none
  | .sahaxLinkLoss => none
  | .sahaxRetrainAttempt _ => none
  | .sahaxRetrainComplete => none
  | .hbmWriteComplete _ => none

end Sys2Proof
end

