-- ==== Sys2Proof/Machine/Gen.lean ====
section
/-! DEFINITION. The generator (03 R74, R89 to R91): one step, the draws an instruction takes, seeding and jumping ahead. -/
namespace Sys2Proof.Machine

/-- The generator's state: the halves lo and hi (R89). -/
structure GenState where
  lo : Word
  hi : Word
  deriving DecidableEq, Repr

/-- GenMix of R89. -/
def genMix (z : Word) : Word :=
  let z := z ^^^ (z >>> 31)
  let z := z * 0xA3B195C74E2D6F0B
  let z := z ^^^ (z >>> 27)
  let z := z * 0x8C4F2D63B75A1E95
  z ^^^ (z >>> 33)

/-- The linear map of one step (R89). -/
def genAdvance (g : GenState) : GenState :=
  let x := g.lo ^^^ (g.lo <<< 23)
  { lo := g.hi, hi := x ^^^ g.hi ^^^ (x >>> 17) ^^^ (g.hi >>> 26) }

/-- GenStep of R89: the new state and the output, mixed from the new halves' sum. -/
def genStep (g : GenState) : GenState × Word :=
  let g' := genAdvance g
  (g', genMix (g'.lo + g'.hi))

/-- The next n outputs, oldest first, and the state after them. -/
def genOutputs : Nat → GenState → List Word × GenState
  | 0, g => ([], g)
  | n + 1, g =>
    let (g1, z) := genStep g
    let (zs, g2) := genOutputs n g1
    (z :: zs, g2)

/-- The four draws of an output, in order (R74). -/
def drawsOf (z : Word) : List Nat :=
  [z.toNat % 65536, z.toNat / 65536 % 65536, z.toNat / 4294967296 % 65536, z.toNat / 281474976710656]

/-- The n draws of an instruction under SR, and the state after its ceil(n/4) steps (R74). -/
def takeDraws (n : Nat) (g : GenState) : List Nat × GenState :=
  let (zs, g') := genOutputs ((n + 3) / 4) g
  ((zs.flatMap drawsOf).take n, g')

/-- The state as 128 bits, lo in the low half (R376). -/
def genBits (g : GenState) : Nat := g.lo.toNat + g.hi.toNat * 2 ^ 64
/-- The state of 128 bits. -/
def genOfBits (n : Nat) : GenState := { lo := BitVec.ofNat 64 n, hi := BitVec.ofNat 64 (n / 2 ^ 64) }

/-- A linear map over GF(2) on 128 bits, as the images of the basis vectors from bit 0 up, applied to a vector. -/
def gf2Apply : List Nat → Nat → Nat
  | [], _ => 0
  | c :: cs, v => (if v % 2 == 1 then c else 0) ^^^ gf2Apply cs (v / 2)
/-- The map of one step. -/
def gf2Step : List Nat := (List.range 128).map fun i => genBits (genAdvance (genOfBits (2 ^ i)))
/-- The map applied to itself k times over: its 2^k-th power. -/
def gf2Square : Nat → List Nat → List Nat
  | 0, m => m
  | k + 1, m => gf2Square k (m.map (gf2Apply m))
/-- The map of 2^64 steps. -/
def gf2Jump : List Nat := gf2Square 64 gf2Step
/-- A map applied n times. -/
def gf2Times (m : List Nat) : Nat → Nat → Nat
  | 0, v => v
  | n + 1, v => gf2Times m n (gf2Apply m v)

/-- GenSeed of R90: the seed's state, jumped ahead by idx * 2^64 steps. -/
def genSeed (seed : Word) (idx : Nat) : GenState :=
  let g : GenState := { lo := seed ^^^ 0x5D3B91C42E7A60F9, hi := ~~~ seed }
  genOfBits (gf2Times gf2Jump idx (genBits g))

end Sys2Proof.Machine
end

