-- ==== Sys2Proof/Config.lean ====
section
/-! DEFINITION. The free values: what the spec leaves open. Each is a constant with no body, so that nothing can be
proved of a value of it. The first argument of most is the counter `tick` of the state, so that each use is its own. -/
namespace Sys2Proof

/-- R42: whether a fetch of a code word that was stored to since its line was fetched returns the old word (DESIGN CHOICE, log entry 9). -/
opaque Config.fetchOld : Nat → Bool
/-- R35, R418: the low 12 bits of CYC, which count cycles (timing is left out of the model) (DESIGN CHOICE, log entry 7). -/
opaque Config.cycLow : Nat → BitVec 12
/-- R418: by how much a counter that counts cycles or timing-dependent happenings has moved since it was read last (DESIGN CHOICE, log entry 7). -/
opaque Config.timedCounter : Nat → Nat → BitVec 62
/-- R223: whether the last commit of a line lies within the window of 12,288 cycles, where the frames of CYC do not settle it; at a core's own
T copy the line, the core and its count of bundles tell one use from another (DESIGN CHOICE, log entry 12). -/
opaque Config.fresh : Nat → List Nat → Bool
/-- R216: whether a fill that travels took more than 2,048 cycles (DESIGN CHOICE, log entry 12). -/
opaque Config.slowFill : Nat → Bool
/-- R307: whether 2^16 cycles have passed since a line's last OVERDUE, where the frames of CYC do not settle it (DESIGN CHOICE, log entry
35). -/
opaque Config.overdueAgain : Nat → Bool
/-- R30, R374: what a register of the peer card's control blocks holds, as a line (DESIGN CHOICE, log entry 68). -/
opaque Config.peerRegisters : Nat → BitVec 1024
/-- R291: the queue wait of a task, in cycles (DESIGN CHOICE, log entry 7). -/
opaque Config.queueWait : Nat → BitVec 32
/-- R356: which entry of a run whose entries differ translates (DESIGN CHOICE, log entry 16). -/
opaque Config.runEntry : Nat → Fin 16
/-- R191, R252: whether the engine reads a source element that was overwritten at its old value (DESIGN CHOICE, log entry 17). -/
opaque Config.copyOld : Nat → Bool
/-- R192, R257: an element of an all-reduce buffer that was stored to, or whose link was lost: which value it holds (DESIGN CHOICE, log entry 18). -/
opaque Config.aredByte : Nat → Nat → Byte
/-- R253, R404: bytes left undefined by a memory error or a lost write-back (DESIGN CHOICE, log entry 19). -/
opaque Config.lostByte : Nat → Nat → Byte
/-- R404: whether a dirty line cannot be written back when its die is reset, by line number (DESIGN CHOICE, log entry 19). -/
opaque Config.writeBackFails : Nat → Nat → Bool
/-- R370: the home slice when the interleave registers disagree (DESIGN CHOICE, log entry 20). -/
opaque Config.badHome : Nat → Nat
/-- R386, R251, R255: EVA of a COPY-LENGTH fault of CPY, CPYF or ARED, where no address is at fault (DESIGN CHOICE, log entry 43). -/
opaque Config.faultAddress : Nat → Word
/-- R396, R420: a duration in cycles that a record or a packet carries (DESIGN CHOICE, log entry 7). -/
opaque Config.duration : Nat → BitVec 32
/-- R443: a reading of a delay monitor, in ps (DESIGN CHOICE, log entry 7). -/
opaque Config.monitorSlack : Nat → BitVec 16
/-- R442: the voltage limit of the signed image, in quarters of a millivolt (DESIGN CHOICE, log entry 7). -/
opaque Config.voltageLimit : Nat
/-- R364: how many page requests the host lets a set's function hold outstanding, less one (DESIGN CHOICE, log entry 77). -/
opaque Config.pageRequests : Nat → BitVec 32

end Sys2Proof
end

