-- ==== Sys2Proof/Machine/Flags.lean ====
section
/-! DEFINITION. The sticky arithmetic flags of vstat (02 R37, 03 R92) as a set that instructions OR together. -/
namespace Sys2Proof.Machine

/-- A set of sticky flags, at their bits of vstat (R37). -/
abbrev Flags := BitVec 5

/-- No flag. -/
def noFlags : Flags := 0
/-- Invalid operation (R92). -/
def flagNV : Flags := 1
/-- Overflow (R92). -/
def flagOF : Flags := 2
/-- Underflow (R92). -/
def flagUF : Flags := 4
/-- Inexact (R92). -/
def flagNX : Flags := 8
/-- Scale underflow in TQNT (R78). -/
def flagSU : Flags := 16

/-- The flags f if c holds, else none. -/
def flagIf (c : Bool) (f : Flags) : Flags := if c then f else noFlags

/-- R37: what a write of vstat keeps: its five flags; reserved bits are ignored. -/
def vstatWrite (v : Word) : Flags := v.setWidth 5

end Sys2Proof.Machine
end

