-- ==== Sys2Proof/Machine/Num.lean ====
section
/-! DEFINITION. Exact results (03 R61 to R77, R87): the exact value of an element, exact addition and multiplication,
rounding onto a format's grid, delivery with saturation and the special-value table, and the special functions.
Bit patterns are natural numbers here; a register or a tile cuts them to width. -/
namespace Sys2Proof.Machine

/-- An exact result: NaN, an infinity, or the real (-1)^neg * (m + t) * 2^e, where t is 0, or, with `sticky`, some real
strictly between 0 and 1 (a result cut below its last bit; only the special functions make one). -/
inductive Ex where
  | nan
  | inf (neg : Bool)
  | fin (neg : Bool) (m : Nat) (e : Int) (sticky : Bool)
  deriving DecidableEq, Repr

/-- +0. -/
def exZero : Ex := .fin false 0 0 false
/-- The exact value of an integer (an integer zero counts as +0). -/
def exOfInt (v : Int) : Ex := .fin (v < 0) v.natAbs 0 false

/-- The bytes of one element of a format other than Q4 (R94). -/
def fmtBytes : Fmt → Nat
  | .fp32 => 4 | .int32 => 4 | .bf16 => 2 | .fp16 => 2 | .e4m3 => 1 | .e5m2 => 1 | .int8 => 1 | .q4 => 1
/-- Whether the format is one of the five floating formats (R120). -/
def fmtFloat : Fmt → Bool
  | .fp32 => true | .bf16 => true | .fp16 => true | .e4m3 => true | .e5m2 => true
  | .int8 => false | .int32 => false | .q4 => false
/-- Whether the format is numeric: any but Q4 (R120). -/
def fmtNumeric (f : Fmt) : Bool := f != .q4

/-- The fraction bits M of a floating format (R61). -/
def fracBits : Fmt → Nat
  | .fp32 => 23 | .bf16 => 7 | .fp16 => 10 | .e4m3 => 3 | .e5m2 => 2 | .int8 => 0 | .int32 => 0 | .q4 => 0
/-- The exponent of the smallest normal of a floating format: 1 less its bias (R61, R63). -/
def expMin : Fmt → Int
  | .fp32 => -126 | .bf16 => -126 | .fp16 => -14 | .e4m3 => -6 | .e5m2 => -14 | .int8 => 0 | .int32 => 0 | .q4 => 0
/-- The pattern of the largest finite magnitude (R63). -/
def maxFinite : Fmt → Nat
  | .fp32 => 0x7F7FFFFF | .bf16 => 0x7F7F | .fp16 => 0x7BFF | .e4m3 => 0x7E | .e5m2 => 0x7B
  | .int8 => 0x7F | .int32 => 0x7FFFFFFF | .q4 => 7
/-- The pattern of +infinity (R63); E4M3 has none. -/
def infPattern : Fmt → Nat
  | .fp32 => 0x7F800000 | .bf16 => 0x7F80 | .fp16 => 0x7C00 | .e4m3 => 0x7F | .e5m2 => 0x7C
  | .int8 => 0 | .int32 => 0 | .q4 => 0
/-- The canonical NaN (R63). -/
def canonicalNaN : Fmt → Nat
  | .fp32 => 0x7FC00000 | .bf16 => 0x7FC0 | .fp16 => 0x7E00 | .e4m3 => 0x7F | .e5m2 => 0x7E
  | .int8 => 0 | .int32 => 0 | .q4 => 0
/-- The sign bit's weight. -/
def signBit (f : Fmt) : Nat := 2 ^ (8 * fmtBytes f - 1)

/-- The exact value of a pattern of a floating format (R62). -/
def floatExact (f : Fmt) (bits : Nat) : Ex :=
  let sgn := bits / signBit f % 2 == 1
  let mag := bits % signBit f
  let m := mag % 2 ^ fracBits f
  let ex := mag / 2 ^ fracBits f
  if maxFinite f < mag then
    (if f == .e4m3 then .nan else if m == 0 then .inf sgn else .nan)
  else if ex == 0 then .fin sgn m (expMin f - fracBits f) false
  else .fin sgn (2 ^ fracBits f + m) (expMin f + (ex : Int) - 1 - fracBits f) false

/-- Two's complement reading of the low n bits. -/
def signedOf (n bits : Nat) : Int :=
  if bits % 2 ^ n < 2 ^ (n - 1) then (bits % 2 ^ n : Nat) else (bits % 2 ^ n : Nat) - (2 ^ n : Nat)

/-- The exact value of an element of a numeric format (R61, R62). -/
def exactOf (f : Fmt) (bits : Nat) : Ex :=
  match f with
  | .int8 => exOfInt (signedOf 8 bits)
  | .int32 => exOfInt (signedOf 32 bits)
  | _ => floatExact f bits

/-- Whether the value is NaN. -/
def Ex.isNaN : Ex → Bool | .nan => true | _ => false
/-- Whether the value is an infinity. -/
def Ex.isInf : Ex → Bool | .inf _ => true | _ => false
/-- Whether the value is an exact zero. -/
def Ex.isZero : Ex → Bool | .fin _ m _ s => m == 0 && !s | _ => false
/-- The sign of a value that is not NaN. -/
def Ex.neg : Ex → Bool | .nan => false | .inf s => s | .fin s _ _ _ => s
/-- The value with its sign turned over. -/
def Ex.negate : Ex → Ex | .nan => .nan | .inf s => .inf (!s) | .fin s m e t => .fin (!s) m e t
/-- The magnitude. -/
def Ex.abs : Ex → Ex | .nan => .nan | .inf _ => .inf false | .fin _ m e t => .fin false m e t

/-- A signed magnitude as an integer multiple of 2^lo, for lo not above its exponent. -/
def alignTo (lo : Int) (neg : Bool) (m : Nat) (e : Int) : Int :=
  let v : Nat := m * 2 ^ (e - lo).toNat
  if neg then -(v : Int) else v

/-- The exact sum of two exact values, and NV for infinity minus infinity (R70). The rounding mode decides the sign of an
exact zero from operands of opposite sign (R72). -/
def exAdd (rnd : Rnd) (x y : Ex) : Ex × Flags :=
  match x, y with
  | .nan, _ => (.nan, noFlags)
  | _, .nan => (.nan, noFlags)
  | .inf s, .inf t => if s == t then (.inf s, noFlags) else (.nan, flagNV)
  | .inf s, .fin .. => (.inf s, noFlags)
  | .fin .., .inf s => (.inf s, noFlags)
  | .fin s m e _, .fin t n k _ =>
    let lo := min e k
    let v := alignTo lo s m e + alignTo lo t n k
    if v == 0 then
      (.fin (if s == t then s else rnd == .rdn) 0 lo false, noFlags)
    else (.fin (v < 0) v.natAbs lo false, noFlags)

/-- The exact product, and NV for zero times infinity (R70, R72). -/
def exMul (x y : Ex) : Ex × Flags :=
  match x, y with
  | .nan, _ => (.nan, noFlags)
  | _, .nan => (.nan, noFlags)
  | .inf s, .inf t => (.inf (s != t), noFlags)
  | .inf s, .fin t n _ _ => if n == 0 then (.nan, flagNV) else (.inf (s != t), noFlags)
  | .fin s m _ _, .inf t => if m == 0 then (.nan, flagNV) else (.inf (s != t), noFlags)
  | .fin s m e _, .fin t n k _ => (.fin (s != t) (m * n) (e + k) false, noFlags)

/-- The order of two exact values as numbers (zeros equal), or none if either is NaN (R127). -/
def exCompare (x y : Ex) : Option Ordering :=
  match x, y with
  | .nan, _ => none
  | _, .nan => none
  | .inf s, .inf t => some (if s == t then .eq else if s then .lt else .gt)
  | .inf s, .fin .. => some (if s then .lt else .gt)
  | .fin .., .inf t => some (if t then .gt else .lt)
  | .fin s m e _, .fin t n k _ => some (compare (alignTo (min e k) s m e) (alignTo (min e k) t n k))

/-- x orders below y with -0 below +0 (R72), for values that are not NaN. -/
def exBelow (x y : Ex) : Bool :=
  match exCompare x y with
  | some .lt => true
  | some .eq => x.neg && !y.neg
  | _ => false

/-- The condition of R127. -/
def condHolds (c : Cond) (x y : Ex) : Bool :=
  match c, exCompare x y with
  | .eq, o => o == some .eq
  | .ne, o => o != some .eq
  | .lt, o => o == some .lt
  | .le, o => o == some .lt || o == some .eq
  | .gt, o => o == some .gt
  | .ge, o => o == some .gt || o == some .eq
  | .un, o => o == none
  | .ord, o => o != none

/-! ### Rounding -/

/-- R73: whether the magnitude rounds up from its grid point lo. `rem`/2^sh (and a little more if `sticky`) is f; `odd` says
that lo's last bit is odd; d is the draw. -/
def roundsUp (rnd : Rnd) (neg odd : Bool) (rem sh : Nat) (sticky : Bool) (d : Nat) : Bool :=
  if rem == 0 && !sticky then false
  else match rnd with
    | .rne => decide (2 ^ sh < 2 * rem) || (2 * rem == 2 ^ sh && (sticky || odd))
    | .rtz => false
    | .rdn => neg
    | .rup => !neg
    | .sr => decide (65536 ≤ rem * 65536 / 2 ^ sh + d)

/-- R73: the magnitude m*2^e (and a little more if sticky) rounded to a multiple of 2^u: the multiple, and whether it is
inexact. -/
def roundAt (rnd : Rnd) (neg : Bool) (m : Nat) (e : Int) (sticky : Bool) (u : Int) (d : Nat) : Nat × Bool :=
  if u ≤ e then (m * 2 ^ (e - u).toNat + (if sticky && roundsUp rnd neg false 0 0 true d then 1 else 0), sticky)
  else
    let sh := (u - e).toNat
    let lo := m / 2 ^ sh
    let rem := m % 2 ^ sh
    ((if roundsUp rnd neg (lo % 2 == 1) rem sh sticky d then lo + 1 else lo), rem != 0 || sticky)

/-- The exponent of the grid at a magnitude (R73): max(floor(log2 v), emin) - M. -/
def gridExp (f : Fmt) (m : Nat) (e : Int) : Int :=
  (if m == 0 then expMin f else max (m.log2 + e) (expMin f)) - fracBits f

/-- R76: the pattern an overflow delivers, without the sign. -/
def overflowMag (f : Fmt) (rnd : Rnd) (sat neg : Bool) : Nat :=
  if sat then maxFinite f
  else match rnd with
    | .rtz => maxFinite f
    | .rdn => if neg then infPattern f else maxFinite f
    | .rup => if neg then maxFinite f else infPattern f
    | .rne => infPattern f
    | .sr => infPattern f

/-- Delivery into a floating format (R71, R73, R76, R92): the pattern and the flags. -/
def deliverFloat (f : Fmt) (rnd : Rnd) (sat : Bool) (d : Nat) (x : Ex) : Nat × Flags :=
  match x with
  | .nan => (canonicalNaN f, noFlags)
  | .inf s =>
    let sg := if s then signBit f else 0
    if sat then (sg + maxFinite f, flagOF ||| flagNX)
    else if f == .e4m3 then (canonicalNaN f, flagNV)
    else (sg + infPattern f, noFlags)
  | .fin s m e t =>
    let sg := if s then signBit f else 0
    let u := gridExp f m e
    let (r, nx) := roundAt rnd s m e t u d
    let mag := (u - (expMin f - fracBits f)).toNat * 2 ^ fracBits f + r
    if maxFinite f < mag then
      let o := overflowMag f rnd sat s
      ((if f == .e4m3 && maxFinite f < o then canonicalNaN f else sg + o), flagOF ||| flagNX)
    else (sg + mag, flagIf nx flagNX ||| flagIf (nx && mag < 2 ^ fracBits f) flagUF)

/-- R77 step 2: an exact integer put into n bits, clamped or cut, with OF out of range. -/
def deliverInt (n : Nat) (sat : Bool) (v : Int) : Nat × Flags :=
  let top : Int := (2 ^ (n - 1) : Nat)
  if -top ≤ v && v < top then ((v % (2 ^ n : Nat)).toNat, noFlags)
  else if sat then ((if v < 0 then 2 ^ (n - 1) else 2 ^ (n - 1) - 1), flagOF)
  else ((v % (2 ^ n : Nat)).toNat, flagOF)

/-- Delivery into INT8 or INT32 (R71, R77, R92). -/
def deliverFixed (n : Nat) (rnd : Rnd) (sat : Bool) (d : Nat) (x : Ex) : Nat × Flags :=
  match x with
  | .nan => (0, flagNV)
  | .inf s => if sat then ((if s then 2 ^ (n - 1) else 2 ^ (n - 1) - 1), flagOF) else (0, flagNV)
  | .fin s m e t =>
    let (r, nx) := roundAt rnd s m e t 0 d
    let (v, fl) := deliverInt n sat (if s then -(r : Int) else r)
    (v, if fl == noFlags then flagIf nx flagNX else fl)

/-- Delivery of an exact result into a numeric format (R71 to R77): the pattern and the flags. -/
def deliver (f : Fmt) (rnd : Rnd) (sat : Bool) (d : Nat) (x : Ex) : Nat × Flags :=
  match f with
  | .int8 => deliverFixed 8 rnd sat d x
  | .int32 => deliverFixed 32 rnd sat d x
  | _ => deliverFloat f rnd sat d x

/-- Delivery of a result that already carries flags. -/
def deliverWith (f : Fmt) (rnd : Rnd) (sat : Bool) (d : Nat) (x : Ex × Flags) : Nat × Flags :=
  let r := deliver f rnd sat d x.1
  (r.1, r.2 ||| x.2)

/-! ### The arithmetic of one element -/

/-- a + b (R123). -/
def addExact (rnd : Rnd) (x y : Ex) : Ex × Flags := exAdd rnd x y
/-- a - b (R123). -/
def subExact (rnd : Rnd) (x y : Ex) : Ex × Flags := exAdd rnd x y.negate
/-- a * b + c with one rounding; zero times infinity sets NV whatever c is (R123, R143). -/
def fmaExact (rnd : Rnd) (x y c : Ex) : Ex × Flags :=
  let p := exMul x y
  let r := exAdd rnd p.1 c
  (r.1, r.2 ||| p.2)

/-- The larger of two patterns of a format, unchanged, with the canonical NaN for a NaN operand (R124). -/
def maxPattern (f : Fmt) (a b : Nat) : Nat :=
  let x := exactOf f a
  let y := exactOf f b
  if x.isNaN || y.isNaN then canonicalNaN f else if exBelow x y then b else a
/-- The smaller of two patterns (R124). -/
def minPattern (f : Fmt) (a b : Nat) : Nat :=
  let x := exactOf f a
  let y := exactOf f b
  if x.isNaN || y.isNaN then canonicalNaN f else if exBelow y x then b else a

/-- The larger of two exact values for a clamp, where a NaN bound is no bound (R125). -/
def clampLow (x lo : Ex) : Ex := if lo.isNaN then x else if exBelow x lo then lo else x
/-- The smaller of two exact values for a clamp (R125). -/
def clampHigh (x hi : Ex) : Ex := if hi.isNaN then x else if exBelow hi x then hi else x
/-- min(max(a, lo), hi), NaN for a NaN element (R125). -/
def clampExact (x lo hi : Ex) : Ex := if x.isNaN then .nan else clampHigh (clampLow x lo) hi

/-! ### Special functions (R87) -/

/-- One run of Newton's iteration for the integer square root, from a start not below it. -/
def sqrtLoop (n : Nat) : Nat → Nat → Nat
  | 0, x => x
  | k + 1, x => if (x + n / x) / 2 < x then sqrtLoop n k ((x + n / x) / 2) else x
/-- The integer square root. -/
def isqrt (n : Nat) : Nat := if n == 0 then 0 else sqrtLoop n 64 (2 ^ (n.log2 / 2 + 1))

/-- 1/x. -/
def rcpExact : Ex → Ex × Flags
  | .nan => (.nan, noFlags)
  | .inf s => (.fin s 0 0 false, noFlags)
  | .fin s m e _ =>
    if m == 0 then (.inf s, noFlags)
    else (.fin s (2 ^ 160 / m) (-160 - e) (2 ^ 160 % m != 0), noFlags)

/-- The square root of x. -/
def sqrtExact : Ex → Ex × Flags
  | .nan => (.nan, noFlags)
  | .inf s => if s then (.nan, flagNV) else (.inf false, noFlags)
  | .fin s m e _ =>
    if m == 0 then (.fin s 0 0 false, noFlags)
    else if s then (.nan, flagNV)
    else
      let n := m * 2 ^ (if e % 2 == 0 then 160 else 161)
      let k := e - (if e % 2 == 0 then 160 else 161)
      (.fin false (isqrt n) (k / 2) (isqrt n * isqrt n != n), noFlags)

/-- The reciprocal square root of x. -/
def rsqrtExact : Ex → Ex × Flags
  | .nan => (.nan, noFlags)
  | .inf s => if s then (.nan, flagNV) else (exZero, noFlags)
  | .fin s m e _ =>
    if m == 0 then (.inf s, noFlags)
    else if s then (.nan, flagNV)
    else
      let k : Nat := if e % 2 == 0 then 240 else 241
      let q := 2 ^ k / m
      (.fin false (isqrt q) (-(e + k) / 2) (2 ^ k % m != 0 || isqrt q * isqrt q != q), noFlags)

/-- The working precision, in bits, of 2^x and log2 x (log entry 11). -/
def workBits : Nat := 512
/-- The terms of the series of 2 * atanh(1/3) = ln 2, summed. -/
def atanhLoop (z2 : Nat) : Nat → Nat → Nat → Nat
  | 0, _, _ => 0
  | k + 1, t, d => t / d + atanhLoop z2 k (t * z2 / 2 ^ workBits) (d + 2)
/-- 2 * atanh(z), z = num/den, as a multiple of 2^-512, cut. -/
def twoAtanh (num den : Nat) : Nat :=
  let z := num * 2 ^ workBits / den
  2 * atanhLoop (z * z / 2 ^ workBits) 168 z 1
/-- ln 2 as a multiple of 2^-512. -/
def lnTwo : Nat := twoAtanh 1 3
/-- The terms of the exponential series, summed: each is the last times y over k. -/
def expLoop (y : Nat) : Nat → Nat → Nat → Nat
  | 0, _, _ => 0
  | n + 1, t, k => t + expLoop y n (t * y / 2 ^ workBits / k) (k + 1)

/-- 2^x. The exponent is cut to the range outside which every format has overflowed or vanished. -/
def exp2Exact : Ex → Ex × Flags
  | .nan => (.nan, noFlags)
  | .inf s => if s then (exZero, noFlags) else (.inf false, noFlags)
  | .fin s m e _ =>
    if 0 ≤ e then
      let v := min (m * 2 ^ (min e 13).toNat) 8192
      (.fin false 1 (if s then -(v : Int) else v) false, noFlags)
    else
      let sh := (-e).toNat
      let v : Int := if s then -(m : Int) else m
      let n := v / (2 ^ sh : Nat)
      let fr := (v % (2 ^ sh : Nat)).toNat
      if fr == 0 then (.fin false 1 (max (-8192) (min n 8192)) false, noFlags)
      else
        let y := fr * lnTwo / 2 ^ sh
        (.fin false (expLoop y 128 (2 ^ workBits) 1) (max (-8192) (min n 8192) - workBits) true, noFlags)

/-- log2 x. -/
def log2Exact : Ex → Ex × Flags
  | .nan => (.nan, noFlags)
  | .inf s => if s then (.nan, flagNV) else (.inf false, noFlags)
  | .fin s m e _ =>
    if m == 0 then (.inf true, noFlags)
    else if s then (.nan, flagNV)
    else
      let k := m.log2
      let n : Int := k + e
      if m == 2 ^ k then (exOfInt n, noFlags)
      else
        let fr := twoAtanh (m - 2 ^ k) (m + 2 ^ k) * 2 ^ workBits / lnTwo
        let t : Int := n * (2 ^ workBits : Nat) + fr
        if 0 ≤ t then (.fin false t.toNat (-workBits) true, noFlags)
        else (.fin true (t.natAbs - 1) (-workBits) true, noFlags)

/-! ### Scalar FP32 (R143) -/

/-- Delivery into FP32 with sat = 0. -/
def deliverFp32 (rnd : Rnd) (d : Nat) (x : Ex × Flags) : Nat × Flags := deliverWith .fp32 rnd false d x
/-- One FP32 addition rounded to nearest even, as AMOFADD, REDFADD and reduction nodes use it (R88, R234). -/
def fp32Add (a b : Nat) : Nat × Flags :=
  deliverFp32 .rne 0 (addExact .rne (floatExact .fp32 a) (floatExact .fp32 b))

end Sys2Proof.Machine
end

