-- ==== Sys2Proof/Machine/Quant.lean ====
section
/-! DEFINITION. Q4 blocks: decoding a code under its block's scale byte (03 R65 to R68), and quantising a block of 16
elements (R78 to R80). -/
namespace Sys2Proof.Machine

/-- Twice the magnitude of index i of a block type: the values of R66 in halves. -/
def q4Mag (ty : Q4Type) (i : Nat) : Nat :=
  match ty with
  | .t0 => 2 * i
  | .t1 => match i with | 0 => 0 | 1 => 1 | 2 => 2 | 3 => 3 | 4 => 4 | 5 => 6 | 6 => 8 | _ => 12
  | .t2 => if i == 0 then 0 else 2 ^ i
  | .t3 => match i with | 0 => 0 | 1 => 2 | 2 => 4 | 3 => 6 | 4 => 8 | 5 => 12 | 6 => 16 | _ => 24

/-- Twice the value of a code (R66). -/
def q4Twice (ty : Q4Type) (code : Nat) : Int :=
  match ty with
  | .t0 => 2 * signedOf 4 code
  | _ => if code / 8 % 2 == 1 then -(q4Mag ty (code % 8) : Int) else q4Mag ty (code % 8)

/-- The block type of a scale byte (R65). -/
def scaleType (scale : Nat) : Q4Type :=
  match scale / 64 % 4 with | 0 => .t0 | 1 => .t1 | 2 => .t2 | _ => .t3

/-- The exact value of a Q4 element: its code's value times 2^(E - 32) (R67); a zero is +0 (R66). -/
def q4Exact (scale code : Nat) : Ex :=
  let v := q4Twice (scaleType scale) (code % 16)
  .fin (v < 0) v.natAbs ((scale % 64 : Nat) - 33) false

/-- The largest positive code value of a type, doubled (R67). -/
def q4Cmax2 (ty : Q4Type) : Nat := q4Mag ty 7

/-- m*2^e is at most n*2^k. -/
def magLe (m : Nat) (e : Int) (n : Nat) (k : Int) : Bool :=
  decide (m * 2 ^ (e - min e k).toNat ≤ n * 2 ^ (k - min e k).toNat)

/-- The larger magnitude of two finite values; others are left out (R78). -/
def amaxStep (a x : Ex) : Ex :=
  match a, x with
  | .fin _ m e _, .fin _ n k _ => if magLe n k m e then .fin false m e false else .fin false n k false
  | a, _ => a

/-- The scale of a block: E after the clamps, and SU if it was clamped at 0 (R78). -/
def q4Scale (ty : Q4Type) (xs : List Ex) : Nat × Flags :=
  match xs.foldl amaxStep exZero with
  | .fin _ m e _ =>
    if m == 0 then (32, noFlags)
    else
      let c := q4Cmax2 ty
      let k0 : Int := (m.log2 : Int) + e - c.log2
      let k := if magLe m e c k0 then k0 + 1 else k0 + 2
      let ex : Int := k + 32
      if ex < 0 then (0, flagSU) else if 63 < ex then (63, noFlags) else (ex.toNat, noFlags)
  | _ => (32, noFlags)

/-- The number of magnitudes on a side of zero above zero: 7, or 8 below zero for type 0b00 (R66). -/
def q4Last (ty : Q4Type) (neg : Bool) : Nat := if ty == .t0 && neg then 8 else 7

/-- The code of magnitude index i on a side of zero; zero is always 0x0 (R80). -/
def q4Code (ty : Q4Type) (neg : Bool) (i : Nat) : Nat :=
  if i == 0 then 0 else if neg then (if ty == .t0 then 16 - i else 8 + i) else i

/-- The largest index up to `last` whose magnitude is at most m*2^e, counting down. -/
def q4Floor (ty : Q4Type) (m : Nat) (e : Int) : Nat → Nat
  | 0 => 0
  | i + 1 => if magLe (q4Mag ty (i + 1)) (-1) m e then i + 1 else q4Floor ty m e i

/-- One finite element divided by the scale and rounded onto the code values (R79). -/
def q4Round (ty : Q4Type) (rnd : Rnd) (ex : Nat) (d : Nat) (neg : Bool) (m : Nat) (e : Int) : Nat × Flags :=
  let q := e - ((ex : Int) - 32)
  let last := q4Last ty neg
  let i := q4Floor ty m q last
  if i == last then
    (q4Code ty neg last, if magLe m q (q4Mag ty last) (-1) then noFlags else flagOF)
  else
    let lo := min q (-1)
    let a := m * 2 ^ (q - lo).toNat
    let g := 2 ^ (-1 - lo).toNat
    let rem := a - q4Mag ty i * g
    let gap := (q4Mag ty (i + 1) - q4Mag ty i) * g
    let up : Bool :=
      if rem == 0 then false
      else match rnd with
        | .rne => decide (gap < 2 * rem) || (2 * rem == gap && q4Code ty neg i % 2 == 1)
        | .rtz => false
        | .rdn => neg
        | .rup => !neg
        | .sr => decide (65536 ≤ rem * 65536 / gap + d)
    (q4Code ty neg (if up then i + 1 else i), flagIf (rem != 0) flagNX)

/-- One element onto a code under a block's scale (R79, R71). -/
def q4Element (ty : Q4Type) (rnd : Rnd) (ex d : Nat) (x : Ex) : Nat × Flags :=
  match x with
  | .nan => (0, flagNV)
  | .inf s => (q4Code ty s (q4Last ty s), flagOF)
  | .fin s m e _ => q4Round ty rnd ex d s m e

/-- The codes of a block, each with its draw, and their flags. -/
def q4Codes (ty : Q4Type) (rnd : Rnd) (ex : Nat) : List (Ex × Nat) → List Nat × Flags
  | [] => ([], noFlags)
  | (x, d) :: xs =>
    let (c, f) := q4Element ty rnd ex d x
    let (cs, g) := q4Codes ty rnd ex xs
    (c :: cs, f ||| g)

/-- TQNT's arithmetic on one block of 16 elements: the scale byte, the codes in order and the flags (R78 to R80). -/
def q4Block (ty : Q4Type) (rnd : Rnd) (xs : List Ex) (ds : List Nat) : Nat × List Nat × Flags :=
  let (ex, f) := q4Scale ty xs
  let (cs, g) := q4Codes ty rnd ex (xs.zip ds)
  ((match ty with | .t0 => 0 | .t1 => 64 | .t2 => 128 | .t3 => 192) + ex, cs, f ||| g)

end Sys2Proof.Machine
end

