-- ==== Sys2Proof/Machine/Tile.lean ====
section
/-! DEFINITION. Tiles, weight slots and accumulators as data (04 R94 to R98), and every tile computation as a function of
its operands: the vector instructions (05 R119 to R135), the matrix step, the drain and the histogram (04 R107 to R116,
03 R81 to R88). -/
namespace Sys2Proof.Machine

/-- A tile descriptor (R94, R95). -/
structure Desc where
  fmt : Fmt
  /-- ROWS, in [1, 64]. -/
  rows : Nat
  /-- RB, the row bytes, in [1, 64]. -/
  rb : Nat
  deriving DecidableEq, Repr

/-- A tile (R94): data byte n is bits [8n+7:8n] of `data`, row i is bytes [64i, 64i+64); band row i is bytes [8i, 8i+8). -/
structure Tile where
  data : BitVec 32768
  band : BitVec 4096
  desc : Desc
  deriving DecidableEq, Repr

/-- A weight slot (R96), with its data and band bytes as in a tile. -/
structure Slot where
  data : BitVec 32768
  band : BitVec 4096
  fmt : Fmt
  deriving DecidableEq, Repr

/-- An accumulator (R98): element (i, j) is the 32 bits from bit 8(256i + 4j), the layout of R113. -/
structure Acc where
  data : BitVec 131072
  mode : AccMode
  deriving DecidableEq, Repr

/-- A histogram bank (R35, R86): counter n is bits [32n+31:32n]. -/
abbrev Bank := BitVec 1024

/-- The kinds of the tile-operand fault (R104). -/
inductive TileFault where | format | shape | mix | part
  deriving DecidableEq, Repr

/-- The descriptor of a fresh stream's tiles (R35): 64 rows, 64 row bytes, INT8. -/
def freshDesc : Desc := { fmt := .int8, rows := 64, rb := 64 }
/-- A fresh stream's tile (R35). -/
def freshTile : Tile := { data := 0, band := 0, desc := freshDesc }
/-- A fresh stream's weight slot (R35). -/
def freshSlot : Slot := { data := 0, band := 0, fmt := .int8 }
/-- A fresh stream's accumulator (R35). -/
def freshAcc : Acc := { data := 0, mode := .fp32 }

/-! ### Bits of a wide value -/

/-- The n bits of x from bit lo. -/
def getBits (x lo n : Nat) : Nat := (x >>> lo) % 2 ^ n
/-- x with its n bits from bit lo set to v. -/
def setBits (x lo n v : Nat) : Nat := x - (getBits x lo n) <<< lo + (v % 2 ^ n) <<< lo
/-- Values of w bits each, the first lowest. -/
def packBits (w : Nat) : List Nat → Nat
  | [] => 0
  | v :: vs => v % 2 ^ w + (packBits w vs) <<< w
/-- Rows of 64 bytes, each packed from elements of w bits. -/
def packRows (w : Nat) (rows : List (List Nat)) : BitVec 32768 := BitVec.ofNat _ (packBits 512 (rows.map (packBits w)))

/-! ### Descriptors and elements -/

/-- The elements of a row (R95): RB / size, or 2 * RB codes for Q4. -/
def Desc.cols (d : Desc) : Nat := if d.fmt == .q4 then 2 * d.rb else d.rb / fmtBytes d.fmt
/-- The descriptor in the register layout of R95. -/
def Desc.word (d : Desc) : Word := BitVec.ofNat 64 (d.rows + d.rb * 2 ^ 8 + d.fmt.code * 2 ^ 16)
/-- The multiple RB must be of (R95): the element size, or 8 for Q4. -/
def rbUnit (f : Fmt) : Nat := if f == .q4 then 8 else fmtBytes f
/-- Whether a descriptor is valid (R95), Q4BLK's presence apart. -/
def Desc.valid (d : Desc) : Bool := 1 ≤ d.rows && d.rows ≤ 64 && 1 ≤ d.rb && d.rb ≤ 64 && d.rb % rbUnit d.fmt == 0
/-- The descriptor of a register value, or the fault of TSHAPE (R104, R107): FORMAT is tested first. -/
def descOfWord (q4Present : Bool) (w : Word) : Except TileFault Desc :=
  match Fmt.ofCode (getBits w.toNat 16 4) with
  | none => .error .format
  | some f =>
    if f == .q4 && !q4Present then .error .format
    else
      let d : Desc := { fmt := f, rows := getBits w.toNat 0 7, rb := getBits w.toNat 8 7 }
      if d.valid then .ok d else .error .shape

/-- Element c of row i as a pattern, for a format other than Q4 (R94), read with the given element size. -/
def Tile.pattern (t : Tile) (size i c : Nat) : Nat := getBits t.data.toNat (8 * (64 * i + c * size)) (8 * size)
/-- The scale byte of code c of row i (R94). -/
def Tile.scale (t : Tile) (i c : Nat) : Nat := getBits t.band.toNat (8 * (8 * i + c / 16)) 8
/-- Code c of row i of a Q4 tile (R94). -/
def Tile.code4 (t : Tile) (i c : Nat) : Nat := getBits t.data.toNat (8 * (64 * i) + 4 * c) 4
/-- The exact value of element (i, c) (R62, R67). -/
def Tile.exact (t : Tile) (i c : Nat) : Ex :=
  if t.desc.fmt == .q4 then q4Exact (t.scale i c) (t.code4 i c)
  else exactOf t.desc.fmt (t.pattern (fmtBytes t.desc.fmt) i c)

/-! ### Writing a tile in element order -/

/-- One row: f of each column and its draw. What remains of the draws comes back (R74). -/
def mapRow (f : Nat → Nat → Nat × Flags) : List Nat → List Nat → List Nat × Flags × List Nat
  | [], ds => ([], noFlags, ds)
  | c :: cs, ds =>
    let r := f c (ds.headD 0)
    let rest := mapRow f cs ds.tail
    (r.1 :: rest.1, r.2 ||| rest.2.1, rest.2.2)
/-- Every row in order: the element order of R74. -/
def mapRows (f : Nat → Nat → Nat → Nat × Flags) (n : Nat) : List Nat → List Nat → List (List Nat) × Flags
  | [], _ => ([], noFlags)
  | i :: rows, ds =>
    let r := mapRow (f i) (List.range n) ds
    let rest := mapRows f n rows r.2.2
    (r.1 :: rest.1, r.2.1 ||| rest.2)
/-- The draws of an instruction that writes n elements, and the generator after them (R74). -/
def drawsFor (rnd : Rnd) (n : Nat) (g : GenState) : List Nat × GenState := if rnd == .sr then takeDraws n g else ([], g)
/-- A fresh tile of a descriptor whose element (i, c) is f i c with its draw; all else is zero (R122). -/
def buildTile (d : Desc) (rnd : Rnd) (g : GenState) (f : Nat → Nat → Nat → Nat × Flags) : Tile × Flags × GenState :=
  let (ds, g') := drawsFor rnd (d.rows * d.cols) g
  let (rows, fl) := mapRows f d.cols (List.range d.rows) ds
  ({ data := packRows (8 * fmtBytes d.fmt) rows, band := 0, desc := d }, fl, g')
/-- A fresh tile of patterns with no rounding. -/
def buildPlain (d : Desc) (f : Nat → Nat → Nat) : Tile :=
  { data := packRows (8 * fmtBytes d.fmt) (mapRows (fun i c _ => (f i c, noFlags)) d.cols (List.range d.rows) []).1,
    band := 0, desc := d }

/-! ### Operand checks (R120, R121) -/

/-- Format, then shape, of two tiles read as data. -/
def check2 (ok : Fmt → Bool) (a b : Tile) : Option TileFault :=
  if !ok a.desc.fmt || b.desc.fmt != a.desc.fmt then some .mix
  else if b.desc.rows != a.desc.rows || b.desc.rb != a.desc.rb then some .shape
  else none
/-- Format, then shape, of three tiles read as data. -/
def check3 (ok : Fmt → Bool) (a b c : Tile) : Option TileFault :=
  if !ok a.desc.fmt || b.desc.fmt != a.desc.fmt || c.desc.fmt != a.desc.fmt then some .mix
  else if b.desc.rows != a.desc.rows || b.desc.rb != a.desc.rb || c.desc.rows != a.desc.rows || c.desc.rb != a.desc.rb then
    some .shape
  else none

/-- A fault, or the value. -/
def orFault {α : Type} (f : Option TileFault) (v : α) : Except TileFault α :=
  match f with | some k => .error k | none => .ok v

/-! ### Vector instructions -/

/-- The FP32 value, or the signed 32-bit integer, that a register gives an operation on a format (R123, R125). -/
def scalarOperand (f : Fmt) (bits : Nat) : Ex :=
  if fmtFloat f then floatExact .fp32 (bits % 2 ^ 32) else exOfInt (signedOf 32 bits)

/-- TADD, TSUB and TMUL (R123), by their exact operation. -/
def vecArith (op : Rnd → Ex → Ex → Ex × Flags) (a b : Tile) (sat : Bool) (rnd : Rnd) (g : GenState) :
    Except TileFault (Tile × Flags × GenState) :=
  orFault (check2 fmtNumeric a b)
    (buildTile a.desc rnd g fun i c d => deliverWith a.desc.fmt rnd sat d (op rnd (a.exact i c) (b.exact i c)))
/-- TFMA (R123). -/
def vecFma (a b t : Tile) (sat : Bool) (rnd : Rnd) (g : GenState) : Except TileFault (Tile × Flags × GenState) :=
  orFault (check3 fmtNumeric a b t)
    (buildTile a.desc rnd g fun i c d =>
      deliverWith a.desc.fmt rnd sat d (fmaExact rnd (a.exact i c) (b.exact i c) (t.exact i c)))
/-- TMAX and TMIN (R124), by their choice of pattern. -/
def vecSelectPattern (op : Fmt → Nat → Nat → Nat) (a b : Tile) : Except TileFault Tile :=
  let s := fmtBytes a.desc.fmt
  orFault (check2 fmtNumeric a b) (buildPlain a.desc fun i c => op a.desc.fmt (a.pattern s i c) (b.pattern s i c))
/-- The bytes within ROWS x RB of a descriptor, as a mask over the data. -/
def shapeMask (d : Desc) : BitVec 32768 := BitVec.ofNat _ (packBits 512 (List.replicate d.rows (2 ^ (8 * d.rb) - 1)))
/-- TAND, TOR and TXOR (R126), by their operation on the data. -/
def vecLogic (op : BitVec 32768 → BitVec 32768 → BitVec 32768) (a b : Tile) : Except TileFault Tile :=
  orFault (check2 (fun _ => true) a b)
    { data := op a.data b.data &&& shapeMask a.desc, band := if a.desc.fmt == .q4 then a.band else 0, desc := a.desc }
/-- TSEL (R127): the mask tile c may carry any format, but has the shape of a. -/
def vecSel (a b c : Tile) : Except TileFault Tile :=
  let s := fmtBytes a.desc.fmt
  orFault
    (if !fmtNumeric a.desc.fmt || b.desc.fmt != a.desc.fmt then some .mix
     else if b.desc.rows != a.desc.rows || b.desc.rb != a.desc.rb || c.desc.rows != a.desc.rows || c.desc.rb != a.desc.rb
     then some .shape else none)
    (buildPlain a.desc fun i k => if c.pattern s i k != 0 then a.pattern s i k else b.pattern s i k)
/-- A mask element (R127). -/
def maskPattern (size : Nat) (b : Bool) : Nat := if b then 2 ^ (8 * size) - 1 else 0
/-- TCMP (R127). -/
def vecCmp (cond : Cond) (a b : Tile) : Except TileFault Tile :=
  orFault (check2 fmtNumeric a b)
    (buildPlain a.desc fun i c => maskPattern (fmtBytes a.desc.fmt) (condHolds cond (a.exact i c) (b.exact i c)))
/-- Format alone. -/
def check1 (ok : Fmt → Bool) (a : Tile) : Option TileFault := if ok a.desc.fmt then none else some .mix
/-- TSCL (R123). -/
def vecScale (a : Tile) (gb : Word) (sat : Bool) (rnd : Rnd) (g : GenState) : Except TileFault (Tile × Flags × GenState) :=
  orFault (check1 fmtNumeric a)
    (buildTile a.desc rnd g fun i c d =>
      deliverWith a.desc.fmt rnd sat d (exMul (a.exact i c) (scalarOperand a.desc.fmt gb.toNat)))
/-- TCLAMP (R125). -/
def vecClamp (a : Tile) (gb : Word) (sat : Bool) (rnd : Rnd) (g : GenState) : Except TileFault (Tile × Flags × GenState) :=
  let lo := scalarOperand a.desc.fmt gb.toNat
  let hi := scalarOperand a.desc.fmt (gb.toNat / 2 ^ 32)
  orFault (check1 fmtNumeric a)
    (buildTile a.desc rnd g fun i c d => deliver a.desc.fmt rnd sat d (clampExact (a.exact i c) lo hi))
/-- TABS and TNEG, and the special functions: one source, an exact function, one delivery (R124, R128). -/
def vecUnary (ok : Fmt → Bool) (op : Ex → Ex × Flags) (a : Tile) (sat : Bool) (rnd : Rnd) (g : GenState) :
    Except TileFault (Tile × Flags × GenState) :=
  orFault (check1 ok a)
    (buildTile a.desc rnd g fun i c d => deliverWith a.desc.fmt rnd sat d (op (a.exact i c)))
/-- |x| with no flag of its own (R124). -/
def absExact (x : Ex) : Ex × Flags := (x.abs, noFlags)
/-- -x with no flag of its own (R124). -/
def negExact (x : Ex) : Ex × Flags := (x.negate, noFlags)
/-- TCVT (R129): a target of Q4 is MIX, then the part is checked. -/
def vecConvert (a : Tile) (f : Fmt) (p : Nat) (sat : Bool) (rnd : Rnd) (g : GenState) :
    Except TileFault (Tile × Flags × GenState) :=
  let w := 64 / fmtBytes f
  if f == .q4 then .error .mix
  else if a.desc.cols ≤ p * w then .error .part
  else
    let m := min w (a.desc.cols - p * w)
    .ok (buildTile { fmt := f, rows := a.desc.rows, rb := m * fmtBytes f } rnd g fun i c d =>
      deliver f rnd sat d (a.exact i (p * w + c)))
/-- The blocks of 16 of a row, quantised one by one: scale bytes, codes, flags, and the draws left (R78 to R80). -/
def quantRow (ty : Q4Type) (rnd : Rnd) (a : Tile) (i : Nat) : List Nat → List Nat → List Nat × List Nat × Flags × List Nat
  | [], ds => ([], [], noFlags, ds)
  | b :: bs, ds =>
    let (sc, cs, fl) := q4Block ty rnd ((List.range 16).map fun k => a.exact i (16 * b + k))
      (if rnd == .sr then ds.take 16 else List.replicate 16 0)
    let (scs, css, fls, rest) := quantRow ty rnd a i bs (ds.drop 16)
    (sc :: scs, cs ++ css, fl ||| fls, rest)
/-- Every row quantised into data and band, over the old bits. -/
def quantRows (ty : Q4Type) (rnd : Rnd) (a : Tile) (o nb : Nat) : List Nat → List Nat → Nat → Nat → Nat × Nat × Flags
  | [], _, data, band => (data, band, noFlags)
  | i :: rows, ds, data, band =>
    let (scs, cs, fl, rest) := quantRow ty rnd a i (List.range nb) ds
    let (data', band', fls) := quantRows ty rnd a o nb rows rest
      (setBits data (8 * (64 * i + 8 * o)) (64 * nb) (packBits 4 cs))
      (setBits band (8 * (8 * i + o)) (8 * nb) (packBits 8 scs))
    (data', band', fl ||| fls)
/-- TQNT (R130): td is written over a copy of its old value. -/
def vecQuant (old a : Tile) (o : Nat) (ty : Q4Type) (rnd : Rnd) (g : GenState) : Except TileFault (Tile × Flags × GenState) :=
  let n := a.desc.cols
  let nb := n / 16
  if !fmtFloat a.desc.fmt then .error .mix
  else if n % 16 != 0 then .error .shape
  else if 8 < o + nb then .error .part
  else
    let (ds, g') := drawsFor rnd (a.desc.rows * n) g
    let (data, band, fl) := quantRows ty rnd a o nb (List.range a.desc.rows) ds old.data.toNat old.band.toNat
    .ok ({ data := BitVec.ofNat _ data, band := BitVec.ofNat _ band,
           desc := { fmt := .q4, rows := a.desc.rows,
                     rb := max (8 * (o + nb)) (if old.desc.fmt == .q4 then old.desc.rb else 0) } }, fl, g')

/-- One level of the tree of R88: pairs combine, one left over passes through. -/
def treeLevel (op : Nat → Nat → Nat × Flags) : List Nat → List Nat × Flags
  | x :: y :: r =>
    let v := op x y
    let rest := treeLevel op r
    (v.1 :: rest.1, v.2 ||| rest.2)
  | l => (l, noFlags)
/-- The levels up to the root: at most 7, for 64 positions or fewer in 6 levels (R88). -/
def treeRoot (op : Nat → Nat → Nat × Flags) : Nat → List Nat → Nat × Flags
  | 0, l => (l.headD 0, noFlags)
  | k + 1, l =>
    let r := treeLevel op l
    let rest := treeRoot op k r.1
    (rest.1, r.2 ||| rest.2)
/-- TRED's root over the patterns of the positions, as an exact value with the nodes' flags (R88, R131). -/
def reduceRoot (op : RedOp) (f : Fmt) (xs : List Nat) : Ex × Flags :=
  match op with
  | .max => (exactOf f (treeRoot (fun x y => (maxPattern f x y, noFlags)) 7 xs).1, noFlags)
  | .min => (exactOf f (treeRoot (fun x y => (minPattern f x y, noFlags)) 7 xs).1, noFlags)
  | .add =>
    if fmtFloat f then
      let r := treeRoot fp32Add 7 (xs.map fun x => (deliverFloat .fp32 .rne false 0 (floatExact f x)).1)
      (floatExact .fp32 r.1, r.2)
    else
      let r := treeRoot (fun x y => ((x + y) % 2 ^ 32, noFlags)) 7
        (xs.map fun x => (signedOf (8 * fmtBytes f) x % (2 ^ 32 : Nat)).toNat)
      (exOfInt (signedOf 32 r.1), noFlags)
/-- TRED (R131). -/
def vecReduce (op : RedOp) (col : Bool) (a : Tile) (sat : Bool) (rnd : Rnd) (g : GenState) :
    Except TileFault (Tile × Flags × GenState) :=
  let f := a.desc.fmt
  let s := fmtBytes f
  orFault (check1 fmtNumeric a)
    (if col then
      buildTile { fmt := f, rows := 1, rb := a.desc.rb } rnd g fun _ c d =>
        deliverWith f rnd sat d (reduceRoot op f ((List.range a.desc.rows).map fun i => a.pattern s i c))
    else
      buildTile { fmt := f, rows := a.desc.rows, rb := s } rnd g fun i _ d =>
        deliverWith f rnd sat d (reduceRoot op f ((List.range a.desc.cols).map fun c => a.pattern s i c)))
/-- TBC (R132). -/
def vecBroadcast (mode : TbcMode) (a : Tile) (gb : Word) : Except TileFault Tile :=
  let k := getBits gb.toNat 0 6
  let m := getBits gb.toNat 8 7
  let s := fmtBytes a.desc.fmt
  match mode with
  | .row =>
    if k < a.desc.rows && 1 ≤ m && m ≤ 64 then
      .ok { data := BitVec.ofNat _ (packBits 512 (List.replicate m (getBits a.data.toNat (512 * k) (8 * a.desc.rb)))),
            band := if a.desc.fmt == .q4 then
                BitVec.ofNat _ (packBits 64 (List.replicate m (getBits a.band.toNat (64 * k) 64)))
              else 0,
            desc := { a.desc with rows := m } }
    else .error .part
  | .col =>
    if !fmtNumeric a.desc.fmt then .error .mix
    else if k < a.desc.cols && 1 ≤ m && m ≤ 64 / s then
      .ok (buildPlain { a.desc with rb := m * s } fun i _ => a.pattern s i k)
    else .error .part
  | .scalar =>
    if !fmtNumeric a.desc.fmt then .error .mix
    else .ok (buildPlain a.desc fun _ _ => gb.toNat % 2 ^ (8 * s))
/-- TTR (R133). -/
def vecTranspose (a : Tile) : Except TileFault Tile :=
  let s := fmtBytes a.desc.fmt
  if !fmtNumeric a.desc.fmt then .error .mix
  else if 64 < a.desc.rows * s then .error .shape
  else .ok (buildPlain { fmt := a.desc.fmt, rows := a.desc.cols, rb := a.desc.rows * s } fun i c => a.pattern s c i)
/-- TIOTA (R134). -/
def vecIota (a : Tile) (gb : Word) (sat : Bool) (rnd : Rnd) (g : GenState) : Except TileFault (Tile × Flags × GenState) :=
  let base := signedOf 32 gb.toNat
  let step := signedOf 32 (gb.toNat / 2 ^ 32)
  orFault (check1 fmtNumeric a)
    (buildTile a.desc rnd g fun i c d =>
      deliver a.desc.fmt rnd sat d (exOfInt (base + (i : Int) * step + (c : Int))))
/-- The value TRND gives an element from its output z (R135). -/
def trndValue (mode : TrndMode) (f : Fmt) (gb : Word) (sat : Bool) (rnd : Rnd) (z : Nat) : Nat × Flags :=
  match mode with
  | .bits => (z % 2 ^ (8 * fmtBytes f), noFlags)
  | .unit => deliver f rnd sat 0 (.fin false (z / 2 ^ 40 % 2 ^ 24) (-24) false)
  | .mask => (maskPattern (fmtBytes f) (z / 2 ^ 48 % 2 ^ 16 < gb.toNat % 2 ^ 16), noFlags)
/-- TRND (R135): one generator step an element, in element order. -/
def vecRandom (mode : TrndMode) (a : Tile) (gb : Word) (sat : Bool) (rnd : Rnd) (g : GenState) :
    Except TileFault (Tile × Flags × GenState) :=
  let f := a.desc.fmt
  if !(if mode == .unit then fmtFloat f else fmtNumeric f) then .error .mix
  else
    let (zs, g') := genOutputs (a.desc.rows * a.desc.cols) g
    let (rows, fl) := mapRows (fun _ _ z => trndValue mode f gb sat rnd z) a.desc.cols (List.range a.desc.rows)
      (zs.map BitVec.toNat)
    .ok ({ data := packRows (8 * fmtBytes f) rows, band := 0, desc := a.desc }, fl, g')

/-! ### The matrix engine -/

/-- The depth of a format (R81, R96), or none for the formats no MMA takes. -/
def depthOf : Fmt → Option Nat
  | .bf16 => some 32 | .fp16 => some 32 | .e4m3 => some 64 | .e5m2 => some 64 | .int8 => some 64 | .q4 => some 128
  | .fp32 => none | .int32 => none
/-- Whether a slot of format fB serves a tile of format fA (R97). -/
def pairOk (fA fB : Fmt) : Bool :=
  match fA with
  | .bf16 | .fp16 => fB == .bf16 || fB == .fp16 || fB == .e4m3 || fB == .e5m2 || fB == .q4
  | .e4m3 | .e5m2 => fB == .e4m3 || fB == .e5m2 || fB == .q4
  | .int8 => fB == .int8
  | .q4 => fB == .q4
  | .fp32 | .int32 => false
/-- The accumulator mode a tile format requires (R97). -/
def accModeFor (f : Fmt) : AccMode := if f == .int8 then .int32 else .fp32
/-- Element (k, j) of a slot (R96). -/
def Slot.exact (w : Slot) (k j : Nat) : Ex :=
  match w.fmt with
  | .bf16 | .fp16 => floatExact w.fmt (getBits w.data.toNat (8 * (128 * k + 2 * j)) 16)
  | .q4 => q4Exact (getBits w.band.toNat (8 * (64 * (k / 16) + j)) 8) (getBits w.data.toNat (8 * (32 * k) + 4 * j) 4)
  | f => exactOf f (getBits w.data.toNat (8 * (64 * k + j)) 8)
/-- The exact sum of a chunk's products (R82): any NaN product, then infinities of both signs, then an infinity, then the
exact sum, with an exact zero +0. -/
def chunkSum (ps : List (Ex × Flags)) : Ex × Flags :=
  let fl := ps.foldl (fun f p => f ||| p.2) noFlags
  if ps.any (·.1.isNaN) then (.nan, fl)
  else
    let hasP := ps.any (fun p => p.1 == .inf false)
    let hasN := ps.any (fun p => p.1 == .inf true)
    if hasP && hasN then (.nan, flagNV)
    else if hasP then (.inf false, noFlags)
    else if hasN then (.inf true, noFlags)
    else (ps.foldl (fun s p => (exAdd .rne s p.1).1) exZero, noFlags)
/-- The FP32 accumulation of one element over its chunks (R81). -/
def mmaChunks (prod : Nat → Ex × Flags) : List Nat → Nat → Nat × Flags
  | [], acc => (acc, noFlags)
  | c :: cs, acc =>
    let s := chunkSum ((List.range 16).map fun k => prod (16 * c + k))
    let (acc', f) := deliverFp32 .rne 0 (exAdd .rne (floatExact .fp32 acc) s.1)
    let (r, f') := mmaChunks prod cs acc'
    (r, s.2 ||| f ||| f')
/-- The integer value of an exact integer. -/
def exInt : Ex → Int
  | .fin s m e _ => alignTo 0 s m (max e 0)
  | _ => 0
/-- A(i, k): zero beyond the row's elements (R114). -/
def mmaA (t : Tile) (i k : Nat) : Ex := if k < t.desc.cols then t.exact i k else exZero
/-- One output element of an MMA (R81, R84). -/
def mmaElement (mode : AccMode) (t : Tile) (w : Slot) (q kb acc i j : Nat) : Nat × Flags :=
  match mode with
  | .int32 =>
    let s := (List.range kb).foldl (fun s k => s + exInt (mmaA t i k) * exInt (w.exact (q * kb + k) j)) (0 : Int)
    (((signedOf 32 acc + s) % (2 ^ 32 : Nat)).toNat, noFlags)
  | .fp32 => mmaChunks (fun k => exMul (mmaA t i k) (w.exact (q * kb + k) j)) (List.range (kb / 16)) acc
/-- Element (i, j) of an accumulator. -/
def Acc.elem (a : Acc) (i j : Nat) : Nat := getBits a.data.toNat (8 * (256 * i + 4 * j)) 32
/-- The checks of an MMA in their order (R97, R114): format pairing, sub-block, and for MMA the accumulator's mode. -/
def mmaCheck (zero : Bool) (a : Acc) (t : Tile) (w : Slot) (q : Nat) : Option TileFault :=
  match depthOf t.desc.fmt, depthOf w.fmt with
  | some kb, some kw =>
    if !pairOk t.desc.fmt w.fmt then some .mix
    else if kw / kb ≤ q then some .part
    else if !zero && a.mode != accModeFor t.desc.fmt then some .mix
    else none
  | _, _ => some .mix
/-- MMA and MMAZ (R114). -/
def matrixStep (zero : Bool) (a : Acc) (t : Tile) (w : Slot) (q : Nat) : Except TileFault (Acc × Flags) :=
  match mmaCheck zero a t w q with
  | some k => .error k
  | none =>
    let kb := (depthOf t.desc.fmt).getD 32
    let start : Acc := if zero then { data := 0, mode := accModeFor t.desc.fmt } else a
    let r := mapRows (fun i j _ => mmaElement start.mode t w q kb (start.elem i j) i j) 64 (List.range t.desc.rows) []
    .ok ({ start with data := BitVec.ofNat _ (setBits start.data.toNat 0 (2048 * t.desc.rows)
             (packBits 2048 (r.1.map (packBits 32)))) }, r.2)
/-- The histogram bin of a delivered pattern (R86). -/
def histBin (f : Fmt) (bits : Nat) : Nat :=
  match exactOf f bits with
  | .nan => 31
  | .inf _ => 31
  | .fin _ m e _ =>
    if m == 0 || (fmtFloat f && m < 2 ^ fracBits f) then 0
    else (min (max ((m.log2 : Int) + e + 16) 1) 30).toNat
/-- One count into a bank, saturating (R86). -/
def bankCount (h : Nat) (b : Nat) : Nat :=
  let c := getBits h (32 * b) 32
  if c == 2 ^ 32 - 1 then h else setBits h (32 * b) 32 (c + 1)
/-- DRAIN (R115): the new tile, the flags, the generator, and the delivered patterns in element order for the histogram. -/
def drainTile (a : Acc) (t : Tile) (scale : Ex) (q : Nat) (sat : Bool) (rnd : Rnd) (g : GenState) :
    Except TileFault (Tile × Flags × GenState) :=
  let f := t.desc.fmt
  let s := fmtBytes f
  if f == .q4 then .error .mix
  else if s ≤ q then .error .part
  else
    let p := 64 / s
    .ok (buildTile { fmt := f, rows := 64, rb := 64 } rnd g fun i j d =>
      deliverWith f rnd sat d
        (exMul (exactOf (if a.mode == .int32 then .int32 else .fp32) (a.elem i (q * p + j))) scale))
/-- The bank after counting every element of a drained tile (R86). -/
def bankAfter (h : Bank) (t : Tile) : Bank :=
  let s := fmtBytes t.desc.fmt
  BitVec.ofNat _ ((List.range 64).foldl (fun h i =>
    (List.range (64 / s)).foldl (fun h c => bankCount h (histBin t.desc.fmt (t.pattern s i c))) h) h.toNat)
/-- HSTRD (R116). -/
def bankTile (h : Bank) : Tile := { data := h.setWidth 32768, band := 0, desc := { fmt := .int32, rows := 2, rb := 64 } }
/-- WLDT (R111): format, then shape. -/
def slotOfTile (t : Tile) : Except TileFault Slot :=
  if (depthOf t.desc.fmt).isNone then .error .mix
  else if t.desc.rows != 64 || t.desc.rb != 64 then .error .shape
  else .ok { data := t.data, band := t.band, fmt := t.desc.fmt }
/-- TMOVS (R109): the low bytes of a register at a byte offset aligned down. -/
def tileInsert (t : Tile) (size : Size) (v off : Word) : Tile :=
  let s := match size with | .b => 1 | .h => 2 | .w => 4 | .d => 8
  let o := off.toNat % 4096 / s * s
  { t with data := BitVec.ofNat _ (setBits t.data.toNat (8 * o) (8 * s) v.toNat) }

end Sys2Proof.Machine
end

