-- ==== Sys2Proof/Machine/State.lean ====
section
/-! DEFINITION. The state of the card, as plain data: every piece of state the spec names, with its reset value, and the
reasons a step can stop. Things in flight stand in lists; `agenda` says what moves next. -/
namespace Sys2Proof.Machine

/-! ## Memory, caches and the directory (01 R26 to R31, 07, 09) -/

/-- Memory by physical address (R26): addresses strictly rising, no byte that is 0 (an unlisted byte reads 0, log entry 1).
It holds HBM, the scratchpads, the host's memory and the peer card's, each under its own addresses. -/
abbrev Memory := List Host.Cell

/-- What a reduction does to a gathered element (R218). -/
inductive GatherKind where | addW | addD | faddW | maxW | maxD
  deriving DecidableEq, Repr
/-- The state of a line in a private data cache (R215); an absent line is I. -/
inductive PState where | t | h | u | g (k : GatherKind) | k
  deriving DecidableEq, Repr
/-- A line of a private data cache (R161, R215). `line` is PA[47:7]. -/
structure CLine where
  line : Nat
  st : PState
  /-- Byte n is bits [8n+7:8n]. -/
  data : BitVec 1024
  /-- Updates received since the core last read the line (R211); of a G copy, the reductions in it (R422). -/
  unread : Nat
  /-- Of a U copy: for each core whose CYC has entered a new frame since the copy was installed, how often (R216, R221). -/
  ages : List (Nat × Nat) := []
  /-- Of a T copy: the holder's CYC[63:12] at the last commit it received (R223). -/
  commit : Option Nat := none
  deriving DecidableEq, Repr

/-- The access faults (R385), each at its code. -/
inductive AccessKind where
  | physHole | hostDenied | hostAbort | linkAbsent | linkWindow | window | paddock | lockRegion | hostAtomic
  | atomicUnresolved | copyLength | aredRegion | boundary | dieAbsent | lockTimeout
  deriving DecidableEq, Repr
/-- A fault that a serialisation point reports late (R231, R235): an access fault, or a poisoned word. -/
inductive LateFault where | access (k : AccessKind) | memory
  deriving DecidableEq, Repr

/-- A request at a line's serialisation point (R171). -/
inductive Req where
  /-- A line read: an acquire bypasses U copies; `ef` is the evict-first hint; `pref` marks a prefetch (R242); `sync` an ACQB
  (R240). -/
  | read (acq ef pref sync : Bool)
  /-- A write of n bytes with value v from byte address pa, all within one line; `ef` is the evict-first hint, `sync` marks a RELB's
  line (R239). -/
  | write (pa n v : Nat) (ef sync : Bool)
  /-- An AMO on `size` bytes at pa (R234). `reduce` marks a reduction performed as an AMO, which has no reply (R162). -/
  | amo (op : AmoOp) (size pa operand compare : Nat) (dx reduce : Bool)
  /-- A gathered reduction at a byte offset of the line (R218). -/
  | gather (k : GatherKind) (off operand : Nat)
  /-- CLWB (R241). -/
  | clwb
  deriving DecidableEq, Repr
/-- A request with its requester and its line (PA[47:7]). Core numbers 512 and 513 are the yard controllers, 1024 the
host, 1025 the peer card, 1026 an engine of the card, 1028 a link engine, 1032 + n the
dispatcher of set n, 1088 + k the trace encoder of core k, 2048 + k its copy engine. -/
structure MReq where
  core : Nat
  line : Nat
  req : Req
  /-- A tile's load or store, which the data network carries (R13). -/
  bulk : Bool := false
  deriving DecidableEq, Repr

/-- A packet of memory traffic (R208 to R220). -/
inductive Pkt where
  /-- A request on its way to its serialisation point, or parked there. -/
  | req (r : MReq)
  /-- An update of n bytes at pa, on its way to a sharer (R208). -/
  | update (core line pa n v : Nat)
  /-- An acknowledgement of an update or a recall, with the drop flag (R211). -/
  | ack (core line : Nat) (drop : Bool)
  /-- A commit on its way to a sharer. -/
  | commit (core line : Nat)
  /-- A done on its way to a writer (R210). -/
  | done (core line : Nat)
  /-- An eviction notice (R212). -/
  | evict (core line : Nat)
  /-- A recall of a T copy (R213). -/
  | recall (core line : Nat)
  /-- A recall of a G copy (R219). -/
  | grecall (core line : Nat)
  /-- A recalled G copy with its kind (R219). -/
  | gcopy (core line : Nat) (k : GatherKind) (data : BitVec 1024)
  /-- A way request (R220). -/
  | way (core line : Nat)
  /-- A fill on its way to a core: `tracked` installs T, else U where the kind of memory allows (R162); `fresh` says that the line's
  last commit lies within the window of R223. -/
  | fill (core line : Nat) (data : BitVec 1024) (tracked acq pref fresh : Bool) (fault : Option LateFault)
  /-- An AMO's reply (R235). -/
  | amoReply (core line old : Nat) (fault : Option LateFault)
  /-- A request the host agent has passed to the PCI Express controller, whose completion is awaited (R236); `tries` counts
  failed compares of a CAS loop. -/
  | hostWait (r : MReq) (tries : Nat)
  /-- The refusal of a posted write (R446). -/
  | refusal (core pa : Nat)
  deriving DecidableEq, Repr
/-- Where a packet in flight stands: on its way, at the input of a bank that can take it neither into its park buffer nor into a
miss register (R165), parked behind a set's fill (R165), or waiting at its destination for its line (R208). -/
inductive Stage where | transit | input | parked | line
  deriving DecidableEq, Repr
/-- A packet in flight: whether its request has been promoted (R228, R297), whether it has moved to the escape channel (R13), where it
stands, its place in the order of sending, or of arrival once it waits at its destination (R12, R208), and for an untracked read, how often
each core's CYC has entered a new frame since it was sent (R216). -/
structure InFlight where
  pkt : Pkt
  promoted : Bool
  escape : Bool
  stage : Stage
  seq : Nat
  ages : List (Nat × Nat)
  deriving DecidableEq, Repr

/-- A place in a hitch queue (R304): a core's request for a line, by the number its NI gave the request. A core that has withdrawn and asked
again stands in the queue twice (log entry 66). -/
structure Waiter where
  core : Nat
  num : Nat
  deriving DecidableEq, Repr
/-- The directory state of an L2 line (R214). A line that is not listed is not resident. -/
inductive DState where
  | w
  | n
  /-- Gathering, with its gatherers; `recalling` once a reader has come (R219). -/
  | g (gatherers : List Nat) (recalling : Bool)
  /-- Marked by a copy, with the job's number (R191); `poison` says that the line goes back to K with HOLDER = NONE and POISON set
(R229, R307). -/
  | e (job : Nat) (poison : Bool)
  /-- Locked (R304): HOLDER (none is NONE), TAIL, SAVED with the kept NEXT, POISON. -/
  | k (holder tail : Option Waiter) (saved : Bool) (next : Option Waiter) (poison : Bool)
  deriving DecidableEq, Repr
/-- An open round (R208): who is still to acknowledge, the write to make current, and the writer to tell; of an AMO, the core that
awaits the reply and the old value (log entry 60). `n` is 0 in a recall. -/
structure Round where
  waiting : List Nat
  pa : Nat
  n : Nat
  v : Nat
  writer : Option Nat
  amo : Option (Nat × Nat) := none
  deriving DecidableEq, Repr
/-- A resident line of the L2 with its directory state (R163, R214). -/
structure DirLine where
  line : Nat
  /-- The home slice's cell. -/
  home : Nat
  st : DState
  /-- The sharer vector, as the sharers' core numbers. -/
  sharers : List Nat
  round : Option Round
  dirty : Bool
  /-- Recency in [0, 16): the number of resident lines of its set that are less recent (R163). -/
  rank : Nat
  /-- The retention mark's entry (R166). -/
  mark : Option Nat
  /-- Filled with the evict-first hint and not hit without it since: counted in a quota though unmarked (R168). -/
  hinted : Bool := false
  deriving DecidableEq, Repr
/-- A retention entry (R166): its range is [base, limit) in 4 KiB units. -/
structure RetEntry where
  asid : Nat
  base : Nat
  limit : Nat
  ways : Nat
  deriving DecidableEq, Repr
/-- An entry of a slice's withdrawal table (R304, R308): the line, the withdrawn request and its NEXT. -/
structure Withdrawn where
  line : Nat
  who : Waiter
  next : Option Waiter
  deriving DecidableEq, Repr

/-! ## Messages, tasks, groups and locks (10 R245 to R250, 12, 13) -/

/-- A message (R245, R248): `scope` is that of a SENDB or a completion; `brand` rides with a branded one. -/
structure Msg where
  slot : Nat
  value : Word
  sender : Nat
  scope : Scope
  brand : Option (BitVec 960)
  deriving DecidableEq, Repr
/-- A mailbox slot (R35): the value stays after a receive, with presence 0. -/
structure MSlot where
  value : Word
  present : Bool
  scope : Scope
  brand : Option (BitVec 960)
  deriving DecidableEq, Repr
/-- A task (R284) with its restart word and snapshot (R321), the NI that owns its queue and its place there (R288). -/
structure Task where
  /-- The 32-byte record, byte n at bits [8n+7:8n]. -/
  record : BitVec 256
  restarted : Bool
  /-- The snapshot's length, in [0, 256], and its bytes (R325). -/
  snapLen : Nat
  snap : BitVec 2048
  scope : Scope
  brand : Option (BitVec 960)
  owner : Nat
  seq : Nat
  /-- It has entered its owner's queue: `owner` and `seq` stand. -/
  numbered : Bool := false
  deriving DecidableEq, Repr
/-- What a loft record holds, by the NI's own account (R247, R248): its place and size in the ring. -/
structure LoftRec where
  task : Bool
  /-- The byte offset of the record from the ring's start. -/
  place : Nat
  len : Nat
  /-- Taken out, its space not yet reclaimed. -/
  gone : Bool
  /-- A message's sender, which the bytes do not decide (R248). -/
  sender : Nat := 0
  /-- A task's owner and place (R288), its restart state (R399). -/
  owner : Nat
  seq : Nat
  restarted : Bool
  snapLen : Nat
  snap : BitVec 2048
  deriving DecidableEq, Repr
/-- The operations of MRED and BAR (R283). -/
inductive GroupOp where
  | bar | addI | maxI | minI | andI | orI | addF | maxF | minF
  deriving DecidableEq, Repr
/-- A group of a launch (R281, R319). -/
structure Group where
  gw : Nat
  gh : Nat
  gx : Nat
  gy : Nat
  deriving DecidableEq, Repr
/-- A contribution to the k-th episode of a group (R282), from a stream of a launch. -/
structure Contribution where
  launch : Nat
  group : Group
  episode : Nat
  rx : Nat
  ry : Nat
  op : GroupOp
  value : Word
  slot : Nat
  deriving DecidableEq, Repr
/-- The state of a lock entry in an NI (R305). -/
inductive LockState where | pending | linked | held | stub | saved
  deriving DecidableEq, Repr
/-- A lock entry (R305). `va` is the line as the request named it; `num` is the request's number; `brand` is what a STUB keeps. -/
structure LockEntry where
  line : Nat
  va : Word
  slot : Nat
  num : Nat
  st : LockState
  next : Option Waiter
  try_ : Bool
  brand : Option (BitVec 960)
  deriving DecidableEq, Repr
/-- Lock traffic (R306 to R313). -/
inductive LockPkt where
  | lock (who : Waiter) (line : Nat) (try_ : Bool)
  | link (to_ : Waiter) (line : Nat) (next : Waiter)
  /-- A LINK that found no entry, on its way back to the home (R308, R310, R316). -/
  | linkBack (to_ : Waiter) (line : Nat) (next : Waiter)
  /-- A grant from the home, or a hand-off from a releaser: the brand (none is full) and POISONED. -/
  | handoff (to_ : Waiter) (line : Nat) (brand : Option (BitVec 960)) (poisoned : Bool)
  | moved (from_ : Waiter) (line : Nat) (next : Waiter)
  | free (who : Waiter) (line : Nat)
  | freed (who : Waiter) (line : Nat)
  /-- A WITHDRAW with the request's NEXT, of a try or not. -/
  | withdraw (who : Waiter) (line : Nat) (next : Option Waiter) (try_ : Bool)
  /-- A WITHDRAW that a full table refuses (R308): its request still waits; the status its acceptance brings, with CORE, if any. -/
  | withdrawRefused (who : Waiter) (line : Nat) (status : Option (Nat × Nat))
  | pass (who : Waiter) (line : Nat) (poisoned : Bool)
  | busy (who : Waiter) (line : Nat)
  | saved (who : Waiter) (line : Nat) (next : Option Waiter)
  | resume (who : Waiter) (line : Nat)
  /-- The force-release of a killed holder's lock (R311), with what it knew of NEXT, or of a STUB. -/
  | force (who : Waiter) (line : Nat) (next : Option Waiter) (stub : Bool)
  /-- A probe at a home, with the request it started from and its path of (core, line) pairs (R312). -/
  | probe (origin : Waiter) (start line : Nat) (path : List (Nat × Nat))
  deriving DecidableEq, Repr
/-- NI traffic other than locks (R246, R282 to R288). Streams are named by launch and launch-relative cell; a yard
controller by launch 0 and its number. `counts` is the core whose outstanding-store counter holds the packet. -/
inductive NiPkt where
  | msg (launch rx ry : Nat) (counts : Option Nat) (m : Msg) (refused : Bool)
  | task (launch rx ry : Nat) (counts : Option Nat) (t : Task) (refused : Bool)
  /-- A thief's request at its k-th victim (R287), by member index; the thief is a stream. -/
  | steal (launch rx ry : Nat) (group : Group) (k : Nat)
  | stealReply (launch rx ry : Nat) (group : Group) (k : Nat) (t : Option Task)
  /-- A TKDONE report to the owner of a task (R288). -/
  | report (core owner seq launch : Nat)
  | contrib (core : Nat) (c : Contribution)
  deriving DecidableEq, Repr

/-- A lock packet in flight, with its place in the order of sending, or of arrival once it waits for its line (R12, R208). -/
structure LockFlight where
  pkt : LockPkt
  /-- The core that sent it; none is the line's home. -/
  src : Option Nat
  waits : Bool
  seq : Nat
  /-- Where a lock request that waits stands: behind a fill of its set, at its bank's input, or waiting for its line (R165). -/
  bank : Stage := .line
  deriving DecidableEq, Repr
/-- An NI packet in flight, with its place in the order of sending (R12). -/
structure NiFlight where
  pkt : NiPkt
  seq : Nat
  deriving DecidableEq, Repr

/-! ## Translation (16 R353 to R366) -/

/-- A cached leaf (R358): the page's first VA and size, its first PA, its rights. -/
structure Xlat where
  asid : Nat
  va : Nat
  size : Nat
  pa : Nat
  r : Bool
  w : Bool
  x : Bool
  u : Bool
  dx : Bool
  host : Bool
  deriving DecidableEq, Repr
/-- The page faults (R357), each at its code. -/
inductive PageKind where | notPresent | permission | format | hostDenied | asid
  deriving DecidableEq, Repr
/-- A translation request of a core for an address (R358): at its STC slice, then in a walker. -/
structure XReq where
  core : Nat
  asid : Nat
  va : Nat
  acc : Access
  user : Bool
  walking : Bool
  deriving DecidableEq, Repr
/-- A translation that waits for the host's ATS completion, or for a page request's response (R363, R364). -/
structure AtsWait where
  core : Nat
  asid : Nat
  va : Nat
  acc : Access
  pset : Nat
  pasid : Nat
  /-- 0: the first ATS request; 1: a page request is open; 2: ATS asked once more; 3: refused, of a dispatcher's request. -/
  stage : Nat
  /-- The page request group index. -/
  index : Nat
  /-- The waiters' generation. -/
  gen : Nat
  leaf : Xlat
  deriving DecidableEq, Repr

/-- What an XLATI removes (R360): an ASID and a range of pages, an ASID, or everything. -/
inductive XSel where
  | range (asid lo hi : Nat)
  | asid (asid : Nat)
  | all
  deriving DecidableEq, Repr
/-- A request to the paddock's logic: a removal of translations at one core, or at the slices (target 1027) (R360), a RETAIN or
UNPIN at the retention master (R243, R244), an LNCH at the dispatcher (R326). -/
inductive CtlReq where
  | removal (core pset : Nat) (sel : XSel) (target : Nat)
  | retain (core asid base limit ways : Nat)
  | unpin (core asid n : Nat) (user : Bool)
  | lnch (core pset queue : Nat) (rec : BitVec 256)
  deriving DecidableEq, Repr

/-! ## Copies and all-reduces (10 R251 to R257) -/

/-- A line that a PREF asked for and whose translation must wait (R242): the stream it belongs to, the line's address and the form. -/
structure Prefetch where
  core : Nat
  asid : Nat
  pset : Nat
  va : Word
  user : Bool
  ef : Bool
  priv : Bool
  /-- Its ATS request has gone out. -/
  asked : Bool
  deriving DecidableEq, Repr
/-- A retired CPY or CPYF. Pages are (VA page, PA page) of 4 KiB. -/
structure Job where
  id : Nat
  core : Nat
  launch : Nat
  rx : Nat
  ry : Nat
  fill : Bool
  /-- Byte ranges of the source and the destination by physical address, in order. -/
  src : List (Nat × Nat)
  dst : List (Nat × Nat)
  pattern : Word
  len : Nat
  slot : Nat
  scope : Scope
  /-- Destination lines still to be marked, and to be written. -/
  unmarked : List Nat
  unwritten : List Nat
  /-- Lines of older stores of the core that are not done: the source is read after them (R191). -/
  after : List Nat
  /-- Source elements (PA, 8 aligned bytes) that the copy has overwritten, with their old values (R252). -/
  saved : List (Nat × Nat)
  /-- Source elements already read that feed a line still to be written: an element is read once (R177, R191). -/
  held : List (Nat × Nat) := []
  /-- Source lines of other places than local HBM: asked for, and what has arrived (R171). -/
  asked : List Nat := []
  got : List (Nat × BitVec 1024) := []
  /-- A source line was refused: the status that the copy ends with (log entry 65). -/
  lost : Nat := 0
  brand : BitVec 960
  status : Nat
  asid : Nat
  va : Nat
  deriving DecidableEq, Repr
/-- An entry of the card's ARED table (R255, R256). -/
structure Ared where
  id : Nat
  core : Nat
  launch : Nat
  rx : Nat
  ry : Nat
  bf16 : Bool
  tag : Nat
  buf : List (Nat × Nat)
  len : Nat
  slot : Nat
  brand : BitVec 960
  matched : Bool
  status : Nat
  /-- Chunks (lines) still to be summed. -/
  left : List Nat
  /-- The peer card's buffer, by its own addresses, once matched (R256). -/
  peer : List (Nat × Nat)
  /-- Lines of older stores of the core that are not done: they are performed before the engines read (R180). -/
  after : List Nat
  /-- Some agent has stored to either buffer during the operation (R192). -/
  bad : Bool
  deriving DecidableEq, Repr

/-! ## A core -/

/-- What a core does (R148, R395, R415); `stopped`: a pre-emption has squashed it, and its save is under way (R276). -/
inductive RunState where | idle | running | stopped | halted | debugHalted | lost
  deriving DecidableEq, Repr
/-- How the last bundle ended: retired, waiting to be tried again, or squashed by a trap. -/
inductive Res where | retired | waiting | trapped
  deriving DecidableEq, Repr
/-- A pending asynchronous trap (R385, R386). -/
inductive Async where
  | overflow
  | fenceOff (line lost : Nat)
  | posted (pa : Nat)
  deriving DecidableEq, Repr
/-- A line that has arrived for the instruction in progress: its value is fixed (R176). -/
structure Fill where
  line : Nat
  acq : Bool
  data : BitVec 1024
  /-- The value is fresh (R223). -/
  fresh : Bool
  fault : Option LateFault
  deriving DecidableEq, Repr
/-- An AMO, LNCH or retention request in progress (R235, R326, R243); an AMO's with its physical address. -/
inductive Pending where
  | none
  | sent (pa : Nat)
  | reply (pa : Nat) (v : Word)
  | fault (f : LateFault)
  deriving DecidableEq, Repr
/-- What an NI holds of a stream: slots, arrival queue and task queue. -/
structure HeldNi where
  mbox : Vector MSlot 32
  arrivals : List Msg
  taskQueue : List Task
  deriving DecidableEq, Repr
/-- The debug module's registers (R411). -/
structure Debug where
  cause : Nat
  index : Nat
  err : Bool
  brken : Bool
  haltreq : Bool
  dpc : Word
  dsave : Word
  bp : Vector Word 4
  watch0 : Vector Word 2
  watch1 : Vector Word 2
  /-- The next bundle skips the breakpoint, watch or BRK halt that halted last (R413). -/
  skip : Bool
  /-- A STEP is under way: halt after one bundle. -/
  stepping : Bool
  /-- What the breakpoints and watches were when the bundle in hand was dispatched, where a write has changed them since (R411). -/
  armed : Option (Vector Word 4 × Vector Word 2 × Vector Word 2) := none
  /-- What the NI held when the core halted, as its halt image has it (R413). -/
  held : Option HeldNi := none
  deriving DecidableEq, Repr
/-- The trace encoder (R419, R420). -/
structure Trace where
  ctl : Word
  base : Word
  len : Word
  head : Nat
  /-- Bytes generated and not yet written. -/
  buf : List Byte
  dropped : Nat
  /-- Branch outcomes held, oldest first. -/
  outcomes : List Bool
  /-- Bundles retired since the last RETIRE packet. -/
  since : Nat
  /-- A sync ADDR packet is due: the first packet, or 4,096 bytes have passed. -/
  sync : Nat
  /-- The oldest bytes of `buf` that a sink write on its way carries; TRCHEAD passes them when it has performed (R419). -/
  sent : Nat
  deriving DecidableEq, Repr
/-- A piece of an access: its address, its place, whether its page is device-exclusive, its bytes, where they stand in the value that
is transferred, and the row it belongs to. -/
structure Piece where
  va : Word
  pa : Nat
  dx : Bool
  len : Nat
  pos : Nat
  row : Nat
  /-- Of a tile's load or store (R13). -/
  bulk : Bool := false
  /-- The page that translated it, if one did: its first address and its size. -/
  page : Option (Nat × Nat) := none
  deriving DecidableEq, Repr
/-- What of a core can be poisoned (R393), with its index and row. -/
inductive PoisonName where
  | tile (i row : Nat) | acc (i row : Nat) | slot (i row : Nat) | greg (i : Nat) | mbox (i : Nat) | bank (i : Nat)
  | brand | generator
  /-- vstat or a system register, by its place in the table of R349 (log entry 91). -/
  | sysreg (i : Nat)
  deriving DecidableEq, Repr

/-- The rename stage (R18): the physical register under each architectural tile, accumulator and general register, and the free lists. -/
structure Rename where
  t : Vector Nat 16
  a : Vector Nat 4
  g : Vector Nat 32
  freeT : List Nat
  freeA : List Nat
  freeG : List Nat
  deriving DecidableEq, Repr
/-- A core, or a yard controller (R16, R32, R35). Its id is its core number; yard controller d is 512 + d. -/
structure Core where
  id : Nat
  run : RunState
  /-- The launch whose stream it runs, by the launch's number, and the stream's place in it. -/
  launch : Option Nat
  rx : Nat
  ry : Nat
  pc : Word
  /-- The address after the bundle in hand. -/
  npc : Word
  /-- The pc was reached by a non-sequential arrival (R41). -/
  arrived : Bool
  res : Res
  g : Vector Word 32
  t : Vector Tile 16
  a : Vector Acc 4
  w : Vector Slot 16
  mbox : Vector MSlot 32
  arrivals : List Msg
  h : Vector Bank 4
  vstat : Flags
  brand : BitVec 960
  carry : Vector (BitVec 960) 4
  brLast : Nat
  brFull : Bool
  brTotal : Nat
  gen : GenState
  cwin : Word
  asid : Nat
  /-- The launch's generation (R365). -/
  genNum : Nat
  paddock : Nat
  status : BitVec 5
  epc : Word
  ecause : Word
  eva : Word
  erow : Word
  escratch : Word
  stvec : Word
  /-- CYC[63:12] (R224); the low bits count cycles and are free. -/
  cycFrame : Nat
  nBundles : Word
  nMma : Word
  nTkdone : Word
  nSteals : Word
  nFailed : Word
  /-- Of the counters of R418 that depend on timing, what was read last; of counter 14, what it stands at. -/
  timers : Vector Word 15 := Vector.replicate 15 0
  /-- Conditional branches and JALRs that have executed since counter 6 was read last. -/
  jumps : Nat := 0
  /-- The private data cache, most recently used first (R161). -/
  cache : List CLine
  /-- The translation cache, most recently used first (R358). -/
  ctc : List Xlat
  /-- Code words stored to since the stream started, with their value then (R42). -/
  code : List (Nat × Nat)
  /-- Lines with a write of this core that is not done (R210), and the counter's other entries. -/
  undone : List Nat
  others : Nat
  /-- The pages that translated those writes: line, ASID, and the page's first address and size (R360). -/
  storePages : List (Nat × Nat × Nat × Nat) := []
  fills : List Fill
  asked : List (Nat × Bool)
  pend : Pending
  /-- What the bundle in hand has translated before it began to wait: past its trap horizon it translates nothing again (R239, R318). -/
  kept : List Piece
  /-- The bundle in hand, once its request is out: it is neither fetched nor checked again (R24, R40). -/
  bundle : Option (Instr × Option Instr) := none
  /-- A CTXSV's writes have left: what is younger waits until they have performed (R180 row 9). -/
  behind : Bool := false
  /-- A CTXSV or CTXLD is in progress: the NI places every arrival in the loft and lets no task be stolen (R377, R378). -/
  lofting : Bool
  /-- A page fault a walk has answered, with the page (VA[47:12]) it concerns. -/
  xfault : Option (Nat × PageKind)
  taskQueue : List Task
  /-- Tasks that entered this queue, in order of seq, and are not done (R288), and the next seq. -/
  openTasks : List Nat
  taskSeq : Nat
  loft : List LoftRec
  /-- Where the next loft record goes, from the ring's start. -/
  loftTail : Nat
  /-- LOFTCTL.SIZE in KiB (R397). -/
  loftSize : Nat
  loftArmed : Bool
  inHand : Option Task
  /-- The search or the run of the task in hand was interrupted by a pre-emption (R418, R420). -/
  cut : Bool
  sent : Nat
  taken : Nat
  episodes : Vector Nat 20
  /-- A RECVT's ring of visits over a group (R287): the next step; at the group's size, the ring has taken nothing. -/
  search : Option (Nat × Group)
  /-- A stolen task committed to the RECVT that waits for it (R322). -/
  granted : Option Task
  locks : List LockEntry
  asyncs : List Async
  dbg : Debug
  trc : Trace
  /-- Two-bit branch counters that do not stand at 1, and the return stack, newest first (R17). -/
  predict : List (Nat × Nat)
  rstack : List Word
  rename : Rename
  /-- The load-squash mark table (R23). -/
  marks : List Nat
  poison : List PoisonName
  /-- The boundary register (R371). -/
  tag : Nat
  bport : Nat
  corrected : Nat
  replays : Nat
  /-- Replays of the bundle in hand (R393, R395): how many bundles had retired before it, and the physical structure in error. -/
  tries : List (Word × Nat)
  available : Bool
  /-- Fenced off (R401): its router discards what its NI has sent from this place in the order of sending on. -/
  fencedAt : Option Nat := none
  /-- A yard controller's private SRAM, which programs cannot reach (R32, log entry 10). -/
  sram : Memory
  deriving DecidableEq, Repr

/-! ## Paddocks, launches and the card -/

/-- A launch record (R266): 256 bits. -/
abbrev LaunchRec := BitVec 256
/-- A launch queue (R268). -/
structure Queue where
  /-- Queued records with their sequence numbers and arrival order, oldest first. -/
  recs : List (Nat × Nat × LaunchRec)
  staged : LaunchRec
  drop : Bool
  inval : Bool
  ends : BitVec 32
  base : Word
  head : Nat
  ctl : Word
  nextSeq : BitVec 32
  deriving DecidableEq, Repr
/-- The state of a paddock set (R369). -/
inductive PState2 where | run | quiescing | stopped
  deriving DecidableEq, Repr
/-- A segment of the record and replay log (R421 to R423): the entries written or consumed, the entry in hand (word 0, X and its
RUN), and whether the point has stopped logging or serves freely. -/
structure RRSeg where
  seg : Nat
  idx : Nat
  w0 : Nat
  x : Nat
  run : Nat
  free : Bool
  deriving DecidableEq, Repr
/-- A paddock's register set and its dispatcher's tables (R268, R368 to R371, R396, R406, R421). -/
structure Paddock where
  num : Nat
  /-- CMASK: bit (y << 4) | x (R368). -/
  cmask : BitVec 192
  ncode : Nat
  stackMask : BitVec 4
  lkto : Nat
  asidtb : Word
  tvec : Word
  qlim : Word
  priStray : BitVec 32
  priStopped : Bool
  priEnable : Bool
  st : PState2
  flushing : Bool
  busy : Bool
  queues : Vector Queue 16
  /-- Records of the drop log and the deadlock log by their place in the ring, and the next places. -/
  dropLog : List (Nat × Word × Word)
  dropHead : Nat
  deadlockLog : List (Nat × List Word)
  deadlockHead : Nat
  errCount : BitVec 32
  errHead : Nat
  errMsie : Bool
  errVec : BitVec 8
  /-- Records of the error log: place, words 0 and 1, and GAP. -/
  errLog : List (Nat × Word × Word × Word)
  retained : List (Nat × RetEntry)
  dumpBase : Word
  dumpLen : Word
  dumpStat : Word
  rrMode : Nat
  rrBase : Word
  rrLen : Word
  rrCount : BitVec 32
  rrDiverged : Bool
  rrOver : Bool
  rrRefused : Bool
  /-- The segments that have logged or replayed something (R421 to R423). -/
  rrSegs : List RRSeg
  genCounter : BitVec 16
  /-- The ASID caches of the paddock's slices (R359), by the slice's cell: ASIDs with their words, the most recent first. -/
  asidCache : List (Nat × Nat × Word × Word)
  /-- The STCs of the paddock's slices (R359), by the slice's cell and the set, the most recent first. -/
  stc : List (Nat × Nat × Xlat)
  /-- Arrival numbers for the dispatcher's own order (R272). -/
  arrival : Nat
  resumeList : List Nat
  /-- Cells held by retention (R286): ASID, KEEP, width, height, origin. -/
  retentions : List (Nat × Nat × Nat × Nat × Nat × Nat)
  deriving DecidableEq, Repr

/-- Where a launch stands (R272 to R280, R293). -/
inductive LState where | placed | running | preempting | preempted | killed
  deriving DecidableEq, Repr
/-- What a stream of a launch is (R275, R276, R295); `haltedSaved` is a halted stream of a pre-empted launch, whose tasks are
saved. -/
inductive SState where | waiting | live | halted | saved | haltedSaved
  deriving DecidableEq, Repr
/-- The stream has halted (R148). -/
def SState.isHalted : SState → Bool | .halted => true | .haltedSaved => true | _ => false
/-- A stream of a launch: its place, the core it is on, and, while saved, its late ring (R279). -/
structure Stream where
  rx : Nat
  ry : Nat
  core : Nat
  st : SState
  late : List (Sum Msg Task)
  /-- While saved: held locks, asynchronous traps recorded for it, debug halt, and the NI's own account of its loft, its tasks and
  its task in hand. -/
  locks : List LockEntry
  asyncs : List Async
  debugHalted : Bool
  dbg : Option Debug
  loft : List LoftRec
  loftTail : Nat
  loftSize : Nat
  tasks : List Task
  inHand : Option Task
  openTasks : List Nat
  taskSeq : Nat
  cut : Bool
  /-- A halted stream's counts of tasks sent and taken (R280, R292). -/
  sent : Nat := 0
  taken : Nat := 0
  /-- While saved: its next bundle was reached by a non-sequential arrival not yet checked (R41). -/
  arrived : Bool := true
  /-- The reason of a dump that waits for the stream's committed AMO (R24, R406). -/
  dump : Option Nat := none
  /-- A pre-emption has stopped it and its save is under way: what arrives for it goes to its late ring (R276, R279, R309). -/
  leaving : Bool := false
  deriving DecidableEq, Repr
/-- A core dump that a set's dispatcher writes (R406 to R408): the buffer, how many of its bytes are written, the layout's contents, what of it is
poisoned, and how far it has come: 0 the first header is due, 1 the sections, 2 the last header. -/
structure DumpJob where
  pset : Nat
  launch : Nat
  core : Nat
  base : Nat
  len : Nat
  valid : Nat
  reason : Nat
  cell : Nat
  asid : Nat
  queue : Nat
  seq : BitVec 32
  /-- The context image's trap registers: ECAUSE, EPC, EVA and EROW. -/
  regs : List Nat
  /-- The sections, each byte at its offset in the buffer. -/
  body : Nat
  /-- The poisoned words, by offset / 8. -/
  bad : List Nat
  stage : Nat
  deriving DecidableEq, Repr
/-- A launch (R270 to R293). -/
structure Launch where
  id : Nat
  pset : Nat
  queue : Nat
  seq : BitVec 32
  record : LaunchRec
  gen : Nat
  st : LState
  ox : Nat
  oy : Nat
  /-- Retained scratchpads are found as they were left (R286). -/
  successor : Bool
  streams : List Stream
  mismatch : Bool
  dropped : Nat
  done : Bool
  /-- The last matching sweep's sums (R292). -/
  swept : Option (Nat × Nat)
  /-- Launches whose saves this placement awaits (R274). -/
  awaits : List Nat
  saveFault : Bool
  /-- Tasks the dispatcher has re-sent (R399). -/
  resent : Nat
  deriving DecidableEq, Repr

/-- The Sahax Link (R439, R440). -/
structure Link where
  up : Bool
  lost : Bool
  card : Nat
  retrains : Nat
  /-- The peer's identity, settled at training. -/
  peerId : Word
  /-- The next sequence numbers of the flits to come and to go, and the flit that the last NAK named, with its replays. -/
  rxSeq : BitVec 12
  txSeq : BitVec 12
  replay : List (BitVec 12)
  replays : Nat
  retraining : Bool
  /-- Stage 4 has ended without a link (R440). -/
  alone : Bool
  /-- The link has trained since the card's reset (R440). -/
  trained : Bool := false
  /-- The replay buffer: the last flits sent that are not acknowledged, at most 256, each with the line it is about (R440). -/
  buffer : List (BitVec 12 × Nat) := []
  deriving DecidableEq, Repr
/-- A link window entry (R374). -/
abbrev Window := LinkWindow
/-- The boot state (R433 to R437). -/
structure Boot where
  stage : Nat
  slot : Nat
  perst : Bool
  verified : Bool
  trained : Bool
  featdev : BitVec 8
  done : Bool
  /-- FEATACC's low bits as last answered. -/
  featacc : BitVec 8
  /-- The accepted sets of the dies (R437). -/
  dies : Vector (BitVec 8) 2
  answered : Bool
  /-- Dies whose readmission awaits the driver's answer, in order (R437). -/
  asking : List (Fin 2)
  cardId : Word
  deriving DecidableEq, Repr
/-- A quarter's power and ageing state (R441 to R443): clock and ceiling in steps of 21.875 MHz below 1.4 GHz, the added voltage in
quarters of a millivolt. -/
structure Quarter where
  clockSteps : Nat
  ceilSteps : Nat
  spacing : Bool
  voff : Nat
  slack : BitVec 16
  deriving DecidableEq, Repr
/-- A die's reset state (R403, R404). -/
inductive DieState where | up | reset
  deriving DecidableEq, Repr
/-- A UCIe module (R402). -/
inductive UcieState where | full | retraining | half | disabled
  deriving DecidableEq, Repr
/-- A mesh link from a cell by its port (R400): 0 west, 1 east, 2 south, 3 north. -/
structure MeshLink where
  cell : Nat
  port : Nat
  replays : Nat
  failed : Bool
  detour : Bool
  deriving DecidableEq, Repr
/-- What the card has sent out of itself. -/
inductive Out where
  | msix (fn vector : Nat)
  | crs
  | configOk
  | ur (fn off : Nat)
  | barRead (fn off value : Nat)
  | completerAbort (fn off : Nat)
  /-- An ATS request and a page request of a function (R363, R364). -/
  | atsRequest (fn pasid va : Nat) (w : Bool)
  | pageRequest (fn index pasid va : Nat) (r w : Bool)
  | invalidationDone (fn pasid : Nat)
  /-- A request of the host agent, under a function and its PASID (R29). -/
  | hostRequest (fn : Nat) (pasid : Option Nat) (iova : Nat) (write : Bool)
  /-- A chunk of an all-reduce's buffer, streamed to the peer (R256). -/
  | aredChunk (tag chunk : Nat) (data : BitVec 1024)
  | windowTable
  /-- What the peer card's requests are answered with: a line read, an AMO's old value, a write's done, a refusal (R374, R440). -/
  | peerData (line : Nat) (data : BitVec 1024)
  | peerOld (line old : Nat)
  | peerDone (line : Nat)
  | peerRefused (line : Nat) (fault : Option LateFault)
  | nak (seq : BitVec 12)
  /-- A flit replayed after a NAK, with the line it is about (R440). -/
  | flit (seq : BitVec 12) (line : Nat)
  | cardId (id : Word)
  deriving DecidableEq, Repr

/-- What moves next: a step with no word, or a core's next bundle. -/
inductive Move where
  | event (i : Instr)
  | run (core : Nat)
  deriving DecidableEq, Repr

/-- The whole card. -/
structure State where
  /-- The core that moves. -/
  me : Core
  /-- The other cores, in ascending id; a core that is not listed stands as at reset. -/
  cores : List Core
  agenda : List Move
  /-- True: requests travel as packets that the agenda's steps serve. False: each is served as soon as it is posted
  (log entry 6). -/
  lazy : Bool
  /-- The counter that the free values read. -/
  tick : Nat
  mem : Memory
  /-- Poisoned 8-byte words, by PA / 8 (R394). -/
  badWords : List Nat
  /-- Words that a write on its way brings poisoned, by the writing agent and PA / 8 (R394). -/
  poisonDue : List (Nat × Nat)
  /-- The resident lines of the L2 with their directory state (R163, R214). -/
  dir : List DirLine
  net : List InFlight
  /-- The next place in the order of sending (R12). -/
  stamp : Nat
  /-- The last packet a bank started was of class 1, while another was promoted (R228). -/
  classTurn : Bool
  /-- For each line that has committed a write, its home cell's CYC[63:12] then (R223). -/
  commits : List (Nat × Nat)
  /-- For each line whose holder was sent OVERDUE, its home cell's CYC[63:12] then (R307). -/
  overdues : List (Nat × Nat)
  /-- Prefetches whose translation waits (R242). -/
  prefs : List Prefetch
  ni : List NiFlight
  lockNet : List LockFlight
  withdrawn : List Withdrawn
  xreqs : List XReq
  ctl : List CtlReq
  ats : List AtsWait
  contribs : List Contribution
  jobs : List Job
  areds : List Ared
  /-- Core dumps being written, at most one of a set (R406). -/
  dumps : List DumpJob
  nextId : Nat
  pads : Vector Paddock 7
  launches : List Launch
  link : Link
  windows : Vector Window 8
  peerWindows : Vector Window 8
  boot : Boot
  cap : Bool
  shutdown : Bool
  quarters : Vector Quarter 4
  dies : Vector DieState 2
  mesh : List MeshLink
  ucie : Vector UcieState 36
  out : List Out
  /-- How the host answers requests that have a completion, oldest first; none left means success (R29). -/
  hostReplies : List HostReply
  /-- Reads through a BAR2 whose lines have to wait: the function, the offset and the size (R438). -/
  hostReads : List (Nat × Nat × Nat) := []
  deriving DecidableEq, Repr

/-! ## Reset -/

/-- A mailbox slot at stream start (R35). -/
def freshMSlot : MSlot := { value := 0, present := false, scope := .core, brand := none }
/-- The debug module at die reset (R411). -/
def freshDebug : Debug :=
  { cause := 0, index := 0, err := false, brken := false, haltreq := false, dpc := 0, dsave := 0,
    bp := Vector.replicate 4 0, watch0 := Vector.replicate 2 0, watch1 := Vector.replicate 2 0, skip := false,
    stepping := false }
/-- The trace encoder at die reset (R419; log entry 3 for what the spec gives no value). -/
def freshTrace : Trace :=
  { ctl := 0, base := 0, len := 0, head := 0, buf := [], dropped := 0, outcomes := [], since := 0, sync := 0, sent := 0 }
/-- The paddock a core belongs to before any configuration: 7, as the boundary register's TAG resets (R371). -/
def noPaddock : Nat := 7
/-- The rename stage with every architectural register on the physical one of its number; g0 is not renamed, so physical register 0 is free (R18,
log entry 8). -/
def freshRename : Rename :=
  { t := Vector.ofFn fun i => i.val, a := Vector.ofFn fun i => i.val, g := Vector.ofFn fun i => i.val,
    freeT := (List.range 48).map (16 + ·), freeA := (List.range 4).map (4 + ·), freeG := (List.range 96).map (32 + ·) ++ [0] }
/-- Core or yard controller `id` as die reset leaves it: a fresh stream's registers (R35, log entry 3), no stream. -/
def resetCore (id : Nat) : Core :=
  { id := id, run := .idle, launch := none, rx := 0, ry := 0, pc := 0, npc := 0, arrived := true, res := .retired,
    g := Vector.replicate 32 0, t := Vector.replicate 16 freshTile, a := Vector.replicate 4 freshAcc,
    w := Vector.replicate 16 freshSlot, mbox := Vector.replicate 32 freshMSlot, arrivals := [],
    h := Vector.replicate 4 0, vstat := 0, brand := 0, carry := Vector.replicate 4 0, brLast := 0, brFull := false,
    brTotal := 0, gen := { lo := 1, hi := 0 }, cwin := 0, asid := 0, genNum := 0, paddock := noPaddock,
    status := if 512 ≤ id then 3 else 0, epc := 0, ecause := 0, eva := 0, erow := 0, escratch := 0, stvec := 0,
    cycFrame := 0, nBundles := 0, nMma := 0, nTkdone := 0, nSteals := 0, nFailed := 0, cache := [], ctc := [], code := [],
    undone := [], others := 0, fills := [], asked := [], pend := .none, kept := [], lofting := false, xfault := none, taskQueue := [], openTasks := [],
    taskSeq := 0, loft := [], loftTail := 0, loftSize := 16, loftArmed := true, inHand := none, cut := false, sent := 0, taken := 0,
    episodes := Vector.replicate 20 0, search := none, granted := none, locks := [], asyncs := [], dbg := freshDebug,
    trc := freshTrace, predict := [], rstack := [], rename := freshRename, marks := [], poison := [], tag := noPaddock, bport := 0, corrected := 0,
    replays := 0, tries := [], available := true, sram := [] }
/-- A launch queue at reset (R268 to R270). -/
def resetQueue : Queue :=
  { recs := [], staged := 0, drop := false, inval := false, ends := 0, base := 0, head := 0, ctl := 0, nextSeq := 0 }
/-- Paddock set n at reset (R368, R369): inactive. -/
def resetPaddock (n : Nat) : Paddock :=
  { num := n, cmask := 0, ncode := 0, stackMask := 0, lkto := 21, asidtb := 0, tvec := 0, qlim := 16777216, priStray := 0,
    priStopped := false, priEnable := true, st := .run, flushing := false, busy := false,
    queues := Vector.replicate 16 resetQueue, dropLog := [], dropHead := 0, deadlockLog := [], deadlockHead := 0, errCount := 0, errHead := 0,
    errMsie := false, errVec := 0, errLog := [], retained := [], dumpBase := 0, dumpLen := 0, dumpStat := 0, rrMode := 0,
    rrBase := 0, rrLen := 0, rrCount := 0, rrDiverged := false, rrOver := false, rrRefused := false, rrSegs := [],
    genCounter := 0, asidCache := [], stc := [], arrival := 0, resumeList := [], retentions := [] }
/-- A link window entry at reset: not valid (log entry 3). -/
def resetWindow : Window := { v := false, r := false, w := false, a := false, pmask := 0, base := 0, limit := 0 }
/-- The Sahax Link before training (R440). -/
def resetLink : Link :=
  { up := false, lost := false, card := 0, retrains := 0, peerId := 0, rxSeq := 0, txSeq := 0, replay := [], replays := 0,
    retraining := false, alone := false }
/-- The boot state at card reset: BOOTSTAT and the feature words at their reset values (R434, R435); stage 1 begins with CARD_RESET. -/
def resetBoot : Boot :=
  { stage := 0, slot := 0, perst := false, verified := false, trained := false, featdev := 0, done := false, featacc := 0,
    dies := Vector.replicate 2 0, answered := false, asking := [], cardId := 0 }
/-- A quarter at reset: 1,400 MHz, no added voltage (R441, R443). -/
def resetQuarter : Quarter := { clockSteps := 0, ceilSteps := 0, spacing := false, voff := 0, slack := 0 }
/-- The card right after reset: yard controller 0 stands before stage 1, no stream runs, no paddock is active, nothing is in
flight (R433). -/
def State.reset : State :=
  { me := resetCore 512, cores := [], agenda := [], lazy := false, tick := 0, mem := [], badWords := [], poisonDue := [], dir := [],
    net := [], stamp := 0, classTurn := false, commits := [], overdues := [], prefs := [], ni := [], lockNet := [], withdrawn := [], xreqs := [], ctl := [], ats := [], contribs := [], jobs := [], areds := [], dumps := [],
    nextId := 1,
    pads := Vector.ofFn fun (i : Fin 7) => resetPaddock i.val, launches := [], link := resetLink,
    windows := Vector.replicate 8 resetWindow, peerWindows := Vector.replicate 8 resetWindow, boot := resetBoot,
    cap := false, shutdown := false, quarters := Vector.replicate 4 resetQuarter, dies := Vector.replicate 2 .up, mesh := [],
    ucie := Vector.replicate 36 .full, out := [], hostReplies := [] }

/-! ## Reasons to stop -/

/-- The faults of a step. Every trap of the spec is taken as a next state, so a step faults only where the machine's
description ends. -/
inductive Fault where
  /-- Raised by no meaning of an instruction: an agenda that holds an instruction with a word. Safe: the machine has no such
  move. -/
  | notAnEvent
  deriving DecidableEq, Repr
/-- The refusals of a step. -/
inductive Refusal where
  /-- Raised by a dispatch arm whose instruction has no meaning yet. Safe. -/
  | notModelled (mnemonic : String)
  deriving DecidableEq, Repr

end Sys2Proof.Machine
end

