-- ==== Sys2Proof/Machine/Memory.lean ====
section
/-! DEFINITION. Memory as plain data in one canonical form, and access by byte, word and line (00 R2). -/
namespace Sys2Proof.Machine

/-- The canonical form: addresses strictly rising from lo up, and no byte that is 0. -/
def Memory.wfFrom : Nat → Memory → Bool
  | _, [] => true
  | lo, (a, b) :: m => decide (lo ≤ a) && b != 0 && Memory.wfFrom (a + 1) m
/-- The canonical form of a memory. -/
def Memory.wf (m : Memory) : Bool := Memory.wfFrom 0 m

/-- The byte at an address; one that is not listed reads 0 (log entry 1). -/
def Memory.read : Memory → Nat → Byte
  | [], _ => 0
  | (a, b) :: m, x => if x == a then b else if x < a then 0 else Memory.read m x
/-- One byte written, in canonical form. -/
def Memory.write : Memory → Nat → Byte → Memory
  | [], x, v => if v == 0 then [] else [(x, v)]
  | (a, b) :: m, x, v =>
    if x < a then (if v == 0 then (a, b) :: m else (x, v) :: (a, b) :: m)
    else if x == a then (if v == 0 then m else (x, v) :: m)
    else (a, b) :: Memory.write m x v

/-- n bytes from address a, little-endian, as a number. -/
def Memory.readN (m : Memory) (a : Nat) : Nat → Nat
  | 0 => 0
  | n + 1 => (m.read a).toNat + 256 * Memory.readN m (a + 1) n
/-- The low n bytes of v written from address a, little-endian. -/
def Memory.writeN (m : Memory) (a : Nat) (v : Nat) : Nat → Memory
  | 0 => m
  | n + 1 => Memory.writeN (m.write a (BitVec.ofNat 8 v)) (a + 1) (v / 256) n
/-- The 128-byte line of a line number (PA[47:7]), byte n at bits [8n+7:8n]. -/
def Memory.line (m : Memory) (line : Nat) : BitVec 1024 :=
  BitVec.ofNat 1024
    (m.foldl (fun acc c => if c.1 / 128 == line then acc + c.2.toNat <<< (8 * (c.1 % 128)) else acc) 0)
/-- n bytes of a line's data replaced from byte offset off. -/
def lineSet (d : BitVec 1024) (off n v : Nat) : BitVec 1024 := BitVec.ofNat 1024 (setBits d.toNat (8 * off) (8 * n) v)
/-- n bytes of a line's data from byte offset off. -/
def lineGet (d : BitVec 1024) (off n : Nat) : Nat := getBits d.toNat (8 * off) (8 * n)

/-- The pieces of n bytes from address a that each lie in one unit of u bytes: address, length, and place in the range. -/
def splitAt (u a n : Nat) : Nat → Nat → List (Nat × Nat × Nat)
  | 0, _ => []
  | fuel + 1, done =>
    if n ≤ done then []
    else
      let x := a + done
      let k := min (u - x % u) (n - done)
      (x, k, done) :: splitAt u a n fuel (done + k)
/-- The pieces of a byte range by 128-byte line. -/
def linePieces (a n : Nat) : List (Nat × Nat × Nat) := splitAt 128 a n (n / 128 + 2) 0

end Sys2Proof.Machine
end

