-- ==== Sys2Proof/Machine/Base.lean ====
section
/-! DEFINITION. Reading and changing parts of the state: cores by number, registers, paddocks, launches, the access-fault and
trap codes (18 R385), placement arithmetic (00 R4, 07 R156 to R158, 16 R367 to R370) and the error log (18 R396). -/
namespace Sys2Proof.Machine

/-! ### Cores -/

/-- The entry of a core in a list sorted by id, or the core as reset leaves it. -/
def findCore : List Core → Nat → Core
  | [], k => resetCore k
  | c :: cs, k => if c.id == k then c else findCore cs k
/-- A core put into a list sorted by id. -/
def putCore : List Core → Core → List Core
  | [], c => [c]
  | d :: cs, c => if c.id < d.id then c :: d :: cs else if c.id == d.id then c :: cs else d :: putCore cs c
/-- The core of a number. -/
def State.core (s : State) (k : Nat) : Core := if s.me.id == k then s.me else findCore s.cores k
/-- A core of the state replaced by one of the same number. -/
def State.setCore (s : State) (c : Core) : State :=
  if s.me.id == c.id then { s with me := c } else { s with cores := putCore s.cores c }
/-- A core changed. -/
def State.onCore (s : State) (k : Nat) (f : Core → Core) : State := s.setCore (f (s.core k))
/-- The moving core changed. -/
def State.onMe (s : State) (f : Core → Core) : State := { s with me := f s.me }
/-- Every core that differs from reset, the moving one first. -/
def State.allCores (s : State) : List Core := s.me :: s.cores
/-- Core k becomes the one that moves. -/
def State.switchTo (s : State) (k : Nat) : State :=
  if s.me.id == k then s
  else { s with me := findCore s.cores k, cores := putCore (s.cores.filter (·.id != k)) s.me }
/-- The next value of the free-value counter. -/
def State.tock (s : State) : State := { s with tick := s.tick + 1 }

/-- A yard controller (R32). -/
def Core.isYard (c : Core) : Bool := 512 ≤ c.id
/-- The die of a core number (R10), yard controllers included. -/
def dieOf (k : Nat) : Nat := if 512 ≤ k then k % 2 else k % 16 / 8
/-- The level of the stream (R347). -/
def Core.level (c : Core) : Nat := c.status.toNat % 4
/-- INTRAP (R347). -/
def Core.inTrap (c : Core) : Bool := c.status.toNat / 16 % 2 == 1
/-- PLV (R347). -/
def Core.plv (c : Core) : Nat := c.status.toNat / 4 % 4
/-- STATUS from its fields (R347). -/
def mkStatus (inTrap : Bool) (plv lvl : Nat) : BitVec 5 := BitVec.ofNat 5 (inTrap.toNat * 16 + plv % 4 * 4 + lvl % 4)

/-- The place under which an LNCH stands in `pend`: beyond every address. -/
def lnchMark : Nat := 2 ^ 48 + 1
/-- The place under which an XLATI that has sent its removal stands in `pend`: a pre-emption waits for its completion (R360). -/
def xlatiMark : Nat := 2 ^ 48 + 2
/-- The instruction in progress can no longer be squashed (R387): a sent AMO (R235), an LNCH that waits for its reply (R326), a RECVT to which a task
has been committed (R322), and what has had its answer and only retires. -/
def Core.committed (c : Core) : Bool :=
  c.granted.isSome || match c.pend with | .none => false | .sent pa => decide (pa < 2 ^ 48) || pa == lnchMark | _ => true
/-- Poison leaves a name that is written whole (R394). -/
def Core.clean (c : Core) (n : PoisonName) : Core := if c.poison.isEmpty then c else { c with poison := c.poison.filter (· != n) }

/-! ### General registers -/

/-- A register read: g0 is zero (R35). -/
def Core.reg (c : Core) (r : GReg) : Word := if r == 0 then 0 else c.g[r]
/-- A register write: a write of g0 is ignored (R35). -/
def Core.setReg (c : Core) (r : GReg) (v : Word) : Core := if r == 0 then c else { c with g := c.g.set r v }
/-- A register of the moving core. -/
def State.g (s : State) (r : GReg) : Word := s.me.reg r
/-- A register of the moving core written. -/
def State.setG (s : State) (r : GReg) (v : Word) : State := { s with me := s.me.setReg r v }
/-- Flags ORed into vstat (R93). -/
def State.addFlags (s : State) (f : Flags) : State := { s with me := { s.me with vstat := s.me.vstat ||| f } }
/-- Two's complement value of a register. -/
def wordInt (w : Word) : Int := w.toInt

/-! ### Trap codes -/

/-- A trap to be taken: cause, kind, TRAP or BRK code, EVA and EROW (R348, R385, R386). -/
structure Trap where
  cause : Nat
  kind : Nat
  code : Nat
  va : Word
  row : Nat
  deriving DecidableEq, Repr

/-- The code of an access fault (R385). -/
def AccessKind.code : AccessKind → Nat
  | .physHole => 1 | .hostDenied => 2 | .hostAbort => 3 | .linkAbsent => 4 | .linkWindow => 5 | .window => 6 | .paddock => 7
  | .lockRegion => 8 | .hostAtomic => 9 | .atomicUnresolved => 10 | .copyLength => 11 | .aredRegion => 12 | .boundary => 13
  | .dieAbsent => 14 | .lockTimeout => 15
/-- The code of a page fault (R357). -/
def PageKind.code : PageKind → Nat | .notPresent => 1 | .permission => 2 | .format => 3 | .hostDenied => 4 | .asid => 5
/-- The code of an illegal-instruction kind (R385). -/
def illegalCode : Illegal → Nat | .unassigned => 1 | .featureAbsent => 2 | .reserved => 3
/-- The code of a tile-operand kind (R385). -/
def tileFaultCode : TileFault → Nat | .format => 1 | .shape => 2 | .mix => 3 | .part => 4
/-- A trap with neither EVA nor EROW. -/
def plainTrap (cause kind : Nat) : Trap := { cause := cause, kind := kind, code := 0, va := 0, row := 0 }
/-- The alignment fault at an address. -/
def alignTrap (va : Word) (row : Nat) : Trap := { cause := 6, kind := 0, code := 0, va := va, row := row }
/-- A page fault at an address. -/
def pageTrap (k : PageKind) (va : Word) (row : Nat) : Trap := { cause := 7, kind := k.code, code := 0, va := va, row := row }
/-- An access fault at an address. -/
def accessTrap (k : AccessKind) (va : Word) (row : Nat) : Trap := { cause := 8, kind := k.code, code := 0, va := va, row := row }
/-- A late fault at an address (R231, R393). -/
def lateTrap (f : LateFault) (va : Word) (row : Nat) : Trap :=
  match f with
  | .access k => accessTrap k va row
  | .memory => { cause := 0x11, kind := 2, code := 0, va := va, row := row }
/-- The privilege fault (R346). -/
def levelTrap : Trap := plainTrap 4 1
/-- A tile-operand fault (R104). -/
def tileTrap (f : TileFault) : Trap := plainTrap 9 (tileFaultCode f)
/-- A progress fault (R318): 1 NO-LAUNCH, 2 ENTRY, 3 GROUP, 4 STATE, 5 LENGTH. -/
def progressTrap (kind : Nat) : Trap := plainTrap 0x0B kind
/-- A lock fault (R385): 1 LOCK-LIMIT, 2 DUPLICATE, 3 NOT-HELD. -/
def lockTrap (kind : Nat) : Trap := plainTrap 0x0C kind

/-- What a part of an instruction answers: a value with the state it leaves, a wait (the bundle is tried again), or a trap. -/
inductive Ans (α : Type) where
  | ok (s : State) (v : α)
  | wait (s : State)
  | trap (s : State) (t : Trap)
/-- Go on with a value. -/
def Ans.bind {α β : Type} (x : Ans α) (f : State → α → Ans β) : Ans β :=
  match x with
  | .ok s v => f s v
  | .wait s => .wait s
  | .trap s t => .trap s t

/-! ### The card's shape -/

/-- Fold16 of R157 over a line number (PA[47:7]). -/
def fold16 (line : Nat) : Nat := (line % 65536) ^^^ (line / 65536 % 65536) ^^^ (line / 4294967296 % 512)
/-- The stack of an HBM offset (R156). -/
def stackOf (pa : Nat) : Nat := pa % 2 ^ 38 / 0xC00000000
/-- A paddock is active while its CMASK is nonzero (R367). -/
def Paddock.active (p : Paddock) : Bool := p.cmask != 0
/-- The number of the paddock set, cut to the card's seven. -/
def padIx (n : Nat) : Fin 7 := Fin.ofNat 7 n
/-- Set n of the card. -/
def State.pad (s : State) (n : Nat) : Paddock := s.pads[padIx n]
/-- A set changed. -/
def State.onPad (s : State) (n : Nat) (f : Paddock → Paddock) : State :=
  { s with pads := s.pads.set (padIx n) (f s.pads[padIx n]) }
/-- The cells of a mask in ascending number (R157). -/
def cellsOf (mask : BitVec 192) : List Nat := (List.range 192).filter fun k => mask.getLsbD k
/-- The active set whose stacks hold an HBM address (R157, R158). -/
def State.owner (s : State) (pa : Nat) : Option Paddock :=
  s.pads.toList.find? fun p => p.active && p.stackMask.getLsbD (stackOf pa)
/-- N of R157 from NCODE (R370). -/
def nOfCode (c : Nat) : Nat := if c == 0 then 48 else if c == 1 then 96 else 192
/-- The row of R367 of set n: CMASK, NCODE and STACKS. -/
def setRow : Nat → BitVec 192 × Nat × BitVec 4
  | 0 => (0xff00ff00ff00ff00ff00ff, 0, 1)
  | 1 => (0xff00ff00ff00ff00ff00ff000000000000000000000000, 0, 2)
  | 2 => (0xff00ff00ff00ff00ff00ff00, 0, 4)
  | 3 => (0xff00ff00ff00ff00ff00ff00000000000000000000000000, 0, 8)
  | 4 => (0xff00ff00ff00ff00ff00ff00ff00ff00ff00ff00ff00ff, 1, 3)
  | 5 => (0xff00ff00ff00ff00ff00ff00ff00ff00ff00ff00ff00ff00, 1, 12)
  | _ => (0xffffffffffffffffffffffffffffffffffffffffffffffff, 2, 15)
/-- CMASK, NCODE and STACKS agree with one row of R367 (R370). -/
def Paddock.agrees (p : Paddock) : Bool := (List.range 7).any fun n => setRow n == (p.cmask, p.ncode, p.stackMask)
/-- The cell of the slice that a hash chooses from a set's list of N slices; where the registers disagree the homing is not defined, and the cell
is free (R370, log entry 20). -/
def sliceAt (p : Paddock) (h : Nat) : Nat :=
  if p.agrees then (cellsOf p.cmask).getD (h % nOfCode p.ncode) 0 else Config.badHome h % 192
/-- The home slice of an HBM line: a cell number of this card (R157). With no owner, the line is homed as by set 6. -/
def State.homeOf (s : State) (line : Nat) : Nat :=
  match s.owner (line * 128) with
  | some p => sliceAt p (fold16 line)
  | none => fold16 line % 192
/-- The card bit of a cell's core number, and the number itself. -/
def State.coreNo (s : State) (cell : Nat) : Nat := s.link.card * 256 + cell
/-- The lock timeout and other registers of the paddock of a core. -/
def State.padOf (s : State) (k : Nat) : Nat := (s.core k).paddock

/-- The kinds of memory of R155. -/
inductive Place where
  | localHbm
  | scratch (cell : Nat)
  | control (cell off : Nat)
  | peerHbm
  | peerScratch
  | peerControl
  | host
  deriving DecidableEq, Repr

/-- The kind of memory at a physical address, or PHYS-HOLE (R26 to R30, R155). -/
def State.placeOf (s : State) (pa : Nat) : Except AccessKind Place :=
  let mine := pa / 2 ^ 47 % 2 == s.link.card
  let off := pa % 2 ^ 45
  match pa / 2 ^ 45 % 4 with
  | 0 => if off < 0x3000000000 then .ok (if mine then .localHbm else .peerHbm) else .error .physHole
  | 1 =>
    let cell := off / 2 ^ 20
    let o := off % 2 ^ 20
    if 192 ≤ cell then .error .physHole
    else if o < 0x60000 then .ok (if mine then .scratch cell else .peerScratch)
    else if 0xF0000 ≤ o then .ok (if mine then .control cell o else .peerControl)
    else .error .physHole
  | 2 => if mine then .ok .host else .error .linkWindow
  | _ => .error .physHole

/-- The physical address of a byte of a cell's window (R28). -/
def State.cellPa (s : State) (cell off : Nat) : Nat := s.link.card * 2 ^ 47 + 2 ^ 45 + cell * 2 ^ 20 + off

/-! ### Launches -/

/-- The launch of a number. -/
def State.launchOf (s : State) (id : Nat) : Option Launch := s.launches.find? (·.id == id)
/-- A launch changed. -/
def State.onLaunch (s : State) (id : Nat) (f : Launch → Launch) : State :=
  { s with launches := s.launches.map fun l => if l.id == id then f l else l }
/-- The launch a core's stream belongs to. -/
def State.launchOfCore (s : State) (k : Nat) : Option Launch := (s.core k).launch.bind s.launchOf
/-- The debug registers once the bundle in hand is behind: the halt that a resumption skips (R413), and what the bundle was dispatched under (R411). -/
def Debug.next (d : Debug) : Debug := { d with skip := false, armed := none }
/-- An all-reduce of a core's stream: its stream is what a relocation keeps (R280). -/
def Ared.of (a : Ared) (c : Core) : Bool :=
  match c.launch with | some l => l == a.launch && c.rx == a.rx && c.ry == a.ry | none => a.launch == 0 && a.core == c.id
/-- Fields of a launch record (R266). -/
def recField (r : LaunchRec) (lo n : Nat) : Nat := getBits r.toNat lo n
/-- The width of a launch. -/
def Launch.width (l : Launch) : Nat := recField l.record 188 4 + 1
/-- The height of a launch. -/
def Launch.height (l : Launch) : Nat := recField l.record 184 4 + 1
/-- The priority of a record: 0 is the most urgent. -/
def recPri (r : LaunchRec) : Nat := recField r 182 2
/-- A VA field sign-extended from bit 47 (R266). -/
def sext48 (v : Nat) : Word := (BitVec.ofNat 48 v).signExtend 64
/-- The stream of a launch at a launch-relative cell. -/
def Launch.stream (l : Launch) (rx ry : Nat) : Option Stream := l.streams.find? fun t => t.rx == rx && t.ry == ry
/-- A stream of a launch changed. -/
def Launch.onStream (l : Launch) (rx ry : Nat) (f : Stream → Stream) : Launch :=
  { l with streams := l.streams.map fun t => if t.rx == rx && t.ry == ry then f t else t }

/-! ### The error log -/

/-- A record of the error log of set n (R396): KIND, core, detail and PA; GAP is a free duration. -/
def State.logError (s : State) (n kind core detail pa : Nat) : State :=
  let p := s.pad n
  let w0 : Word := BitVec.ofNat 64 (kind * 2 ^ 60 + core % 512 * 2 ^ 48 + detail % 65536)
  let s := s.onPad n fun p =>
    { p with errCount := p.errCount + 1, errHead := (p.errHead + 1) % 16,
             errLog := (p.errHead, w0, BitVec.ofNat 64 pa, (Config.duration s.tick).setWidth 64) :: p.errLog.filter (·.1 != p.errHead) }
  let s := s.tock
  if p.errMsie then { s with out := s.out ++ [.msix (n + 1) p.errVec.toNat] } else s
/-- A record in the log of every active set that a predicate names (R396, R404). -/
def State.logErrorAll (s : State) (which : Paddock → Bool) (kind core detail pa : Nat) : State :=
  (List.range 7).foldl (fun s n =>
    if (s.pad n).active && which (s.pad n) then s.logError n kind core detail pa else s) s

/-- The active set that holds a cell. -/
def setOf (s : State) (cell : Nat) : Option Paddock := s.pads.toList.find? fun p => p.active && p.cmask.getLsbD cell
/-- A record of an event of no paddock's cell: in set 6's log if it is active, else in that of every active set of the die (R396). -/
def State.logOutside (s : State) (die kind core detail pa : Nat) : State :=
  if (s.pad 6).active then s.logError 6 kind core detail pa
  else s.logErrorAll (fun p => (cellsOf p.cmask).any fun c => dieOf c == die) kind core detail pa
/-- A record in the log of the set of a cell, or where it lies in none (R396). -/
def State.logAt (s : State) (cell kind core detail pa : Nat) : State :=
  match setOf s cell with
  | some p => s.logError p.num kind core detail pa
  | none => s.logOutside (dieOf cell) kind core detail pa
/-- A record of an event of a core or a yard controller, in the log of the set of its cell (R396). -/
def State.logCore (s : State) (k kind detail pa : Nat) : State :=
  if 512 ≤ k then s.logOutside (dieOf k) kind k detail pa else s.logAt (k % 256) kind k detail pa

/-! ### Features -/

/-- The accepted set of the die a core stands on (R436, R437). -/
def State.dieFeatures (s : State) (die : Nat) : BitVec 8 := s.boot.dies[Fin.ofNat 2 die]
/-- Whether a feature is present on a core: accepted on its die, and never MATRIX on a yard controller (R52). -/
def State.present (s : State) (k : Nat) (f : Feature) : Bool :=
  (s.dieFeatures (dieOf k)).getLsbD f.bit && !(f == .matrix && 512 ≤ k)
/-- HOSTATOMIC and SVM concern the whole card (R437). -/
def State.cardFeature (s : State) (bit : Nat) : Bool := (s.dieFeatures 0).getLsbD bit

end Sys2Proof.Machine
end

