-- ==== Sys2Proof/Machine/Trc.lean ====
section
/-! DEFINITION. The trace encoder (19 R419, R420): packets enter a 256-byte buffer, whole or not at all. -/
namespace Sys2Proof.Machine

/-- The bytes of a value, little-endian. -/
def bytesOf (v : Nat) : Nat → List Byte
  | 0 => []
  | n + 1 => BitVec.ofNat 8 v :: bytesOf (v / 256) n
/-- A bit of TRCCTL. -/
def Core.trcBit (c : Core) (i : Nat) : Bool := c.trc.ctl.getLsbD i
/-- Packets are generated: EN is set and a stop-mode sink is not full. -/
def Core.tracing (c : Core) : Bool := c.trcBit 0 && !c.trcBit 5
/-- A packet put into the buffer, or dropped and counted where it finds no room. -/
def Core.raw (c : Core) (bs : List Byte) : Core :=
  if c.trc.buf.length + bs.length ≤ 256 then { c with trc := { c.trc with buf := c.trc.buf ++ bs } }
  else { c with trc := { c.trc with dropped := c.trc.dropped + 1 } }
/-- A packet, with the TIME packet that goes with it if TIME is set: its duration is free (log entry 7). -/
def Core.timed (c : Core) (tick : Nat) (bs : List Byte) : Core :=
  (if c.trcBit 2 then c.raw (0x30 :: bytesOf (Config.duration tick).toNat 4) else c).raw bs
/-- The OVERFLOW packet of what was dropped, once there is room for it (R419). -/
def Core.putOverflow (c : Core) (tick : Nat) : Core :=
  if c.trc.dropped == 0 || 256 < c.trc.buf.length + (if c.trcBit 2 then 8 else 3) then c
  else { c with trc := ({ c with trc := { c.trc with dropped := 0 } }.timed tick (0x70 :: bytesOf (min c.trc.dropped 0xFFFF) 2)).trc }
/-- A packet other than BRANCH, after the count of what was dropped before it. -/
def Core.putPacket (c : Core) (tick : Nat) (bs : List Byte) : Core := (c.putOverflow tick).timed (tick + 1) bs
/-- The BRANCH packet of held outcomes, oldest first. -/
def branchPacket (os : List Bool) : Byte :=
  BitVec.ofNat 8 (128 + 2 ^ os.length + (os.zipIdx.foldl (fun n p => n + p.1.toNat * 2 ^ p.2) 0))
/-- Held branch outcomes sent (before any other packet, R420). -/
def Core.flushBranches (c : Core) (tick : Nat) : Core :=
  if c.trc.outcomes.isEmpty then c
  else { c with trc := { ((c.putOverflow tick).raw [branchPacket c.trc.outcomes]).trc with outcomes := [] } }
/-- A sync ADDR packet is due: the first, and one for every 4,096 bytes of the sink. -/
def Core.syncPacket (c : Core) (tick : Nat) : Core :=
  if c.trc.sync == 0 then { c with trc := { (c.putPacket tick (0x15 :: bytesOf (c.pc.toNat % 2 ^ 48) 6)).trc with sync := 4096 } } else c
/-- A packet of core k emitted at retirement: held outcomes first, then a sync packet that is due. -/
def State.emit (s : State) (k : Nat) (bs : List Byte) : State :=
  let c := s.core k
  if c.tracing then { (s.setCore (((c.flushBranches s.tick).syncPacket (s.tick + 1)).putPacket (s.tick + 3) bs)) with tick := s.tick + 5 } else s
/-- The RETIRE packet that goes before each TRAP, MARK and halt. -/
def State.emitRetire (s : State) (k : Nat) : State :=
  let c := s.core k
  if c.tracing then
    (s.emit k (0x20 :: bytesOf (min c.trc.since 0xFFFFFFFF) 4)).onCore k fun c => { c with trc := { c.trc with since := 0 } }
  else s
/-- An ADDR packet with its reason. -/
def State.emitAddr (s : State) (k reason : Nat) (va : Word) : State :=
  s.emit k (BitVec.ofNat 8 (0x10 + reason) :: bytesOf (va.toNat % 2 ^ 48) 6)
/-- A conditional branch's outcome recorded, and sent once six are held (R420). A sync packet that is due goes before the first of them. -/
def State.emitBranch (s : State) (k : Nat) (taken : Bool) : State :=
  let c := s.core k
  if c.tracing && c.trcBit 3 then
    let c := if c.trc.outcomes.isEmpty then c.syncPacket s.tick else c
    let c := { c with trc := { c.trc with outcomes := c.trc.outcomes ++ [taken] } }
    { (s.setCore (if 6 ≤ c.trc.outcomes.length then c.flushBranches (s.tick + 2) else c)) with tick := s.tick + 3 }
  else s

/-! ### The sink (R419) -/

/-- The agent number of core k's trace encoder. -/
def traceAgent (k : Nat) : Nat := 1088 + k
/-- The core whose trace encoder an agent is. -/
def tracedCore (a : Nat) : Option Nat := if 1088 ≤ a && a < 1088 + 514 then some (a - 1088) else none
/-- Bytes of the sink that the next write may take: within its line, and before the sink's end. -/
def sinkRoom (c : Core) : Nat :=
  let len := c.trc.len.toNat
  let pa := c.trc.base.toNat + c.trc.head
  min c.trc.buf.length (min (len - c.trc.head) (128 - pa % 128))
/-- A core's trace encoder has drained: nothing is held, or nothing of it can leave any more. -/
def Core.drained (c : Core) : Bool := c.trc.buf.isEmpty || sinkRoom c == 0
/-- The sink write on its way has performed: the head passes its bytes; a ring wraps, a stop-mode sink becomes full. -/
def Trace.advance (t : Trace) : Trace :=
  if t.sent == 0 then t
  else
    let head := t.head + t.sent
    let wrap := t.ctl.getLsbD 1
    let full := head == t.len.toNat
    { t with
      head := if full && wrap then 0 else head, buf := if full && !wrap then [] else t.buf.drop t.sent, sync := t.sync - t.sent, sent := 0,
      ctl := if full && !wrap then t.ctl ||| 32 else t.ctl }
/-- A sink write of core k has performed. -/
def State.traceDone (s : State) (k : Nat) : State := s.onCore k fun c => { c with trc := c.trc.advance }
/-- A sink write that faults: EN is cleared, and the error log takes a POSTED record. -/
def State.sinkFault (s : State) (k pa : Nat) : State :=
  let s := s.onCore k fun c => { c with trc := { c.trc with ctl := c.trc.ctl &&& ~~~1, buf := [], sent := 0 } }
  let n := (s.core k).paddock
  if n < 7 then s.logError n 9 k 0 pa else s

end Sys2Proof.Machine
end

