-- ==== Sys2Proof/Machine/Brand.lean ====
section
/-! DEFINITION. Brands (09 R221 to R227): positions, insertion, the carry, branded release and the brand test. -/
namespace Sys2Proof.Machine

/-- The three multipliers of R222. -/
def brandMul (k : Nat) : Nat :=
  if k == 0 then 0xC3A59E174B6D2F81 else if k == 1 then 0x8F1D63B2E4C907A5 else 0xB5E24A931C7FD86B
/-- BrandPos of R222, for a line number PA[47:7]. -/
def brandPos (line k : Nat) : Nat := line * brandMul k % 2 ^ 64 / 2 ^ 22 % 960
/-- The number of one bits among the low n bits. -/
def popCount : Nat → Nat → Nat
  | 0, _ => 0
  | n + 1, v => v % 2 + popCount n (v / 2)
/-- The full brand. -/
def fullBrand : BitVec 960 := BitVec.allOnes 960
/-- R222: a brand with more than 480 bits set is full. -/
def saturate (b : BitVec 960) : BitVec 960 := if 480 < popCount 960 b.toNat then fullBrand else b
/-- The three bits of a line. -/
def brandBits (line : Nat) : BitVec 960 :=
  BitVec.ofNat 960 (2 ^ brandPos line 0 ||| 2 ^ brandPos line 1 ||| 2 ^ brandPos line 2)
/-- BrandInsert of R222. -/
def brandInsert (b : BitVec 960) (line : Nat) : BitVec 960 := saturate (b ||| brandBits line)
/-- A line hits a brand at all three positions (R226). -/
def brandHits (b : BitVec 960) (line : Nat) : Bool := b &&& brandBits line == brandBits line
/-- The brand of a list of destination lines: full beyond 32 (R222, R252). -/
def brandOfLines (ls : List Nat) : BitVec 960 := if 32 < ls.length then fullBrand else ls.foldl brandInsert 0
/-- A list of lines inserted into a core's brand by CPY, CPYF or ARED (R222). -/
def insertCopyLines (b : BitVec 960) (ls : List Nat) : BitVec 960 :=
  if 32 < ls.length then fullBrand else ls.foldl brandInsert b

/-- Whether a physical address is brandable: HBM of either card or host memory (R222). -/
def brandable (pa : Nat) : Bool := pa / 2 ^ 45 % 4 != 1
/-- A write's line inserted into the core's brand if it is brandable (R222). -/
def Core.brandWrite (c : Core) (pa : Nat) : Core :=
  if brandable pa then { c with brand := brandInsert c.brand (pa / 128) } else c

/-- The brand a branded release writes (R224). -/
def Core.writtenBrand (c : Core) : BitVec 960 := c.brand ||| c.carry[0] ||| c.carry[1] ||| c.carry[2] ||| c.carry[3]
/-- What a branded release does to the core: carry[0] takes the brand, and the brand is cleared (R224). -/
def Core.releaseBrand (c : Core) : Core := { c with carry := c.carry.set 0 (c.carry[0] ||| c.brand), brand := 0 }
/-- The carry moves back one frame; the oldest is discarded (R224). -/
def Core.shiftCarry (c : Core) : Core :=
  { c with carry := ((c.carry.set 3 c.carry[2]).set 2 c.carry[1] |>.set 1 c.carry[0]) |>.set 0 0 }

/-- A line in state U. -/
def CLine.isU (l : CLine) : Bool := l.st == .u
/-- The U lines that a brand test invalidates (R226). -/
def hitLines (c : Core) (a : BitVec 960) : List CLine :=
  c.cache.filter fun l => l.isU && (a == fullBrand || brandHits a l.line)
/-- BrandTest of R226. -/
def Core.brandTest (c : Core) (a : BitVec 960) : Core :=
  let n := (hitLines c a).length
  { c with cache := c.cache.filter (fun l => !(l.isU && (a == fullBrand || brandHits a l.line))),
           brLast := n, brFull := a == fullBrand, brTotal := min (c.brTotal + n) 0xFFFFFFFF,
           brand := saturate (c.brand ||| a) }
/-- BRHITS as SYSRD reads it (R227). -/
def Core.brhits (c : Core) : Word := BitVec.ofNat 64 (c.brTotal * 2 ^ 32 + c.brFull.toNat * 2 ^ 16 + c.brLast % 65536)
/-- A plain acquire at .dev or .sys: every U line is invalidated and the brand set full; at .core or .die nothing (R182). -/
def Core.plainAcquire (c : Core) (sc : Scope) : Core :=
  match sc with
  | .core | .die => c
  | .dev | .sys => { c.clean .brand with cache := c.cache.filter (fun l => !l.isU), brand := fullBrand }

end Sys2Proof.Machine
end

