-- ==== Sys2Proof/Machine/Mesh.lean ====
section
/-! DEFINITION. The mesh (01 R10 to R15, 18 R400, R402): what the router ports attach, the routes of both networks, the die-to-die
modules, the pseudo-channels, and which packets a failed link holds. -/
namespace Sys2Proof.Machine

/-! ### Ports and parts (R10, R11, R14) -/

/-- A party of the mesh: a cell, a yard controller, the PCI Express controller, the Sahax Link's port with its engines, a DRAM stack. -/
inductive Node where
  | cell (n : Nat)
  | yard (die : Nat)
  | pcie
  | sahax
  | stack (q : Nat)
  deriving DecidableEq, Repr
/-- The column of a cell. -/
def cellX (n : Nat) : Nat := n % 16
/-- The row of a cell. -/
def cellY (n : Nat) : Nat := n / 16
/-- The quarter of a cell (R11). -/
def quarterOf (n : Nat) : Nat := cellX n / 8 * 2 + cellY n / 6
/-- The router beyond a port: 0 west, 1 east, 2 south, 3 north; none off the mesh (R10). -/
def beyond (cell port : Nat) : Option Nat :=
  if 192 ≤ cell then none
  else match port with
    | 0 => if cellX cell == 0 then none else some (cell - 1)
    | 1 => if cellX cell == 15 then none else some (cell + 1)
    | 2 => if cellY cell == 0 then none else some (cell - 16)
    | 3 => if cellY cell == 11 then none else some (cell + 16)
    | _ => none
/-- The part an off-mesh port attaches (R11, R14); none where it is unconnected. -/
def attachedTo (cell port : Nat) : Option Node :=
  let x := cellX cell
  let y := cellY cell
  if 192 ≤ cell then none
  else match port with
    | 0 => if x == 0 && 4 ≤ y && y < 8 then some .pcie else if x == 0 && y == 3 then some (.yard 0) else none
    | 1 => if x == 15 && 4 ≤ y && y < 8 then some .sahax else if x == 15 && y == 8 then some (.yard 1) else none
    | 2 => if y == 0 then some (.stack (quarterOf cell)) else none
    | 3 => if y == 11 then some (.stack (quarterOf cell)) else none
    | _ => none
/-- A connected port: a mesh link or an attachment. Routing uses no other (R14). -/
def isPort (cell port : Nat) : Bool := (beyond cell port).isSome || (attachedTo cell port).isSome

/-- The pseudo-channel of an HBM line within its stack (R156). -/
def channelOf (line : Nat) : Nat := fold16 line % 192
/-- The edge router that serves a pseudo-channel of a stack: eight routers of 24 channels each, from the quarter's lowest x (R11). -/
def stackRouter (q channel : Nat) : Nat := (if q % 2 == 0 then 0 else 11) * 16 + q / 2 * 8 + channel / 24
/-- The port by which an edge router reaches its stack (R11). -/
def stackPort (q : Nat) : Nat := if q % 2 == 0 then 2 else 3

/-! ### Routes (R12, R13) -/

/-- The next port of the ordered network: along x to the destination column, then along y (R12); none on arrival. -/
def nextXY (at_ dst : Nat) : Option Nat :=
  if cellX at_ < cellX dst then some 1 else if cellX dst < cellX at_ then some 0
  else if cellY at_ < cellY dst then some 3 else if cellY dst < cellY at_ then some 2 else none
/-- The (router, port) links of the ordered network's route. A route has at most 26 hops. -/
def routeXY : Nat → Nat → Nat → List (Nat × Nat)
  | 0, _, _ => []
  | fuel + 1, at_, dst => match nextXY at_ dst with
    | none => []
    | some p => match beyond at_ p with
      | none => []
      | some n => (at_, p) :: routeXY fuel n dst
/-- The links of a route between two routers. -/
def routeLinks (src dst : Nat) : List (Nat × Nat) := routeXY 26 src dst
/-- The productive ports that the odd-even turn model permits a packet of the data network (R13): no turn from east to north or south
in an even column, none from north or south to west in an odd one (log entry 61). -/
def oddEvenPorts (src at_ dst : Nat) : List Nat :=
  let ns := if cellY at_ < cellY dst then [3] else if cellY dst < cellY at_ then [2] else []
  if cellX at_ == cellX dst then ns
  else if cellX at_ < cellX dst then
    if ns.isEmpty then [1]
    else (if cellX dst % 2 == 1 || cellX dst - cellX at_ != 1 then [1] else []) ++ (if cellX at_ % 2 == 1 || cellX at_ == cellX src then ns else [])
  else 0 :: (if cellX at_ % 2 == 0 then ns else [])
/-- The port with the most free slots downstream among those permitted; a tie goes to the port along x (R13). -/
def adaptivePort (free : Nat → Nat) (ports : List Nat) : Option Nat :=
  ports.foldl (fun best p => match best with
    | none => some p
    | some b => if free b < free p || (free b == free p && p < 2 && 2 ≤ b) then some p else best) none
/-- The next port of the data network: adaptive among the permitted ports that have not failed (R400), or on the escape channel x-first to the
destination (R13). -/
def nextData (escape : Bool) (free : Nat → Nat) (up : Nat → Bool) (src at_ dst : Nat) : Option Nat :=
  if escape then nextXY at_ dst else adaptivePort free ((oddEvenPorts src at_ dst).filter up)

/-! ### The die crossing (R15, R402) -/

/-- The three modules of a row. -/
def rowModules (row : Nat) : List Nat := [3 * row, 3 * row + 1, 3 * row + 2]
/-- A module carries traffic: it has not been disabled, and does not retrain. -/
def State.moduleUp (s : State) (m : Nat) : Bool := s.ucie[Fin.ofNat 36 m] == .full || s.ucie[Fin.ofNat 36 m] == .half
/-- The module on which a row's ordered link crosses: the middle one until it is disabled, then the lowest live one (R15, R402). -/
def State.orderedModule (s : State) (row : Nat) : Option Nat :=
  if s.ucie[Fin.ofNat 36 (3 * row + 1)] != .disabled then some (3 * row + 1)
  else (rowModules row).find? fun m => s.ucie[Fin.ofNat 36 m] != .disabled
/-- The module on which a data packet for an address crosses: striped by destination line over the row's modules that are up (R15, R402;
the stripe's unit is the line, log entry 61). -/
def State.dataModule (s : State) (row line : Nat) : Option Nat :=
  let up := (rowModules row).filter s.moduleUp
  up[line % up.length]?
/-- The row by which a row's crossings go: its own, or the nearest with a live module (R402); of two equally near, the lower (DESIGN CHOICE, log entry
88). -/
def State.crossingRow (s : State) (row : Nat) : Option Nat :=
  ((List.range 12).flatMap fun n => if n ≤ row then [row - n, row + n] else [row + n]).find? fun r =>
    r < 12 && (s.orderedModule r).isSome

/-! ### Failed links (R400, R402) -/

/-- A link's record, as it stands. -/
def State.linkAt (s : State) (cell port : Nat) : MeshLink :=
  match s.mesh.find? fun l => l.cell == cell && l.port == port with
  | some l => l
  | none => { cell := cell, port := port, replays := 0, failed := false, detour := false }
/-- A packet of the ordered network between two routers is held: its route uses a failed link whose detour is not yet computed, or
crosses the dies on a module that retrains (R400, R402). -/
def State.routeHeld (s : State) (src dst : Nat) : Bool :=
  (!s.mesh.isEmpty && (routeLinks src dst).any fun l => (s.linkAt l.1 l.2).failed && !(s.linkAt l.1 l.2).detour)
    || (dieOf src != dieOf dst && match s.crossingRow (cellY src) with
      | none => true
      | some row => match s.orderedModule row with
        | some m => s.ucie[Fin.ofNat 36 m] == .retraining
        | none => true)
/-- A packet of the data network that stands at a router cannot reach its destination: every productive port has failed with no detour computed yet
(R400), or no module of the row it crosses the dies in carries its stripe (R15, R402). The fuel is the hops left. Router buffers are not held, so
that ports tie (log entry 61). -/
def State.dataBlocked (s : State) (line src dst : Nat) : Nat → Nat → Bool
  | 0, _ => false
  | fuel + 1, at_ =>
    let ports := oddEvenPorts src at_ dst
    let on (p : Nat) : Bool := match beyond at_ p with
      | none => false
      | some n =>
        (dieOf at_ != dieOf n && match s.crossingRow (cellY at_) with
          | some row => (s.dataModule row line).isNone
          | none => true)
        || s.dataBlocked line src dst fuel n
    match nextData false (fun _ => 0) (fun p => !(s.linkAt at_ p).failed) src at_ dst with
    | some p => on p
    | none => match ports.find? fun p => (s.linkAt at_ p).detour with
      | some p => on p
      | none => !ports.isEmpty
/-- The same from a packet's source; with no failed link and no crossing nothing is in its way. -/
def State.dataHeld (s : State) (line src dst : Nat) : Bool :=
  (!s.mesh.isEmpty || dieOf src != dieOf dst) && s.dataBlocked line src dst 26 src
/-- A line of local HBM whose router has lost its link to the stack: it is handled as poisoned (R400). -/
def State.stackCut (s : State) (line : Nat) : Bool :=
  !s.mesh.isEmpty && (let q := stackOf (line * 128); (s.linkAt (stackRouter q (channelOf line)) (stackPort q)).failed)

/-! ### Parties of a packet -/

/-- The party a core number stands for: a core's cell, a yard controller, the host, the peer; none for the card's own engines, whose
traffic the data network carries. -/
def nodeOf (k : Nat) : Option Node :=
  if k < 512 then some (.cell (k % 256)) else if k < 514 then some (.yard (k - 512)) else if k == 1024 then some .pcie
  else if k == 1025 then some .sahax else none
/-- The host port that serialises a host line: a slice of cells 0:0.4 to 0:0.7 (R170). -/
def hostPort (line : Nat) : Nat := (4 + fold16 line % 4) * 16
/-- The router at which a party joins the mesh; a line chooses among the four of the PCI Express controller and of the Sahax port. -/
def Node.router (line : Nat) : Node → Nat
  | .cell n => n
  | .yard d => if d == 0 then 3 * 16 else 8 * 16 + 15
  | .pcie => hostPort line
  | .sahax => hostPort line + 15
  | .stack q => stackRouter q (channelOf line)

end Sys2Proof.Machine
end

