-- ==== Sys2Proof/Machine/Replay.lean ====
section
/-! DEFINITION. Record and replay (19 R421 to R423): the logged points and their segments. -/
namespace Sys2Proof.Machine

/-- A packet as it is sent, at a place in the order of sending. -/
def flightOf (seq : Nat) (p : Pkt) : InFlight := { pkt := p, promoted := false, escape := false, stage := .transit, seq := seq, ages := [] }
/-- A packet sent. -/
def State.post (s : State) (p : Pkt) : State := { s with net := s.net ++ [flightOf s.stamp p], stamp := s.stamp + 1 }
/-- Packets sent in order. -/
def State.postAll (s : State) (ps : List Pkt) : State := ps.foldl State.post s

/-- WHO of an entry (R422). -/
def whoCode (core : Nat) : Nat := if 512 ≤ core then 0x1FF else core
/-- The bytes of one segment: S of R421. -/
def Paddock.segBytes (p : Paddock) : Nat :=
  let n := (cellsOf p.cmask).length
  p.rrLen.toNat % 2 ^ 40 / (128 * (2 * n + 1)) * 128
/-- The address of an entry of a segment. -/
def Paddock.segEntry (p : Paddock) (seg i : Nat) : Nat := p.rrBase.toNat / 4096 % 2 ^ 36 * 4096 + seg * p.segBytes + 16 * i
/-- A segment as it stands. -/
def Paddock.segOf (p : Paddock) (seg : Nat) : RRSeg :=
  match p.rrSegs.find? (·.seg == seg) with
  | some r => r
  | none => { seg := seg, idx := 0, w0 := 0, x := 0, run := 0, free := false }
/-- A segment changed. -/
def Paddock.setSeg (p : Paddock) (r : RRSeg) : Paddock := { p with rrSegs := r :: p.rrSegs.filter (·.seg != r.seg) }
/-- An entry written to the log area, at its home (R422). -/
def State.writeEntry (s : State) (p : Paddock) (seg i w0 w1 : Nat) : State :=
  let pa := p.segEntry seg i
  s.post (.req { core := 1026, line := pa / 128, req := .write pa 16 (w0 + w1 * 2 ^ 64) false false })
/-- An entry of RUN events appended to a segment while it has room; without room the point stops logging, with an END entry (R422). -/
def State.appendEntry (s : State) (n seg w0 x run : Nat) : State :=
  let p := s.pad n
  let r := p.segOf seg
  if r.free then s
  else if p.segBytes < 16 * (r.idx + 2) then
    let s := s.onPad n fun p => { p.setSeg { r with free := true } with rrOver := true }
    if 16 * (r.idx + 1) ≤ p.segBytes then s.writeEntry p seg r.idx 0 0 else s
  else
    (s.onPad n fun p => { p.setSeg { r with idx := r.idx + 1, w0 := w0, x := x, run := run } with rrCount := p.rrCount + 1 }).writeEntry p seg
      r.idx w0 (x * 2 ^ 32 + run)
/-- Word 0 of an entry of a log, and word 1. -/
def State.entryAt (s : State) (p : Paddock) (seg i : Nat) : Nat × Nat := (s.mem.readN (p.segEntry seg i) 8, s.mem.readN (p.segEntry seg i + 8) 8)
/-- The log of a segment ends at an entry (R423). -/
def logEnds (s : State) (p : Paddock) (seg i : Nat) : Bool := p.segBytes < 16 * (i + 1) || (s.entryAt p seg i).1 / 2 ^ 60 == 0
/-- A point whose log has ended serves freely (R423). -/
def State.diverge (s : State) (n seg : Nat) : State := s.onPad n fun p => { p.setSeg { p.segOf seg with free := true } with rrDiverged := true }
/-- One event at a logged point of set n (R421 to R423): recorded, or in replay let pass only in its turn; none while it waits. -/
def State.logPoint (s : State) (n seg w0 x : Nat) : Option State :=
  let p := s.pad n
  let r := p.segOf seg
  if p.rrMode == 1 then
    if !r.free && r.run != 0 && r.w0 == w0 && r.x == x && r.run < 2 ^ 32 - 1 then
      some ((s.onPad n (·.setSeg { r with run := r.run + 1 })).writeEntry p seg (r.idx - 1) w0 (x * 2 ^ 32 + r.run + 1))
    else some (s.appendEntry n seg w0 x 1)
  else if p.rrMode == 2 then
    if r.free then some s
    else
      let e := s.entryAt p seg r.idx
      if logEnds s p seg r.idx then some (s.diverge n seg)
      else if e.1 == w0 && e.2 / 2 ^ 32 == x then
        if e.2 % 2 ^ 32 ≤ r.run + 1 then
          some (s.onPad n fun p => { p.setSeg { r with idx := r.idx + 1, run := 0 } with rrCount := p.rrCount + 1 })
        else some (s.onPad n (·.setSeg { r with run := r.run + 1 }))
      else none
  else some s
/-- The index of a cell in its set's slice list (R157). -/
def cellIndex (p : Paddock) (cell : Nat) : Nat := (cellsOf p.cmask).idxOf cell
/-- A slice's logged event on a line: KIND, WHO and SUB (R422). -/
def State.logSlice (s : State) (home line kind core sub : Nat) : Option State :=
  match s.owner (line * 128) with
  | none => some s
  | some p =>
    if p.rrMode == 0 then some s
    else s.logPoint p.num (cellIndex p home) (kind * 2 ^ 60 + whoCode core * 2 ^ 51 + sub * 2 ^ 48 + line % 2 ^ 41 * 2 ^ 7) 0
/-- Word 0 of a COMBINE entry (R422). -/
def combineWord (line core : Nat) : Nat := 4 * 2 ^ 60 + whoCode core * 2 ^ 51 + line % 2 ^ 41 * 2 ^ 7
/-- The COMBINE entries of one recall of a line from entry i on, as gatherers with their counts: a recall logs its gatherers in ascending core
number (R219, log entry 78). -/
def combineGroup (s : State) (p : Paddock) (seg line : Nat) : Nat → Nat → Nat → List (Nat × Nat)
  | 0, _, _ => []
  | fuel + 1, i, lo =>
    let e := s.entryAt p seg i
    let who := e.1 / 2 ^ 51 % 2 ^ 9
    if !logEnds s p seg i && e.1 == combineWord line who && decide (lo ≤ who) then (who, e.2 % 2 ^ 32) :: combineGroup s p seg line fuel (i + 1) (who + 1)
    else []
/-- The next recall of a line that a log holds from entry i on, if any. -/
def nextGroup (s : State) (p : Paddock) (seg line : Nat) : Nat → Nat → Option (List (Nat × Nat))
  | 0, _ => none
  | fuel + 1, i =>
    if logEnds s p seg i then none
    else match combineGroup s p seg line 512 i 0 with
      | [] => nextGroup s p seg line fuel (i + 1)
      | g => some g
/-- How many reductions of a core's copy the next logged recall of a line takes: none where the log holds no such recall (R423). -/
def nextCombine (s : State) (p : Paddock) (seg line core : Nat) : Option Nat :=
  let r := p.segOf seg
  if r.free then none
  else (nextGroup s p seg line (p.segBytes / 16) r.idx).map fun g => match g.find? (·.1 == core) with | some x => x.2 | none => 0
/-- The recall of a gathered line at its logged point: one entry for each gatherer, RUN the reductions in its copy. In replay it waits for its
turn, and until each logged copy holds its logged count (R422, R423). -/
def State.logCombine (s : State) (home line : Nat) (counts : List (Nat × Nat)) : Option State :=
  match s.owner (line * 128) with
  | none => some s
  | some p =>
    let seg := cellIndex p home
    let r := p.segOf seg
    if p.rrMode == 1 then some (counts.foldl (fun (s : State) c => s.appendEntry p.num seg (combineWord line c.1) 0 c.2) s)
    else if p.rrMode == 2 && !r.free then
      if logEnds s p seg r.idx then some (s.diverge p.num seg)
      else
        let g := combineGroup s p seg line 512 r.idx 0
        if !g.isEmpty && g.all (fun x => counts.any fun c => c.1 == x.1 && decide (x.2 ≤ c.2)) && counts.all (fun c => g.any (·.1 == c.1)) then
          some (s.onPad p.num fun p => { p.setSeg { r with idx := r.idx + g.length, run := 0 } with rrCount := p.rrCount + BitVec.ofNat 32 g.length })
        else none
    else some s
/-- An arrival at the NI of core k: a message to a slot, or a task (R422). -/
def State.logArrival (s : State) (k sender slot : Nat) (task : Bool) : Option State :=
  let n := (s.core k).paddock
  if 7 ≤ n || (s.pad n).rrMode == 0 then some s
  else
    let p := s.pad n
    s.logPoint n ((cellsOf p.cmask).length + cellIndex p (k % 256))
      (5 * 2 ^ 60 + whoCode sender * 2 ^ 51 + task.toNat * 2 ^ 48 + (if task then 0 else slot % 32)) 0
/-- An event of the dispatcher of set n: a placement (KIND 7, X the sequence number) or a taking (KIND 6, X the queue owner's
core number) (R422). -/
def State.logDispatch (s : State) (n kind who x : Nat) : Option State :=
  if 7 ≤ n || (s.pad n).rrMode == 0 then some s
  else
    let p := s.pad n
    s.logPoint n (2 * (cellsOf p.cmask).length) (kind * 2 ^ 60 + whoCode who * 2 ^ 51) x

end Sys2Proof.Machine
end

