-- ==== Sys2Proof/Machine/Coherence.lean ====
section
/-! DEFINITION. Memory traffic (07 R159 to R171, 09 R208 to R220, 10 R234 to R237, R446): what each packet does where it
arrives. `servePkt` serves one packet; `settle` serves all that can be served. -/
namespace Sys2Proof.Machine

/-! ### The private data cache -/

/-- The line of a private cache, if held. -/
def Core.lineOf (c : Core) (line : Nat) : Option CLine := c.cache.find? (·.line == line)
/-- A line of a private cache replaced in place. -/
def Core.mapLine (c : Core) (line : Nat) (f : CLine → CLine) : Core :=
  { c with cache := c.cache.map fun l => if l.line == line then f l else l }
/-- A line of a private cache dropped. -/
def Core.dropLine (c : Core) (line : Nat) : Core := { c with cache := c.cache.filter (·.line != line) }
/-- A load hit: the line becomes the most recent and its count of unread updates 0 (R161, R211). -/
def Core.touchLine (c : Core) (line : Nat) : Core :=
  match c.lineOf line with
  | some l => { c with cache := { l with unread := 0 } :: c.cache.filter (·.line != line) }
  | none => c
/-- A line that replacement may not choose (R161). -/
def CLine.pinned (l : CLine) : Bool := match l.st with | .g _ => true | .k => true | _ => false
/-- The victim an installation in a full set of 4 ways needs: the least recent line that is not pinned (R161). -/
def Core.victim (c : Core) (line : Nat) : Option CLine :=
  (c.cache.filter fun l => l.line % 128 == line % 128 && l.line != line && !l.pinned).getLast?
/-- The G line of the same set that the core has gathered least recently (R220). Each reduction moves its line to the front. -/
def Core.gatherVictim (c : Core) (line : Nat) : Option CLine :=
  (c.cache.filter fun l => l.line % 128 == line % 128 && l.line != line
    && (match l.st with | .g _ => true | _ => false)).getLast?
/-- A reduction into a line's G copy: the copy becomes the most recent line (R218, R220). -/
def Core.gatherInto (c : Core) (line : Nat) (f : BitVec 1024 → BitVec 1024) : Core :=
  match c.lineOf line with
  | some l => { c with cache := { l with data := f l.data, unread := l.unread + 1 } :: c.cache.filter (·.line != line) }
  | none => c
/-- Whether the line's set has a free way (R161). -/
def Core.hasWay (c : Core) (line : Nat) : Bool :=
  (c.cache.filter fun l => l.line % 128 == line % 128 && l.line != line).length < 4

/-! ### Posting and the L2 -/

/-- A line installed in a core's private cache; a T line replaced sends its notice (R212), and with no way to take the line is
not installed (R161). -/
def State.install (s : State) (k : Nat) (l : CLine) : State :=
  let c := (s.core k).dropLine l.line
  if c.hasWay l.line then s.setCore { c with cache := l :: c.cache }
  else match c.victim l.line with
    | none => s.setCore c
    | some v =>
      let s := s.setCore { (c.dropLine v.line) with cache := l :: (c.dropLine v.line).cache }
      if v.st == .t || v.st == .h then s.post (.evict k v.line) else s

/-- The L2 line of a line number. -/
def State.dirOf (s : State) (line : Nat) : Option DirLine := s.dir.find? (·.line == line)
/-- An L2 line changed. -/
def State.onDir (s : State) (line : Nat) (f : DirLine → DirLine) : State :=
  { s with dir := s.dir.map fun d => if d.line == line then f d else d }
/-- A line stands in the same set of the same slice as a line homed there (R159). -/
def DirLine.inSet (home line : Nat) (d : DirLine) : Bool := d.home == home && d.line % 128 == line % 128
/-- The resident lines of the set of a line homed at a slice. -/
def setLines (s : State) (home line : Nat) : List DirLine := s.dir.filter (·.inSet home line)
/-- A resident line becomes the most recent of its set; those that were more recent move down one place (R163, R164). -/
def DirLine.afterUse (u : DirLine) (n : Nat) (d : DirLine) : DirLine :=
  if d.line == u.line then { d with rank := n - 1 }
  else if d.inSet u.home u.line && u.rank < d.rank then { d with rank := d.rank - 1 } else d
/-- A line leaves its slice: those of its set that were more recent move down one place. -/
def State.dropDir (s : State) (v : DirLine) : State :=
  { s with dir := (s.dir.filter (·.line != v.line)).map fun d =>
      if d.inSet v.home v.line && v.rank < d.rank then { d with rank := d.rank - 1 } else d }
/-- A line enters its slice: as the most recent of its set, or with the evict-first hint as the least recent (R164, R168). -/
def State.addDir (s : State) (d : DirLine) (ef : Bool) : State :=
  if ef then { s with dir := (s.dir.map fun e => if e.inSet d.home d.line then { e with rank := e.rank + 1 } else e) ++ [{ d with rank := 0 }] }
  else { s with dir := s.dir ++ [{ d with rank := (setLines s d.home d.line).length }] }
/-- The retention entry whose range holds a line in its paddock (R166). -/
def State.retention (s : State) (line : Nat) : Option (Nat × RetEntry) :=
  match s.owner (line * 128) with
  | none => none
  | some p => p.retained.find? fun e => e.2.base ≤ line / 32 && line / 32 < e.2.limit
/-- A line counts in the quota of an entry: it carries the mark, or was filled with the hint while its range is the entry's (R166,
R168). -/
def DirLine.counts (s : State) (n : Nat) (d : DirLine) : Bool :=
  d.mark == some n || (d.hinted && match s.retention d.line with | some (m, _) => m == n | none => false)
/-- The mark a hit or an unhinted fill of a line earns (R166, R167): its entry, while the quota of the set has room. -/
def State.markFor (s : State) (home line : Nat) : Option Nat :=
  match s.retention line with
  | none => none
  | some (n, e) => if ((setLines s home line).filter fun d => d.line != line && d.counts s n).length < e.ways then some n else none
/-- A hit in the L2: without the evict-first hint it makes the line the most recent (R164, R168), and it may earn its mark. What a hinted
fill brought earns one only at a hit without the hint. -/
def State.hitDir (s : State) (line : Nat) (ef : Bool) : State :=
  match s.dirOf line with
  | none => s
  | some d =>
    let mk := if d.mark.isSome || (ef && d.hinted) then d.mark else s.markFor d.home line
    let n := (setLines s d.home line).length
    { s with dir := s.dir.map fun e =>
        let e := if e.line == line then { e with mark := mk, hinted := e.hinted && ef } else e
        if ef then e else d.afterUse n e }
/-- The lines of a slice's set that replacement may take: in N, with no retention mark (R164). -/
def eligible (s : State) (home line : Nat) : List DirLine := (setLines s home line).filter fun d => d.st == .n && d.mark.isNone
/-- The least recent of a list of lines. -/
def leastRecent : List DirLine → Option DirLine
  | [] => none
  | d :: ds => match leastRecent ds with
    | none => some d
    | some e => if e.rank < d.rank then some e else some d
/-- A fill blocks the set of a line: every later request to a line of the set is parked until it is written (R165). -/
def setBlocked (s : State) (line : Nat) : Bool := s.dir.any fun d => d.st == .w && d.line % 128 == line % 128 && d.home == s.homeOf line
/-- All eight miss registers of a line's bank hold a fill (R165). -/
def missesBusy (s : State) (line : Nat) : Bool :=
  8 ≤ (s.dir.filter fun d => d.st == .w && d.line % 4 == line % 4 && d.home == s.homeOf line).length
/-- A recall of every T copy of a line (R213): a round with no bytes. -/
def State.startRecall (s : State) (d : DirLine) : State :=
  (s.onDir d.line fun d => { d with round := some { waiting := d.sharers, pa := 0, n := 0, v := 0, writer := none } }).postAll
    (d.sharers.map fun k => .recall k d.line)

/-- What serving a packet does: it is used up, it stays though the state moved on, or it cannot move. -/
inductive Served where
  | used (s : State)
  | stays (s : State)
  | blocked
  /-- It stays in its place as another packet. -/
  | becomes (s : State) (p : Pkt)

/-- A line brought into its slice (R164, R165): in W while `lazy`, else its fill written at once. The victim is the least recent eligible
line: a write in flight for it commits first (R173), and its sharers are recalled. -/
def allocate (s : State) (line : Nat) (ef : Bool) : Served :=
  let home := s.homeOf line
  let d : DirLine := { line := line, home := home, st := if s.lazy then .w else .n, sharers := [], round := none, dirty := false,
                       rank := 0, mark := if ef then none else s.markFor home line, hinted := ef }
  if missesBusy s line then .blocked
  else if (setLines s home line).length < 16 then .stays (s.addDir d ef)
  else match leastRecent (eligible s home line) with
    | none => .blocked
    | some v =>
      if v.round.isSome then .blocked
      else if v.sharers.isEmpty then .stays ((s.dropDir v).addDir d ef) else .stays (s.startRecall v)

/-! ### Values at the serialisation point -/

/-- The words of a write that it covers whole lose their poison (R394). -/
def clearPoison (bad : List Nat) (pa n : Nat) : List Nat := bad.filter fun w => !(decide (pa ≤ w * 8) && decide (w * 8 + 8 ≤ pa + n))
/-- The code words of n bytes at pa, with their values, that a stream has not noted yet. -/
def newCode (m : Memory) (pa n : Nat) (known : List (Nat × Nat)) : List (Nat × Nat) :=
  ((List.range ((pa % 4 + n + 3) / 4)).map fun i => pa / 4 * 4 + 4 * i).filterMap fun a =>
    if known.any (·.1 == a) then none else some (a, m.readN a 4)
/-- A store notes the old value of each word it writes at every core that runs a stream, since a fetch may still return it
(R42), whether it runs or stands in a debug halt. Scratchpad words are held in no cache (R31). -/
def Core.noteCode (m : Memory) (pa n : Nat) (c : Core) : Core :=
  if (c.run == .running || c.run == .debugHalted) && pa / 2 ^ 45 % 4 != 1 then { c with code := c.code ++ newCode m pa n c.code } else c
/-- An all-reduce whose buffer, or the peer's, meets n bytes at pa that an agent stores: both buffers are left undefined (R192). The link
engines' own writes are core 1028's; an older store of the core that issued it comes before the operation. -/
def Ared.stored (w : Option Nat) (pa n : Nat) (a : Ared) : Ared :=
  if w == some 1028 || (w == some a.core && a.after.contains (pa / 128)) then a
  else if (a.buf ++ a.peer).any fun r => decide (r.1 < pa + n) && decide (pa < r.1 + r.2) then { a with bad := true } else a
/-- What a write of an agent brings poisoned among the words that its n bytes at pa meet (R394). -/
def bringsPoison (w : Option Nat) (pa n : Nat) (p : Nat × Nat) : Bool :=
  w == some p.1 && decide (p.2 * 8 < pa + n) && decide (pa < p.2 * 8 + 8)
/-- The poisoned words after a write: those it covers whole are clean, unless it brings poison itself (R394). -/
def poisonAfter (s : State) (w : Option Nat) (pa n : Nat) : List Nat :=
  let kept := if s.badWords.isEmpty then [] else clearPoison s.badWords pa n
  match s.poisonDue with
  | [] => kept
  | due => (due.filter (bringsPoison w pa n)).map (·.2) ++ kept
/-- The words an agent's next writes bring poisoned. -/
def State.poisonNext (s : State) (agent : Nat) (words : List Nat) : State := { s with poisonDue := words.map (agent, ·) ++ s.poisonDue }
/-- A store of an agent to n bytes at pa reaches the all-reduces it meets (R192). -/
def State.spoilAreds (s : State) (w : Option Nat) (pa n : Nat) : State := { s with areds := s.areds.map (·.stored w pa n) }
/-- n bytes written into memory at a serialisation point by a writer. -/
def State.placeBy (s : State) (w : Option Nat) (pa n v : Nat) : State :=
  { s with mem := s.mem.writeN pa v n, badWords := poisonAfter s w pa n, poisonDue := s.poisonDue.filter fun p => !bringsPoison w pa n p,
           me := s.me.noteCode s.mem pa n, cores := s.cores.map (·.noteCode s.mem pa n), areds := s.areds.map (·.stored w pa n) }
/-- n bytes written into memory at a serialisation point. -/
def State.place (s : State) (pa n v : Nat) : State := s.placeBy none pa n v
/-- Two's complement comparison for the AMOs and reductions. -/
def signedLt (size a b : Nat) : Bool := signedOf (8 * size) a < signedOf (8 * size) b
/-- FAddLanes of R234. -/
def faddLanes (size m o : Nat) : Nat :=
  if size == 4 then (fp32Add m o).1 else (fp32Add (m % 2 ^ 32) (o % 2 ^ 32)).1 + (fp32Add (m / 2 ^ 32) (o / 2 ^ 32)).1 * 2 ^ 32
/-- The new value of an AMO (R234). -/
def amoValue (op : AmoOp) (size m o cmp : Nat) : Nat :=
  match op with
  | .add => (m + o) % 2 ^ (8 * size)
  | .and => m &&& o
  | .or => m ||| o
  | .xor => m ^^^ o
  | .min => if signedLt size o m then o else m
  | .max => if signedLt size m o then o else m
  | .minu => min m o
  | .maxu => max m o
  | .swp => o
  | .cas => if m == cmp then o else m
  | .fadd => faddLanes size m o

/-- The bytes of an element of a reduction (R218). -/
def GatherKind.size : GatherKind → Nat | .addW => 4 | .addD => 8 | .faddW => 4 | .maxW => 4 | .maxD => 8
/-- The AMO of the same operation (R162). -/
def GatherKind.op : GatherKind → AmoOp | .addW => .add | .addD => .add | .faddW => .fadd | .maxW => .max | .maxD => .max
/-- The identity element of a reduction (R218). -/
def GatherKind.identity : GatherKind → Nat
  | .addW => 0 | .addD => 0 | .faddW => 0x80000000 | .maxW => 0x80000000 | .maxD => 0x8000000000000000
/-- A fresh G copy: the identity in every element (R218). -/
def identityLine (k : GatherKind) : BitVec 1024 :=
  BitVec.ofNat 1024 (packBits (8 * k.size) (List.replicate (128 / k.size) k.identity))
/-- One reduction applied to an element of a line's data. -/
def reduceAt (k : GatherKind) (d : BitVec 1024) (off operand : Nat) : BitVec 1024 :=
  lineSet d off k.size (amoValue k.op k.size (lineGet d off k.size) operand 0)
/-- A gathered copy combined into the home's value, element by element; an element that holds the identity leaves the home's value
exactly as it was (R219). -/
def combineLine (k : GatherKind) (d c : BitVec 1024) : BitVec 1024 :=
  (List.range (128 / k.size)).foldl (fun d i =>
    let x := lineGet c (i * k.size) k.size
    if x == k.identity then d else reduceAt k d (i * k.size) x) d

/-! ### Rounds (R208) -/

/-- CYC[63:12] of the home cell of a line (R223). -/
def State.homeFrame (s : State) (line : Nat) : Nat := (s.core (s.coreNo (s.homeOf line))).cycFrame
/-- A write of a line commits at its home (R223). -/
def State.noteCommit (s : State) (line : Nat) : State :=
  { s with commits := (line, s.homeFrame line) :: s.commits.filter (·.1 != line) }
/-- Whether a moment of a counter's frame `then_` lies within the last 12,288 cycles in frame `now`: yes within two frames, no beyond
three; in between the cycles decide, which are left open. -/
def inWindow3 (free : Bool) (then_ now : Nat) : Bool := if now ≤ then_ + 2 then true else if now == then_ + 3 then free else false
/-- A U copy of a line that is older than the line's value lives, or is on its way: by R216 the window of R223 has then not passed. -/
def staleCopy (s : State) (line : Nat) : Bool :=
  let v := s.mem.line line
  (s.allCores.any fun c => match c.cache.find? (·.line == line) with | some l => l.st == .u && l.data != v | none => false)
  || s.net.any fun f => match f.pkt with | .fill k l d tr _ _ _ e => k < 1024 && l == line && !tr && e.isNone && d != v | _ => false
/-- A value that the home serves is fresh (R223); in the window's last frame it is whenever a stale U copy lives, else the cycles decide. -/
def homeFresh (s : State) (line : Nat) : Bool :=
  match s.commits.find? (·.1 == line) with
  | some (_, f) => inWindow3 (staleCopy s line || Config.fresh s.tick []) f (s.homeFrame line)
  | none => false
/-- The round's commit: the write becomes current, the holder's K copy follows it (R215), the sharers and the writer are told, and an
AMO's reply leaves (log entry 60); a recall leaves no sharer. -/
def State.commitRound (s : State) (d : DirLine) (r : Round) : State :=
  let s := if r.n == 0 then s else (s.placeBy r.writer r.pa r.n r.v).noteCommit d.line
  let s := match d.st with
    | .k (some h) _ _ _ _ =>
      s.onCore h.core fun c => c.mapLine d.line fun l => if l.st == PState.k then { l with data := lineSet l.data (r.pa % 128) r.n r.v } else l
    | _ => s
  let s := s.onDir d.line fun d =>
    { d with round := none, dirty := d.dirty || r.n != 0, sharers := if r.n == 0 then [] else d.sharers }
  let s := if r.n == 0 then s else s.postAll (d.sharers.map fun k => .commit k d.line)
  let s := match r.amo with | some (k, old) => s.post (.amoReply k d.line old none) | none => s
  match r.writer with
  | some w => s.post (.done w d.line)
  | none => s
/-- A write placed in the line's coherence order: a round opens, and with no sharer it commits in the same cycle. -/
def State.openRound (s : State) (d : DirLine) (pa n v : Nat) (writer : Option Nat) (amo : Option (Nat × Nat)) : State :=
  let r : Round := { waiting := d.sharers, pa := pa, n := n, v := v, writer := writer, amo := amo }
  if d.sharers.isEmpty then s.commitRound d r
  else (s.onDir d.line fun d => { d with round := some r }).postAll (d.sharers.map fun k => .update k d.line pa n v)
/-- An acknowledgement reaches the home; the last one commits the round (R208, R211). -/
def State.ackRound (s : State) (k line : Nat) (drop : Bool) : State :=
  let s := s.onDir line fun d =>
    { d with sharers := if drop then d.sharers.filter (· != k) else d.sharers,
             round := d.round.map fun r => { r with waiting := r.waiting.filter (· != k) } }
  match s.dirOf line with
  | some d => match d.round with
    | some r => if r.waiting.isEmpty then s.commitRound d r else s
    | none => s
  | none => s

/-! ### Link windows (R374) -/

/-- Whether an entry of a table permits an access by a paddock number: 0 read, 1 write, 2 AMO. -/
def windowPermits (ws : List Window) (pad pa kind : Nat) : Bool :=
  ws.any fun w => w.v && decide (w.base * 4096 ≤ pa % 2 ^ 47) && decide (pa % 2 ^ 47 < w.limit * 4096)
    && (pad == 7 || w.pmask.getLsbD pad) && (if kind == 0 then w.r else if kind == 1 then w.w else w.a)
/-- The kind of a request for the windows' R, W and A bits. -/
def Req.windowKind : Req → Nat
  | .read .. => 0 | .write .. => 1 | .amo .. => 2 | .gather .. => 2 | .clwb => 0

/-! ### Refusals -/

/-- The answer to a request that is refused with a fault: a load or AMO takes it, a posted write is refused (R446), and a
prefetch is dropped. A reduction performed away from local HBM has retired too: its refusal is a posted write's (DESIGN CHOICE, log
entry 62). -/
def State.refuse (s : State) (r : MReq) (f : LateFault) : State :=
  match r.req with
  | .read acq _ pref _ => if pref then s else s.post (.fill r.core r.line 0 false acq false false (some f))
  | .amo _ _ pa _ _ _ reduce => if reduce then s.post (.refusal r.core pa) else s.post (.amoReply r.core r.line 0 (some f))
  | .write pa .. => s.post (.refusal r.core pa)
  | .gather _ off _ => s.post (.refusal r.core (r.line * 128 + off))
  | .clwb => s.post (.done r.core r.line)

/-! ### At the home slice -/

/-- Whether core k's fill of a line is still on its way (R209). -/
def fillComing (s : State) (k line : Nat) : Bool :=
  s.net.any fun f => match f.pkt with | .fill c l .. => c == k && l == line | _ => false
/-- A core that the home's sharer vector can name: one on the home's die, and no yard controller (R211, R212). -/
def canShare (s : State) (k line : Nat) : Bool := k < 512 && k / 256 == s.link.card && dieOf k == dieOf (s.homeOf line)
/-- The logged point of a request at its slice (R422): AMOs and reductions performed as AMOs, RELB writes and ACQB reads. None
while a replay holds it. -/
def logReq (s : State) (d : DirLine) (r : MReq) (asAmo : Bool) : Option State :=
  match r.req with
  | .read _ _ _ true => s.logSlice d.home r.line 2 r.core 1
  | .write _ _ _ _ true => s.logSlice d.home r.line 2 r.core 0
  | .amo .. => s.logSlice d.home r.line 1 r.core 0
  | .gather .. => if asAmo then s.logSlice d.home r.line 1 r.core 0 else some s
  | _ => some s
/-- A new G copy needs a way that no T, U or H line of its set can give up (R220). -/
def needsWay (s : State) (r : MReq) : Bool :=
  !((s.core r.core).dropLine r.line).hasWay r.line && ((s.core r.core).victim r.line).isNone
/-- A reduction that must be performed as the AMO of its operation: every way of its set is K (R220). -/
def noWay (s : State) (r : MReq) : Bool := needsWay s r && ((s.core r.core).gatherVictim r.line).isNone
/-- The way request of R220: it asks for the line the core has gathered least recently, once, and the reduction waits for the
way. -/
def askWay (s : State) (k : Nat) (v : CLine) : Served :=
  let sent := s.net.any fun f => match f.pkt with | .way c l => c == k && l == v.line | _ => false
  let recalling := match s.dirOf v.line with | some d => (match d.st with | .g _ true => true | _ => false) | none => false
  if sent || recalling then .blocked else .stays (s.post (.way k v.line))
/-- A gatherer's copy of a line: the reductions in it (R422). -/
def gatherCount (s : State) (line k : Nat) : Nat :=
  match (s.core k).lineOf line with | some l => (match l.st with | .g _ => l.unread | _ => 0) | none => 0
/-- One more reduction of a gatherer would go beyond what a replay logged for its copy's next recall: it waits (R423; DESIGN CHOICE, log entry 78). -/
def gatherHeld (s : State) (line core : Nat) : Bool :=
  match s.owner (line * 128) with
  | none => false
  | some p => p.rrMode == 2 && match nextCombine s p (cellIndex p (s.homeOf line)) line core with
    | some n => n ≤ gatherCount s line core
    | none => false
/-- A core becomes a gatherer of a line, with a fresh copy that holds its first reduction (R218); with no way for it, it asks for
one (R220). -/
def startGather (s : State) (r : MReq) (gs : List Nat) (k : GatherKind) (off o : Nat) : Served :=
  if gatherHeld s r.line r.core then .blocked
  else if needsWay s r then
    match (s.core r.core).gatherVictim r.line with
    | some v => askWay s r.core v
    | none => .blocked
  else
    let s := (s.spoilAreds (some r.core) (r.line * 128 + off) k.size).onDir r.line fun d => { d with st := .g (gs.filter (· != r.core) ++ [r.core]) false }
    let s := s.install r.core { line := r.line, st := .g k, data := reduceAt k (identityLine k) off o, unread := 1 }
    .used (s.post (.done r.core r.line))
/-- A fill leaves the home, and its freshness with it (R223); whether the window has passed is free in its last frame. -/
def State.postFill (s : State) (k line : Nat) (tracked acq pref : Bool) : State :=
  (s.post (.fill k line (s.mem.line line) tracked acq pref (homeFresh s line) none)).tock
/-- A request on a line that stands in N (or as N): R171, R208, R218, R234, R241. An AMO's reply leaves at its commit (log entry 60). -/
def serveNow (s : State) (d : DirLine) (r : MReq) : Served :=
  match r.req with
  | .read acq ef pref _ =>
    let tr := canShare s r.core r.line
    let s := s.hitDir r.line ef
    let s := if tr then s.onDir r.line fun d => { d with sharers := d.sharers.filter (· != r.core) ++ [r.core] } else s
    .used (s.postFill r.core r.line tr acq pref)
  | .write pa n v ef _ => .used ((s.hitDir r.line ef).openRound d pa n v (some r.core) none)
  | .amo op size pa o cmp _ reduce =>
    let m := s.mem.readN pa size
    .used ((s.hitDir r.line false).openRound d pa size (amoValue op size m o cmp) (if reduce then some r.core else none)
      (if reduce then none else some (r.core, m)))
  | .gather k off o =>
    if noWay s r then
      .used ((s.hitDir r.line false).openRound d (r.line * 128 + off) k.size
        (amoValue k.op k.size (s.mem.readN (r.line * 128 + off) k.size) o 0) (some r.core) none)
    else if !d.sharers.isEmpty then .stays (s.startRecall d)
    else startGather (s.hitDir r.line false) r [] k off o
  | .clwb => .used (((s.hitDir r.line false).onDir r.line fun d => { d with dirty := false }).post (.done r.core r.line))

/-- A request on a line that stands in N, at its logged point. -/
def serveN (s : State) (d : DirLine) (r : MReq) : Served :=
  match logReq s d r (noWay s r) with
  | none => .blocked
  | some s => serveNow s d r

/-- The recall of a gathered line (R219): to every gatherer, at its logged point; none while a replay holds it (R422, R423). -/
def State.recallG (s : State) (line : Nat) (gs : List Nat) : Option State :=
  (s.logCombine (match s.dirOf line with | some d => d.home | none => 0) line
      (((List.range 512).filter gs.contains).map fun k => (k, gatherCount s line k))).map fun s =>
    (s.onDir line fun d => { d with st := .g gs true }).postAll (gs.map fun k => .grecall k line)
/-- A packet stays while a gathered line is recalled for it. -/
def recallFirst (s : State) (line : Nat) (gs : List Nat) : Served := match s.recallG line gs with | some t => .stays t | none => .blocked

/-- A reduction at its line, performed as the AMO of its operation (R162, R220, R316). -/
def reduceAsAmo (s : State) (d : DirLine) (r : MReq) (k : GatherKind) (off o : Nat) : Served :=
  match logReq s d r true with
  | none => .blocked
  | some s =>
    .used ((s.hitDir r.line false).openRound d (r.line * 128 + off) k.size
      (amoValue k.op k.size (s.mem.readN (r.line * 128 + off) k.size) o 0) (some r.core) none)
/-- A reduction of a core that does not hold a line in K waits as the AMO of its operation (R162, R316). -/
def lockedReduction (d : DirLine) (r : MReq) : Option Pkt :=
  match d.st, r.req with
  | .k h t _ _ p, .gather k off o =>
    if (h.isNone && p && t.isNone) || h.map (·.core) == some r.core then none
    else some (.req { r with req := .amo k.op k.size (r.line * 128 + off) o 0 false true })
  | _, _ => none
/-- A request at the home slice of its line (R171, R208, R214, R307); a CLWB of a line that is not resident finds nothing to write back. A
reduction of another kind than its core gathers recalls every
copy of the line, as R219 does (DESIGN CHOICE, log entry 63). -/
def serveHomeLine (s : State) (r : MReq) : Served :=
  if setBlocked s r.line then .blocked
  else match s.dirOf r.line with
  | none => (match r.req with
    | .read _ ef _ _ => allocate s r.line ef
    | .write _ _ _ ef _ => allocate s r.line ef
    | .clwb => .used (s.post (.done r.core r.line))
    | _ => allocate s r.line false)
  | some d =>
    match lockedReduction d r with
    | some p => .becomes s p
    | none =>
    if d.round.isSome then .blocked
    else match d.st with
      | .w => .blocked
      | .e .. => .blocked
      | .n => serveN s d r
      | .g gs recalling =>
        if recalling then .blocked
        else match r.req with
          | .gather k off o =>
            match ((s.core r.core).lineOf r.line).map (·.st) with
            | some (PState.g held) =>
              if held == k then
                (if gatherHeld s r.line r.core then .blocked
                else .used ((((s.hitDir r.line false).spoilAreds (some r.core) (r.line * 128 + off) k.size).onCore r.core fun c =>
                  c.gatherInto r.line fun d => reduceAt k d off o).post (.done r.core r.line)))
              else recallFirst s r.line gs
            | _ => if noWay s r then recallFirst s r.line gs else startGather (s.hitDir r.line false) r gs k off o
          | _ => recallFirst s r.line gs
      | .k holder tail saved _ poison =>
        if holder.isNone && poison && tail.isNone then
          (match r.req with
          | .gather k off o => reduceAsAmo s d r k off o
          | _ => serveN s d r)
        else if holder.map (·.core) == some r.core && !saved then
          match r.req with
          | .gather k off o => reduceAsAmo s d r k off o
          | .read acq ef pref _ =>
            (match logReq s d r false with
            | none => .blocked
            | some s => .used ((s.hitDir r.line ef).postFill r.core r.line false acq pref))
          | _ => serveN s d r
        else .blocked

/-- A PREF's fill of a home slice (R242): the line is resident, and nothing else of it changes. -/
def MReq.fillsHome (r : MReq) : Bool := r.core == 1026 && match r.req with | .read _ _ pref _ => pref | _ => false
/-- A request at the home slice of its line: a PREF's fill of a resident line is over (R242). -/
def serveHome (s : State) (r : MReq) : Served :=
  if r.fillsHome && (s.dirOf r.line).isSome && !setBlocked s r.line then
    .used (s.hitDir r.line (match r.req with | .read _ ef _ _ => ef | _ => false))
  else serveHomeLine s r

/-- Every gatherer's copy is in (R219). -/
def copiesIn (s : State) (line : Nat) (gs : List Nat) : Bool :=
  gs.all fun k => s.net.any fun f => match f.pkt with | .gcopy c l _ _ => c == k && l == line | _ => false
/-- The copy of core k among the packets of a line, combined into d. -/
def combineFrom (s : State) (line : Nat) (d : BitVec 1024) (k : Nat) : BitVec 1024 :=
  s.net.foldl (fun d f => match f.pkt with
    | .gcopy c l kind x => if c == k && l == line then combineLine kind d x else d
    | _ => d) d
/-- The combine of R219, in ascending core number; the line returns to N with no sharers. What it reads poisoned stays so (R394), and its
reductions met the all-reduces as they performed (R192). -/
def State.combine (s : State) (line : Nat) (gs : List Nat) : State :=
  let d := ((List.range 512).filter gs.contains).foldl (combineFrom s line) (s.mem.line line)
  { ((s.onDir line fun d => { d with st := .n, sharers := [], dirty := true }).noteCommit line) with
    mem := s.mem.writeN (line * 128) d.toNat 128, me := s.me.noteCode s.mem (line * 128) 128,
    cores := s.cores.map (·.noteCode s.mem (line * 128) 128),
    net := s.net.filter fun f => match f.pkt with | .gcopy _ l _ _ => l != line | _ => true }

/-! ### At a scratchpad port, at the peer, at the host -/

/-- A request performed where the only copy is: a scratchpad port, the peer's home, the host agent (R160, R169, R170); what it reads
may be fresh (R223). -/
def servePort (s : State) (r : MReq) (fresh : Bool) : State :=
  match r.req with
  | .read acq _ pref _ => s.post (.fill r.core r.line (s.mem.line r.line) false acq pref fresh none)
  | .write pa n v _ _ => (s.placeBy (some r.core) pa n v).post (.done r.core r.line)
  | .amo op size pa o cmp _ reduce =>
    let m := s.mem.readN pa size
    let s := s.placeBy (some r.core) pa size (amoValue op size m o cmp)
    if reduce then s.post (.done r.core r.line) else s.post (.amoReply r.core r.line m none)
  | .gather k off o =>
    let pa := r.line * 128 + off
    (s.placeBy (some r.core) pa k.size (amoValue k.op k.size (s.mem.readN pa k.size) o 0)).post (.done r.core r.line)
  | .clwb => s.post (.done r.core r.line)
/-- The core in whose name an agent asks: its copy engine's or trace encoder's is the core itself. -/
def askingCore (k : Nat) : Nat := match tracedCore k with | some c => c | none => if 2048 ≤ k then k - 2048 else k
/-- The agent by which the dispatcher of a set writes to memory (R271, R276, R279, R406). -/
def dispatcherAgent (n : Nat) : Nat := 1032 + n
/-- The set whose dispatcher an agent is. -/
def dispatchedSet (k : Nat) : Option Nat := if 1032 ≤ k && k < 1039 then some (k - 1032) else none
/-- The boundary tag that a request carries (R374): its core's, or 7 for a yard controller and a link engine. -/
def State.tagOf (s : State) (k : Nat) : Nat := if 512 ≤ askingCore k then 7 else (s.core (askingCore k)).tag
/-- A request at a control block of the peer card (R30, R374): its registers are the peer's own, and what they hold is free (log entry
68). -/
def servePeerControl (s : State) (r : MReq) : State :=
  match r.req with
  | .read acq _ pref _ => (s.post (.fill r.core r.line (Config.peerRegisters s.tick) false acq pref false none)).tock
  | .amo _ size pa _ _ _ false => (s.post (.amoReply r.core r.line (lineGet (Config.peerRegisters s.tick) (pa % 128) size) none)).tock
  | _ => s.post (.done r.core r.line)
/-- A flit sent about a line: it stays in the replay buffer, which holds the last 256; the peer's replies acknowledge what is older (R439, R440). -/
def Link.sent (l : Link) (line : Nat) : Link :=
  let b := l.buffer ++ [(l.txSeq, line)]
  { l with txSeq := l.txSeq + 1, buffer := b.drop (b.length - 256) }
/-- A request carried across the bridge (R169, R374, R440): refused with no link or where no window of the peer's live table
permits it. Whether what it reads is fresh is known to the peer's home alone, and so free (R223). -/
def servePeer (s : State) (r : MReq) : State :=
  if !s.link.up then s.refuse r (.access .linkAbsent)
  else if !windowPermits s.peerWindows.toList (s.tagOf r.core) (r.line * 128) r.req.windowKind then s.refuse r (.access .linkWindow)
  else
    let s := { s with link := s.link.sent r.line }
    match s.placeOf (r.line * 128) with
    | .error k => s.refuse r (.access k)
    | .ok .peerControl => servePeerControl s r
    | .ok _ => (servePort s r (Config.fresh s.tick [])).tock
/-- An access of the peer card to this one (R374): checked against the live table, then served at its serialisation point. -/
def serveFromPeer (s : State) (r : MReq) : Served := if s.link.up then serveHome s r else .used s

/-- Whether an AMO goes to the root complex as an AtomicOp of its own (R236). -/
def nativeAtomic : AmoOp → Bool | .add => true | .swp => true | .cas => true | _ => false
/-- The PASID under which a core's requests go to the host: that of its ASID's entry where the host translates for it (R29, R353,
R363). -/
def State.pasidOf (s : State) (k : Nat) : Option Nat :=
  let c := s.core k
  if 7 ≤ c.paddock then none
  else
    let p := s.pad c.paddock
    let w := match p.asidCache.find? (fun e => e.2.1 == c.asid) with
      | some (_, _, w0, _) => w0.toNat
      | none => s.mem.readN (p.asidtb.toNat / 2 ^ 20 % 2 ^ 28 * 2 ^ 20 + 16 * c.asid) 8
    if w / 2 ^ 62 % 4 == 3 && s.cardFeature 7 then some (w / 2 ^ 42 % 2 ^ 20) else none
/-- A request goes out to the host: under its paddock's virtual function, a dispatcher's under its set's, or the physical one, and its PASID (R29,
R170). -/
def State.toHost (s : State) (r : MReq) : State :=
  let k := askingCore r.core
  let n := (dispatchedSet r.core).getD (s.core k).paddock
  let write := match r.req with | .write .. => true | _ => false
  { s with out := s.out ++ [.hostRequest (if n < 7 then n + 1 else 0) (s.pasidOf k) (r.line * 128 % 2 ^ 45) write] }
/-- A request at the host agent (R170, R196, R236): a posted write is passed on and done, an AMO without AtomicOps is refused
unless its page is device-exclusive, a device-exclusive AMO starts with its read, and the rest awaits its completion. A posted write's
bytes reach host memory: whether the host takes them is its own affair (DESIGN CHOICE, log entry 64). -/
def serveHost (s : State) (r : MReq) : State :=
  if s.dies[(0 : Fin 2)] == .reset then s.refuse r (.access .dieAbsent)
  else match r.req with
    | .write pa n v _ _ => ((s.toHost r).placeBy (some r.core) pa n v).post (.done r.core r.line)
    | .clwb => s.post (.done r.core r.line)
    | .amo _ _ _ _ _ dx _ =>
      if !dx && !s.cardFeature 6 then s.refuse r (.access .hostAtomic) else (s.toHost r).post (.hostWait r 0)
    | .gather .. => if !s.cardFeature 6 then s.refuse r (.access .hostAtomic) else (s.toHost r).post (.hostWait r 0)
    | .read .. => (s.toHost r).post (.hostWait r 0)
/-- The line's host port has an access in hand: it serialises the others behind it (R170, R236). -/
def hostBusy (s : State) (line : Nat) : Bool := s.net.any fun f => match f.pkt with | .hostWait r _ => r.line == line | _ => false
/-- A request that the host agent performs by a loop of CAS attempts (R236). -/
def MReq.loops (r : MReq) : Bool :=
  match r.req with
  | .amo op _ _ _ _ dx _ => !dx && !nativeAtomic op
  | .gather k _ _ => !nativeAtomic k.op
  | _ => false
/-- What an agent of the host has stored into the bytes of an AMO. -/
def State.hostStored (s : State) (r : MReq) (v : Nat) : State :=
  match r.req with
  | .amo _ size pa .. => s.place pa size v
  | .gather k off _ => s.place (r.line * 128 + off) k.size v
  | _ => s
/-- A completion of a host request (R29, R236): success performs it, an error status ends it. A loop begins with its read (`tries`
is 0); its n-th CAS fails when the host has changed the bytes, and the 64th failure is ATOMIC-UNRESOLVED. -/
def completeHost (s : State) (r : MReq) (tries : Nat) (ans : HostReply) : State :=
  match ans with
  | .ok => if r.loops && tries == 0 then s.post (.hostWait r 1) else servePort s r true
  | .denied => s.refuse r (.access .hostDenied)
  | .abort => s.refuse r (.access .hostAbort)
  | .changed v =>
    let s := s.hostStored r v
    if !r.loops then servePort s r true
    else if tries == 64 then s.refuse r (.access .atomicUnresolved)
    else s.post (.hostWait r (tries + 1))

/-- The die whose reset refuses a request for an address, if any (R404). -/
def absentDie (s : State) (p : Place) (line : Nat) : Bool :=
  match p with
  | .localHbm => s.dies[Fin.ofNat 2 (stackOf (line * 128) / 2)] == .reset
  | .scratch cell => s.dies[Fin.ofNat 2 (dieOf cell)] == .reset
  | .control cell _ => s.dies[Fin.ofNat 2 (dieOf cell)] == .reset
  | _ => false

/-- A request where it arrives. -/
def serveReq (s : State) (r : MReq) : Served :=
  if r.line / 2 ^ 40 % 2 != s.link.card then (if s.link.retraining then .blocked else .used (servePeer s r))
  else match s.placeOf (r.line * 128) with
  | .error k => .used (s.refuse r (.access k))
  | .ok p =>
    if absentDie s p r.line then .used (s.refuse r (.access .dieAbsent))
    else match p with
      | .localHbm => if r.core == 1025 then serveFromPeer s r else serveHome s r
      | .scratch _ => .used (servePort s r false)
      | .control .. => .used (servePort s r false)
      | .peerHbm | .peerScratch | .peerControl => .blocked
      | .host => if hostBusy s r.line then .blocked else .used (serveHost s r)

/-! ### At a core -/

/-- A line of a core's own load inserted into its brand (R223): the value is fresh. -/
def State.freshen (s : State) (k line : Nat) : State :=
  if brandable (line * 128) then s.onCore k fun c => { c with brand := brandInsert c.brand line } else s
/-- The core holds a line in U. -/
def Core.holdsU (c : Core) (line : Nat) : Bool := match c.lineOf line with | some l => l.isU | none => false
/-- A core may hold an untracked copy of a line: not of local HBM homed on its own die, unless it is a yard controller (R162, R212). -/
def mayHoldU (s : State) (k line : Nat) : Bool :=
  match s.placeOf (line * 128) with
  | .ok .localHbm => 512 ≤ k || dieOf k != dieOf (s.homeOf line)
  | .ok .peerHbm => true
  | .ok .host => true
  | _ => false
/-- The status of a copy whose source line is refused: LINK where the bridge refused it, else MEMERR; a refused write of a copy ends it likewise
(DESIGN CHOICE, log entry 65). -/
def copyRefusal : Option LateFault → Nat
  | none => 0
  | some (.access .linkAbsent) => 2
  | some (.access .linkWindow) => 2
  | some _ => 1
/-- A line's fill arrives at its core (R209, R212, R216): it satisfies the load that asked, and it is installed T, or U where
the kind of memory has U lines. An acquire installs no U copy of its own; it replaces one that stands (R171, R179). A fill that took too
long is not installed as U (`slow`), and an older U copy does not outlive it. What no load of the core takes enters the brand as it is
installed, if it is fresh (R223). -/
def arriveFill (s : State) (k line : Nat) (d : BitVec 1024) (tracked acq pref fresh : Bool) (f : Option LateFault) (slow : Bool) : State :=
  if 2048 ≤ k then
    { s with jobs := s.jobs.map fun (j : Job) =>
        if j.core == k - 2048 && j.asked.contains line && !(j.got.any (·.1 == line)) then
          (if f.isSome then { j with lost := copyRefusal f } else { j with got := (line, d) :: j.got })
        else j }
  else if k == 1025 then { s with out := s.out ++ [if f.isSome then .peerRefused line f else .peerData line d] }
  else if 1024 ≤ k then s
  else
    let c := s.core k
    let c := if pref || !c.asked.contains (line, acq) then c
      else { c with fills := { line := line, acq := acq, data := d, fresh := fresh, fault := f } :: c.fills, asked := c.asked.filter (· != (line, acq)) }
    let s := s.setCore c
    let pin := match c.lineOf line with | some l => l.pinned | none => false
    if f.isSome || pin then s
    else if tracked then (if pref && fresh then s.freshen k line else s).install k { line := line, st := .t, data := d, unread := 0 }
    else if slow then s.onCore k fun c => if c.holdsU line then c.dropLine line else c
    else if (acq && !c.holdsU line) || !mayHoldU s k line then s
    else (if pref && fresh then s.freshen k line else s).install k { line := line, st := .u, data := d, unread := 0 }
/-- An update at a sharer (R209, R211): merged and held, or the line dropped at the fourth unread one. -/
def arriveUpdate (s : State) (k line pa n v : Nat) : State :=
  let c := s.core k
  match c.lineOf line with
  | some l =>
    if l.st == .t && l.unread < 3 then
      (s.setCore (c.mapLine line fun l => { l with st := .h, unread := l.unread + 1, data := lineSet l.data (pa % 128) n v })).post
        (.ack k line false)
    else if l.st == .t then (s.setCore (c.dropLine line)).post (.ack k line true)
    else s.post (.ack k line true)
  | none => s.post (.ack k line true)

/-- A write of core k to a line is over: its entry of the counter goes, and a copy that waits for it goes on (R191, R210). -/
def State.doneLine (s : State) (k line : Nat) : State :=
  let s := s.onCore k fun c => { c with undone := c.undone.erase line, storePages := c.storePages.eraseP (·.1 == line) }
  { s with jobs := s.jobs.map fun (j : Job) => if j.core == k then { j with after := j.after.erase line } else j,
           areds := s.areds.map fun (a : Ared) => if a.core == k then { a with after := a.after.erase line } else a }
/-- The bytes of a job's destination in the line of an address, from that address on. -/
def Job.pieceAt (j : Job) (pa : Nat) : Nat :=
  j.dst.foldl (fun n r => if r.1 ≤ pa && pa < r.1 + r.2 then min (128 - pa % 128) (r.1 + r.2 - pa) else n) 0
/-- One packet served where it arrives. -/
def servePkt (s : State) (p : Pkt) : Served :=
  match p with
  | .req r => serveReq s r
  | .update k line pa n v => if fillComing s k line then .blocked else .used (arriveUpdate s k line pa n v)
  | .ack k line drop => .used (s.ackRound k line drop)
  | .commit k line => .used (s.onCore k fun c => c.mapLine line fun l =>
      let l := { l with commit := some c.cycFrame }
      if l.st == PState.h then { l with st := .t } else l)
  | .done k line => .used (match tracedCore k with
    | some c => s.traceDone c
    | none => if k == 1025 then { s with out := s.out ++ [.peerDone line] } else if 1024 ≤ k then s else s.doneLine k line)
  | .evict k line => .used (s.onDir line fun d => { d with sharers := d.sharers.filter (· != k) })
  | .recall k line =>
    if fillComing s k line then .blocked
    else
      let c := s.core k
      let c := match c.lineOf line with | some l => if l.pinned then c else c.dropLine line | none => c
      .used ((s.setCore c).post (.ack k line true))
  | .grecall k line =>
    let c := s.core k
    match c.lineOf line with
    | some l => match l.st with
      | .g kind => .used ((s.setCore (c.dropLine line)).post (.gcopy k line kind l.data))
      | _ => .used (s.post (.gcopy k line .addD 0))
    | none => .used (s.post (.gcopy k line .addD 0))
  | .gcopy k line kind x =>
    match s.dirOf line with
    | some d => match d.st with
      | .g gs _ =>
        let s := s.post (.gcopy k line kind x)
        if copiesIn s line gs then .used (s.combine line gs) else .blocked
      | _ => .used s
    | none => .used s
  | .way _ line =>
    match s.dirOf line with
    | some d => match d.st with
      | .g gs false => (match s.recallG line gs with | some t => .used t | none => .blocked)
      | _ => .used s
    | none => .used s
  | .fill k line d tr acq pref fresh f => .used (arriveFill s k line d tr acq pref fresh f false)
  | .amoReply k line old f =>
    .used (if k == 1025 then { s with out := s.out ++ [if f.isSome then .peerRefused line f else .peerOld line old] }
      else if 1024 ≤ k then s
      else s.onCore k fun c => { c with pend := match f, c.pend with
      | some f, .sent _ => .fault f
      | none, .sent pa => .reply pa (BitVec.ofNat 64 old)
      | _, p => p })
  | .hostWait r n =>
    match s.hostReplies with
    | [] => .used (completeHost s r n .ok)
    | a :: as => .used (completeHost { s with hostReplies := as } r n a)
  | .refusal k pa =>
    let s := { s with poisonDue := s.poisonDue.filter fun p => !(p.1 == k && p.2 / 16 == pa / 128) }
    .used (if 2048 ≤ k then { s with jobs := s.jobs.map fun (j : Job) =>
          if j.core == k - 2048 && j.pieceAt pa != 0 then
            { j with status := if j.status != 0 then j.status else if pa / 2 ^ 47 % 2 != s.link.card then 2 else 1, len := j.len - j.pieceAt pa }
          else j }
      else if k == 1025 then { s with out := s.out ++ [.peerRefused (pa / 128) none] }
      else if 514 ≤ k then (match tracedCore k with | some c => s.sinkFault c pa | none => s)
      else
        ((s.doneLine k (pa / 128)).onCore k fun c => { c with asyncs := c.asyncs ++ [.posted pa] }).logCore k 9 0 pa)

/-! ### Order on the networks (R12, R13, R165, R208, R228) -/

/-- The core and line of a packet between a core and the line's home, and its direction: 0 for a request, 1 for what else a core sends
home, 2 for what a home sends a core. -/
def Pkt.channel : Pkt → Option (Nat × Nat × Nat)
  | .req r => some (0, r.core, r.line)
  | .ack k l _ => some (1, k, l)
  | .evict k l => some (1, k, l)
  | .gcopy k l _ _ => some (1, k, l)
  | .update k l .. => some (2, k, l)
  | .commit k l => some (2, k, l)
  | .recall k l => some (2, k, l)
  | .grecall k l => some (2, k, l)
  | .fill k l .. => some (2, k, l)
  | .amoReply k l .. => some (2, k, l)
  | .done k l => some (2, k, l)
  | _ => none
/-- A write of a core's copy engine. -/
def Pkt.copyWrites (core : Nat) : Pkt → Bool
  | .req r => r.core == 2048 + core && (match r.req with | .write .. => true | _ => false)
  | _ => false
/-- An earlier packet of one core and one line holds a packet back (R12, R180 row 1, R195). A request follows what its core sent home before
it, the writes of the core's older copies among it; an acknowledgement may pass a request that is parked at the home. -/
def keepsBack (ps : List InFlight) (p : Pkt) : Bool :=
  match p.channel with
  | none => false
  | some (c, k, l) => ps.any fun f => match f.pkt.channel with
    | some (c', k', l') => l == l' && ((k == k' && (c == c' || (c == 0 && c' == 1))) || (c == 0 && f.pkt.copyWrites k))
    | none => false
/-- The party that serves a line: its home, its port, or its host port; the Sahax Link keeps no order between lines (R195). -/
def State.servingNode (s : State) (line : Nat) : Option Node :=
  match s.placeOf (line * 128) with
  | .ok .localHbm => some (.cell (s.homeOf line))
  | .ok (.scratch cell) => some (.cell cell)
  | .ok (.control cell _) => some (.cell cell)
  | .ok .host => some (.cell (hostPort line))
  | _ => none
/-- Both parties, if both are known. -/
def bothNodes (a b : Option Node) : Option (Node × Node) := a.bind fun x => b.map fun y => (x, y)
/-- Source and destination of a packet of the ordered network (R12); fills, copies and the engines' traffic go by the data network
(R13). -/
def Pkt.ends (s : State) : Pkt → Option (Node × Node)
  | .req r => if r.bulk then none else bothNodes (nodeOf r.core) (s.servingNode r.line)
  | .ack k l _ => bothNodes (nodeOf k) (s.servingNode l)
  | .evict k l => bothNodes (nodeOf k) (s.servingNode l)
  | .gcopy k l _ _ => bothNodes (nodeOf k) (s.servingNode l)
  | .way k l => bothNodes (nodeOf k) (s.servingNode l)
  | .update k l .. => bothNodes (s.servingNode l) (nodeOf k)
  | .commit k l => bothNodes (s.servingNode l) (nodeOf k)
  | .recall k l => bothNodes (s.servingNode l) (nodeOf k)
  | .grecall k l => bothNodes (s.servingNode l) (nodeOf k)
  | .done k l => bothNodes (s.servingNode l) (nodeOf k)
  | .amoReply k l .. => bothNodes (s.servingNode l) (nodeOf k)
  | _ => none
/-- The core whose NI injects a packet of memory traffic. -/
def Pkt.injector : Pkt → Option Nat
  | .req r => some r.core
  | .ack k .. => some k
  | .evict k _ => some k
  | .gcopy k .. => some k
  | .way k _ => some k
  | _ => none
/-- The router of a core that has been fenced off discards what its NI injects (R401). -/
def State.shutOut (s : State) (src : Option Nat) (seq : Nat) : Bool :=
  match src with
  | some k => (match (s.core k).fencedAt with | some n => decide (n ≤ seq) | none => false)
  | none => false
/-- A packet that a fence discards. -/
def State.discards (s : State) (f : InFlight) : Bool := f.stage == .transit && s.shutOut f.pkt.injector f.seq
/-- A lock request. -/
def LockPkt.isRequest : LockPkt → Bool | .lock .. => true | _ => false
/-- Whether a lock packet is bound for its line's home. -/
def LockPkt.homeward : LockPkt → Bool
  | .lock .. => true | .moved .. => true | .free .. => true | .withdraw .. => true | .pass .. => true | .saved .. => true
  | .resume .. => true | .linkBack .. => true | .force .. => true | .probe .. => true | _ => false
/-- The line of a lock packet. -/
def LockPkt.line : LockPkt → Nat
  | .lock _ l _ => l | .link _ l _ => l | .linkBack _ l _ => l | .handoff _ l _ _ => l | .moved _ l _ => l | .free _ l => l
  | .freed _ l => l | .withdraw _ l _ _ => l | .withdrawRefused _ l _ => l | .pass _ l _ => l | .busy _ l => l | .saved _ l _ => l
  | .resume _ l => l | .force _ l _ _ => l | .probe _ _ l _ => l
/-- The core at the far end of a lock packet that is not bound for a home. -/
def LockPkt.toCore : LockPkt → Option Nat
  | .link k _ _ => some k.core | .handoff k _ _ _ => some k.core | .freed k _ => some k.core | .busy k _ => some k.core | _ => none
/-- Source and destination of a lock packet on the ordered network; a hand-off from cache to cache goes by the data network (R304). -/
def LockFlight.ends (s : State) (f : LockFlight) : Option (Node × Node) :=
  let home := s.servingNode f.pkt.line
  if f.pkt.homeward then bothNodes (f.src.bind nodeOf) home
  else if f.src.isSome then none else bothNodes home (f.pkt.toCore.bind nodeOf)
/-- The sender of a task (R284). -/
def Task.sender (t : Task) : Nat := getBits t.record.toNat 236 9
/-- The core of a stream of a launch; a yard controller stands under launch 0. -/
def State.streamCore (s : State) (launch rx ry : Nat) : Option Nat :=
  if launch == 0 then some rx else (s.launchOf launch).bind fun l => (l.stream rx ry).map (·.core)
/-- The sender, the receiving stream and the refusal of a message or task. -/
def NiPkt.route : NiPkt → Option (Nat × Nat × Nat × Nat × Bool)
  | .msg l rx ry _ m r => some (m.sender, l, rx, ry, r)
  | .task l rx ry _ t r => some (t.sender, l, rx, ry, r)
  | _ => none
/-- The place in its launch of a thief's k-th victim: the member at index (own + k) mod size (R287). -/
def victimPlace (rx ry : Nat) (g : Group) (k : Nat) : Nat × Nat :=
  let i := ((ry - g.gy) * g.gw + (rx - g.gx) + k) % (g.gw * g.gh)
  (g.gx + i % g.gw, g.gy + i / g.gw)
/-- The NI of a stream, as a party of the mesh. -/
def State.streamNode (s : State) (launch rx ry : Nat) : Option Node := (s.streamCore launch rx ry).bind nodeOf
/-- Source and destination of a message or task on its way; one that was refused waits at its sender, and holds back there what follows it
to the same NI (R249). Thefts, reports and contributions travel likewise (R282, R287, R288); a group's contributions meet at its first
member (log entry 61). -/
def NiFlight.ends (s : State) (f : NiFlight) : Option (Node × Node) :=
  match f.pkt with
  | .steal l rx ry g k => bothNodes (s.streamNode l rx ry) (s.streamNode l (victimPlace rx ry g k).1 (victimPlace rx ry g k).2)
  | .stealReply l rx ry g k _ => bothNodes (s.streamNode l (victimPlace rx ry g k).1 (victimPlace rx ry g k).2) (s.streamNode l rx ry)
  | .report k owner _ l => bothNodes (nodeOf k) (s.streamNode l (owner % 16) (owner / 16))
  | .contrib k c => bothNodes (nodeOf k) (s.streamNode c.launch c.group.gx c.group.gy)
  | p => match p.route with
    | some (k, l, rx, ry, false) =>
      if s.ni.any fun g => g.seq < f.seq && g.pkt.route == some (k, l, rx, ry, true) then none else bothNodes (nodeOf k) (s.streamNode l rx ry)
    | _ => none
/-- A packet sent earlier from the same source to the same destination is still on its way (R12), or the route is held (R400, R402). -/
def State.mustWait (s : State) (ends : Option (Node × Node)) (seq line : Nat) : Bool :=
  match ends with
  | none => false
  | some (a, b) =>
    (s.net.any fun g => g.stage == .transit && g.seq < seq && g.pkt.ends s == some (a, b))
    || (s.ni.any fun g => g.seq < seq && g.ends s == some (a, b))
    || (s.lockNet.any fun g => !g.waits && g.seq < seq && g.ends s == some (a, b))
    || s.routeHeld (a.router line) (b.router line)
/-- The request of a packet at the home slice of a line of local HBM. -/
def Pkt.atHome (s : State) : Pkt → Option MReq
  | .req r => (match s.placeOf (r.line * 128) with | .ok .localHbm => some r | _ => none)
  | _ => none
/-- Two lines share a bank of one slice (R159). -/
def sameBank (s : State) (l m : Nat) : Bool := l % 4 == m % 4 && s.homeOf l == s.homeOf m
/-- The line of a packet bound for its home's bank: a request, or what else a core sends home (R165). -/
def Pkt.homeLine (s : State) (p : Pkt) : Option Nat :=
  match p.channel with
  | some (c, _, l) => if c < 2 && s.placeOf (l * 128) matches .ok .localHbm then some l else none
  | none => match p with | .way _ l => some l | _ => none
/-- A request of the bank of a line stands at its input, which takes nothing more until that one moves (R165). -/
def bankHeld (s : State) (line : Nat) : Bool :=
  (s.net.any fun g => g.stage == .input && match g.pkt.atHome s with | some q => sameBank s q.line line | none => false)
  || s.lockNet.any fun g => g.waits && g.bank == .input && sameBank s g.pkt.line line
/-- A packet bound for a bank whose input is held. -/
def State.inputHeld (s : State) (f : InFlight) : Bool := match f.pkt.homeLine s with | none => false | some l => bankHeld s l
/-- Two lines lie in one set of one slice. -/
def sameSet (s : State) (l m : Nat) : Bool := l % 128 == m % 128 && s.homeOf l == s.homeOf m
/-- A request stands parked behind a fill of the set of a line (R165). -/
def setParked (s : State) (line : Nat) : Bool :=
  (s.net.any fun g => g.stage == .parked && match g.pkt.atHome s with | some q => sameSet s q.line line | none => false)
  || s.lockNet.any fun g => g.waits && g.bank == .parked && sameSet s g.pkt.line line
/-- A request that waits is held by a replay alone, and lets others pass (R423). -/
def replayHolds (s : State) (r : MReq) : Bool :=
  match s.dirOf r.line with
  | some d => d.round.isNone && (logReq s d r (noWay s r || match d.st with | .k .. => true | _ => false)).isNone
  | none => false
/-- The same of a lock request, by what it would be answered. -/
def replayHoldsLock (s : State) (p : LockPkt) : Bool :=
  match p, s.dirOf p.line with
  | .lock w line try_, some d =>
    d.round.isNone && (s.logSlice d.home line 3 w.core (match d.st with | .k h t _ _ q => (try_ && !(h.isNone && q && t.isNone)).toNat | _ => 0)).isNone
  | _, _ => false
/-- A request waits behind another that reached the home before it: for the same line, or parked in the same set (R165, R208). What waits
for a lock lets the holder pass, and what a replay holds lets others pass. -/
def State.waitsBehind (s : State) (f : InFlight) : Bool :=
  match f.pkt.atHome s with
  | none => false
  | some r =>
    let holds := match s.dirOf r.line with | some d => (match d.st with | .k h _ sv _ _ => h.map (·.core) == some r.core && !sv | _ => false) | none => false
    let before (n : Nat) : Bool := f.stage == .transit || n < f.seq
    (s.net.any fun g => (g.stage == .line || g.stage == .parked) && before g.seq && match g.pkt.atHome s with
      | some q => (q.line == r.line && !(holds && q.core != r.core) && (q.core == r.core || !replayHolds s q))
          || (f.stage == .parked && g.stage == .parked && sameSet s q.line r.line)
      | none => false)
    || (s.lockNet.any fun g => g.waits && before g.seq && g.pkt.homeward
          && ((g.pkt.line == r.line && (if holds then g.src == some r.core else g.pkt.isRequest && !replayHoldsLock s g.pkt))
            || (f.stage == .parked && g.bank == .parked && sameSet s g.pkt.line r.line)))
/-- Requests parked at a line's bank: its buffer has 32 entries (R165). -/
def parkedAt (s : State) (line : Nat) : Nat :=
  (s.net.filter fun g => g.stage == .parked && match g.pkt.atHome s with | some q => sameBank s q.line line | none => false).length
  + (s.lockNet.filter fun g => g.waits && g.bank == .parked && sameBank s g.pkt.line line).length
/-- Where a packet that cannot be served stands: behind a fill of its set, at its bank's input, or waiting for its line (R165, R208). -/
def State.stageOf (s : State) (f : InFlight) : Stage :=
  if f.stage == .line then .line
  else match f.pkt.atHome s with
    | none => .line
    | some r =>
      if setBlocked s r.line then (if f.stage == .parked || parkedAt s r.line < 32 then .parked else .input)
      else if (s.dirOf r.line).isNone && missesBusy s r.line then .input else .line
/-- A packet that has reached its destination and cannot be served yet takes its place there; none if it stands there already. -/
def State.holdAt (s : State) (i : Nat) (f : InFlight) : Option State :=
  let st := s.stageOf f
  if st == f.stage then none
  else some { s with net := s.net.set i { f with stage := st, seq := if f.stage == .transit then s.stamp else f.seq }, stamp := s.stamp + 1 }
/-- The line a packet is about. -/
def Pkt.aboutLine (p : Pkt) : Nat := match p.channel with | some (_, _, l) => l | none => 0
/-- The party of a packet's agent; a copy engine and a trace encoder stand at their core. -/
def engineNode (k : Nat) : Option Node := match tracedCore k with | some c => nodeOf c | none => if 2048 ≤ k then nodeOf (k - 2048) else nodeOf k
/-- Source and destination of a packet of the data network (R13): fills, and the traffic of copy and link engines. -/
def Pkt.dataEnds (s : State) : Pkt → Option (Node × Node)
  | .fill k l .. => bothNodes (s.servingNode l) (engineNode k)
  | .req r => if nodeOf r.core == none || r.bulk then bothNodes (engineNode r.core) (s.servingNode r.line) else none
  | _ => none
/-- The data network carries a packet: a fill, a tile's load or store, an engine's traffic, or what goes to the link (R13). A write-back leaves no
value anywhere else than it was, and has no packet. -/
def Pkt.onData (s : State) : Pkt → Bool
  | .fill .. => true
  | .req r => nodeOf r.core == none || r.bulk || r.line / 2 ^ 40 % 2 != s.link.card
  | _ => false
/-- A packet on the escape channel goes x-first, and is held where that route is (R13, R400, R402); the others go round what has failed. -/
def InFlight.dataHeld (s : State) (f : InFlight) : Bool :=
  match f.pkt.dataEnds s with
  | some (a, b) =>
    let src := a.router f.pkt.aboutLine
    let dst := b.router f.pkt.aboutLine
    if f.escape then s.routeHeld src dst else s.dataHeld f.pkt.aboutLine src dst
  | none => false
/-- A packet is still on its way: one sent before it travels the same route, its route is held, or its bank takes nothing more. -/
def State.travels (s : State) (f : InFlight) : Bool :=
  f.stage == .transit && (s.mustWait (f.pkt.ends s) f.seq f.pkt.aboutLine || s.inputHeld f || f.dataHeld s)
/-- A packet has to wait at its destination for what came before it. -/
def State.queued (s : State) (i : Nat) (f : InFlight) : Bool := keepsBack (s.net.take i) f.pkt || s.waitsBehind f
/-- The round trip of an untracked read has taken too long to install its line: two frames of some core have begun and ended, or the cycles
decide, which are left open while requests travel (R216). -/
def InFlight.slow (s : State) (f : InFlight) : Bool := f.ages.any (2 ≤ ·.2) || (s.lazy && Config.slowFill s.tick)
/-- A packet in flight served. -/
def serveFlight (s : State) (f : InFlight) : Served :=
  match f.pkt with
  | .fill k line d tr acq pref fresh e =>
    let t := arriveFill s k line d tr acq pref fresh e (f.slow s)
    .used (if s.lazy then t.tock else t)
  | p => servePkt s p
/-- What answers a read goes on with the read's age (R216). -/
def State.inherit (s : State) (f : InFlight) : State :=
  if f.ages.isEmpty then s
  else match f.pkt.channel with
    | some (_, k, l) => { s with net := s.net.map fun g => match g.pkt with
        | .fill k' l' .. => if k == k' && l == l' && g.ages.isEmpty then { g with ages := f.ages } else g
        | .hostWait r _ => if r.core == k && r.line == l && g.ages.isEmpty then { g with ages := f.ages } else g
        | _ => g }
    | none => s
/-- The packet at index i served; none if it cannot move. -/
def serveAt (s : State) (i : Nat) : Option State :=
  match s.net[i]? with
  | none => none
  | some f =>
    if s.discards f then some { s with net := s.net.eraseIdx i }
    else if s.travels f then none
    else if s.queued i f then s.holdAt i f
    else match serveFlight { s with net := s.net.eraseIdx i } f with
    | .used s' => some (s'.inherit f)
    | .stays s' => some { s' with net := s'.net.take i ++ f :: s'.net.drop i }
    | .blocked => s.holdAt i f
    | .becomes s' p => some { s' with net := s'.net.take i ++ { f with pkt := p } :: s'.net.drop i }
/-- An acquire, a write of the core itself or the start of a stream reaches fills of a core that are outstanding (R161, R197, R217): one
that it would have invalidated satisfies its own load and is not installed as U. No instruction of the core waits for it. -/
def State.coverFillsOf (s : State) (k : Nat) (hit : Nat → Bool) : State :=
  let cover (r : MReq) : MReq := match r.req with
    | .read _ ef _ sync => if r.core == k && hit r.line then { r with req := .read true ef true sync } else r
    | _ => r
  { s with net := s.net.map fun (f : InFlight) => match f.pkt with
      | .fill c line d tr _ _ fresh e => if c == k && hit line then { f with pkt := .fill c line d tr true true fresh e } else f
      | .req r => { f with pkt := .req (cover r) }
      | .hostWait r n => { f with pkt := .hostWait (cover r) n }
      | _ => f }
/-- A core's request is squashed (R388): what it asked for and has not arrived belongs to no load of the core any more, so that a later load asks
afresh (R182). It fills the private cache as what it is. -/
def State.forgetFills (s : State) (k : Nat) : State :=
  let forget (r : MReq) : MReq := match r.req with
    | .read acq ef _ sync => if r.core == k then { r with req := .read acq ef true sync } else r
    | _ => r
  { s with net := s.net.map fun (f : InFlight) => match f.pkt with
      | .fill c line d tr acq _ fresh e => if c == k then { f with pkt := .fill c line d tr acq true fresh e } else f
      | .req r => { f with pkt := .req (forget r) }
      | .hostWait r n => { f with pkt := .hostWait (forget r) n }
      | _ => f }
/-- What a squash undoes in the core (R388): loads and requests of the discarded instruction leave nothing behind. -/
def Core.squash (c : Core) : Core := { c with fills := [], asked := [], pend := .none, kept := [], bundle := none, lofting := false, xfault := none, search := none, dbg := { c.dbg with armed := none } }
/-- A request to the paddock's logic that belongs to core k and is squashed with its instruction; an LNCH is not (R387). -/
def CtlReq.dropsWith (k : Nat) : CtlReq → Bool
  | .removal c .. => c == k
  | .retain c .. => c == k
  | .unpin c .. => c == k
  | .lnch .. => false
/-- What a core's discarded requests leave on their way (R388): fills without their load, and page requests without their waiter (R365); what it has
asked of its paddock's logic, and has no answer to, is asked no more. -/
def State.dropAsked (s : State) (k : Nat) : State :=
  { (s.forgetFills k) with ctl := s.ctl.filter fun r => !r.dropsWith k, xreqs := s.xreqs.filter (·.core != k), ats := s.ats.map fun a => if a.core == k then { a with core := 1024 } else a }
/-- A core's instruction in hand squashed (R388). -/
def State.squashOf (s : State) (k : Nat) : State := (s.dropAsked k).onCore k (·.squash)
/-- The same for the moving core. -/
def State.coverFills (s : State) (hit : Nat → Bool) : State := s.coverFillsOf s.me.id hit
/-- A write of the moving core leaves for a line: its own U copy goes, and a U fill of it on its way is not installed (R161, R179). -/
def State.ownWrite (s : State) (line : Nat) : State :=
  (s.onMe fun c => if c.holdsU line then c.dropLine line else c).coverFills (· == line)
/-- A write of core k's copy engine leaves for a line: the core's own U copy goes likewise (R161, R179). -/
def State.ownWriteOf (s : State) (k line : Nat) : State :=
  (s.onCore k fun c => if c.holdsU line then c.dropLine line else c).coverFillsOf k (· == line)
/-- A plain acquire of the moving core (R182, R217). -/
def State.plainAcquire (s : State) (sc : Scope) : State :=
  let s' := s.onMe (·.plainAcquire sc)
  match sc with
  | .core | .die => s'
  | .dev | .sys => s'.coverFills fun _ => true
/-- A brand test of the moving core (R217, R226). -/
def State.brandTest (s : State) (a : BitVec 960) : State :=
  (s.onMe (·.brandTest a)).coverFills fun line => a == fullBrand || brandHits a line
/-- ApplyBranded of R250. -/
def State.applyBranded (s : State) (sc : Scope) (b : Option (BitVec 960)) : State :=
  match b, sc with
  | some a, .dev => s.brandTest a
  | some a, .sys => s.brandTest a
  | _, _ => s
/-- The class of a packet at a bank (R228): 1 coherence traffic, 3 AMOs and reductions, 4 loads and fills, 5 stores, 6 copies, 7 the link
engines and the peer, 8 trace. -/
def Pkt.bankClass : Pkt → Nat
  | .req r =>
    if (tracedCore r.core).isSome then 8 else if r.core == 1025 || r.core == 1028 then 7
    else match r.req with
    | .amo .. => 3
    | .gather .. => 3
    | .read .. => if 2048 ≤ r.core then 6 else 4
    | _ => if 1024 ≤ r.core then 6 else 5
  | .fill .. => 4
  | .amoReply .. => 3
  | .hostWait .. => 4
  | .refusal .. => 5
  | _ => 1
/-- The packets in flight by their class, whether they are promoted, and their index. -/
def classed (s : State) : List (Nat × Bool × Nat) := s.net.zipIdx.map fun p => (p.1.pkt.bankClass, p.1.promoted, p.2)
/-- The packets that are tried before the lock traffic, class 2 (R228): class 1, then the promoted ones, the oldest first in each. After one of
class 1 has gone while another was promoted, the promoted go first. -/
def earlyOrder (s : State) : List Nat :=
  let first := (classed s).filter fun x => x.1 == 1
  let pro := (classed s).filter fun x => x.1 != 1 && x.2.1
  (if s.classTurn then pro ++ first else first ++ pro).map (·.2.2)
/-- The packets that are tried after it: by class, the oldest first in each (R228). -/
def restOrder (s : State) : List Nat := ([3, 4, 5, 6, 7, 8].flatMap fun c => (classed s).filter fun x => x.1 == c && !x.2.1).map (·.2.2)
/-- The order in which packets are tried (R228). -/
def serveOrder (s : State) : List Nat :=
  match s.net with
  | [] => []
  | [_] => [0]
  | _ => earlyOrder s ++ restOrder s
/-- The first of some packets that can move, served. -/
def serveAmong (s : State) (is : List Nat) : Option State :=
  is.findSome? fun i => (serveAt s i).map fun t =>
    let isOne := match s.net[i]? with | some f => f.pkt.bankClass == 1 | none => false
    if isOne && s.net.any (·.promoted) then { t with classTurn := true } else if s.classTurn then { t with classTurn := false } else t
/-- The first packet that can move, served. -/
def serveFirst (s : State) : Option State := serveAmong s (serveOrder s)
/-- Packets served until none can or the fuel ends. -/
def settleLoop : Nat → State → State
  | 0, s => s
  | fuel + 1, s => match serveFirst s with
    | some s' => settleLoop fuel s'
    | none => s
/-- In-flight memory traffic served at once, unless requests travel (log entry 6). -/
def State.settle (s : State) : State := if s.lazy then s else settleLoop 4096 s
/-- A request posted and, unless requests travel, served. -/
def State.request (s : State) (r : MReq) : State := (s.post (.req r)).settle

/-! ### Engine reads at the home -/

/-- A line made ready for a read at its home by a walker, a dispatcher or an engine (R190, R233, R354): it takes its place
behind what stands parked in its set or at its bank's input, is brought into the slice where it is not resident (R165), waits out E, K and an open round, and recalls a gathered line first. The read is a hit (R164, R166). -/
def State.readyAtHome (s : State) (line : Nat) : Ans Unit :=
  if setBlocked s line || setParked s line || bankHeld s line then .wait s
  else
    let s : State := match s.dirOf line with
      | none => (match allocate s line false with | .stays s => s | _ => s)
      | some _ => s
    match s.dirOf line with
    | none => .wait s
    | some d =>
      if d.round.isSome then .wait s
      else match d.st with
        | .n => .ok (s.hitDir line false) ()
        | .w => .wait s
        | .e .. => .wait s
        | .k holder tail _ _ poison => if holder.isNone && poison && tail.isNone then .ok (s.hitDir line false) () else .wait s
        | .g _ true => .wait s
        | .g gs false =>
          match s.recallG line gs with
          | none => .wait s
          | some s =>
            let s := s.settle
            match s.dirOf line with
            | some e => if e.st == DState.n then .ok (s.hitDir line false) () else .wait s
            | none => .ok s ()
/-- A doubleword read at its home. -/
def State.wordAtHome (s : State) (pa : Nat) : Ans Nat := (s.readyAtHome (pa / 128)).bind fun s _ => .ok s (s.mem.readN pa 8)
/-- A write of an agent that no core's counter holds (R269, R276, R406). -/
def State.engineWriteAs (agent : Nat) (s : State) (pa n v : Nat) : State :=
  (linePieces pa n).foldl (fun s p => s.request
    { core := agent, line := p.1 / 128, req := .write p.1 p.2.1 (v / 2 ^ (8 * p.2.2) % 2 ^ (8 * p.2.1)) false false }) s
/-- A write of the card's own engines. -/
def State.engineWrite (s : State) (pa n v : Nat) : State := s.engineWriteAs 1026 pa n v
/-- A write of the dispatcher of set n. -/
def State.dispatcherWrite (s : State) (n pa len v : Nat) : State := s.engineWriteAs (dispatcherAgent n) pa len v

end Sys2Proof.Machine
end

