-- ==== Sys2Proof/Machine/Xlate.lean ====
section
/-! DEFINITION. Translation (16 R353 to R366): the ASID table, the walk, the caches, the cell window (01 R31), and the checks a
physical address meets (01 R26 to R30, 07 R158, 16 R357, R374). -/
namespace Sys2Proof.Machine

/-! ### Leaves -/

/-- Bit n of a word held as a number. -/
def bitAt (v n : Nat) : Bool := v / 2 ^ n % 2 == 1
/-- The page size of a leaf by level and SPAN (R356), and the number of entries of its run; none is FORMAT. -/
def pageSize (level span : Nat) : Option (Nat × Nat) :=
  if level == 1 && span == 0 then some (2 ^ 30, 1)
  else if level == 1 && span == 2 then some (2 ^ 33, 8)
  else if level == 2 && span == 0 then some (2 ^ 21, 1)
  else if level == 2 && span == 1 then some (2 ^ 25, 16)
  else if level == 3 && span == 0 then some (2 ^ 12, 1)
  else if level == 3 && span == 1 then some (2 ^ 16, 16)
  else none
/-- An entry has a nonzero reserved field: [63:48], [11:10], and SPAN in one that is no leaf (R355). -/
def reservedEntry (e : Nat) : Bool := e / 2 ^ 48 != 0 || e / 2 ^ 10 % 4 != 0 || (!bitAt e 1 && e / 2 ^ 8 % 4 != 0)
/-- The cached form of a leaf (R355, R358). -/
def leafXlat (asid va e size : Nat) : Xlat :=
  { asid := asid, va := va % 2 ^ 48 / size * size, size := size, pa := e / 2 ^ 12 % 2 ^ 36 * 2 ^ 12, r := bitAt e 2, w := bitAt e 3,
    x := bitAt e 4, u := bitAt e 5, dx := bitAt e 7, host := bitAt e 6 }
/-- The format checks of a leaf: step 1 of R357, and its size and alignment (R356). SVM is that of the ASID entry. -/
def leafFormat (svm : Bool) (x : Xlat) : Bool :=
  (!x.r && x.w) || (!x.host && (x.pa % x.size != 0 || (x.pa / 2 ^ 45 % 4 == 1 && x.u))) || (x.host && !svm)
/-- What a leaf permits (R357 steps 2 to 5), at user level or above. -/
def Xlat.permits (x : Xlat) (acc : Access) (user : Bool) : Bool :=
  if user && !x.u then false
  else match acc with
    | .read => x.r
    | .write => x.w
    | .exec => x.x && !x.host && (user || !x.u)
/-- A cached page holds an address. -/
def Xlat.holds (x : Xlat) (asid va : Nat) : Bool := x.asid == asid && decide (x.va ≤ va) && decide (va < x.va + x.size)

/-! ### The walk -/

/-- The slice that takes a miss for an address (R358). -/
def stcSlice (p : Paddock) (asid va : Nat) : Nat :=
  sliceAt p (va / 2 ^ 21 % 2 ^ 16 ^^^ va / 2 ^ 37 % 2 ^ 11 ^^^ asid)
/-- An ASID entry enters a slice's cache of 16 (R359); the oldest goes (log entry 13). -/
def Paddock.fillAsid (p : Paddock) (slice asid w0 w1 : Nat) : Paddock :=
  let own := p.asidCache.filter fun e => e.1 == slice && e.2.1 != asid
  { p with asidCache := (slice, asid, BitVec.ofNat 64 w0, BitVec.ofNat 64 w1) :: own.take 15 ++ p.asidCache.filter (·.1 != slice) }
/-- The ASID entry of R353: its two words, by the cache of the slice that walks or the paddock's table; the dispatcher, which walks for no
slice, reads the table. V = 0 is ASID, a nonzero reserved field or a table outside the paddock's HBM is FORMAT. -/
def asidEntry (s : State) (n asid : Nat) (slice : Option Nat) : Ans (Except PageKind (Nat × Nat)) :=
  let p := s.pad n
  let check (s : State) (w0 w1 : Nat) : Ans (Except PageKind (Nat × Nat)) :=
    if !bitAt w0 63 || asid == 0 then .ok s (.error .asid)
    else if w0 / 2 ^ 36 % 64 != 0 || w1 / 2 ^ 48 != 0 || w1 % 2 ^ 28 != 0 then .ok s (.error .format)
    else .ok s (.ok (w0, w1))
  match p.asidCache.find? fun e => some e.1 == slice && e.2.1 == asid with
  | some (_, _, w0, w1) => check s w0.toNat w1.toNat
  | none =>
    let base := p.asidtb.toNat / 2 ^ 20 % 2 ^ 28 * 2 ^ 20
    if p.asidtb.toNat % 2 == 0 then .ok s (.error .asid)
    else if !(base / 2 ^ 47 == s.link.card && base / 2 ^ 45 % 4 == 0 && p.stackMask.getLsbD (stackOf base)) then .ok s (.error .format)
    else (s.wordAtHome (base + 16 * asid)).bind fun s w0 => (s.wordAtHome (base + 16 * asid + 8)).bind fun s w1 =>
      (check s w0 w1).bind fun s r => match r with
        | .ok _ => .ok (match slice with | some k => s.onPad n (·.fillAsid k asid w0 w1) | none => s) r
        | .error k => .ok s (.error k)
/-- SVM as the walk reads it: 0 unless the feature is accepted (R436). -/
def svmOf (s : State) (w0 : Nat) : Bool := bitAt w0 62 && s.cardFeature 7
/-- The entries of a run as they stand in memory. -/
def runEntries (m : Memory) (first n : Nat) : List Nat := (List.range n).map fun i => m.readN (first + 8 * i) 8
/-- The levels of a walk from `level` on, with `fuel` of them left (R354, R356). The answer is a leaf, or a page fault. -/
def walkLevels (n asid va : Nat) (svm : Bool) : Nat → Nat → Nat → State → Ans (Except PageKind Xlat)
  | 0, _, _, s => .ok s (.error .format)
  | fuel + 1, level, t, s =>
    if !(t / 2 ^ 47 == s.link.card && t / 2 ^ 45 % 4 == 0 && t % 2 ^ 45 < 0x3000000000 && (s.pad n).stackMask.getLsbD (stackOf t)) then
      .ok s (.error .format)
    else
      let ix := va / 2 ^ (39 - 9 * level) % 512
      (s.wordAtHome (t + 8 * ix)).bind fun s e =>
        if !bitAt e 0 then .ok s (.error .notPresent)
        else if reservedEntry e then .ok s (.error .format)
        else if !bitAt e 1 then
          if level == 3 then .ok s (.error .format)
          else walkLevels n asid va svm fuel (level + 1) (e / 2 ^ 12 % 2 ^ 36 * 2 ^ 12) s
        else match pageSize level (e / 2 ^ 8 % 4) with
          | none => .ok s (.error .format)
          | some (size, run) =>
            let first := t + 8 * (ix / run * run)
            let es := runEntries s.mem first run
            let same := es.all (· == e)
            let q := if same then e else es.getD ((Config.runEntry s.tick).val % run) e
            let s := if same then s else s.tock
            if !bitAt q 0 then .ok s (.error .notPresent)
            else if reservedEntry q || !bitAt q 1 then .ok s (.error .format)
            else
              let x := leafXlat asid va q size
              if leafFormat svm x then .ok s (.error .format) else .ok s (.ok x)
/-- Walk of R354 for set n, by a walker of the address's slice. -/
def walk (s : State) (n asid va : Nat) : Ans (Except PageKind (Nat × Xlat)) :=
  (asidEntry s n asid (some (stcSlice (s.pad n) asid va))).bind fun s e => match e with
    | .error k => .ok s (.error k)
    | .ok (w0, _) => (walkLevels n asid va (svmOf s w0) 4 0 (w0 % 2 ^ 36 * 2 ^ 12) s).bind fun s x => match x with
      | .error k => .ok s (.error k)
      | .ok x => .ok s (.ok (w0, x))

/-! ### Translation requests (R358, R359, R363, R364) -/

/-- A translation enters a CTC as its most recent entry (R358). -/
def Core.fillCtc (c : Core) (x : Xlat) : Core := { c with ctc := (x :: c.ctc.filter fun y => !(y.asid == x.asid && y.va == x.va)).take 64 }
/-- The set of an STC in which a page's entry for an address stands: by the page's number, or by the 2 MiB region of a larger page
(R359, log entry 13). -/
def stcSet (x : Xlat) (va : Nat) : Nat := va / min x.size (2 ^ 21) % 128
/-- The STC's translation of an address (R358): in its slice alone. -/
def Paddock.stcHit (p : Paddock) (asid va : Nat) : Option Xlat :=
  (p.stc.find? fun e => e.1 == stcSlice p asid va && e.2.2.holds asid va && e.2.1 == stcSet e.2.2 va).map (·.2.2)
/-- A translation of an address enters its slice's STC of 128 sets of 8 ways as the most recent of its set (R359, log entry 13). -/
def Paddock.fillStc (p : Paddock) (va : Nat) (x : Xlat) : Paddock :=
  let k := stcSlice p x.asid va
  let n := stcSet x va
  let here (e : Nat × Nat × Xlat) : Bool := e.1 == k && e.2.1 == n
  let others := p.stc.filter fun e => here e && !(e.2.2.asid == x.asid && e.2.2.va == x.va)
  { p with stc := (k, n, x) :: others.take 7 ++ p.stc.filter fun e => !here e }
/-- A page fault answers a core's request. -/
def State.xlatFault (s : State) (k va : Nat) (f : PageKind) : State :=
  if 1024 ≤ k then s else s.onCore k fun c => { c with xfault := some (va / 4096, f) }
/-- A translation answers a core's request: its permission is checked, and the caches are filled (R357, R359). -/
def State.xlatAnswer (s : State) (r : XReq) (x : Xlat) : State :=
  if x.permits r.acc r.user then
    (s.onPad (s.core r.core).paddock (·.fillStc r.va x)).onCore r.core (·.fillCtc x)
  else s.xlatFault r.core r.va .permission
/-- A request at its STC slice: a hit answers it, a miss goes to a walker (R358, R359). -/
def State.serveStc (s : State) (r : XReq) : State :=
  match (s.pad (s.core r.core).paddock).stcHit r.asid r.va with
  | some x => s.xlatAnswer r x
  | none => { s with xreqs := s.xreqs ++ [{ r with walking := true }] }
/-- A host leaf: an ATS request of set n's function for the 4 KiB page, by a core or a dispatcher, unless its own is open already (R363). -/
def State.askHostFor (s : State) (n gen agent asid va : Nat) (acc : Access) (w0 : Nat) (x : Xlat) : State :=
  let page := va / 4096 * 4096
  let pasid := w0 / 2 ^ 42 % 2 ^ 20
  if s.ats.any fun a => a.core == agent && a.asid == asid && a.va == page && a.acc == acc then s
  else
    { s with
      ats := s.ats ++ [{ core := agent, asid := asid, va := page, acc := acc, pset := n, pasid := pasid, stage := 0, index := 0,
                         gen := gen, leaf := { x with va := page, size := 4096 } }],
      out := s.out ++ [.atsRequest (n + 1) pasid page (acc == .write)] }
/-- The same for a core's request. -/
def State.askHost (s : State) (r : XReq) (w0 : Nat) (x : Xlat) : State :=
  s.askHostFor (s.core r.core).paddock (s.core r.core).genNum r.core r.asid r.va r.acc w0 x
/-- What a walk has found, for one of the requests merged onto it (R357, R359, R363). -/
def State.walked (found : Except PageKind (Nat × Xlat)) (s : State) (r : XReq) : State :=
  match found with
  | .error k => s.xlatFault r.core r.va k
  | .ok (w0, x) =>
    if !x.host then s.xlatAnswer r x
    else if !x.permits r.acc r.user then s.xlatFault r.core r.va .permission
    else s.askHost r w0 x
/-- Two requests go to one slice. -/
def sameSlice (s : State) (a b : XReq) : Bool :=
  let n := (s.core a.core).paddock
  n == (s.core b.core).paddock && stcSlice (s.pad n) a.asid a.va == stcSlice (s.pad n) b.asid b.va
/-- Two requests are merged onto one walk: for one page of one paddock (R359). -/
def sameWalk (s : State) (a b : XReq) : Bool := sameSlice s a b && a.asid == b.asid && a.va / 4096 == b.va / 4096
/-- The four walkers of a request's slice are at work for earlier misses of other pages (R359). -/
def walkersBusy (s : State) (i : Nat) (r : XReq) : Bool :=
  4 ≤ ((((s.xreqs.take i).filter fun q => q.walking && sameSlice s q r && !sameWalk s q r).map fun q => (q.asid, q.va / 4096)).eraseDups).length
/-- The translation request at index i served, as its stage asks: at its slice, or by a walker, with every request merged onto its walk. The
walk waits while a table's line is locked or marked (R354). -/
def State.serveXreq (s : State) (i : Nat) : Option State :=
  match s.xreqs[i]? with
  | none => none
  | some r =>
    if !r.walking then some (({ s with xreqs := s.xreqs.eraseIdx i }).serveStc r)
    else if walkersBusy s i r then none
    else match walk s (s.core r.core).paddock r.asid r.va with
      | .ok t found =>
        let merged := s.xreqs.filter fun q => q.walking && sameWalk s q r
        some (merged.foldl (State.walked found) { t with xreqs := s.xreqs.filter fun q => !(q.walking && sameWalk s q r) })
      | .wait t => some t
      | .trap _ _ => none
/-- The newest request served at once, through the STC and the walker, unless requests travel (log entry 6). -/
def State.settleX (s : State) : State :=
  if s.lazy then s
  else
    let go (s : State) : State := match s.serveXreq (s.xreqs.length - 1) with | some s' => s' | none => s
    let s1 := go s
    if s1.xreqs.length < s.xreqs.length then s1 else go s1

/-- The index of a page request that is not sent yet: beyond every index of a function's pool (log entry 77). -/
def unsentIndex : Nat := 512
/-- Two waits are for one page of one function and PASID: they share a page request (R364). -/
def AtsWait.samePage (a b : AtsWait) : Bool := a.pset == b.pset && a.pasid == b.pasid && a.va == b.va
/-- The page request of a wait (R364). -/
def AtsWait.pageRequest (a : AtsWait) (index : Nat) : Out := .pageRequest (a.pset + 1) index a.pasid a.va (a.acc != .write) (a.acc == .write)
/-- The lowest index of a function's pool that no open page request uses. -/
def freeIndex (ats : List AtsWait) (n : Nat) : Nat :=
  (List.range (ats.length + 1)).foldl (fun i _ => if ats.any (fun b => b.stage == 1 && b.pset == n && b.index == i) then i + 1 else i) 0
/-- The host's allocation lets set n's function send one more page request (R364, log entry 77). -/
def pageRoom (s : State) (n : Nat) : Bool :=
  let used := (((s.ats.filter fun b => b.stage == 1 && b.pset == n && b.index != unsentIndex).map (·.index)).eraseDups).length
  used == 0 || (decide (used ≤ (Config.pageRequests n).toNat) && decide (used < unsentIndex))

/-- A wait that the host refuses ends with the page fault HOST-DENIED; a dispatcher's stands refused, for its save area to fault (R277). -/
def State.denyWait (s : State) (a : AtsWait) : State :=
  if (dispatchedSet a.core).isSome then { s with ats := s.ats ++ [{ a with stage := 3 }] } else s.xlatFault a.core a.va .hostDenied
/-- An ATS completion for the wait at index k (R363, R364); where a removal has taken the translation meanwhile, its answer is
discarded (R361). -/
def State.atsAnswer (s : State) (k : Nat) (ans : AtsAnswer) : State :=
  match s.ats[k]? with
  | none => s
  | some a =>
    if a.stage == 1 || a.stage == 3 then s
    else if a.core == 1025 then { s with ats := s.ats.eraseIdx k }
    else
      let rest := { s with ats := s.ats.eraseIdx k }
      let refuse : State :=
        if (s.pad a.pset).priStopped || a.stage == 2 then rest.denyWait a
        else
          let shared := s.ats.find? fun b => b.stage == 1 && b.samePage a
          let ix := match shared with
            | some b => b.index
            | none => if pageRoom s a.pset then freeIndex s.ats a.pset else unsentIndex
          { s with ats := s.ats.set k { a with stage := 1, index := ix },
                   out := if shared.isSome || ix == unsentIndex then s.out else s.out ++ [a.pageRequest ix] }
      match ans with
      | .fault => refuse
      | .granted iova r w =>
        let x := { a.leaf with pa := s.link.card * 2 ^ 47 + 2 ^ 46 + iova % 2 ^ 45 / 4096 * 4096, r := a.leaf.r && r, w := a.leaf.w && w }
        if x.permits a.acc false || (a.leaf.u && x.permits a.acc true) then
          let t := rest.onPad a.pset (·.fillStc a.va x)
          if 1024 ≤ a.core then t else t.onCore a.core (·.fillCtc x)
        else refuse
/-- A wait whose generation has ended (R365): no launch of its set that has started and has not been killed carries it. -/
def State.deadWait (s : State) (a : AtsWait) : Bool :=
  !(s.launches.any fun l => l.pset == a.pset && l.gen == a.gen && l.st != .killed && l.streams.any (·.st != .waiting))
/-- A wait whose waiter has been squashed (R365). -/
def AtsWait.gone (a : AtsWait) : Bool := a.core == 1024
/-- The next page request of set n that waits for room is sent, with an index that none of `old` has; a request whose every waiter has gone
needs no sending (R364, R365). -/
def State.sendPageRequest (s : State) (n : Nat) (old : List AtsWait) : State :=
  let due (a : AtsWait) : Bool := a.stage == 1 && a.pset == n && a.index == unsentIndex
  let s := { s with ats := s.ats.filter fun a => !(due a && (a.gone || s.deadWait a)) }
  match s.ats.find? due with
  | none => s
  | some a =>
    if !pageRoom s n then s
    else
      let ix := freeIndex old n
      { s with ats := s.ats.map fun b => if due b && b.samePage a then { b with index := ix } else b, out := s.out ++ [a.pageRequest ix] }
/-- Every one of some waits ends with the page fault HOST-DENIED. -/
def State.denyWaits (s : State) (waits : List AtsWait) : State := waits.foldl State.denyWait s
/-- A page-request response of set n (R364, R365). -/
def State.priAnswer (s : State) (n index pasid : Nat) (code : PriCode) : State :=
  let mine (a : AtsWait) : Bool := a.stage == 1 && a.pset == n && a.index == index && a.index != unsentIndex && a.pasid == pasid
  if !(s.ats.any mine) then s.onPad n fun p => { p with priStray := if p.priStray == BitVec.allOnes 32 then p.priStray else p.priStray + 1 }
  else
    let live := (s.ats.filter mine).filter fun a => !s.deadWait a
    let rest := { s with ats := s.ats.filter fun a => !mine a }
    if live.isEmpty then rest.sendPageRequest n s.ats
    else match code with
      | .success =>
        ({ s with ats := (s.ats.filter fun a => !(mine a && (a.gone || s.deadWait a))).map fun a => if mine a then { a with stage := 2 } else a,
                  out := s.out ++ (live.filter fun (a : AtsWait) => !a.gone).map fun (a : AtsWait) => Out.atsRequest (n + 1) pasid a.va (a.acc == Access.write)
          }).sendPageRequest n s.ats
      | .invalid => (rest.denyWaits live).sendPageRequest n s.ats
      | .failure =>
        let mineAll (a : AtsWait) : Bool := a.stage == 1 && a.pset == n
        (({ s with ats := s.ats.filter fun a => !mineAll a }).denyWaits (s.ats.filter fun a => mineAll a && !s.deadWait a)).onPad n
          fun p => { p with priStopped := true }

/-! ### Where an address leads -/

/-- What an address leads to. -/
structure Phys where
  pa : Nat
  /-- The page, if one translated it. -/
  leaf : Option Xlat
  /-- Reached through the cell window. -/
  window : Bool
  deriving DecidableEq, Repr

/-- The master cell of a set (R367), by cell number. -/
def masterCell (n : Nat) : Nat :=
  if n == 0 then 0x00 else if n == 1 then 0x60 else if n == 2 then 0x08 else if n == 3 then 0x68 else if n == 4 then 0x07
  else if n == 5 then 0x0F else 0xBF
/-- The cell that holds the link windows (R374). -/
def windowCell : Nat := 0x4F
/-- An access to a control block's byte that is kept from a supervisor of set m (R357, R368, R374). -/
def controlDenied (s : State) (m cell off : Nat) : Bool :=
  7 ≤ m || !(s.pad m).cmask.getLsbD cell
  || (cell == windowCell && decide (0xF1000 ≤ off) && decide (off < 0xF1080))
  || (decide (0xFC000 ≤ off) && (List.range 7).any fun n => masterCell n == cell && (n != m || !(s.pad n).active))
/-- The checks of a physical address for the moving core (R26 to R30, R158, R357, R374); `kind` is 0 for a read, 1 a write, 2 an
AMO or reduction. An address that names the other card meets R30's cases in their order: with no trained link it is LINK-ABSENT, its
region 0b10 and 0b11 included (DESIGN CHOICE, log entry 67). -/
def physCheck (s : State) (pa kind : Nat) : Option AccessKind :=
  if pa / 2 ^ 47 % 2 != s.link.card then
    if !s.link.up then some .linkAbsent
    else if pa / 2 ^ 45 % 4 == 2 || !windowPermits s.peerWindows.toList (if s.me.level == 3 then 7 else s.me.tag) pa kind then some .linkWindow
    else match s.placeOf pa with | .error k => some k | .ok _ => none
  else match s.placeOf pa with
    | .error k => some k
    | .ok .localHbm => if s.me.level == 3 || (s.pad s.me.paddock).stackMask.getLsbD (stackOf pa) then none else some .paddock
    | .ok (.scratch cell) => if s.me.level == 3 || (s.pad s.me.paddock).cmask.getLsbD cell then none else some .paddock
    | .ok (.control cell off) =>
      if absentDie s (.control cell off) (pa / 128) then some .dieAbsent
      else if s.me.level == 3 || !controlDenied s s.me.paddock cell off then none else some .paddock
    | .ok _ => none

/-- The launch of the moving core, with its window's base (R31, R353). -/
def State.windowBase (s : State) : Option Word := if s.me.launch.isSome then some s.me.cwin else none
/-- An address of the cell window resolved as the NI does (R31): rx, ry and offset in range. -/
def windowPa (s : State) (va : Word) : Except AccessKind Nat :=
  let d := (va - s.me.cwin).toNat
  let rx := d / 2 ^ 20 % 16
  let ry := d / 2 ^ 24 % 16
  let off := d % 2 ^ 20
  match s.launchOfCore s.me.id with
  | none => .error .window
  | some l =>
    if l.width ≤ rx || l.height ≤ ry || 0x60000 ≤ off then .error .window
    else match l.stream rx ry with
      | none => .error .window
      | some t => .ok (s.cellPa (t.core % 256) off)
/-- An address lies in the moving core's window. -/
def inWindow (s : State) (va : Word) : Bool := match s.windowBase with | some b => decide ((va - b).toNat < 2 ^ 28) | none => false

/-- The page that holds an address, for an access of the moving core at user level or not: by the CTC, else by a request. A write to a page of the
host that is cached without the host's W is refused with no new request (DESIGN CHOICE, log entry 85). -/
def State.pageOf (s : State) (va : Word) (acc : Access) (user : Bool) : Ans (Except PageKind Xlat) :=
  let v := va.toNat % 2 ^ 48
  let find (s : State) : Option (Ans (Except PageKind Xlat)) :=
    match s.me.ctc.find? (·.holds s.me.asid v) with
    | some x =>
      let s := s.onMe (·.fillCtc x)
      some (if x.permits acc user then .ok s (.ok x) else .ok s (.error .permission))
    | none => match s.me.xfault with
      | some (p, k) => if p == v / 4096 then some (.ok (s.onMe fun c => { c with xfault := none }) (.error k)) else none
      | none => none
  match find s with
  | some a => a
  | none =>
    let open_ := (s.xreqs.any fun r => r.core == s.me.id && r.va == v && r.acc == acc)
      || s.ats.any fun a => a.core == s.me.id && a.va == v / 4096 * 4096 && a.acc == acc
    let s := if open_ then s
      else { s with xreqs := s.xreqs ++ [{ core := s.me.id, asid := s.me.asid, va := v, acc := acc, user := user, walking := false }] }
    let s := s.settleX
    match find s with
    | some a => a
    | none => .wait s

/-- The page fault that an access of the moving core meets, if any (R318): the cell window and machine level consult no page table. -/
def State.leafOf (s : State) (va : Word) (kind row : Nat) : Ans Unit :=
  if s.me.level == 3 then .ok s ()
  else if (va.setWidth 48).signExtend 64 != va then .trap s (pageTrap .notPresent va row)
  else if inWindow s va then .ok s ()
  else (s.pageOf va (if kind == 1 || kind == 3 then .write else .read) (s.me.level == 0)).bind fun s x => match x with
    | .error k => .trap s (pageTrap k va row)
    | .ok _ => .ok s ()
/-- An access of the moving core by address: the window, or the page tables, or at machine level the physical address itself
(R31, R354, R357, R381). The physical checks are those of R26 to R30, R158 and R357. `kind` as for `physCheck`, and 3 for a reduction;
an AMO needs R and W. EVA is the virtual address. -/
def State.translate (s : State) (va : Word) (kind row : Nat) : Ans Phys :=
  if s.me.level == 3 then
    if va.toNat / 2 ^ 48 != 0 then .trap s (accessTrap .physHole va row)
    else match physCheck s va.toNat kind with
      | some k => .trap s (accessTrap k va row)
      | none => .ok s { pa := va.toNat, leaf := none, window := false }
  else if (va.setWidth 48).signExtend 64 != va then .trap s (pageTrap .notPresent va row)
  else if inWindow s va then
    match windowPa s va with
    | .error k => .trap s (accessTrap k va row)
    | .ok pa => .ok s { pa := pa, leaf := none, window := true }
  else
    let user := s.me.level == 0
    let second (s : State) (x : Xlat) : Ans Phys :=
      let pa := x.pa + va.toNat % x.size
      match physCheck s pa kind with
      | some k => .trap s (accessTrap k va row)
      | none => .ok s { pa := pa, leaf := some x, window := false }
    (s.pageOf va (if kind == 1 || kind == 3 then .write else .read) user).bind fun s x => match x with
      | .error k => .trap s (pageTrap k va row)
      | .ok x =>
        if kind != 2 then second s x
        else (s.pageOf va .write user).bind fun s y => match y with
          | .error k => .trap s (pageTrap k va row)
          | .ok y => second s y

/-! ### Instruction fetch -/

/-- The FETCH fault (R145, R385): kind is a PAGE code, or 16 plus an ACCESS code. -/
def fetchTrap (kind : Nat) (va : Word) : Trap := { cause := 0x0D, kind := kind, code := 0, va := va, row := 0 }
/-- The place of a code word for the moving core, or the FETCH fault. A yard controller's code lies in its SRAM of 512 KiB (R32, log
entry 10). -/
def State.fetchPlace (s : State) (va : Word) : Ans Nat :=
  if s.me.level == 3 then
    if va.toNat < 0x80000 then .ok s va.toNat else .trap s (fetchTrap (16 + AccessKind.physHole.code) va)
  else if (va.setWidth 48).signExtend 64 != va then .trap s (fetchTrap PageKind.notPresent.code va)
  else if inWindow s va then .trap s (fetchTrap (16 + AccessKind.window.code) va)
  else (s.pageOf va .exec (s.me.level == 0)).bind fun s x => match x with
    | .error k => .trap s (fetchTrap k.code va)
    | .ok x =>
      let pa := x.pa + va.toNat % x.size
      match physCheck s pa 0 with
      | some k => .trap s (fetchTrap (16 + k.code) va)
      | none => .ok s pa
/-- A line of local HBM whose stack cannot be reached is handled as poisoned (R400). -/
def State.lineCut (s : State) (line : Nat) : Bool := s.stackCut line && s.placeOf (line * 128) matches .ok .localHbm
/-- The code word at an address (R42): old or new where it was stored to since the stream started. A poisoned word traps as it is read
(R393). -/
def State.codeWord (s : State) (va : Word) : Ans (BitVec 32) :=
  (s.fetchPlace va).bind fun s pa =>
    if s.me.level != 3 && (s.badWords.contains (pa / 8) || s.lineCut (pa / 128)) then .trap s (lateTrap .memory (va &&& ~~~7) 0)
    else if s.me.level == 3 then .ok s (BitVec.ofNat 32 (s.me.sram.readN pa 4))
    else
      let new := s.mem.readN pa 4
      match s.me.code.find? (·.1 == pa) with
      | none => .ok s (BitVec.ofNat 32 new)
      | some (_, old) =>
        if old == new then .ok s (BitVec.ofNat 32 new)
        else .ok s.tock (BitVec.ofNat 32 (if Config.fetchOld s.tick then old else new))

/-! ### Shoot-down (R360, R361, R366) -/

/-- A cached page that the selection names. -/
def XSel.hits (sel : XSel) (x : Xlat) : Bool :=
  match sel with
  | .range a lo hi => x.asid == a && decide (x.va < hi) && decide (lo < x.va + x.size)
  | .asid a => x.asid == a
  | .all => true
/-- The set and the ASID of an all-reduce: its launch's, wherever its stream stands. -/
def aredSpace (s : State) (a : Ared) : Nat × Nat :=
  match s.launchOf a.launch with
  | some l => (l.pset, recField l.record 48 16)
  | none => ((s.core a.core).paddock, (s.core a.core).asid)
/-- A copy or all-reduce of a core of set n that uses a selected translation is outstanding (R253, R360). Which of its pages a range
names is not told apart. -/
def engineUses (s : State) (n : Nat) (sel : XSel) : Bool :=
  let taken (asid : Nat) : Bool := match sel with
    | .range a lo hi => asid == a && decide (lo < hi)
    | .asid a => asid == a
    | .all => true
  (s.jobs.any fun j => (s.core j.core).paddock == n && taken j.asid)
  || s.areds.any fun a => (aredSpace s a).1 == n && taken (aredSpace s a).2

end Sys2Proof.Machine
end

