-- ==== Sys2Proof/Machine/Ni.lean ====
section
/-! DEFINITION. The network interface: messages, slots, the loft, tasks, thefts and group episodes (10 R246 to R250, 12 R281 to
R292, R294, R295, R445, 18 R397). -/
namespace Sys2Proof.Machine

/-! ### The loft ring (R247 to R249, R397) -/

/-- The loft's size in bytes. -/
def Core.loftBytes (c : Core) : Nat := c.loftSize * 1024
/-- The bytes of the ring that records occupy, taken ones not yet reclaimed included (R247). -/
def Core.loftSpan (c : Core) : Nat :=
  match c.loft with
  | [] => 0
  | r :: _ => (c.loftTail + c.loftBytes - r.place - 1) % c.loftBytes + 1
/-- Free bytes of the ring. -/
def Core.loftFree (c : Core) : Nat := c.loftBytes - c.loftSpan
/-- The physical address of a byte of core k's ring. -/
def loftPa (s : State) (c : Core) (pos : Nat) : Nat := s.cellPa (c.id % 256) (0x60000 - c.loftBytes + pos % c.loftBytes)
/-- n bytes at a place of the ring, which wraps. -/
def loftRead (s : State) (c : Core) (pos n : Nat) : Nat :=
  packBits 8 ((List.range n).map fun i => (s.mem.read (loftPa s c (pos + i))).toNat)
/-- n bytes written at a place of the ring. -/
def loftWrite (s : State) (c : Core) (pos n v : Nat) : State :=
  (List.range n).foldl (fun (s : State) i => s.place (loftPa s c (pos + i)) 1 (v / 256 ^ i % 256)) s
/-- A message's record (R248): its length and its bytes. A branded completion or grant carries its scope as a SENDB does, since its receipt
asks for it (R191, R250, log entry 70). -/
def msgRecord (m : Msg) : Nat × Nat :=
  match m.brand with
  | none => (16, 1 * 2 ^ 56 + 16 * 2 ^ 32 + m.sender % 512 * 2 ^ 12 + m.slot % 32 + m.value.toNat * 2 ^ 64)
  | some b => (144, 2 * 2 ^ 56 + 144 * 2 ^ 32 + m.sender % 512 * 2 ^ 12 + m.scope.code * 2 ^ 8 + m.slot % 32 + m.value.toNat * 2 ^ 64
      + b.toNat * 2 ^ 128)
/-- A task's record (R248, R284). -/
def taskRecord (t : Task) : Nat × Nat :=
  match t.brand with
  | none => (40, 3 * 2 ^ 56 + 40 * 2 ^ 32 + t.sender * 2 ^ 12 + t.record.toNat * 2 ^ 64)
  | some b => (160, 3 * 2 ^ 56 + 160 * 2 ^ 32 + t.sender * 2 ^ 12 + t.scope.code * 2 ^ 8 + t.record.toNat * 2 ^ 64 + b.toNat * 2 ^ 320)
/-- Whether the bytes of a record make it a task: KIND alone decides (R248). -/
def loftIsTask (s : State) (c : Core) (r : LoftRec) : Bool := loftRead s c (r.place + 7) 1 == 3
/-- A held record read back from whatever stands in its bytes (R248); of SCOPE's four bits the low two name the scope (log entry 70). -/
def loftDecode (s : State) (c : Core) (r : LoftRec) : Sum Msg Task :=
  let h := loftRead s c r.place 8
  let kind := h / 2 ^ 56
  let len := h / 2 ^ 32 % 4096
  let sc := Scope.ofCode (h / 2 ^ 8 % 4)
  if kind == 3 then
    let branded := len == 160
    .inr { record := BitVec.ofNat 256 (loftRead s c (r.place + 8) 32), restarted := r.restarted, snapLen := r.snapLen, snap := r.snap,
           scope := if branded then sc else .core,
           brand := if branded then some (BitVec.ofNat 960 (loftRead s c (r.place + 40) 120)) else none, owner := r.owner, seq := r.seq,
           numbered := true }
  else
    let branded := kind == 2 && len == 144
    .inl { slot := h % 32, value := BitVec.ofNat 64 (loftRead s c (r.place + 8) 8), sender := r.sender,
           scope := if branded then sc else .core,
           brand := if branded then some (BitVec.ofNat 960 (loftRead s c (r.place + 16) 120)) else none }
/-- Records still held. -/
def heldRecords (c : Core) : List LoftRec := c.loft.filter fun r => !r.gone
/-- The words of a record of the loft that are poisoned, by their place in it: such a record is not taken out, and what is behind it of its kind waits
(R394; DESIGN CHOICE, log entry 92). -/
def loftBad (s : State) (c : Core) (r : LoftRec) : List Nat :=
  if s.badWords.isEmpty then [] else (List.range ((r.len + 7) / 8)).filter fun i => s.badWords.contains (loftPa s c (r.place + 8 * i) / 8)
/-- The loft holds a record of a kind. -/
def loftHas (s : State) (c : Core) (task : Bool) : Bool := (heldRecords c).any fun r => loftIsTask s c r == task
/-- Space before the oldest held record is reclaimed (R247), and the trap armed again above 2 KiB free (R397). -/
def Core.reclaim (c : Core) : Core :=
  let c := { c with loft := c.loft.dropWhile (·.gone) }
  if 2048 < c.loftFree then { c with loftArmed := true } else c
/-- A record written at the ring's tail; none if the reserve has no room (R249). Filling the loft makes the overflow trap
pending once (R397). -/
def loftPut (s : State) (k n v : Nat) (r : LoftRec) : Option State :=
  let c := s.core k
  if c.loftFree < n then none
  else
    let s := loftWrite s c c.loftTail n v
    let c := { s.core k with loft := c.loft ++ [{ r with place := c.loftTail, len := n, gone := false }],
                             loftTail := (c.loftTail + n) % c.loftBytes }
    let c := if c.loftFree < 1024 && c.loftArmed && c.run != .halted then { c with loftArmed := false, asyncs := c.asyncs ++ [.overflow] } else c
    some (s.setCore c)
/-- A held record marked as taken. -/
def Core.takeRecord (c : Core) (place : Nat) : Core :=
  { c with loft := c.loft.map fun (r : LoftRec) => if r.place == place && !r.gone then { r with gone := true } else r }.reclaim

/-! ### Slots and queues (R247, R285) -/

/-- A message put into its empty slot, which is written whole (R394). -/
def Core.fillSlot (c : Core) (m : Msg) : Core :=
  { c.clean (.mbox (m.slot % 32)) with mbox := c.mbox.set (Fin.ofNat 32 m.slot) { value := m.value, present := true, scope := m.scope, brand := m.brand } }
/-- A slot is empty. -/
def Core.slotEmpty (c : Core) (m : Nat) : Bool := !(c.mbox[Fin.ofNat 32 m]).present
/-- Each empty slot takes its oldest queued message (R247). -/
def Core.refill (c : Core) : Core :=
  (List.range 32).foldl (fun (c : Core) m =>
    if c.slotEmpty m then
      match c.arrivals.find? (·.slot == m) with
      | some x => { c.fillSlot x with arrivals := c.arrivals.eraseP (·.slot == m) }
      | none => c
    else c) c
/-- One lofted record of a kind moved to its queue, if the queue has room (R247, R285). -/
def loftMoveOne (s : State) (k : Nat) (task : Bool) : Option State :=
  let c := s.core k
  if !c.lofting && (if task then c.taskQueue.length else c.arrivals.length) < 64 then
    match (heldRecords c).find? fun r => loftIsTask s c r == task with
    | none => none
    | some r =>
      let c' := c.takeRecord r.place
      if !(loftBad s c r).isEmpty then none
      else match loftDecode s c r with
      | .inl m => some (s.setCore { c' with arrivals := c'.arrivals ++ [m] }.refill)
      | .inr t => some (s.setCore { c' with taskQueue := c'.taskQueue ++ [t] })
  else none
/-- Lofted records moved until none can. -/
def loftMoves (k : Nat) : Nat → State → State
  | 0, s => s
  | fuel + 1, s => match loftMoveOne s k false with
    | some s' => loftMoves k fuel s'
    | none => match loftMoveOne s k true with
      | some s' => loftMoves k fuel s'
      | none => s
/-- The NI's own moves after a change: slots refilled, and lofted records moved unless moves wait for the agenda (log entry 6). -/
def State.niSettle (s : State) (k : Nat) : State :=
  let s := s.setCore (s.core k).refill
  if s.lazy then s else loftMoves k ((s.core k).loft.length + 1) s
/-- A loft record's account before it is placed. -/
def plainRec : LoftRec :=
  { task := false, place := 0, len := 0, gone := false, owner := 0, seq := 0, restarted := false, snapLen := 0, snap := 0 }
/-- A message at its receiving NI: into the slot, the queue or the loft, or refused (R247, R249). -/
def placeMsg (s : State) (k : Nat) (m : Msg) : Option State :=
  let c := s.core k
  if c.lofting || loftHas s c false then
    (loftPut s k (msgRecord m).1 (msgRecord m).2 { plainRec with sender := m.sender }).map (·.niSettle k)
  else if c.slotEmpty m.slot then some (s.setCore (c.fillSlot m))
  else if c.arrivals.length < 64 then some (s.setCore { c with arrivals := c.arrivals ++ [m] })
  else (loftPut s k (msgRecord m).1 (msgRecord m).2 { plainRec with sender := m.sender }).map (·.niSettle k)
/-- A message at its receiving NI, at its logged point (R422). -/
def deliverMsg (s : State) (k : Nat) (m : Msg) : Option State :=
  match placeMsg s k m with
  | none => none
  | some s' => s'.logArrival k m.sender m.slot false
/-- A task into the queue or the loft of a core (R285), its owner and place already given. -/
def enqueueTask (s : State) (k : Nat) (t : Task) : Option State :=
  let c := s.core k
  if c.taskQueue.length < 64 && !c.lofting && !loftHas s c true then some (s.setCore { c with taskQueue := c.taskQueue ++ [t] })
  else
    (loftPut s k (taskRecord t).1 (taskRecord t).2
      { plainRec with task := true, owner := t.owner, seq := t.seq, restarted := t.restarted, snapLen := t.snapLen, snap := t.snap }).map
      (·.niSettle k)
/-- Streams of a launch whose RECVT has visited a whole ring begin again when a task arrives in their group (R287). -/
def State.wakeSearch (s : State) (launch rx ry : Nat) : State :=
  let wake (c : Core) : Core :=
    match c.search with
    | some (_, g) =>
      if c.launch == some launch && decide (g.gx ≤ rx) && decide (rx < g.gx + g.gw) && decide (g.gy ≤ ry) && decide (ry < g.gy + g.gh)
        && c.granted.isNone then { c with search := none } else c
    | none => c
  { s with me := wake s.me, cores := s.cores.map wake }
/-- A task at a stream's NI: it is numbered as it first enters a queue (R285, R288); one that is moved keeps its owner and its place (R279,
R399). -/
def deliverTask (s : State) (k launch : Nat) (t : Task) : Option State :=
  let c := s.core k
  let fresh := !t.numbered
  let t := if fresh then { t with owner := c.ry * 16 + c.rx, seq := c.taskSeq, numbered := true } else t
  match (enqueueTask s k t).bind fun s => s.logArrival k t.sender 0 true with
  | none => none
  | some s =>
    let s := if fresh then s.onCore k fun c => { c with taskSeq := c.taskSeq + 1, openTasks := c.openTasks ++ [t.seq] } else s
    some (s.wakeSearch launch c.rx c.ry)

/-! ### Save frames (R278, R279) -/

/-- The virtual address of a stream's save frame (R278). -/
def Launch.frame (l : Launch) (rx ry : Nat) : Nat := recField l.record 148 28 * 2 ^ 20 + (ry * 16 + rx) * 2 ^ 20
/-- A byte of a save area in a page that the host translates (R363): by its slice's translation, or by an ATS request of the set's function. -/
def hostFrame (s : State) (l : Launch) (w0 : Nat) (x : Xlat) (va : Nat) : Ans (Option Nat) :=
  match (s.pad l.pset).stcHit x.asid va with
  | some y => .ok s (if y.w && !y.u then some (y.pa + va % y.size) else none)
  | none =>
    let agent := dispatcherAgent l.pset
    if s.ats.any fun a => a.core == agent && a.stage == 3 && a.gen == l.gen && a.va == va / 4096 * 4096 then .ok s none
    else .wait (s.askHostFor l.pset l.gen agent x.asid va .write w0 x)
/-- The place of a byte of a save area for the dispatcher that writes it: mapped writable with U = 0 (R278, R373), in the host's memory, the
paddock's stacks (R372) or the peer's HBM (R374); none where its page faults. A walk that meets a held line waits (R354). -/
def framePlace (s : State) (l : Launch) (va : Nat) : Ans (Option Nat) :=
  let v := va % 2 ^ 48
  (walk s l.pset (recField l.record 48 16) v).bind fun t found => match found with
    | .error _ => .ok t none
    | .ok (w0, x) =>
      let pa := x.pa + v % x.size
      if !x.w || x.u then .ok t none
      else if x.host then hostFrame t l w0 x v
      else match t.placeOf pa with
        | .ok .localHbm => .ok t (if (t.pad l.pset).stackMask.getLsbD (stackOf pa) && !absentDie t .localHbm (pa / 128) then some pa else none)
        | .ok .host => .ok t (some pa)
        | .ok .peerHbm => .ok t (if t.link.up && windowPermits t.peerWindows.toList 7 pa 1 then some pa else none)
        | _ => .ok t none
/-- The physical address of a byte of a save area, where it is known. -/
def framePa (s : State) (l : Launch) (va : Nat) : Option Nat := match framePlace s l va with | .ok _ pa => pa | _ => none
/-- The state in which the first page of n bytes of a save area waits, if one does. -/
def frameWait (s : State) (l : Launch) (va n : Nat) : Option State :=
  (splitAt 4096 va n (n / 4096 + 2) 0).findSome? fun p => match framePlace s l p.1 with | .wait t => some t | _ => none
/-- n bytes written into a save area; none where a page faults or has to wait. -/
def frameWrite (s : State) (l : Launch) (va n v : Nat) : Option State :=
  (splitAt 4096 va n (n / 4096 + 2) 0).foldl (fun (o : Option State) p =>
    match o with
    | none => none
    | some s => match framePa s l p.1 with
      | none => none
      | some pa => some (s.dispatcherWrite l.pset pa p.2.1 (v / 256 ^ p.2.2 % 256 ^ p.2.1))) (some s)
/-- n bytes read from a save area. -/
def frameRead (s : State) (l : Launch) (va n : Nat) : Option Nat :=
  (splitAt 4096 va n (n / 4096 + 2) 0).foldl (fun (o : Option Nat) p =>
    match o with
    | none => none
    | some v => match framePa s l p.1 with
      | none => none
      | some pa => some (v + s.mem.readN pa p.2.1 * 256 ^ p.2.2)) (some 0)
/-- The record of a late arrival. -/
def lateRecord : Sum Msg Task → Nat × Nat
  | .inl m => msgRecord m
  | .inr t => taskRecord t
/-- Bytes of a late ring in use. -/
def lateBytes (ls : List (Sum Msg Task)) : Nat := ls.foldl (fun n r => n + (lateRecord r).1) 0
/-- Where the next late arrival of a stream goes in its frame. -/
def latePlace (l : Launch) (t : Stream) : Nat := l.frame t.rx t.ry + 0xE0000 + lateBytes t.late
/-- An arrival for a saved stream appended to its late ring, or refused when the ring is full, and while its page waits (R279). A page that faults
makes it a save that faults: the launch ends so (R277). -/
def lateAppend (s : State) (l : Launch) (t : Stream) (r : Sum Msg Task) : Option State :=
  let n := (lateRecord r).1
  if 0x20000 < lateBytes t.late + n then none
  else match frameWrite s l (latePlace l t) n (lateRecord r).2 with
    | some s => some (s.onLaunch l.id fun l => l.onStream t.rx t.ry fun t => { t with late := t.late ++ [r] })
    | none => match frameWait s l (latePlace l t) n with
      | some _ => none
      | none => some (s.onLaunch l.id fun l => { l with saveFault := true })

/-! ### Packets of the NIs -/

/-- The entry of a sender's counter released (R176, R249). -/
def State.uncount (s : State) (c : Option Nat) : State :=
  match c with | some k => s.onCore k fun c => { c with others := c.others - 1 } | none => s
/-- A message or task of a running or halted stream's NI (R295). -/
def placeAtNi (s : State) (launch : Nat) (t : Stream) (r : Sum Msg Task) : Option State :=
  match r with
  | .inl m =>
    if t.st == .halted then some (s.onLaunch launch fun l => { l with dropped := min (l.dropped + 1) 0xFFFF }) else deliverMsg s t.core m
  | .inr x => deliverTask s t.core launch x
/-- The late ring's records taken by the new NI in ring order, behind the loft's saved records, as far as it has room (R279). -/
def drainLate (launch rx ry : Nat) : Nat → State → State
  | 0, s => s
  | fuel + 1, s => match (s.launchOf launch).bind fun l => l.stream rx ry with
    | none => s
    | some t => match t.late with
      | [] => s
      | r :: rest => match placeAtNi s launch t r with
        | none => s
        | some s => drainLate launch rx ry fuel (s.onLaunch launch fun l => l.onStream rx ry fun t => { t with late := rest })
/-- A message or task at a stream of a launch: none if it is refused (R279, R293 to R295, R445). It follows what its late ring still holds. -/
def arriveAt (s : State) (launch rx ry : Nat) (r : Sum Msg Task) : Option State :=
  if launch == 0 then (match r with | .inl m => deliverMsg s rx m | .inr _ => some s)
  else match s.launchOf launch with
    | none => some s
    | some l =>
      if l.st == .killed then some s
      else match l.stream rx ry with
        | none => some s
        | some t => match t.st, r with
          | .saved, r => lateAppend s l t r
          | .live, r => if t.leaving then lateAppend s l t r else if t.late.isEmpty then placeAtNi s launch t r else none
          | .haltedSaved, .inl _ => some (s.onLaunch launch fun l => { l with dropped := min (l.dropped + 1) 0xFFFF })
          | .haltedSaved, r => lateAppend s l t r
          | _, r => if t.late.isEmpty then placeAtNi s launch t r else none
/-- An earlier packet of the same sender for the same receiver: messages to one slot and tasks to one queue keep their order, and one
that is refused holds back what follows it (R193, R249). -/
def heldBack (ps : List NiFlight) (launch rx ry sender : Nat) : Bool :=
  ps.any fun f => match f.pkt with
    | .msg l x y _ m _ => l == launch && x == rx && y == ry && m.sender == sender
    | .task l x y _ t _ => l == launch && x == rx && y == ry && t.sender == sender
    | _ => false
/-- A task's BARF flag (R284). -/
def Task.barf (t : Task) : Bool := bitAt t.record.toNat 0
/-- A victim's tail task taken by a thief, if it has one that may be stolen (R287): the loft's newest, else the queue's. -/
def takeTail (s : State) (k : Nat) : Option (State × Task) :=
  let c := s.core k
  if c.lofting then none
  else match ((heldRecords c).filter fun r => loftIsTask s c r).getLast? with
  | some r => match loftDecode s c r with
    | .inr t => if t.barf || !(loftBad s c r).isEmpty then none else some ((s.setCore (c.takeRecord r.place)).niSettle k, t)
    | .inl _ => none
  | none => match c.taskQueue.getLast? with
    | some t => if t.barf then none else some ((s.setCore { c with taskQueue := c.taskQueue.dropLast }).niSettle k, t)
    | none => none
/-- A core's queue or loft holds a task. -/
def hasTasks (s : State) (c : Core) : Bool := !c.taskQueue.isEmpty || loftHas s c true
/-- The tasks of a task's owning queue that are not done (R288): its owner is the core itself, or another stream of the launch. -/
def ownerOpen (s : State) (c : Core) (t : Task) : List Nat :=
  if t.owner == c.ry * 16 + c.rx then c.openTasks
  else match (c.launch.bind s.launchOf).bind fun l => l.stream (t.owner % 16) (t.owner / 16) with
    | some u => if u.st == .saved || u.st == .haltedSaved then u.openTasks else (s.core u.core).openTasks
    | none => c.openTasks
/-- A task of the queue's head that may start (R288). -/
def startable (s : State) (c : Core) : Option Task :=
  match c.taskQueue with
  | [] => none
  | t :: _ => if t.barf && (ownerOpen s c t).any (· < t.seq) then none else some t
/-- A task's WAIT written as it is taken (R284, R291): a duration, and so free (log entry 7). -/
def Task.stamp (t : Task) (tick : Nat) : Task :=
  { t with record := BitVec.ofNat 256 (setBits t.record.toNat 192 32 (Config.queueWait tick).toNat) }
/-- The k-th victim of a thief's ring (R287): the core of the member at index (own + k) mod size, if it is a stream of the launch
that is not saved, and, when halted, holds a task. -/
def victimOf (s : State) (launch rx ry : Nat) (g : Group) (k : Nat) : Option Nat :=
  match s.launchOf launch with
  | none => none
  | some l =>
    match l.stream (victimPlace rx ry g k).1 (victimPlace rx ry g k).2 with
    | none => none
    | some t =>
      if t.st == .live || t.st == .waiting then some t.core
      else if t.st == .halted && hasTasks s (s.core t.core) then some t.core
      else none

/-! ### Episodes (R281 to R283, R290) -/

/-- An NI packet sent, at its place in the order of sending (R12). -/
def State.postNi (s : State) (p : NiPkt) : State := { s with ni := s.ni ++ [{ pkt := p, seq := s.stamp }], stamp := s.stamp + 1 }
/-- Contributions of one episode. -/
def sameEpisode (a b : Contribution) : Bool := a.launch == b.launch && a.group == b.group && a.episode == b.episode
/-- The identity of an operation (R283). -/
def GroupOp.identity : GroupOp → Nat
  | .bar => 0 | .addI => 0 | .maxI => 2 ^ 63 | .minI => 2 ^ 63 - 1 | .andI => 2 ^ 64 - 1 | .orI => 0 | .addF => 0x80000000
  | .maxF => 0xFF800000 | .minF => 0x7F800000
/-- A node of the combining tree (R283). -/
def GroupOp.node (op : GroupOp) (a b : Nat) : Nat × Flags :=
  match op with
  | .bar => (0, noFlags)
  | .addI => ((a + b) % 2 ^ 64, noFlags)
  | .maxI => (if signedOf 64 a < signedOf 64 b then b else a, noFlags)
  | .minI => (if signedOf 64 b < signedOf 64 a then b else a, noFlags)
  | .andI => (a &&& b, noFlags)
  | .orI => (a ||| b, noFlags)
  | .addF => fp32Add a b
  | .maxF => (maxPattern .fp32 a b, noFlags)
  | .minF => (minPattern .fp32 a b, noFlags)
/-- The members of a group: the streams of the launch inside it. -/
def members (l : Launch) (g : Group) : List Stream :=
  l.streams.filter fun t => decide (g.gx ≤ t.rx) && decide (t.rx < g.gx + g.gw) && decide (g.gy ≤ t.ry) && decide (t.ry < g.gy + g.gh)
/-- The contribution of a stream among an episode's. -/
def contribOf (cs : List Contribution) (rx ry : Nat) : Option Contribution := cs.find? fun c => c.rx == rx && c.ry == ry
/-- An episode's value (R283, R290): the tree over every position, a halted or missing member holding the identity; the count of
halted members for BAR; 0 where the operations differ. -/
def episodeValue (l : Launch) (g : Group) (cs : List Contribution) (op : GroupOp) : Nat :=
  if op == .bar then ((members l g).filter fun t => (contribOf cs t.rx t.ry).isNone).length
  else
    let xs := (List.range (g.gw * g.gh)).map fun i =>
      match contribOf cs (g.gx + i % g.gw) (g.gy + i / g.gw) with
      | some c => if op == .addF || op == .maxF || op == .minF then c.value.toNat % 2 ^ 32 else c.value.toNat
      | none => op.identity
    (treeRoot op.node (g.gw * g.gh) xs).1
/-- An episode completed once every member has contributed or halted (R282): its results go out as messages. -/
def tryEpisode (s : State) (c : Contribution) : State :=
  match s.launchOf c.launch with
  | none => { s with contribs := s.contribs.filter fun d => !sameEpisode c d }
  | some l =>
    let cs := s.contribs.filter (sameEpisode c)
    let done := (members l c.group).all fun t => t.st.isHalted || (contribOf cs t.rx t.ry).isSome
    if !done then s
    else
      let mismatch := cs.any (·.op != c.op)
      let v : Word := if mismatch then 0 else BitVec.ofNat 64 (episodeValue l c.group cs c.op)
      let s := { s with contribs := s.contribs.filter fun d => !sameEpisode c d }
      let s := if mismatch then s.onLaunch c.launch fun l => { l with mismatch := true } else s
      let core (d : Contribution) : Nat := match l.stream d.rx d.ry with | some t => t.core | none => 0
      let result (d : Contribution) : NiPkt :=
        .msg d.launch d.rx d.ry none { slot := d.slot, value := v, sender := core d, scope := .core, brand := none } false
      cs.foldl (fun (s : State) d => s.postNi (result d)) s
/-- Open episodes tried again after a stream has halted. -/
def retryEpisodes (s : State) (launch : Nat) : State :=
  (s.contribs.filter (·.launch == launch)).foldl (fun (s : State) c => if s.contribs.contains c then tryEpisode s c else s) s

/-! ### Serving -/

/-- A thief's request at a member's NI (R287): the member's tail task goes to it at its logged point (R422), or nothing. -/
def serveSteal (s : State) (launch rx ry : Nat) (g : Group) (k : Nat) : Option State :=
  match s.streamCore launch rx ry with
  | none => some s
  | some thief =>
    match (victimOf s launch rx ry g k).bind fun v => (takeTail s v).map fun x => (v, x.1, x.2) with
    | none => some (s.postNi (.stealReply launch rx ry g k none))
    | some (v, s, t) => (s.logDispatch (s.core v).paddock 6 thief v).map fun s => s.postNi (.stealReply launch rx ry g k (some t))
/-- The answer of a visit at its thief (R287, R300, R322): a task is committed to the RECVT that waits for it; with none waiting any more, or
its stream saved, it joins the stream's own tasks (DESIGN CHOICE, log entry 84). What comes for a launch that has ended is discarded (R445). -/
def serveStealReply (s : State) (launch rx ry : Nat) (g : Group) (k : Nat) (t : Option Task) : Option State :=
  match s.launchOf launch with
  | none => some s
  | some l => match l.stream rx ry with
    | none => some s
    | some u =>
      if l.st == .killed then some s
      else
        let c := s.core u.core
        let here := u.st == .live && c.res == .waiting && c.search == some (k, g)
        match t with
        | none => some (if u.st == .live then s.onCore u.core fun c =>
            { c with search := if here then some (k + 1, g) else c.search, nFailed := c.nFailed + 1 } else s)
        | some t =>
          if here then some (s.onCore u.core fun c => { c with granted := some t, nSteals := c.nSteals + 1 })
          else (arriveAt s launch rx ry (.inr t)).map fun s => if u.st == .live then s.onCore u.core fun c => { c with nSteals := c.nSteals + 1 } else s
/-- A refused arrival: the page of its late ring, where it waits, is asked for; none where nothing more moves. -/
def State.warmLate (s : State) (launch rx ry : Nat) (r : Sum Msg Task) (refused : Bool) : Option State :=
  match (s.launchOf launch).bind fun l => (l.stream rx ry).map fun t => (l, t) with
  | none => if refused then none else some s
  | some (l, t) =>
    let asked := if t.st == .live && !t.leaving then none else frameWait s l (latePlace l t) (lateRecord r).1
    match asked with
    | none => if refused then none else some s
    | some u => if refused && u.dir == s.dir && u.ats.length == s.ats.length && u.stamp == s.stamp then none else some u
/-- The core whose NI injects an NI packet. -/
def NiPkt.injector (s : State) : NiPkt → Option Nat
  | .msg _ _ _ _ m refused => if refused then none else some m.sender
  | .task _ _ _ _ t refused => if refused then none else some t.sender
  | .steal launch rx ry .. => s.streamCore launch rx ry
  | .stealReply launch rx ry g k _ => victimOf s launch rx ry g k
  | .report k .. => some k
  | .contrib k _ => some k
/-- The NI packet at index i served where it arrives; none if it cannot move. A refused packet stays, marked (R249). -/
def State.serveNi (s : State) (i : Nat) : Option State :=
  match s.ni[i]? with
  | none => none
  | some f =>
    let s' := { s with ni := s.ni.eraseIdx i }
    let before := s.ni.take i
    let waits := s.mustWait (f.ends s) f.seq 0
    if s.shutOut (f.pkt.injector s) f.seq then some s'
    else match f.pkt with
    | .msg launch rx ry counts m refused =>
      if heldBack before launch rx ry m.sender || (!refused && waits) then none
      else match arriveAt s' launch rx ry (.inl m) with
        | some s'' => some (s''.uncount counts)
        | none => (s.warmLate launch rx ry (.inl m) refused).map fun s => { s with ni := s.ni.set i { f with pkt := .msg launch rx ry counts m true } }
    | .task launch rx ry counts t refused =>
      if heldBack before launch rx ry t.sender || (!refused && waits) then none
      else match arriveAt s' launch rx ry (.inr t) with
        | some s'' => some (s''.uncount counts)
        | none => (s.warmLate launch rx ry (.inr t) refused).map fun s => { s with ni := s.ni.set i { f with pkt := .task launch rx ry counts t true } }
    | .steal launch rx ry g k => if waits then none else serveSteal s' launch rx ry g k
    | .stealReply launch rx ry g k t => if waits then none else serveStealReply s' launch rx ry g k t
    | .report k owner seq launch =>
      if waits then none
      else match (s.launchOf launch).bind fun l => l.stream (owner % 16) (owner / 16) with
      | none => some (s'.uncount (some k))
      | some t =>
        if t.st == .saved || t.st == .haltedSaved then
          some ((s'.onLaunch launch fun l => l.onStream (owner % 16) (owner / 16) fun t => { t with openTasks := t.openTasks.erase seq }).uncount
            (some k))
        else some (((s'.onCore t.core fun c => { c with openTasks := c.openTasks.erase seq }).wakeSearch launch (owner % 16) (owner / 16)).uncount
            (some k))
    | .contrib k c => if waits then none else some ((tryEpisode { s' with contribs := s'.contribs ++ [c] } c).uncount (some k))
/-- The first NI packet from index i on that can move, served. -/
def serveNiFirst (s : State) : Nat → Nat → Option State
  | 0, _ => none
  | fuel + 1, i => match s.serveNi i with
    | some s' => some s'
    | none => serveNiFirst s fuel (i + 1)
/-- NI packets served until none can move or the fuel ends. -/
def settleNiLoop : Nat → State → State
  | 0, s => s
  | fuel + 1, s => match serveNiFirst s s.ni.length 0 with
    | some s' => settleNiLoop fuel s'
    | none => s
/-- NI traffic in flight served at once, unless packets travel (log entry 6). -/
def State.settleNi (s : State) : State := if s.lazy then s else settleNiLoop 1024 s
/-- An NI packet sent. -/
def State.sendNi (s : State) (p : NiPkt) : State := (s.postNi p).settleNi
/-- A message to the stream of a core, or to a yard controller: a completion, a lock status (R254, R303). -/
def State.tell (s : State) (k : Nat) (m : Msg) : State :=
  let c := s.core k
  match c.launch with
  | some l => s.sendNi (.msg l c.rx c.ry none m false)
  | none => s.sendNi (.msg 0 k 0 none m false)

/-! ### LOFTCTL (R397) -/

/-- LOFTCTL as it reads. -/
def Core.loftctl (c : Core) : Nat := min (heldRecords c).length 0xFFFF * 2 ^ 48 + min c.loftFree 0xFFFF * 2 ^ 32 + c.loftSize % 256
/-- A write of LOFTCTL.SIZE: out of range or too small is ignored; else the held records are rewritten in age order from the start
of the new ring. -/
def State.loftctlSet (s : State) (k v : Nat) : State :=
  let c := s.core k
  let size := v % 256
  let held := heldRecords c
  let used := held.foldl (fun n r => n + r.len) 0
  if 2 ≤ size && size ≤ 192 && used + 1024 ≤ size * 1024 then
    let data := held.map fun r => (r, loftRead s c r.place r.len, loftBad s c r)
    let s := s.setCore { c with loftSize := size, loft := [], loftTail := 0 }
    let s := data.foldl (fun (s : State) (p : LoftRec × Nat × List Nat) =>
      let c := s.core k
      let s := loftWrite s c c.loftTail p.1.len p.2.1
      let s := { s with badWords := (p.2.2.map fun i => loftPa s c (c.loftTail + 8 * i) / 8) ++ s.badWords }
      s.onCore k fun c => { c with loft := c.loft ++ [{ p.1 with place := c.loftTail }], loftTail := (c.loftTail + p.1.len) % c.loftBytes }) s
    (s.onCore k (·.reclaim)).niSettle k
  else s

end Sys2Proof.Machine
end

