-- ==== Sys2Proof/Machine/Locks.lean ====
section
/-! DEFINITION. Line locks and the hitch queue (13 R301 to R316): what each lock packet does where it arrives. -/
namespace Sys2Proof.Machine

/-! ### Statuses (R303) -/

/-- A lock status word: KIND, CORE and LINE. -/
def lockStatus (kind core : Nat) (va : Word) : Word :=
  BitVec.ofNat 64 (kind * 2 ^ 60 + core % 512 * 2 ^ 48 + va.toNat / 128 % 2 ^ 41 * 128)
/-- A status message; a grant is branded with scope .dev (R194, R303). -/
def statusMsg (k : Nat) (e : LockEntry) (kind core : Nat) (brand : Option (BitVec 960)) : Msg :=
  { slot := e.slot, value := lockStatus kind core e.va, sender := k, scope := if brand.isSome then .dev else .core, brand := brand }

/-! ### Entries of an NI (R305) -/

/-- A core's entry for a line, if any. -/
def Core.lockOf (c : Core) (line : Nat) : Option LockEntry := c.locks.find? (·.line == line)
/-- An entry changed. -/
def Core.onLock (c : Core) (line : Nat) (f : LockEntry → LockEntry) : Core :=
  { c with locks := c.locks.map fun e => if e.line == line then f e else e }
/-- An entry freed. -/
def Core.freeLock (c : Core) (line : Nat) : Core := { c with locks := c.locks.filter (·.line != line) }
/-- A request that waits. -/
def LockEntry.waits (e : LockEntry) : Bool := e.st == .pending || e.st == .linked
/-- The place in the hitch queue of a core's entry. -/
def LockEntry.who (e : LockEntry) (core : Nat) : Waiter := { core := core, num := e.num }
/-- A core's entry of one request, if it still stands. -/
def Core.entryOf (c : Core) (line num : Nat) : Option LockEntry := c.locks.find? fun e => e.line == line && e.num == num
/-- A lock packet sent by a core, or by the line's home or the dispatcher. -/
def State.postLock (s : State) (src : Option Nat) (p : LockPkt) : State :=
  { s with lockNet := s.lockNet ++ [{ pkt := p, src := src, waits := false, seq := s.stamp }], stamp := s.stamp + 1 }

/-! ### The home's K entry (R304) -/

/-- The K fields of a line: HOLDER, TAIL, SAVED, NEXT, POISON. -/
def State.kOf (s : State) (line : Nat) : Option (Option Waiter × Option Waiter × Bool × Option Waiter × Bool) :=
  match s.dirOf line with
  | some d => match d.st with
    | .k h t sv nx p => some (h, t, sv, nx, p)
    | _ => none
  | none => none
/-- The K fields written. -/
def State.setK (s : State) (line : Nat) (h t : Option Waiter) (sv : Bool) (nx : Option Waiter) (p : Bool) : State :=
  s.onDir line fun d => { d with st := .k h t sv nx p }
/-- The line returns to N with no sharers (R306). -/
def State.unlockLine (s : State) (line : Nat) : State := s.onDir line fun d => { d with st := .n, sharers := [] }
/-- The lock sent on from the home to a waiter, with a full brand (R308, R311). -/
def State.grantOn (s : State) (line : Nat) (to_ : Waiter) (tail : Option Waiter) (poisoned : Bool) : State :=
  (s.setK line (some to_) tail false none false).postLock none (.handoff to_ line none poisoned)
/-- The lock has no one left to go to: the line returns to N, or stays in K without a holder where the lock was forced (R308, R311). -/
def State.endQueue (s : State) (line : Nat) (poisoned : Bool) : State :=
  if poisoned then s.setK line none none false none true else s.unlockLine line
/-- A withdrawn request's entry in the table. -/
def State.withdrawnOf (s : State) (line : Nat) (w : Waiter) : Option Withdrawn := s.withdrawn.find? fun x => x.line == line && x.who == w
/-- A withdrawn request's entry cleared. -/
def State.clearWithdrawn (s : State) (line : Nat) (w : Waiter) : State :=
  { s with withdrawn := s.withdrawn.filter fun x => !(x.line == line && x.who == w) }
/-- Entries of a slice's withdrawal table. -/
def tableCount (s : State) (line : Nat) : Nat := (s.withdrawn.filter fun w => s.homeOf w.line == s.homeOf line).length
/-- Entries of a slice's withdrawal table, with those that WITHDRAWs on their way will take: a NI withdraws only where there is room (R308, log
entry 66). -/
def withdrawnCount (s : State) (line : Nat) : Nat :=
  tableCount s line + (s.lockNet.filter fun f => match f.pkt with | .withdraw _ l _ _ => s.homeOf l == s.homeOf line | _ => false).length
/-- A packet that tells the home of a request's NEXT. -/
def LockPkt.tells (num line : Nat) : LockPkt → Bool
  | .withdraw v l _ _ => v.num == num && l == line
  | .saved v l _ => v.num == num && l == line
  | .force v l _ _ => v.num == num && l == line
  | _ => false
/-- NEXT put into what a core has sent home about a request. -/
def LockPkt.learn (num line : Nat) (next : Waiter) (p : LockPkt) : LockPkt :=
  if !p.tells num line then p
  else match p with
    | .withdraw v l _ try_ => .withdraw v l (some next) try_
    | .saved v l _ => .saved v l (some next)
    | .force v l _ stub => .force v l (some next) stub
    | p => p
/-- A LINK for a request that no NI entry awaits: it fills SAVED's NEXT, the withdrawal entry, or what its core has sent home and the home
has not yet taken; where the holder has resumed since, it goes on to the holder (R308, R310, R316). -/
def linkHome (s : State) (w : Waiter) (line : Nat) (next : Waiter) : State :=
  let k := s.kOf line
  let keeps := match k with | some (some h, _, true, _, _) => h.num == w.num | _ => false
  if keeps then s.onDir line fun d => match d.st with
    | .k h t sv _ p => { d with st := .k h t sv (some next) p }
    | _ => d
  else if (s.withdrawnOf line w).isSome then
    { s with withdrawn := s.withdrawn.map fun x => if x.line == line && x.who == w then { x with next := some next } else x }
  else if s.lockNet.any (·.pkt.tells w.num line) then { s with lockNet := s.lockNet.map fun f => { f with pkt := f.pkt.learn w.num line next } }
  else match k with
    | some (some h, _, false, _, _) =>
      if h.num == w.num && ((s.core h.core).entryOf line h.num).isSome then s.postLock none (.link h line next) else s
    | _ => s
/-- The stream that keeps a SAVED lock (R310): launch, and stream. -/
def savedHolder (s : State) (line : Nat) : Option (Nat × Stream × LockEntry) :=
  s.launches.findSome? fun l => l.streams.findSome? fun t =>
    if t.st == .saved then (t.locks.find? fun e => e.line == line && e.st == .saved).map fun e => (l.id, t, e) else none
/-- The holder of a line is debug-halted, saved or not: no timeout runs against its locks (R311). -/
def holderInDebug (s : State) (line : Nat) : Bool :=
  match s.kOf line with
  | some (some h, _, sv, _, _) =>
    if sv then (match savedHolder s line with | some (_, t, _) => t.debugHalted | none => false) else (s.core h.core).run == .debugHalted
  | _ => false
/-- The limit of one OVERDUE per line in 2^16 cycles of the home cell lets another pass: 16 frames of its CYC (R307); in the last of them
the cycles decide, which are left open. -/
def State.overdueFree (s : State) (line : Nat) : Bool :=
  match s.overdues.find? (·.1 == line) with
  | none => true
  | some (_, f) => let now := s.homeFrame line; if now < f + 16 then false else if now == f + 16 then Config.overdueAgain s.tick else true
/-- OVERDUE to the holder of a line, for a core whose wait ran out (R303, R307): to its late ring while SAVED, and not while it is
debug-halted (R311). -/
def State.overdue (s : State) (line core : Nat) : State :=
  if !s.overdueFree line || holderInDebug s line then s.tock
  else
    let noted (s : State) : State := { s with overdues := (line, s.homeFrame line) :: s.overdues.filter (·.1 != line) }.tock
    match s.kOf line with
    | some (some h, _, sv, _, _) =>
      if sv then
        match savedHolder s line with
        | some (l, t, e) => (noted s).sendNi (.msg l t.rx t.ry none (statusMsg h.core e 6 core none) false)
        | none => s
      else match (s.core h.core).lockOf line with
        | some e => (noted s).tell h.core (statusMsg h.core e 6 core none)
        | none => s
    | _ => s

/-! ### Serving (R306 to R314) -/

/-- A lock or try request at the home (R306, R311, R314). It is a hit of its line (R164, R166); what reads have shared of a poisoned line is
recalled before it is granted (R213, R307). -/
def serveLock (s : State) (w : Waiter) (line : Nat) (try_ : Bool) : Served :=
  if setBlocked s line then .blocked
  else match s.dirOf line with
  | none => allocate s line false
  | some d =>
    if d.round.isSome then .blocked
    else match d.st with
      | .w => .blocked
      | .e .. => .blocked
      | .g _ true => .blocked
      | .g gs false => recallFirst s line gs
      | .n =>
        if !d.sharers.isEmpty then .stays (s.startRecall d)
        else match s.logSlice d.home line 3 w.core 0 with
          | none => .blocked
          | some s => .used (((s.hitDir line false).setK line (some w) (some w) false none false).postLock none (.handoff w line none false))
      | .k h t sv nx p =>
        if h.isNone && p && t.isNone then
          if !d.sharers.isEmpty then .stays (s.startRecall d)
          else match s.logSlice d.home line 3 w.core 0 with
          | none => .blocked
          | some s => .used (((s.hitDir line false).setK line (some w) (some w) false none false).postLock none (.handoff w line none true))
        else if try_ then
          match s.logSlice d.home line 3 w.core 1 with
          | none => .blocked
          | some s => .used ((s.hitDir line false).postLock none (.busy w line))
        else match s.logSlice d.home line 3 w.core 0 with
          | none => .blocked
          | some s =>
            let s := s.hitDir line false
            let s' := s.setK line h (some w) sv nx p
            match t with
            | none => .used s'
            | some x => if (sv && h == some x) || (s.withdrawnOf line x).isSome then .used (linkHome s' x line w) else .used (s'.postLock none (.link x line w))
/-- The lock handed to the next waiter by a releaser, with its brand (R306). -/
def handOn (s : State) (from_ : Waiter) (line : Nat) (next : Waiter) (brand : BitVec 960) : State :=
  (s.postLock (some from_.core) (.moved from_ line next)).postLock (some from_.core) (.handoff next line (some brand) false)
/-- A WITHDRAW of a request that a full table has refused waits to be sent again (R308). -/
def withdrawOpen (s : State) (w : Waiter) : Bool := s.lockNet.any fun f => match f.pkt with | .withdrawRefused v _ _ => v == w | _ => false
/-- A request's withdrawal for a reason (R308, R309): the entry is freed, its status, if any, sent with its CORE, WITHDRAW on its way. With a
full table the request stays pending and tries again (log entry 66). -/
def State.withdrawEntry (s : State) (k line : Nat) (status : Option (Nat × Nat)) : State :=
  match (s.core k).lockOf line with
  | none => s
  | some e =>
    if !e.waits then s
    else if withdrawnCount s line < 32 then
      let s := (s.onCore k fun c => c.freeLock line).postLock (some k) (.withdraw (e.who k) line e.next e.try_)
      match status with
      | none => s
      | some st => s.tell k (statusMsg k e st.1 st.2 none)
    else if withdrawOpen s (e.who k) then s
    else s.postLock (some k) (.withdrawRefused (e.who k) line status)
/-- What a home does with a message of the request that holds the lock; one that comes from a request whose MOVED is still to come waits
for it (R306). -/
def asHolder (s : State) (w : Waiter) (line : Nat) (f : Option Waiter → Bool → Option Waiter → Bool → Served) : Served :=
  match s.kOf line with
  | some (some h, t, sv, nx, p) => if h.num == w.num then f t sv nx p else .blocked
  | some (none, _, _, _, _) => .blocked
  | none => .used s
/-- A probe at a home (R312, R313): dropped where no holder can wait, forwarded along the holder's own requests, or closing a cycle, which the
log records and the lowest member leaves, unless the request it started from waits no more: its cycle is then broken. -/
def serveProbe (s : State) (origin : Waiter) (start line : Nat) (path : List (Nat × Nat)) : State :=
  match s.kOf line with
  | some (some h, _, false, _, _) =>
    let path' := path ++ [(h.core, line)]
    if (s.core h.core).run == .debugHalted || 8 < path'.length then s
    else if h.core == origin.core then
      if !(match (s.core origin.core).entryOf start origin.num with | some e => e.waits | none => false) then s else
      let low := path'.foldl (fun m x => min m x.1) origin.core
      let entry : List Word := BitVec.ofNat 64 (path'.length + origin.core % 512 * 2 ^ 48) ::
        path'.map fun x => BitVec.ofNat 64 (x.1 % 512 * 2 ^ 48 + x.2 % 2 ^ 41 * 2 ^ 7)
      let s := s.onPad (s.core origin.core).paddock fun p =>
        { p with deadlockLog := (p.deadlockHead, entry) :: p.deadlockLog.filter (·.1 != p.deadlockHead),
                 deadlockHead := (p.deadlockHead + 1) % 16 }
      if low == origin.core then s.withdrawEntry origin.core start (some (3, origin.core)) else s
    else ((s.core h.core).locks.filter (·.waits)).foldl (fun (s : State) e => s.postLock (some h.core) (.probe origin start e.line path')) s
  | _ => s
/-- The core's stream has been killed and squashed: what its NI is still granted is force-released (R308, R311). -/
def killedCore (s : State) (k : Nat) : Bool :=
  (s.core k).run == .idle && match s.launchOfCore k with | some l => l.st == .killed | none => false
/-- A lock packet served where it arrives. A line granted to a core with no way to take it stays uncached there, in K at its home (R161, R301;
DESIGN CHOICE, log entry 79). -/
def serveLockPkt (s : State) (p : LockPkt) : Served :=
  match p with
  | .lock w line try_ => serveLock s w line try_
  | .link w line next =>
    match (s.core w.core).entryOf line w.num with
    | some e => (match e.st with
      | .pending => .used (s.onCore w.core fun c => c.onLock line fun e => { e with st := .linked, next := some next })
      | .held => .used (s.onCore w.core fun c => c.onLock line fun e => { e with next := some next })
      | .stub => .used (handOn (s.onCore w.core fun c => c.freeLock line) w line next (match e.brand with | some b => b | none => fullBrand))
      | _ => .used (s.postLock (some w.core) (.linkBack w line next)))
    | none => .used (s.postLock (some w.core) (.linkBack w line next))
  | .linkBack w line next => .used (linkHome s w line next)
  | .handoff w line brand poisoned =>
    match (s.core w.core).entryOf line w.num with
    | none => .used (s.postLock (some w.core) (.pass w line poisoned))
    | some e =>
      if e.waits && killedCore s w.core then
        .used ((s.onCore w.core fun c => c.freeLock line).postLock none (.force w line e.next false))
      else if e.waits then
        let s := s.onCore w.core fun c => (c.onLock line fun e => { e with st := .held }).dropLine line
        let s := s.install w.core { line := line, st := .k, data := s.mem.line line, unread := 0 }
        .used (s.tell w.core (statusMsg w.core e (if poisoned then 1 else 0) 0 (some (match brand with | some b => b | none => fullBrand))))
      else .used (s.postLock (some w.core) (.pass w line poisoned))
  | .moved w line next => asHolder s w line fun t sv nx p => .used (s.setK line (some next) (if t == some w then some next else t) sv nx p)
  | .free w line => asHolder s w line fun t _ _ _ => .used (if t == some w then (s.unlockLine line).postLock none (.freed w line) else s)
  | .freed w line =>
    .used (s.onCore w.core fun c => match c.entryOf line w.num with | some e => if e.st == .stub then c.freeLock line else c | none => c)
  | .withdraw w line next try_ =>
    if try_ && (match s.kOf line with | some (some h, _, _, _, _) => h != w | _ => true) then .used s
    else if tableCount s line < 32 then .used { s with withdrawn := s.withdrawn ++ [{ line := line, who := w, next := next }] }
    else .blocked
  | .withdrawRefused .. => .blocked
  | .pass w line poisoned =>
    asHolder s w line fun t _ _ _ => match s.withdrawnOf line w with
      | none => .blocked
      | some x => match x.next with
        | some n => .used ((s.clearWithdrawn line w).grantOn line n t poisoned)
        | none => if t == some w then .used ((s.clearWithdrawn line w).endQueue line poisoned) else .blocked
  | .busy w line =>
    match (s.core w.core).entryOf line w.num with
    | some e => .used ((s.onCore w.core fun c => c.freeLock line).tell w.core (statusMsg w.core e 5 0 none))
    | none => .used s
  | .saved w line next => asHolder s w line fun t _ nx p => .used (s.setK line (some w) t true (if next.isSome then next else nx) p)
  | .resume w line =>
    asHolder s w line fun t sv nx p =>
      if !sv then .blocked
      else
        let t := if t.map (·.num) == some w.num then some w else t
        if ((s.core w.core).entryOf line w.num).isNone then .used (s.setK line (some w) t false nx p)
        else
          let s := s.setK line (some w) t false none p
          let s := s.onCore w.core fun c => c.onLock line fun e => { e with st := .held, next := nx }
          .used (s.install w.core { line := line, st := .k, data := s.mem.line line, unread := 0 })
  | .force w line next stub =>
    match s.kOf line with
    | none => .used s
    | some (h, t, _, nx, _) =>
      if h.map (·.num) != some w.num then (if stub then .used s else .blocked)
      else match (if next.isSome then next else nx) with
        | some n => .used (s.grantOn line n t true)
        | none => if t.map (·.num) == some w.num then .used (s.endQueue line true) else .blocked
  | .probe origin start line path => .used (serveProbe s origin start line path)

/-- The request that a packet bound for a home concerns; a returned LINK follows nothing. -/
def LockPkt.about : LockPkt → Option Waiter
  | .lock w .. => some w | .moved w .. => some w | .free w .. => some w | .withdraw w .. => some w | .pass w .. => some w
  | .saved w .. => some w | .resume w .. => some w | .force w .. => some w | _ => none
/-- A packet for a home follows what the same request, and the same core for the same line, sent before it (R12, R306). -/
def lockKeptBack (ps : List LockFlight) (f : LockFlight) : Bool :=
  match f.pkt.about with
  | none => false
  | some w => ps.any fun g => match g.pkt.about with
    | some v => g.pkt.line == f.pkt.line && (v.num == w.num || v.core == w.core)
    | none => false
/-- A lock request waits behind the requests that reached the home before it: for the same line, of the accesses those to a line that no one
holds, or parked in the same set (R165, R208). What a replay holds lets others pass (R423). -/
def State.lockBehind (s : State) (f : LockFlight) : Bool :=
  match f.pkt with
  | .lock _ line _ =>
    let before (n : Nat) : Bool := !f.waits || n < f.seq
    let parked := f.waits && f.bank == .parked
    (s.net.any fun g => (g.stage == .line || g.stage == .parked) && before g.seq && match g.pkt.atHome s with
      | some r => (r.line == line && (s.kOf line).isNone && !replayHolds s r) || (parked && g.stage == .parked && sameSet s r.line line)
      | none => false)
    || s.lockNet.any fun g => g.waits && before g.seq && g.pkt.isRequest
        && ((g.pkt.line == line && !replayHoldsLock s g.pkt) || (parked && g.bank == .parked && sameSet s g.pkt.line line))
  | _ => false
/-- Where a lock packet that cannot be served stands: a request behind a fill of its set, at its bank's input, or waiting for its line (R165). -/
def State.lockStage (s : State) (f : LockFlight) : Stage :=
  match f.pkt with
  | .lock _ line _ =>
    if f.waits && f.bank == .line then .line
    else if setBlocked s line then (if (f.waits && f.bank == .parked) || parkedAt s line < 32 then .parked else .input)
    else if (s.dirOf line).isNone && missesBusy s line then .input else .line
  | _ => .line
/-- A lock packet that has arrived and cannot be served yet takes its place there; none if it stands there already. -/
def State.holdLock (s : State) (i : Nat) (f : LockFlight) : Option State :=
  let st := s.lockStage f
  if f.waits && f.bank == st then none
  else some { s with lockNet := s.lockNet.set i { f with waits := true, bank := st, seq := if f.waits then f.seq else s.stamp }, stamp := s.stamp + 1 }
/-- The lock packet at index i served; none if it cannot move. -/
def State.serveLockAt (s : State) (i : Nat) : Option State :=
  match s.lockNet[i]? with
  | none => none
  | some f =>
    if !f.waits && s.shutOut f.src f.seq then some { s with lockNet := s.lockNet.eraseIdx i }
    else if !f.waits && (s.mustWait (f.ends s) f.seq f.pkt.line || (f.pkt.homeward && bankHeld s f.pkt.line)) then none
    else if lockKeptBack (s.lockNet.take i) f || s.lockBehind f then s.holdLock i f
    else match serveLockPkt { s with lockNet := s.lockNet.eraseIdx i } f.pkt with
    | .used s' => some s'
    | .stays s' => some { s' with lockNet := s'.lockNet.take i ++ f :: s'.lockNet.drop i }
    | _ => s.holdLock i f
/-- The first lock packet from index i on that can move, served. -/
def serveLockFirst (s : State) : Nat → Nat → Option State
  | 0, _ => none
  | fuel + 1, i => match s.serveLockAt i with
    | some s' => some s'
    | none => serveLockFirst s fuel (i + 1)
/-- The next packet by the classes of R228 served: coherence traffic and promoted requests, then lock traffic, then the rest. -/
def serveByClass (s : State) : Option State :=
  match serveAmong s (earlyOrder s) with
  | some t => some t
  | none => match serveLockFirst s s.lockNet.length 0 with
    | some t => some t
    | none => serveAmong s (restOrder s)
/-- Lock packets and memory packets served until none can move or the fuel ends. -/
def settleLockLoop : Nat → State → State
  | 0, s => s
  | fuel + 1, s => match serveByClass s with
    | some s' => settleLockLoop fuel s'
    | none => s
/-- Lock traffic in flight served at once, unless packets travel (log entry 6). -/
def State.settleLocks (s : State) : State := if s.lazy then s else settleLockLoop 4096 s

/-- The lock requests and releases of a core have performed: the homes, or the next holders, have taken them (R184, R333). -/
def locksPlaced (s : State) (k : Nat) : Bool :=
  !(s.lockNet.any fun f => f.src == some k && match f.pkt with
    | .lock .. => true
    | .handoff .. => true
    | .moved .. => true
    | .free .. => true
    | _ => false)

/-! ### Ends of requests and of locks -/

/-- A request's withdrawal, with what follows at once. -/
def State.withdrawLock (s : State) (k line : Nat) (status : Option (Nat × Nat)) : State := (s.withdrawEntry k line status).settleLocks
/-- The release of a held lock (R306): a hand-off with the brand, or FREE and a STUB that keeps it. The line leaves the cache. -/
def State.releaseLock (s : State) (k line : Nat) (brand : BitVec 960) : State :=
  match (s.core k).lockOf line with
  | none => s
  | some e => match e.next with
    | some n => (handOn (s.onCore k fun c => (c.freeLock line).dropLine line) (e.who k) line n brand).settleLocks
    | none =>
      ((s.onCore k fun c => (c.onLock line fun e => { e with st := .stub, brand := some brand }).dropLine line).postLock (some k)
        (.free (e.who k) line)).settleLocks
/-- The force-release of one lock of a killed or lost holder (R311): it goes to the home, which passes the lock on with POISONED. -/
def State.forceRelease (s : State) (k : Nat) (e : LockEntry) : State :=
  (s.postLock none (.force (e.who k) e.line e.next (e.st == .stub))).settleLocks
/-- All of a killed or lost core's locks: held ones force-released, waiting requests withdrawn with no status (R309, R311). What a full table
refuses stays pending in a NI that answers (R308). -/
def State.dropLocks (s : State) (k : Nat) (answers : Bool) : State :=
  let es := (s.core k).locks
  let s := s.onCore k fun c => { c with cache := c.cache.filter fun l => l.st != PState.k }
  (es.foldl (fun (s : State) e =>
    if e.waits && answers then s.withdrawEntry k e.line none
    else
      (s.onCore k fun c => c.freeLock e.line).postLock (if e.waits then some k else none)
        (if e.waits then .withdraw (e.who k) e.line e.next e.try_ else .force (e.who k) e.line e.next (e.st == .stub))) s).settle.settleLocks
/-- A lock or try request sent (R306, R331): the entry is made PENDING, under a number of its own (log entry 66). -/
def State.requestLock (s : State) (k line : Nat) (va : Word) (slot : Nat) (try_ : Bool) : State :=
  let e : LockEntry := { line := line, va := va, slot := slot, num := s.nextId, st := .pending, next := none, try_ := try_, brand := none }
  ((({ s with nextId := s.nextId + 1 }).onCore k fun c => { c with locks := c.locks ++ [e] }).postLock (some k) (.lock (e.who k) line try_)).settleLocks

end Sys2Proof.Machine
end

