-- ==== Sys2Proof/Machine/Ctx.lean ====
section
/-! DEFINITION. The context image (16 R376 to R378, 18 R394): its pieces as a core writes them, and the core it loads. -/
namespace Sys2Proof.Machine

/-- A list of words packed, the first lowest. -/
def packWords (ws : List Word) : Nat := packBits 64 (ws.map (·.toNat))
/-- A lock entry's state code in an image: the layout of its 16 bytes is the model's (log entry 24). -/
def LockState.code : LockState → Nat | .pending => 1 | .linked => 2 | .held => 3 | .stub => 4 | .saved => 5
/-- The two words of a lock entry in an image: state and line, then NEXT with a valid bit at [63] (log entry 24). -/
def LockEntry.words (e : LockEntry) : Nat :=
  e.st.code * 2 ^ 48 + e.line % 2 ^ 41 * 2 ^ 7 + (match e.next with | some n => 2 ^ 63 + n.core % 512 | none => 0) * 2 ^ 64
/-- The task in hand in the layout of R321. -/
def Task.landing (t : Task) : Nat := t.record.toNat + (t.restarted.toNat * 2 ^ 63 + t.snapLen) * 2 ^ 256 + t.snap.toNat % 2 ^ (8 * t.snapLen) * 2 ^ 320
/-- A core's context image: offset, length and value of each piece that is not zero throughout (R376). -/
def contextPieces (c : Core) (pc : Word) (lvl : Nat) : List (Nat × Nat × Nat) :=
  [(0, 16, 1 + (c.inHand.isSome.toNat + c.locks.length % 16 * 2 ^ 8) * 2 ^ 64),
   (0x80, 256, packWords (0 :: (c.g.toList.drop 1))),
   (0x180, 64, packWords [pc, BitVec.ofNat 64 lvl, c.status.setWidth 64, c.epc, c.ecause, c.eva, c.erow, c.escratch]),
   (0x1C0, 24, packWords [c.vstat.setWidth 64, c.gen.lo, c.gen.hi]),
   (0x200, 120, c.brand.toNat),
   (0x280, 128, packWords (c.t.toList.map (·.desc.word))),
   (0x300, 32, packBits 64 (c.a.toList.map (·.mode.code))),
   (0x320, 128, packBits 64 (c.w.toList.map (·.fmt.code))),
   (0x400, 256, packWords (c.mbox.toList.map (·.value))),
   (0x500, 8, packBits 1 (c.mbox.toList.map (·.present.toNat))),
   (0x600, 512, packBits 1024 (c.h.toList.map (·.toNat))),
   (0x800, 296, match c.inHand with | some t => t.landing | none => 0),
   (0xA00, 128, packBits 128 (c.locks.map (·.words))),
   (0xB00, 16, c.sent + c.taken * 2 ^ 64),
   (0xB40, 160, packBits 64 (c.episodes.toList.map (· % 2 ^ 64)))]
  ++ c.t.toList.zipIdx.map (fun p => (0x1000 + 4096 * p.2, 4096, p.1.data.toNat))
  ++ c.t.toList.zipIdx.map (fun p => (0x11000 + 512 * p.2, 512, p.1.band.toNat))
  ++ c.a.toList.zipIdx.map (fun p => (0x13000 + 16384 * p.2, 16384, p.1.data.toNat))
  ++ c.w.toList.zipIdx.map (fun p => (0x23000 + 4096 * p.2, 4096, p.1.data.toNat))
  ++ c.w.toList.zipIdx.map (fun p => (0x33000 + 512 * p.2, 512, p.1.band.toNat))
  ++ [(0x35000, 8, c.arrivals.length)]
  ++ c.arrivals.zipIdx.map (fun p => (0x35080 + 144 * p.2, 144, (msgRecord p.1).2))
  ++ [(0x38000, 8, c.taskQueue.length)]
  ++ c.taskQueue.zipIdx.map (fun p => (0x38080 + 160 * p.2, 160, (taskRecord p.1).2))
/-- The whole image, 256 KiB as a number. -/
def contextImage (c : Core) (pc : Word) (lvl : Nat) : Nat :=
  (contextPieces c pc lvl).foldl (fun n p => n + p.2.2 % 2 ^ (8 * p.2.1) * 2 ^ (8 * p.1)) 0

/-! ### Poison carried across (R394) -/

/-- The bytes of the image that hold a name that can be poisoned. -/
def PoisonName.span : PoisonName → Nat × Nat
  | .tile i row => (0x1000 + 4096 * i + 64 * row, 64)
  | .acc i row => (0x13000 + 16384 * i + 256 * row, 256)
  | .slot i row => (0x23000 + 4096 * i + 64 * row, 64)
  | .greg i => (0x80 + 8 * i, 8)
  | .mbox i => (0x400 + 8 * i, 8)
  | .bank i => (0x600 + 128 * i, 128)
  | .brand => (0x200, 120)
  | .generator => (0x1C8, 16)
  | .sysreg i => if i == 0 then (0x1C0, 8) else if i == 4 then (0x190, 8) else if 5 ≤ i && i < 10 then (0x198 + 8 * (i - 5), 8) else (0x1C0, 0)
/-- Every name that an image can carry. -/
def allPoisonNames : List PoisonName :=
  ((List.range 16).flatMap fun i => (List.range 64).map fun r => PoisonName.tile i r)
  ++ ((List.range 4).flatMap fun i => (List.range 64).map fun r => PoisonName.acc i r)
  ++ ((List.range 16).flatMap fun i => (List.range 64).map fun r => PoisonName.slot i r)
  ++ ((List.range 31).map fun i => PoisonName.greg (i + 1)) ++ ((List.range 32).map fun i => PoisonName.mbox i)
  ++ ((List.range 4).map fun i => PoisonName.bank i) ++ [.brand, .generator]
  ++ ([0, 4, 5, 6, 7, 8, 9].map fun i => PoisonName.sysreg i)

/-! ### Loading (R378) -/

/-- A word of an image. -/
def imgWord (img off : Nat) : Nat := getBits img (8 * off) 64
/-- The code of a slot's format: one of the six of R96, and Q4 only where the feature is present (R436). -/
def slotCode (q4 : Bool) (n : Nat) : Bool := (1 ≤ n && n < 6) || (n == 7 && q4)
/-- ECAUSE as an image restores it: its reserved bits read zero (R5, R349). -/
def causeWord (n : Nat) : Word := BitVec.ofNat 64 n &&& 0xFFFF03FF
/-- The checks of CTXLD on an image: a failing one is the tile-operand fault FORMAT. `level` is the current level. -/
def contextOk (q4 : Bool) (img level : Nat) : Bool :=
  imgWord img 0 % 2 ^ 16 == 1
  && (List.range 16).all (fun i => match descOfWord q4 (BitVec.ofNat 64 (imgWord img (0x280 + 8 * i))) with | .ok _ => true | .error _ => false)
  && (List.range 16).all (fun i => slotCode q4 (imgWord img (0x320 + 8 * i)))
  && (List.range 4).all (fun i => decide (imgWord img (0x300 + 8 * i) < 2))
  && decide (imgWord img 0x35000 ≤ 64) && decide (imgWord img 0x38000 ≤ 64)
  && (List.range (imgWord img 0x38000)).all (fun i => getBits img (8 * (0x38080 + 160 * i + 8) + 2) 46 != 0)
  && (imgWord img 8 % 2 == 0 || getBits img (8 * 0x800 + 2) 46 != 0)
  && decide (imgWord img 0x188 ≤ level)
/-- A message record of an image, read by the rules of R248. -/
def imgMsg (img off : Nat) : Msg :=
  let h := imgWord img off
  let branded := h / 2 ^ 56 == 2 && h / 2 ^ 32 % 4096 == 144
  { slot := h % 32, value := BitVec.ofNat 64 (imgWord img (off + 8)), sender := h / 2 ^ 12 % 512,
    scope := if branded then Scope.ofCode (h / 2 ^ 8 % 4) else .core,
    brand := if branded then some (BitVec.ofNat 960 (getBits img (8 * (off + 16)) 960)) else none }
/-- A task record of an image. -/
def imgTask (img off : Nat) : Task :=
  let h := imgWord img off
  let branded := h / 2 ^ 32 % 4096 == 160
  { record := BitVec.ofNat 256 (getBits img (8 * (off + 8)) 256), restarted := false, snapLen := 0, snap := 0,
    scope := if branded then Scope.ofCode (h / 2 ^ 8 % 4) else .core,
    brand := if branded then some (BitVec.ofNat 960 (getBits img (8 * (off + 40)) 960)) else none, owner := 0, seq := 0 }
/-- The task in hand of an image. -/
def imgInHand (img : Nat) : Option Task :=
  if imgWord img 8 % 2 == 0 then none
  else
    let r := imgWord img 0x820
    let n := min (r % 512) 256
    some { record := BitVec.ofNat 256 (getBits img (8 * 0x800) 256), restarted := bitAt r 63, snapLen := n,
           snap := BitVec.ofNat 2048 (getBits img (8 * 0x828) (8 * n)), scope := .core, brand := none, owner := 0, seq := 0 }
/-- A tile of an image. -/
def imgTile (img i : Nat) : Tile :=
  { data := BitVec.ofNat _ (getBits img (8 * (0x1000 + 4096 * i)) 32768), band := BitVec.ofNat _ (getBits img (8 * (0x11000 + 512 * i)) 4096),
    desc := match descOfWord true (BitVec.ofNat 64 (imgWord img (0x280 + 8 * i))) with | .ok d => d | .error _ => freshDesc }
/-- Everything of an image but PC, LVL, STATUS and the trap registers, loaded into a core. Lock entries and the header are
ignored; a generator of all zeros loads as lo = 1; slots of the mailbox come back unbranded, since the image holds no brand of
theirs (log entry 25). BRHITS is zero, the carry's newest frame is full, and U lines are invalidated. -/
def Core.loadImage (c : Core) (img : Nat) : Core :=
  let lo := BitVec.ofNat 64 (imgWord img 0x1C8)
  let hi := BitVec.ofNat 64 (imgWord img 0x1D0)
  { c with
    g := Vector.ofFn fun (i : Fin 32) => if i.val == 0 then 0 else BitVec.ofNat 64 (imgWord img (0x80 + 8 * i.val)),
    vstat := BitVec.ofNat 5 (imgWord img 0x1C0),
    gen := { lo := if lo == 0 && hi == 0 then 1 else lo, hi := hi },
    brand := BitVec.ofNat 960 (getBits img (8 * 0x200) 960),
    t := Vector.ofFn fun (i : Fin 16) => imgTile img i.val,
    a := Vector.ofFn fun (i : Fin 4) =>
      { data := BitVec.ofNat _ (getBits img (8 * (0x13000 + 16384 * i.val)) 131072), mode := AccMode.ofCode (imgWord img (0x300 + 8 * i.val)) },
    w := Vector.ofFn fun (i : Fin 16) =>
      { data := BitVec.ofNat _ (getBits img (8 * (0x23000 + 4096 * i.val)) 32768),
        band := BitVec.ofNat _ (getBits img (8 * (0x33000 + 512 * i.val)) 4096),
        fmt := match Fmt.ofCode (imgWord img (0x320 + 8 * i.val)) with | some f => f | none => .int8 },
    mbox := Vector.ofFn fun (i : Fin 32) =>
      { value := BitVec.ofNat 64 (imgWord img (0x400 + 8 * i.val)), present := bitAt (imgWord img 0x500) i.val, scope := .core, brand := none },
    h := Vector.ofFn fun (i : Fin 4) => BitVec.ofNat 1024 (getBits img (8 * (0x600 + 128 * i.val)) 1024),
    inHand := imgInHand img, sent := imgWord img 0xB00, taken := imgWord img 0xB08,
    episodes := Vector.ofFn fun (i : Fin 20) => imgWord img (0xB40 + 8 * i.val),
    arrivals := (List.range (imgWord img 0x35000)).map fun i => imgMsg img (0x35080 + 144 * i),
    taskQueue := (List.range (imgWord img 0x38000)).map fun i => imgTask img (0x38080 + 160 * i),
    brLast := 0, brFull := false, brTotal := 0, carry := c.carry.set 0 fullBrand, cache := c.cache.filter fun l => !l.isU,
    poison := [] }
/-- Words of an image, by offset / 8, that hold neither a name that can be poisoned nor anything that is ignored: what stands poisoned there can go
nowhere (R394). -/
def imageRest (w : Nat) : Bool :=
  w == 0x180 / 8 || (0x300 / 8 ≤ w && w < 0x3A0 / 8) || (0x280 / 8 ≤ w && w < 0x300 / 8) || w == 0x500 / 8 || (0x800 / 8 ≤ w && w < 0x928 / 8)
  || (0xB00 / 8 ≤ w && w < 0xBE0 / 8) || (0x11000 / 8 ≤ w && w < 0x13000 / 8) || (0x33000 / 8 ≤ w && w < 0x35000 / 8) || 0x35000 / 8 ≤ w
/-- The words of an image that poisoned names make poisoned (R394). `pa` places a byte of the image. -/
def poisonedWords (names : List PoisonName) (pa : Nat → Option Nat) : List Nat :=
  names.flatMap fun n => (List.range ((n.span.2 + 7) / 8)).filterMap fun i => (pa (n.span.1 + 8 * i)).map (· / 8)
/-- The names an image carries poisoned: those whose bytes in memory hold a poisoned word. `pa` places a byte of the image. -/
def imagePoison (bad : List Nat) (pa : Nat → Nat) : List PoisonName :=
  if bad.isEmpty then []
  else allPoisonNames.filter fun n => (List.range ((n.span.2 + 7) / 8)).any fun i => bad.contains (pa (n.span.1 + 8 * i) / 8)

end Sys2Proof.Machine
end

