-- ==== Sys2Proof/Machine/Launch.lean ====
section
/-! DEFINITION. The dispatchers: placing, starting, saving, resuming, killing and ending launches, sweeps, dumps and lost cores
(12 R266 to R280, R286, R292, R293, 16 R348, R365, R373, 18 R389 to R391, R398, R399, R406 to R408). -/
namespace Sys2Proof.Machine

/-! ### Records and rectangles (R266, R267, R273) -/

/-- The lowest column, the lowest row, the width and the height of a set's cells. -/
def Paddock.shape (p : Paddock) : Nat × Nat × Nat × Nat :=
  let xs := (cellsOf p.cmask).map (· % 16)
  let ys := (cellsOf p.cmask).map (· / 16)
  let x0 := xs.foldl min 15
  let y0 := ys.foldl min 15
  (x0, y0, xs.foldl max 0 + 1 - x0, ys.foldl max 0 + 1 - y0)
/-- The width and height a record asks for. -/
def recWidth (r : LaunchRec) : Nat := recField r 188 4 + 1
/-- The height a record asks for. -/
def recHeight (r : LaunchRec) : Nat := recField r 184 4 + 1
/-- A record is invalid by its own fields (R267); the ASID is tested apart. -/
def badRecord (p : Paddock) (r : LaunchRec) : Bool :=
  let (_, _, w, h) := p.shape
  recField r 176 3 != 0 || recField r 128 20 != 0 || recField r 0 2 != 0 || decide (12 ≤ recField r 184 4) || decide (w < recWidth r)
  || decide (h < recHeight r) || recField r 148 28 == 0 || recField r 120 8 == 1 || decide (193 ≤ recField r 120 8)
  || (recField r 180 1 == 1 && recField r 112 8 == 0)
/-- The cells of a rectangle at an origin relative to the set. -/
def rectCells (p : Paddock) (ox oy w h : Nat) : List Nat :=
  let (x0, y0, _, _) := p.shape
  (List.range h).flatMap fun j => (List.range w).map fun i => (y0 + oy + j) * 16 + x0 + ox + i
/-- The origins of the scan, row by row (R273). -/
def origins (p : Paddock) (w h : Nat) : List (Nat × Nat) :=
  let (_, _, pw, ph) := p.shape
  if pw < w || ph < h then []
  else (List.range (ph - h + 1)).flatMap fun oy => (List.range (pw - w + 1)).map fun ox => (ox, oy)
/-- A launch holds its rectangle. -/
def Launch.holds (l : Launch) : Bool := l.st != .preempted
/-- The cells a launch holds. -/
def Launch.cells (s : State) (l : Launch) : List Nat := rectCells (s.pad l.pset) l.ox l.oy l.width l.height
/-- Launches of a set that hold some cell of a list. -/
def occupants (s : State) (n : Nat) (cells : List Nat) : List Launch :=
  s.launches.filter fun l => l.pset == n && l.holds && (l.cells s).any cells.contains
/-- Retentions that overlap a list of cells: (ASID, KEEP, width, height, origin). -/
def overlapping (p : Paddock) (cells : List Nat) : List (Nat × Nat × Nat × Nat × Nat × Nat) :=
  p.retentions.filter fun (_, _, w, h, ox, oy) => (rectCells p ox oy w h).any cells.contains
/-- The retention a record succeeds to (R286); of several under one key, the newest (DESIGN CHOICE, log entry 82). -/
def successorOf (p : Paddock) (r : LaunchRec) : Option (Nat × Nat × Nat × Nat × Nat × Nat) :=
  p.retentions.find? fun (a, k, w, h, _, _) =>
    a == recField r 48 16 && k == recField r 112 8 && w == recWidth r && h == recHeight r
/-- No cell of a list is excluded. -/
def noneExcluded (s : State) (cells : List Nat) : Bool := cells.all fun k => (s.core (s.coreNo k)).available
/-- A retention as the set's table holds it: ASID, KEEP, width, height, origin (R286). -/
abbrev Retention := Nat × Nat × Nat × Nat × Nat × Nat
/-- The free scan's test of an origin (R273): retained cells are free for their successor alone. -/
def freeAt (s : State) (p : Paddock) (own : Option Retention) (w h : Nat) (o : Nat × Nat) : Bool :=
  let cells := rectCells p o.1 o.2 w h
  noneExcluded s cells && (occupants s p.num cells).isEmpty && (overlapping p cells).all fun x => own == some x
/-- The pre-emptive scan's test of an origin (R273). -/
def takeableAt (s : State) (p : Paddock) (own : Option Retention) (pri w h : Nat) (o : Nat × Nat) : Bool :=
  let cells := rectCells p o.1 o.2 w h
  noneExcluded s cells && (occupants s p.num cells).all (fun l => decide (pri < recPri l.record))
  && ((overlapping p cells).all (fun x => own == some x) || decide (pri < 3))
/-- The first origin of a list that passes the free scan, else the pre-emptive one. -/
def scanOrigins (s : State) (p : Paddock) (own : Option Retention) (r : LaunchRec) (os : List (Nat × Nat)) : Option (Nat × Nat) :=
  match os.find? (freeAt s p own (recWidth r) (recHeight r)) with
  | some o => some o
  | none => os.find? (takeableAt s p own (recPri r) (recWidth r) (recHeight r))
/-- Where a record may be placed, and whether it takes over its predecessor's retained cells there: `own` is the retention it succeeds to
(R286); in replay, the logged origin alone (R423). -/
def findOrigin (s : State) (n : Nat) (r : LaunchRec) (seq : BitVec 32) (own : Option Retention) : Option (Nat × Nat × Bool) :=
  let p := s.pad n
  let w := recWidth r
  let h := recHeight r
  let seg := 2 * (cellsOf p.cmask).length
  let e0 := s.mem.readN (p.segEntry seg (p.segOf seg).idx) 8
  let e1 := s.mem.readN (p.segEntry seg (p.segOf seg).idx + 8) 8
  let (x0, y0, _, _) := p.shape
  let all := origins p w h
  let os := if p.rrMode == 2 && !(p.segOf seg).free && e0 / 2 ^ 60 == 7 && e1 / 2 ^ 32 == seq.toNat then
      all.filter fun o => (y0 + o.2) * 16 + x0 + o.1 == e0 / 2 ^ 51 % 256 else all
  match own with
  | some (_, _, _, _, ox, oy) =>
    if noneExcluded s (rectCells p ox oy w h) && os.contains (ox, oy) then some (ox, oy, true)
    else (scanOrigins s p own r os).map fun o => (o.1, o.2, false)
  | none => (scanOrigins s p none r os).map fun o => (o.1, o.2, false)

/-! ### Queues and end words (R268 to R272) -/

/-- A record enters a queue with its sequence number (R269, R270). -/
def State.enqueue (s : State) (n q : Nat) (r : LaunchRec) : State :=
  s.onPad n fun p =>
    let ix := Fin.ofNat 16 q
    let qu := p.queues[ix]
    { p with arrival := p.arrival + 1,
             queues := p.queues.set ix { qu with recs := qu.recs ++ [(qu.nextSeq.toNat, p.arrival, r)], nextSeq := qu.nextSeq + 1 } }
/-- A queue changed. -/
def State.onQueue (s : State) (n q : Nat) (f : Queue → Queue) : State :=
  s.onPad n fun p => { p with queues := p.queues.set (Fin.ofNat 16 q) (f p.queues[Fin.ofNat 16 q]) }
/-- An end word written (R271); to nowhere while BASE is zero. -/
def State.endWord (s : State) (n q status : Nat) (mismatch : Bool) (dropped : Nat) (seq : BitVec 32) : State :=
  let qu := (s.pad n).queues[Fin.ofNat 16 q]
  let base := qu.base.toNat / 512 % 2 ^ 39 * 512
  let v := status * 2 ^ 56 + mismatch.toNat * 2 ^ 55 + min dropped 0xFFFF * 2 ^ 32 + seq.toNat
  let s := if base == 0 then s else s.dispatcherWrite n (base + 8 * qu.head) 8 v
  let s := s.onQueue n q fun qu => { qu with head := (qu.head + 1) % 64, ends := qu.ends + 1 }
  if qu.ctl.getLsbD 8 then { s with out := s.out ++ [.msix (n + 1) (qu.ctl.toNat % 256)] } else s

/-! ### Fresh streams (R275, R373) -/

/-- Bytes of a cell's scratchpad set to zero. -/
def State.zeroScratch (s : State) (cell : Nat) : State :=
  let lo := s.cellPa cell 0
  { s with mem := s.mem.filter (fun c => !(decide (lo ≤ c.1) && decide (c.1 < lo + 0x60000))),
           badWords := s.badWords.filter fun w => !(decide (lo ≤ w * 8) && decide (w * 8 < lo + 0x60000)) }
/-- Gathered copies of a cell sent home before its cache is emptied (R220, R373). -/
def State.drainGathered (s : State) (k : Nat) : State :=
  let gs := (s.core k).cache.filter fun l => match l.st with | .g _ => true | _ => false
  (s.postAll (gs.map fun l => .way k l.line)).settle
/-- What a cell keeps when its stream leaves: everything that is the cell's and not the stream's; the debug registers persist (R411), a STEP does
not. -/
def Core.cellOnly (c : Core) : Core :=
  { resetCore c.id with
    run := if c.run == .lost then .lost else .idle,
    cycFrame := c.cycFrame, dbg := { c.dbg with skip := false, stepping := false, armed := none, held := none }, trc := c.trc, tag := c.tag, bport := c.bport, corrected := c.corrected, replays := c.replays,
    available := c.available, fencedAt := c.fencedAt, undone := c.undone, others := c.others, storePages := c.storePages, sram := c.sram, paddock := c.paddock,
    cache := c.cache.filter fun l => match l.st with | .g _ => true | _ => false }
/-- A fresh stream's core (R35, R36, R275, R348): `win` is the window base of R353. -/
def freshStream (c : Core) (l : Launch) (rx ry : Nat) (win : Word) (tvec : Word) : Core :=
  let r := l.record
  let pos := (l.height - 1) * 2 ^ 12 + (l.width - 1) * 2 ^ 8 + ry * 16 + rx
  { c.cellOnly with
    run := .running, launch := some l.id, rx := rx, ry := ry, paddock := l.pset,
    pc := sext48 (recField r 2 46 * 4), npc := sext48 (recField r 2 46 * 4), arrived := true,
    g := ((Vector.replicate 32 0).set 1 (sext48 (recField r 64 48)) |>.set 2 (BitVec.ofNat 64 pos)) |>.set 3 win,
    gen := genSeed (BitVec.ofNat 64 (recField r 192 64)) (ry * l.width + rx),
    cwin := win, asid := recField r 48 16, genNum := l.gen, stvec := tvec,
    loftSize := if recField r 120 8 == 0 then 16 else recField r 120 8 }
/-- The core on which a stream of a launch is placed. -/
def launchCore (s : State) (l : Launch) (rx ry : Nat) : Nat :=
  let (x0, y0, _, _) := (s.pad l.pset).shape
  s.coreNo ((y0 + l.oy + ry) * 16 + x0 + l.ox + rx)
/-- The window base of an ASID, as the dispatcher reads it: WIN of the entry, whatever its reserved fields hold (R31, R353). -/
def windowOf (s : State) (n asid : Nat) : Word :=
  let p := s.pad n
  let w1 := s.mem.readN (p.asidtb.toNat / 2 ^ 20 % 2 ^ 28 * 2 ^ 20 + 16 * asid + 8) 8
  sext48 (w1 / 2 ^ 28 % 2 ^ 20 * 2 ^ 28)
/-- The U fills of an earlier stream of a cell, on their way, are not installed for the next (R197). -/
def State.freshCache (s : State) (k : Nat) : State := s.coverFillsOf k fun _ => true
/-- One stream started fresh (R275, R420). -/
def startStream (l : Launch) (win tvec : Word) (s : State) (t : Stream) : State :=
  let k := launchCore s l t.rx t.ry
  let s := (s.drainGathered k).freshCache k
  let s := if l.successor then s else s.zeroScratch (k % 256)
  let s := s.setCore (freshStream (s.core k) l t.rx t.ry win tvec)
  let s := s.onLaunch l.id fun l => l.onStream t.rx t.ry fun t => { t with st := .live, core := k }
  let s := s.emit k (0x28 :: bytesOf (recField l.record 48 16) 2 ++ bytesOf l.seq.toNat 4 ++ bytesOf (t.ry * 16 + t.rx) 1)
  s.emitAddr k 3 (s.core k).pc
/-- No stream of the launch has started. -/
def Launch.unstarted (l : Launch) : Bool := l.streams.all (·.st == .waiting)
/-- A write of the dispatcher, into a save frame it may be, has not performed. -/
def savesOpen (s : State) : Bool :=
  s.net.any (fun f => match f.pkt with
    | .req r => (dispatchedSet r.core).isSome && (match r.req with | .write .. => true | _ => false)
    | _ => false)
  || s.dir.any fun d => match d.round with | some r => (r.writer.bind dispatchedSet).isSome | none => false
/-- A placed launch may start: the saves that its placement called for are over (R274), and records of one queue start in queue order (R269);
one whose placement was withdrawn holds no later one back (DESIGN CHOICE, log entry 71). None starts in a flush, or in STOPPED (R382). A saved one resumes once its frames are
written (R280). -/
def readyToStart (s : State) (l : Launch) : Bool :=
  l.st == .placed && !(s.pad l.pset).flushing && (s.pad l.pset).st != .stopped && l.awaits.isEmpty && (l.unstarted || !savesOpen s)
  && !(l.unstarted && s.launches.any fun m => m.id < l.id && m.pset == l.pset && m.queue == l.queue && m.st == .placed && m.unstarted)
/-- A launch has left its cells: what was placed on them awaits it no more (R274). -/
def State.cellsLeft (s : State) (id : Nat) : State :=
  { s with launches := s.launches.map fun (l : Launch) => if l.awaits.contains id then { l with awaits := l.awaits.filter (· != id) } else l }
/-- A placed launch starts every stream fresh (R275); its generation is given at its first start (R365). -/
def State.startLaunch (s : State) (id : Nat) : State :=
  match s.launchOf id with
  | none => s
  | some l =>
    if !(readyToStart s l && l.unstarted) then s
    else
      let p := s.pad l.pset
      let s := (s.onPad l.pset fun p => { p with genCounter := p.genCounter + 1 }).onLaunch id fun l =>
        { l with st := .running, gen := p.genCounter.toNat, awaits := [] }
      l.streams.foldl (startStream { l with gen := p.genCounter.toNat } (windowOf s l.pset (recField l.record 48 16)) p.tvec) s

/-! ### Ends (R293), dumps (R406 to R408) and kills (R390, R391) -/

/-- Engine work of a launch that has retired and is not over: copies and matched all-reduces. -/
def engineBusy (s : State) (id : Nat) : Bool := s.jobs.any (·.launch == id) || s.areds.any fun a => a.launch == id && a.matched
/-- An AMO or a request to the paddock's logic that a core has sent is still on its way: a kill does not call it back (R235). -/
def sentOut (s : State) (k : Nat) : Bool :=
  s.net.any (fun f => match f.pkt with
    | .req r => r.core == k && (match r.req with | .amo .. => true | _ => false)
    | .hostWait r _ => r.core == k
    | .amoReply c .. => c == k
    | _ => false)
  || s.ctl.any fun r => match r with
    | .removal c .. => c == k
    | .retain c .. => c == k
    | .unpin c .. => c == k
    | .lnch c .. => c == k
/-- A stream stands on its core. -/
def Stream.onCell (t : Stream) : Bool := t.st == .live || t.st == .halted
/-- A launch's cells released: the cores keep only what is the cell's. -/
def State.releaseCores (s : State) (l : Launch) : State :=
  l.streams.foldl (fun (s : State) t =>
    if t.onCell && (s.core t.core).launch == some l.id then s.setCore (s.core t.core).cellOnly else s) s
/-- A task remains anywhere in a launch (R293). -/
def tasksRemain (s : State) (l : Launch) : Bool :=
  l.streams.any (fun t => (t.late.any fun r => match r with | .inr _ => true | .inl _ => false) || !t.tasks.isEmpty || t.loft.any (·.task)
    || ((t.st == .live || t.st == .halted) && hasTasks s (s.core t.core)))
  || s.ni.any fun f => match f.pkt with
    | .task n .. => n == l.id
    | .stealReply n _ _ _ _ (some _) => n == l.id
    | _ => false
/-- A stream of a killed launch still stands on its core: its committed AMO has not retired (R24, R235), or a withdrawal of its NI waits for room
(R308). -/
def Launch.lingers (s : State) (l : Launch) : Bool :=
  l.streams.any fun t => t.onCell && let c := s.core t.core; c.launch == some l.id && (c.run == .running || !c.locks.isEmpty)
/-- A launch is over and gone: nothing awaits its cells, and its end word is written (R271, R293). -/
def State.finishLaunch (s : State) (l : Launch) (status : Nat) : State :=
  (({ s with launches := s.launches.filter (·.id != l.id) }.onPad l.pset fun p => { p with resumeList := p.resumeList.filter (· != l.id) }).cellsLeft
    l.id).endWord l.pset l.queue status l.mismatch l.dropped l.seq
/-- A launch's end (R293): its end word, and its cells released or retained (R286); a set that quiesces keeps no retention (R375). A pre-empted
one whose streams have all halted ends too; it holds no scratchpad any more that could be retained. -/
def State.endLaunch (s : State) (id : Nat) : State :=
  match s.launchOf id with
  | none => s
  | some l =>
    if l.st == .killed then
      if l.lingers s || engineBusy s id || l.streams.any (fun t => t.onCell && sentOut s t.core) || s.dumps.any (·.launch == id) then s
      else (s.releaseCores l).finishLaunch l (if l.saveFault then 2 else 1)
    else if !(l.streams.all (·.st.isHalted) && !engineBusy s id && l.streams.all fun t => t.st != .halted || (s.core t.core).drained) then s
    else
      let status := if tasksRemain s l then 3 else 0
      let s := s.releaseCores l
      let s := if recField l.record 180 1 == 1 && l.streams.all (·.st == .halted) && (s.pad l.pset).st == .run then
          s.onPad l.pset fun p => { p with retentions :=
            (recField l.record 48 16, recField l.record 112 8, l.width, l.height, l.ox, l.oy) :: p.retentions } else s
      s.finishLaunch l status

/-- A byte of a dump buffer may be written (R406). -/
def dumpByteOk (s : State) (n pa : Nat) : Bool :=
  match s.placeOf pa with
  | .ok .localHbm => (s.pad n).stackMask.getLsbD (stackOf pa) && !absentDie s .localHbm (pa / 128)
  | .ok .host => s.dies[(0 : Fin 2)] != .reset
  | _ => false
/-- Bytes of the buffer, from its start, before the first page that faults. -/
def dumpPrefix (s : State) (n base len : Nat) : Nat → Nat
  | 0 => 0
  | fuel + 1 =>
    let done := dumpPrefix s n base len fuel
    -- pages are taken in ascending order; one that faults stops the count
    if done == 4096 * fuel && done < len && dumpByteOk s n (base + done) then min len (done + 4096) else done
/-- The header of a dump in a state: its sixteen words, of which the last eight are zero (R407). -/
def DumpJob.header (j : DumpJob) (state valid : Nat) : Nat :=
  packBits 64 ([2 ^ 56 + state * 2 ^ 52 + j.reason * 2 ^ 48 + j.cell * 2 ^ 40 + j.core % 512 * 2 ^ 28 + j.asid, valid, 0x83000,
    j.queue * 2 ^ 48 + j.seq.toNat] ++ j.regs)
/-- The STATE of a dump's last header (R408): FAULTED where a write stopped it before its limit, TRUNCATED, or COMPLETE. -/
def DumpJob.outcome (j : DumpJob) : Nat :=
  let limit := min j.len 0x83000
  if j.valid < limit then 3 else if limit < 0x83000 then 2 else 1
/-- A stream stands in its save frame. -/
def Stream.inFrame (t : Stream) : Bool := t.st == .saved || t.st == .haltedSaved
/-- The bytes of the scratchpad that saved loft records take (R276). -/
def loftOffsets (rs : List LoftRec) (size : Nat) : List Nat :=
  (rs.filter fun r => !r.gone).flatMap fun r => (List.range r.len).map fun i => 0x60000 - size + (r.place + i) % size
/-- Only the loft's records of a stream's scratchpad are saved: DISP is set, or the stream has halted (R276). -/
def loftOnly (l : Launch) (t : Stream) : Bool := recField l.record 179 1 == 1 || t.st == .halted || t.st == .haltedSaved
/-- The context image of a stream, from its core or its frame. -/
def streamImage (s : State) (l : Launch) (t : Stream) : Nat :=
  if t.inFrame then (match frameRead s l (l.frame t.rx t.ry + 0x60000) 0x40000 with | some img => img | none => 0)
  else contextImage (s.core t.core) (s.core t.core).pc (s.core t.core).level
/-- The poisoned words of a stream's saved scratchpad, by offset / 8. -/
def framePoison (s : State) (l : Launch) (t : Stream) : List Nat :=
  if s.badWords.isEmpty then []
  else
    let ws := (List.range 96).flatMap fun i => match framePa s l (l.frame t.rx t.ry + 4096 * i) with
      | some pa => (s.badWords.filter fun w => w / 512 == pa / 4096).map fun w => 512 * i + w % 512
      | none => []
    if loftOnly l t then ws.filter fun w => (loftOffsets t.loft (t.loftSize * 1024)).any fun o => o / 8 == w else ws
/-- The poisoned words of a cell's scratchpad, by offset / 8. -/
def scratchPoison (s : State) (cell : Nat) : List Nat :=
  let lo := s.cellPa cell 0 / 8
  (s.badWords.filter fun w => decide (lo ≤ w) && decide (w < lo + 0xC000)).map (· - lo)
/-- The scratchpad of a stream, 384 KiB as a number; of a frame that holds no more, its loft's records (R278, R406). -/
def streamScratch (s : State) (l : Launch) (t : Stream) : Nat :=
  if t.inFrame then
    if loftOnly l t then
      (loftOffsets t.loft (t.loftSize * 1024)).foldl (fun n o => setBits n (8 * o) 8 (match frameRead s l (l.frame t.rx t.ry + o) 1 with
        | some v => v
        | none => 0)) 0
    else match frameRead s l (l.frame t.rx t.ry) 0x60000 with | some v => v | none => 0
  else s.mem.readN (s.cellPa (t.core % 256) 0) 0x60000
/-- The poisoned names of a stream, from its core or its frame (R394). -/
def streamNames (s : State) (l : Launch) (t : Stream) : List PoisonName :=
  if t.inFrame then imagePoison s.badWords fun off => match framePa s l (l.frame t.rx t.ry + 0x60000 + off) with | some pa => pa | none => 0
  else (s.core t.core).poison
/-- DUMPSTAT of a set (R406): dumps written and skipped, and the outcome of the last. -/
def State.dumpCount (s : State) (n written skipped outcome : Nat) : State :=
  s.onPad n fun p => { p with dumpStat := BitVec.ofNat 64 ((p.dumpStat.toNat / 2 ^ 32 + written) % 2 ^ 32 * 2 ^ 32
    + (p.dumpStat.toNat / 2 ^ 16 + skipped) % 2 ^ 16 * 2 ^ 16 + (if outcome == 0 then p.dumpStat.toNat % 4 else outcome)) }
/-- The next part of a set's dump written (R408): the first header, INCOMPLETE; the sections in ascending address up to the first page that faults;
the last header. Where that one faults, or any page before the sections, the first stands, and the outcome is faulted. -/
def State.dumpStep (s : State) (n : Nat) : Option State :=
  match s.dumps.find? (·.pset == n) with
  | none => none
  | some j =>
    let others := s.dumps.filter (·.pset != n)
    if !dumpByteOk s n j.base then some ({ s with dumps := others }.dumpCount n 0 0 3)
    else match j.stage with
      | 0 => some ({ s with dumps := { j with stage := 1 } :: others }.dispatcherWrite n j.base 128 (j.header 0 0))
      | 1 =>
        let limit := min j.len 0x83000
        let valid := dumpPrefix s n j.base limit (limit / 4096 + 1)
        let bad := (j.bad.filter fun w => decide (8 * w + 8 ≤ valid)).map (j.base / 8 + ·)
        some (({ s with dumps := { j with stage := 2, valid := valid } :: others }.poisonNext (dispatcherAgent n) bad).dispatcherWrite n
          (j.base + 128) (valid - 128) (j.body / 2 ^ (8 * 128)))
      | _ => some (({ s with dumps := others }.dispatcherWrite n j.base 128 (j.header j.outcome j.valid)).dumpCount n 1 0 j.outcome)
/-- Dumps written to their ends at once, unless what moves waits for the agenda (log entry 6). -/
def State.settleDumps (s : State) (n : Nat) : State :=
  if s.lazy then s
  else
    let next (s : State) : State := (s.dumpStep n).getD s
    next (next (next s))
/-- A core dump of a stream (R406 to R408); skipped and counted while ARM is 0 or another of the set is being written. What is poisoned stays so
in it (R394). A stream that has not started holds nothing. -/
def State.dump (s : State) (l : Launch) (t : Stream) (reason : Nat) : State :=
  let p := s.pad l.pset
  let len := p.dumpLen.toNat % 2 ^ 32
  if t.st == .waiting then s
  else if p.dumpBase.toNat % 2 == 0 || s.dumps.any (·.pset == l.pset) then s.dumpCount l.pset 0 1 0
  else
    let s := s.onPad l.pset fun p => { p with dumpBase := p.dumpBase &&& ~~~1 }
    if len < 128 then s.dumpCount l.pset 0 0 3
    else
      let img := streamImage s l t
      let names := poisonedWords (streamNames s l t) fun off => if off < 0x23000 then some off else none
      let scratch := (if t.inFrame then framePoison s l t else scratchPoison s (t.core % 256)).map (0x23000 / 8 + ·)
      let j : DumpJob :=
        { pset := l.pset, launch := l.id, core := t.core, base := p.dumpBase.toNat / 4096 % 2 ^ 36 * 4096, len := len, valid := 0, reason := reason,
          cell := t.ry * 16 + t.rx, asid := recField l.record 48 16, queue := l.queue, seq := l.seq,
          regs := [imgWord img 0x1A0, imgWord img 0x198, imgWord img 0x1A8, imgWord img 0x1B0],
          body := getBits img (8 * 0x80) (8 * (0x23000 - 0x80)) * 2 ^ (8 * 0x80) + streamScratch s l t * 2 ^ (8 * 0x23000),
          bad := names ++ scratch, stage := 0 }
      { s with dumps := j :: s.dumps }.settleDumps l.pset

/-- An AMO of the core is committed: it has left, and retires when its reply arrives (R24, R235). A request to the paddock's logic stands under
a mark beyond every address. -/
def Core.amoOut (c : Core) : Bool :=
  match c.pend with
  | .none => false
  | .sent pa => pa < 2 ^ 48
  | .reply pa _ => pa < 2 ^ 48
  | .fault _ => true
/-- A core whose stream a kill has squashed: what is the cell's, and a NI that still withdraws requests (R308). -/
def Core.afterKill (c : Core) : Core := if c.locks.isEmpty then c.cellOnly else { c.cellOnly with launch := c.launch, rx := c.rx, ry := c.ry, locks := c.locks }
/-- A stream's core squashed and its work discarded at a kill (R391). A saved stream's locks pass on from its frame. -/
def killStream (s : State) (t : Stream) : State :=
  if t.onCell then (s.dropLocks t.core true).onCore t.core (·.afterKill)
  else t.locks.foldl (fun (s : State) e => s.forceRelease t.core e) s
/-- A dump of a stream, unless its committed AMO has to retire first (R24, R406). -/
def State.dumpWhen (s : State) (l : Launch) (t : Stream) (reason : Nat) : State :=
  if t.st == .live && (s.core t.core).amoOut then s.onLaunch l.id fun l => l.onStream t.rx t.ry fun t => { t with dump := some reason }
  else s.dump l t reason
/-- A launch killed (R391): its streams squashed, locks force-released, its open work discarded; a stream with a committed AMO is squashed once
that has retired (R24). The end word follows once its engine work has drained. Its page requests lose their waiters (R365). -/
def State.killLaunch (s : State) (id : Nat) (saveFault : Bool) : State :=
  match s.launchOf id with
  | none => s
  | some l =>
    if l.st == .killed then s
    else
      let of (k : Nat) : Bool := (s.core k).launch == some id
      let s := s.onLaunch id fun l => { l with st := .killed, saveFault := saveFault }
      let s := { s with areds := s.areds.filter fun a => !(a.launch == id && !a.matched), contribs := s.contribs.filter (·.launch != id),
                        xreqs := s.xreqs.filter fun r => !of r.core, prefs := s.prefs.filter fun p => !of p.core,
                        ats := (s.ats.filter fun a => !(dispatchedSet a.core == some l.pset && a.gen == l.gen)).map fun a =>
                          if of a.core then { a with core := 1024 } else a }
      let s := (l.streams.filter fun t => !(t.st == .live && (s.core t.core).amoOut)).foldl killStream s
      let s := s.onPad l.pset fun p => { p with resumeList := p.resumeList.filter (· != id) }
      s.endLaunch id
/-- What ends a launch: a write into its save area that has faulted (R277), or its end (R293). -/
def State.launchEnds (s : State) (id : Nat) : State :=
  match s.launchOf id with
  | some l => if l.saveFault && l.st != .killed then s.killLaunch id true else s.endLaunch id
  | none => s
/-- Core k's AMO has retired or faulted, or is lost with it, though its launch is killed: its stream is squashed now, after the dump that waited for
it (R24, R391). -/
def State.endKillOf (s : State) (k : Nat) : State :=
  let c := s.core k
  match s.launchOfCore k with
  | none => s
  | some l =>
    if l.st != .killed || c.amoOut then s
    else match l.stream c.rx c.ry with
      | none => s
      | some t =>
        let s := match t.dump with | some reason => s.dump l t reason | none => s
        (killStream s t).endLaunch l.id
/-- The same for the moving core. -/
def State.endKill (s : State) : State := s.endKillOf s.me.id
/-- The launch of a core killed for what befell its stream, with a dump if ONTRAP asks for one (R348, R390, R406). -/
def State.killCore (s : State) (k reason : Nat) : State :=
  match s.launchOfCore k with
  | none => s
  | some l =>
    let c := s.core k
    let s := match l.stream c.rx c.ry with
      | some t => if (s.pad l.pset).dumpBase.toNat / 2 % 2 == 1 && l.st != LState.killed then s.dumpWhen l t reason else s
      | none => s
    s.killLaunch l.id false
/-- A write of KILL (R390); a launch that is killed already is named no more. -/
def State.killWrite (s : State) (n : Nat) (v : Word) : State :=
  let q := v.toNat / 2 ^ 48 % 16
  let seq := v.toNat % 2 ^ 32
  match s.launches.find? fun (l : Launch) => l.pset == n && l.queue == q && l.seq.toNat == seq && l.st != .killed with
  | some l =>
    let cell := v.toNat / 2 ^ 40 % 256
    let s := if bitAt v.toNat 63 then
        match l.stream (cell % 16) (cell / 16) with | some t => s.dumpWhen l t 3 | none => s
      else s
    s.killLaunch l.id false
  | none =>
    if (s.pad n).queues[Fin.ofNat 16 q].recs.any (·.1 == seq) then
      (s.onQueue n q fun qu => { qu with recs := qu.recs.filter (·.1 != seq) }).endWord n q 1 false 0 (BitVec.ofNat 32 seq)
    else s

/-! ### Halt images (R411, R413, R415) -/

/-- The halt image's address, if DSAVE is valid and names local HBM of the core's paddock (R411). -/
def haltImage (s : State) (k : Nat) : Option Nat :=
  let c := s.core k
  let pa := c.dbg.dsave.toNat / 4096 % 2 ^ 36 * 4096
  if c.dbg.dsave.getLsbD 0 then
    match s.placeOf pa with
    | .ok .localHbm => if 512 ≤ k || (s.pad c.paddock).stackMask.getLsbD (stackOf pa) then some pa else none
    | _ => none
  else none
/-- The image still holds the NI's queues as they were at the halt: their records stand in it byte for byte. -/
def sameRecords (img off size : Nat) (rs : List (Nat × Nat)) : Bool :=
  imgWord img off == rs.length && rs.zipIdx.all fun p => getBits img (8 * (off + 0x80 + size * p.2)) (8 * size) == p.1.2
/-- What a queue held and a debugger has rewritten, with what has arrived since the halt behind it. -/
def withArrivals {α : Type} [BEq α] (img held now : List α) : List α := img ++ held.foldl (fun l x => l.erase x) now
/-- The NI of a core in debug halt as its image has it (R413): what the debugger has altered is taken from the image, and the rest is what the NI
holds now, since arrivals and thefts go on during the halt (R415, log entry 28). -/
def Core.haltNi (c d : Core) (img : Nat) : Core :=
  match c.dbg.held with
  | none => { d with mbox := c.mbox, arrivals := c.arrivals, taskQueue := c.taskQueue }
  | some h =>
    let slot (i : Fin 32) : MSlot :=
      if d.mbox[i].value == h.mbox[i].value && d.mbox[i].present == h.mbox[i].present then c.mbox[i] else d.mbox[i]
    { d with
      mbox := Vector.ofFn slot,
      arrivals := if sameRecords img 0x35000 144 (h.arrivals.map msgRecord) then c.arrivals else withArrivals d.arrivals h.arrivals c.arrivals,
      taskQueue := if sameRecords img 0x38000 160 (h.taskQueue.map taskRecord) then c.taskQueue else withArrivals d.taskQueue h.taskQueue c.taskQueue }
/-- The task in hand as the image has it, with the NI's own account of it; it is the one that stands unless the debugger has altered it. -/
def Core.haltTask (c d : Core) : Option Task :=
  match d.inHand, c.inHand with
  | some x, some y => some { x with scope := y.scope, brand := y.brand, owner := y.owner, seq := y.seq, numbered := y.numbered }
  | x, _ => x
/-- Core k in debug halt as its halt image has it, if the image passes the checks of R378; a yard controller stays at machine level (R346, log
entry 30). -/
def haltLoaded (s : State) (k : Nat) : Option Core :=
  let c := s.core k
  match haltImage s k with
  | none => none
  | some pa =>
    let img := s.mem.readN pa 0x40000
    if !contextOk (s.present k .q4blk) img c.level then none
    else
      let pc := BitVec.ofNat 64 (imgWord img 0x180)
      let st := imgWord img 0x190
      let d := c.loadImage img
      some { c.haltNi d img with
        pc := pc, npc := pc,
        status := mkStatus (bitAt st 4) (min (st / 4 % 4) c.level) (if c.isYard then 3 else imgWord img 0x188),
        epc := BitVec.ofNat 64 (imgWord img 0x198), ecause := causeWord (imgWord img 0x1A0),
        eva := BitVec.ofNat 64 (imgWord img 0x1A8), erow := BitVec.ofNat 64 (imgWord img 0x1B0),
        escratch := BitVec.ofNat 64 (imgWord img 0x1B8),
        inHand := c.haltTask d, poison := imagePoison s.badWords (pa + ·) }

/-- Core k's halt image is still being written: HALTED is set once it stands (R413). -/
def imageOpen (s : State) (k : Nat) : Bool :=
  match haltImage s k with
  | none => false
  | some pa =>
    let inside (l : Nat) : Bool := decide (pa / 128 ≤ l) && decide (l < pa / 128 + 0x800)
    s.net.any (fun f => match f.pkt with | .req r => r.core == 1026 && inside r.line | _ => false)
      || s.dir.any fun d => inside d.line && match d.round with | some r => r.writer == some 1026 | none => false
/-- Core k stands in debug halt (R411). -/
def haltedAt (s : State) (k : Nat) : Bool := (s.core k).run == .debugHalted && !imageOpen s k

/-! ### Pre-emption (R276 to R279, R389) -/

/-- A record's bytes of the loft saved at their own offsets of the frame's scratchpad image, when DISP is set (R276). -/
def saveLoft (s : State) (l : Launch) (t : Stream) (c : Core) : Option State :=
  (heldRecords c).foldl (fun (o : Option State) r =>
    (List.range r.len).foldl (fun (o : Option State) i =>
      match o with
      | none => none
      | some s =>
        let off := 0x60000 - c.loftBytes + (r.place + i) % c.loftBytes
        frameWrite s l (l.frame t.rx t.ry + off) 1 (s.mem.read (s.cellPa (c.id % 256) off)).toNat) o) (some s)
/-- A waiting lock request whose withdrawal its home's table refuses (R308). -/
def lockStuck (s : State) (c : Core) (e : LockEntry) : Bool :=
  e.waits && s.lockNet.any fun f => match f.pkt with | .withdrawRefused w _ _ => w == e.who c.id | _ => false
/-- An asynchronous trap is due before the core may stop: none inside a trap or in a debug halt (R389, R415). -/
def asyncBefore (c : Core) : Bool := !c.asyncs.isEmpty && !c.inTrap && c.run != .debugHalted
/-- A save may be made: nothing committed is left, the store counter is zero, engines are done, lock requests and releases have been taken
(R197), no lock's release, resumption or refused withdrawal is open, and no asynchronous trap is due (R276, R308, R310, R389). -/
def canSave (s : State) (c : Core) : Bool :=
  c.pend == .none && c.granted.isNone && c.undone.isEmpty && c.others == 0 && !(s.jobs.any (·.core == c.id))
  && !(s.areds.any fun a => a.of c && a.matched) && c.locks.all (fun e => e.st != .stub && e.st != .saved && !lockStuck s c e)
  && !asyncBefore c && locksPlaced s c.id && c.drained && !(c.run == .debugHalted && imageOpen s c.id)
/-- What stays of a stream's NI while it is saved. -/
def Stream.keep (t : Stream) (c : Core) (st : SState) : Stream :=
  { t with st := st, leaving := false, locks := (c.locks.filter (·.st == .held)).map fun e => { e with st := .saved },
           asyncs := c.asyncs.filter (· != .overflow), debugHalted := c.run == .debugHalted,
           dbg := if c.run == .debugHalted then some c.dbg else none, loft := c.loft, loftTail := c.loftTail, loftSize := c.loftSize,
           tasks := c.taskQueue, inHand := c.inHand, openTasks := c.openTasks, taskSeq := c.taskSeq,
           cut := c.cut || c.inHand.isSome || c.search.isSome, sent := c.sent, taken := c.taken, arrived := c.arrived }
/-- Waiting lock requests of a stream that is being pre-empted withdraw with LOST (R309). -/
def leaveQueues (s : State) (k : Nat) : State :=
  (((s.core k).locks.filter (·.waits)).foldl (fun (s : State) e => s.withdrawEntry k e.line (some (2, 0))) s).settleLocks
/-- Held locks of a saved stream are SAVED at their homes (R310). -/
def parkLocks (s : State) (k : Nat) (c : Core) : State :=
  c.locks.foldl (fun (s : State) e => s.postLock (some k) (.saved (e.who k) e.line e.next)) s
/-- Every stream of a launch is saved: it joins the resume list, and what awaited its cells goes on (R272, R274). -/
def State.finishSave (s : State) (id : Nat) : State :=
  match s.launchOf id with
  | none => s
  | some l =>
    if l.st == .preempting && l.streams.all fun t => t.st == .saved || t.st == .haltedSaved then
      ((s.onLaunch id fun l => { l with st := .preempted }).onPad l.pset fun p => { p with resumeList := p.resumeList ++ [id] }).cellsLeft id
    else s
/-- Poisoned names of a core, and poisoned words of its scratchpad, become poisoned words of the frame (R394). -/
def savePoison (s : State) (l : Launch) (t : Stream) (c : Core) : State :=
  let base := l.frame t.rx t.ry
  let scratch := if loftOnly l t then
      (scratchPoison s (c.id % 256)).filter fun w => (loftOffsets c.loft c.loftBytes).any fun o => o / 8 == w
    else scratchPoison s (c.id % 256)
  s.poisonNext (dispatcherAgent l.pset) ((if t.st == .live then poisonedWords c.poison fun off => framePa s l (base + 0x60000 + off) else [])
    ++ scratch.filterMap fun w => (framePa s l (base + 8 * w)).map (· / 8))
/-- The save frame of a stream written (R276): the scratchpad or what of the loft is held, then the image; none where a page faults. -/
def writeFrame (s : State) (l : Launch) (t : Stream) (c : Core) : Option State :=
  let live := t.st == .live
  let base := l.frame t.rx t.ry
  let img := if live then contextImage c c.pc c.level
    else getBits (contextImage c c.pc c.level) (8 * 0x38000) (8 * 0x8000) * 2 ^ (8 * 0x38000)
  (if recField l.record 179 1 == 1 || !live then saveLoft s l t c
    else frameWrite s l base 0x60000 (s.mem.readN (s.cellPa (c.id % 256) 0) 0x60000)).bind fun s => frameWrite s l (base + 0x60000) 0x40000 img
/-- What a pre-emption saves of core k: of one in debug halt, what its halt image holds (R415). -/
def savedCore (s : State) (k : Nat) : Core := if (s.core k).run == .debugHalted then (haltLoaded s k).getD (s.core k) else s.core k
/-- The core can be stopped for its save: it has not, nothing committed is left, no XLATI waits for its acknowledgements and no asynchronous trap is due
(R276, R360, R389). -/
def stoppable (c : Core) (t : Stream) : Bool :=
  !t.leaving && (c.run == .running || c.run == .debugHalted) && !c.committed && c.pend != .sent xlatiMark && !asyncBefore c
/-- A live stream that is being pre-empted stops: what it has not retired is squashed, and what arrives for it goes to its late ring (R276, R279,
R309). -/
def State.stopStream (s : State) (k : Nat) (l : Launch) (t : Stream) : State :=
  ((s.squashOf k).onCore k fun c => { c with run := if c.run == .debugHalted then .debugHalted else .stopped, res := .trapped }).onLaunch l.id fun l =>
    l.onStream t.rx t.ry fun t => { t with leaving := true }
/-- A stopped stream goes on to take an asynchronous trap that has become due: the saved pc is the handler's entry (R389). -/
def State.unstopStream (s : State) (k : Nat) (l : Launch) (t : Stream) : State :=
  (s.onCore k fun c => { c with run := .running }).onLaunch l.id fun l => l.onStream t.rx t.ry fun t => { t with leaving := false }
/-- What a save of a stream does next, if anything: the save itself, its stop, its lock requests' withdrawal, or a trap before it. -/
inductive SaveMove where | save | stop | leave | trap
  deriving DecidableEq, Repr
/-- The next move of the save of core k's stream. -/
def saveMove (s : State) (l : Launch) (t : Stream) (c : Core) : Option SaveMove :=
  if l.st != .preempting || !t.onCell then none
  else if canSave s c && !(c.locks.any (·.waits)) then some .save
  else if t.st == .halted then none
  else if c.run == .stopped && asyncBefore c then some .trap
  else if stoppable c t then some .stop
  else if t.leaving && c.locks.any (fun e => e.waits && !lockStuck s c e) then some .leave
  else none
/-- A stream of a launch that is being pre-empted saved into its frame, and its cell released (R276), once it has stopped and its lock requests have
withdrawn; of a stream in debug halt, the state that its halt image holds (R415). A save that faults kills the launch with SAVE-FAULT (R277); one
whose page has to wait is tried again. -/
def State.saveStream (s : State) (k : Nat) : State :=
  match s.launchOfCore k with
  | none => s
  | some l =>
    match l.stream (s.core k).rx (s.core k).ry with
    | none => s
    | some t => match saveMove s l t (s.core k) with
      | none => s
      | some .stop => s.stopStream k l t
      | some .trap => s.unstopStream k l t
      | some .leave => leaveQueues s k
      | some .save =>
        let c := s.core k
        let held := savedCore s k
        match writeFrame (savePoison s l t held) l t held with
        | none => (match frameWait s l (l.frame t.rx t.ry) 0x100000 with
          | some u => u
          | none => s.killLaunch l.id true)
        | some s =>
          let s := s.onLaunch l.id fun l => l.onStream t.rx t.ry (·.keep c (if t.st == .live then .saved else .haltedSaved))
          let s := (parkLocks s k c).drainGathered k
          let s := { (s.dropAsked k) with prefs := s.prefs.filter (·.core != k) }
          ((s.setCore (s.core k).cellOnly).settleLocks).finishSave l.id

/-! ### Choosing and placing (R272 to R274, R286) -/

/-- What the dispatcher may choose: a launch of the resume list, or the head of a queue. -/
inductive Candidate where
  | resume (l : Launch)
  | head (q seq arrival : Nat) (r : LaunchRec)
/-- The order of R272: PRI, the resume list first, then first placed or first arrived. -/
def Candidate.key : Candidate → Nat × Nat × Nat
  | .resume l => (recPri l.record, 0, l.id)
  | .head _ _ a r => (recPri r, 1, a)
/-- One key comes before another. -/
def keyBefore (a b : Nat × Nat × Nat) : Bool :=
  a.1 < b.1 || (a.1 == b.1 && (a.2.1 < b.2.1 || (a.2.1 == b.2.1 && a.2.2 < b.2.2)))
/-- The first of a list of candidates. -/
def bestOf : List Candidate → Option Candidate
  | [] => none
  | c :: cs => match bestOf cs with
    | none => some c
    | some d => if keyBefore d.key c.key then some d else some c
/-- Every candidate of a set. -/
def candidates (s : State) (n : Nat) : List Candidate :=
  let p := s.pad n
  (p.resumeList.filterMap fun id => (s.launchOf id).map Candidate.resume)
  ++ (List.range 16).filterMap fun q => match p.queues[Fin.ofNat 16 q].recs with
    | (seq, a, r) :: _ => some (.head q seq a r)
    | [] => none
/-- A halted stream whose core is lost has nothing left to save: its counts stand (R276, R399). -/
def Stream.leaveLost (s : State) (id : Nat) (t : Stream) : Stream :=
  let c := s.core t.core
  if t.st == .halted && c.launch != some id then
    { t with st := .haltedSaved, sent := c.sent, taken := c.taken, openTasks := c.openTasks, taskSeq := c.taskSeq }
  else t
/-- A launch that loses its cells to a more urgent one (R274): running launches are pre-empted, a placement not yet started is
withdrawn. -/
def evictFor (s : State) (l : Launch) : State :=
  match l.st with
  | .running => s.onLaunch l.id fun l => { l with st := .preempting, streams := l.streams.map (Stream.leaveLost s l.id) }
  | .placed =>
    (s.onLaunch l.id fun l => { l with st := .preempted, awaits := [] }).onPad l.pset fun p => { p with resumeList := p.resumeList ++ [l.id] }
  | _ => s
/-- Fresh streams of a rectangle, waiting to be started. -/
def waitingStreams (w h : Nat) : List Stream :=
  (List.range h).flatMap fun ry => (List.range w).map fun rx =>
    { rx := rx, ry := ry, core := 0, st := .waiting, late := [], locks := [], asyncs := [], debugHalted := false, dbg := none, loft := [],
      loftTail := 0, loftSize := 16, tasks := [], inHand := none, openTasks := [], taskSeq := 0, cut := false }
/-- A candidate placed at an origin. -/
def State.placeAt (s : State) (n : Nat) (c : Candidate) (ox oy : Nat) (own : Option Retention) (successor : Bool) : State :=
  let r := match c with | .resume l => l.record | .head _ _ _ r => r
  let p := s.pad n
  let cells := rectCells p ox oy (recWidth r) (recHeight r)
  let occ := occupants s n cells
  let s := occ.foldl evictFor s
  let gone := (overlapping p cells) ++ own.toList
  let s := s.onPad n fun p => { p with retentions := p.retentions.filter fun x => !gone.contains x }
  let awaits := (occ.filter (·.st != .placed)).map (·.id)
  match c with
  | .resume l =>
    (s.onPad n fun p => { p with resumeList := p.resumeList.filter (· != l.id) }).onLaunch l.id fun l =>
      { l with st := .placed, ox := ox, oy := oy, awaits := awaits, successor := successor }
  | .head q seq _ r =>
    let s := s.onQueue n q fun (qu : Queue) => { qu with recs := qu.recs.drop 1 }
    let l : Launch :=
      { id := s.nextId, pset := n, queue := q, seq := BitVec.ofNat 32 seq, record := r, gen := 0, st := .placed,
        ox := ox, oy := oy, successor := successor, streams := waitingStreams (recWidth r) (recHeight r), mismatch := false, dropped := 0,
        done := false, swept := none, awaits := awaits, saveFault := false, resent := 0 }
    { s with nextId := s.nextId + 1, launches := s.launches ++ [l] }
/-- The die whose yard controller runs a set's dispatcher (R32, R367): a whole-card set's runs on yard controller 0. -/
def dispatcherDie (n : Nat) : Nat := if n == 2 || n == 3 || n == 5 then 1 else 0
/-- A step of the dispatcher of a set: the candidate is tested and placed, or nothing happens (R267, R272, R273); in a flush and in STOPPED
nothing does (R382). A launch whose placement was withdrawn before it started may still be a successor (R274, R286). -/
def State.dispatchOne (s : State) (n : Nat) : State :=
  let p := s.pad n
  if !p.active || p.flushing || p.st == .stopped || (s.core (512 + dispatcherDie n)).run == .lost then s
  else match bestOf (candidates s n) with
    | none => s
    | some c =>
      let try_ (s : State) (r : LaunchRec) (seq : BitVec 32) (own : Option Retention) : State :=
        match findOrigin s n r seq own with
        | none => s
        | some (ox, oy, succ) =>
          let (x0, y0, _, _) := p.shape
          match s.logDispatch n 7 (s.coreNo ((y0 + oy) * 16 + x0 + ox)) seq.toNat with
          | none => s
          | some s => s.placeAt n c ox oy own succ
      match c with
      | .resume l => try_ s l.record l.seq (if l.unstarted then successorOf p l.record else none)
      | .head q seq _ r =>
        let invalid (s : State) : State :=
          (s.onQueue n q fun qu => { qu with recs := qu.recs.drop 1, inval := true }).endWord n q 4 false 0 (BitVec.ofNat 32 seq)
        if badRecord p r then invalid s
        else match asidEntry s n (recField r 48 16) none with
          | .ok s (.error .asid) => invalid s
          | .ok s _ => try_ s r (BitVec.ofNat 32 seq) (successorOf p r)
          | .wait s => s
          | .trap s _ => s

/-! ### Resumption (R279, R280) -/

/-- A task of a restored queue with the NI's own account of it. -/
def restoreTask (p : Task × Task) : Task := { p.1 with restarted := p.2.restarted, snapLen := p.2.snapLen, snap := p.2.snap, owner := p.2.owner, seq := p.2.seq, numbered := true }
/-- Bytes of the loft brought back into the scratchpad of core k. -/
def restoreLoft (s : State) (l : Launch) (t : Stream) (k : Nat) : State :=
  (t.loft.filter fun r => !r.gone).foldl (fun (s : State) r => (List.range r.len).foldl (fun (s : State) i =>
    let off := 0x60000 - t.loftSize * 1024 + (r.place + i) % (t.loftSize * 1024)
    match frameRead s l (l.frame t.rx t.ry + off) 1 with
    | some v => s.place (s.cellPa (k % 256) off) 1 v
    | none => s) s) s
/-- STATUS as a save frame restores it: no core stands above supervisor level (R346). -/
def restoredStatus (w : Nat) : BitVec 5 := mkStatus (bitAt w 4) (min (w / 4 % 4) 1) (min (w % 4) 1)
/-- The debug registers of a stream that resumes halted: DCTL comes with it, the others are the cell's (R411, R415, log entry 28). -/
def Debug.carried (d : Debug) (old : Option Debug) : Debug :=
  match old with | some o => { d with cause := o.cause, index := o.index, err := o.err, brken := o.brken } | none => d
/-- n bytes of a save area asked of the host, line by line, where they lie in host memory (R170); none where the host refuses one. -/
def State.askFrame (s : State) (l : Launch) (va n : Nat) : Option State :=
  let lines := (splitAt 4096 va n (n / 4096 + 2) 0).flatMap fun p => match framePa s l p.1 with
    | some pa => if s.placeOf pa matches .ok .host then (linePieces pa p.2.1).map (·.1 / 128) else []
    | none => []
  lines.foldl (fun (o : Option State) line => o.bind fun s =>
    let out := { s with out := s.out ++ [.hostRequest (l.pset + 1) none (line * 128 % 2 ^ 45) false] }
    match s.hostReplies with
    | [] => some out
    | .denied :: _ => none
    | .abort :: _ => none
    | _ :: as => some { out with hostReplies := as }) (some s)
/-- What a resumption reads of a launch's save frames asked of the host, where it lies there. -/
def State.askFrames (s : State) (l : Launch) : Option State :=
  l.streams.foldl (fun (o : Option State) t => o.bind fun s =>
    let base := l.frame t.rx t.ry
    if recField l.record 179 1 == 1 || t.st != .saved then s.askFrame l (base + 0x60000) 0x40000 else s.askFrame l base 0xA0000) (some s)
/-- An image in a save frame is poisoned where no name of the core can carry the poison on: the frame cannot be read (R394). -/
def frameSpoilt (s : State) (l : Launch) (base : Nat) : Bool :=
  !s.badWords.isEmpty && (List.range (0x40000 / 8)).any fun w => imageRest w && match framePa s l (base + 0x60000 + 8 * w) with
    | some pa => s.badWords.contains (pa / 8)
    | none => false
/-- One stream restored on its new cell; none where its frame cannot be read. STVEC is no part of the image: it takes TVEC anew, as at a fresh
start (R348, R376; DESIGN CHOICE, log entry 72). The hardware's own image is loaded unchecked, a Q4 tile on a die without Q4BLK among it
(DESIGN CHOICE, log entry 81); the overflow trap is armed unless the loft is full (DESIGN CHOICE, log entry 89). -/
def restoreStream (l : Launch) (win tvec : Word) (s : State) (t : Stream) : Option State :=
  let k := launchCore s l t.rx t.ry
  let base := l.frame t.rx t.ry
  let live := t.st == .saved
  let disp := recField l.record 179 1 == 1 || !live
  match frameRead s l (base + 0x60000) 0x40000, frameSpoilt s l base with
  | some img, false =>
    let s := ((s.drainGathered k).freshCache k).zeroScratch (k % 256)
    let s := if disp then restoreLoft s l t k
      else match frameRead s l base 0x60000 with
        | some v => { s with mem := s.mem.writeN (s.cellPa (k % 256) 0) v 0x60000 }
        | none => s
    let s := { s with badWords := (framePoison s l t).map (s.cellPa (k % 256) 0 / 8 + ·) ++ s.badWords }
    let fresh := freshStream (s.core k) l t.rx t.ry win tvec
    let c := if live then fresh.loadImage img
      else { fresh with taskQueue := (List.range (imgWord img 0x38000)).map fun i => imgTask img (0x38080 + 160 * i) }
    let pc := BitVec.ofNat 64 (imgWord img 0x180)
    let c := { c with
      run := if !live then .halted else if t.debugHalted then .debugHalted else .running,
      pc := if live then pc else c.pc, npc := if live then pc else c.npc, arrived := t.arrived,
      status := if live then restoredStatus (imgWord img 0x190) else 0, epc := BitVec.ofNat 64 (imgWord img 0x198),
      ecause := causeWord (imgWord img 0x1A0), eva := BitVec.ofNat 64 (imgWord img 0x1A8),
      erow := BitVec.ofNat 64 (imgWord img 0x1B0), escratch := BitVec.ofNat 64 (imgWord img 0x1B8),
      loft := t.loft, loftTail := t.loftTail, loftSize := t.loftSize, taskQueue := (c.taskQueue.zip t.tasks).map restoreTask,
      inHand := if live then t.inHand else none, cut := t.cut, openTasks := t.openTasks, taskSeq := t.taskSeq, locks := t.locks,
      sent := if live then c.sent else t.sent, taken := if live then c.taken else t.taken,
      asyncs := t.asyncs ++ (if live && t.loftSize * 1024 < ({ c with loft := t.loft, loftTail := t.loftTail, loftSize := t.loftSize }).loftSpan + 1024
        then [.overflow] else []),
      loftArmed := !(t.loftSize * 1024 < ({ c with loft := t.loft, loftTail := t.loftTail, loftSize := t.loftSize }).loftSpan + 1024),
      dbg := c.dbg.carried t.dbg, predict := [], rstack := [],
      poison := imagePoison s.badWords fun off => match framePa s l (base + 0x60000 + off) with | some pa => pa | none => 0 }
    let s := s.setCore c
    let s := { s with areds := s.areds.map fun (a : Ared) => if a.of c then { a with core := k } else a }
    let s := s.onLaunch l.id fun l => l.onStream t.rx t.ry fun t =>
      { t with st := if live then .live else .halted, core := k, locks := [], asyncs := [], debugHalted := false, dbg := none,
               loft := [], tasks := [], inHand := none, openTasks := [] }
    let s := t.locks.foldl (fun (s : State) e => s.postLock (some k) (.resume (e.who k) e.line)) s
    let s := s.emit k (0x28 :: bytesOf (recField l.record 48 16) 2 ++ bytesOf l.seq.toNat 4 ++ bytesOf (t.ry * 16 + t.rx) 1)
    let s := if live then s.emitAddr k 3 (s.core k).pc else s
    some ((drainLate l.id t.rx t.ry t.late.length s.settleLocks).niSettle k)
  | _, _ => none
/-- A pre-empted launch that has been placed again resumes as a whole (R280). A frame that cannot be read ends it as a save that
faults does (log entry 26), and one whose page has to wait is tried again. -/
def State.resumeLaunch (s : State) (id : Nat) : State :=
  match s.launchOf id with
  | none => s
  | some l =>
    if !(readyToStart s l && l.streams.all (·.inFrame)) then s
    else if l.saveFault then s.killLaunch id true
    else
      let p := s.pad l.pset
      let win := windowOf s l.pset (recField l.record 48 16)
      let started := s.onLaunch id fun l => { l with st := .running, awaits := [] }
      match l.streams.foldl (fun (o : Option State) t => o.bind fun s => restoreStream l win p.tvec s t) (started.askFrames l) with
      | some s => s
      | none => match l.streams.findSome? fun t => frameWait s l (l.frame t.rx t.ry) 0x100000 with
        | some u => u
        | none => s.killLaunch id true

/-! ### Sweeps (R292) -/

/-- A stream is idle in RECVT with no task it may take. -/
def idleIn (s : State) (c : Core) : Bool :=
  c.run == .running && c.res == .waiting && c.granted.isNone && (startable s c).isNone
  && (match c.search with | some (n, g) => decide (g.gw * g.gh ≤ n) | none => false)
/-- A sweep of a launch: two matching ones in a row with equal sums reach DONE. -/
def State.sweepLaunch (s : State) (id : Nat) : State :=
  match s.launchOf id with
  | none => s
  | some l =>
    let lives := l.streams.filter (·.st == .live)
    if l.st != .running || l.done || lives.isEmpty then s
    else
      let idle := lives.all fun t => idleIn s (s.core t.core)
      let sent := l.streams.foldl (fun n t => n + (s.core t.core).sent) l.resent
      let taken := l.streams.foldl (fun n t => n + (s.core t.core).taken) 0
      if !(idle && sent == taken) then s.onLaunch id fun l => { l with swept := none }
      else if l.swept == some (sent, taken) then s.onLaunch id fun l => { l with done := true, swept := none }
      else s.onLaunch id fun l => { l with swept := some (sent, taken) }

/-! ### Lost cores (R395, R398, R399) -/

/-- The live restart record of a stream's frame (R398): the task in the landing layout. One that is poisoned cannot be read (R394). -/
def restartRecord (s : State) (l : Launch) (t : Stream) : Option Task :=
  let base := l.frame t.rx t.ry + 0xA0000
  match frameRead s l base 296 with
  | none => none
  | some v =>
    let w := v / 2 ^ 256 % 2 ^ 64
    let bad := !s.badWords.isEmpty && (List.range (5 + min (w % 512) 256 / 8)).any fun i => match framePa s l (base + 8 * i) with
      | some pa => s.badWords.contains (pa / 8)
      | none => false
    if bitAt w 62 && !bad then
      some { record := BitVec.ofNat 256 v, restarted := true, snapLen := min (w % 512) 256,
             snap := BitVec.ofNat 2048 (v / 2 ^ 320 % 2 ^ (8 * min (w % 512) 256)), scope := .core, brand := none, owner := 0, seq := 0 }
    else none
/-- The live member of a launch with the lowest launch-relative cell index, a stream that has not halted, other than one (R399). -/
def lowestMember (l : Launch) (rx ry : Nat) : Option Stream :=
  (l.streams.filter fun u => !u.st.isHalted && !(u.rx == rx && u.ry == ry)).foldl (fun (o : Option Stream) u =>
    match o with | none => some u | some v => if u.ry * 16 + u.rx < v.ry * 16 + v.rx then some u else some v) none
/-- The tasks that a lost core leaves (R399): the one in hand restarted from its live record, one stolen for a RECVT that has not retired, then its
queue and its loft, in age order. -/
def lostTasks (s : State) (c : Core) (live : Option Task) : List Task :=
  (match c.inHand, live with
    | some h, some r => [{ r with owner := h.owner, seq := h.seq, numbered := true }]
    | _, _ => [])
  ++ c.granted.toList ++ c.taskQueue
  ++ ((heldRecords c).filter fun r => loftIsTask s c r).filterMap fun r => match loftDecode s c r with | .inr t => some t | .inl _ => none
/-- A core is lost: its unretired work goes, an AMO that is out among it, and a launch that has been killed waits for it no more (R391, R395). -/
def State.stopLost (s : State) (k : Nat) : State := ((s.squashOf k).onCore k fun c => { c with available := false }).endKillOf k
/-- A lost core's stream (R399): halted, its tasks sent on to the live member of lowest index, or its launch killed; `answers` says whether the
lost NI answers the dispatcher. With no live member its tasks stay where no one takes them (R293). -/
def State.loseCore (s : State) (k line : Nat) (answers : Bool) : State :=
  let c := s.core k
  let s := s.stopLost k
  match s.launchOfCore k with
  | none => s.onCore k fun c => { c with run := .lost }
  | some l =>
    match l.stream c.rx c.ry with
    | none => s
    | some t =>
      let live := restartRecord s l t
      let spoilt := (heldRecords c).any fun r => loftIsTask s c r && !(loftBad s c r).isEmpty
      if answers && !spoilt && ((recField l.record 181 1 == 1 && live.isSome) || c.inHand.isNone) then
        let moved := lostTasks s c live
        let best := lowestMember l t.rx t.ry
        let restarts := if c.inHand.isSome then 1 else 0
        let s := s.dropLocks k false
        let s := s.onLaunch l.id fun l =>
          { (l.onStream t.rx t.ry fun t => { t with st := .halted, tasks := if best.isNone then moved else [] }) with resent := l.resent + restarts }
        let s := s.setCore { (s.core k) with run := .lost, taskQueue := [], loft := [], inHand := none, granted := none, launch := none }
        let s := match best with
          | none => s
          | some u => (moved.foldl (fun (s : State) x => s.postNi (.task l.id u.rx u.ry none x false)) s).settleNi
        let s := (l.streams.filter fun v => v.st == .live && !(v.rx == t.rx && v.ry == t.ry)).foldl (fun (s : State) (v : Stream) =>
          s.onCore v.core fun c => { c with asyncs := .fenceOff line k :: c.asyncs }) s
        let s := if l.st == .preempting then
            (s.onLaunch l.id fun l => { l with streams := l.streams.map (Stream.leaveLost s l.id) }).finishSave l.id
          else s
        (retryEpisodes s l.id).settleNi
      else (s.killCore k 4).onCore k fun c => { c with run := .lost }
/-- A core lost for errors of its own (R395), logged as CORE-LOST. -/
def State.coreLost (s : State) (k : Nat) (answers : Bool) : State :=
  ((s.loseCore k 0 answers).onCore k fun c => { c with run := .lost, available := false }).logCore k 2 0 0

end Sys2Proof.Machine
end

