-- ==== Sys2Proof/Machine/Ops.lean ====
section
/-! DEFINITION. The shared operations of every instruction: retirement (01 R20), taking a trap and returning from one (16 R348,
R352, 18 R386 to R388), arrivals (02 R41), and the waits of fences and releases (08 R183, R184). -/
namespace Sys2Proof.Machine

/-- The outcome of a step. -/
abbrev Result := Host.Outcome State Fault Refusal

/-! ### Taking a trap and returning -/

/-- The moving core's squash (R388). -/
def State.squash (s : State) : State := { (s.dropAsked s.me.id) with me := s.me.squash }
/-- ECAUSE of a trap (R349). -/
def Trap.ecause (t : Trap) : Word := BitVec.ofNat 64 (t.cause * 2 ^ 24 + t.kind * 2 ^ 16 + t.code % 1024)
/-- Poison leaves system registers that are written whole (R394), by their places. STATUS never is: LVL stands. -/
def Core.cleanSys (c : Core) (is : List Nat) : Core :=
  if c.poison.isEmpty then c
  else { c with poison := c.poison.filter fun p => match p with | .sysreg i => i == 4 || !is.contains i | _ => true }
/-- What TakeTrap of R348 writes into the core: the trap registers, STATUS, and the arrival at STVEC. -/
def Core.enterTrap (c : Core) (t : Trap) (epc : Word) : Core :=
  { c.squash.cleanSys [5, 6, 7, 8] with
    epc := epc, ecause := t.ecause, eva := t.va, erow := BitVec.ofNat 64 t.row,
    status := mkStatus true c.level (if c.isYard then 3 else 1), pc := c.stvec, npc := c.stvec, arrived := true, res := .trapped,
    dbg := c.dbg.next }
/-- A double trap (R348): the launch of a core is killed, for a machine check where that is the cause (R407); a yard controller is lost to a machine check of its die (log entry
27). -/
def State.doubleTrap (s : State) (cause : Nat) : State :=
  if s.me.isYard then s.onMe fun c => { c.squash with run := .lost, res := .trapped }
  else (s.onMe fun c => { c.squash with res := .trapped }).killCore s.me.id (if cause == 0x11 then 2 else 1)
/-- The packets of a trap (R420): RETIRE, TRAP and the arrival. -/
def State.emitTrap (s : State) (t : Trap) : State :=
  ((s.emitRetire s.me.id).emit s.me.id (0x60 :: bytesOf (t.ecause.toNat % 2 ^ 32) 4)).emitAddr s.me.id 1 s.me.stvec
/-- TakeTrap of R348 on the moving core, with the address that EPC names; a synchronous one inside a trap is a double trap. -/
def State.takeTrap (s : State) (t : Trap) (epc : Word) (async : Bool) : State :=
  if s.me.inTrap && !async then s.doubleTrap t.cause
  else
    let s := s.emitTrap t
    { s.squash with me := s.me.enterTrap t epc }
/-- What TRET does to the status (R352): LVL = PLV and INTRAP = 0. A yard controller stays at machine level whatever PLV holds
(R346, log entry 30). -/
def Core.leaveTrap (c : Core) : Core := { c with status := mkStatus false c.plv (if c.isYard then 3 else c.plv) }

/-! ### Retirement (R20) -/

/-- The bundle in hand retires and the pc moves to the address after it. -/
def Core.retire (c : Core) : Core :=
  { c.squash with pc := c.npc, arrived := false, res := .retired, nBundles := c.nBundles + 1,
                  dbg := c.dbg.next, trc := { c.trc with since := c.trc.since + 1 } }
/-- Retirement of the moving core's bundle. The one halt that a resumption skips (R413) is behind it. -/
def State.retire (s : State) : State := { s with me := s.me.retire }
/-- Retirement with a non-sequential arrival (R41). -/
def State.retireTo (s : State) (target : Word) : State := { s with me := { s.me.retire with pc := target, arrived := true } }
/-- The bundle waits: it is tried again. -/
def State.hold (s : State) : State := { s with me := { s.me with res := .waiting } }
/-- An instruction's answer as an outcome: a value retires the bundle, a wait holds it, a trap is taken at it. -/
def finish (x : Ans Unit) : Result :=
  match x with
  | .ok s _ => .next s.retire
  | .wait s => .next s.hold
  | .trap s t => .next (s.takeTrap t s.me.pc false)
/-- The same for an instruction that jumps: its answer is where it arrives. -/
def finishJump (x : Ans Word) : Result :=
  match x with
  | .ok s t => .next (s.retireTo t)
  | .wait s => .next s.hold
  | .trap s t => .next (s.takeTrap t s.me.pc false)
/-- An instruction with one destination register and nothing else. -/
def retireWith (s : State) (gd : GReg) (v : Word) : Result := .next (s.setG gd v).retire

/-! ### Arrivals (R41) -/

/-- The word before a target in its fetch block is the head of a pair. A word that cannot be fetched is left to the arrival. -/
def secondWord (s : State) (a : Word) : Ans Bool :=
  if a.getLsbD 2 then
    match s.codeWord (a - 4) with
    | .ok s w => .ok s (w.getLsbD 31)
    | .wait s => .wait s
    | .trap s _ => .ok s false
  else .ok s false
/-- The check of a jump's or branch's target, in the jumping bundle. -/
def checkTarget (s : State) (a : Word) : Ans Word :=
  let bad : Trap := { cause := 3, kind := 0, code := 0, va := a, row := 0 }
  if a.extractLsb' 0 2 != 0 then .trap s bad
  else (secondWord s a).bind fun s second => if second then .trap s bad else .ok s a

/-! ### Privilege (R346) -/

/-- An instruction that needs supervisor or machine level. -/
def needSupervisor (s : State) (k : State → Result) : Result :=
  if s.me.level == 0 then finish (.trap s levelTrap) else k s

/-! ### Waits (R183, R184, R239) -/

/-- The outstanding-store counter is zero (R210). -/
def Core.storesDone (c : Core) : Bool := c.undone.isEmpty && c.others == 0
/-- The counter's value. -/
def Core.storeCount (c : Core) : Nat := c.undone.length + c.others
/-- The CPY, CPYF and ARED of a core have committed their writes. -/
def enginesDone (s : State) (k : Nat) : Bool := !(s.jobs.any (·.core == k)) && !(s.areds.any (·.of (s.core k)))
/-- The marks of a core's copies are in place (R191). -/
def marksDone (s : State) (k : Nat) : Bool := !(s.jobs.any fun j => j.core == k && !j.unmarked.isEmpty)
/-- The wait of a branded release: stores and engines (R183). -/
def awaitRelease (s : State) : Ans Unit :=
  let s := s.settle
  if s.me.storesDone && enginesDone s s.me.id then .ok s () else .wait s
/-- The wait of a plain release at a scope (R183): at .core none. -/
def awaitPlainRelease (s : State) (sc : Scope) : Ans Unit :=
  if sc == .core then .ok s ()
  else
    let s := s.settle
    if s.me.storesDone && marksDone s s.me.id then .ok s () else .wait s
/-- The wait of an ordering field: releases wait, the others do not. -/
def awaitOrd (s : State) (o : Ord) (sc : Scope) : Ans Unit :=
  match o with
  | .rel | .ar => awaitPlainRelease s sc
  | .rlx | .acq => .ok s ()
/-- An acquire's part of an ordering field (R182). -/
def State.acquireOrd (s : State) (o : Ord) (sc : Scope) : State :=
  match o with
  | .acq | .ar => s.plainAcquire sc
  | .rlx | .rel => s
/-- n more line writes fit the counter of 128 (R181, R210). An instruction of several writes waits for room for all of them; one that writes more
lines than the counter holds waits until it is zero and retires whole (DESIGN CHOICE, log entry 73). -/
def roomForStore (s : State) (n : Nat) : Ans Unit :=
  let s := if s.me.storeCount + n ≤ 128 then s else s.settle
  if s.me.storeCount + n ≤ 128 || s.me.storesDone then .ok s () else .wait s

end Sys2Proof.Machine
end

