-- ==== Sys2Proof/Machine/Dbg.lean ====
section
/-! DEFINITION. The debug module's halts and resumptions (19 R411 to R415). -/
namespace Sys2Proof.Machine

/-- A halt of core k at its pc (R412, R413): nothing of the bundle has effect, the image is written, HALTED is set once it stands. -/
def State.debugHalt (s : State) (k cause index : Nat) : State :=
  match haltImage s k with
  | none => s
  | some pa =>
    let c := s.core k
    let s := (s.poisonNext 1026 (poisonedWords c.poison fun off => some (pa + off))).engineWrite pa 0x40000 (contextImage c c.pc c.level)
    let s := (s.emitRetire k).emit k [0x68, BitVec.ofNat 8 cause]
    (s.squashOf k).onCore k fun (c : Core) =>
      { c with run := .debugHalted, res := .trapped,
               dbg := { c.dbg with cause := cause, index := index, dpc := c.pc, haltreq := false, stepping := false,
                                   held := some { mbox := c.mbox, arrivals := c.arrivals, taskQueue := c.taskQueue } } }
/-- RESUME, or STEP, of a core in debug halt (R413): the image is checked and reloaded, and the core continues at its PC. -/
def State.debugContinue (s : State) (k : Nat) (step : Bool) : State :=
  let c := s.core k
  if !haltedAt s k then s
  else
    let refuse := s.onCore k fun c => { c with dbg := { c.dbg with err := true } }
    match haltLoaded s k with
    | none => refuse
    | some d =>
      let d := { d with run := .running, arrived := true, res := .retired,
                        dbg := { c.dbg with err := false, held := none, skip := c.dbg.cause == 2 || c.dbg.cause == 3 || c.dbg.cause == 5, stepping := step } }
      let d := { d with timers := d.timers.set (Fin.ofNat 15 14) (d.timers[14] + (Config.timedCounter s.tick 14).setWidth 64) }
      ((s.setCore d).tock.coverFillsOf k fun _ => true).emitAddr k 4 d.pc
/-- The DEBUG trap of a breakpoint, a watch or a BRK that cannot halt (R412, R416). -/
def debugTrap (code : Nat) : Trap := { cause := 0x12, kind := 0, code := code, va := 0, row := 0 }
/-- The breakpoints and the watches that the bundle in hand was dispatched under (R411). -/
def Debug.arms (d : Debug) : Vector Word 4 × Vector Word 2 × Vector Word 2 := d.armed.getD (d.bp, d.watch0, d.watch1)
/-- The halt of a cause and an index is the one that the first bundle after a resumption skips (R413). -/
def Debug.skips (d : Debug) (cause index : Nat) : Bool := d.skip && d.cause == cause && d.index == index
/-- An access of a hull [lo, hi) by kind, 0 read or 1 write, matches a watch of the moving core (R414). -/
def watchHit (c : Core) (lo hi : Nat) (write : Bool) : Option Nat :=
  (List.range 2).find? fun i =>
    let w0 := c.dbg.arms.2.1[Fin.ofNat 2 i].toNat
    let lim := c.dbg.arms.2.2[Fin.ofNat 2 i].toNat % 2 ^ 48
    !c.dbg.skips 3 i && bitAt w0 63 && (if write then bitAt w0 61 else bitAt w0 62) && decide (lo < lim) && decide (w0 % 2 ^ 48 < hi)
/-- A breakpoint of the moving core at an address (R412). -/
def breakHit (c : Core) (pc : Word) : Option Nat :=
  (List.range 4).find? fun i =>
    let b := c.dbg.arms.1[Fin.ofNat 4 i]
    !c.dbg.skips 2 i && b.getLsbD 0 && b.toNat % 2 ^ 48 / 4 == pc.toNat % 2 ^ 48 / 4

end Sys2Proof.Machine
end

