-- ==== Sys2Proof/Machine/Regs.lean ====
section
/-! DEFINITION. The registers of the cell control blocks and of the paddock windows (07 R166, 12 R268, R269, 13 R313, 16 R368 to
R375, 18 R390, R396, R397, R406, 19 R411, R419, R421) and of PF 0's BAR0 (21 R434 to R443). Offsets that no table lists are
reserved: they read zero and ignore writes (00 R5). -/
namespace Sys2Proof.Machine

/-! ### The paddock window (R368) -/

/-- A state of a set as PCTL.STATE codes it. -/
def PState2.code : PState2 → Nat | .run => 0 | .quiescing => 1 | .stopped => 2
/-- The accepted set as a window's offset 0x0A0 reads it (R436, R437). -/
def acceptedWord (s : State) (n : Nat) : Nat :=
  let both := s.boot.dies[(0 : Fin 2)] &&& s.boot.dies[(1 : Fin 2)]
  let set := if n == 6 then both else if n == 0 || n == 1 || n == 4 then s.boot.dies[(0 : Fin 2)] else s.boot.dies[(1 : Fin 2)]
  s.boot.done.toNat * 2 ^ 63 + set.toNat
/-- QSTAT (R268). -/
def Queue.stat (q : Queue) : Nat := q.drop.toNat * 2 ^ 63 + q.inval.toNat * 2 ^ 62 + q.ends.toNat * 2 ^ 16 + q.recs.length
/-- A register of set n's window as it reads. -/
def padRead (s : State) (n off : Nat) : Nat :=
  let p := s.pad n
  if off == 0x000 then
    p.num * 2 ^ 32 + p.active.toNat * 2 ^ 7 + p.busy.toNat * 2 ^ 6 + p.st.code * 2 ^ 4 + p.flushing.toNat * 2 ^ 3
  else if off == 0x010 then p.cmask.toNat % 2 ^ 64
  else if off == 0x018 then p.cmask.toNat / 2 ^ 64 % 2 ^ 64
  else if off == 0x020 then p.cmask.toNat / 2 ^ 128
  else if off == 0x028 then p.ncode * 2 ^ 4 + p.stackMask.toNat
  else if off == 0x030 then p.lkto
  else if off == 0x038 then p.asidtb.toNat
  else if off == 0x040 then p.tvec.toNat % 2 ^ 48
  else if off == 0x048 then p.qlim.toNat
  else if off == 0x050 then p.priStray.toNat * 2 ^ 32 + p.priStopped.toNat * 2 + p.priEnable.toNat
  else if off == 0x060 then p.dumpBase.toNat
  else if off == 0x068 then p.dumpLen.toNat
  else if off == 0x070 then p.dumpStat.toNat
  else if off == 0x080 then p.rrMode
  else if off == 0x088 then p.rrBase.toNat
  else if off == 0x090 then p.rrLen.toNat
  else if off == 0x098 then p.rrCount.toNat * 2 ^ 32 + p.rrDiverged.toNat * 4 + p.rrOver.toNat * 2 + p.rrRefused.toNat
  else if off == 0x0A0 then acceptedWord s n
  else if 0x800 ≤ off && off < 0x900 then
    match p.dropLog.find? (·.1 == (off - 0x800) / 16) with
    | some (_, a, b) => if off % 16 == 0 then a.toNat else b.toNat
    | none => 0
  else if 0x1000 ≤ off && off < 0x1400 then
    let q := p.queues[Fin.ofNat 16 ((off - 0x1000) / 64)]
    if off % 64 == 0x20 then q.stat
    else if off % 64 == 0x28 then q.base.toNat / 512 % 2 ^ 39 * 512 + q.head
    else if off % 64 == 0x30 then q.ctl.toNat
    else 0
  else if 0x2000 ≤ off && off < 0x2800 then
    match p.deadlockLog.find? (·.1 == (off - 0x2000) / 128) with
    | some (_, ws) => (ws.getD (off % 128 / 8) 0).toNat
    | none => 0
  else if off == 0x3000 then p.errCount.toNat * 2 ^ 32 + p.errHead * 2 ^ 16 + p.errMsie.toNat * 2 ^ 8 + p.errVec.toNat
  else if 0x3100 ≤ off && off < 0x3300 then
    match p.errLog.find? (·.1 == (off - 0x3100) / 32) with
    | some (_, a, b, g) => if off % 32 == 0 then a.toNat else if off % 32 == 8 then b.toNat else if off % 32 == 16 then g.toNat else 0
    | none => 0
  else 0

/-- A set has cells on a die by its shape (R367). -/
def setOnDie (n die : Nat) : Bool :=
  n == 6 || (if die == 0 then n == 0 || n == 1 || n == 4 else n == 2 || n == 3 || n == 5)
/-- RUN to QUIESCING (R369, R375): retentions are dropped; an inactive set stops at once (R382). A set with cells on a die in reset refuses with BUSY
(R409). -/
def State.quiesceSet (s : State) (n : Nat) : State :=
  let away := (List.range 2).any fun d => setOnDie n d && s.dies[Fin.ofNat 2 d] == .reset
  s.onPad n fun p => if p.st != .run then p else if !p.active then { p with st := .stopped } else if away then { p with busy := true } else { p with st := .quiescing, retentions := [] }
/-- STOPPED to RUN. -/
def State.resumeSet (s : State) (n : Nat) : State := s.onPad n fun p => if p.st == .stopped then { p with st := .run } else p
/-- A line's private copies recalled for a flush (R375). -/
def State.flushLine (s : State) (d : DirLine) : State :=
  match d.st with
  | .g gs false => (match s.recallG d.line gs with | some t => t | none => s)
  | .g _ true => s
  | .w => s
  | _ => if d.sharers.isEmpty || d.round.isSome then s else s.startRecall d
/-- A flush begins in STOPPED (R375): every slice of the set recalls its private copies. -/
def State.flushSet (s : State) (n : Nat) : State :=
  if (s.pad n).st != .stopped then s
  else
    let s := s.onPad n fun p => { p with flushing := true }
    ((s.dir.filter fun d => (s.pad n).cmask.getLsbD d.home).foldl State.flushLine s).settle
/-- A dirty line written back where the write-back may fail: its bytes are then undefined and it is reported (R384, R404). -/
def State.writeBackOrLose (s : State) (d : DirLine) : State :=
  if Config.writeBackFails s.tick d.line then
    (s.place (d.line * 128) 128 (packBits 8 ((List.range 128).map fun i => (Config.lostByte s.tick (d.line * 128 + i)).toNat))).logAt d.home 5
      (s.coreNo d.home) 0 (d.line * 128)
  else s
/-- Some slices' dirty lines written back (R375, R404); each loss is a free choice. -/
def State.writeBackAll (s : State) (which : DirLine → Bool) : State :=
  match s.dir.filter fun d => d.dirty && which d with
  | [] => s
  | ds => (ds.foldl (·.writeBackOrLose) s).tock
/-- A line of a flushing set whose round is over is recalled after it (R213). -/
def State.flushOne (s : State) (n : Nat) : Option State :=
  (s.dir.find? fun d => (s.pad n).cmask.getLsbD d.home && d.round.isNone && (match d.st with
    | .g _ recalling => !recalling
    | .w => false
    | _ => !d.sharers.isEmpty)).map s.flushLine
/-- A quiescing set with empty queues and no launch stops (R375). -/
def State.quiesceDone (s : State) (n : Nat) : State :=
  s.onPad n fun p =>
    if p.st == .quiescing && p.queues.toList.all (·.recs.isEmpty) && !(s.launches.any (·.pset == n)) then { p with st := .stopped } else p
/-- QLIM has passed while quiescing: back to RUN with BUSY (R375). -/
def State.quiesceFail (s : State) (n : Nat) : State := s.onPad n fun p => if p.st == .quiescing then { p with st := .run, busy := true } else p
/-- A write of one word of CMASK; a set that becomes active starts with empty queues and sequence numbers from zero (R270, R375); its STATE
stands as it was (DESIGN CHOICE, log entry 87). Before the driver's answer, and on a die that awaits its own, none becomes active (R437). -/
def State.setCmask (s : State) (n i : Nat) (v : Nat) : State :=
  let may := s.boot.answered && (List.range 2).all fun d => !setOnDie n d || s.dies[Fin.ofNat 2 d] == .up
  s.onPad n fun p =>
    let m := BitVec.ofNat 192 (setBits p.cmask.toNat (64 * i) 64 v)
    if p.cmask == 0 && !may then p
    else if p.cmask == 0 && m != 0 then { p with cmask := m, queues := p.queues.map fun q => { q with recs := [], nextSeq := 0 } } else { p with cmask := m }
/-- A record's bytes [24, 32) reach QPORT: the record enters the queue, or is dropped where the queue is full (R269). -/
def State.qportEnter (s : State) (n q : Nat) : State :=
  let p := s.pad n
  let qu := p.queues[Fin.ofNat 16 q]
  if 64 ≤ qu.recs.length then s.onQueue n q fun qu => { qu with drop := true }
  else s.enqueue n q qu.staged
/-- A write of 8 bytes to QPORT (R269); but in RUN it is discarded and sets DROP (R375, R382). -/
def State.qportWord (s : State) (n q off v : Nat) : State :=
  if (s.pad n).st != .run then s.onQueue n q fun qu => { qu with drop := true } else
  let s := s.onQueue n q fun qu => { qu with staged := BitVec.ofNat 256 (setBits qu.staged.toNat (8 * off) 64 v) }
  if off == 24 then s.qportEnter n q else s
/-- MODE of RRCTL written (R421): refused while a launch of the set exists, 3 ignored. -/
def State.rrSet (s : State) (n mode : Nat) : State :=
  if mode == 3 then s
  else if s.launches.any (·.pset == n) then s.onPad n fun p => { p with rrRefused := true }
  else s.onPad n fun p => { p with rrMode := mode, rrSegs := [], rrCount := 0 }
/-- PRICTL.ENABLE written; a 1 clears STOPPED (R368). ENABLE = 0 stops no page request (DESIGN CHOICE, log entry 86). -/
def State.priSet (s : State) (n v : Nat) : State :=
  s.onPad n fun p => { p with priEnable := v % 2 == 1, priStopped := p.priStopped && v % 2 == 0 }
/-- A register of set n's window written, at machine level or as the supervisor and the host do (R368). -/
def padWrite (s : State) (n off v : Nat) (machine : Bool) : State :=
  if off == 0x000 then
    if !machine then s
    else
      let s := if bitAt v 6 then s.onPad n fun p => { p with busy := false } else s
      let s := if bitAt v 2 then s.flushSet n else s
      let s := if bitAt v 1 then s.resumeSet n else s
      if bitAt v 0 then s.quiesceSet n else s
  else if off == 0x010 then (if machine then s.setCmask n 0 v else s)
  else if off == 0x018 then (if machine then s.setCmask n 1 v else s)
  else if off == 0x020 then (if machine then s.setCmask n 2 v else s)
  else if off == 0x028 then (if machine then s.onPad n fun p => { p with ncode := v / 2 ^ 4 % 4, stackMask := BitVec.ofNat 4 v } else s)
  else if off == 0x030 then s.onPad n fun p => if 16 ≤ v % 32 && v % 32 ≤ 30 then { p with lkto := v % 32 } else p
  else if off == 0x038 then s.onPad n fun p => { p with asidtb := BitVec.ofNat 64 (v / 2 ^ 20 % 2 ^ 28 * 2 ^ 20 + v % 2) }
  else if off == 0x040 then s.onPad n fun p => { p with tvec := sext48 (v % 2 ^ 48 / 4 * 4) }
  else if off == 0x048 then (if machine then s.onPad n fun p => { p with qlim := BitVec.ofNat 64 v } else s)
  else if off == 0x050 then s.priSet n v
  else if off == 0x058 then s.killWrite n (BitVec.ofNat 64 v)
  else if off == 0x060 then s.onPad n fun p => { p with dumpBase := BitVec.ofNat 64 (v / 2 ^ 12 % 2 ^ 36 * 2 ^ 12 + v % 4) }
  else if off == 0x068 then s.onPad n fun p => { p with dumpLen := BitVec.ofNat 64 (v % 2 ^ 32) }
  else if off == 0x080 then s.rrSet n (v % 4)
  else if off == 0x088 then s.onPad n fun p => { p with rrBase := BitVec.ofNat 64 (v / 2 ^ 12 % 2 ^ 36 * 2 ^ 12) }
  else if off == 0x090 then s.onPad n fun p => { p with rrLen := BitVec.ofNat 64 (v % 2 ^ 40) }
  else if off == 0x098 then s.onPad n fun p =>
    { p with rrDiverged := p.rrDiverged && !bitAt v 2, rrOver := p.rrOver && !bitAt v 1, rrRefused := p.rrRefused && !bitAt v 0 }
  else if 0x1000 ≤ off && off < 0x1400 then
    let q := (off - 0x1000) / 64
    let o := off % 64
    if o < 0x20 then s.qportWord n q o v
    else if o == 0x20 then s.onQueue n q fun qu => { qu with drop := qu.drop && !bitAt v 63, inval := qu.inval && !bitAt v 62 }
    else if o == 0x28 then s.onQueue n q fun qu => { qu with base := BitVec.ofNat 64 (v / 512 % 2 ^ 39 * 512) }
    else if o == 0x30 then s.onQueue n q fun qu => { qu with ctl := BitVec.ofNat 64 (v % 512) }
    else s
  else if off == 0x3000 then s.onPad n fun p => { p with errMsie := bitAt v 8, errVec := BitVec.ofNat 8 v }
  else s

/-! ### The cell control block -/

/-- DCTL of core k as it reads (R411). -/
def State.dctl (s : State) (k : Nat) : Nat :=
  let d := (s.core k).dbg
  d.cause * 2 ^ 12 + d.index * 2 ^ 10 + d.err.toNat * 2 ^ 5 + d.brken.toNat * 2 ^ 4 + (haltedAt s k).toNat * 2 ^ 3
/-- A breakpoint or watch register is about to change: a bundle that has been dispatched stays under what it was dispatched under (R411). -/
def Core.keepArms (c : Core) : Core :=
  if c.run == .running && c.res == .waiting && c.dbg.armed.isNone then { c with dbg := { c.dbg with armed := some c.dbg.arms } } else c
/-- The set whose window a cell holds, if any. -/
def setOfCell (cell : Nat) : Option Nat := (List.range 7).find? fun n => masterCell n == cell
/-- The retention table of the set that owns a cell. -/
def tableOfCell (s : State) (cell : Nat) : List (Nat × RetEntry) :=
  match s.pads.toList.find? fun p => p.active && p.cmask.getLsbD cell with
  | some p => p.retained
  | none => []
/-- A word of a link window (R374). -/
def windowWord (w : Window) (i : Nat) : Nat :=
  if i == 0 then w.v.toNat * 2 ^ 63 + w.r.toNat * 2 ^ 62 + w.w.toNat * 2 ^ 61 + w.a.toNat * 2 ^ 60 + w.pmask.toNat * 2 ^ 53
    + w.base % 2 ^ 35 * 2 ^ 12
  else w.limit % 2 ^ 35 * 2 ^ 12
/-- A register of a cell's control block as it reads; `off` is a multiple of 8. -/
def regRead (s : State) (cell off : Nat) : Nat :=
  let c := s.core (s.coreNo cell)
  if off == 0xF0400 then c.tag * 2 ^ 5 + c.bport
  else if off == 0xF0500 then c.loftctl
  else if off == 0xF0600 then c.corrected * 2 ^ 32 + c.replays
  else if 0xF0800 ≤ off && off < 0xF0880 then
    match (tableOfCell s cell).find? (·.1 == (off - 0xF0800) / 16) with
    | some (_, e) => if off % 16 == 0 then e.asid * 2 ^ 48 + e.base % 2 ^ 36 * 2 ^ 12 + e.ways * 2 ^ 4 + 1 else e.limit % 2 ^ 36 * 2 ^ 12
    | none => 0
  else if off == 0xF0A00 then s.dctl (s.coreNo cell)
  else if off == 0xF0A08 then c.dbg.dpc.toNat
  else if off == 0xF0A10 then c.dbg.dsave.toNat
  else if 0xF0A20 ≤ off && off < 0xF0A40 then (c.dbg.bp[Fin.ofNat 4 ((off - 0xF0A20) / 8)]).toNat
  else if 0xF0A40 ≤ off && off < 0xF0A60 then
    if off % 16 == 0 then (c.dbg.watch0[Fin.ofNat 2 ((off - 0xF0A40) / 16)]).toNat else (c.dbg.watch1[Fin.ofNat 2 ((off - 0xF0A40) / 16)]).toNat
  else if off == 0xF0A80 then c.trc.ctl.toNat
  else if off == 0xF0A88 then c.trc.base.toNat
  else if off == 0xF0A90 then c.trc.len.toNat
  else if off == 0xF0A98 then c.trc.head
  else if cell == windowCell && 0xF1000 ≤ off && off < 0xF1080 then
    windowWord s.windows[Fin.ofNat 8 ((off - 0xF1000) / 16)] (off % 16 / 8)
  else if 0xFC000 ≤ off then (match setOfCell cell with | some n => padRead s n (off - 0xFC000) | none => 0)
  else 0
/-- DCTL written (R411, R413). HALTREQ is kept pending until the boundary that takes it. -/
def State.dctlWrite (s : State) (k v : Nat) : State :=
  let s := s.onCore k fun c => { c with dbg := { c.dbg with brken := bitAt v 4, haltreq := c.dbg.haltreq || (bitAt v 0 && c.run != .debugHalted) } }
  if bitAt v 2 then s.debugContinue k true else if bitAt v 1 then s.debugContinue k false else s
/-- TRCCTL written (R419): FULL is read-only, and EN raised anew starts a trace with its sync packet. -/
def Core.trcWrite (c : Core) (v : Nat) : Core :=
  let en := bitAt v 0
  { c with trc := { c.trc with
      ctl := BitVec.ofNat 64 (v % 32 + (c.trcBit 5).toNat * 32), sync := if en && !c.trcBit 0 then 0 else c.trc.sync,
      outcomes := if en && !c.trcBit 0 then [] else c.trc.outcomes } }
/-- The link windows sent to the peer (R374). -/
def State.sendWindows (s : State) : State := if s.link.up then { s with out := s.out ++ [.windowTable] } else s
/-- A word of a link window written by firmware (R374). -/
def State.windowSet (s : State) (i word v : Nat) : State :=
  let w := s.windows[Fin.ofNat 8 i]
  let w := if word == 0 then { w with v := bitAt v 63, r := bitAt v 62, w := bitAt v 61, a := bitAt v 60, pmask := BitVec.ofNat 7 (v / 2 ^ 53),
                                      base := v / 2 ^ 12 % 2 ^ 35 }
    else { w with limit := v / 2 ^ 12 % 2 ^ 35 }
  ({ s with windows := s.windows.set (Fin.ofNat 8 i) w }).sendWindows
/-- A register of a cell's control block written. -/
def regWrite (s : State) (cell off v : Nat) (machine : Bool) : State :=
  let k := s.coreNo cell
  if off == 0xF0400 then (if machine then s.onCore k fun c => { c with tag := v / 2 ^ 5 % 8, bport := v % 16 } else s)
  else if off == 0xF0500 then s.loftctlSet k v
  else if off == 0xF0A00 then s.dctlWrite k v
  else if off == 0xF0A10 then s.onCore k fun c => { c with dbg := { c.dbg with dsave := BitVec.ofNat 64 (v / 2 ^ 12 % 2 ^ 36 * 2 ^ 12 + v % 2) } }
  else if 0xF0A20 ≤ off && off < 0xF0A40 then
    s.onCore k fun c => let c := c.keepArms; { c with dbg := { c.dbg with
      bp := c.dbg.bp.set (Fin.ofNat 4 ((off - 0xF0A20) / 8)) (BitVec.ofNat 64 (v % 2 ^ 48 / 4 * 4 + v % 2)) } }
  else if 0xF0A40 ≤ off && off < 0xF0A60 then
    let i : Fin 2 := Fin.ofNat 2 ((off - 0xF0A40) / 16)
    s.onCore k fun c => let c := c.keepArms; { c with dbg :=
      if off % 16 == 0 then { c.dbg with watch0 := c.dbg.watch0.set i (BitVec.ofNat 64 (v / 2 ^ 61 % 8 * 2 ^ 61 + v % 2 ^ 48)) }
      else { c.dbg with watch1 := c.dbg.watch1.set i (BitVec.ofNat 64 (v % 2 ^ 48)) } }
  else if off == 0xF0A80 then s.onCore k (·.trcWrite v)
  else if off == 0xF0A88 then s.onCore k fun c => { c with trc := { c.trc with base := BitVec.ofNat 64 (v / 2 ^ 12 % 2 ^ 36 * 2 ^ 12) } }
  else if off == 0xF0A90 then s.onCore k fun c => { c with trc := { c.trc with len := BitVec.ofNat 64 (v / 2 ^ 12 % 2 ^ 20 * 2 ^ 12) } }
  else if cell == windowCell && 0xF1000 ≤ off && off < 0xF1080 then
    (if machine then s.windowSet ((off - 0xF1000) / 16) (off % 16 / 8) v else s)
  else if 0xFC000 ≤ off then (match setOfCell cell with | some n => padWrite s n (off - 0xFC000) v machine | none => s)
  else s
/-- The bits of a register that a write of other bytes must leave alone though they are set: those that a 1 clears. -/
def clearOnOne (cell off : Nat) : Nat :=
  if (setOfCell cell).isSome && off == 0xFC000 then 2 ^ 6
  else if (setOfCell cell).isSome && off == 0xFC098 then 7
  else if (setOfCell cell).isSome && 0xFD000 ≤ off && off < 0xFD400 && off % 64 == 0x20 then 2 ^ 63 + 2 ^ 62
  else 0
/-- n bytes of the control blocks from an offset, within one doubleword. -/
def regBytes (s : State) (cell off n : Nat) : Nat := getBits (regRead s cell (off / 8 * 8)) (8 * (off % 8)) (8 * n)
/-- n bytes of a register written; the other bytes keep what they read, save what a 1 would clear (log entry 29). -/
def regSetBytes (s : State) (cell off n v : Nat) (machine : Bool) : State :=
  let r := off / 8 * 8
  let old := regRead s cell r
  let keep := old - (old &&& clearOnOne cell r)
  regWrite s cell r (if n == 8 then v else setBits keep (8 * (off % 8)) (8 * n) v) machine

/-! ### PF 0's BAR0 (R434) -/

/-- A quarter's clock in MHz, from its steps of 21.875 MHz below 1,400 (R441). -/
def clockMHz (steps : Nat) : Nat := (1400000 - 21875 * steps) / 1000
/-- A start-up register as it reads. -/
def pfRead (s : State) (off : Nat) : Nat :=
  if off == 0x0000 then s.boot.featdev.toNat
  else if off == 0x0008 then s.boot.done.toNat * 2 ^ 63 + s.boot.featacc.toNat
  else if off == 0x0010 then s.boot.slot * 2 ^ 4 + s.boot.stage
  else if off == 0x0018 then
    (s.quarters.toList.foldl (fun m q => min m (clockMHz (max q.clockSteps q.ceilSteps))) 1400) * 2 ^ 16
      + (s.quarters.toList.any (·.spacing)).toNat * 2 + s.cap.toNat
  else if 0x0020 ≤ off && off < 0x0040 then
    let q := s.quarters[Fin.ofNat 4 ((off - 0x20) / 8)]
    q.voff / 4 % 2 ^ 16 * 2 ^ 32 + q.slack.toNat * 2 ^ 16 + clockMHz q.ceilSteps
  else if off == 0x0040 then s.link.retrains % 256 * 2 ^ 8 + s.link.lost.toNat * 4 + s.link.card * 2 + s.link.up.toNat
  else if off == 0x0048 then s.boot.cardId.toNat
  else if off == 0x0050 then (s.boot.dies[(1 : Fin 2)]).toNat * 2 ^ 8 + (s.boot.dies[(0 : Fin 2)]).toNat
  else 0
/-- The driver's answer (R436, R437): the first fixes both dies' sets, one after a die warm reset that die's bits [5:0]. -/
def State.feataccSet (s : State) (v : Nat) : State :=
  if s.boot.done || v / 2 ^ 63 % 2 == 0 || s.boot.stage != 3 then s
  else
    let acc : BitVec 8 := BitVec.ofNat 8 v &&& s.boot.featdev
    if !s.boot.answered then
      { s with boot := { s.boot with done := true, answered := true, featacc := acc, dies := Vector.replicate 2 acc, stage := 4 } }
    else
      match s.boot.asking with
      | [] => s
      | d :: rest =>
        let old := s.boot.dies[d]
        { s with boot := { s.boot with done := rest.isEmpty, featacc := acc, stage := if rest.isEmpty then 6 else 3, asking := rest,
                                       dies := s.boot.dies.set d ((acc &&& 0x3F) ||| (old &&& 0xC0)) },
                 dies := s.dies.set d .up }
/-- A start-up register written, by the host through PF 0's BAR0 or at machine level by a yard controller. -/
def pfWrite (s : State) (off v : Nat) : State :=
  if off == 0x0008 then s.feataccSet v
  else if off == 0x0018 then { s with cap := v % 2 == 1 }
  else if off == 0x0040 then { s with link := { s.link with lost := s.link.lost && !bitAt v 2 } }
  else s

/-! ### BAR0 (R368, R434, R438) -/

/-- A function's BAR0 is live (R368, R437): its set is active and negotiation has been completed once. -/
def barLive (s : State) (n : Nat) : Bool := n < 7 && (s.pad n).active && s.boot.answered
/-- A register behind BAR0 of a function as it reads: a start-up register of PF 0, a register of the function's window, or all ones where it is not
live. -/
def bar0Read (s : State) (fn off : Nat) : Nat :=
  if fn == 0 then pfRead s off else if !barLive s (fn - 1) then 2 ^ 64 - 1 else if off < 0x4000 then padRead s (fn - 1) off else 0
/-- n bytes from an offset of BAR0. -/
def bar0Bytes (s : State) (fn off n : Nat) : Nat :=
  packBits 8 ((List.range n).map fun i => getBits (bar0Read s fn ((off + i) / 8 * 8)) (8 * ((off + i) % 8)) 8)
/-- n bytes of one register behind BAR0 written; the other bytes keep what they read, save what a 1 would clear (log entry 29). -/
def bar0Set (s : State) (fn off n v : Nat) : State :=
  if fn == 0 then
    let old := pfRead s (off / 8 * 8)
    let keep := if off / 8 * 8 == 0x40 then old - (old &&& 4) else old
    pfWrite s (off / 8 * 8) (if n == 8 then v else setBits keep (8 * (off % 8)) (8 * n) v)
  else if barLive s (fn - 1) && off < 0x4000 then regSetBytes s (masterCell (fn - 1)) (0xFC000 + off) n v false
  else s
/-- n bytes of BAR0 written, register by register in ascending address. -/
def bar0Write (s : State) (fn off n v : Nat) : State :=
  (splitAt 8 off n (n / 8 + 2) 0).foldl (fun (s : State) p => bar0Set s fn p.1 p.2.1 (v / 256 ^ p.2.2 % 256 ^ p.2.1)) s

end Sys2Proof.Machine
end

