-- ==== Sys2Proof/Machine/Operands.lean ====
section
/-! DEFINITION. Operand forms: addresses, the pieces of an access within one line, loads, stores, AMOs and reductions of the moving
core, with their checks in the order of R103 (04 R99 to R104, 07 R161, R171, R177, 09 R210, 10 R231 to R237), watches (19 R414) and
poisoned words (18 R393, R394). -/
namespace Sys2Proof.Machine

/-! ### Addresses -/

/-- The offset form's address (R231). -/
def offsetAddr (s : State) (ga : GReg) (imm : BitVec 12) : Word := s.g ga + imm.signExtend 64
/-- The pieces of an access translated in ascending order; the first that fails traps. `kind` as for `State.translate`. -/
def locateFrom (kind row pos : Nat) : List (Nat × Nat × Nat) → List Piece → State → Ans (List Piece)
  | [], acc, s => .ok s acc.reverse
  | (a, n, o) :: ps, acc, s =>
    (s.translate (BitVec.ofNat 64 a) kind row).bind fun s p =>
      locateFrom kind row pos ps
        ({ va := BitVec.ofNat 64 a, pa := p.pa, dx := match p.leaf with | some x => x.dx | none => false, len := n, pos := pos + o, row := row,
           page := p.leaf.map fun x => (x.va, x.size) } :: acc) s
/-- The pieces of n bytes from va, whose value stands at byte `pos` of what is transferred. -/
def locate (s : State) (va : Word) (n kind row pos : Nat) : Ans (List Piece) := locateFrom kind row pos (linePieces va.toNat n) [] s
/-- Pieces translated in ascending order, for their page faults alone (R318). -/
def checkPages (kind : Nat) : List (Nat × Nat × Nat) → State → Ans Unit
  | [], s => .ok s ()
  | (a, _, _) :: ps, s => (s.leafOf (BitVec.ofNat 64 a) kind 0).bind fun s _ => checkPages kind ps s
/-- The pieces of n bytes for a progress instruction: every byte is translated before any access fault is taken (R318). -/
def locateProg (s : State) (va : Word) (n kind : Nat) : Ans (List Piece) :=
  (checkPages kind (linePieces va.toNat n) s).bind fun s _ => locate s va n kind 0 0
/-- What the bundle in hand located before it began to wait, or its pieces now: past its trap horizon it translates nothing again (R239,
R318). -/
def keepOr (s : State) (f : State → Ans (List Piece)) : Ans (List Piece) :=
  if s.me.kept.isEmpty then (f s).bind fun s ps => .ok (s.onMe fun c => { c with kept := ps }) ps else .ok s s.me.kept
/-- An address that is not a multiple of n takes the alignment fault. -/
def checkAlign (s : State) (va : Word) (n row : Nat) : Ans Unit := if va.toNat % n == 0 then .ok s () else .trap s (alignTrap va row)
/-- Rows of L bytes each, in ascending order: alignment, then translation and access (R103). Row r's bytes stand at byte stride × r. They travel
as a tile's (R13). -/
def locateRows (kind unit len stride : Nat) : List (Nat × Word) → List Piece → State → Ans (List Piece)
  | [], acc, s => .ok s acc
  | (r, va) :: rows, acc, s =>
    (checkAlign s va unit r).bind fun s _ => (locate s va len kind r (stride * r)).bind fun s ps =>
      locateRows kind unit len stride rows (acc ++ ps.map fun p => { p with bulk := true }) s
/-- The lines of an image of n bytes from va, with their indices from `first` (R103), one access each. -/
def imageRows (va : Word) (n first : Nat) : List (Nat × Word) := (List.range (n / 128)).map fun i => (first + i, va + BitVec.ofNat 64 (128 * i))

/-! ### Watches (R412, R414) -/

/-- A hull of n bytes from lo checked against the watches: a match halts the core, or takes the DEBUG trap where it cannot halt. The
first bundle after a resumption from a watch's halt skips that watch. -/
def checkWatch (s : State) (lo : Word) (n : Nat) (write : Bool) : Ans Unit :=
  match watchHit s.me (lo.toNat % 2 ^ 48) (lo.toNat % 2 ^ 48 + n) write with
  | none => .ok s ()
  | some i =>
    if n == 0 then .ok s ()
    else if (haltImage s s.me.id).isSome then .wait (s.debugHalt s.me.id 3 i) else .trap s (debugTrap 0)
/-- The hull of row addresses with L bytes each: the lowest address and the bytes from it (R100). -/
def hullOf (rows : List (Nat × Word)) (len : Nat) : Word × Nat :=
  let lo := rows.foldl (fun m r => min m r.2.toNat) (2 ^ 64)
  let hi := rows.foldl (fun m r => max m r.2.toNat) 0
  (BitVec.ofNat 64 lo, hi + len - lo)

/-! ### Poisoned words (R393, R394) -/

/-- The first poisoned word among n bytes at pa, by PA / 8; with `partly`, one that the bytes do not cover whole. Behind a cut link each access takes
its machine check (R400). -/
def badWordIn (s : State) (pa n : Nat) (partly : Bool) : Option Nat :=
  if s.badWords.isEmpty && s.mesh.isEmpty then none
  else ((List.range (n / 8 + 2)).map (pa / 8 + ·)).find? fun w =>
    decide (w * 8 < pa + n) && (s.lineCut (w / 16) || (s.badWords.contains w && !(partly && decide (pa ≤ w * 8) && decide (w * 8 + 8 ≤ pa + n))))
/-- The machine check of a poisoned word that a piece reads. -/
def poisonTrap (p : Piece) (w : Nat) : Trap := lateTrap .memory (p.va + BitVec.ofNat 64 (w * 8) - BitVec.ofNat 64 p.pa) p.row
/-- The pieces of a read meet no poisoned word; a write's meet none that it covers in part. -/
def checkPoison (s : State) (partly : Bool) : List Piece → Ans Unit
  | [] => .ok s ()
  | p :: ps => match badWordIn s p.pa p.len partly with
    | some w => .trap s (poisonTrap p w)
    | none => checkPoison s partly ps

/-! ### Loads (R171, R231, R232) -/

/-- The line that a plain load or an acquire of the moving core finds in its private cache (R171, R215). H lines serve nothing. -/
def Core.privateHit (c : Core) (line : Nat) (acq : Bool) : Option CLine :=
  match c.lineOf line with
  | some l => if (!acq && (l.st == .t || l.st == .u || l.st == .k)) || (acq && l.st == .k) then some l else none
  | none => none
/-- The line is in H: a load waits for its commit (R161, R215). -/
def Core.waitsH (c : Core) (line : Nat) : Bool := match c.lineOf line with | some l => l.st == .h | none => false
/-- A line that has arrived for the instruction in progress. -/
def Core.fillOf (c : Core) (line : Nat) (acq : Bool) : Option Fill := c.fills.find? fun f => f.line == line && f.acq == acq
/-- A T copy's value is fresh by its holder's own count (R223). -/
def freshHit (s : State) (l : CLine) : Bool :=
  l.st == .t && match l.commit with
    | some f => inWindow3 (staleCopy s l.line || Config.fresh s.tick [l.line, s.me.id, s.me.nBundles.toNat]) f s.me.cycFrame
    | none => false
/-- What a line holds for the moving core: from its fills, its private cache unless it has asked already, or nothing yet. The second part is a late fault; the
third says whether the value is fresh (R223). -/
def lineNow (s : State) (line : Nat) (acq : Bool) : Option (BitVec 1024 × Option LateFault × Bool) :=
  match s.me.fillOf line acq with
  | some f => some (f.data, f.fault, f.fresh)
  | none =>
    if s.me.asked.contains (line, acq) then none
    else match s.me.privateHit line acq with
    | some l => some (l.data, none, freshHit s l)
    | none => none
/-- A copy of the moving core has still to mark one of some lines, or to write one of another place than local HBM (R180 rows 1 and 8, R191). -/
def markOpen (s : State) (lines : List Nat) : Bool :=
  s.jobs.any fun j => j.core == s.me.id && lines.any fun l =>
    j.unmarked.contains l || (j.unwritten.contains l && !(s.placeOf (l * 128) matches .ok .localHbm))
/-- A younger access waits until the copy has marked its lines (R180 row 8, R191). -/
def awaitMarks (s : State) (ps : List Piece) : Ans Unit := if markOpen s (ps.map (·.pa / 128)) then .wait s.settle else .ok s ()
/-- A line's value for a load of the moving core: it waits for the done of the core's own store to the line (R210) and for the mark of its
own copy (R191), then takes what the core holds, or asks the serialisation point. -/
def loadLine (s : State) (pa : Nat) (acq ef sync : Bool) (bulk : Bool := false) : Ans (BitVec 1024 × Option LateFault × Bool) :=
  let line := pa / 128
  match s.placeOf pa with
  | .ok (.scratch cell) =>
    if markOpen s [line] then .wait s.settle
    else if s.coreNo cell == s.me.id then .ok s (s.mem.line line, none, false)
    else match s.me.fillOf line acq with
      | some f => .ok s (f.data, f.fault, false)
      | none =>
        let s := if s.me.asked.contains (line, acq) then s.settle
          else (s.onMe fun c => { c with asked := (line, acq) :: c.asked }).request
            { core := s.me.id, line := line, req := .read acq ef false sync, bulk := bulk }
        match s.me.fillOf line acq with | some f => .ok s (f.data, f.fault, false) | none => .wait s
  | _ =>
    let s := if s.me.undone.contains line then s.settle else s
    if s.me.undone.contains line || s.me.waitsH line || markOpen s [line] then .wait s
    else match lineNow s line acq with
      | some r => .ok (s.onMe (·.touchLine line)) r
      | none =>
        let s := if s.me.asked.contains (line, acq) then s.settle
          else (s.onMe fun c => { c with asked := (line, acq) :: c.asked }).request
            { core := s.me.id, line := line, req := .read acq ef false sync, bulk := bulk }
        match lineNow s line acq with | some r => .ok s r | none => .wait s
/-- n bytes of a cell's control block. -/
def controlLoad (s : State) (cell off n : Nat) : Nat := packBits 8 ((List.range n).map fun i => regBytes s cell (off + i) 1)
/-- The bytes of a piece, and its line if the value is fresh. A register of a control block is read where it stands. -/
def loadPiece (s : State) (p : Piece) (acq ef sync : Bool) : Ans (Nat × Option Nat) :=
  match s.placeOf p.pa with
  | .ok (.control cell off) => .ok s (controlLoad s cell off p.len, none)
  | _ => (loadLine s p.pa acq ef sync p.bulk).bind fun s r =>
    match r.2.1 with
    | some f => .trap s (lateTrap f p.va p.row)
    | none => .ok s (lineGet r.1 (p.pa % 128) p.len, if r.2.2 then some (p.pa / 128) else none)
/-- Every piece's bytes put together, and the fresh lines. -/
def loadPieces (acq ef sync : Bool) : List Piece → Nat → List Nat → State → Ans (Nat × List Nat)
  | [], v, fs, s => .ok s (v, fs)
  | p :: ps, v, fs, s => (loadPiece s p acq ef sync).bind fun s r =>
      loadPieces acq ef sync ps (v + r.1 * 2 ^ (8 * p.pos)) (match r.2 with | some l => l :: fs | none => fs) s
/-- A load of pieces already located: poisoned words trap, and fresh lines enter the brand once all have arrived. -/
def loadAll (s : State) (ps : List Piece) (acq ef sync : Bool) : Ans Nat :=
  (loadPieces acq ef sync ps 0 [] s).bind fun s r => (checkPoison s false ps).bind fun s _ =>
    .ok (r.2.reverse.foldl (fun (s : State) l => s.freshen s.me.id l) s) r.1
/-- A scalar load of n bytes: watch, alignment, translation and access, then the load. -/
def loadAt (s : State) (va : Word) (n : Nat) (acq sync : Bool) : Ans Nat :=
  (checkWatch s va n false).bind fun s _ => (checkAlign s va n 0).bind fun s _ => (locate s va n 0 0 0).bind fun s ps => loadAll s ps acq false sync
/-- A loaded value of n bytes, sign- or zero-extended (R231). -/
def extendLoad (signed : Bool) (n v : Nat) : Word := if signed then (BitVec.ofInt 64 (signedOf (8 * n) v)) else BitVec.ofNat 64 v

/-! ### Stores (R161, R210, R222, R232) -/

/-- n bytes of a cell's control block written, doubleword by doubleword. -/
def controlStore (s : State) (cell off n v : Nat) (machine : Bool) : State :=
  (splitAt 8 off n (n / 8 + 2) 0).foldl (fun (s : State) p =>
    regSetBytes s cell p.1 p.2.1 (v / 2 ^ (8 * p.2.2) % 2 ^ (8 * p.2.1)) machine) s
/-- The page that translated a write's piece, beside its line (R360). -/
def Piece.pageEntry (p : Piece) (asid : Nat) : List (Nat × Nat × Nat × Nat) :=
  match p.page with | some (va, size) => [(p.pa / 128, asid, va, size)] | none => []
/-- A posted write of the moving core leaves for a line: the core's own U copy goes, and the line counts until the write is done (R161,
R210). -/
def State.sendWrite (s : State) (p : Piece) (req : Req) : State :=
  let line := p.pa / 128
  ((s.ownWrite line).onMe fun c =>
      { c with undone := c.undone ++ [line], storePages := c.storePages ++ p.pageEntry c.asid }).request
    { core := s.me.id, line := line, req := req, bulk := p.bulk }
/-- A piece of a retired store leaves the core: the core's own U copy goes, the line counts until it is done, and it enters the
brand if the instruction's lines do (R161, R210, R222, R239); `ef` is the evict-first hint (R168), `sync` marks a RELB. The own scratchpad is written at once. -/
def storePiece (brands ef sync : Bool) (s : State) (p : Piece) (v : Nat) : State :=
  let v := v / 2 ^ (8 * p.pos) % 2 ^ (8 * p.len)
  match s.placeOf p.pa with
  | .ok (.control cell off) => controlStore s cell off p.len v (s.me.level == 3)
  | .ok (.scratch cell) =>
    if s.coreNo cell == s.me.id then s.place p.pa p.len v
    else s.sendWrite p (.write p.pa p.len v ef sync)
  | _ => (s.onMe fun c => if brands then c.brandWrite p.pa else c).sendWrite p (.write p.pa p.len v ef sync)
/-- The pieces of a store leave in ascending order, so that of overlapping rows the highest wins (R101). -/
def storePieces (brands ef sync : Bool) (s : State) (ps : List Piece) (v : Nat) : State := ps.foldl (fun (s : State) p => storePiece brands ef sync s p v) s
/-- A store of pieces already located: a partial write of a poisoned word traps, the core's own copies have marked its lines, and the
counter must have room (R181, R191, R394). -/
def storeAll (s : State) (ps : List Piece) (v : Nat) (ef : Bool) : Ans Unit :=
  (checkPoison s true ps).bind fun s _ => (awaitMarks s ps).bind fun s _ => (roomForStore s ps.length).bind fun s _ => .ok (storePieces true ef false s ps v) ()
/-- A scalar store of n bytes: watch, alignment, translation and access, the release's wait, then the store. -/
def storeAt (s : State) (va : Word) (n v : Nat) (o : Ord) (sc : Scope) : Ans Unit :=
  (checkWatch s va n true).bind fun s _ => (checkAlign s va n 0).bind fun s _ => (locate s va n 1 0 0).bind fun s ps =>
    (awaitOrd s o sc).bind fun s _ => storeAll s ps (v % 2 ^ (8 * n)) false

/-! ### AMOs (R234, R235) -/

/-- The compare value of AMOCAS, and nothing for the others. -/
def amoCompare (s : State) (op : AmoOp) (size : Nat) (gd : GReg) : Nat :=
  match op with | .cas => (s.g gd).toNat % 2 ^ (8 * size) | _ => 0
/-- The result an AMO writes to gd. -/
def amoResult (op : AmoOp) (size old : Nat) : Word := match op with | .fadd => BitVec.ofNat 64 old | _ => extendLoad true size old
/-- An AMO's address checks: watch, alignment, translation for read and write, and poison. A swap of 8 bytes whose old value nothing
receives covers the word and reads nothing (R394). -/
def amoChecks (s : State) (op : AmoOp) (size : Nat) (gd : GReg) (va : Word) : Ans Piece :=
  (checkWatch s va size false).bind fun s _ => (checkWatch s va size true).bind fun s _ => (checkAlign s va size 0).bind fun s _ =>
    (locate s va size 2 0 0).bind fun s ps => match ps with
      | p :: _ => (if op == .swp && size == 8 && gd == 0 then .ok s () else checkPoison s false [p]).bind fun s _ => .ok s p
      | [] => .wait s
/-- The moving core's AMO leaves: its U copy goes and the request is on its way (R161, R235), past its trap horizon. -/
def sendAmo (s : State) (op : AmoOp) (size operand compare : Nat) (p : Piece) : State :=
  ((s.ownWrite (p.pa / 128)).onMe fun c => { c with pend := .sent p.pa, kept := [p] }).request
    { core := s.me.id, line := p.pa / 128, req := .amo op size p.pa operand compare p.dx false }
/-- What has become of an AMO that was sent: the old value with its line in the brand, its fault, or a wait. -/
def amoReply (s : State) (va : Word) : Ans Nat :=
  match s.me.pend with
  | .reply pa v => .ok (s.onMe fun c => c.brandWrite pa) v.toNat
  | .fault f => .trap s (lateTrap f va 0)
  | _ => .wait s
/-- An AMO (R234, R235): once its checks and its release's wait are over it is sent, and it completes when its reply arrives. On a
control block it reads and writes the register where it stands. -/
def amoAt (s : State) (op : AmoOp) (size : Nat) (gd : GReg) (va : Word) (operand : Nat) (o : Ord) (sc : Scope) : Ans Nat :=
  let compare := amoCompare s op size gd
  match s.me.pend with
  | .none => (amoChecks s op size gd va).bind fun s p => (awaitOrd s o sc).bind fun s _ =>
    match s.placeOf p.pa with
    | .ok (.control cell off) =>
      let m := regBytes s cell off size
      .ok (regSetBytes s cell off size (amoValue op size m operand compare) (s.me.level == 3)) m
    | _ => (awaitMarks s [p]).bind fun s _ => amoReply (sendAmo s op size operand compare p) va
  | _ => amoReply s.settle va

/-! ### Reductions (R218, R237) -/

/-- A reduction leaves at retirement: on local HBM it gathers, but for a yard controller's, whose cache holds no G copy (R212, R214); on the
core's own scratchpad, where its loads and stores act at once, and on a control block it is the AMO there; elsewhere the AMO of the same
operation with no reply (R162, R171). -/
def sendReduction (s : State) (k : GatherKind) (operand : Nat) (p : Piece) : State :=
  let asAmo := (s.onMe (·.brandWrite p.pa)).sendWrite p (.amo k.op k.size p.pa operand 0 p.dx true)
  match s.placeOf p.pa with
  | .ok (.control cell off) =>
    regSetBytes s cell off k.size (amoValue k.op k.size (regBytes s cell off k.size) operand 0) (s.me.level == 3)
  | .ok .localHbm => if s.me.isYard then asAmo else (s.onMe (·.brandWrite p.pa)).sendWrite p (.gather k (p.pa % 128) operand)
  | .ok (.scratch cell) =>
    if s.coreNo cell == s.me.id then s.place p.pa k.size (amoValue k.op k.size (s.mem.readN p.pa k.size) operand 0) else asAmo
  | _ => asAmo
/-- A reduction (R237): watch, alignment, translation for writing, poison, the release's wait, then it leaves. -/
def reduceTo (s : State) (k : GatherKind) (va : Word) (operand : Nat) (o : Ord) (sc : Scope) : Ans Unit :=
  (checkWatch s va k.size true).bind fun s _ => (checkAlign s va k.size 0).bind fun s _ => (locate s va k.size 3 0 0).bind fun s ps =>
    (checkPoison s false ps).bind fun s _ => (awaitOrd s o sc).bind fun s _ => (awaitMarks s ps).bind fun s _ => (roomForStore s ps.length).bind fun s _ =>
      .ok (ps.foldl (fun (s : State) p => sendReduction s k operand p) s) ()

/-! ### Probes (R242, R362) -/

/-- A host page for a probe: an ATS request that no page request follows (R362, R363), for the core that waits for it, or 1024. -/
def State.probeHost (s : State) (who : Nat) (r : XReq) (w0 : Nat) (x : Xlat) : State :=
  let page := r.va / 4096 * 4096
  let pasid := w0 / 2 ^ 42 % 2 ^ 20
  { s with
    ats := s.ats ++ [{ core := who, asid := r.asid, va := page, acc := r.acc, pset := s.me.paddock, pasid := pasid, stage := 2, index := 0,
                       gen := s.me.genNum, leaf := { x with va := page, size := 4096 } }],
    out := s.out ++ [.atsRequest (s.me.paddock + 1) pasid page (r.acc == .write)] }
/-- The page that holds an address, found as an access would find it but without trap or page request; what it finds fills the caches.
An ATS request is sent for `who`. -/
def probePage (s : State) (v : Nat) (acc : Access) (user : Bool) (who : Nat) : Ans (Except PageKind Xlat) :=
  let answer (s : State) (x : Xlat) : Ans (Except PageKind Xlat) :=
    if x.permits acc user then .ok ((s.onPad s.me.paddock (·.fillStc v x)).onMe (·.fillCtc x)) (.ok x) else .ok s (.error .permission)
  let page := v / 4096 * 4096
  if 7 ≤ s.me.paddock then .ok s (.error .asid)
  else match s.me.ctc.find? (·.holds s.me.asid v) with
  | some x => answer s x
  | none => match (s.pad s.me.paddock).stcHit s.me.asid v with
    | some x => answer s x
    | none =>
      if who == s.me.id && s.me.xfault.any (·.1 == v / 4096) then
        .ok (s.onMe fun c => { c with xfault := none }) (.error (match s.me.xfault with | some f => f.2 | none => .hostDenied))
      else if s.ats.any fun a => a.core == who && a.asid == s.me.asid && a.va == page && a.acc == acc && a.stage == 2 then .wait s
      else (walk s s.me.paddock s.me.asid v).bind fun s r => match r with
        | .error k => .ok s (.error k)
        | .ok (w0, x) =>
          if !x.permits acc user then .ok s (.error .permission)
          else if !x.host then answer s x
          else .wait (s.probeHost who { core := s.me.id, asid := s.me.asid, va := v, acc := acc, user := user, walking := true } w0 x)
/-- The physical checks that a probe applies (R362): those of the address and the access alone. A die in reset is none of them. -/
def probeCheck (s : State) (pa kind : Nat) : Option AccessKind :=
  match physCheck s pa kind, s.placeOf pa with
  | some .dieAbsent, .ok (.control cell off) => if s.me.level == 3 || !controlDenied s s.me.paddock cell off then none else some .paddock
  | k, _ => k
/-- Where an address leads in the stream's space, or the failure's code: a page-fault kind, or 16 plus an ACCESS kind (R362). -/
def probeAddr (s : State) (va : Word) (acc : Access) (user : Bool) (who : Nat) : Ans (Except Nat Phys) :=
  if (va.setWidth 48).signExtend 64 != va then .ok s (.error PageKind.notPresent.code)
  else if inWindow s va then
    match windowPa s va with
    | .error k => .ok s (.error (16 + k.code))
    | .ok pa => if acc == .exec then .ok s (.error (16 + AccessKind.window.code)) else .ok s (.ok { pa := pa, leaf := none, window := true })
  else (probePage s (va.toNat % 2 ^ 48) acc user who).bind fun s r => match r with
    | .error k => .ok s (.error k.code)
    | .ok x =>
      let pa := x.pa + va.toNat % x.size
      match probeCheck s pa (if acc == .write then 1 else 0) with
      | some k => .ok s (.error (16 + k.code))
      | none => .ok s (.ok { pa := pa, leaf := some x, window := false })

end Sys2Proof.Machine
end

