-- ==== Sys2Proof/Machine/Names.lean ====
section
/-! DEFINITION. The registers that each instruction names as destinations (02 R39) and those whose contents it reads (18 R393,
R394). -/
namespace Sys2Proof.Machine

/-- A piece of architectural state that an instruction can name. -/
inductive Name where
  | g (r : GReg) | t (r : TReg) | a (r : AReg) | w (r : TReg) | h (r : AReg) | m (r : MReg) | brand | gen | sys (i : Nat)
  deriving DecidableEq, Repr
/-- Every register that check 4 of R39 compares: CTXLD replaces them all (R378). -/
def allNames : List Name :=
  (List.finRange 32).map .g ++ (List.finRange 16).map .t ++ (List.finRange 4).map .a ++ (List.finRange 16).map .w ++ (List.finRange 4).map .h
/-- A system register's place in the table of R349 (log entry 91). -/
def sysIndex (n : Nat) : Nat :=
  if n < 4 then n else if n == 8 then 4 else if 16 ≤ n && n < 21 then n - 11 else if n == 24 then 10 else if 32 ≤ n && n < 35 then n - 21 else 14
/-- The destinations of an instruction (R39, R107, R115, R245, R317). -/
def Instr.dests : Instr → List Name
  | .jal gd _ => [.g gd]
  | .jalr gd _ _ => [.g gd]
  | .ldb gd _ _ => [.g gd]
  | .ldbz gd _ _ => [.g gd]
  | .ldh gd _ _ => [.g gd]
  | .ldhz gd _ _ => [.g gd]
  | .ldw gd _ _ => [.g gd]
  | .ldwz gd _ _ => [.g gd]
  | .ldd gd _ _ => [.g gd]
  | .ldbOrd gd _ _ _ => [.g gd]
  | .ldbzOrd gd _ _ _ => [.g gd]
  | .ldhOrd gd _ _ _ => [.g gd]
  | .ldhzOrd gd _ _ _ => [.g gd]
  | .ldwOrd gd _ _ _ => [.g gd]
  | .ldwzOrd gd _ _ _ => [.g gd]
  | .lddOrd gd _ _ _ => [.g gd]
  | .amoaddW gd _ _ _ _ => [.g gd]
  | .amoandW gd _ _ _ _ => [.g gd]
  | .amoorW gd _ _ _ _ => [.g gd]
  | .amoxorW gd _ _ _ _ => [.g gd]
  | .amominW gd _ _ _ _ => [.g gd]
  | .amomaxW gd _ _ _ _ => [.g gd]
  | .amominuW gd _ _ _ _ => [.g gd]
  | .amomaxuW gd _ _ _ _ => [.g gd]
  | .amoswpW gd _ _ _ _ => [.g gd]
  | .amocasW gd _ _ _ _ => [.g gd]
  | .amofaddW gd _ _ _ _ => [.g gd]
  | .amoaddD gd _ _ _ _ => [.g gd]
  | .amoandD gd _ _ _ _ => [.g gd]
  | .amoorD gd _ _ _ _ => [.g gd]
  | .amoxorD gd _ _ _ _ => [.g gd]
  | .amominD gd _ _ _ _ => [.g gd]
  | .amomaxD gd _ _ _ _ => [.g gd]
  | .amominuD gd _ _ _ _ => [.g gd]
  | .amomaxuD gd _ _ _ _ => [.g gd]
  | .amoswpD gd _ _ _ _ => [.g gd]
  | .amocasD gd _ _ _ _ => [.g gd]
  | .amofaddD gd _ _ _ _ => [.g gd]
  | .acqb gd _ _ => [.g gd]
  | .retain gd _ _ _ => [.g gd]
  | .unpin gd _ => [.g gd]
  | .recv gd _ => [.g gd]
  | .recvany gd _ gb => [.g gd, .g gb]
  | .peek gd gb _ => [.g gd, .g gb]
  | .tld ta _ _ _ _ => [.t ta]
  | .tgth ta _ _ _ _ _ => [.t ta]
  | .tshapeSet ta _ => [.t ta]
  | .tshapeRead _ gb => [.g gb]
  | .tzero ta => [.t ta]
  | .tmov ta _ => [.t ta]
  | .tmovs ta _ _ _ => [.t ta]
  | .wld w _ _ _ _ => [.w w]
  | .wldt w _ => [.w w]
  | .accld a _ _ => [.a a]
  | .recvt gd _ _ _ => [.g gd]
  | .lnch gd _ _ => [.g gd]
  | .sysrd gd _ => [.g gd]
  | .xlatp gd _ _ _ => [.g gd]
  | .perfrd gd _ => [.g gd]
  | .add gd _ _ => [.g gd]
  | .sub gd _ _ => [.g gd]
  | .mul gd _ _ => [.g gd]
  | .mulh gd _ _ => [.g gd]
  | .mulhu gd _ _ => [.g gd]
  | .div gd _ _ => [.g gd]
  | .divu gd _ _ => [.g gd]
  | .rem gd _ _ => [.g gd]
  | .remu gd _ _ => [.g gd]
  | .and gd _ _ => [.g gd]
  | .or gd _ _ => [.g gd]
  | .xor gd _ _ => [.g gd]
  | .sll gd _ _ => [.g gd]
  | .srl gd _ _ => [.g gd]
  | .sra gd _ _ => [.g gd]
  | .slt gd _ _ => [.g gd]
  | .sltu gd _ _ => [.g gd]
  | .min gd _ _ => [.g gd]
  | .max gd _ _ => [.g gd]
  | .minu gd _ _ => [.g gd]
  | .maxu gd _ _ => [.g gd]
  | .clz gd _ => [.g gd]
  | .ctz gd _ => [.g gd]
  | .popc gd _ => [.g gd]
  | .sel gd _ _ _ => [.g gd]
  | .addi gd _ _ => [.g gd]
  | .slti gd _ _ => [.g gd]
  | .andi gd _ _ => [.g gd]
  | .ori gd _ _ => [.g gd]
  | .xori gd _ _ => [.g gd]
  | .slli gd _ _ => [.g gd]
  | .srli gd _ _ => [.g gd]
  | .srai gd _ _ => [.g gd]
  | .lhi gd _ => [.g gd]
  | .bfxz gd _ _ _ => [.g gd]
  | .bfxs gd _ _ _ => [.g gd]
  | .bfins gd _ _ _ => [.g gd]
  | .fadd gd _ _ _ => [.g gd]
  | .fsub gd _ _ _ => [.g gd]
  | .fmul gd _ _ _ => [.g gd]
  | .fmin gd _ _ => [.g gd]
  | .fmax gd _ _ => [.g gd]
  | .fcvtif gd _ _ => [.g gd]
  | .fcvtfi gd _ _ => [.g gd]
  | .fcmp gd _ _ _ => [.g gd]
  | .ffma gd _ _ _ _ => [.g gd]
  | .tadd td _ _ _ _ => [.t td]
  | .tsub td _ _ _ _ => [.t td]
  | .tmul td _ _ _ _ => [.t td]
  | .tfma td _ _ _ _ _ => [.t td]
  | .tmax td _ _ => [.t td]
  | .tmin td _ _ => [.t td]
  | .tand td _ _ => [.t td]
  | .tor td _ _ => [.t td]
  | .txor td _ _ => [.t td]
  | .tsel td _ _ _ => [.t td]
  | .tcmp td _ _ _ => [.t td]
  | .tscl td _ _ _ _ => [.t td]
  | .tclamp td _ _ _ _ => [.t td]
  | .tabs td _ _ => [.t td]
  | .tneg td _ _ => [.t td]
  | .texp2 td _ _ _ => [.t td]
  | .tlog2 td _ _ _ => [.t td]
  | .trcp td _ _ _ => [.t td]
  | .trsq td _ _ _ => [.t td]
  | .tsqrt td _ _ _ => [.t td]
  | .tcvt td _ _ _ _ _ => [.t td]
  | .tqnt td _ _ _ _ _ => [.t td]
  | .tred td _ _ _ _ _ => [.t td]
  | .tbc td _ _ _ => [.t td]
  | .ttr td _ => [.t td]
  | .tiota td _ _ _ _ => [.t td]
  | .trnd td _ _ _ _ _ => [.t td]
  | .mma a _ _ _ => [.a a]
  | .mmaz a _ _ _ => [.a a]
  | .accz a _ => [.a a]
  | .drain _ t _ _ h he _ _ => [.t t] ++ (if he then [.h h] else [])
  | .hstrd t _ => [.t t]
  | .hstclr h => [.h h]
  | .ctxld _ => allNames
  | _ => []
/-- The destinations that count for a pair's conflict: a write to g0 is none (R39). -/
def Instr.conflicts (i : Instr) : List Name := (Instr.dests i).filter (· != .g 0)
/-- The state an instruction reads, RECVANY's slot apart (R393, R394). -/
def Instr.sources : Instr → List Name
  | .beq ga gb _ => [.g ga, .g gb]
  | .bne ga gb _ => [.g ga, .g gb]
  | .blt ga gb _ => [.g ga, .g gb]
  | .bge ga gb _ => [.g ga, .g gb]
  | .bltu ga gb _ => [.g ga, .g gb]
  | .bgeu ga gb _ => [.g ga, .g gb]
  | .jalr _ ga _ => [.g ga]
  | .ldb _ ga _ => [.g ga]
  | .ldbz _ ga _ => [.g ga]
  | .ldh _ ga _ => [.g ga]
  | .ldhz _ ga _ => [.g ga]
  | .ldw _ ga _ => [.g ga]
  | .ldwz _ ga _ => [.g ga]
  | .ldd _ ga _ => [.g ga]
  | .stb gd ga _ => [.g gd, .g ga]
  | .sth gd ga _ => [.g gd, .g ga]
  | .stw gd ga _ => [.g gd, .g ga]
  | .std gd ga _ => [.g gd, .g ga]
  | .ldbOrd _ ga _ _ => [.g ga]
  | .ldbzOrd _ ga _ _ => [.g ga]
  | .ldhOrd _ ga _ _ => [.g ga]
  | .ldhzOrd _ ga _ _ => [.g ga]
  | .ldwOrd _ ga _ _ => [.g ga]
  | .ldwzOrd _ ga _ _ => [.g ga]
  | .lddOrd _ ga _ _ => [.g ga]
  | .stbOrd ga gb _ _ => [.g ga, .g gb]
  | .sthOrd ga gb _ _ => [.g ga, .g gb]
  | .stwOrd ga gb _ _ => [.g ga, .g gb]
  | .stdOrd ga gb _ _ => [.g ga, .g gb]
  | .amoaddW _ ga gb _ _ => [.g ga, .g gb]
  | .amoandW _ ga gb _ _ => [.g ga, .g gb]
  | .amoorW _ ga gb _ _ => [.g ga, .g gb]
  | .amoxorW _ ga gb _ _ => [.g ga, .g gb]
  | .amominW _ ga gb _ _ => [.g ga, .g gb]
  | .amomaxW _ ga gb _ _ => [.g ga, .g gb]
  | .amominuW _ ga gb _ _ => [.g ga, .g gb]
  | .amomaxuW _ ga gb _ _ => [.g ga, .g gb]
  | .amoswpW _ ga gb _ _ => [.g ga, .g gb]
  | .amocasW gd ga gb _ _ => [.g gd, .g ga, .g gb]
  | .amofaddW _ ga gb _ _ => [.g ga, .g gb]
  | .amoaddD _ ga gb _ _ => [.g ga, .g gb]
  | .amoandD _ ga gb _ _ => [.g ga, .g gb]
  | .amoorD _ ga gb _ _ => [.g ga, .g gb]
  | .amoxorD _ ga gb _ _ => [.g ga, .g gb]
  | .amominD _ ga gb _ _ => [.g ga, .g gb]
  | .amomaxD _ ga gb _ _ => [.g ga, .g gb]
  | .amominuD _ ga gb _ _ => [.g ga, .g gb]
  | .amomaxuD _ ga gb _ _ => [.g ga, .g gb]
  | .amoswpD _ ga gb _ _ => [.g ga, .g gb]
  | .amocasD gd ga gb _ _ => [.g gd, .g ga, .g gb]
  | .amofaddD _ ga gb _ _ => [.g ga, .g gb]
  | .redaddW ga gb _ _ => [.g ga, .g gb]
  | .redaddD ga gb _ _ => [.g ga, .g gb]
  | .redfaddW ga gb _ _ => [.g ga, .g gb]
  | .redmaxW ga gb _ _ => [.g ga, .g gb]
  | .redmaxD ga gb _ _ => [.g ga, .g gb]
  | .relb ga gb _ => [.g ga, .g gb, .brand]
  | .acqb _ ga _ => [.g ga]
  | .clwb ga => [.g ga]
  | .clinv ga => [.g ga]
  | .pref ga gb _ _ => [.g ga, .g gb]
  | .retain _ ga gb _ => [.g ga, .g gb]
  | .unpin _ ga => [.g ga]
  | .send ga gb _ => [.g ga, .g gb]
  | .sendb ga gb _ _ => [.g ga, .g gb, .brand]
  | .recv _ m => [.m m]
  | .recvany _ ga _ => [.g ga]
  | .peek _ _ m => [.m m]
  | .cpy gd ga gb _ _ => [.g gd, .g ga, .g gb]
  | .cpyf gd ga gb _ _ => [.g gd, .g ga, .g gb]
  | .aredFp32 gd ga gb _ => [.g gd, .g ga, .g gb]
  | .aredBf16 gd ga gb _ => [.g gd, .g ga, .g gb]
  | .tld ta ga gb _ _ => [.t ta, .g ga, .g gb]
  | .tst ta ga gb _ _ => [.t ta, .g ga, .g gb]
  | .tgth ta tb ga gb _ _ => [.t ta, .t tb, .g ga, .g gb]
  | .tsct ta tb ga gb _ _ => [.t ta, .t tb, .g ga, .g gb]
  | .tshapeSet ta ga => [.t ta, .g ga]
  | .tmov _ tb => [.t tb]
  | .tmovs ta ga gb _ => [.t ta, .g ga, .g gb]
  | .wld _ _ ga gb _ => [.g ga, .g gb]
  | .wldt _ tb => [.t tb]
  | .accsv a ga => [.a a, .g ga]
  | .accld _ ga _ => [.g ga]
  | .tkadd gd ga gb => [.g gd, .g ga, .g gb]
  | .tkaddb gd ga gb _ => [.g gd, .g ga, .g gb, .brand]
  | .recvt _ ga _ _ => [.g ga]
  | .tksnap ga gb => [.g ga, .g gb]
  | .lnch _ ga gb => [.g ga, .g gb]
  | .lkacq ga _ => [.g ga]
  | .lktry ga _ => [.g ga]
  | .lkrel ga => [.g ga, .brand]
  | .mredAddI64 ga _ _ _ => [.g ga]
  | .mredMaxI64 ga _ _ _ => [.g ga]
  | .mredMinI64 ga _ _ _ => [.g ga]
  | .mredAndI64 ga _ _ _ => [.g ga]
  | .mredOrI64 ga _ _ _ => [.g ga]
  | .mredAddF32 ga _ _ _ => [.g ga]
  | .mredMaxF32 ga _ _ _ => [.g ga]
  | .mredMinF32 ga _ _ _ => [.g ga]
  | .sysrd _ n => [.sys (sysIndex n.toNat)]
  | .syswr ga n => .g ga :: (if n == 8 then [.sys (sysIndex 8)] else [])
  | .tret => [.sys (sysIndex 8), .sys (sysIndex 16)]
  | .xlatiRange ga gb _ => [.g ga, .g gb]
  | .xlatiAsid ga _ => [.g ga]
  | .xlatp _ ga _ _ => [.g ga]
  | .ctxsv ga => [.g ga]
  | .ctxld ga => [.g ga]
  | .trcmark ga _ => [.g ga]
  | .add _ ga gb => [.g ga, .g gb]
  | .sub _ ga gb => [.g ga, .g gb]
  | .mul _ ga gb => [.g ga, .g gb]
  | .mulh _ ga gb => [.g ga, .g gb]
  | .mulhu _ ga gb => [.g ga, .g gb]
  | .div _ ga gb => [.g ga, .g gb]
  | .divu _ ga gb => [.g ga, .g gb]
  | .rem _ ga gb => [.g ga, .g gb]
  | .remu _ ga gb => [.g ga, .g gb]
  | .and _ ga gb => [.g ga, .g gb]
  | .or _ ga gb => [.g ga, .g gb]
  | .xor _ ga gb => [.g ga, .g gb]
  | .sll _ ga gb => [.g ga, .g gb]
  | .srl _ ga gb => [.g ga, .g gb]
  | .sra _ ga gb => [.g ga, .g gb]
  | .slt _ ga gb => [.g ga, .g gb]
  | .sltu _ ga gb => [.g ga, .g gb]
  | .min _ ga gb => [.g ga, .g gb]
  | .max _ ga gb => [.g ga, .g gb]
  | .minu _ ga gb => [.g ga, .g gb]
  | .maxu _ ga gb => [.g ga, .g gb]
  | .clz _ ga => [.g ga]
  | .ctz _ ga => [.g ga]
  | .popc _ ga => [.g ga]
  | .sel _ ga gb gc => [.g ga, .g gb, .g gc]
  | .addi _ ga _ => [.g ga]
  | .slti _ ga _ => [.g ga]
  | .andi _ ga _ => [.g ga]
  | .ori _ ga _ => [.g ga]
  | .xori _ ga _ => [.g ga]
  | .slli _ ga _ => [.g ga]
  | .srli _ ga _ => [.g ga]
  | .srai _ ga _ => [.g ga]
  | .bfxz _ ga _ _ => [.g ga]
  | .bfxs _ ga _ _ => [.g ga]
  | .bfins gd ga _ _ => [.g gd, .g ga]
  | .fadd _ ga gb rnd => [.g ga, .g gb] ++ (if rnd == .sr then [.gen] else [])
  | .fsub _ ga gb rnd => [.g ga, .g gb] ++ (if rnd == .sr then [.gen] else [])
  | .fmul _ ga gb rnd => [.g ga, .g gb] ++ (if rnd == .sr then [.gen] else [])
  | .fmin _ ga gb => [.g ga, .g gb]
  | .fmax _ ga gb => [.g ga, .g gb]
  | .fcvtif _ ga rnd => [.g ga] ++ (if rnd == .sr then [.gen] else [])
  | .fcvtfi _ ga rnd => [.g ga] ++ (if rnd == .sr then [.gen] else [])
  | .fcmp _ ga gb _ => [.g ga, .g gb]
  | .ffma _ ga gb gc rnd => [.g ga, .g gb, .g gc] ++ (if rnd == .sr then [.gen] else [])
  | .tadd _ ta tb _ rnd => [.t ta, .t tb] ++ (if rnd == .sr then [.gen] else [])
  | .tsub _ ta tb _ rnd => [.t ta, .t tb] ++ (if rnd == .sr then [.gen] else [])
  | .tmul _ ta tb _ rnd => [.t ta, .t tb] ++ (if rnd == .sr then [.gen] else [])
  | .tfma _ ta tb tc _ rnd => [.t ta, .t tb, .t tc] ++ (if rnd == .sr then [.gen] else [])
  | .tmax _ ta tb => [.t ta, .t tb]
  | .tmin _ ta tb => [.t ta, .t tb]
  | .tand _ ta tb => [.t ta, .t tb]
  | .tor _ ta tb => [.t ta, .t tb]
  | .txor _ ta tb => [.t ta, .t tb]
  | .tsel _ ta tb tc => [.t ta, .t tb, .t tc]
  | .tcmp _ ta tb _ => [.t ta, .t tb]
  | .tscl _ ta gb _ rnd => [.t ta, .g gb] ++ (if rnd == .sr then [.gen] else [])
  | .tclamp _ ta gb _ rnd => [.t ta, .g gb] ++ (if rnd == .sr then [.gen] else [])
  | .tabs _ ta _ => [.t ta]
  | .tneg _ ta _ => [.t ta]
  | .texp2 _ ta _ rnd => [.t ta] ++ (if rnd == .sr then [.gen] else [])
  | .tlog2 _ ta _ rnd => [.t ta] ++ (if rnd == .sr then [.gen] else [])
  | .trcp _ ta _ rnd => [.t ta] ++ (if rnd == .sr then [.gen] else [])
  | .trsq _ ta _ rnd => [.t ta] ++ (if rnd == .sr then [.gen] else [])
  | .tsqrt _ ta _ rnd => [.t ta] ++ (if rnd == .sr then [.gen] else [])
  | .tcvt _ ta _ _ _ rnd => [.t ta] ++ (if rnd == .sr then [.gen] else [])
  | .tqnt td ta _ _ _ rnd => [.t td, .t ta] ++ (if rnd == .sr then [.gen] else [])
  | .tred _ ta _ _ _ rnd => [.t ta] ++ (if rnd == .sr then [.gen] else [])
  | .tbc _ ta gb _ => [.t ta, .g gb]
  | .ttr _ ta => [.t ta]
  | .tiota _ _ gb _ rnd => [.g gb] ++ (if rnd == .sr then [.gen] else [])
  | .trnd _ _ gb _ _ rnd => [.g gb, .gen] ++ (if rnd == .sr then [.gen] else [])
  | .mma a t w _ => [.a a, .t t, .w w]
  | .mmaz _ t w _ => [.t t, .w w]
  | .drain a _ gs _ h he _ rnd => [.a a, .g gs] ++ (if he then [.h h] else []) ++ (if rnd == .sr then [.gen] else [])
  | .hstrd _ h => [.h h]
  | _ => []
/-- The slot RECVANY takes: the lowest present one of its mask (R250). -/
def lowestSlot (c : Core) (mask : Nat) : Option (Fin 32) := (List.finRange 32).find? fun m => bitAt mask m.val && (c.mbox[m]).present
/-- The state an instruction reads. -/
def Instr.reads (i : Instr) (c : Core) : List Name :=
  match i with
  | .recvany _ ga _ => .g ga :: (match lowestSlot c (c.reg ga).toNat with | some m => [.m m] | none => [])
  | i => Instr.sources i

/-! ### Poisoned names (R393, R394) -/

/-- A poisoned piece of state belongs to a name. -/
def PoisonName.of : PoisonName → Name → Bool
  | .tile i _, .t r => i == r.val
  | .acc i _, .a r => i == r.val
  | .slot i _, .w r => i == r.val
  | .greg i, .g r => i == r.val
  | .mbox i, .m r => i == r.val
  | .bank i, .h r => i == r.val
  | .brand, .brand => true
  | .generator, .gen => true
  | .sysreg i, .sys j => i == j
  | _, _ => false
/-- EROW of a machine check STATE (R393). -/
def PoisonName.erow : PoisonName → Nat
  | .tile i row => 1 * 4096 + i * 64 + row
  | .acc i row => 2 * 4096 + i * 64 + row
  | .slot i row => 3 * 4096 + i * 64 + row
  | .greg i => 4 * 4096 + i * 64
  | .mbox i => 5 * 4096 + i * 64
  | .bank i => 6 * 4096 + i * 64
  | .brand => 7 * 4096
  | .generator => 8 * 4096
  | .sysreg i => 9 * 4096 + i * 64
/-- The first poisoned piece of state that an instruction would read. -/
def poisonRead (c : Core) (i : Instr) : Option PoisonName :=
  if c.poison.isEmpty then none else c.poison.find? fun p => (Instr.reads i c).any p.of
/-- The machine check of poisoned state (R393). -/
def stateTrap (p : PoisonName) : Trap := { cause := 0x11, kind := 1, code := 0, va := 0, row := p.erow }
/-- Poison leaves the names that an instruction has written whole (R394); CTXLD brings its own. -/
def Core.cleanse (c : Core) (i : Instr) : Core :=
  if c.poison.isEmpty || i matches .ctxld _ then c else { c with poison := c.poison.filter fun p => !((Instr.dests i).any p.of) }

end Sys2Proof.Machine
end

