-- ==== Sys2Proof/Machine/Bundle.lean ====
section
/-! DEFINITION. Bundles: fetching one, its checks, running a word or a pair, and what stands before a bundle at its boundary (02 R38 to
R42, 18 R387, 19 R412). `ex` stands for the meaning of an instruction. -/
namespace Sys2Proof.Machine

/-! ### Fetching (R38 to R42) -/

/-- The instruction of a word on the moving core, or its illegal-instruction trap (R51 to R53). -/
def legalWord (s : State) (w : BitVec 32) : Except Trap Instr :=
  match decodeWord (s.present s.me.id) w.toNat with
  | .ok i => .ok i
  | .error k => .error (plainTrap 1 (illegalCode k))
/-- The check of a non-sequential arrival at the pc (R41). -/
def checkArrival (s : State) : Ans Unit :=
  let bad : Trap := { cause := 3, kind := 0, code := 0, va := s.me.pc, row := 0 }
  if !s.me.arrived then .ok s ()
  else if s.me.pc.extractLsb' 0 2 != 0 then .trap s bad
  else (secondWord s s.me.pc).bind fun s second => if second then .trap s bad else .ok s ()
/-- The kinds of the illegal-bundle trap (R39): 1 PAIR-ALIGN, 2 PAIR-CLASS, 3 PAIR-CONFLICT. -/
def pairTrap (kind : Nat) : Trap := plainTrap 2 kind
/-- A pair's words checked (R39): class, legality C-part first, destinations. -/
def checkPair (s : State) (c x : BitVec 32) : Except Trap (Instr × Instr) :=
  if c.getLsbD 30 || x.getLsbD 31 || !x.getLsbD 30 then .error (pairTrap 2)
  else match legalWord s c with
    | .error t => .error t
    | .ok i => match legalWord s x with
      | .error t => .error t
      | .ok j => if (Instr.conflicts i).any (Instr.conflicts j).contains then .error (pairTrap 3) else .ok (i, j)
/-- The bundle at the pc of the moving core (R41): its word, or its C-part and X-part. -/
def fetchBundle (s : State) : Ans (Instr × Option Instr) :=
  (checkArrival s).bind fun s _ => (s.codeWord s.me.pc).bind fun s c =>
    if !c.getLsbD 31 then
      match legalWord s c with
      | .ok i => .ok s (i, none)
      | .error t => .trap s t
    else if s.me.pc.getLsbD 2 then .trap s (pairTrap 1)
    else (s.codeWord (s.me.pc + 4)).bind fun s x =>
      match checkPair s c x with
      | .ok (i, j) => .ok s (i, some j)
      | .error t => .trap s t

/-! ### Running (R40) -/

/-- A named register of core c taken from core d. -/
def copyName (d c : Core) : Name → Core
  | .g r => c.setReg r (d.reg r)
  | .t r => { c with t := c.t.set r d.t[r] }
  | .a r => { c with a := c.a.set r d.a[r] }
  | .w r => { c with w := c.w.set r d.w[r] }
  | .h r => { c with h := c.h.set r d.h[r] }
  | .m _ | .brand | .gen | .sys _ => c
/-- A physical register for a new value of an architectural one; the one before returns to the free list as its writer retires (R18). -/
def renameIn {n : Nat} (m : Vector Nat n) (free : List Nat) (i : Fin n) : Vector Nat n × List Nat :=
  match free with
  | [] => (m, [])
  | p :: ps => (m.set i p, ps ++ [m[i]])
/-- The rename of a destination; weight slots, banks and g0 are not renamed (R18). -/
def Rename.write (r : Rename) : Name → Rename
  | .t i => let x := renameIn r.t r.freeT i; { r with t := x.1, freeT := x.2 }
  | .a i => let x := renameIn r.a r.freeA i; { r with a := x.1, freeA := x.2 }
  | .g i => if i == 0 then r else let x := renameIn r.g r.freeG i; { r with g := x.1, freeG := x.2 }
  | _ => r
/-- A word has retired: its destinations have their new physical registers, and what it wrote whole loses its poison (R18, R393). -/
def Core.wrote (c : Core) (i : Instr) : Core :=
  if c.run == .idle then c else { (c.cleanse i) with rename := (Instr.dests i).foldl Rename.write c.rename }
/-- What the X-part of a pair did, put onto what its C-part left: its destinations, its draws, its flags (R40, R350). A CTXLD's generator stands
against the X-part's draws (DESIGN CHOICE, log entry 42). -/
def mergePart (c d : Core) (x : Instr) (loaded : Bool) : Core :=
  if c.run == .idle then c
  else
    let r := (Instr.dests x).foldl (copyName d) c
    { (r.wrote x) with vstat := c.vstat ||| d.vstat, gen := if (Instr.sources x).contains .gen && !loaded then d.gen else c.gen, nMma := d.nMma }
/-- A lone word. -/
def runWord (ex : Instr → State → Result) (i : Instr) (s : State) : Result :=
  match ex i s with
  | .next t => .next (if t.me.res == .retired then t.onMe (·.wrote i) else t)
  | r => r
/-- A part of a pair has trapped; at INTRAP = 1 its launch is killed, or its yard controller lost (R348). -/
def State.hasTrapped (s : State) : Bool := s.me.res == .trapped || s.me.run == .idle || s.me.run == .lost
/-- A C-part that waits where it can no longer trap, and may wait without end: an X-part that traps does not wait for it (R40). -/
def waitsFreely (c : Instr) (s : State) : Bool :=
  match c with
  | .halt => true
  | .recv .. => true
  | .recvany .. => true
  | .recvt .. => !s.me.kept.isEmpty
  | _ => false
/-- A pair (R40): both parts read the state before either writes; if either traps, neither has effect, and the C-part's trap is the
one taken. An X-part that traps keeps a C-part from being sent. `xtrap` is the X-part's trap where it stands before it runs. -/
def runPair (ex : Instr → State → Result) (c x : Instr) (xtrap : Option Trap) (s : State) : Result :=
  let part (s : State) : Result := match xtrap with | some t => .next (s.takeTrap t s.me.pc false) | none => ex x s
  match part { s with me := { s.me with vstat := noFlags } } with
  | .next sx =>
    match ex c s with
    | .next sc =>
      if c matches .halt then (if sx.hasTrapped then part s else if sc.me.res == .waiting then .next sc else .next (sc.onMe fun k => mergePart (k.wrote c) sx.me x false))
      else if sc.hasTrapped then .next sc
      else if sx.hasTrapped then (if sc.me.res == .waiting && sc.me.pend == .none && !waitsFreely c sc then .next sc else part s)
      else if sc.me.res == .waiting then .next sc
      else .next (sc.onMe fun k => mergePart (k.wrote c) sx.me x (c matches .ctxld _))
    | r => r
  | r => r
/-- The address after a bundle (R145). -/
def afterBundle (pc : Word) (pair : Bool) : Word := if pair then pc + 8 else pc + 4
/-- A system register's number, if it is listed, with whether user level is kept from it (R349). -/
def sysNumber (n : Nat) : Option Bool :=
  if n < 4 || n == 8 || (0x10 ≤ n && n < 0x15) || n == 0x18 || (0x20 ≤ n && n < 0x23) then some (decide (8 ≤ n)) else none
/-- A word whose place or level refuses it before it reads an operand (R318, R346, R349). -/
def refusedFirst (s : State) (i : Instr) : Bool :=
  match i with
  | .xlatiRange .. => s.me.level == 0
  | .xlatiAsid .. => s.me.level == 0
  | .xlatp .. => s.me.level == 0
  | .ctxsv _ => s.me.level == 0
  | .ctxld _ => s.me.level == 0
  | .tret => s.me.level == 0
  | .sysrd _ n => (sysNumber n.toNat).isNone || (s.me.level == 0 && sysNumber n.toNat == some true)
  | .syswr _ n => (sysNumber n.toNat).isNone || (s.me.level == 0 && sysNumber n.toNat == some true)
  | .tkadd .. => (s.launchOfCore s.me.id).isNone
  | .tkaddb .. => (s.launchOfCore s.me.id).isNone
  | .recvt .. => (s.launchOfCore s.me.id).isNone
  | .tksnap .. => (s.launchOfCore s.me.id).isNone
  | .mredAddI64 .. => (s.launchOfCore s.me.id).isNone
  | .mredMaxI64 .. => (s.launchOfCore s.me.id).isNone
  | .mredMinI64 .. => (s.launchOfCore s.me.id).isNone
  | .mredAndI64 .. => (s.launchOfCore s.me.id).isNone
  | .mredOrI64 .. => (s.launchOfCore s.me.id).isNone
  | .mredAddF32 .. => (s.launchOfCore s.me.id).isNone
  | .mredMaxF32 .. => (s.launchOfCore s.me.id).isNone
  | .mredMinF32 .. => (s.launchOfCore s.me.id).isNone
  | _ => false
/-- The machine check of a poisoned register that a word would read (R393), where nothing refuses the word before. -/
def stateCheck (s : State) (i : Instr) : Option Trap := if refusedFirst s i then none else (poisonRead s.me i).map stateTrap
/-- A bundle that has sent its request stays in hand as it was fetched (R24, R387). -/
def Core.keepBundle (c : Core) (i : Instr) (x : Option Instr) : Core :=
  if c.res == .waiting && (c.pend != .none || c.granted.isSome) then { c with bundle := some (i, x) } else c
/-- A fetched bundle run on the moving core. -/
def runFetched (ex : Instr → State → Result) (s : State) (i : Instr) (x : Option Instr) : Result :=
  let s := s.onMe fun c => { c with npc := afterBundle c.pc x.isSome }
  match stateCheck s i with
  | some t => .next (s.takeTrap t s.me.pc false)
  | none => match (match x with | none => runWord ex i s | some j => runPair ex i j (stateCheck s j) s) with
    | .next t => .next (t.onMe (·.keepBundle i x))
    | r => r
/-- A bundle in hand whose request is out tried again: it is neither fetched nor checked anew (R24, R40). -/
def runSent (ex : Instr → State → Result) (s : State) (i : Instr) (x : Option Instr) : Result :=
  match x with
  | none => runWord ex i s
  | some j => runPair ex i j none s
/-- What is younger than a CTXSV waits until its writes have performed (R180 row 9). -/
def awaitImage (s : State) : Ans Unit :=
  if !s.me.behind then .ok s ()
  else
    let s := s.settle
    if s.me.storesDone then .ok (s.onMe fun c => { c with behind := false }) () else .wait s
/-- The bundle at the pc fetched and run, or the one in hand whose request is out. -/
def runBundle (ex : Instr → State → Result) (s : State) : Result :=
  match s.me.bundle with
  | some (i, x) => runSent ex s i x
  | none => match (awaitImage s).bind fun s _ => fetchBundle s with
    | .ok s (i, x) => runFetched ex s i x
    | .wait s => .next s.hold
    | .trap s t => .next (s.takeTrap t s.me.pc false)

/-! ### The boundary (R387, R412) -/

/-- An asynchronous trap as it is taken (R386). -/
def Async.trap (c : Core) : Async → Trap
  | .overflow => { cause := 0x10, kind := 0, code := 0, va := 0, row := (heldRecords c).length }
  | .fenceOff line lost => { cause := 0x11, kind := 3, code := 0, va := BitVec.ofNat 64 (line * 128), row := lost }
  | .posted pa => { cause := 0x11, kind := 4, code := 0, va := BitVec.ofNat 64 pa, row := 0 }
/-- A machine check. -/
def Async.isCheck : Async → Bool | .overflow => false | _ => true
/-- The asynchronous trap that is due at the boundary: machine checks first, none inside a trap, in a STEP, or behind a committed
instruction (R387, R413). -/
def dueAsync (c : Core) : Option Async :=
  if c.inTrap || c.dbg.stepping || c.committed then none
  else match c.asyncs.find? (·.isCheck) with
    | some a => some a
    | none => c.asyncs.head?
/-- An asynchronous trap taken. -/
def State.takeAsync (s : State) (a : Async) : State :=
  (s.onMe fun c => { c with asyncs := c.asyncs.erase a }).takeTrap (a.trap s.me) s.me.pc true
/-- The launch of the moving core is being pre-empted, and its stream can stop here (R276). -/
def stopHere (s : State) : Option State :=
  match s.launchOfCore s.me.id with
  | none => none
  | some l =>
    if l.st != .preempting then none
    else match l.stream s.me.rx s.me.ry with
      | some t => if t.st == .live && stoppable s.me t then some (s.stopStream s.me.id l t) else none
      | none => none
/-- What the boundary does before the bundle: a trap, a pre-emption's stop, a debug halt, or nothing (R276, R389, R412). -/
def boundary (s : State) : Option State :=
  match dueAsync s.me with
  | some a => some (s.takeAsync a)
  | none =>
    if s.me.committed then none
    else if let some t := stopHere s then some t
    else if s.me.dbg.haltreq && (haltImage s s.me.id).isSome then some (s.debugHalt s.me.id 1 0)
    else match breakHit s.me s.me.pc with
      | none => none
      | some i =>
        if (haltImage s s.me.id).isSome then some (s.debugHalt s.me.id 2 i)
        else some (s.takeTrap (debugTrap 0) s.me.pc false)
/-- The end of a STEP: the core halts after its one bundle (R413). -/
def endStep (s : State) : State :=
  if s.me.dbg.stepping && s.me.res != .waiting && s.me.run == .running then s.debugHalt s.me.id 4 0 else s
/-- One turn of the moving core: what is due at the boundary, or its bundle. HALTREQ without a halt image is ignored (R412). -/
def turn (ex : Instr → State → Result) (s : State) : Result :=
  match boundary s with
  | some t => .next (endStep t)
  | none =>
    let s := if s.me.dbg.haltreq && !s.me.committed then s.onMe fun c => { c with dbg := { c.dbg with haltreq := false } } else s
    match runBundle ex s with
    | .next t => .next (endStep t).endKill
    | r => r

end Sys2Proof.Machine
end

