-- ==== Sys2Proof/Machine/Alu.lean ====
section
/-! DEFINITION. The scalar integer instructions (05 R138 to R142). -/
namespace Sys2Proof.Machine

/-! ### Arithmetic -/

/-- 1 or 0. -/
def boolWord (b : Bool) : Word := if b then 1 else 0
/-- The high half of the signed product (R138). -/
def mulHigh (a b : Word) : Word := BitVec.ofInt 64 (a.toInt * b.toInt / 2 ^ 64)
/-- The high half of the unsigned product (R138). -/
def mulHighU (a b : Word) : Word := BitVec.ofNat 64 (a.toNat * b.toNat / 2 ^ 64)
/-- The signed quotient (R138, R139): toward zero, all ones by zero; -2^63 by -1 wraps. -/
def divSigned (a b : Word) : Word := if b == 0 then BitVec.allOnes 64 else BitVec.ofInt 64 (a.toInt.tdiv b.toInt)
/-- The unsigned quotient (R139). -/
def divUnsigned (a b : Word) : Word := if b == 0 then BitVec.allOnes 64 else BitVec.ofNat 64 (a.toNat / b.toNat)
/-- The signed remainder (R138, R139): its sign follows A. -/
def remSigned (a b : Word) : Word := if b == 0 then a else BitVec.ofInt 64 (a.toInt.tmod b.toInt)
/-- The unsigned remainder (R139). -/
def remUnsigned (a b : Word) : Word := if b == 0 then a else BitVec.ofNat 64 (a.toNat % b.toNat)
/-- A shift amount: bits [5:0]. -/
def shiftOf (b : Word) : Nat := b.toNat % 64
/-- The number of leading zero bits; 64 for 0. -/
def leadingZeros (a : Word) : Nat := if a == 0 then 64 else 63 - a.toNat.log2
/-- The number of trailing zero bits among the low n bits of v. -/
def trailingZeros : Nat → Nat → Nat
  | 0, _ => 0
  | n + 1, v => if v % 2 == 1 then 0 else trailingZeros n (v / 2) + 1
/-- BFXZ of R142. -/
def fieldZero (a : Word) (pos width : Nat) : Word := BitVec.ofNat 64 (getBits a.toNat pos width)
/-- BFXS of R142: bits above 63 read as bit 63, and the field's own top bit extends it. -/
def fieldSigned (a : Word) (pos width : Nat) : Word :=
  if width == 0 then 0 else BitVec.ofInt 64 (signedOf width ((a.toInt / 2 ^ pos) % 2 ^ width).toNat)
/-- BFINS of R142: what would lie beyond bit 63 is discarded. -/
def fieldInsert (old a : Word) (pos width : Nat) : Word := BitVec.ofNat 64 (setBits old.toNat pos (min width (64 - pos)) a.toNat)

/-! ### The instructions -/

/-- A result of two registers. -/
def aluWith (f : Word → Word → Word) (gd ga gb : GReg) (s : State) : Result := retireWith s gd (f (s.g ga) (s.g gb))

/-- ADD (R138). -/
def execAdd (gd ga gb : GReg) (s : State) : Result := aluWith (· + ·) gd ga gb s
/-- SUB (R138). -/
def execSub (gd ga gb : GReg) (s : State) : Result := aluWith (· - ·) gd ga gb s
/-- MUL (R138). -/
def execMul (gd ga gb : GReg) (s : State) : Result := aluWith (· * ·) gd ga gb s
/-- MULH (R138). -/
def execMulh (gd ga gb : GReg) (s : State) : Result := aluWith mulHigh gd ga gb s
/-- MULHU (R138). -/
def execMulhu (gd ga gb : GReg) (s : State) : Result := aluWith mulHighU gd ga gb s
/-- DIV (R139). -/
def execDiv (gd ga gb : GReg) (s : State) : Result := aluWith divSigned gd ga gb s
/-- DIVU (R139). -/
def execDivu (gd ga gb : GReg) (s : State) : Result := aluWith divUnsigned gd ga gb s
/-- REM (R139). -/
def execRem (gd ga gb : GReg) (s : State) : Result := aluWith remSigned gd ga gb s
/-- REMU (R139). -/
def execRemu (gd ga gb : GReg) (s : State) : Result := aluWith remUnsigned gd ga gb s
/-- AND (R138). -/
def execAnd (gd ga gb : GReg) (s : State) : Result := aluWith (· &&& ·) gd ga gb s
/-- OR (R138). -/
def execOr (gd ga gb : GReg) (s : State) : Result := aluWith (· ||| ·) gd ga gb s
/-- XOR (R138). -/
def execXor (gd ga gb : GReg) (s : State) : Result := aluWith (· ^^^ ·) gd ga gb s
/-- SLL (R138). -/
def execSll (gd ga gb : GReg) (s : State) : Result := aluWith (fun a b => a <<< shiftOf b) gd ga gb s
/-- SRL (R138). -/
def execSrl (gd ga gb : GReg) (s : State) : Result := aluWith (fun a b => a >>> shiftOf b) gd ga gb s
/-- SRA (R138). -/
def execSra (gd ga gb : GReg) (s : State) : Result := aluWith (fun a b => a.sshiftRight (shiftOf b)) gd ga gb s
/-- SLT (R138). -/
def execSlt (gd ga gb : GReg) (s : State) : Result := aluWith (fun a b => boolWord (a.slt b)) gd ga gb s
/-- SLTU (R138). -/
def execSltu (gd ga gb : GReg) (s : State) : Result := aluWith (fun a b => boolWord (a.ult b)) gd ga gb s
/-- MIN (R138). -/
def execMin (gd ga gb : GReg) (s : State) : Result := aluWith (fun a b => if b.slt a then b else a) gd ga gb s
/-- MAX (R138). -/
def execMax (gd ga gb : GReg) (s : State) : Result := aluWith (fun a b => if a.slt b then b else a) gd ga gb s
/-- MINU (R138). -/
def execMinu (gd ga gb : GReg) (s : State) : Result := aluWith (fun a b => if b.ult a then b else a) gd ga gb s
/-- MAXU (R138). -/
def execMaxu (gd ga gb : GReg) (s : State) : Result := aluWith (fun a b => if a.ult b then b else a) gd ga gb s
/-- CLZ (R138). -/
def execClz (gd ga : GReg) (s : State) : Result := retireWith s gd (BitVec.ofNat 64 (leadingZeros (s.g ga)))
/-- CTZ (R138). -/
def execCtz (gd ga : GReg) (s : State) : Result := retireWith s gd (BitVec.ofNat 64 (trailingZeros 64 (s.g ga).toNat))
/-- POPC (R138). -/
def execPopc (gd ga : GReg) (s : State) : Result := retireWith s gd (BitVec.ofNat 64 (popCount 64 (s.g ga).toNat))
/-- SEL (R138). -/
def execSel (gd ga gb gc : GReg) (s : State) : Result := retireWith s gd (if s.g gc != 0 then s.g ga else s.g gb)
/-- ADDI (R140): a sign-extended immediate (R45). -/
def execAddi (gd ga : GReg) (imm : BitVec 12) (s : State) : Result := retireWith s gd (s.g ga + imm.signExtend 64)
/-- SLTI (R140). -/
def execSlti (gd ga : GReg) (imm : BitVec 12) (s : State) : Result := retireWith s gd (boolWord ((s.g ga).slt (imm.signExtend 64)))
/-- ANDI (R140): a zero-extended immediate. -/
def execAndi (gd ga : GReg) (imm : BitVec 12) (s : State) : Result := retireWith s gd (s.g ga &&& imm.zeroExtend 64)
/-- ORI (R140). -/
def execOri (gd ga : GReg) (imm : BitVec 12) (s : State) : Result := retireWith s gd (s.g ga ||| imm.zeroExtend 64)
/-- XORI (R140). -/
def execXori (gd ga : GReg) (imm : BitVec 12) (s : State) : Result := retireWith s gd (s.g ga ^^^ imm.zeroExtend 64)
/-- SLLI (R140). -/
def execSlli (gd ga : GReg) (sh : BitVec 6) (s : State) : Result := retireWith s gd (s.g ga <<< sh.toNat)
/-- SRLI (R140). -/
def execSrli (gd ga : GReg) (sh : BitVec 6) (s : State) : Result := retireWith s gd (s.g ga >>> sh.toNat)
/-- SRAI (R140). -/
def execSrai (gd ga : GReg) (sh : BitVec 6) (s : State) : Result := retireWith s gd ((s.g ga).sshiftRight sh.toNat)
/-- LHI (R141). -/
def execLhi (gd : GReg) (imm : BitVec 20) (s : State) : Result := retireWith s gd (imm.signExtend 64 <<< 12)
/-- BFXZ (R142). -/
def execBfxz (gd ga : GReg) (pos : BitVec 6) (width : BitVec 7) (s : State) : Result := retireWith s gd (fieldZero (s.g ga) pos.toNat width.toNat)
/-- BFXS (R142). -/
def execBfxs (gd ga : GReg) (pos : BitVec 6) (width : BitVec 7) (s : State) : Result := retireWith s gd (fieldSigned (s.g ga) pos.toNat width.toNat)
/-- BFINS (R142): gd is a source too. -/
def execBfins (gd ga : GReg) (pos : BitVec 6) (width : BitVec 7) (s : State) : Result :=
  retireWith s gd (fieldInsert (s.g gd) (s.g ga) pos.toNat width.toNat)

end Sys2Proof.Machine
end

