-- ==== Sys2Proof/Machine/Atomic.lean ====
section
/-! DEFINITION. The atomic memory operations and the gathered reductions (10 R234 to R237). -/
namespace Sys2Proof.Machine

/-- An AMO's answer: the old value in gd, and the acquire's part of the ordering (R234, R235). -/
def amoReg (s : State) (op : AmoOp) (size : Nat) (gd ga gb : GReg) (o : Ord) (sc : Scope) : Result :=
  finish ((amoAt s op size gd (s.g ga) ((s.g gb).toNat % 2 ^ (8 * size)) o sc).bind fun s old =>
    .ok ((s.setG gd (amoResult op size old)).acquireOrd o sc) ())
/-- A reduction of the low bytes of gb (R237). -/
def reduceReg (s : State) (k : GatherKind) (ga gb : GReg) (o : Ord) (sc : Scope) : Result :=
  finish (reduceTo s k (s.g ga) ((s.g gb).toNat % 2 ^ (8 * k.size)) o sc)

/-- AMOADD.w (R234). -/
def execAmoaddW (gd ga gb : GReg) (o : Ord) (sc : Scope) (s : State) : Result := amoReg s .add 4 gd ga gb o sc
/-- AMOAND.w (R234). -/
def execAmoandW (gd ga gb : GReg) (o : Ord) (sc : Scope) (s : State) : Result := amoReg s .and 4 gd ga gb o sc
/-- AMOOR.w (R234). -/
def execAmoorW (gd ga gb : GReg) (o : Ord) (sc : Scope) (s : State) : Result := amoReg s .or 4 gd ga gb o sc
/-- AMOXOR.w (R234). -/
def execAmoxorW (gd ga gb : GReg) (o : Ord) (sc : Scope) (s : State) : Result := amoReg s .xor 4 gd ga gb o sc
/-- AMOMIN.w (R234). -/
def execAmominW (gd ga gb : GReg) (o : Ord) (sc : Scope) (s : State) : Result := amoReg s .min 4 gd ga gb o sc
/-- AMOMAX.w (R234). -/
def execAmomaxW (gd ga gb : GReg) (o : Ord) (sc : Scope) (s : State) : Result := amoReg s .max 4 gd ga gb o sc
/-- AMOMINU.w (R234). -/
def execAmominuW (gd ga gb : GReg) (o : Ord) (sc : Scope) (s : State) : Result := amoReg s .minu 4 gd ga gb o sc
/-- AMOMAXU.w (R234). -/
def execAmomaxuW (gd ga gb : GReg) (o : Ord) (sc : Scope) (s : State) : Result := amoReg s .maxu 4 gd ga gb o sc
/-- AMOSWP.w (R234). -/
def execAmoswpW (gd ga gb : GReg) (o : Ord) (sc : Scope) (s : State) : Result := amoReg s .swp 4 gd ga gb o sc
/-- AMOCAS.w (R234). -/
def execAmocasW (gd ga gb : GReg) (o : Ord) (sc : Scope) (s : State) : Result := amoReg s .cas 4 gd ga gb o sc
/-- AMOFADD.w (R234). -/
def execAmofaddW (gd ga gb : GReg) (o : Ord) (sc : Scope) (s : State) : Result := amoReg s .fadd 4 gd ga gb o sc
/-- AMOADD.d (R234). -/
def execAmoaddD (gd ga gb : GReg) (o : Ord) (sc : Scope) (s : State) : Result := amoReg s .add 8 gd ga gb o sc
/-- AMOAND.d (R234). -/
def execAmoandD (gd ga gb : GReg) (o : Ord) (sc : Scope) (s : State) : Result := amoReg s .and 8 gd ga gb o sc
/-- AMOOR.d (R234). -/
def execAmoorD (gd ga gb : GReg) (o : Ord) (sc : Scope) (s : State) : Result := amoReg s .or 8 gd ga gb o sc
/-- AMOXOR.d (R234). -/
def execAmoxorD (gd ga gb : GReg) (o : Ord) (sc : Scope) (s : State) : Result := amoReg s .xor 8 gd ga gb o sc
/-- AMOMIN.d (R234). -/
def execAmominD (gd ga gb : GReg) (o : Ord) (sc : Scope) (s : State) : Result := amoReg s .min 8 gd ga gb o sc
/-- AMOMAX.d (R234). -/
def execAmomaxD (gd ga gb : GReg) (o : Ord) (sc : Scope) (s : State) : Result := amoReg s .max 8 gd ga gb o sc
/-- AMOMINU.d (R234). -/
def execAmominuD (gd ga gb : GReg) (o : Ord) (sc : Scope) (s : State) : Result := amoReg s .minu 8 gd ga gb o sc
/-- AMOMAXU.d (R234). -/
def execAmomaxuD (gd ga gb : GReg) (o : Ord) (sc : Scope) (s : State) : Result := amoReg s .maxu 8 gd ga gb o sc
/-- AMOSWP.d (R234). -/
def execAmoswpD (gd ga gb : GReg) (o : Ord) (sc : Scope) (s : State) : Result := amoReg s .swp 8 gd ga gb o sc
/-- AMOCAS.d (R234). -/
def execAmocasD (gd ga gb : GReg) (o : Ord) (sc : Scope) (s : State) : Result := amoReg s .cas 8 gd ga gb o sc
/-- AMOFADD.d (R234). -/
def execAmofaddD (gd ga gb : GReg) (o : Ord) (sc : Scope) (s : State) : Result := amoReg s .fadd 8 gd ga gb o sc
/-- REDADD.w (R237). -/
def execRedaddW (ga gb : GReg) (o : Ord) (sc : Scope) (s : State) : Result := reduceReg s .addW ga gb o sc
/-- REDADD.d (R237). -/
def execRedaddD (ga gb : GReg) (o : Ord) (sc : Scope) (s : State) : Result := reduceReg s .addD ga gb o sc
/-- REDFADD.w (R237). -/
def execRedfaddW (ga gb : GReg) (o : Ord) (sc : Scope) (s : State) : Result := reduceReg s .faddW ga gb o sc
/-- REDMAX.w (R237). -/
def execRedmaxW (ga gb : GReg) (o : Ord) (sc : Scope) (s : State) : Result := reduceReg s .maxW ga gb o sc
/-- REDMAX.d (R237). -/
def execRedmaxD (ga gb : GReg) (o : Ord) (sc : Scope) (s : State) : Result := reduceReg s .maxD ga gb o sc

end Sys2Proof.Machine
end

