-- ==== Sys2Proof/Machine/Copy.lean ====
section
/-! DEFINITION. Copies, fills and all-reduces (08 R191, R192, 10 R251 to R257): the instructions, and what the engines do after
retirement. -/
namespace Sys2Proof.Machine

/-! ### Ranges -/

/-- The pieces of byte ranges by line: place in the transfer, address, length. -/
def rangePieces : Nat → List (Nat × Nat) → List (Nat × Nat × Nat)
  | _, [] => []
  | off, (pa, n) :: rs => (linePieces pa n).map (fun p => (off + p.2.2, p.1, p.2.1)) ++ rangePieces (off + n) rs
/-- The lines of byte ranges, each once, in ascending order of the transfer. -/
def rangeLines (rs : List (Nat × Nat)) : List Nat := ((rangePieces 0 rs).map (·.2.1 / 128)).eraseDups
/-- The address of the byte at a place of byte ranges. -/
def rangeAt : Nat → List (Nat × Nat) → Nat
  | _, [] => 0
  | o, (pa, n) :: rs => if o < n then pa + o else rangeAt (o - n) rs
/-- A byte lies in byte ranges. -/
def rangeHolds (rs : List (Nat × Nat)) (pa : Nat) : Bool := rs.any fun r => decide (r.1 ≤ pa) && decide (pa < r.1 + r.2)
/-- The brand of the lines a copy writes: full beyond 32 lines, else its brandable lines (R222, R252). -/
def copyBrand (b : BitVec 960) (lines : List Nat) : BitVec 960 :=
  if 32 < lines.length then fullBrand else (lines.filter fun l => brandable (l * 128)).foldl brandInsert b
/-- A completion word (R254). -/
def completionWord (status kind tag bytes : Nat) : Word := BitVec.ofNat 64 (status * 2 ^ 60 + kind * 2 ^ 56 + tag % 2 ^ 16 * 2 ^ 40 + bytes % 2 ^ 33)
/-- A completion sent to the slot of the issuing stream as a branded message (R252, R257). -/
def State.sendCompletion (s : State) (core launch rx ry slot : Nat) (v : Word) (sc : Scope) (b : BitVec 960) : State :=
  s.sendNi (.msg launch (if launch == 0 then core else rx) ry none { slot := slot, value := v, sender := core, scope := sc, brand := some b } false)

/-! ### The copy engine after retirement -/

/-- A job by its number. -/
def State.jobOf (s : State) (id : Nat) : Option Job := s.jobs.find? (·.id == id)
/-- A job changed. -/
def State.onJob (s : State) (id : Nat) (f : Job → Job) : State := { s with jobs := s.jobs.map fun (j : Job) => if j.id == id then f j else j }
/-- The next line of a job is marked: the counter's entry goes with the last one (R191, R252). -/
def State.lineMarked (s : State) (j : Job) (rest : List Nat) : State :=
  let s := s.onJob j.id fun (k : Job) => { k with unmarked := rest }
  if rest.isEmpty then s.onCore j.core fun c => { c with others := c.others - 1 } else s
/-- The job's pieces in a line. -/
def Job.piecesOf (j : Job) (line : Nat) : List (Nat × Nat × Nat) := (rangePieces 0 j.dst).filter fun p => p.2.1 / 128 == line
/-- The lines of the source that feed a line of the destination. -/
def Job.sourceLines (j : Job) (line : Nat) : List Nat :=
  if j.fill then [] else ((j.piecesOf line).flatMap fun p => (List.range p.2.2).map fun i => rangeAt (p.1 + i) j.src / 128).eraseDups
/-- A line of local HBM. -/
def isLocal (s : State) (line : Nat) : Bool := s.placeOf (line * 128) matches .ok .localHbm
/-- An older copy of a core has still to mark a line, or to write one of another place than local HBM: a younger access of its engines waits (R180
rows 1 and 8, R258). -/
def olderWrites (s : State) (core id line : Nat) : Bool :=
  s.jobs.any fun k => k.core == core && k.id < id && (k.unmarked.contains line || (k.unwritten.contains line && !isLocal s line))
/-- An older copy of a core has still to read a line: a younger engine write of it waits (R180 row 1). -/
def olderReads (s : State) (core id line : Nat) : Bool :=
  s.jobs.any fun k => k.core == core && k.id < id && k.unwritten.any fun l => (k.sourceLines l).contains line
/-- COPY_MARK: the next unmarked line of a job goes to E at its home, once the core's older stores to it have performed and its T copies are
recalled (R191, R213, R258), behind what stands parked in the line's set or at its bank's input (R165). The mark is a hit of the line (R164, R166); of a lock's poisoned line it keeps the poison (R307). -/
def State.copyMark (s : State) (id : Nat) : Option State :=
  match s.jobOf id with
  | none => none
  | some j => match j.unmarked with
    | [] => none
    | line :: rest =>
      if j.after.contains line || setBlocked s line || setParked s line || bankHeld s line || olderWrites s j.core id line
          || olderReads s j.core id line then none
      else match s.dirOf line with
      | none => (match allocate s line false with | .stays s => some s | _ => none)
      | some d =>
        if d.round.isSome then none
        else match d.st with
          | .w => none
          | .e .. => none
          | .g _ true => none
          | .g gs false => s.recallG line gs
          | .k holder tail _ _ poison =>
            if !(holder.isNone && poison && tail.isNone) then none
            else if !d.sharers.isEmpty then some (s.startRecall d)
            else some (((s.hitDir line false).onDir line fun d => { d with st := .e id true, sharers := [] }).lineMarked j rest)
          | .n =>
            if !d.sharers.isEmpty then some (s.startRecall d)
            else some (((s.hitDir line false).onDir line fun d => { d with st := .e id false, sharers := [] }).lineMarked j rest)

/-- The source lies where the engine reads it in place: in the core's own cell. -/
def ownCell (s : State) (j : Job) (line : Nat) : Bool :=
  match s.placeOf (line * 128) with | .ok (.scratch cell) => s.coreNo cell == j.core | .ok (.control ..) => true | _ => false
/-- A source line may be read: a local HBM line at its home, where the job's own mark does not hold it back; a line of another place once it has
been asked for and has arrived (R169 to R171). -/
def sourceReady (s : State) (j : Job) (line : Nat) : Ans Unit :=
  if olderWrites s j.core j.id line then .wait s
  else if ownCell s j line then .ok s ()
  else match s.placeOf (line * 128) with
  | .ok .localHbm => (match s.dirOf line with
    | some d => (match d.st with
      | .e k _ => if k == j.id then .ok s () else .wait s
      | _ => s.readyAtHome line)
    | none => s.readyAtHome line)
  | _ =>
    if j.got.any (·.1 == line) then .ok s ()
    else
      let s := if j.asked.contains line then s
        else ({ s with jobs := s.jobs.map fun (k : Job) => if k.id == j.id then { k with asked := line :: k.asked } else k }).request
          { core := 2048 + j.core, line := line, req := .read true false false false }
      match s.jobOf j.id with
      | some k => if k.got.any (·.1 == line) then .ok s () else .wait s
      | none => .wait s
/-- Source lines made ready, one after another. -/
def sourcesReady (j : Job) : List Nat → State → Ans Unit
  | [], s => .ok s ()
  | l :: ls, s => (sourceReady s j l).bind fun s _ => sourcesReady j ls s
/-- A packet about a line of the core's copy engine is on its way. -/
def askOpen (s : State) (j : Job) (line : Nat) : Bool :=
  s.net.any fun f => match f.pkt with
    | .req r => r.core == 2048 + j.core && r.line == line
    | .hostWait r _ => r.core == 2048 + j.core && r.line == line
    | .fill k l .. => k == 2048 + j.core && l == line
    | _ => false
/-- A source line that was asked for has been refused. -/
def sourceLost (s : State) (j : Job) (line : Nat) : Bool :=
  j.lost != 0 && j.asked.contains line && !(j.got.any (·.1 == line)) && !askOpen s j line
/-- The value of an aligned source element as it stands where the engine reads it. -/
def sourceElement (s : State) (j : Job) (e : Nat) : Nat :=
  match s.placeOf e with
  | .ok (.control cell off) => regBytes s cell off 8
  | _ => match j.got.find? (·.1 == e / 128) with
    | some (_, d) => lineGet d (e % 128) 8
    | none => s.mem.readN e 8
/-- The source element of a byte as the engine has read it (R177, R191): once for all the lines it feeds; of one that the copy itself has
overwritten, each aligned element of the destination takes the old value or the one that stands there (R252). -/
def readElement (s : State) (j : Job) (o : Nat) : Nat :=
  let e := rangeAt o j.src / 8 * 8
  match j.held.find? (·.1 == e) with
  | some (_, v) => v
  | none => match j.saved.find? (·.1 == e) with
    | some (_, old) => if Config.copyOld (s.tick + rangeAt o j.dst / 8 % 16) then old else sourceElement s j e
    | none => sourceElement s j e
/-- n bytes of what a job writes from place o on: the source's, or the repeating pattern (R251). -/
def copyBytes (s : State) (j : Job) (o n : Nat) : Nat :=
  packBits 8 ((List.range n).map fun i =>
    if j.fill then j.pattern.toNat / 2 ^ (8 * ((o + i) % 8)) % 256
    else readElement s j (o + i) / 2 ^ (8 * (rangeAt (o + i) j.src % 8)) % 256)
/-- The source elements among n bytes at pa, with their values, that the copy has not overwritten yet. -/
def newSaved (s : State) (j : Job) (pa n : Nat) : List (Nat × Nat) :=
  ((List.range ((pa % 8 + n + 7) / 8)).map fun i => pa / 8 * 8 + 8 * i).filterMap fun e =>
    if (List.range 8).any (fun i => rangeHolds j.src (e + i)) && !(j.saved.any (·.1 == e)) then some (e, s.mem.readN e 8) else none
/-- One piece written by the engine, as the core's own U copy of the line goes (R161, R179): at the home the line returns from E to N (R214);
elsewhere a request goes out. -/
def enginePiece (s : State) (j : Job) (pa n v : Nat) : State :=
  let s := s.ownWriteOf j.core (pa / 128)
  match s.placeOf pa with
  | .ok .localHbm => ((s.onDir (pa / 128) fun d => { d with dirty := true }).placeBy (some (2048 + j.core)) pa n v).noteCommit (pa / 128)
  | .ok (.control cell off) => controlStore s cell off n v (512 ≤ j.core)
  | _ => s.request { core := 2048 + j.core, line := pa / 128, req := .write pa n v false false }
/-- A line whose mark is lifted: it returns to N, or to the poisoned lock it was (R214, R253, R307). -/
def DirLine.unmark (id : Nat) (d : DirLine) : DirLine :=
  match d.st with
  | .e k poison => if k == id then { d with st := if poison then .k none none false none true else .n, sharers := [] } else d
  | _ => d
/-- The marks of a job on lines are lifted (R253). -/
def State.liftMarks (s : State) (id : Nat) (lines : List Nat) : State :=
  { s with dir := s.dir.map fun (d : DirLine) => if lines.contains d.line then d.unmark id else d }
/-- The first and the last source element of a piece, with their values: those that may feed another line too. -/
def edgeElements (s : State) (j : Job) (line : Nat) : List (Nat × Nat) :=
  if j.fill then []
  else ((j.piecesOf line).flatMap fun p => [p.1, p.1 + p.2.2 - 1]).filterMap fun o =>
    let e := rangeAt o j.src / 8 * 8
    if j.held.any (·.1 == e) then none else some (e, readElement s j o)
/-- A line's source meets a poisoned word. -/
def Job.meetsPoison (s : State) (j : Job) (line : Nat) : Bool :=
  !(s.badWords.isEmpty && s.mesh.isEmpty) && !j.fill && (j.piecesOf line).any fun p => (List.range p.2.2).any fun i => badWordIn s (rangeAt (p.1 + i) j.src) 1 false |>.isSome
/-- The copy ends at a line with a status: what follows is not written, and with MEMERR the destination is left undefined from there on, what was
written of it too (R253); the line of the destination is reported (R396; DESIGN CHOICE, log entry 80). -/
def State.endCopyAt (s : State) (j : Job) (line status : Nat) : State :=
  let first := match j.piecesOf line with | p :: _ => p.1 | [] => j.len
  let after (l : Nat) : Bool := (j.piecesOf l).any fun p => decide (first ≤ p.1)
  let lost := (rangePieces 0 j.dst).filter fun p => decide (first ≤ p.1)
  let s := if status != 1 then s else
    { (lost.foldl (fun (s : State) p =>
        s.placeBy (some (2048 + j.core)) p.2.1 p.2.2 (packBits 8 ((List.range p.2.2).map fun i => (Config.lostByte s.tick (p.1 + i)).toNat))) s) with
      tick := s.tick + 1 }
  let s := s.liftMarks j.id (j.unwritten.filter after)
  let s := if j.unmarked.isEmpty || !(j.unmarked.all after) then s else s.onCore j.core fun c => { c with others := c.others - 1 }
  let s := s.onJob j.id fun (k : Job) =>
    { k with status := status, len := min k.len first, unmarked := k.unmarked.filter (!after ·), unwritten := k.unwritten.filter (!after ·) }
  let n := (s.core j.core).paddock
  if status == 1 && n < 7 then s.logError n 10 j.core 0 (line * 128) else s
/-- The copy writes to the peer and the link is down. -/
def needsLink (s : State) (line : Nat) : Bool :=
  !s.link.up && match s.placeOf (line * 128) with | .ok .peerHbm => true | .ok .peerScratch => true | .ok .peerControl => true | _ => false
/-- What the engine has asked for or brought in has moved the state on, though it still waits. -/
def movedOn (s t : State) (lines : List Nat) : Bool := t.stamp != s.stamp || lines.any fun l => (t.dirOf l).isSome != (s.dirOf l).isSome
/-- COPY_ENGINE_WRITE: a marked line of the destination is written from the source, once every older store of the core has performed
(R191, R252). -/
def State.copyWrite (s : State) (id line : Nat) (memErr : Bool) : Option State :=
  match s.jobOf id with
  | none => none
  | some j =>
    if !(j.unwritten.contains line) || j.unmarked.contains line || !j.after.isEmpty
        || (!isLocal s line && (olderWrites s j.core id line || olderReads s j.core id line)) then none
    else if memErr || j.meetsPoison s line then some (s.endCopyAt j line 1)
    else if (j.sourceLines line).any (sourceLost s j) then some (s.endCopyAt j line j.lost)
    else if needsLink s line then some (s.endCopyAt j line 2)
    else match sourcesReady j (j.sourceLines line) s with
      | .wait t => if movedOn s t (j.sourceLines line) then some t else none
      | .trap _ _ => none
      | .ok s _ => match s.jobOf id with
        | none => some s
        | some j =>
          let data := (j.piecesOf line).map fun p => (p.2.1, p.2.2, copyBytes s j p.1 p.2.2)
          let held := edgeElements s j line
          let saved := if j.fill then [] else (j.piecesOf line).flatMap fun p => newSaved s j p.2.1 p.2.2
          let s := data.foldl (fun (s : State) p => enginePiece s j p.1 p.2.1 p.2.2) s
          let s := (s.liftMarks id [line]).onJob id fun (k : Job) =>
            { k with unwritten := k.unwritten.erase line, saved := k.saved ++ saved, held := k.held ++ held }
          some { s with tick := s.tick + (if j.saved.isEmpty then 0 else 16) }
/-- COPY_COMPLETION: every write has committed; the completion word goes out with the brand of the destination (R252, R254). -/
def State.copyDone (s : State) (id : Nat) : Option State :=
  match s.jobOf id with
  | none => none
  | some j =>
    let open_ := s.net.any fun f => match f.pkt with
      | .req r => r.core == 2048 + j.core
      | .refusal k _ => k == 2048 + j.core
      | _ => false
    if !j.unmarked.isEmpty || !j.unwritten.isEmpty || open_ then none
    else some (({ s with jobs := s.jobs.filter (·.id != id) }).sendCompletion j.core j.launch j.rx j.ry j.slot
      (completionWord j.status j.fill.toNat 0 j.len) j.scope j.brand)
/-- The next step of a job that needs no input. -/
def State.jobStep (s : State) (id : Nat) : Option State :=
  match s.copyMark id with
  | some s => some s.settle
  | none => match (s.jobOf id).bind fun j => j.unwritten.findSome? fun l => s.copyWrite id l false with
    | some s => some s.settle
    | none => s.copyDone id
/-- A job's steps taken until none can be. -/
def jobSteps (id : Nat) : Nat → State → State
  | 0, s => s
  | fuel + 1, s => match s.jobStep id with
    | some s => jobSteps id fuel s
    | none => s
/-- A new job's steps taken at once, unless steps wait for the agenda (log entry 6). -/
def State.settleJob (s : State) (id : Nat) : State :=
  if s.lazy then s
  else match s.jobOf id with
    | none => s
    | some j => jobSteps id (4 * j.unmarked.length + 4 * j.unwritten.length + 4) s

/-! ### CPY and CPYF (R251, R252) -/

/-- The pages of a range translated in ascending order (R252), as byte ranges. -/
def locatePages (s : State) (va : Word) (n kind : Nat) : Ans (List Piece) :=
  locateFrom kind 0 0 (splitAt 4096 va.toNat n (n / 4096 + 2) 0) [] s
/-- Copies and all-reduces of a core that are outstanding: at most four. -/
def enginesOut (s : State) (k : Nat) : Nat := (s.jobs.filter (·.core == k)).length + (s.areds.filter (·.of (s.core k))).length
/-- A retired copy enters the engine (R252): its lines enter the brand, its own U copies of them go (R161), and it takes a counter
entry until every local HBM line is marked. -/
def State.startCopy (s : State) (fill : Bool) (src dst : List Piece) (pattern : Word) (len : Nat) (m : MReg) (sc : Scope) (va : Word) : State :=
  let ranges (ps : List Piece) : List (Nat × Nat) := ps.map fun p => (p.pa, p.len)
  let lines := rangeLines (ranges dst)
  let marks := lines.filter fun l => match s.placeOf (l * 128) with | .ok .localHbm => true | _ => false
  let id := s.nextId
  let launch := match s.me.launch with | some l => l | none => 0
  let j : Job :=
    { id := id, core := s.me.id, launch := launch, rx := s.me.rx, ry := s.me.ry, fill := fill, src := ranges src, dst := ranges dst,
      pattern := pattern, len := len, slot := m.val, scope := sc, unmarked := marks, unwritten := lines, after := s.me.undone, saved := [],
      brand := copyBrand 0 lines, status := 0, asid := s.me.asid, va := va.toNat }
  let s := s.onMe fun c =>
    { c with brand := copyBrand c.brand lines, cache := c.cache.filter fun (l : CLine) => !(l.isU && lines.contains l.line),
             others := if marks.isEmpty then c.others else c.others + 1 }
  (({ s with nextId := id + 1, jobs := s.jobs ++ [j] }).coverFills lines.contains).settleJob id
/-- CPY or CPYF: the length, then every page of the source and the destination, then a place among the four. -/
def copyWith (fill : Bool) (gd ga gb : GReg) (m : MReg) (sc : Scope) (s : State) : Result :=
  let len := (s.g gb).toNat
  let dst := s.g gd
  let src := s.g ga
  if 2 ^ 32 < len then finish (.trap s.tock (accessTrap .copyLength (Config.faultAddress s.tick) 0))
  else finish ((if fill then .ok s () else checkWatch s src len false).bind fun s _ => (checkWatch s dst len true).bind fun s _ =>
    (if fill then .ok s [] else locatePages s src len 0).bind fun s from_ => (locatePages s dst len 1).bind fun s to_ =>
      if 4 ≤ enginesOut s s.me.id then .wait s
      else (roomForStore s 1).bind fun s _ => .ok (s.startCopy fill from_ to_ src len m sc dst) ())
/-- CPY (R251, R252). -/
def execCpy (gd ga gb : GReg) (m : MReg) (sc : Scope) (s : State) : Result := copyWith false gd ga gb m sc s
/-- CPYF (R251, R252). -/
def execCpyf (gd ga gb : GReg) (m : MReg) (sc : Scope) (s : State) : Result := copyWith true gd ga gb m sc s

/-! ### ARED (R255 to R257) -/

/-- An all-reduce enters the card's table (R255). -/
def State.startAred (s : State) (bf16 : Bool) (tag : Nat) (buf : List Piece) (len : Nat) (m : MReg) : State :=
  let ranges := buf.map fun p => (p.pa, p.len)
  let lines := rangeLines ranges
  let launch := match s.me.launch with | some l => l | none => 0
  let e : Ared :=
    { id := s.nextId, core := s.me.id, launch := launch, rx := s.me.rx, ry := s.me.ry, bf16 := bf16, tag := tag, buf := ranges, len := len,
      slot := m.val, brand := copyBrand 0 lines, matched := false, status := 0, left := lines, peer := [], after := s.me.undone, bad := false }
  let s := s.onMe fun c => { c with brand := copyBrand c.brand lines }
  { s with nextId := s.nextId + 1, areds := s.areds ++ [e] }
/-- ARED: its faults in their order, COPY-LENGTH's address open as a copy's is (log entry 43), then a place among the four and in the card's table of 16. -/
def aredWith (bf16 : Bool) (gd ga gb : GReg) (m : MReg) (s : State) : Result :=
  let va := s.g ga
  let len := (s.g gb).toNat
  if va.toNat % 128 != 0 then finish (.trap s (alignTrap va 0))
  else if len % 128 != 0 || len < 128 || 2 ^ 32 < len then finish (.trap s.tock (accessTrap .copyLength (Config.faultAddress s.tick) 0))
  else finish ((checkWatch s va len false).bind fun s _ => (checkWatch s va len true).bind fun s _ => (locatePages s va len 2).bind fun s ps =>
    match ps.find? fun p => !(s.placeOf p.pa matches .ok .localHbm) with
    | some p => .trap s (accessTrap .aredRegion p.va 0)
    | none =>
      if !s.link.up then .trap s (accessTrap .linkAbsent va 0)
      else if 4 ≤ enginesOut s s.me.id || 16 ≤ s.areds.length then .wait s
      else .ok (s.startAred bf16 ((s.g gd).toNat % 2 ^ 16) ps len m) ())
/-- ARED, FP32 (R255). -/
def execAredFp32 (gd ga gb : GReg) (m : MReg) (s : State) : Result := aredWith false gd ga gb m s
/-- ARED, BF16 (R255). -/
def execAredBf16 (gd ga gb : GReg) (m : MReg) (s : State) : Result := aredWith true gd ga gb m s

/-- An entry changed. -/
def State.onAred (s : State) (id : Nat) (f : Ared → Ared) : State := { s with areds := s.areds.map fun (a : Ared) => if a.id == id then f a else a }
/-- The bytes of byte ranges. -/
def rangeBytes (rs : List (Nat × Nat)) : Nat := (rs.map (·.2)).sum
/-- ARED_MATCH: the oldest pending entry of a tag meets the peer's, of this format and in this buffer; another length or format is a mismatch
(R256). -/
def State.aredMatch (s : State) (id : Nat) (peerBuf : List (Nat × Nat)) (peerBf16 : Bool) : Option State :=
  match s.areds.find? (·.id == id) with
  | none => none
  | some a =>
    let oldest := match s.areds.find? fun b => b.tag == a.tag && !b.matched with | some b => b.id == id | none => false
    if a.matched || !oldest || !s.link.up then none
    else if rangeBytes peerBuf != a.len || peerBf16 != a.bf16 then some (s.onAred id fun (a : Ared) => { a with matched := true, status := 3 })
    else some (s.onAred id fun (a : Ared) => { a with matched := true, peer := peerBuf })
/-- An element of the local buffer plus the incoming one, rounded once (R256). -/
def aredElement (bf16 : Bool) (a b : Nat) : Nat :=
  let f : Fmt := if bf16 then .bf16 else .fp32
  (deliverWith f .rne false 0 (addExact .rne (exactOf f a) (exactOf f b))).1
/-- A line of the buffer with the incoming one added, element by element. -/
def aredLine (bf16 : Bool) (d c : BitVec 1024) : BitVec 1024 :=
  let n := if bf16 then 2 else 4
  BitVec.ofNat 1024 (packBits (8 * n) ((List.range (128 / n)).map fun i => aredElement bf16 (lineGet d (n * i) n) (lineGet c (n * i) n)))
/-- ARED_CHUNK: the incoming line of this index (R256). The local line goes out to the peer as it was, the sum is written over it, and the peer
writes the same sum over its own line, since addition commutes. The engines read after the core's older stores (R180). A poisoned word ends it
with MEMERR (R393). -/
def State.aredChunk (s : State) (id chunk : Nat) (incoming : BitVec 1024) : Option State :=
  match s.areds.find? (·.id == id) with
  | none => none
  | some a => match (rangeLines a.buf)[chunk]? with
    | none => none
    | some line =>
      if !a.matched || a.status != 0 || !(a.left.contains line) || !a.after.isEmpty || olderWrites s a.core id line || olderReads s a.core id line then none
      else if (badWordIn s (line * 128) 128 false).isSome then
        some (s.onAred id fun (a : Ared) => { a with status := 1 })
      else match s.readyAtHome line with
        | .wait t => if movedOn s t [line] then some t else none
        | .trap _ _ => none
        | .ok s _ =>
          let now := s.mem.line line
          let sum := aredLine a.bf16 now incoming
          let s := { s with out := s.out ++ [Out.aredChunk a.tag chunk now] }.request
            { core := 1028, line := line, req := .write (line * 128) 128 sum.toNat false false }
          let s := match (rangeLines a.peer)[chunk]? with | some l => s.placeBy (some 1028) (l * 128) 128 sum.toNat | none => s
          some (s.onAred id fun (a : Ared) => { a with left := a.left.erase line })
/-- A write of a link engine to a line has not committed. -/
def engineOpen (s : State) (line : Nat) : Bool :=
  (s.net.any fun f => match f.pkt with | .req r => r.core == 1028 && r.line == line | _ => false)
  || (match s.dirOf line with | some d => d.round.isSome | none => false)
/-- Buffers that some agent stored to during the operation are left undefined, the two cards' apart (R192). -/
def spoilBuffer (s : State) (a : Ared) : State :=
  { ((rangeLines a.buf ++ rangeLines a.peer).foldl (fun (s : State) l =>
      s.placeBy (some 1028) (l * 128) 128 (packBits 8 ((List.range 128).map fun i => (Config.aredByte s.tick (l * 128 + i)).toNat))) s) with
    tick := s.tick + 1 }
/-- ARED_COMPLETION: every local write has committed; the completion goes out as an acquire of .sys over the buffer (R257). -/
def State.aredDone (s : State) (id : Nat) : Option State :=
  match s.areds.find? (·.id == id) with
  | none => none
  | some a =>
    if !a.matched || (a.status == 0 && !a.left.isEmpty) || (rangeLines a.buf).any (engineOpen s) then none
    else
      let s := if a.status != 3 && a.bad then spoilBuffer s a else s
      let bytes := if a.status == 0 then a.len else if a.status == 3 then 0 else a.len - 128 * a.left.length
      some (({ s with areds := s.areds.filter (·.id != id) }).sendCompletion a.core a.launch a.rx a.ry a.slot
        (completionWord a.status (2 + a.bf16.toNat) a.tag bytes) .sys a.brand)

/-! ### The engines' steps -/

/-- A step that has something to act on, or nothing happens (log entry 4). -/
def served (s : State) (o : Option State) : Result := .next (match o with | some t => t | none => s)

/-- COPY_MARK (R191). -/
def execCopyMark (job : Nat) (s : State) : Result := served s (s.copyMark job)
/-- COPY_ENGINE_WRITE (R252). -/
def execCopyEngineWrite (job line : Nat) (memErr : Bool) (s : State) : Result := served s (s.copyWrite job line memErr)
/-- COPY_COMPLETION (R252). -/
def execCopyCompletion (job : Nat) (s : State) : Result := served s (s.copyDone job)
/-- ARED_MATCH (R256). -/
def execAredMatch (k : Nat) (peerBuf : List (Nat × Nat)) (peerBf16 : Bool) (s : State) : Result := served s (s.aredMatch k peerBuf peerBf16)
/-- ARED_CHUNK (R256). -/
def execAredChunk (k chunk : Nat) (incoming : BitVec 1024) (s : State) : Result := served s (s.aredChunk k chunk incoming)
/-- ARED_COMPLETION (R257). -/
def execAredCompletion (k : Nat) (s : State) : Result := served s (s.aredDone k)

end Sys2Proof.Machine
end

