-- ==== Sys2Proof/Machine/Recovery.lean ====
section
/-! DEFINITION. Errors, lost cores, failing links and die resets (18 R392 to R405). -/
namespace Sys2Proof.Machine

/-! ### Storage errors (R392 to R395) -/

/-- A corrected word counted at its cell (R396). -/
def State.countCorrected (s : State) (k : Nat) : State := s.onCore k fun c => { c with corrected := min (c.corrected + 1) 0xFFFFFFFF }
/-- A word of memory poisoned (R394) and reported. -/
def State.poisonWord (s : State) (cell word : Nat) : State :=
  { s with badWords := if s.badWords.contains word then s.badWords else word :: s.badWords }.logAt cell 1 (s.coreNo cell) 0 (word * 8)
/-- The name of a register by the class, index and row of EROW (R393). -/
def poisonName (cls index row : Nat) : Option PoisonName :=
  match cls with
  | 1 => if index < 16 && row < 64 then some (.tile index row) else none
  | 2 => if index < 4 && row < 64 then some (.acc index row) else none
  | 3 => if index < 16 && row < 64 then some (.slot index row) else none
  | 4 => if index != 0 && index < 32 then some (.greg index) else none
  | 5 => if index < 32 then some (.mbox index) else none
  | 6 => if index < 4 then some (.bank index) else none
  | 7 => some .brand
  | 8 => some .generator
  | 9 => if index < 14 then some (.sysreg index) else none
  | _ => none
/-- An uncorrectable error in a register: the name is poisoned (R393). -/
def State.poisonReg (s : State) (k cls index row : Nat) : State :=
  match poisonName cls index row with
  | none => s
  | some n =>
    (s.onCore k fun c => { c with poison := if c.poison.contains n then c.poison else c.poison ++ [n] }).logAt (k % 256) 1 k
      (cls * 2 ^ 12 + index * 2 ^ 6 + row) 0
/-- A core's bundle in hand replayed for an error in a physical structure (R393): it is squashed and tried again, unless it is committed; its
third replay for the same structure loses the core (R395). -/
def State.replayBundle (s : State) (k struct : Nat) : State :=
  let c := s.core k
  let tries := c.tries.filter (·.1 == c.nBundles) ++ [(c.nBundles, struct)]
  let s := if c.run == .running && !c.committed then (s.switchTo k).squash.switchTo s.me.id else s
  let s := s.onCore k fun c => { c with replays := min (c.replays + 1) 0xFFFFFFFF, tries := tries }
  if 3 ≤ (tries.filter (·.2 == struct)).length then s.coreLost k true else s
/-- A line of a private data cache invalidated, to be fetched afresh (R393); what is pinned there holds what its home has not, and stays. -/
def State.refetchLine (s : State) (k line : Nat) : State :=
  match (s.core k).lineOf line with
  | none => s
  | some l =>
    if l.pinned then s
    else
      let s := s.onCore k (·.dropLine line)
      if l.isU then s else s.post (.evict k line)
/-- A line of 64 bytes of an instruction cache invalidated, to be fetched afresh (R16, R393): what of it was fetched before a store is forgotten
(R42). -/
def State.refetchCode (s : State) (k line : Nat) : State := s.onCore k fun c => { c with code := c.code.filter fun w => w.1 / 64 != line }
/-- An error found at a read, single-bit or double-bit, where R393 places it; of the SRAM of a yard controller it places none (DESIGN CHOICE, log
entry 27). -/
def State.scrubAt (s : State) (loc : ErrorPlace) (double : Bool) : State :=
  match loc with
  | .hbm w => if double then s.poisonWord (s.homeOf (w / 16)) w else s
  | .l2 w =>
    let home := s.homeOf (w / 16)
    if !double then s.countCorrected (s.coreNo home)
    else match s.dirOf (w / 16) with
      | some d => if d.dirty then s.poisonWord home w else s
      | none => s
  | .scratch k off =>
    if 0x60000 ≤ off then s else if double then s.poisonWord (k % 256) (s.cellPa (k % 256) off / 8) else s.countCorrected k
  | .register k cls index row => if double then s.poisonReg k cls index row else s.countCorrected k
  | .icache k line => if double then s.refetchCode k line else s.countCorrected k
  | .niBuffer k => if double then s.coreLost k true else s.countCorrected k
  | .unretired k n => if double then s.replayBundle k n else s.countCorrected k
  | .dataCache k line => if double then s.refetchLine k line else s.countCorrected k
  | .ctc k i => if double then s.onCore k fun c => { c with ctc := c.ctc.eraseIdx i } else s.countCorrected k
  | .stc n i => match (s.pad n).stc[i]? with
    | some e => if double then s.onPad n fun p => { p with stc := p.stc.eraseIdx i } else s.countCorrected (s.coreNo e.1)
    | none => s
  | .sram d _ => if 2 ≤ d then s else if double then s.coreLost (512 + d) true else s.countCorrected (512 + d)
/-- SCRUB (R392, R393). -/
def execScrub (loc : ErrorPlace) (double : Bool) (s : State) : Result := .next (s.scrubAt loc double)
/-- CORE_LOSS (R395, R399): its NI answers the dispatcher. -/
def execCoreLoss (core : Nat) (s : State) : Result := .next (if core < 512 then s.coreLost core true else s)
/-- CORE_LOSS_NI_TIMEOUT (R399). -/
def execCoreLossNiTimeout (core : Nat) (s : State) : Result := .next (if core < 512 then s.coreLost core false else s)

/-! ### Fencing off (R401) -/

/-- A fenced core is lost: its locks pass on, its launch goes under R399, and its paddock is told; from now on its router discards what its NI
injects. A core is fenced once. -/
def State.fenceOff (s : State) (k line : Nat) : State :=
  if (s.core k).fencedAt.isSome then s
  else
    let s := (s.dropLocks k false).loseCore k line true
    (s.onCore k fun c => { c with run := .lost, available := false, fencedAt := some s.stamp }).logCore k 3 0 (line * 128)
/-- Packets between a sharer and the home of a line that a fence ends. -/
def fenced (k line : Nat) : Pkt → Bool
  | .ack c l _ => c == k && l == line
  | .update c l .. => c == k && l == line
  | .recall c l => c == k && l == line
  | .grecall c l => c == k && l == line
  | .gcopy c l .. => c == k && l == line
  | _ => false
/-- A sharer's acknowledgement is missing after both timeouts (R401): its round ends without it, or the gathered line is combined
without its copy. -/
def State.ackTimeout (s : State) (line k : Nat) : Option State :=
  match s.dirOf line with
  | none => none
  | some d =>
    let cut := { s with net := s.net.filter fun f => !fenced k line f.pkt }
    match d.round, d.st with
    | some r, _ => if r.waiting.contains k then some ((cut.ackRound k line true).fenceOff k line).settle else none
    | none, .g gs true =>
      if !gs.contains k || s.net.any (fun f => match f.pkt with | .gcopy c l _ _ => c == k && l == line | _ => false) then none
      else
        let rest := gs.filter (· != k)
        let s := (cut.onDir line fun d => { d with st := .g rest true }).onCore k (·.dropLine line)
        let s := s.logCore k 4 0 (line * 128)
        let s := if copiesIn s line rest then s.combine line rest else s
        some (s.fenceOff k line).settle
    | none, _ => none
/-- An acknowledgement that a fenced core's router discards, or of a core in reset, never comes: its home times out (R401). -/
def ackDue (s : State) : Option State :=
  let gone (k : Nat) : Bool := (s.core k).fencedAt.isSome || (decide (k < 512) && s.dies[Fin.ofNat 2 (dieOf k)] == .reset)
  s.dir.findSome? fun d => (((match d.round with | some r => r.waiting | none => match d.st with | .g gs true => gs | _ => []).filter gone).head?).bind
    (s.ackTimeout d.line)
/-- ACK_TIMEOUT (R401). -/
def execAckTimeout (line sharer : Nat) (s : State) : Result := if sharer < 512 then served s (s.ackTimeout line sharer) else .next s

/-! ### Mesh links (R400) and die-to-die modules (R402) -/

/-- A link's record changed. -/
def State.setLink (s : State) (l : MeshLink) : State :=
  { s with mesh := s.mesh.filter (fun m => !(m.cell == l.cell && m.port == l.port)) ++ [l] }
/-- The two ends of a link: the port of a router, and the port opposite of the router beyond it. -/
def linkEnds (cell port : Nat) : List (Nat × Nat) :=
  (cell, port) :: match beyond cell port with | some n => [(n, if port % 2 == 0 then port + 1 else port - 1)] | none => []
/-- A link's records at both its ends changed. -/
def State.onLink (s : State) (cell port : Nat) (f : MeshLink → MeshLink) : State :=
  (linkEnds cell port).foldl (fun (s : State) e => s.setLink (f (s.linkAt e.1 e.2))) s
/-- A link fails (R400): at both ends, and once in the log. -/
def State.failLink (s : State) (cell port : Nat) : State :=
  if isPort cell port && !(s.linkAt cell port).failed then
    (s.onLink cell port fun l => { l with failed := true }).logAt cell 6 (s.coreNo cell) port 0
  else s
/-- BEAT_REPLAY (R400): a beat that 8 replays have not delivered fails its link. -/
def execBeatReplay (cell port : Nat) (s : State) : Result :=
  let l := s.linkAt cell port
  .next (if isPort cell port && !l.failed then
      (if 8 ≤ l.replays then s.failLink cell port else s.setLink { l with replays := l.replays + 1 })
    else s)
/-- MESH_LINK_FAILURE (R400): the link loses its training. -/
def execMeshLinkFailure (cell port : Nat) (s : State) : Result := .next (s.failLink cell port)
/-- DETOUR_COMPUTED (R400). -/
def execDetourComputed (cell port : Nat) (s : State) : Result :=
  let l := s.linkAt cell port
  .next (if l.failed && !l.detour then s.onLink cell port fun l => { l with detour := true } else s)
/-- A module's state set, with its UCIE record: an event at the dies' edge (R396). -/
def State.setUcie (s : State) (m : Nat) (u : UcieState) : State :=
  let s := { s with ucie := s.ucie.set (Fin.ofNat 36 m) u }
  if (s.pad 6).active then s.logError 6 7 0 m 0 else s.logErrorAll (fun _ => true) 7 0 m 0
/-- UCIE_LANE_LOSS (R402): the first loss retrains the module at half width, one at half width disables it. -/
def execUcieLaneLoss (module : Nat) (s : State) : Result :=
  .next (if 36 ≤ module then s
    else match s.ucie[Fin.ofNat 36 module] with
      | .full => s.setUcie module .retraining
      | .half => s.setUcie module .disabled
      | _ => s)
/-- UCIE_RETRAIN_DONE (R402). -/
def execUcieRetrainDone (module : Nat) (ok : Bool) (s : State) : Result :=
  .next (if module < 36 && s.ucie[Fin.ofNat 36 module] == .retraining then
      (if ok then { s with ucie := s.ucie.set (Fin.ofNat 36 module) .half } else s.setUcie module .disabled)
    else s)

/-! ### Die warm reset (R403 to R405) -/

/-- A line of HBM that is homed on a die. -/
def homedOn (die line : Nat) : Bool := line * 128 / 2 ^ 45 % 4 == 0 && stackOf (line * 128) / 2 == die
/-- A launch has a cell on a die. -/
def Launch.onDie (s : State) (l : Launch) (die : Nat) : Bool := (l.cells s).any fun k => dieOf k == die
/-- A core on the die at its reset state; its availability stands until the self-test. -/
def Core.dieReset (c : Core) : Core := { resetCore c.id with available := c.available }
/-- What the reset does to a core: one of the die is reset; another, a yard controller among them, loses its U copies of the die's
lines, and its brand is set full. -/
def Core.seeReset (die : Nat) (c : Core) : Core :=
  if c.id < 512 && dieOf c.id == die then c.dieReset
  else { c.clean .brand with cache := c.cache.filter fun (l : CLine) => !(l.isU && homedOn die l.line), brand := fullBrand }
/-- A core of a die, or an engine of one. -/
def ofDie (die k : Nat) : Bool := decide (askingCore k < 512) && dieOf (askingCore k) == die
/-- A packet of memory traffic that a die's reset loses: what its cores sent, and what is bound for them or for its slices, but for a request, which is
refused where it arrives (R403, R404; DEDUCED, log entry 90). -/
def State.netLost (s : State) (die : Nat) (p : Pkt) : Bool :=
  let home (l : Nat) : Bool := match s.servingNode l with | some (.cell c) => dieOf c == die | _ => false
  match p with
  | .way k l => ofDie die k || home l
  | .hostWait r _ => ofDie die r.core
  | .refusal k _ => ofDie die k
  | p => match p.channel with
    | some (1, k, l) => ofDie die k || home l
    | some (_, k, _) => ofDie die k
    | none => false
/-- A lock packet that a die's reset loses: one bound for its slices or its cores. -/
def State.lockLost (s : State) (die : Nat) (p : LockPkt) : Bool :=
  if p.homeward then dieOf (s.homeOf p.line) == die else match p.toCore with | some k => ofDie die k | none => false
/-- A die's cells, slices, routers and modules at reset, with the link windows of its cells; HBM, both yard controllers and the links outside the
die are not (R403). A dump of one of its cells stops (R405), and marks of a table that is reset are gone (R166). -/
def State.resetDie (s : State) (die : Nat) : State :=
  let lo := fun (cell : Nat) => s.cellPa cell 0
  let cells := (List.range 192).filter fun k => dieOf k == die
  let inScratch (a : Nat) : Bool := cells.any fun k => decide (lo k ≤ a) && decide (a < lo k + 0x60000)
  { s with
    me := s.me.seeReset die, cores := s.cores.map (·.seeReset die),
    dir := (s.dir.filter fun d => dieOf d.home != die).map fun (d : DirLine) =>
      if (List.range 7).any fun n => setOnDie n die && (s.pad n).cmask.getLsbD d.home then { d with mark := none } else d,
    net := s.net.filter fun f => !s.netLost die f.pkt, lockNet := s.lockNet.filter fun f => !s.lockLost die f.pkt,
    ni := s.ni.filter fun f => match f.pkt.injector s with | some k => !ofDie die k | none => true,
    withdrawn := s.withdrawn.filter fun w => dieOf (s.homeOf w.line) != die, dumps := s.dumps.filter fun j => dieOf j.core != die,
    windows := if dieOf windowCell == die then Vector.replicate 8 resetWindow else s.windows,
    mem := s.mem.filter fun c => !(c.1 / 2 ^ 45 % 4 == 1 && inScratch c.1), badWords := s.badWords.filter fun w => !(w * 8 / 2 ^ 45 % 4 == 1 && inScratch (w * 8)),
    mesh := s.mesh.filter fun l => dieOf l.cell != die, ucie := Vector.replicate 36 .full, dies := s.dies.set (Fin.ofNat 2 die) .reset,
    pads := Vector.ofFn fun (i : Fin 7) => if setOnDie i.val die then resetPaddock i.val else s.pads[i] }
/-- A route crosses from die to die. -/
def crossing (line : Nat) (ends : Option (Node × Node)) : Bool :=
  match ends with | some (a, b) => dieOf (a.router line) != dieOf (b.router line) | none => false
/-- The next packet in the modules between the dies delivered. -/
def deliverCrossing (s : State) : Option State :=
  match (List.range s.net.length).findSome? fun i => (s.net[i]?).bind fun f =>
      if f.stage == .transit && (crossing f.pkt.aboutLine (f.pkt.ends s) || crossing f.pkt.aboutLine (f.pkt.dataEnds s)) then serveAt s i else none with
  | some t => some t
  | none => match (List.range s.lockNet.length).findSome? fun i => (s.lockNet[i]?).bind fun f =>
      if !f.waits && crossing f.pkt.line (f.ends s) then s.serveLockAt i else none with
    | some t => some t
    | none => (List.range s.ni.length).findSome? fun i => (s.ni[i]?).bind fun f => if crossing 0 (f.ends s) then s.serveNi i else none
/-- Every packet in the modules delivered (R404). -/
def deliverAll : Nat → State → State
  | 0, s => s
  | fuel + 1, s => match deliverCrossing s with
    | some t => deliverAll fuel t
    | none => s
/-- The Sahax Link is lost (R440): accesses in flight to the peer are refused, those of the peer are gone, and all-reduces end with LINK. -/
def State.linkDown (s : State) : State :=
  if !s.link.up then s
  else
    let away (f : InFlight) : Option MReq := match f.pkt with | .req r => if r.line / 2 ^ 40 % 2 != s.link.card then some r else none | _ => none
    let s' := { s with link := { s.link with up := false, lost := true, retraining := false, replay := [], replays := 0, buffer := [] },
                       net := s.net.filter fun f => (away f).isNone && (match f.pkt with | .req r => r.core != 1025 | _ => true),
                       areds := s.areds.map fun (a : Ared) => { a with matched := true, status := if a.status == 0 then 2 else a.status } }
    ((s.net.filterMap away).foldl (fun (s : State) r => s.refuse r (.access .linkAbsent)) s').settle
/-- A die warm reset through its fourth step (R404): its launches and every launch of the whole card are killed, packets in its modules are
delivered, its slices write back, and from now on what is bound for it is refused. The Sahax Link goes down with the die of its port, and
all-reduces end with LINK (R405, R444). -/
def State.warmReset (s : State) (die : Nat) : State :=
  let s := (s.launches.filter fun l => l.pset == 6 || l.onDie s die).foldl (fun (s : State) l => s.killLaunch l.id false) s
  let s := deliverAll 4096 s.settle
  let s := if die == 1 then s.linkDown else s
  let s := s.logErrorAll (fun _ => true) 8 0 die 0
  let s := { s with boot := { s.boot with asking := s.boot.asking.filter (·.val != die) } }
  (s.writeBackAll fun d => dieOf d.home == die).resetDie die
/-- DIE_WARM_RESET (R404). -/
def execDieWarmReset (die : Fin 2) (s : State) : Result := .next (s.warmReset die.val)
/-- DIE_READMIT (R404, R437): the self-test's outcome stands, and the driver is asked for the die's features once more. It comes once the card runs,
since no stage of start-up begins before the one before it has ended (R433). -/
def execDieReadmit (die : Fin 2) (failed : List Nat) (s : State) : Result :=
  .next (if s.dies[die] == .reset && !s.shutdown && (s.boot.stage == 6 || (s.boot.stage == 3 && s.boot.answered)) then
      let cells := (List.range 192).filter fun k => dieOf k == die.val
      let s := cells.foldl (fun (s : State) k =>
        if (s.core (s.coreNo k)).available == !failed.contains k then s
        else s.onCore (s.coreNo k) fun c => { c with available := !failed.contains k }) s
      { s with boot := { s.boot with done := false, stage := 3, asking := s.boot.asking.filter (· != die) ++ [die] } }
    else s)

end Sys2Proof.Machine
end

