-- ==== Sys2Proof/Machine/Attach.lean ====
section
/-! DEFINITION. Start-up, the host's accesses, the Sahax Link, power and ageing (21 R433 to R443). -/
namespace Sys2Proof.Machine

/-! ### Start-up (R433 to R437) -/

/-- The host's memory as a card at reset names it: the card is number 0 until its link has trained (R30, R440). -/
def hostMemory (s : State) : Memory :=
  s.mem.filterMap fun c => if c.1 / 2 ^ 45 == 4 * s.link.card + 2 then some (c.1 - s.link.card * 2 ^ 47, c.2) else none
/-- A yard controller right after reset: what its SRAM holds is the image that stage 1 verifies (log entry 10). -/
def yardAtReset (s : State) (k : Nat) : Core := { resetCore k with sram := (s.core k).sram }
/-- CARD_RESET (R433): the machine right after reset, with the boot ROM starting stage 1; the host's memory is not the card's. -/
def execCardReset (s : State) : Result :=
  .next { State.reset with mem := hostMemory s, agenda := s.agenda, lazy := s.lazy, tick := s.tick, me := yardAtReset s 512,
                           cores := if (s.core 513).sram.isEmpty then [] else [yardAtReset s 513],
                           boot := { resetBoot with stage := 1, perst := s.boot.perst, cardId := s.boot.cardId } }
/-- PERST_DEASSERT (R433). -/
def execPerstDeassert (s : State) : Result := .next { s with boot := { s.boot with perst := true } }
/-- A yard controller starts its firmware at the start of its SRAM, if the image has any (R32, R433, log entry 10). -/
def Core.startYard (c : Core) : Core :=
  if c.isYard && !c.sram.isEmpty then { c with run := .running, pc := 0, npc := 0, arrived := true, res := .retired } else c
/-- IMAGE_VERIFIED (R433): slot A, else slot B, else recovery; the yard controllers run the verified image. -/
def execImageVerified (slotA slotB : Bool) (s : State) : Result :=
  .next (if s.boot.stage != 1 then s
    else if slotA || slotB then
      { s with me := s.me.startYard, cores := s.cores.map (·.startYard),
               boot := { s.boot with stage := 2, slot := if slotA then 1 else 2, verified := true } }
    else { s with boot := { s.boot with stage := 15 } })
/-- SELF_TEST_COMPLETE (R433, R395): cells that fail are unavailable, and the feature words are published. -/
def execSelfTestComplete (failed : List Nat) (s : State) : Result :=
  .next (if s.boot.stage != 2 || !s.boot.perst then s
    else
      let s := (failed.filter (· < 192)).foldl (fun (s : State) k => s.onCore (s.coreNo k) fun c => { c with available := false }) s
      { s with boot := { s.boot with stage := 3, trained := true, featdev := 0xFF } })
/-- CONFIGURATION_REQUEST (R433): Retry Status until stage 2 has ended. -/
def execConfigurationRequest (s : State) : Result :=
  .next { s with out := s.out ++ [if s.boot.stage ≤ 2 then .crs else .configOk] }
/-- FEATACC_WRITE (R436, R437). -/
def execFeataccWrite (value : Word) (s : State) : Result := .next (s.feataccSet value.toNat)

/-- The configurations of R367. -/
def isConfiguration (c : List Nat) : Bool := c == [6] || c == [4, 5] || c == [4, 2, 3] || c == [0, 1, 5] || c == [0, 1, 2, 3]
/-- A cell lies in set n's shape (R367). -/
def inShape (n cell : Nat) : Bool :=
  let x := cell % 16
  let y := cell / 16
  if n == 6 then true else if n == 5 then 8 ≤ x else if n == 4 then x < 8
  else (if n / 2 == 0 then x < 8 else 8 ≤ x) && (if n % 2 == 0 then y < 6 else 6 ≤ y)
/-- The neighbour of a cell behind a port: 0 west, 1 east, 2 south, 3 north (y grows to the north, R9). -/
def neighbour (cell port : Nat) : Option Nat :=
  let x := cell % 16
  let y := cell / 16
  if port == 0 then (if x == 0 then none else some (cell - 1))
  else if port == 1 then (if x == 15 then none else some (cell + 1))
  else if port == 2 then (if y == 0 then none else some (cell - 16))
  else (if 11 ≤ y then none else some (cell + 16))
/-- The boundary ports of a cell of set n: those that face another set (R371). -/
def boundaryPorts (n cell : Nat) : Nat :=
  (List.range 4).foldl (fun m p => match neighbour cell p with | some k => if inShape n k then m else m + 2 ^ p | none => m) 0
/-- A set made active with its cells' tags and boundaries (R368, R370, R371, R375). -/
def State.activate (s : State) (n : Nat) : State :=
  let s := s.onPad n fun _ => { resetPaddock n with cmask := (setRow n).1, ncode := (setRow n).2.1, stackMask := (setRow n).2.2 }
  ((List.range 192).filter (inShape n)).foldl (fun (s : State) k =>
    s.onCore (s.coreNo k) fun c => { c with tag := n, paddock := n, bport := boundaryPorts n k }) s
/-- PADDOCK_ACTIVATION (R433): the sets of the configuration record become active, and the card runs. -/
def execPaddockActivation (config : List Nat) (s : State) : Result :=
  .next (if s.boot.stage == 5 && isConfiguration config then
      { config.foldl State.activate s with boot := { s.boot with stage := 6 } }
    else s)

/-! ### The host (R438) -/

/-- The bytes of a host read, once their lines can be read (R190, R196). -/
def readReady (s : State) (pa n : Nat) : Ans Nat :=
  ((linePieces pa n).foldl (fun (o : Ans Unit) p => o.bind fun s _ => s.readyAtHome (p.1 / 128)) (.ok s ())).bind fun s _ => .ok s (s.mem.readN pa n)
/-- A read through a function's BAR2, once its lines can be read: what it completes with (R404, R438). -/
def bar2Read (s : State) (vf off size : Nat) : Ans Unit :=
  if s.dies[Fin.ofNat 2 (stackOf off / 2)] == .reset then .ok { s with out := s.out ++ [.completerAbort vf off] } ()
  else (readReady s (s.link.card * 2 ^ 47 + off) size).bind fun s v => .ok { s with out := s.out ++ [.barRead vf off v] } ()
/-- An access through a virtual function's BAR2 (R438, R404): Unsupported Request outside the function's stacks, Completer Abort into a die in reset;
else it is served at the serialisation point. A read whose line has to wait completes later. -/
def bar2Access (vf off : Nat) (size : Nat) (write : Option Nat) (s : State) : Result :=
  let pa := s.link.card * 2 ^ 47 + off
  if vf == 0 || 7 < vf then .next s
  else if 0x3000000000 < off + size || !(s.pad (vf - 1)).active || !(s.pad (vf - 1)).stackMask.getLsbD (stackOf off)
      || !(s.pad (vf - 1)).stackMask.getLsbD (stackOf (off + (size - 1))) then
    .next { s with out := s.out ++ [.ur vf off] }
  else if s.dies[Fin.ofNat 2 (stackOf off / 2)] == .reset then .next { s with out := s.out ++ [.completerAbort vf off] }
  else match write with
    | some v => .next ((linePieces pa size).foldl (fun (s : State) p =>
        s.request { core := 1024, line := p.1 / 128, req := .write p.1 p.2.1 (v / 2 ^ (8 * p.2.2) % 2 ^ (8 * p.2.1)) false false }) s)
    | none => (match bar2Read s vf off size with
      | .ok s _ => .next s
      | .wait s => .next { s with hostReads := s.hostReads ++ [(vf, off, size)] }
      | .trap s _ => .next s)
/-- A waiting read tried again; none where it still waits for the same. -/
def State.retryRead (s : State) (r : Nat × Nat × Nat) : Option State :=
  match bar2Read { s with hostReads := s.hostReads.erase r } r.1 r.2.1 r.2.2 with
  | .ok t _ => some t
  | .wait t => if t.dir != s.dir || t.stamp != s.stamp then some { t with hostReads := s.hostReads } else none
  | .trap _ _ => none
/-- HOST_BAR2_ACCESS (R438, R404); a host access through a BAR0 is the same step (R368, R434). -/
def execHostBar2Access (bar : HostBar) (off : Nat) (size : Nat) (write : Option Nat) (s : State) : Result :=
  match bar with
  | .bar2 vf => bar2Access vf off size write s
  | .bar0 fn =>
    .next (if 7 < fn then s
      else match write with
        | some v => bar0Write s fn off size v
        | none => { s with out := s.out ++ [.barRead fn off (bar0Bytes s fn off size)] })

/-! ### The Sahax Link (R439, R440) -/

/-- A memory under the other card's numbers. -/
def Memory.renumber (m : Memory) : Memory := m.foldl (fun (n : Memory) c => n.write (c.1 ^^^ 2 ^ 47) c.2) []
/-- A core under the other card's number; a yard controller has none. -/
def Core.renumber (c : Core) : Core := if c.id < 512 then { c with id := c.id ^^^ 256 } else c
/-- The card becomes the other number of a pair (R30, R440): what it holds of its own memory, of its host's and of its cells stands under the
new number, and what stood there is the peer's. -/
def State.renumber (s : State) : State :=
  { s with mem := s.mem.renumber, badWords := s.badWords.map (· ^^^ 2 ^ 44), dir := s.dir.map fun (d : DirLine) => { d with line := d.line ^^^ 2 ^ 40 },
           me := s.me.renumber, cores := s.cores.foldl (fun cs c => putCore cs c.renumber) [] }
/-- SAHAX_TRAINING (R440): the lower identity is card 0, and the windows are exchanged. -/
def execSahaxTraining (peerId : Word) (s : State) : Result :=
  .next (if s.boot.stage == 4 && !s.link.up then
      let card := if s.boot.cardId < peerId then 0 else 1
      let s := if card == s.link.card then s else s.renumber
      ({ s with link := { s.link with up := true, card := card, peerId := peerId, trained := true }, boot := { s.boot with stage := 5 },
                out := s.out ++ [Out.cardId s.boot.cardId] }).sendWindows
    else s)
/-- SAHAX_TRAIN_TIMEOUT (R440): the card runs alone as card 0. -/
def execSahaxTrainTimeout (s : State) : Result :=
  .next (if s.boot.stage == 4 && !s.link.up then
      let s := if s.link.card == 0 then s else s.renumber
      { s with link := { s.link with card := 0, alone := true }, boot := { s.boot with stage := 5 } }
    else s)
/-- The lines of a peer's request: it lies within one. -/
def peerRequest (b : PeerRequest) : Option (Nat × Nat × Nat × Req) :=
  match b with
  | .none => none
  | .load pad pa _ => some (pad, pa, 0, .read true false false false)
  | .store pad pa n v => some (pad, pa, 1, .write pa n v false false)
  | .amo pad op n pa o c => some (pad, pa, 2, .amo op n pa o c false false)
/-- A peer's request delivered (R374, R440): the live table is checked again, and what passes is served at its serialisation point. What
the card answers goes out to the peer. -/
def State.deliverPeer (s : State) (b : PeerRequest) : State :=
  match peerRequest b with
  | none => s
  | some (pad, pa, kind, q) =>
    if windowPermits s.windows.toList pad pa kind then s.request { core := 1025, line := pa / 128, req := q }
    else { s with out := s.out ++ [.peerRefused (pa / 128) (some (.access .linkWindow))] }
/-- A flit acknowledged leaves the replay buffer, with what was sent before it. -/
def Link.acked (l : Link) (ack : BitVec 12) : Link :=
  let l := if l.buffer.any (·.1 == ack) then { l with buffer := (l.buffer.dropWhile (·.1 != ack)).drop 1 } else l
  if l.replay.contains ack then { l with replay := [], replays := 0 } else l
/-- SAHAX_FLIT (R439, R440): one that fails its check after correction is answered with a NAK; one out of sequence is not delivered. Whether its
CRC and its parity hold comes with it, since the spec gives neither code's polynomial. -/
def execSahaxFlit (seq ack : BitVec 12) (bad : Bool) (body : PeerRequest) (s : State) : Result :=
  .next (if !s.link.up || s.link.retraining then s
    else if bad then { s with out := s.out ++ [.nak s.link.rxSeq] }
    else if seq != s.link.rxSeq then s
    else ({ s with link := { s.link.acked ack with rxSeq := s.link.rxSeq + 1 } }).deliverPeer body)
/-- SAHAX_NAK (R440): the sender replays from that flit on, out of its buffer; the sixteenth replay of one flit retrains the link. -/
def execSahaxNak (seq : BitVec 12) (s : State) : Result :=
  .next (if !s.link.up || s.link.retraining then s
    else
      let n := if s.link.replay == [seq] then s.link.replays + 1 else 1
      if n < 16 then
        { s with link := { s.link with replay := [seq], replays := n },
                 out := s.out ++ (s.link.buffer.dropWhile (·.1 != seq)).map fun f => Out.flit f.1 f.2 }
      else { s with link := { s.link with replay := [], replays := 0, retraining := true, retrains := min (s.link.retrains + 1) 255 } })
/-- SAHAX_RETRAIN_COMPLETE (R440). -/
def execSahaxRetrainComplete (s : State) : Result :=
  .next ({ s with link := { s.link with retraining := false } }).settle
/-- SAHAX_LINK_LOSS (R440): accesses in flight are refused, and all-reduces end with LINK. -/
def execSahaxLinkLoss (s : State) : Result :=
  .next s.linkDown
/-- SAHAX_RETRAIN_ATTEMPT (R440): the link comes back only with the same peer. -/
def execSahaxRetrainAttempt (peerId : Option Word) (s : State) : Result :=
  .next (if s.link.up || !s.link.trained || s.link.alone then s
    else
      let s := { s with link := { s.link with retrains := min (s.link.retrains + 1) 255 } }
      if peerId == some s.link.peerId then ({ s with link := { s.link with up := true, rxSeq := 0, txSeq := 0, buffer := [] } }).sendWindows else s)

/-! ### Power and ageing (R441 to R443) -/

/-- The lowest clock: 700 MHz, 32 steps below 1,400. -/
def maxSteps : Nat := 32
/-- A quarter changed. -/
def State.onQuarter (s : State) (q : Fin 4) (f : Quarter → Quarter) : State := { s with quarters := s.quarters.set q (f s.quarters[q]) }
/-- One step down, and below that MMA spacing (R441). -/
def Quarter.lower (q : Quarter) : Quarter :=
  if max q.clockSteps q.ceilSteps < maxSteps then { q with clockSteps := max q.clockSteps q.ceilSteps + 1 } else { q with spacing := true }
/-- One step up again, spacing first. -/
def Quarter.raise (q : Quarter) : Quarter :=
  if q.spacing then { q with spacing := false } else { q with clockSteps := q.clockSteps - 1 }
/-- POWER_CONTROL (R441). -/
def execPowerControl (quarter : Fin 4) (overCap : Bool) (s : State) : Result :=
  .next (s.onQuarter quarter fun q => if overCap then q.lower else q.raise)
/-- PWRCTL_CAP (R441). -/
def execPwrctlCap (value : Word) (s : State) : Result := .next { s with cap := value.getLsbD 0 }
/-- THERMAL_THROTTLE (R441). -/
def execThermalThrottle (quarter : Fin 4) (s : State) : Result :=
  .next (s.onQuarter quarter fun q => if max q.clockSteps q.ceilSteps < maxSteps then q.lower else q)
/-- THERMAL_SHUTDOWN (R441): both dies are held in reset. -/
def execThermalShutdown (s : State) : Result :=
  .next { ((s.resetDie 0).resetDie 1) with
    launches := [], net := [], prefs := [], ni := [], lockNet := [], withdrawn := [], xreqs := [], ctl := [], ats := [], contribs := [], jobs := [], areds := [], dumps := [],
    shutdown := true, boot := { s.boot with stage := 15 } }
/-- The steps of 6.25 mV by which a re-plan raises a voltage: those asked for, up to the limit of the signed image, and none where the slowest
monitor keeps 40 ps (R442). -/
def raiseSteps (q : Quarter) (slack : BitVec 16) (raise : Nat) : Nat :=
  if 40 ≤ slack.toNat then 0 else min raise ((Config.voltageLimit - q.voff) / 25)
/-- AGEING_REPLAN (R442, R443): the monitors' slack is read; the voltage rises by steps of 6.25 mV, and where the limit cannot keep the slack the
ceiling falls by one step. What a step of voltage does to the slack is the silicon's, so how many it takes comes with the step. -/
def execAgeingReplan (quarter : Fin 4) (raise : BitVec 16) (limitHit : Bool) (s : State) : Result :=
  .next (s.onQuarter quarter fun q =>
    let slack := Config.monitorSlack s.tick
    let n := raiseSteps q slack raise.toNat
    { q with voff := q.voff + 25 * n, slack := slack,
             ceilSteps := if limitHit && slack.toNat < 40 && Config.voltageLimit < q.voff + 25 * n + 25 then min (q.ceilSteps + 1) maxSteps
               else q.ceilSteps }).tock

end Sys2Proof.Machine
end

