-- ==== Sys2Proof/Machine/Branch.lean ====
section
/-! DEFINITION. The branches and jumps (05 R144 to R146, 01 R17, 19 R420). -/
namespace Sys2Proof.Machine

/-- pc + 4 × an offset, modulo 2^64 (R144, R145). -/
def branchTarget {n : Nat} (s : State) (off : BitVec n) : Word := s.me.pc + (off.signExtend 64) <<< 2
/-- The counter of a conditional branch after it: 0 to 3, up when taken (R17); one that stands at 1 is not listed. -/
def trainCounter (ps : List (Nat × Nat)) (pc : Word) (taken : Bool) : List (Nat × Nat) :=
  let ix := pc.toNat / 4 % 4096
  let old := match ps.find? (·.1 == ix) with | some p => p.2 | none => 1
  let new := if taken then min 3 (old + 1) else old - 1
  let rest := ps.filter (·.1 != ix)
  if new == 1 then rest else (ix, new) :: rest
/-- A conditional branch's outcome noted by the predictor and the trace (R17, R420). -/
def State.noteBranch (s : State) (taken : Bool) : State :=
  (s.onMe fun c => { c with predict := trainCounter c.predict c.pc taken, jumps := c.jumps + 1 }).emitBranch s.me.id taken
/-- A conditional branch (R144): a target that is taken is checked in this bundle (R41). -/
def condBranch (s : State) (off : BitVec 12) (taken : Bool) : Result :=
  if taken then
    finishJump ((checkTarget s (branchTarget s off)).bind fun s a => .ok (s.noteBranch true) a)
  else finish (.ok (s.noteBranch false) ())
/-- The return stack after a jump that links gd: 8 entries, a push onto a full stack drops the oldest (R17). -/
def pushReturn (c : Core) (gd : GReg) : Core := if gd == 0 then c else { c with rstack := (c.npc :: c.rstack).take 8 }
/-- A link written: the address after the bundle (R145). -/
def linkTo (s : State) (gd : GReg) : State := (s.setG gd s.me.npc).onMe fun c => pushReturn c gd
/-- A JALR that links nothing pops the return stack (R17). -/
def popReturn (c : Core) (gd : GReg) : Core := { c with rstack := if gd == 0 then c.rstack.drop 1 else c.rstack, jumps := c.jumps + 1 }

/-- BEQ (R144). -/
def execBeq (ga gb : GReg) (off : BitVec 12) (s : State) : Result := condBranch s off (s.g ga == s.g gb)
/-- BNE (R144). -/
def execBne (ga gb : GReg) (off : BitVec 12) (s : State) : Result := condBranch s off (s.g ga != s.g gb)
/-- BLT (R144): signed. -/
def execBlt (ga gb : GReg) (off : BitVec 12) (s : State) : Result := condBranch s off ((s.g ga).slt (s.g gb))
/-- BGE (R144): signed. -/
def execBge (ga gb : GReg) (off : BitVec 12) (s : State) : Result := condBranch s off (!(s.g ga).slt (s.g gb))
/-- BLTU (R144): unsigned. -/
def execBltu (ga gb : GReg) (off : BitVec 12) (s : State) : Result := condBranch s off ((s.g ga).ult (s.g gb))
/-- BGEU (R144): unsigned. -/
def execBgeu (ga gb : GReg) (off : BitVec 12) (s : State) : Result := condBranch s off (!(s.g ga).ult (s.g gb))
/-- J (R145). -/
def execJ (off : BitVec 25) (s : State) : Result := finishJump (checkTarget s (branchTarget s off))
/-- JAL (R145). -/
def execJal (gd : GReg) (off : BitVec 20) (s : State) : Result :=
  finishJump ((checkTarget s (branchTarget s off)).bind fun s a => .ok (linkTo s gd) a)
/-- The reason of a JALR's ADDR packet: 3 where it enters the task in hand (R322), else 0 (R420, log entry 50). -/
def jumpReason (c : Core) (a : Word) : Nat :=
  match c.inHand with | some t => if sext48 (getBits t.record.toNat 2 46 * 4) == a then 3 else 0 | none => 0
/-- JALR (R145): ga is read before the link is written; the trace names the arrival (R420). -/
def execJalr (gd ga : GReg) (imm : BitVec 15) (s : State) : Result :=
  finishJump ((checkTarget s (s.g ga + (imm.signExtend 64) <<< 2)).bind fun s a => .ok (((linkTo s gd).onMe fun c => popReturn c gd).emitAddr s.me.id (jumpReason s.me a) a) a)

end Sys2Proof.Machine
end

