-- ==== Sys2Proof/Machine/MemEvents.lean ====
section
/-! DEFINITION. The memory system's steps (01 R13, R23, 07 R164 to R171, 09 R208 to R220, R224, R228, 10 R234 to R236, 12 R297, R446): each
takes one packet in flight, by its place in the list, or something that comes due. -/
namespace Sys2Proof.Machine

/-! ### Taking a packet -/

/-- A step of a packet that answers to its description, then whatever follows at once (log entry 6). -/
def servePktIf (s : State) (i : Nat) (is : Pkt → Bool) : Result :=
  served s (match s.net[i]? with
    | some f => if is f.pkt then (serveAt s i).map (·.settle) else none
    | none => none)
/-- A request's kind of place. -/
def Pkt.requestAt (s : State) (where_ : Place → Bool) (what : Req → Bool) : Pkt → Bool
  | .req r => (match s.placeOf (r.line * 128) with | .ok p => where_ p && what r.req | .error _ => false)
  | _ => false
/-- The kinds of place (R155). -/
def Place.isHome : Place → Bool | .localHbm => true | _ => false
/-- A cell's own window. -/
def Place.isCell : Place → Bool | .scratch _ => true | .control .. => true | _ => false
/-- Host memory. -/
def Place.isHost : Place → Bool | .host => true | _ => false
/-- The peer card. -/
def Place.isPeer : Place → Bool | .peerHbm => true | .peerScratch => true | .peerControl => true | _ => false

/-- HOME_READ (R171). -/
def execHomeRead (i : Nat) (s : State) : Result := servePktIf s i (Pkt.requestAt s Place.isHome fun q => match q with | .read .. => true | _ => false)
/-- STORE_ROUND (R208). -/
def execStoreRound (i : Nat) (s : State) : Result := servePktIf s i (Pkt.requestAt s Place.isHome fun q => match q with | .write .. => true | _ => false)
/-- AMO_AT_HOME (R234). -/
def execAmoAtHome (i : Nat) (s : State) : Result := servePktIf s i (Pkt.requestAt s Place.isHome fun q => match q with | .amo .. => true | _ => false)
/-- GATHER_REQUEST (R218). -/
def execGatherRequest (i : Nat) (s : State) : Result := servePktIf s i (Pkt.requestAt s Place.isHome fun q => match q with | .gather .. => true | _ => false)
/-- HBM_WRITE_COMPLETE (R241): a CLWB has been written back. -/
def execHbmWriteComplete (i : Nat) (s : State) : Result := servePktIf s i (Pkt.requestAt s Place.isHome fun q => match q with | .clwb => true | _ => false)
/-- SCRATCHPAD_PORT_ACCESS (R160). -/
def execScratchpadPortAccess (i : Nat) (s : State) : Result := servePktIf s i (Pkt.requestAt s Place.isCell fun _ => true)
/-- HOST_AGENT_REQUEST (R236). -/
def execHostAgentRequest (i : Nat) (s : State) : Result := servePktIf s i (Pkt.requestAt s Place.isHost fun _ => true)
/-- PEER_ACCESS (R169). -/
def execPeerAccess (i : Nat) (s : State) : Result := servePktIf s i (Pkt.requestAt s Place.isPeer fun _ => true)
/-- HOST_COMPLETION (R236): the completion that the host sends for this request. -/
def execHostCompletion (i : Nat) (r : HostReply) (s : State) : Result :=
  match s.net[i]? with
  | some f => (match f.pkt with
    | .hostWait .. => served s ((serveAt { s with hostReplies := r :: s.hostReplies } i).map (·.settle))
    | _ => .next s)
  | none => .next s
/-- The fill of a line in W is written, and the requests that wait for it may be served. -/
def State.fillLine (s : State) (line : Nat) : State := (s.onDir line fun d => if d.st == .w then { d with st := .n } else d).settle
/-- HBM_FILL (R165). -/
def execHbmFill (line : Nat) (s : State) : Result := .next (s.fillLine line)
/-- FILL_ARRIVAL (R209, R216). -/
def execFillArrival (i : Nat) (s : State) : Result := servePktIf s i (fun p => match p with | .fill .. => true | _ => false)
/-- UPDATE (R209, R211). -/
def execSharerUpdate (i : Nat) (s : State) : Result := servePktIf s i (fun p => match p with | .update .. => true | _ => false)
/-- UPDATE_ACKNOWLEDGEMENT (R208). -/
def execUpdateAck (i : Nat) (s : State) : Result := servePktIf s i (fun p => match p with | .ack .. => true | _ => false)
/-- COMMIT (R209). -/
def execRoundCommit (i : Nat) (s : State) : Result := servePktIf s i (fun p => match p with | .commit .. => true | _ => false)
/-- DONE (R210). -/
def execStoreDone (i : Nat) (s : State) : Result := servePktIf s i (fun p => match p with | .done .. => true | _ => false)
/-- EVICTION_NOTICE (R212). -/
def execEvictionNotice (i : Nat) (s : State) : Result := servePktIf s i (fun p => match p with | .evict .. => true | _ => false)
/-- RECALL (R213). -/
def execRecall (i : Nat) (s : State) : Result := servePktIf s i (fun p => match p with | .recall .. => true | _ => false)
/-- G_RECALL (R219). -/
def execGRecall (i : Nat) (s : State) : Result := servePktIf s i (fun p => match p with | .grecall .. => true | _ => false)
/-- GATHERED_COPY (R219). -/
def execGatheredCopy (i : Nat) (s : State) : Result := servePktIf s i (fun p => match p with | .gcopy .. => true | _ => false)
/-- WAY_REQUEST (R220). -/
def execWayRequest (i : Nat) (s : State) : Result := servePktIf s i (fun p => match p with | .way .. => true | _ => false)
/-- AMO_REPLY (R235). -/
def execAmoReply (i : Nat) (s : State) : Result := servePktIf s i (fun p => match p with | .amoReply .. => true | _ => false)
/-- POSTED_REFUSAL (R446). -/
def execPostedRefusal (i : Nat) (s : State) : Result := servePktIf s i (fun p => match p with | .refusal .. => true | _ => false)

/-! ### What comes due -/

/-- A core's own turn taken by another means: it moves, and the core that was to move comes back. -/
def State.onTurnOf (s : State) (k : Nat) (f : State → Option State) : Option State :=
  if (s.core k).run == .running then (f (s.switchTo k)).map (·.switchTo s.me.id) else none
/-- The asynchronous trap that is due at core k's bundle boundary taken, if it is of a kind (R387). -/
def State.takeDue (s : State) (k : Nat) (is : Async → Bool) : Option State :=
  s.onTurnOf k fun s => match dueAsync s.me with
    | some a => if is a then some (s.takeAsync a) else none
    | none => none
/-- MACHINE_CHECK_POSTED (R446). -/
def execMachineCheckPosted (core : Nat) (s : State) : Result := served s (s.takeDue core fun a => match a with | .posted _ => true | _ => false)
/-- MAILBOX_OVERFLOW (R397). -/
def execMailboxOverflow (core : Nat) (s : State) : Result := served s (s.takeDue core fun a => match a with | .overflow => true | _ => false)
/-- MACHINE_CHECK_FENCE_OFF (R399). -/
def execMachineCheckFenceOff (core : Nat) (s : State) : Result := served s (s.takeDue core fun a => match a with | .fenceOff .. => true | _ => false)
/-- MARK_TABLE_CLEAR (R23). -/
def execMarkTableClear (core : Nat) (s : State) : Result := .next (s.onCore core fun c => { c with marks := [] })
/-- U_LINE_AGE_EXPIRY (R216). -/
def execULineAgeExpiry (core line : Nat) (s : State) : Result :=
  .next (if (s.core core).holdsU line then s.onCore core (·.dropLine line) else s)
/-- One more frame of core k's CYC has begun. -/
def bumpAge (k : Nat) (ages : List (Nat × Nat)) : List (Nat × Nat) :=
  if ages.any (·.1 == k) then ages.map fun a => if a.1 == k then (k, a.2 + 1) else a else (k, 1) :: ages
/-- A U copy has outlived R216: its holder has begun two frames since it was installed, or another core three, by when the copy has stood
longer than 4,096 of its holder's cycles (R221, log entry 12). -/
def CLine.expired (holder : Nat) (l : CLine) : Bool := l.isU && l.ages.any fun a => (a.1 == holder && 2 ≤ a.2) || 3 ≤ a.2
/-- The U copies of a core as core k's CYC enters a new frame (R216). -/
def Core.ageLines (k : Nat) (c : Core) : Core :=
  { c with cache := (c.cache.map fun (l : CLine) => if l.isU then { l with ages := bumpAge k l.ages } else l).filter fun l => !l.expired c.id }
/-- A packet that may end in a U copy (R216). -/
def Pkt.mayInstall : Pkt → Bool
  | .req r => (match r.req with | .read .. => true | _ => false)
  | .hostWait r _ => (match r.req with | .read .. => true | _ => false)
  | .fill .. => true
  | _ => false
/-- CARRY_FRAME_SHIFT (R224): CYC enters its next frame; copies and fills of lines without tracking grow older by it (R216). -/
def execCarryFrameShift (core : Nat) (s : State) : Result :=
  let s := s.onCore core fun c => { c.shiftCarry with cycFrame := (c.cycFrame + 1) % 2 ^ 52 }
  .next { s with me := s.me.ageLines core, cores := s.cores.map (·.ageLines core),
                 net := s.net.map fun (f : InFlight) => if f.pkt.mayInstall then { f with ages := bumpAge core f.ages } else f }

/-- A line in K keeps an agent's access back (R307); its timeout does not run while the holder is debug-halted (R311). -/
def waitsOnK (s : State) (line core : Nat) : Bool :=
  match s.kOf line with
  | some (h, t, sv, _, p) => !(h.isNone && p && t.isNone) && !(h.map (·.core) == some core && !sv) && !holderInDebug s line
  | none => false
/-- A request waits for a line in K, or in a set with no eligible way (R164, R307). -/
def waitsLong (s : State) (r : MReq) : Bool :=
  match s.dirOf r.line with
  | none => 16 ≤ (setLines s (s.homeOf r.line) r.line).length && (eligible s (s.homeOf r.line) r.line).isEmpty
  | some d => d.round.isNone && waitsOnK s r.line r.core
/-- The local HBM lines that a copy or an all-reduce waits for: to mark, to read, to write. -/
def Job.waitingLines (j : Job) : List Nat := j.unmarked.take 1 ++ j.unwritten.flatMap j.sourceLines
/-- The wait of a copy engine, or of a link engine, passes the lock timeout (R229, R307): it waits on, and the holder is told. Such a wait
stands after the packets: the copies in their order, then the all-reduces. -/
def State.engineTimeout (s : State) (i : Nat) : Option State :=
  let told (lines : List Nat) (core : Nat) : Option State := (lines.find? fun l => waitsOnK s l 1028).map fun l => s.overdue l core
  match s.jobs[i]? with
  | some j => told j.waitingLines j.core
  | none => match s.areds[i - s.jobs.length]? with
    | some a => if a.matched then told a.left a.core else none
    | none => none
/-- The wait of a request passes the lock timeout (R164, R233, R258, R307): a load or an AMO faults, a prefetch is dropped, a posted
request waits on; the holder is told unless the wait was a prefetch's. CORE of what it is told is the number of the agent that waited, modulo 512,
where that is no core of the card (DESIGN CHOICE, log entry 83). -/
def State.accessTimeout (s : State) (i : Nat) : Option State :=
  match s.net[i]? with
  | none => s.engineTimeout (i - s.net.length)
  | some f => match f.pkt with
    | .req r =>
      if s.travels f || !(Place.isHome (match s.placeOf (r.line * 128) with | .ok p => p | .error _ => .host)) || !waitsLong s r then none
      else
        let s' := { s with net := s.net.eraseIdx i }
        match r.req with
        | .read _ _ true _ => some s'
        | .read .. => if r.core < 1024 then some ((s'.refuse r (.access .lockTimeout)).overdue r.line r.core) else some (s.overdue r.line r.core)
        | .amo _ _ _ _ _ _ false => some ((s'.refuse r (.access .lockTimeout)).overdue r.line r.core)
        | _ => some (s.overdue r.line r.core)
    | _ => none
/-- ACCESS_LOCK_TIMEOUT (R164, R307). -/
def execAccessLockTimeout (i : Nat) (s : State) : Result := served s ((s.accessTimeout i).map (·.settle))

/-- A packet in flight changed. -/
def State.onFlight (s : State) (i : Nat) (f : InFlight → InFlight) : State :=
  match s.net[i]? with
  | some x => { s with net := s.net.set i (f x) }
  | none => s
/-- REQUEST_PROMOTION (R228): a request that stands at a slice bank. -/
def execRequestPromotion (i : Nat) (s : State) : Result :=
  .next (s.onFlight i fun f => if Pkt.requestAt s Place.isHome (fun _ => true) f.pkt && !s.travels f then { f with promoted := true } else f)
/-- ESCAPE_CHANNEL_MOVE (R13): a packet of the data network on its way. -/
def execEscapeChannelMove (i : Nat) (s : State) : Result :=
  .next (s.onFlight i fun f => if f.stage == .transit && f.pkt.onData s then { f with escape := true } else f)
/-- SHARED_POINT_PROMOTION (R297). -/
def execSharedPointPromotion (i : Nat) (s : State) : Result := .next (s.onFlight i fun f => { f with promoted := true })

end Sys2Proof.Machine
end

