-- ==== Sys2Proof/Machine/DebugEvents.lean ====
section
/-! DEFINITION. The steps of the debug modules, the trace encoders and the record and replay logs (19 R411 to R423). -/
namespace Sys2Proof.Machine

/-- RRCTL_WRITE (R421). -/
def execRrctlWrite (pset : Nat) (value : Word) (s : State) : Result := .next (if pset < 7 then s.rrSet pset (value.toNat % 4) else s)
/-- REPLAY_DIVERGE (R423): the point serves freely from now on. -/
def execReplayDiverge (pset seg : Nat) (s : State) : Result :=
  let p := s.pad pset
  .next (if pset < 7 && p.rrMode == 2 && !(p.segOf seg).free then
      (s.onPad pset fun p => { p.setSeg { p.segOf seg with free := true } with rrDiverged := true }).settle
    else s)
/-- HALTREQ (R411). -/
def execHaltreq (core : Nat) (s : State) : Result :=
  .next (if (s.core core).run == .debugHalted then s else s.onCore core fun c => { c with dbg := { c.dbg with haltreq := true } })
/-- DEBUG_HALT (R412, R413): the halt that is due at core k's bundle boundary, if one is. -/
def execDebugHalt (core : Nat) (s : State) : Result :=
  served s (s.onTurnOf core fun s => match boundary s with
    | some t => if t.me.run == .debugHalted then some t else none
    | none => none)
/-- DEBUG_RESUME (R413). -/
def execDebugResume (core : Nat) (s : State) : Result := .next (s.debugContinue core false)
/-- DEBUG_STEP (R413). -/
def execDebugStep (core : Nat) (s : State) : Result := .next (s.debugContinue core true)

/-! ### Trace sinks (R419) -/

/-- The sink's place: local HBM of the core's paddock, or the host. -/
def sinkOk (s : State) (c : Core) (pa : Nat) : Bool :=
  match s.placeOf pa with
  | .ok .localHbm => 512 ≤ c.id || (s.pad c.paddock).stackMask.getLsbD (stackOf pa)
  | .ok .host => true
  | _ => false
/-- A sink write leaves: one of a core is on its way at a time, and TRCHEAD moves past its bytes once it has performed. -/
def State.sinkWrite (s : State) (k : Nat) (faulted : Bool) : Option State :=
  let c := s.core k
  let pa := c.trc.base.toNat + c.trc.head
  if c.trc.buf.isEmpty || c.trc.sent != 0 then none
  else if faulted || !sinkOk s c pa then some (s.sinkFault k pa)
  else
    let n := sinkRoom c
    if n == 0 then none
    else
      let v := packBits 8 ((c.trc.buf.take n).map (·.toNat))
      some ((s.onCore k fun c => { c with trc := { c.trc with sent := n } }).request
        { core := traceAgent k, line := pa / 128, req := .write pa n v false false })
/-- TRACE_SINK_WRITE (R419). -/
def execTraceSinkWrite (core : Nat) (faulted : Bool) (s : State) : Result := served s (s.sinkWrite core faulted)
/-- TRACE_OVERFLOW (R419): the count of dropped packets is sent once there is room. -/
def execTraceOverflow (core : Nat) (s : State) : Result :=
  .next (s.onCore core (·.putOverflow s.tick)).tock

end Sys2Proof.Machine
end

