-- ==== Sys2Proof/Machine/DebugInstr.lean ====
section
/-! DEFINITION. The debug and trace instructions (19 R416 to R418). -/
namespace Sys2Proof.Machine

/-- BRK (R416): it halts the core where BRKEN is set and a halt image is named, unless it is the BRK whose halt has just been
resumed (R413); otherwise it takes the DEBUG trap. It never retires. -/
def execBrk (code : BitVec 10) (s : State) : Result :=
  if s.me.dbg.brken && (haltImage s s.me.id).isSome && !(s.me.dbg.skips 5 0) then .next (s.debugHalt s.me.id 5 0)
  else finish (.trap s (debugTrap code.toNat))
/-- TRCMARK (R416, R420): with tracing on, a RETIRE packet and the MARK packet with the code and the value. -/
def execTrcmark (ga : GReg) (code : BitVec 10) (s : State) : Result :=
  let s' := s.retire
  .next (if s.me.trcBit 0 then (s'.emitRetire s.me.id).emit s.me.id (0x40 :: (bytesOf code.toNat 2 ++ bytesOf (s.g ga).toNat 8)) else s')
/-- A performance counter (R418): those that count retired happenings are the state's; those that count cycles, mispredictions or cache
misses depend on timing, and have moved on by a free amount since they were read last (log entry 7), mispredictions by no more than there were branches
and jumps to predict (R17). Cycles in debug halt are counted as a halt ends. On a yard controller counters 8 to 13 read zero. -/
def perfCounter (s : State) (n : Nat) : Word :=
  let c := s.me
  if c.isYard && decide (8 ≤ n) && decide (n ≤ 13) then 0
  else match n with
    | 0 => BitVec.ofNat 64 (c.cycFrame * 4096 + (Config.cycLow s.tick).toNat)
    | 1 => c.nBundles
    | 5 => c.nMma
    | 10 => c.nTkdone
    | 11 => c.nSteals
    | 12 => c.nFailed
    | 6 => c.timers[6] + BitVec.ofNat 64 ((Config.timedCounter s.tick 6).toNat % (c.jumps + 1))
    | 14 => c.timers[14]
    | _ => c.timers[Fin.ofNat 15 n] + (Config.timedCounter s.tick n).setWidth 64
/-- What has been read of a counter that depends on timing stays as the least of what is read later. -/
def Core.readTimer (c : Core) (n : Nat) (v : Word) : Core :=
  { c with timers := c.timers.set (Fin.ofNat 15 n) v, jumps := if n == 6 then 0 else c.jumps }
/-- PERFRD (R416, R418). -/
def execPerfrd (gd : GReg) (n : BitVec 10) (s : State) : Result :=
  if 15 ≤ n.toNat then finish (.trap s (plainTrap 1 3))
  else
    let v := perfCounter s n.toNat
    retireWith (s.onMe (·.readTimer n.toNat v)).tock gd v

end Sys2Proof.Machine
end

