-- ==== Sys2Proof/Machine/Fp.lean ====
section
/-! DEFINITION. The scalar FP32 instructions (05 R143): they read bits [31:0] of their sources and write zero above. -/
namespace Sys2Proof.Machine

/-- The FP32 value of a register's low half. -/
def fp32Of (w : Word) : Ex := floatExact .fp32 (w.toNat % 2 ^ 32)
/-- The draw of a scalar instruction under a rounding mode, and the generator after it: under SR, one step and draw [15:0] (R74). -/
def scalarDraw (rnd : Rnd) (g : GenState) : Nat × GenState := if rnd == .sr then ((takeDraws 1 g).1.headD 0, (takeDraws 1 g).2) else (0, g)
/-- A delivered result written with its flags. -/
def writeDelivered (s : State) (gd : GReg) (r : Nat × Flags) : State := (s.setG gd (BitVec.ofNat 64 r.1)).addFlags r.2
/-- An exact value rounded once to FP32 (R143). -/
def fpWith (gd : GReg) (rnd : Rnd) (x : Ex × Flags) (s : State) : Result :=
  let d := scalarDraw rnd s.me.gen
  .next (writeDelivered (s.onMe fun c => { c with gen := d.2 }) gd (deliverFp32 rnd d.1 x)).retire

/-- FADD (R143). -/
def execFadd (gd ga gb : GReg) (rnd : Rnd) (s : State) : Result := fpWith gd rnd (addExact rnd (fp32Of (s.g ga)) (fp32Of (s.g gb))) s
/-- FSUB (R143). -/
def execFsub (gd ga gb : GReg) (rnd : Rnd) (s : State) : Result := fpWith gd rnd (subExact rnd (fp32Of (s.g ga)) (fp32Of (s.g gb))) s
/-- FMUL (R143). -/
def execFmul (gd ga gb : GReg) (rnd : Rnd) (s : State) : Result := fpWith gd rnd (exMul (fp32Of (s.g ga)) (fp32Of (s.g gb))) s
/-- FMIN (R124, R143). -/
def execFmin (gd ga gb : GReg) (s : State) : Result :=
  retireWith s gd (BitVec.ofNat 64 (minPattern .fp32 ((s.g ga).toNat % 2 ^ 32) ((s.g gb).toNat % 2 ^ 32)))
/-- FMAX (R124, R143). -/
def execFmax (gd ga gb : GReg) (s : State) : Result :=
  retireWith s gd (BitVec.ofNat 64 (maxPattern .fp32 ((s.g ga).toNat % 2 ^ 32) ((s.g gb).toNat % 2 ^ 32)))
/-- FCVTIF (R143). -/
def execFcvtif (gd ga : GReg) (rnd : Rnd) (s : State) : Result := fpWith gd rnd (exOfInt (s.g ga).toInt, noFlags) s
/-- FCVTFI (R143): delivered as INT32 with sat = 1, then sign-extended. -/
def execFcvtfi (gd ga : GReg) (rnd : Rnd) (s : State) : Result :=
  let d := scalarDraw rnd s.me.gen
  let r := deliver .int32 rnd true d.1 (fp32Of (s.g ga))
  .next (writeDelivered (s.onMe fun c => { c with gen := d.2 }) gd ((BitVec.ofInt 64 (signedOf 32 r.1)).toNat, r.2)).retire
/-- FCMP (R127, R143). -/
def execFcmp (gd ga gb : GReg) (cond : Cond) (s : State) : Result :=
  retireWith s gd (if condHolds cond (fp32Of (s.g ga)) (fp32Of (s.g gb)) then 1 else 0)
/-- FFMA (R143). -/
def execFfma (gd ga gb gc : GReg) (rnd : Rnd) (s : State) : Result :=
  fpWith gd rnd (fmaExact rnd (fp32Of (s.g ga)) (fp32Of (s.g gb)) (fp32Of (s.g gc))) s

end Sys2Proof.Machine
end

