-- ==== Sys2Proof/Machine/LaunchEvents.lean ====
section
/-! DEFINITION. The dispatchers' steps and the writes of the devices' registers (00 R5, 12 R269 to R293, 16 R368 to R375, 18 R390, R397). -/
namespace Sys2Proof.Machine

/-! ### Dispatchers -/

/-- A step of a set's logic; a number that names no set does nothing. -/
def onSet (s : State) (n : Nat) (f : State → State) : Result := .next (if n < 7 then f s else s)
/-- QPORT_WRITE (R269): 8 bytes at an offset of the port. -/
def execQportWrite (pset queue off : Nat) (value : Word) (s : State) : Result :=
  .next (if barLive s pset && queue < 16 && off < 32 && off % 8 == 0 then s.qportWord pset queue off value.toNat else s)
/-- DISPATCH (R272). -/
def execDispatch (pset : Nat) (s : State) : Result := onSet s pset (·.dispatchOne pset)
/-- PREEMPTION_SAVE (R276). -/
def execPreemptionSave (core : Nat) (s : State) : Result := .next (s.saveStream core)
/-- LAUNCH_START (R275). -/
def execLaunchStart (launch : Nat) (s : State) : Result := .next (s.startLaunch launch)
/-- STREAM_RESUME (R279). -/
def execStreamResume (launch : Nat) (s : State) : Result := .next (s.resumeLaunch launch)
/-- SWEEP (R292). -/
def execSweep (launch : Nat) (s : State) : Result := .next (s.sweepLaunch launch)
/-- LAUNCH_END (R277, R293). -/
def execLaunchEnd (launch : Nat) (s : State) : Result := .next (s.launchEnds launch)

/-! ### Reconfiguration (R369, R375) -/

/-- QUIESCE. -/
def execQuiesce (pset : Nat) (s : State) : Result := onSet s pset (·.quiesceSet pset)
/-- QUIESCE_COMPLETE. -/
def execQuiesceComplete (pset : Nat) (s : State) : Result := onSet s pset (·.quiesceDone pset)
/-- QUIESCE_LIMIT. -/
def execQuiesceLimit (pset : Nat) (s : State) : Result := onSet s pset (·.quiesceFail pset)
/-- FLUSH. -/
def execFlush (pset : Nat) (s : State) : Result := onSet s pset (·.flushSet pset)
/-- A line's private copies are recalled. -/
def DirLine.flushed (d : DirLine) : Bool := d.round.isNone && (match d.st with | .n => d.sharers.isEmpty | .k .. => d.sharers.isEmpty | _ => false)
/-- The end of a flush: the dirty lines are written back, one that cannot be is reported (R384); nothing of the set's slices is left in a private
cache or in the L2, and the retention table is clear. -/
def State.flushDone (s : State) (n : Nat) : Option State :=
  let p := s.pad n
  let inSet (d : DirLine) : Bool := p.cmask.getLsbD d.home
  if !p.flushing || !((s.dir.filter inSet).all (·.flushed)) then none
  else
    let lines := (s.dir.filter inSet).map (·.line)
    let drop (c : Core) : Core := { c with cache := c.cache.filter fun (l : CLine) => !(l.st == PState.k && lines.contains l.line) }
    let s := s.writeBackAll inSet
    some ({ s with dir := s.dir.filter fun d => !inSet d, me := drop s.me, cores := s.cores.map drop }.onPad n fun p =>
      { p with flushing := false, retained := [] })
/-- FLUSH_COMPLETE. -/
def execFlushComplete (pset : Nat) (s : State) : Result := if pset < 7 then served s (s.flushDone pset) else .next s
/-- PADDOCK_RESUME. -/
def execPaddockResume (pset : Nat) (s : State) : Result := onSet s pset (·.resumeSet pset)

/-! ### Register writes -/

/-- KILL (R390). -/
def execKill (pset : Nat) (value : Word) (s : State) : Result := onSet s pset (·.killWrite pset value)
/-- PRICTL_WRITE (R368). -/
def execPrictlWrite (pset : Nat) (value : Word) (s : State) : Result := onSet s pset (·.priSet pset value.toNat)
/-- LOFTCTL_WRITE (R397). -/
def execLoftctlWrite (core : Nat) (value : Word) (s : State) : Result := .next (s.loftctlSet core value.toNat)
/-- LINK_WINDOW_WRITE (R374). -/
def execLinkWindowWrite (entry word : Nat) (value : Word) (s : State) : Result :=
  .next (if entry < 8 && word < 2 then s.windowSet entry word value.toNat else s)
/-- LINK_WINDOW_TABLE (R374): the peer's table replaces the copy. -/
def execLinkWindowTable (table : List LinkWindow) (s : State) : Result :=
  .next (if s.link.up then { s with peerWindows := Vector.ofFn fun (i : Fin 8) => table.getD i.val resetWindow } else s)
/-- REGISTER_WRITE (R5): 8 bytes written by the driver through PF 0's BAR0, by a function through its own, by a supervisor of a set or by
firmware at a physical address. What a supervisor may not reach, it faults at and writes nothing (R357, R368, R374). -/
def execRegisterWrite (by_ : Party) (pa : Nat) (value : Word) (s : State) : Result :=
  .next (match by_ with
    | .pf => if pa % 8 == 0 then pfWrite s pa value.toNat else s
    | .vf n => if n != 0 && barLive s (n - 1) && pa % 8 == 0 && pa < 0x4000 then padWrite s (n - 1) pa value.toNat false else s
    | .supervisor n => (match s.placeOf pa with
      | .ok (.control cell off) =>
        if pa % 8 == 0 && n < 7 && !controlDenied s n cell off && !absentDie s (.control cell off) (pa / 128) then
          regWrite s cell off value.toNat false else s
      | _ => s)
    | .firmware => (match s.placeOf pa with
      | .ok (.control cell off) => if pa % 8 == 0 && !absentDie s (.control cell off) (pa / 128) then regWrite s cell off value.toNat true else s
      | _ => s))

end Sys2Proof.Machine
end

