-- ==== Sys2Proof/Machine/LoadStore.lean ====
section
/-! DEFINITION. The scalar loads and stores (10 R231 to R233). -/
namespace Sys2Proof.Machine

/-- A load of n bytes from an address into gd: plain in the offset form, and an acquire with .acq, which also discards U lines at its
scope (R182, R232). -/
def loadReg (s : State) (gd : GReg) (va : Word) (n : Nat) (signed : Bool) (o : Ord) (sc : Scope) : Result :=
  finish ((loadAt s va n (o == .acq) false).bind fun s v => .ok ((s.setG gd (extendLoad signed n v)).acquireOrd o sc) ())
/-- A store of the low n bytes of a value (R231, R232). -/
def storeReg (s : State) (va : Word) (n : Nat) (v : Word) (o : Ord) (sc : Scope) : Result := finish (storeAt s va n v.toNat o sc)

/-- LDB (R231). -/
def execLdb (gd ga : GReg) (imm : BitVec 12) (s : State) : Result := loadReg s gd (offsetAddr s ga imm) 1 true .rlx .core
/-- LDBZ (R231). -/
def execLdbz (gd ga : GReg) (imm : BitVec 12) (s : State) : Result := loadReg s gd (offsetAddr s ga imm) 1 false .rlx .core
/-- LDH (R231). -/
def execLdh (gd ga : GReg) (imm : BitVec 12) (s : State) : Result := loadReg s gd (offsetAddr s ga imm) 2 true .rlx .core
/-- LDHZ (R231). -/
def execLdhz (gd ga : GReg) (imm : BitVec 12) (s : State) : Result := loadReg s gd (offsetAddr s ga imm) 2 false .rlx .core
/-- LDW (R231). -/
def execLdw (gd ga : GReg) (imm : BitVec 12) (s : State) : Result := loadReg s gd (offsetAddr s ga imm) 4 true .rlx .core
/-- LDWZ (R231). -/
def execLdwz (gd ga : GReg) (imm : BitVec 12) (s : State) : Result := loadReg s gd (offsetAddr s ga imm) 4 false .rlx .core
/-- LDD (R231). -/
def execLdd (gd ga : GReg) (imm : BitVec 12) (s : State) : Result := loadReg s gd (offsetAddr s ga imm) 8 true .rlx .core
/-- STB (R231): gd is the source. -/
def execStb (gd ga : GReg) (imm : BitVec 12) (s : State) : Result := storeReg s (offsetAddr s ga imm) 1 (s.g gd) .rlx .core
/-- STH (R231). -/
def execSth (gd ga : GReg) (imm : BitVec 12) (s : State) : Result := storeReg s (offsetAddr s ga imm) 2 (s.g gd) .rlx .core
/-- STW (R231). -/
def execStw (gd ga : GReg) (imm : BitVec 12) (s : State) : Result := storeReg s (offsetAddr s ga imm) 4 (s.g gd) .rlx .core
/-- STD (R231). -/
def execStd (gd ga : GReg) (imm : BitVec 12) (s : State) : Result := storeReg s (offsetAddr s ga imm) 8 (s.g gd) .rlx .core
/-- LDB, ordered form (R231). -/
def execLdbOrd (gd ga : GReg) (o : Ord) (sc : Scope) (s : State) : Result := loadReg s gd (s.g ga) 1 true o sc
/-- LDBZ, ordered form (R231). -/
def execLdbzOrd (gd ga : GReg) (o : Ord) (sc : Scope) (s : State) : Result := loadReg s gd (s.g ga) 1 false o sc
/-- LDH, ordered form (R231). -/
def execLdhOrd (gd ga : GReg) (o : Ord) (sc : Scope) (s : State) : Result := loadReg s gd (s.g ga) 2 true o sc
/-- LDHZ, ordered form (R231). -/
def execLdhzOrd (gd ga : GReg) (o : Ord) (sc : Scope) (s : State) : Result := loadReg s gd (s.g ga) 2 false o sc
/-- LDW, ordered form (R231). -/
def execLdwOrd (gd ga : GReg) (o : Ord) (sc : Scope) (s : State) : Result := loadReg s gd (s.g ga) 4 true o sc
/-- LDWZ, ordered form (R231). -/
def execLdwzOrd (gd ga : GReg) (o : Ord) (sc : Scope) (s : State) : Result := loadReg s gd (s.g ga) 4 false o sc
/-- LDD, ordered form (R231). -/
def execLddOrd (gd ga : GReg) (o : Ord) (sc : Scope) (s : State) : Result := loadReg s gd (s.g ga) 8 true o sc
/-- STB, ordered form (R231): gb is the source. -/
def execStbOrd (ga gb : GReg) (o : Ord) (sc : Scope) (s : State) : Result := storeReg s (s.g ga) 1 (s.g gb) o sc
/-- STH, ordered form (R231). -/
def execSthOrd (ga gb : GReg) (o : Ord) (sc : Scope) (s : State) : Result := storeReg s (s.g ga) 2 (s.g gb) o sc
/-- STW, ordered form (R231). -/
def execStwOrd (ga gb : GReg) (o : Ord) (sc : Scope) (s : State) : Result := storeReg s (s.g ga) 4 (s.g gb) o sc
/-- STD, ordered form (R231). -/
def execStdOrd (ga gb : GReg) (o : Ord) (sc : Scope) (s : State) : Result := storeReg s (s.g ga) 8 (s.g gb) o sc

end Sys2Proof.Machine
end

