-- ==== Sys2Proof/Machine/VectorOps.lean ====
section
/-! DEFINITION. The vector tile instructions (05 R119 to R135). Their results are the functions of Machine/Tile. -/
namespace Sys2Proof.Machine

/-- A tile register written. -/
def State.setT (s : State) (td : TReg) (t : Tile) : State := s.onMe fun c => { c with t := c.t.set td t }
/-- A tile result with no flag and no draw, or its operand fault (R104, R122). -/
def tileInto (td : TReg) (r : Except TileFault Tile) (s : State) : Result :=
  match r with
  | .ok t => .next (s.setT td t).retire
  | .error k => finish (.trap s (tileTrap k))
/-- A tile result with its flags and the generator after its draws, or its operand fault (R74, R93, R104, R122). -/
def tileResult (td : TReg) (r : Except TileFault (Tile × Flags × GenState)) (s : State) : Result :=
  match r with
  | .ok (t, f, g) => .next (((s.setT td t).addFlags f).onMe fun c => { c with gen := g }).retire
  | .error k => finish (.trap s (tileTrap k))
/-- A tile of the moving core. -/
def State.tile (s : State) (r : TReg) : Tile := s.me.t[r]

/-- TADD (R123). -/
def execTadd (td ta tb : TReg) (sat : Bool) (rnd : Rnd) (s : State) : Result :=
  tileResult td (vecArith addExact (s.tile ta) (s.tile tb) sat rnd s.me.gen) s
/-- TSUB (R123). -/
def execTsub (td ta tb : TReg) (sat : Bool) (rnd : Rnd) (s : State) : Result :=
  tileResult td (vecArith subExact (s.tile ta) (s.tile tb) sat rnd s.me.gen) s
/-- TMUL (R123). -/
def execTmul (td ta tb : TReg) (sat : Bool) (rnd : Rnd) (s : State) : Result :=
  tileResult td (vecArith (fun _ x y => exMul x y) (s.tile ta) (s.tile tb) sat rnd s.me.gen) s
/-- TFMA (R123). -/
def execTfma (td ta tb tc : TReg) (sat : Bool) (rnd : Rnd) (s : State) : Result :=
  tileResult td (vecFma (s.tile ta) (s.tile tb) (s.tile tc) sat rnd s.me.gen) s
/-- TMAX (R124). -/
def execTmax (td ta tb : TReg) (s : State) : Result := tileInto td (vecSelectPattern maxPattern (s.tile ta) (s.tile tb)) s
/-- TMIN (R124). -/
def execTmin (td ta tb : TReg) (s : State) : Result := tileInto td (vecSelectPattern minPattern (s.tile ta) (s.tile tb)) s
/-- TAND (R126). -/
def execTand (td ta tb : TReg) (s : State) : Result := tileInto td (vecLogic (· &&& ·) (s.tile ta) (s.tile tb)) s
/-- TOR (R126). -/
def execTor (td ta tb : TReg) (s : State) : Result := tileInto td (vecLogic (· ||| ·) (s.tile ta) (s.tile tb)) s
/-- TXOR (R126). -/
def execTxor (td ta tb : TReg) (s : State) : Result := tileInto td (vecLogic (· ^^^ ·) (s.tile ta) (s.tile tb)) s
/-- TSEL (R127). -/
def execTsel (td ta tb tc : TReg) (s : State) : Result := tileInto td (vecSel (s.tile ta) (s.tile tb) (s.tile tc)) s
/-- TCMP (R127). -/
def execTcmp (td ta tb : TReg) (cond : Cond) (s : State) : Result := tileInto td (vecCmp cond (s.tile ta) (s.tile tb)) s
/-- TSCL (R123). -/
def execTscl (td ta : TReg) (gb : GReg) (sat : Bool) (rnd : Rnd) (s : State) : Result :=
  tileResult td (vecScale (s.tile ta) (s.g gb) sat rnd s.me.gen) s
/-- TCLAMP (R125). -/
def execTclamp (td ta : TReg) (gb : GReg) (sat : Bool) (rnd : Rnd) (s : State) : Result :=
  tileResult td (vecClamp (s.tile ta) (s.g gb) sat rnd s.me.gen) s
/-- TABS (R124). -/
def execTabs (td ta : TReg) (sat : Bool) (s : State) : Result :=
  tileResult td (vecUnary fmtNumeric absExact (s.tile ta) sat .rne s.me.gen) s
/-- TNEG (R124). -/
def execTneg (td ta : TReg) (sat : Bool) (s : State) : Result :=
  tileResult td (vecUnary fmtNumeric negExact (s.tile ta) sat .rne s.me.gen) s
/-- TEXP2 (R87, R128). -/
def execTexp2 (td ta : TReg) (sat : Bool) (rnd : Rnd) (s : State) : Result :=
  tileResult td (vecUnary fmtFloat exp2Exact (s.tile ta) sat rnd s.me.gen) s
/-- TLOG2 (R87, R128). -/
def execTlog2 (td ta : TReg) (sat : Bool) (rnd : Rnd) (s : State) : Result :=
  tileResult td (vecUnary fmtFloat log2Exact (s.tile ta) sat rnd s.me.gen) s
/-- TRCP (R87, R128). -/
def execTrcp (td ta : TReg) (sat : Bool) (rnd : Rnd) (s : State) : Result :=
  tileResult td (vecUnary fmtFloat rcpExact (s.tile ta) sat rnd s.me.gen) s
/-- TRSQ (R87, R128). -/
def execTrsq (td ta : TReg) (sat : Bool) (rnd : Rnd) (s : State) : Result :=
  tileResult td (vecUnary fmtFloat rsqrtExact (s.tile ta) sat rnd s.me.gen) s
/-- TSQRT (R87, R128). -/
def execTsqrt (td ta : TReg) (sat : Bool) (rnd : Rnd) (s : State) : Result :=
  tileResult td (vecUnary fmtFloat sqrtExact (s.tile ta) sat rnd s.me.gen) s
/-- TCVT (R129). -/
def execTcvt (td ta : TReg) (part : Fin 4) (fmt : Fmt) (sat : Bool) (rnd : Rnd) (s : State) : Result :=
  tileResult td (vecConvert (s.tile ta) fmt part.val sat rnd s.me.gen) s
/-- TQNT (R130): the codes saturate by R79 and R80 whatever sat holds. -/
def execTqnt (td ta : TReg) (blk : Fin 8) (ty : Q4Type) (_sat : Bool) (rnd : Rnd) (s : State) : Result :=
  tileResult td (vecQuant (s.tile td) (s.tile ta) blk.val ty rnd s.me.gen) s
/-- TRED (R131). -/
def execTred (td ta : TReg) (op : RedOp) (col sat : Bool) (rnd : Rnd) (s : State) : Result :=
  tileResult td (vecReduce op col (s.tile ta) sat rnd s.me.gen) s
/-- TBC (R132). -/
def execTbc (td ta : TReg) (gb : GReg) (mode : TbcMode) (s : State) : Result := tileInto td (vecBroadcast mode (s.tile ta) (s.g gb)) s
/-- TTR (R133). -/
def execTtr (td ta : TReg) (s : State) : Result := tileInto td (vecTranspose (s.tile ta)) s
/-- TIOTA (R134). -/
def execTiota (td ta : TReg) (gb : GReg) (sat : Bool) (rnd : Rnd) (s : State) : Result :=
  tileResult td (vecIota (s.tile ta) (s.g gb) sat rnd s.me.gen) s
/-- TRND (R135). -/
def execTrnd (td ta : TReg) (gb : GReg) (mode : TrndMode) (sat : Bool) (rnd : Rnd) (s : State) : Result :=
  tileResult td (vecRandom mode (s.tile ta) (s.g gb) sat rnd s.me.gen) s

end Sys2Proof.Machine
end

