-- ==== Sys2Proof/Machine/MatrixOps.lean ====
section
/-! DEFINITION. The matrix engine's instructions (04 R112, R114 to R116) and the X-form no-operation (05 R147). -/
namespace Sys2Proof.Machine

/-- An accumulator written. -/
def State.setA (s : State) (r : AReg) (a : Acc) : State := s.onMe fun c => { c with a := c.a.set r a }
/-- A histogram bank written. -/
def State.setH (s : State) (r : AReg) (h : Bank) : State := s.onMe fun c => { c with h := c.h.set r h }
/-- MMA or MMAZ (R114): it counts as retired (R418). -/
def matrixWith (zero : Bool) (a : AReg) (t w : TReg) (q : Fin 4) (s : State) : Result :=
  match matrixStep zero s.me.a[a] (s.tile t) s.me.w[w] q.val with
  | .ok (r, f) => .next (((s.setA a r).addFlags f).onMe fun c => { c with nMma := c.nMma + 1 }).retire
  | .error k => finish (.trap s (tileTrap k))
/-- MMA (R114). -/
def execMma (a : AReg) (t w : TReg) (q : Fin 4) (s : State) : Result := matrixWith false a t w q s
/-- MMAZ (R114). -/
def execMmaz (a : AReg) (t w : TReg) (q : Fin 4) (s : State) : Result := matrixWith true a t w q s
/-- ACCZ (R112). -/
def execAccz (a : AReg) (mode : AccMode) (s : State) : Result := .next (s.setA a { data := 0, mode := mode }).retire
/-- The scale of a DRAIN (R115): exactly 1 for g0. -/
def drainScale (s : State) (gs : GReg) : Ex := if gs == 0 then exOfInt 1 else floatExact .fp32 ((s.g gs).toNat % 2 ^ 32)
/-- DRAIN (R115): with he, every delivered element is counted into bank h (R86). -/
def execDrain (a : AReg) (t : TReg) (gs : GReg) (q : Fin 4) (h : AReg) (he sat : Bool) (rnd : Rnd) (s : State) : Result :=
  match drainTile s.me.a[a] (s.tile t) (drainScale s gs) q.val sat rnd s.me.gen with
  | .ok (r, f, g) =>
    let s' := ((s.setT t r).addFlags f).onMe fun c => { c with gen := g }
    .next (if he then s'.setH h (bankAfter s.me.h[h] r) else s').retire
  | .error k => finish (.trap s (tileTrap k))
/-- HSTRD (R116). -/
def execHstrd (t : TReg) (h : AReg) (s : State) : Result := .next (s.setT t (bankTile s.me.h[h])).retire
/-- HSTCLR (R116). -/
def execHstclr (h : AReg) (s : State) : Result := .next (s.setH h 0).retire
/-- XNOP (R147). -/
def execXnop (s : State) : Result := .next s.retire

end Sys2Proof.Machine
end

