-- ==== Sys2Proof/Machine/Msg.lean ====
section
/-! DEFINITION. The mailbox instructions (10 R245 to R250). -/
namespace Sys2Proof.Machine

/-- The message fault, kind TARGET (R246, R385). -/
def targetTrap : Trap := plainTrap 0x0A 1
/-- The launch-relative cell that 8 bits name, if it lies in the launch of the moving core (R246). -/
def launchTarget (s : State) (v : Nat) : Option (Nat × Nat × Nat) :=
  match s.launchOfCore s.me.id with
  | none => none
  | some l => if v % 16 < l.width && v / 16 < l.height then some (l.id, v % 16, v / 16) else none
/-- The target of a send: g[ga] with bits [63:8] zero. -/
def sendTarget (s : State) (ga : GReg) : Ans (Nat × Nat × Nat) :=
  match (if (s.g ga).toNat < 256 then launchTarget s (s.g ga).toNat else none) with
  | some t => .ok s t
  | none => .trap s targetTrap
/-- A packet of the moving core leaves: it counts until it has performed at its receiver (R176, R246). -/
def State.sendCounted (s : State) (p : NiPkt) : State := (s.onMe fun c => { c with others := c.others + 1 }).sendNi p
/-- SEND (R246): relaxed. -/
def execSend (ga gb : GReg) (m : MReg) (s : State) : Result :=
  finish ((sendTarget s ga).bind fun s t => (roomForStore s 1).bind fun s _ =>
    .ok (s.sendCounted (.msg t.1 t.2.1 t.2.2 (some s.me.id)
      { slot := m.val, value := s.g gb, sender := s.me.id, scope := .core, brand := none } false)) ())
/-- SENDB (R246): a branded release of its scope (R183, R224). -/
def execSendb (ga gb : GReg) (m : MReg) (sc : Scope) (s : State) : Result :=
  finish ((sendTarget s ga).bind fun s t => (awaitRelease s).bind fun s _ => (roomForStore s 1).bind fun s _ =>
    .ok ((s.onMe (·.releaseBrand)).sendCounted (.msg t.1 t.2.1 t.2.2 (some s.me.id)
      { slot := m.val, value := s.g gb, sender := s.me.id, scope := sc, brand := some s.me.writtenBrand } false)) ())

/-- The value of slot m taken (R250): presence falls, a branded message is applied, and the slot refills (R247). -/
def State.takeSlot (s : State) (m : MReg) (gd : GReg) : State :=
  let x := s.me.mbox[m]
  let s := (s.setG gd x.value).onMe fun c => { c with mbox := c.mbox.set m { x with present := false } }
  ((s.applyBranded x.scope x.brand).niSettle s.me.id).settleNi
/-- RECV (R250): it waits while the slot is empty. -/
def execRecv (gd : GReg) (m : MReg) (s : State) : Result :=
  if (s.me.mbox[m]).present then finish (.ok (s.takeSlot m gd) ()) else finish (.wait s)
/-- RECVANY (R250): the lowest present slot of the mask g[ga][31:0]; an empty mask answers at once. -/
def execRecvany (gd ga gb : GReg) (s : State) : Result :=
  let mask := (s.g ga).toNat % 2 ^ 32
  if mask == 0 then finish (.ok ((s.setG gd 0).setG gb (BitVec.allOnes 64)) ())
  else match lowestSlot s.me mask with
    | some m => finish (.ok ((s.takeSlot m gd).setG gb (BitVec.ofNat 64 m.val)) ())
    | none => finish (.wait s)
/-- PEEK (R250). -/
def execPeek (gd gb : GReg) (m : MReg) (s : State) : Result :=
  let x := s.me.mbox[m]
  finish (.ok ((s.setG gd (if x.present then x.value else 0)).setG gb (if x.present then 1 else 0)) ())

end Sys2Proof.Machine
end

