-- ==== Sys2Proof/Machine/NiEvents.lean ====
section
/-! DEFINITION. The steps of the network interfaces (10 R247 to R249, 12 R279, R282 to R288) and of locks (13 R306 to R313): each takes one
packet by its place in its list, or a wait that has run out. -/
namespace Sys2Proof.Machine

/-! ### Messages, tasks, thefts and groups -/

/-- An NI packet taken if it answers to its description, then what follows at once (log entry 6). -/
def serveNiIf (s : State) (i : Nat) (is : NiPkt → Bool) : Result :=
  served s (match s.ni[i]? with
    | some f => if is f.pkt then (s.serveNi i).map fun t => t.settleNi.settle else none
    | none => none)
/-- MESSAGE_ARRIVAL (R247). -/
def execMessageArrival (i : Nat) (s : State) : Result := serveNiIf s i (fun p => match p with | .msg _ _ _ _ _ refused => !refused | _ => false)
/-- TASK_ARRIVAL (R285). -/
def execTaskArrival (i : Nat) (s : State) : Result := serveNiIf s i (fun p => match p with | .task _ _ _ _ _ refused => !refused | _ => false)
/-- SEND_RETRY (R249). -/
def execSendRetry (i : Nat) (s : State) : Result :=
  serveNiIf s i (fun p => match p with | .msg _ _ _ _ _ refused => refused | .task _ _ _ _ _ refused => refused | _ => false)
/-- The stream of a launch at a cell is saved, or its save is under way. -/
def streamSaved (s : State) (launch rx ry : Nat) : Bool :=
  match (s.launchOf launch).bind fun l => l.stream rx ry with
  | some t => t.inFrame || t.leaving
  | none => false
/-- LATE_RING_APPEND (R279). -/
def execLateRingAppend (i : Nat) (s : State) : Result :=
  serveNiIf s i (fun p => match p with
    | .msg l x y _ _ _ => streamSaved s l x y
    | .task l x y _ _ _ => streamSaved s l x y
    | _ => false)
/-- STEAL_REQUEST (R287). -/
def execStealRequest (i : Nat) (s : State) : Result := serveNiIf s i (fun p => match p with | .steal .. => true | _ => false)
/-- STEAL_REPLY (R287). -/
def execStealReply (i : Nat) (s : State) : Result := serveNiIf s i (fun p => match p with | .stealReply .. => true | _ => false)
/-- TASK_COMPLETION_REPORT (R288). -/
def execTaskCompletionReport (i : Nat) (s : State) : Result := serveNiIf s i (fun p => match p with | .report .. => true | _ => false)
/-- EPISODE_CONTRIBUTION (R282). -/
def execEpisodeContribution (i : Nat) (s : State) : Result := serveNiIf s i (fun p => match p with | .contrib .. => true | _ => false)
/-- LOFT_MOVE (R247). -/
def execLoftMove (core : Nat) (task : Bool) (s : State) : Result := served s (loftMoveOne s core task)

/-! ### Locks -/

/-- A lock packet taken if it answers to its description, then what follows at once. -/
def serveLockIf (s : State) (i : Nat) (is : LockPkt → Bool) : Result :=
  served s (match s.lockNet[i]? with
    | some f => if is f.pkt then (s.serveLockAt i).map fun t => t.settle.settleLocks else none
    | none => none)
/-- LOCK_REQUEST (R306). -/
def execLockRequest (i : Nat) (s : State) : Result := serveLockIf s i (fun p => match p with | .lock .. => true | _ => false)
/-- LINK (R306); one that no NI entry awaited arrives at its home the same way (R308, R310). -/
def execLockLink (i : Nat) (s : State) : Result := serveLockIf s i (fun p => match p with | .link .. => true | .linkBack .. => true | _ => false)
/-- HANDOFF (R306); the answer BUSY to a try travels the same way. -/
def execHandoff (i : Nat) (s : State) : Result := serveLockIf s i (fun p => match p with | .handoff .. => true | .busy .. => true | _ => false)
/-- MOVED (R306). -/
def execLockMoved (i : Nat) (s : State) : Result := serveLockIf s i (fun p => match p with | .moved .. => true | _ => false)
/-- FREE (R306); a forced release arrives the same way (R311). -/
def execLockFree (i : Nat) (s : State) : Result := serveLockIf s i (fun p => match p with | .free .. => true | .force .. => true | _ => false)
/-- FREED (R306). -/
def execLockFreed (i : Nat) (s : State) : Result := serveLockIf s i (fun p => match p with | .freed .. => true | _ => false)
/-- WITHDRAW (R308). -/
def execWithdraw (i : Nat) (s : State) : Result := serveLockIf s i (fun p => match p with | .withdraw .. => true | _ => false)
/-- PASS (R308). -/
def execLockPass (i : Nat) (s : State) : Result := serveLockIf s i (fun p => match p with | .pass .. => true | _ => false)
/-- LOCK_SAVED (R310). -/
def execLockSaved (i : Nat) (s : State) : Result := serveLockIf s i (fun p => match p with | .saved .. => true | _ => false)
/-- LOCK_RESUME (R310). -/
def execLockResume (i : Nat) (s : State) : Result := serveLockIf s i (fun p => match p with | .resume .. => true | _ => false)
/-- PROBE (R313). -/
def execProbe (i : Nat) (s : State) : Result := serveLockIf s i (fun p => match p with | .probe .. => true | _ => false)
/-- A refused WITHDRAW sent again (R308): a request that still waits withdraws as before, with the status of its cause; one that has been
granted meanwhile, or has gone, needs none. -/
def State.retryWithdraw (s : State) (i : Nat) : Option State :=
  match s.lockNet[i]? with
  | none => none
  | some f => match f.pkt with
    | .withdrawRefused w line status =>
      let s' := { s with lockNet := s.lockNet.eraseIdx i }
      if 32 ≤ withdrawnCount s line then none
      else match (s.core w.core).entryOf line w.num with
        | some e => if e.waits then some (s'.withdrawLock w.core line status) else some s'
        | none => some s'
    | _ => none
/-- WITHDRAW_RETRY (R308). -/
def execWithdrawRetry (i : Nat) (s : State) : Result := served s (s.retryWithdraw i)
/-- A waiting request of core k for a line passes the lock timeout (R309): the holder is told, and the request withdraws with
TIMEOUT. A try waits for no holder (R314), and no timeout runs against a debug-halted one (R311). -/
def State.lockTimeout (s : State) (k line : Nat) : Option State :=
  match (s.core k).lockOf line with
  | some e => if e.waits && !e.try_ && !holderInDebug s line then some ((s.overdue line k).withdrawLock k line (some (4, 0))) else none
  | none => none
/-- LOCK_WAIT_TIMEOUT (R309). -/
def execLockWaitTimeout (core line : Nat) (s : State) : Result := served s (s.lockTimeout core line)
/-- PROBE_TIMER (R312): a waiting request probes; a try never does (R314). -/
def execProbeTimer (core line : Nat) (s : State) : Result :=
  served s (match (s.core core).lockOf line with
    | some e => if e.waits && !e.try_ then some ((s.postLock (some core) (.probe (e.who core) line line [])).settleLocks) else none
    | none => none)

end Sys2Proof.Machine
end

