-- ==== Sys2Proof/Machine/Ctl.lean ====
section
/-! DEFINITION. Requests to a paddock's logic: retention at the retention master, LNCH at the dispatcher, removals of translations at
cores and slices (10 R243, R244, 14 R326, 16 R360). -/
namespace Sys2Proof.Machine

/-- The place under which a request to the paddock's logic stands in `pend`: beyond every address, so that no AMO's is taken for it. -/
def ctlMark : Nat := 2 ^ 48
/-- The reply to the core whose request it was, if it still waits. -/
def State.replyTo (s : State) (core : Nat) (v : Int) : State :=
  s.onCore core fun c => { c with pend := match c.pend with | .sent _ => .reply ctlMark (BitVec.ofInt 64 v) | p => p }
/-- A retention entry applied at the master (R243): a status, and the new entry on success. Two ranges overlap, the WAYS sum, then
FULL. -/
def retainStatus (es : List (Nat × RetEntry)) (base limit ways : Nat) : Int :=
  if es.any fun e => decide (base < e.2.limit) && decide (e.2.base < limit) then -3
  else if 8 < es.foldl (fun n e => n + e.2.ways) ways then -2
  else match (List.range 8).find? fun n => !(es.any (·.1 == n)) with
    | some n => n
    | none => -1
/-- A RETAIN served (R243). -/
def State.serveRetain (s : State) (core asid base limit ways : Nat) : State :=
  let n := (s.core core).paddock
  let st := retainStatus (s.pad n).retained base limit ways
  let s := if 0 ≤ st then
      s.onPad n fun p => { p with retained := p.retained ++ [(st.toNat, { asid := asid, base := base, limit := limit, ways := ways })] } else s
  s.replyTo core st
/-- An UNPIN served (R244, R166): the marks of the entry are lifted. -/
def State.serveUnpin (s : State) (core asid i : Nat) (user : Bool) : State :=
  let n := (s.core core).paddock
  if 7 ≤ n then s.replyTo core (-6)
  else match (s.pad n).retained.find? (·.1 == i) with
  | none => s.replyTo core (-6)
  | some (_, e) =>
    if user && e.asid != asid then s.replyTo core (-5)
    else
      let s := s.onPad n fun p => { p with retained := p.retained.filter (·.1 != i) }
      let s := { s with dir := s.dir.map fun (d : DirLine) =>
        if d.mark == some i && (match s.owner (d.line * 128) with | some p => p.num == n | none => false) then { d with mark := none } else d }
      s.replyTo core 0
/-- An LNCH served by the dispatcher (R326). -/
def State.serveLnch (s : State) (core pset queue : Nat) (r : LaunchRec) : State :=
  let c := s.core core
  if 16 ≤ queue || 7 ≤ pset then s.replyTo core (-3)
  else
    let p := s.pad pset
    let pri := match s.launchOfCore core with | some l => recPri l.record | none => 3
    if p.st != .run then s.replyTo core (-4)
    else if !p.active then s.replyTo core (-3)
    else if c.level == 0 && (recField r 48 16 != c.asid || decide (recPri r < pri)) then s.replyTo core (-2)
    else if 64 ≤ (p.queues[Fin.ofNat 16 queue]).recs.length then s.replyTo core (-1)
    else
      let seq := (p.queues[Fin.ofNat 16 queue]).nextSeq
      (s.enqueue pset queue r).replyTo core seq.toNat

/-! ### Removals (R360, R361) -/

/-- The removal takes a page's translation (R360). -/
def XSel.takes (sel : XSel) (asid va size : Nat) : Bool :=
  match sel with
  | .range a lo hi => asid == a && decide (va < hi) && decide (lo < va + size)
  | .asid a => asid == a
  | .all => true
/-- An access of core k through a translation that the removal takes has not performed (R360): a store, an AMO on its way, or an instruction past its trap
horizon, a waiting RECVT among them (DESIGN CHOICE, log entry 69). -/
def heldXlat (s : State) (k : Nat) (sel : XSel) : Bool :=
  let c := s.core k
  c.storePages.any (fun x => sel.takes x.2.1 x.2.2.1 x.2.2.2)
    || c.kept.any fun p => match p.page with | some (va, size) => sel.takes c.asid va size | none => false
/-- The removal names a translation that waits for the host (R360, R363). -/
def XSel.hitsWait (sel : XSel) (a : AtsWait) : Bool :=
  match sel with
  | .range x lo hi => a.asid == x && decide (a.va < hi) && decide (lo < a.va + 4096)
  | .asid x => a.asid == x
  | .all => true
/-- The removal at core k: its matching entries go (R360). -/
def removeAtCore (s : State) (k : Nat) (sel : XSel) : State := s.onCore k fun c => { c with ctc := c.ctc.filter fun x => !sel.hits x }
/-- The removal at the slices of set n: STCs and ASID caches, and open page requests lose their waiters, who ask afresh. What the host
still answers for a request that no access waits for fills no cache. -/
def removeAtSlices (s : State) (n : Nat) (sel : XSel) : State :=
  let s := { s with ats := s.ats.map fun (a : AtsWait) => if a.pset == n && sel.hitsWait a then { a with core := if a.stage == 1 then 1024 else 1025 } else a }
  s.onPad n fun p =>
    { p with stc := p.stc.filter fun e => !sel.hits e.2.2,
             asidCache := match sel with
               | .range .. => p.asidCache
               | .asid a => p.asidCache.filter (·.2.1 != a)
               | .all => [] }
/-- A removal served where it arrives, and acknowledged; none while an access or an engine still uses a removed translation. The slices take it before
the cores, so that no core finds there what it has just removed (R361). -/
def serveRemoval (s : State) (core n : Nat) (sel : XSel) (target : Nat) : Option State :=
  if target == 1027 then
    if s.ats.any fun a => a.pset == n && a.stage != 1 && sel.hitsWait a && a.core < 1024 then none else some (removeAtSlices s n sel)
  else if s.ctl.contains (.removal core n sel 1027) || heldXlat s target sel || engineUses s n sel then none
  else some (removeAtCore s target sel)
/-- The request at index i served; none if it cannot be yet. -/
def State.serveCtl (s : State) (i : Nat) : Option State :=
  match s.ctl[i]? with
  | none => none
  | some r =>
    let s' := { s with ctl := s.ctl.eraseIdx i }
    match r with
    | .removal core n sel target => serveRemoval s' core n sel target
    | .retain core asid base limit ways => some (s'.serveRetain core asid base limit ways)
    | .unpin core asid n user => some (s'.serveUnpin core asid n user)
    | .lnch core pset queue r => some (s'.serveLnch core pset queue r)
/-- The first request from index i on that can be served. -/
def serveCtlFirst (s : State) : Nat → Nat → Option State
  | 0, _ => none
  | fuel + 1, i => match s.serveCtl i with
    | some s' => some s'
    | none => serveCtlFirst s fuel (i + 1)
/-- Requests served until none can be. -/
def settleCtlLoop : Nat → State → State
  | 0, s => s
  | fuel + 1, s => match serveCtlFirst s s.ctl.length 0 with
    | some s' => settleCtlLoop fuel s'
    | none => s
/-- Requests served at once, unless requests travel (log entry 6). -/
def State.settleCtl (s : State) : State := if s.lazy then s else settleCtlLoop (s.ctl.length + 1) s
/-- A request of the moving core sent to its paddock's logic; its answer is awaited. -/
def State.askCtl (s : State) (r : CtlReq) (mark : Nat := ctlMark) : State := ({ s with ctl := s.ctl ++ [r], me := { s.me with pend := .sent mark } }).settleCtl
/-- The answer that has come, as the instruction's result. -/
def ctlReply (s : State) : Ans Word :=
  match s.me.pend with
  | .reply _ v => .ok s v
  | _ => .wait s

end Sys2Proof.Machine
end

