-- ==== Sys2Proof/Machine/Prog.lean ====
section
/-! DEFINITION. The task, launch, group and lock instructions (14 R317 to R333, 18 R398). -/
namespace Sys2Proof.Machine

/-- An instruction that needs a launch (R318): on a yard controller it takes NO-LAUNCH. -/
def needLaunch (s : State) (k : Launch → Ans Unit) : Result :=
  match s.launchOfCore s.me.id with
  | none => finish (.trap s (progressTrap 1))
  | some l => finish (k l)

/-! ### Groups (R319) -/

/-- The group of a code that holds the moving core's stream. -/
def groupOf (c : Core) (lgw : BitVec 3) (lgh : BitVec 2) : Group :=
  { gw := 2 ^ lgw.toNat, gh := 2 ^ lgh.toNat, gx := c.rx / 2 ^ lgw.toNat * 2 ^ lgw.toNat, gy := c.ry / 2 ^ lgh.toNat * 2 ^ lgh.toNat }
/-- The group of an instruction, no wider or higher than its launch. -/
def checkGroup (s : State) (l : Launch) (lgw : BitVec 3) (lgh : BitVec 2) : Ans Group :=
  if l.width < 2 ^ lgw.toNat || l.height < 2 ^ lgh.toNat then .trap s (progressTrap 3) else .ok s (groupOf s.me lgw lgh)

/-! ### TKADD and TKADDB (R320) -/

/-- The task that three registers name (R284, R320): a, the entry and flags; b, A1:A0; d, A3:A2. -/
def buildTask (s : State) (a b d : Word) (sc : Scope) (brand : Option (BitVec 960)) : Task :=
  { record := BitVec.ofNat 256
      (a.toNat % 2 ^ 48 + b.toNat * 2 ^ 64 + d.toNat * 2 ^ 128 + s.me.id % 512 * 2 ^ 236),
    restarted := false, snapLen := 0, snap := 0, scope := sc, brand := brand, owner := 0, seq := 0 }
/-- The target and the entry of a task checked (R318, R320). -/
def taskTarget (s : State) (a : Word) : Ans (Nat × Nat × Nat) :=
  match (if a.toNat / 2 ^ 56 == 0 then launchTarget s (a.toNat / 2 ^ 48 % 256) else none) with
  | none => .trap s targetTrap
  | some t => if a.toNat / 4 % 2 ^ 46 == 0 then .trap s (progressTrap 2) else .ok s t
/-- A task leaves for its queue; the sender's count S goes up (R292). -/
def State.sendTask (s : State) (t : Nat × Nat × Nat) (x : Task) : State :=
  (s.onMe fun c => { c with sent := c.sent + 1 }).sendCounted (.task t.1 t.2.1 t.2.2 (some s.me.id) x false)
/-- TKADD (R320): relaxed. -/
def execTkadd (gd ga gb : GReg) (s : State) : Result :=
  needLaunch s fun _ => (taskTarget s (s.g ga)).bind fun s t => (roomForStore s 1).bind fun s _ =>
    .ok (s.sendTask t (buildTask s (s.g ga) (s.g gb) (s.g gd) .core none)) ()
/-- TKADDB (R320): a branded release of its scope (R183, R224). -/
def execTkaddb (gd ga gb : GReg) (sc : Scope) (s : State) : Result :=
  needLaunch s fun _ => (taskTarget s (s.g ga)).bind fun s t => (awaitRelease s).bind fun s _ => (roomForStore s 1).bind fun s _ =>
    .ok ((s.onMe (·.releaseBrand)).sendTask t (buildTask s (s.g ga) (s.g gb) (s.g gd) sc (some s.me.writtenBrand))) ()

/-! ### Restart records (R398) -/

/-- REST of a task. -/
def Task.rest (t : Task) : Bool := bitAt t.record.toNat 1
/-- A restart record is kept for a task of the moving core: REST, in a launch with RESTART. -/
def keepsRestart (s : State) (t : Task) : Bool :=
  t.rest && (match s.launchOfCore s.me.id with | some l => recField l.record 181 1 == 1 | none => false)
/-- Where the restart record of the moving core's stream lies: offset 0xA_0000 of its frame, while that page is mapped (R398, log
entry 26). -/
def restartPlace (s : State) : Option Nat :=
  match s.launchOfCore s.me.id with
  | some l => framePa s l (l.frame s.me.rx s.me.ry + 0xA0000)
  | none => none
/-- n bytes of the restart record written from an offset, counting in the store counter (R398). -/
def State.writeRestart (s : State) (off n v : Nat) : State :=
  match restartPlace s with
  | none => s
  | some pa => (linePieces (pa + off) n).foldl (fun (s : State) p =>
      (s.onMe fun c => { c with undone := c.undone ++ [p.1 / 128] }).request
        { core := s.me.id, line := p.1 / 128, req := .write p.1 p.2.1 (v / 2 ^ (8 * p.2.2) % 2 ^ (8 * p.2.1)) false false }) s
/-- The restart word of a live record. -/
def Task.liveWord (t : Task) : Nat := t.restarted.toNat * 2 ^ 63 + 2 ^ 62 + t.snapLen
/-- The record of a task taken written whole. -/
def State.openRestart (s : State) (t : Task) : State :=
  if keepsRestart s t then s.writeRestart 0 (40 + t.snapLen) (t.landing + 2 ^ (256 + 62)) else s
/-- The restart word and the snapshot rewritten. -/
def State.snapRestart (s : State) (t : Task) : State := s.writeRestart 32 (8 + t.snapLen) (t.liveWord + t.snap.toNat * 2 ^ 64)
/-- Bit 62 cleared at the task's end. -/
def State.closeRestart (s : State) (t : Task) : State :=
  if keepsRestart s t then s.writeRestart 32 8 (t.restarted.toNat * 2 ^ 63 + t.snapLen) else s

/-! ### RECVT (R321, R322, R287) -/

/-- The pieces of the first n bytes. -/
def cutPieces (n : Nat) (ps : List Piece) : List Piece :=
  ps.filterMap fun p => if p.pos < n then some { p with len := min p.len (n - p.pos) } else none
/-- The taking of a task (R322): the landing stores, gd, the count T, the brand test of a TKADDB, and the restart record. -/
def State.takeTask (s : State) (gd : GReg) (ps : List Piece) (t : Task) : State :=
  let t := t.stamp s.tick
  let s := storePieces true false false s.tock (cutPieces (40 + t.snapLen) ps) t.landing
  let s := (s.setG gd (sext48 (t.record.toNat / 4 % 2 ^ 46 * 4))).onMe fun c =>
    { c with inHand := some t, taken := c.taken + 1, granted := none, search := none }
  (s.applyBranded t.scope t.brand).openRestart t
/-- A theft of the moving core's stream is under way. -/
def theftOpen (s : State) : Bool :=
  s.ni.any fun f => match f.pkt with
    | .steal l x y _ _ => s.me.launch == some l && x == s.me.rx && y == s.me.ry
    | .stealReply l x y _ _ _ => s.me.launch == some l && x == s.me.rx && y == s.me.ry
    | _ => false
/-- The visits of a ring (R287): members one after another, those with nothing to give skipped, until a task is granted, a request is
on its way, or the ring is over. -/
def searchRing (g : Group) : Nat → State → State
  | 0, s => s
  | fuel + 1, s =>
    if s.me.granted.isSome || theftOpen s then s
    else
      let k := match s.me.search with | some (k, h) => if h == g then k else 1 | none => 1
      if g.gw * g.gh ≤ k then s.onMe fun c => { c with search := some (k, g) }
      else
        let launch := match s.me.launch with | some l => l | none => 0
        match victimOf s launch s.me.rx s.me.ry g k with
        | none => searchRing g fuel (s.onMe fun c => { c with search := some (k + 1, g) })
        | some _ =>
          searchRing g fuel ((s.onMe fun c => { c with search := some (k, g), res := .waiting }).sendNi (.steal launch s.me.rx s.me.ry g k))
/-- The head of the own queue taken, at its logged point (R287, R422). -/
def State.takeHead (s : State) (t : Task) : Option (State × Task) :=
  (s.logDispatch s.me.paddock 6 s.me.id s.me.id).map fun s => ((s.onMe fun c => { c with taskQueue := c.taskQueue.drop 1 }).niSettle s.me.id, t)
/-- What RECVT does once its checks have passed. -/
def recvTask (s : State) (gd : GReg) (g : Group) (ps : List Piece) : Ans Unit :=
  (awaitMarks s ps).bind fun s _ => (roomForStore s (ps.length + 4)).bind fun s _ =>
  match s.me.granted with
  | some t => .ok (s.takeTask gd ps t) ()
  | none =>
    if (match s.launchOfCore s.me.id with | some l => l.done | none => false) then
      .ok ((s.setG gd 0).onMe fun c => { c with cut := false, search := none }) ()
    else match startable s s.me with
      | some t => (match s.takeHead t with
        | some (s, t) => .ok ((s.takeTask gd ps t).settleNi) ()
        | none => .wait s)
      | none =>
        let s := searchRing g (2 * (g.gw * g.gh) + 2) s
        match s.me.granted with
        | some t => .ok (s.takeTask gd ps t) ()
        | none => .wait s
/-- RECVT (R321, R322): group, task in hand, alignment, access, then the wait for a task or DONE, past its trap horizon (R318). -/
def execRecvt (gd ga : GReg) (lgw : BitVec 3) (lgh : BitVec 2) (s : State) : Result :=
  needLaunch s fun l => (checkGroup s l lgw lgh).bind fun s g =>
    if s.me.inHand.isSome then .trap s (progressTrap 4)
    else
      let va := s.g ga
      (keepOr s fun s => (checkWatch s va 296 true).bind fun s _ => (checkAlign s va 8 0).bind fun s _ => locateProg s va 296 1).bind fun s ps =>
        recvTask s gd g ps

/-! ### TKDONE and TKSNAP (R324, R325) -/

/-- The TASK packet of a task that ends (R420): its durations are free, and its flags say whether it was interrupted, stolen or
restarted. -/
def State.emitTask (s : State) (t : Task) : State :=
  if s.me.trcBit 4 then
    let flags := s.me.cut.toNat + (t.owner != s.me.ry * 16 + s.me.rx).toNat * 2 + t.restarted.toNat * 4
    ({ s with tick := s.tick + 2 }).emit s.me.id (0x50 :: bytesOf (getBits t.record.toNat 192 32) 4 ++ bytesOf (Config.duration s.tick).toNat 4
      ++ bytesOf (Config.duration (s.tick + 1)).toNat 4 ++ bytesOf flags 1)
  else s
/-- TKDONE (R324). -/
def execTkdone (s : State) : Result :=
  needLaunch s fun l => match s.me.inHand with
    | none => .trap s (progressTrap 4)
    | some t => (roomForStore s 2).bind fun s _ =>
      let s := (s.closeRestart t).emitTask t
      let s := s.onMe fun c => { c with inHand := none, cut := false, nTkdone := c.nTkdone + 1 }
      .ok (s.sendCounted (.report s.me.id t.owner t.seq l.id)) ()
/-- TKSNAP (R325): the snapshot of a task without REST, or in a launch without RESTART, is not kept. -/
def execTksnap (ga gb : GReg) (s : State) : Result :=
  let va := s.g ga
  let n := (s.g gb).toNat
  needLaunch s fun _ => match s.me.inHand with
    | none => .trap s (progressTrap 4)
    | some t =>
      if 256 < n || n % 8 != 0 then .trap s (progressTrap 5)
      else (checkWatch s va n false).bind fun s _ => (checkAlign s va 8 0).bind fun s _ => (locateProg s va n 0).bind fun s ps =>
        (loadAll s ps false false false).bind fun s v =>
          if keepsRestart s t then (roomForStore s 4).bind fun s _ =>
            let t := { t with snapLen := n, snap := BitVec.ofNat 2048 v }
            .ok ((s.onMe fun c => { c with inHand := some t }).snapRestart t) ()
          else .ok s ()

/-! ### LNCH (R326) -/

/-- LNCH (R326): the record's four loads, then the request to the dispatcher, whose reply is the result. -/
def execLnch (gd ga gb : GReg) (s : State) : Result :=
  match s.me.pend with
  | .none =>
    let va := s.g ga
    finish ((checkWatch s va 32 false).bind fun s _ => (checkAlign s va 32 0).bind fun s _ => (locateProg s va 32 0).bind fun s ps =>
      (loadAll s ps false false false).bind fun s v =>
        let pset := if s.me.level == 3 then (s.g gb).toNat / 256 % 256 else s.me.paddock
        (ctlReply (s.askCtl (.lnch s.me.id pset ((s.g gb).toNat % 256) (BitVec.ofNat 256 v)) lnchMark)).bind fun s v => .ok (s.setG gd v) ())
  | _ => finish ((ctlReply s.settleCtl).bind fun s v => .ok (s.setG gd v) ())

/-! ### BAR and MRED (R328) -/

/-- The contributions of the moving core whose episodes have not completed. -/
def openContributions (s : State) (l : Launch) : Nat :=
  (s.contribs.filter fun c => c.launch == l.id && c.rx == s.me.rx && c.ry == s.me.ry).length
  + (s.ni.filter fun f => match f.pkt with | .contrib k _ => k == s.me.id | _ => false).length
/-- A contribution to the next episode of a group (R282, R328): at most 16 stay open. -/
def contribute (op : GroupOp) (v : Word) (lgw : BitVec 3) (lgh : BitVec 2) (m : MReg) (s : State) : Result :=
  needLaunch s fun l => (checkGroup s l lgw lgh).bind fun s g =>
    if 16 ≤ openContributions s l then .wait s
    else (roomForStore s 1).bind fun s _ =>
      let ix : Fin 20 := Fin.ofNat 20 (lgw.toNat * 4 + lgh.toNat)
      let n := s.me.episodes[ix]
      .ok ((s.onMe fun c => { c with episodes := c.episodes.set ix (n + 1) }).sendCounted (.contrib s.me.id
        { launch := l.id, group := g, episode := n, rx := s.me.rx, ry := s.me.ry, op := op, value := v, slot := m.val })) ()
/-- The contribution of an f32 MRED: g[ga][31:0] (R328). -/
def low32 (w : Word) : Word := BitVec.ofNat 64 (w.toNat % 2 ^ 32)
/-- BAR (R328). -/
def execBar (lgw : BitVec 3) (lgh : BitVec 2) (m : MReg) (s : State) : Result := contribute .bar 0 lgw lgh m s
/-- MRED add, i64 (R328). -/
def execMredAddI64 (ga : GReg) (lgw : BitVec 3) (lgh : BitVec 2) (m : MReg) (s : State) : Result := contribute .addI (s.g ga) lgw lgh m s
/-- MRED max, i64 (R328). -/
def execMredMaxI64 (ga : GReg) (lgw : BitVec 3) (lgh : BitVec 2) (m : MReg) (s : State) : Result := contribute .maxI (s.g ga) lgw lgh m s
/-- MRED min, i64 (R328). -/
def execMredMinI64 (ga : GReg) (lgw : BitVec 3) (lgh : BitVec 2) (m : MReg) (s : State) : Result := contribute .minI (s.g ga) lgw lgh m s
/-- MRED and, i64 (R328). -/
def execMredAndI64 (ga : GReg) (lgw : BitVec 3) (lgh : BitVec 2) (m : MReg) (s : State) : Result := contribute .andI (s.g ga) lgw lgh m s
/-- MRED or, i64 (R328). -/
def execMredOrI64 (ga : GReg) (lgw : BitVec 3) (lgh : BitVec 2) (m : MReg) (s : State) : Result := contribute .orI (s.g ga) lgw lgh m s
/-- MRED add, f32 (R328). -/
def execMredAddF32 (ga : GReg) (lgw : BitVec 3) (lgh : BitVec 2) (m : MReg) (s : State) : Result :=
  contribute .addF (low32 (s.g ga)) lgw lgh m s
/-- MRED max, f32 (R328). -/
def execMredMaxF32 (ga : GReg) (lgw : BitVec 3) (lgh : BitVec 2) (m : MReg) (s : State) : Result :=
  contribute .maxF (low32 (s.g ga)) lgw lgh m s
/-- MRED min, f32 (R328). -/
def execMredMinF32 (ga : GReg) (lgw : BitVec 3) (lgh : BitVec 2) (m : MReg) (s : State) : Result :=
  contribute .minF (low32 (s.g ga)) lgw lgh m s

/-! ### Line locks (R331, R332) -/

/-- The place that a lock instruction names: watched as a write if it is a request (R357, R414), translated for writing, and of local
HBM (R162, R331). -/
def lockPlace (s : State) (va : Word) (watch : Bool) : Ans (List Piece) :=
  (if watch then checkWatch s (va &&& ~~~127) 128 true else .ok s ()).bind fun s _ => (locateProg s va 1 1).bind fun s ps =>
    match ps.find? fun p => !(s.placeOf p.pa matches .ok .localHbm) with
    | some _ => .trap s (accessTrap .lockRegion va 0)
    | none => .ok s ps
/-- The line of the pieces located. -/
def pieceLine (ps : List Piece) : Nat := match ps with | p :: _ => p.pa / 128 | [] => 0
/-- A lock or try request (R302, R331), behind the marks of the core's own copies (R180 row 8): a line the core holds, a STUB and a lock kept through a save among them (R305), is answered DEADLOCK at
once. -/
def lockRequest (s : State) (va : Word) (m : MReg) (try_ : Bool) : Ans Unit :=
  (lockPlace s va true).bind fun s ps =>
    let line := pieceLine ps
    match s.me.lockOf line with
    | some e =>
      if e.waits then .trap s (lockTrap 2)
      else .ok (s.tell s.me.id (statusMsg s.me.id { e with slot := m.val, va := va } 3 0 none)) ()
    | none =>
      if 4 ≤ (s.me.locks.filter (·.waits)).length || 8 ≤ s.me.locks.length then .trap s (lockTrap 1)
      else (awaitMarks s ps).bind fun s _ => .ok (s.requestLock s.me.id line va m.val try_) ()
/-- LKACQ (R331). -/
def execLkacq (ga : GReg) (m : MReg) (s : State) : Result := finish (lockRequest s (s.g ga) m false)
/-- LKTRY (R331). -/
def execLktry (ga : GReg) (m : MReg) (s : State) : Result := finish (lockRequest s (s.g ga) m true)
/-- LKREL (R332): a branded release of .dev, then the hand-off or FREE (R306). Past its trap horizon it translates nothing again (R318). A lock
kept through a save is held (R305): it goes on once its RESUME has reached the home. -/
def execLkrel (ga : GReg) (s : State) : Result :=
  finish ((keepOr s fun s => (lockPlace s (s.g ga) false).bind fun s ps =>
      if s.me.locks.any fun e => e.line == pieceLine ps && (e.st == .held || e.st == .saved) then .ok s ps else .trap s (lockTrap 3)).bind fun s ps =>
    (awaitRelease s).bind fun s _ =>
      let s := s.settleLocks
      if s.me.locks.any fun e => e.line == pieceLine ps && e.st == .saved then .wait s
      else .ok ((s.onMe (·.releaseBrand)).releaseLock s.me.id (pieceLine ps) s.me.writtenBrand) ())

end Sys2Proof.Machine
end

