-- ==== Sys2Proof/Machine/Sync.lean ====
section
/-! DEFINITION. FENCE, the branded release and acquire, and cache control (10 R238 to R244, 08 R184). -/
namespace Sys2Proof.Machine

/-- The request writes. -/
def Req.writes : Req → Bool | .read .. => false | _ => true
/-- What core k has sent of kind s has performed (R176, R184, R333): its writes are placed, its messages, tasks, reports and contributions have
entered their receivers, its lock requests and releases have been taken. -/
def sendsPlaced (s : State) (k : Nat) : Bool :=
  !(s.net.any fun f => match f.pkt with
    | .req r => r.core == k && r.req.writes
    | .hostWait r _ => r.core == k && r.req.writes
    | _ => false)
  && !(s.ni.any fun f => match f.pkt with
    | .msg _ _ _ c _ _ => c == some k
    | .task _ _ _ c _ _ => c == some k
    | .report c .. => c == k
    | .contrib c _ => c == k
    | _ => false)
  && locksPlaced s k
/-- The accesses of the core's copies and all-reduces have performed (R176, R184). -/
def enginesPlaced (s : State) (k : Nat) : Bool :=
  !(s.jobs.any fun j => j.core == k && !(j.unmarked.isEmpty && j.unwritten.isEmpty))
  && !(s.areds.any fun a => a.of (s.core k) && a.status == 0 && !(a.matched && a.left.isEmpty))
  && !(s.net.any fun f => match f.pkt with
    | .req r => r.core == 2048 + k || (r.core == 1028 && s.areds.any fun a => a.of (s.core k) && (rangeLines a.buf).contains r.line)
    | .hostWait r _ => r.core == 2048 + k
    | _ => false)
/-- FENCE (R184, R238): what is older and of a kind in the set has performed; above .core a set with s also waits for the counter, and one with
e for the engines' commits. Loads have performed. -/
def execFence (set : FenceSet) (sc : Scope) (s : State) : Result :=
  let s := if set.s || set.e then s.settle.settleLocks else s
  let above := sc != .core
  if (set.s && !(sendsPlaced s s.me.id && (!above || s.me.storesDone)))
      || (set.e && !(enginesPlaced s s.me.id && (!above || enginesDone s s.me.id))) then finish (.wait s)
  else finish (.ok s ())

/-- The sync line of R225: the value, then the brand. -/
def syncLine (v : Word) (b : BitVec 960) : Nat := v.toNat + b.toNat * 2 ^ 64
/-- RELB (R239): past its trap horizon it translates nothing again; after its wait it writes the sync line as one store and clears the brand into the carry (R224). The sync line itself
is not branded. -/
def execRelb (ga gb : GReg) (_sc : Scope) (s : State) : Result :=
  let va := s.g ga
  finish ((keepOr s fun s => (checkWatch s va 128 true).bind fun s _ => (checkAlign s va 128 0).bind fun s _ => locate s va 128 1 0 0).bind fun s ps =>
    (awaitRelease s).bind fun s _ => (roomForStore s ps.length).bind fun s _ =>
      let line := syncLine (s.g gb) s.me.writtenBrand
      .ok (storePieces false false true (s.onMe (·.releaseBrand)) ps line) ())
/-- ACQB (R240): one load of the line at its serialisation point, then the brand test with its brand. -/
def execAcqb (gd ga : GReg) (_sc : Scope) (s : State) : Result :=
  let va := s.g ga
  finish ((loadAt s va 128 true true).bind fun s v =>
    .ok ((s.setG gd (BitVec.ofNat 64 v)).brandTest (BitVec.ofNat 960 (v / 2 ^ 64))) ())

/-- The byte that an address names, translated as a load does, without alignment (R241). -/
def linePiece (s : State) (va : Word) : Ans Piece :=
  (locate s va 1 0 0 0).bind fun s ps => match ps with | p :: _ => .ok s p | [] => .wait s
/-- The place of the line that an address names. -/
def linePlace (s : State) (va : Word) : Ans Nat := (linePiece s va).bind fun s p => .ok s p.pa
/-- CLWB (R241): a local HBM line is written back by its home, counting until then; elsewhere nothing happens. -/
def execClwb (ga : GReg) (s : State) : Result :=
  finish ((linePiece s (s.g ga)).bind fun s p =>
    let pa := p.pa
    match s.placeOf pa with
    | .ok .localHbm => (roomForStore s 1).bind fun s _ =>
        .ok ((s.onMe fun c => { c with undone := c.undone ++ [pa / 128], storePages := c.storePages ++ p.pageEntry c.asid }).request
          { core := s.me.id, line := pa / 128, req := .clwb }) ()
    | _ => .ok s ())
/-- CLINV (R241): the core's own copy of the line: U and T become I, T with its notice; H waits; G and K stay. -/
def execClinv (ga : GReg) (s : State) : Result :=
  finish ((linePlace s (s.g ga)).bind fun s pa =>
    let line := pa / 128
    let s := if s.me.waitsH line then s.settle else s
    match s.me.lineOf line with
    | none => .ok s ()
    | some l => match l.st with
      | .u => .ok (s.onMe (·.dropLine line)) ()
      | .t => .ok ((s.onMe (·.dropLine line)).post (.evict s.me.id line)).settle ()
      | .h => .wait s
      | .g _ => .ok s ()
      | .k => .ok s ())

/-- The fills that PREF asks for where an address leads (R242): a local HBM line into its home slice, and with `priv` every cacheable line into
the private cache, unless the core holds it. -/
def prefFill (ef priv : Bool) (s : State) (pa : Nat) : State :=
  let line := pa / 128
  let home (s : State) : State := s.request { core := 1026, line := line, req := .read false ef true false }
  let near (s : State) : State := s.request { core := s.me.id, line := line, req := .read false ef true false }
  let held := (s.me.lineOf line).isSome
  match s.placeOf pa with
  | .ok .localHbm => if priv && !held then near s else home s
  | .ok .peerHbm => if priv && !held then near s else s
  | .ok .host => if priv && !held then near s else s
  | _ => s
/-- Where a PREF's address leads for the moving core: a page that fails is skipped, and its ATS request, if one is needed, has no waiter. -/
def prefPlace (s : State) (va : Word) (user : Bool) : Ans (Except Nat Phys) :=
  if s.me.level == 3 then
    match physCheck s (va.toNat % 2 ^ 48) 0 with
    | some k => .ok s (.error k.code)
    | none => .ok s (.ok { pa := va.toNat % 2 ^ 48, leaf := none, window := false })
  else probeAddr s va .read user 1024
/-- A translation request of the host for an address of an ASID, with no waiter, is open. -/
def prefAsked (s : State) (asid : Nat) (va : Word) : Bool :=
  s.ats.any fun a => a.core == 1024 && a.asid == asid && a.va == va.toNat % 2 ^ 48 / 4096 * 4096 && a.acc == .read && a.stage == 2
/-- What PREF does for the line at an address (R242); a line whose translation must wait is kept until that has come. -/
def prefLine (ef priv : Bool) (s : State) (va : Word) : State :=
  let user := s.me.level == 0
  match prefPlace s va user with
  | .ok s (.ok p) => prefFill ef priv s p.pa
  | .ok s (.error _) => s
  | .wait s =>
    { s with prefs := s.prefs ++ [{ core := s.me.id, asid := s.me.asid, pset := s.me.paddock, va := va, user := user, ef := ef, priv := priv,
                                    asked := prefAsked s s.me.asid va }] }
  | .trap s _ => s
/-- A line of a PREF whose translation waited, tried again: none while it still waits. It is dropped once the host has refused its page, or its
stream no longer runs. -/
def State.retryPref (s : State) (i : Nat) : Option State :=
  match s.prefs[i]? with
  | none => none
  | some p =>
    let gone := { s with prefs := s.prefs.eraseIdx i }
    let c := s.core p.core
    let page := p.va.toNat % 2 ^ 48
    if c.run != .running || c.asid != p.asid || c.paddock != p.pset then some gone
    else if prefAsked s p.asid p.va then (if p.asked then none else some { s with prefs := s.prefs.set i { p with asked := true } })
    else if p.asked && !(c.ctc.any (·.holds p.asid page)) && ((s.pad p.pset).stcHit p.asid page).isNone then some gone
    else match prefPlace (gone.switchTo p.core) p.va p.user with
      | .ok t (.ok x) => some ((prefFill p.ef p.priv t x.pa).switchTo s.me.id)
      | .ok t (.error _) => some (t.switchTo s.me.id)
      | .wait t =>
        if t.stamp == s.stamp && t.dir == s.dir && t.ats.length == s.ats.length then none
        else some { (t.switchTo s.me.id) with prefs := s.prefs.set i { p with asked := prefAsked t p.asid p.va } }
      | .trap _ _ => some gone
/-- PREF (R242): the lines that overlap the range, at most 2^20 bytes of it. It takes no trap. -/
def execPref (ga gb : GReg) (ef priv : Bool) (s : State) : Result :=
  let va := s.g ga
  let len := min (s.g gb).toNat (2 ^ 20)
  let first := va &&& ~~~127
  let n := if len == 0 then 0 else ((va.toNat % 128) + len + 127) / 128
  finish (.ok ((List.range n).foldl (fun (s : State) i => prefLine ef priv s (first + BitVec.ofNat 64 (128 * i))) s) ())

/-- The range of a RETAIN as 4 KiB units of one page of the core's own local HBM, or none: status RANGE (R243). -/
def retainRange (s : State) (va len : Word) (p : Piece) (size : Nat) : Option (Nat × Nat) :=
  if va.toNat % 4096 == 0 && len.toNat % 4096 == 0 && len != 0 && decide (va.toNat % size + len.toNat ≤ size)
    && s.placeOf p.pa matches .ok .localHbm && decide (s.me.paddock < 7) && (s.pad s.me.paddock).stackMask.getLsbD (stackOf p.pa) then
    some (p.pa % 2 ^ 48 / 4096, p.pa % 2 ^ 48 / 4096 + len.toNat / 4096)
  else none
/-- The size of the page behind an address of the core: the CTC holds it once it has been translated. -/
def pageSizeAt (s : State) (va : Word) : Nat :=
  match s.me.ctc.find? (·.holds s.me.asid (va.toNat % 2 ^ 48)) with | some x => x.size | none => 4096
/-- RETAIN (R243): watched (R414) and translated for writing, as R357 lists it (log entry 74), then the checks in their order; the retention
master answers. -/
def execRetain (gd ga gb : GReg) (ways : Fin 8) (s : State) : Result :=
  match s.me.pend with
  | .none =>
    let va := s.g ga
    let len := s.g gb
    finish ((checkWatch s va len.toNat true).bind fun s _ => (locate s va 1 1 0 0).bind fun s ps => match ps with
      | p :: _ => (match retainRange s va len p (pageSizeAt s va) with
        | none => .ok (s.setG gd (BitVec.ofInt 64 (-4))) ()
        | some (base, limit) =>
          (ctlReply (s.askCtl (.retain s.me.id s.me.asid base limit (ways.val + 1)))).bind fun s v => .ok (s.setG gd v) ())
      | [] => .wait s)
  | _ => finish ((ctlReply s.settleCtl).bind fun s v => .ok (s.setG gd v) ())
/-- UNPIN (R244). -/
def execUnpin (gd ga : GReg) (s : State) : Result :=
  match s.me.pend with
  | .none =>
    let n := (s.g ga).toNat
    if 8 ≤ n then finish (.ok (s.setG gd (BitVec.ofInt 64 (-4))) ())
    else finish ((ctlReply (s.askCtl (.unpin s.me.id s.me.asid n (s.me.level == 0)))).bind fun s v => .ok (s.setG gd v) ())
  | _ => finish ((ctlReply s.settleCtl).bind fun s v => .ok (s.setG gd v) ())

end Sys2Proof.Machine
end

