-- ==== Sys2Proof/Machine/System.lean ====
section
/-! DEFINITION. The system instructions (16 R346 to R352, R360 to R362, R376 to R378, 05 R147, R148). -/
namespace Sys2Proof.Machine

/-! ### System registers (R349, R350) -/

/-- Core number and paddock of the moving core as SYSRD reads them. -/
def coreWord (c : Core) : Word := if c.isYard then 0x1FF else BitVec.ofNat 64 (c.id % 512)
/-- A system register as it reads; none for a number that is not listed. -/
def sysRead (c : Core) (n : Nat) : Option Word :=
  match n with
  | 0x000 => some (c.vstat.setWidth 64)
  | 0x001 => some c.brhits
  | 0x002 => some (if c.isYard then 0 else c.cwin)
  | 0x003 => some (coreWord c)
  | 0x008 => some (c.status.setWidth 64)
  | 0x010 => some c.epc
  | 0x011 => some c.ecause
  | 0x012 => some c.eva
  | 0x013 => some c.erow
  | 0x014 => some c.escratch
  | 0x018 => some c.stvec
  | 0x020 => some (BitVec.ofNat 64 c.asid)
  | 0x021 => some (BitVec.ofNat 64 c.genNum)
  | 0x022 => some (BitVec.ofNat 64 c.paddock)
  | _ => none
/-- STATUS after a write (R347): INTRAP, and PLV unless it lies above the writer's own level. -/
def statusWrite (c : Core) (v : Word) : BitVec 5 :=
  let plv := v.toNat / 4 % 4
  mkStatus (v.getLsbD 4) (if plv ≤ c.level then plv else c.plv) c.level
/-- A system register written at the core's level; what is read-only there stays (R349). -/
def sysWrite (c : Core) (n : Nat) (v : Word) : Core :=
  match n with
  | 0x000 => { c with vstat := vstatWrite v }
  | 0x008 => { c with status := statusWrite c v }
  | 0x010 => { c with epc := v }
  | 0x011 => { c with ecause := v &&& 0xFFFF03FF }
  | 0x012 => { c with eva := v }
  | 0x013 => { c with erow := v }
  | 0x014 => { c with escratch := v }
  | 0x018 => { c with stvec := v &&& ~~~3 }
  | 0x020 => if c.level == 3 then { c with asid := v.toNat % 65536 } else c
  | _ => c
/-- The registers that user level may not reach (R349). -/
def sysNeeds (n : Nat) : Bool := 8 ≤ n
/-- SYSRD (R349, R350). -/
def execSysrd (gd : GReg) (n : BitVec 10) (s : State) : Result :=
  match sysRead s.me n.toNat with
  | none => finish (.trap s (plainTrap 1 3))
  | some v => if s.me.level == 0 && sysNeeds n.toNat then finish (.trap s levelTrap) else retireWith s gd v
/-- SYSWR (R349, R350). -/
def execSyswr (ga : GReg) (n : BitVec 10) (s : State) : Result :=
  match sysRead s.me n.toNat with
  | none => finish (.trap s (plainTrap 1 3))
  | some _ =>
    if s.me.level == 0 && sysNeeds n.toNat then finish (.trap s levelTrap)
    else .next (s.onMe fun c => (sysWrite c n.toNat (s.g ga)).cleanSys [sysIndex n.toNat]).retire

/-! ### TRAP and TRET (R351, R352) -/

/-- The trap of a TRAP: cause SYSCALL and its code. -/
def syscallTrap (code : BitVec 10) : Trap := { cause := 5, kind := 0, code := code.toNat, va := 0, row := 0 }
/-- TRAP (R351): it retires, and the trap is then taken with EPC at the next bundle. -/
def execTrap (code : BitVec 10) (s : State) : Result :=
  let next := s.me.npc
  .next ((s.retire.takeTrap (syscallTrap code) next false).onMe fun c => if c.run == .running then { c with res := .retired } else c)
/-- TRET (R352): an arrival at EPC under R41, checked there. -/
def execTret (s : State) : Result :=
  needSupervisor s fun s => .next (((s.onMe (·.leaveTrap)).emitAddr s.me.id 2 s.me.epc).retireTo s.me.epc)

/-! ### Translations (R360 to R362) -/

/-- The sets an XLATI concerns: at machine level p, where 7 names every set; else the own. -/
def xlatiSets (s : State) (p : Fin 8) : List Nat :=
  if s.me.level == 3 then (if p == 7 then List.range 7 else [p.val]) else if s.me.paddock < 7 then [s.me.paddock] else []
/-- The removal sent to every core of the sets and to their slices. A core at reset holds no translation. -/
def State.sendRemovals (s : State) (sets : List Nat) (sel : XSel) : State :=
  let cores := s.allCores.filter fun c => c.id < 512 && sets.contains c.paddock
  { s with ctl := s.ctl ++ cores.map (fun c => CtlReq.removal s.me.id c.paddock sel c.id) ++ sets.map (fun n => CtlReq.removal s.me.id n sel 1027),
           me := { s.me with pend := .sent xlatiMark } }
/-- Every removal of the moving core's XLATI has been acknowledged. -/
def removalsOver (s : State) : Bool := !(s.ctl.any fun r => match r with | .removal k _ _ _ => k == s.me.id | _ => false)
/-- XLATI (R360): the stores first, then the removal, then every acknowledgement. -/
def xlatiWith (p : Fin 8) (sel : XSel) (s : State) : Result :=
  needSupervisor s fun s =>
    let after (s : State) : Result := finish (if removalsOver s then .ok s () else .wait s)
    match s.me.pend with
    | .none =>
      let s := s.settle
      if !s.me.storesDone then finish (.wait s) else after (s.sendRemovals (xlatiSets s p) sel).settleCtl
    | _ => after s.settleCtl
/-- XLATI range (R360): a length of zero removes nothing. -/
def execXlatiRange (ga gb : GReg) (p : Fin 8) (s : State) : Result :=
  let lo := (s.g ga).toNat % 2 ^ 48
  let len := (s.g gb).toNat
  xlatiWith p (.range ((s.g ga).toNat / 2 ^ 48) (if len == 0 then 0 else lo) (if len == 0 then 0 else min (lo + len) (2 ^ 48))) s
/-- XLATI asid (R360). -/
def execXlatiAsid (ga : GReg) (p : Fin 8) (s : State) : Result := xlatiWith p (.asid ((s.g ga).toNat / 2 ^ 48)) s
/-- XLATI all (R360). -/
def execXlatiAll (p : Fin 8) (s : State) : Result := xlatiWith p .all s
/-- A page size as XLATP codes it (R362). -/
def sizeCode (size : Nat) : Nat :=
  if size == 2 ^ 16 then 1 else if size == 2 ^ 21 then 2 else if size == 2 ^ 25 then 3 else if size == 2 ^ 30 then 4
  else if size == 2 ^ 33 then 5 else 0
/-- The result of XLATP (R362). -/
def probeWord (r : Except Nat Phys) : Word :=
  match r with
  | .error k => BitVec.ofNat 64 (2 ^ 63 + k)
  | .ok p => match p.leaf with
    | none => BitVec.ofNat 64 (2 ^ 59 + 2 ^ 56 + 2 ^ 50 + 2 ^ 49 + p.pa % 2 ^ 48)
    | some x => BitVec.ofNat 64 (sizeCode x.size * 2 ^ 60 + x.host.toNat * 2 ^ 58 + x.dx.toNat * 2 ^ 57 + x.u.toNat * 2 ^ 56
        + x.r.toNat * 2 ^ 50 + x.w.toNat * 2 ^ 49 + x.x.toNat * 2 ^ 48 + p.pa % 2 ^ 48)
/-- XLATP (R362). -/
def execXlatp (gd ga : GReg) (user : Bool) (acc : Access) (s : State) : Result :=
  needSupervisor s fun s => finish ((probeAddr s (s.g ga) acc user s.me.id).bind fun s r => .ok (s.setG gd (probeWord r)) ())

/-! ### Contexts (R376 to R378) -/

/-- The place of a byte of an image among its pieces. -/
def pieceAt (ps : List Piece) (off : Nat) : Option Nat :=
  (ps.find? fun p => decide (p.pos ≤ off) && decide (off < p.pos + p.len)).map fun p => p.pa + (off - p.pos)
/-- A word of the moving core's own scratchpad. -/
def ownWord (s : State) (w : Nat) : Bool := match s.placeOf (w * 8) with | .ok (.scratch cell) => s.coreNo cell == s.me.id | _ => false
/-- The moving core's context written at an image's pieces; its poisoned names become poisoned words there (R394). -/
def storeImage (s : State) (ps : List Piece) : State :=
  let ws := poisonedWords s.me.poison (pieceAt ps)
  let t := storePieces false false false (s.poisonNext s.me.id (ws.filter fun w => !ownWord s w)) ps (contextImage s.me s.me.epc s.me.plv)
  { t with badWords := ws.filter (ownWord s) ++ t.badWords }
/-- The NI lofts every arrival and refuses thefts from here on, until the bundle in hand is over (R377, R378). -/
def State.startLofting (s : State) : State := s.onMe fun c => { c with lofting := true }
/-- What is older than a CTXSV or CTXLD has performed: stores, engines, and lock requests and releases (R180 row 9, R197). -/
def awaitOlder (s : State) : Ans Unit :=
  (awaitRelease s).bind fun s _ =>
    let s := s.settleLocks
    if locksPlaced s s.me.id then .ok s () else .wait s
/-- CTXSV (R377): PC takes EPC and LVL takes PLV. It waits for what is older, and what is younger waits for its writes (R180 row 9, R197).
It changes no state of the stream, so its lines do not enter the brand. -/
def execCtxsv (ga : GReg) (s : State) : Result :=
  needSupervisor s fun s =>
    let va := s.g ga
    finish ((checkWatch s va 0x40000 true).bind fun s _ => (checkAlign s va 4096 0).bind fun s _ => (locate s va 0x40000 1 0 0).bind fun s ps =>
      (awaitOlder s.startLofting).bind fun s _ => .ok ((storeImage s ps).onMe fun c => { c with behind := true }) ())
/-- The tasks of a loaded queue numbered as tasks that enter this queue now; tasks of the old queue count no more (R288). -/
def Core.adoptQueue (old c : Core) : Core :=
  let n := c.taskQueue.length
  let gone := old.taskQueue.map (·.seq)
  { c with
    taskQueue := c.taskQueue.zipIdx.map fun (p : Task × Nat) => { p.1 with owner := c.ry * 16 + c.rx, seq := old.taskSeq + p.2, numbered := true },
    inHand := c.inHand.map fun t => { t with owner := c.ry * 16 + c.rx, seq := old.taskSeq + n, numbered := true },
    openTasks := (old.openTasks.filter fun k => !gone.contains k) ++ (List.range n).map (old.taskSeq + ·),
    taskSeq := old.taskSeq + n + 1 }
/-- What CTXLD puts into the core (R378): the image, then EPC = PC and PLV = LVL. -/
def Core.loadContext (c : Core) (img : Nat) (poison : List PoisonName) : Core :=
  { (c.adoptQueue (c.loadImage img)) with
    epc := BitVec.ofNat 64 (imgWord img 0x180), ecause := causeWord (imgWord img 0x1A0), eva := BitVec.ofNat 64 (imgWord img 0x1A8),
    erow := BitVec.ofNat 64 (imgWord img 0x1B0), escratch := BitVec.ofNat 64 (imgWord img 0x1B8),
    status := mkStatus c.inTrap (imgWord img 0x188) c.level, poison := poison }
/-- CTXLD (R378): what is older has performed (R180 row 9); the image is read and checked whole before anything is replaced. Poisoned words of it
become poisoned names (R394). Arrivals meanwhile follow the restored queues. -/
def execCtxld (ga : GReg) (s : State) : Result :=
  needSupervisor s fun s =>
    let va := s.g ga
    finish ((checkWatch s va 0x40000 false).bind fun s _ => (checkAlign s va 4096 0).bind fun s _ => (locate s va 0x40000 0 0 0).bind fun s ps =>
      (awaitOlder s.startLofting).bind fun s _ => (loadPieces false false false ps 0 [] s).bind fun s r =>
        if !contextOk (s.present s.me.id .q4blk) r.1 s.me.level then .trap s (tileTrap .format)
        else
          let s := r.2.reverse.foldl (fun (s : State) l => s.freshen s.me.id l) s
          let poison := imagePoison s.badWords fun off => match pieceAt ps off with | some pa => pa | none => 0
          .ok (((s.onMe fun c => { c.loadContext r.1 poison with lofting := false }).coverFills fun _ => true).niSettle s.me.id) ())

/-! ### HALT and NOP (R147, R148) -/

/-- A number put into its place among ascending ones. -/
def insertAsc (x : Nat) : List Nat → List Nat
  | [] => [x]
  | y :: ys => if x ≤ y then x :: y :: ys else y :: insertAsc x ys
/-- Lines of held locks in ascending order. -/
def heldLines (c : Core) : List Nat := ((c.locks.filter (·.st == .held)).map (·.line)).foldr insertAsc []
/-- Held locks released, each as if by LKREL; waiting requests withdrawn with no status (R148, R309). -/
def State.haltLocks (s : State) : State :=
  let s := (heldLines s.me).foldl (fun (s : State) l => (s.onMe (·.releaseBrand)).releaseLock s.me.id l s.me.writtenBrand) s
  (s.me.locks.filter (·.waits)).foldl (fun (s : State) e => s.withdrawLock s.me.id e.line none) s
/-- What HALT leaves of the core: slots, arrivals and lofted messages are discarded, the task in hand is dropped, and tasks stay where
others may steal them (R148, R295, R324). -/
def State.haltCore (s : State) : State :=
  let msgs := (heldRecords s.me).filter fun r => !loftIsTask s s.me r
  s.onMe fun c =>
    { (msgs.foldl (fun (c : Core) r => c.takeRecord r.place) c) with
      run := .halted, mbox := Vector.replicate 32 freshMSlot, arrivals := [], inHand := none, cut := false }
/-- The stream has halted: its launch is told, and group episodes count it (R148, R282). -/
def State.endStream (s : State) : State :=
  match s.me.launch with
  | none => s
  | some id => (retryEpisodes (s.onLaunch id fun l => l.onStream s.me.rx s.me.ry fun t => { t with st := .halted }) id).settleNi
/-- The restart record of the task in hand is closed, if its live bit still stands in memory (R398). -/
def State.closeLive (s : State) : State :=
  match s.me.inHand, restartPlace s with
  | some t, some pa => if bitAt (s.mem.readN (pa + 32) 8) 62 then s.closeRestart t else s
  | _, _ => s
/-- HALT (R148): stores and engines first, then the locks, older releases among them (R180 row 9); the restart record of a dropped task loses its live bit (R398). Locks that a waiting
HALT has released, and requests it has withdrawn, stay so where an asynchronous trap squashes it (DESIGN CHOICE, log entry 45). -/
def execHalt (s : State) : Result :=
  match (awaitRelease s).bind fun s _ => awaitRelease (s.closeLive) with
  | .ok s _ =>
    let s := s.haltLocks
    if s.me.locks.isEmpty && locksPlaced s s.me.id then .next (s.retire.haltCore).endStream else finish (.wait s.settleLocks)
  | .wait s => finish (.wait s)
  | .trap s t => finish (.trap s t)
/-- NOP as a C-part (R147). -/
def execNopC (s : State) : Result := .next s.retire

end Sys2Proof.Machine
end

