-- ==== Sys2Proof/Machine/TileMove.lean ====
section
/-! DEFINITION. Tile movement, descriptors, weight loads and accumulator images (04 R99 to R113). -/
namespace Sys2Proof.Machine

/-! ### Rows (R99, R106) -/

/-- The rows of a tile access: row r at ga + offset(r) × gb (R99). -/
def tileRows (s : State) (ga gb : GReg) (n : Nat) (off : Nat → Word) : List (Nat × Word) :=
  (List.range n).map fun r => (r, s.g ga + off r * s.g gb)
/-- The offset of row r in an offset tile (R99). -/
def offsetRow (t : Tile) (r : Nat) : Word := (BitVec.ofNat 32 (t.pattern 4 r 0)).signExtend 64
/-- The operand check of a row access (R106): the band form is for Q4; an offset tile is INT32 with rows enough. -/
def rowFault (t : Tile) (offs : Option Tile) (band : Bool) : Option TileFault :=
  if band && t.desc.fmt != .q4 then some .mix
  else match offs with
    | none => none
    | some o => if o.desc.fmt != .int32 then some .mix else if o.desc.rows < t.desc.rows then some .shape else none
/-- The pieces of a row access, its checks done in the order of R103; row r stands at byte 64r of the data, or 8r of the band. -/
def rowPieces (s : State) (t : Tile) (offs : Option Tile) (ga gb : GReg) (band write : Bool) : Ans (List Piece) :=
  match rowFault t offs band with
  | some k => .trap s (tileTrap k)
  | none =>
    let len := if band then t.desc.rb / 8 else t.desc.rb
    let rows := tileRows s ga gb t.desc.rows fun r => match offs with | some o => offsetRow o r | none => BitVec.ofNat 64 r
    let h := hullOf rows len
    (checkWatch s h.1 h.2 write).bind fun s _ =>
      locateRows (if write then 1 else 0) (if band then 1 else fmtBytes t.desc.fmt) len (if band then 8 else 64) rows [] s
/-- A row load (R106): the part that is loaded is zero outside the rows, and the other part is kept. -/
def rowLoad (s : State) (ta : TReg) (offs : Option Tile) (ga gb : GReg) (band ef : Bool) : Result :=
  let t := s.tile ta
  finish ((rowPieces s t offs ga gb band false).bind fun s ps => (loadAll s ps false ef false).bind fun s v =>
    .ok (s.setT ta (if band then { t with band := BitVec.ofNat _ v } else { t with data := BitVec.ofNat _ v })) ())
/-- A row store (R106): it writes the rows' bytes and nothing else. -/
def rowStore (s : State) (ta : TReg) (offs : Option Tile) (ga gb : GReg) (band ef : Bool) : Result :=
  let t := s.tile ta
  finish ((rowPieces s t offs ga gb band true).bind fun s ps => storeAll s ps (if band then t.band.toNat else t.data.toNat) ef)
/-- TLD (R106). -/
def execTld (ta : TReg) (ga gb : GReg) (band ef : Bool) (s : State) : Result := rowLoad s ta none ga gb band ef
/-- TST (R106). -/
def execTst (ta : TReg) (ga gb : GReg) (band ef : Bool) (s : State) : Result := rowStore s ta none ga gb band ef
/-- TGTH (R106). -/
def execTgth (ta tb : TReg) (ga gb : GReg) (band ef : Bool) (s : State) : Result := rowLoad s ta (some (s.tile tb)) ga gb band ef
/-- TSCT (R106). -/
def execTsct (ta tb : TReg) (ga gb : GReg) (band ef : Bool) (s : State) : Result := rowStore s ta (some (s.tile tb)) ga gb band ef

/-! ### Descriptors and moves (R107 to R109) -/

/-- TSHAPE, set form (R107). -/
def execTshapeSet (ta : TReg) (ga : GReg) (s : State) : Result :=
  match descOfWord (s.present s.me.id .q4blk) (s.g ga) with
  | .ok d => .next (s.setT ta { s.tile ta with desc := d }).retire
  | .error k => finish (.trap s (tileTrap k))
/-- TSHAPE, read form (R107). -/
def execTshapeRead (ta : TReg) (gb : GReg) (s : State) : Result := retireWith s gb (s.tile ta).desc.word
/-- TZERO (R108). -/
def execTzero (ta : TReg) (s : State) : Result := .next (s.setT ta { s.tile ta with data := 0, band := 0 }).retire
/-- TMOV (R108). -/
def execTmov (ta tb : TReg) (s : State) : Result := .next (s.setT ta (s.tile tb)).retire
/-- TMOVS (R109). -/
def execTmovs (ta : TReg) (ga gb : GReg) (size : Size) (s : State) : Result :=
  .next (s.setT ta (tileInsert (s.tile ta) size (s.g ga) (s.g gb))).retire

/-! ### Weight slots (R110, R111) -/

/-- A slot written. -/
def State.setW (s : State) (w : TReg) (x : Slot) : State := s.onMe fun c => { c with w := c.w.set w x }
/-- Pieces whose bytes stand further on in what is transferred. -/
def shiftPieces (n : Nat) (ps : List Piece) : List Piece := ps.map fun p => { p with pos := p.pos + n }
/-- The lines of an image located: alignment of the whole image first at its first line, then line by line (R103). -/
def imagePieces (s : State) (va : Word) (n first write : Nat) : Ans (List Piece) :=
  (checkAlign s va 128 first).bind fun s _ => (locateRows write 1 128 128 (imageRows va n first) [] s).bind fun s ps =>
    .ok s (ps.map fun p => { p with pos := p.pos - 128 * first })
/-- WLD (R110): the data image, and for Q4 the scale image; line indices [0, 32) and [32, 36). -/
def execWld (w : TReg) (fmt : Fmt) (ga gb : GReg) (ef : Bool) (s : State) : Result :=
  let q4 := fmt == .q4
  finish ((checkWatch s (s.g ga) 4096 false).bind fun s _ => (if q4 then checkWatch s (s.g gb) 512 false else .ok s ()).bind fun s _ =>
    (imagePieces s (s.g ga) 4096 0 0).bind fun s ps => (if q4 then imagePieces s (s.g gb) 512 32 0 else .ok s []).bind fun s bs =>
      (loadAll s (ps ++ shiftPieces 4096 bs) false ef false).bind fun s v =>
        .ok (s.setW w { data := BitVec.ofNat _ v, band := BitVec.ofNat _ (v / 2 ^ 32768), fmt := fmt }) ())
/-- WLDT (R111). -/
def execWldt (w tb : TReg) (s : State) : Result :=
  match slotOfTile (s.tile tb) with
  | .ok x => .next (s.setW w x).retire
  | .error k => finish (.trap s (tileTrap k))

/-! ### Accumulator images (R113) -/

/-- ACCSV (R113). -/
def execAccsv (a : AReg) (ga : GReg) (s : State) : Result :=
  finish ((checkWatch s (s.g ga) 16384 true).bind fun s _ => (imagePieces s (s.g ga) 16384 0 1).bind fun s ps =>
    storeAll s ps (s.me.a[a]).data.toNat false)
/-- ACCLD (R113). -/
def execAccld (a : AReg) (ga : GReg) (mode : AccMode) (s : State) : Result :=
  finish ((checkWatch s (s.g ga) 16384 false).bind fun s _ => (imagePieces s (s.g ga) 16384 0 0).bind fun s ps =>
    (loadAll s ps false false false).bind fun s v => .ok (s.setA a { data := BitVec.ofNat _ v, mode := mode }) ())

end Sys2Proof.Machine
end

