-- ==== Sys2Proof/Machine/XlatEvents.lean ====
section
/-! DEFINITION. The steps of the translation slices, the retention master, the dispatcher's request port and the boundary ports (10 R243,
14 R326, 16 R354, R358 to R366, R371). -/
namespace Sys2Proof.Machine

/-- A request to the paddock's logic taken if it answers to its description. -/
def serveCtlIf (s : State) (i : Nat) (is : CtlReq → Bool) : Result :=
  served s (match s.ctl[i]? with
    | some r => if is r then s.serveCtl i else none
    | none => none)
/-- RETENTION_REQUEST (R243, R244). -/
def execRetentionRequest (i : Nat) (s : State) : Result :=
  serveCtlIf s i (fun r => match r with | .retain .. => true | .unpin .. => true | _ => false)
/-- XLATI_REMOVAL (R360). -/
def execXlatiRemoval (i : Nat) (s : State) : Result := serveCtlIf s i (fun r => match r with | .removal .. => true | _ => false)
/-- LNCH_REQUEST (R326). -/
def execLnchRequest (i : Nat) (s : State) : Result := serveCtlIf s i (fun r => match r with | .lnch .. => true | _ => false)
/-- A translation request taken at its stage. -/
def serveXreqIf (s : State) (i : Nat) (walking : Bool) : Result :=
  served s (match s.xreqs[i]? with
    | some r => if r.walking == walking then s.serveXreq i else none
    | none => none)
/-- STC_REQUEST (R358). -/
def execStcRequest (i : Nat) (s : State) : Result := serveXreqIf s i false
/-- WALK_COMPLETE (R354). -/
def execWalkComplete (i : Nat) (s : State) : Result := serveXreqIf s i true
/-- ATS_COMPLETION (R363, R364). -/
def execAtsCompletion (k : Nat) (ans : AtsAnswer) (s : State) : Result := .next (s.atsAnswer k ans)
/-- PRI_RESPONSE (R364, R365). -/
def execPriResponse (pset index pasid : Nat) (code : PriCode) (s : State) : Result :=
  .next (if pset < 7 then s.priAnswer pset index pasid code else s)

/-- The ASIDs of set n that some cache, wait, store or engine of it names. -/
def namedAsids (s : State) (n : Nat) : List Nat :=
  (((s.allCores.filter fun c => c.paddock == n).flatMap fun c => c.asid :: (c.ctc.map (·.asid) ++ c.storePages.map (·.2.1))) ++ (s.pad n).stc.map (·.2.2.asid)
    ++ (s.ats.filter (·.pset == n)).map (·.asid) ++ (s.jobs.filter fun j => (s.core j.core).paddock == n).map (·.asid)
    ++ (s.areds.map (aredSpace s)).filterMap fun x => if x.1 == n then some x.2 else none).eraseDups
/-- Those of some ASIDs of set n that carry a PASID (R353, R366); an entry whose read has to wait holds the rest up. -/
def pasidAsids (n pasid : Nat) : List Nat → State → Ans (List Nat)
  | [], s => .ok s []
  | a :: as, s => (asidEntry s n a none).bind fun s e => (pasidAsids n pasid as s).bind fun s r =>
      .ok s (match e with | .ok (w0, _) => if w0 / 2 ^ 42 % 2 ^ 20 == pasid then a :: r else r | .error _ => r)
/-- One removal at every core and slice of set n, once no access or engine uses what it takes (R360, R361). -/
def removeEverywhere (s : State) (n : Nat) (sel : XSel) : Option State :=
  let cores := (s.allCores.filter fun c => c.id < 512 && c.paddock == n).map (·.id)
  if cores.any (fun k => heldXlat s k sel) || engineUses s n sel then none
  else serveRemoval (cores.foldl (fun (s : State) k => removeAtCore s k sel) s) 512 n sel 1027
/-- An ATS invalidation of a function (R366): xlati range over every ASID that carries the PASID, then its completion. -/
def State.atsInvalidate (s : State) (vf pasid base len : Nat) : Option State :=
  if vf == 0 || 7 < vf then none
  else
    let n := vf - 1
    match pasidAsids n pasid (namedAsids s n) s with
    | .ok s asids =>
      (asids.foldl (fun (o : Option State) a => o.bind fun s => removeEverywhere s n (.range a base (base + len))) (some s)).map fun s =>
        { s with out := s.out ++ [.invalidationDone vf pasid] }
    | .wait t => if t.dir == s.dir && t.stamp == s.stamp then none else some t
    | .trap _ _ => none
/-- ATS_INVALIDATION (R366). -/
def execAtsInvalidation (vf pasid base len : Nat) (s : State) : Result := served s (s.atsInvalidate vf pasid base len)

/-- The address a request is for. -/
def MReq.address (r : MReq) : Nat :=
  match r.req with
  | .write pa .. => pa
  | .amo _ _ pa .. => pa
  | .gather _ off _ => r.line * 128 + off
  | .read .. => r.line * 128
  | .clwb => r.line * 128
/-- A packet at a port: its tag, the core that sent it, the PA it is bound for, and the state once it has been dropped and refused (R371). -/
structure Dropped where
  tag : Nat
  core : Nat
  pa : Nat
  left : State
/-- The tag that a party's packets carry: its cell's, or 7. -/
def State.tagOfNode (s : State) : Node → Nat | .cell n => (s.core (s.coreNo n)).tag | _ => 7
/-- The core of a party, by its number. -/
def Node.coreNumber : Node → Nat | .cell n => n | _ => 0x1FF
/-- A packet of the memory system dropped: a request is refused at its sender, and a reply's requester takes the refusal (R371). -/
def dropNet (s : State) (i : Nat) (f : InFlight) : Option Dropped :=
  let rest := { s with net := s.net.eraseIdx i }
  let reply (line : Nat) (t : State) : Option Dropped :=
    (s.servingNode line).map fun n => { tag := s.tagOfNode n, core := n.coreNumber, pa := line * 128, left := t }
  match f.pkt with
  | .req r => match s.placeOf (r.line * 128) with
    | .ok .host => none
    | .ok .peerHbm => none
    | .ok .peerScratch => none
    | .ok .peerControl => none
    | _ => some { tag := s.tagOf r.core, core := askingCore r.core, pa := r.address, left := rest.refuse r (.access .boundary) }
  | .fill k line _ _ acq pref _ _ =>
    if 512 ≤ k then none else reply line (if pref then rest else rest.post (.fill k line 0 false acq false false (some (.access .boundary))))
  | .amoReply k line _ _ => if 512 ≤ k then none else reply line (rest.post (.amoReply k line 0 (some (.access .boundary))))
  | p => match p.ends s with
    | some (a, .cell n) => some { tag := s.tagOfNode a, core := a.coreNumber, pa := s.cellPa n 0, left := rest }
    | _ => none
/-- A message, a task or another packet of the interfaces dropped: its sender's counter entry goes, and what it has retired is refused as a posted
write is; a theft finds nothing (R371, R446; log entry 54). -/
def dropNi (s : State) (i : Nat) (f : NiFlight) : Option Dropped :=
  let rest := { s with ni := s.ni.eraseIdx i }
  let posted (c : Option Nat) (pa : Nat) : State := match c with
    | some k => (rest.uncount c).onCore k fun c => { c with asyncs := c.asyncs ++ [.posted pa] }
    | none => rest
  match f.ends s with
  | some (a, .cell n) =>
    let pa := s.cellPa n 0
    some { tag := s.tagOfNode a, core := a.coreNumber, pa := pa,
           left := match f.pkt with
            | .msg _ _ _ c _ _ => posted c pa
            | .task _ _ _ c _ _ => posted c pa
            | .report k .. => posted (some k) pa
            | .contrib k _ => posted (some k) pa
            | .steal l rx ry g k => rest.postNi (.stealReply l rx ry g k none)
            | .stealReply .. => rest }
  | _ => none
/-- A lock packet dropped. -/
def dropLock (s : State) (i : Nat) (f : LockFlight) : Option Dropped :=
  match f.ends s with
  | some (a, .cell _) => some { tag := s.tagOfNode a, core := a.coreNumber, pa := f.pkt.line * 128, left := { s with lockNet := s.lockNet.eraseIdx i } }
  | _ => none
/-- A packet reaches a boundary port that its tag may not pass (R371): it is dropped, refused and recorded. Packets stand in the order memory,
interfaces, locks. -/
def State.dropAtBoundary (s : State) (i cell port : Nat) : Option State :=
  let k := s.coreNo cell
  let n := i - s.net.length
  let found := match s.net[i]? with
    | some f => dropNet s i f
    | none => match s.ni[n]? with
      | some f => dropNi s n f
      | none => (s.lockNet[n - s.ni.length]?).bind (dropLock s (n - s.ni.length))
  match found with
  | none => none
  | some d =>
    if d.tag == 7 || 192 ≤ cell || 4 ≤ port || !bitAt (s.core k).bport port then none
    else
      let own := (s.core k).tag
      let w0 : Word := BitVec.ofNat 64 (cell * 2 ^ 48 + port * 2 ^ 40 + d.tag * 2 ^ 37 + d.core % 512 * 2 ^ 28)
      some (if own < 7 then d.left.onPad own fun p =>
          { p with dropLog := (p.dropHead, w0, BitVec.ofNat 64 d.pa) :: p.dropLog.filter (·.1 != p.dropHead), dropHead := (p.dropHead + 1) % 16 }
        else d.left)
/-- BOUNDARY_DROP (R371). -/
def execBoundaryDrop (i cell port : Nat) (s : State) : Result := served s ((s.dropAtBoundary i cell port).map (·.settle))

end Sys2Proof.Machine
end

