-- ==== Sys2Proof/Machine/Dispatch.lean ====
section
/-! DEFINITION. The meaning of every instruction and of every step that has no word: one direct call each. -/
namespace Sys2Proof.Machine

/-- The meaning of an instruction on the moving core, or of a step of the machine. -/
def exec (i : Instr) (s : State) : Host.Outcome State Fault Refusal :=
  match i with
  | .beq ga gb off => Sys2Proof.Machine.execBeq ga gb off s
  | .bne ga gb off => Sys2Proof.Machine.execBne ga gb off s
  | .blt ga gb off => Sys2Proof.Machine.execBlt ga gb off s
  | .bge ga gb off => Sys2Proof.Machine.execBge ga gb off s
  | .bltu ga gb off => Sys2Proof.Machine.execBltu ga gb off s
  | .bgeu ga gb off => Sys2Proof.Machine.execBgeu ga gb off s
  | .j off => Sys2Proof.Machine.execJ off s
  | .jal gd off => Sys2Proof.Machine.execJal gd off s
  | .jalr gd ga imm => Sys2Proof.Machine.execJalr gd ga imm s
  | .ldb gd ga imm => Sys2Proof.Machine.execLdb gd ga imm s
  | .ldbz gd ga imm => Sys2Proof.Machine.execLdbz gd ga imm s
  | .ldh gd ga imm => Sys2Proof.Machine.execLdh gd ga imm s
  | .ldhz gd ga imm => Sys2Proof.Machine.execLdhz gd ga imm s
  | .ldw gd ga imm => Sys2Proof.Machine.execLdw gd ga imm s
  | .ldwz gd ga imm => Sys2Proof.Machine.execLdwz gd ga imm s
  | .ldd gd ga imm => Sys2Proof.Machine.execLdd gd ga imm s
  | .stb gd ga imm => Sys2Proof.Machine.execStb gd ga imm s
  | .sth gd ga imm => Sys2Proof.Machine.execSth gd ga imm s
  | .stw gd ga imm => Sys2Proof.Machine.execStw gd ga imm s
  | .std gd ga imm => Sys2Proof.Machine.execStd gd ga imm s
  | .ldbOrd gd ga ord sc => Sys2Proof.Machine.execLdbOrd gd ga ord sc s
  | .ldbzOrd gd ga ord sc => Sys2Proof.Machine.execLdbzOrd gd ga ord sc s
  | .ldhOrd gd ga ord sc => Sys2Proof.Machine.execLdhOrd gd ga ord sc s
  | .ldhzOrd gd ga ord sc => Sys2Proof.Machine.execLdhzOrd gd ga ord sc s
  | .ldwOrd gd ga ord sc => Sys2Proof.Machine.execLdwOrd gd ga ord sc s
  | .ldwzOrd gd ga ord sc => Sys2Proof.Machine.execLdwzOrd gd ga ord sc s
  | .lddOrd gd ga ord sc => Sys2Proof.Machine.execLddOrd gd ga ord sc s
  | .stbOrd ga gb ord sc => Sys2Proof.Machine.execStbOrd ga gb ord sc s
  | .sthOrd ga gb ord sc => Sys2Proof.Machine.execSthOrd ga gb ord sc s
  | .stwOrd ga gb ord sc => Sys2Proof.Machine.execStwOrd ga gb ord sc s
  | .stdOrd ga gb ord sc => Sys2Proof.Machine.execStdOrd ga gb ord sc s
  | .amoaddW gd ga gb ord sc => Sys2Proof.Machine.execAmoaddW gd ga gb ord sc s
  | .amoandW gd ga gb ord sc => Sys2Proof.Machine.execAmoandW gd ga gb ord sc s
  | .amoorW gd ga gb ord sc => Sys2Proof.Machine.execAmoorW gd ga gb ord sc s
  | .amoxorW gd ga gb ord sc => Sys2Proof.Machine.execAmoxorW gd ga gb ord sc s
  | .amominW gd ga gb ord sc => Sys2Proof.Machine.execAmominW gd ga gb ord sc s
  | .amomaxW gd ga gb ord sc => Sys2Proof.Machine.execAmomaxW gd ga gb ord sc s
  | .amominuW gd ga gb ord sc => Sys2Proof.Machine.execAmominuW gd ga gb ord sc s
  | .amomaxuW gd ga gb ord sc => Sys2Proof.Machine.execAmomaxuW gd ga gb ord sc s
  | .amoswpW gd ga gb ord sc => Sys2Proof.Machine.execAmoswpW gd ga gb ord sc s
  | .amocasW gd ga gb ord sc => Sys2Proof.Machine.execAmocasW gd ga gb ord sc s
  | .amofaddW gd ga gb ord sc => Sys2Proof.Machine.execAmofaddW gd ga gb ord sc s
  | .amoaddD gd ga gb ord sc => Sys2Proof.Machine.execAmoaddD gd ga gb ord sc s
  | .amoandD gd ga gb ord sc => Sys2Proof.Machine.execAmoandD gd ga gb ord sc s
  | .amoorD gd ga gb ord sc => Sys2Proof.Machine.execAmoorD gd ga gb ord sc s
  | .amoxorD gd ga gb ord sc => Sys2Proof.Machine.execAmoxorD gd ga gb ord sc s
  | .amominD gd ga gb ord sc => Sys2Proof.Machine.execAmominD gd ga gb ord sc s
  | .amomaxD gd ga gb ord sc => Sys2Proof.Machine.execAmomaxD gd ga gb ord sc s
  | .amominuD gd ga gb ord sc => Sys2Proof.Machine.execAmominuD gd ga gb ord sc s
  | .amomaxuD gd ga gb ord sc => Sys2Proof.Machine.execAmomaxuD gd ga gb ord sc s
  | .amoswpD gd ga gb ord sc => Sys2Proof.Machine.execAmoswpD gd ga gb ord sc s
  | .amocasD gd ga gb ord sc => Sys2Proof.Machine.execAmocasD gd ga gb ord sc s
  | .amofaddD gd ga gb ord sc => Sys2Proof.Machine.execAmofaddD gd ga gb ord sc s
  | .redaddW ga gb ord sc => Sys2Proof.Machine.execRedaddW ga gb ord sc s
  | .redaddD ga gb ord sc => Sys2Proof.Machine.execRedaddD ga gb ord sc s
  | .redfaddW ga gb ord sc => Sys2Proof.Machine.execRedfaddW ga gb ord sc s
  | .redmaxW ga gb ord sc => Sys2Proof.Machine.execRedmaxW ga gb ord sc s
  | .redmaxD ga gb ord sc => Sys2Proof.Machine.execRedmaxD ga gb ord sc s
  | .fence set sc => Sys2Proof.Machine.execFence set sc s
  | .relb ga gb sc => Sys2Proof.Machine.execRelb ga gb sc s
  | .acqb gd ga sc => Sys2Proof.Machine.execAcqb gd ga sc s
  | .clwb ga => Sys2Proof.Machine.execClwb ga s
  | .clinv ga => Sys2Proof.Machine.execClinv ga s
  | .pref ga gb ef priv => Sys2Proof.Machine.execPref ga gb ef priv s
  | .retain gd ga gb ways => Sys2Proof.Machine.execRetain gd ga gb ways s
  | .unpin gd ga => Sys2Proof.Machine.execUnpin gd ga s
  | .send ga gb m => Sys2Proof.Machine.execSend ga gb m s
  | .sendb ga gb m sc => Sys2Proof.Machine.execSendb ga gb m sc s
  | .recv gd m => Sys2Proof.Machine.execRecv gd m s
  | .recvany gd ga gb => Sys2Proof.Machine.execRecvany gd ga gb s
  | .peek gd gb m => Sys2Proof.Machine.execPeek gd gb m s
  | .cpy gd ga gb m sc => Sys2Proof.Machine.execCpy gd ga gb m sc s
  | .cpyf gd ga gb m sc => Sys2Proof.Machine.execCpyf gd ga gb m sc s
  | .aredFp32 gd ga gb m => Sys2Proof.Machine.execAredFp32 gd ga gb m s
  | .aredBf16 gd ga gb m => Sys2Proof.Machine.execAredBf16 gd ga gb m s
  | .tld ta ga gb band ef => Sys2Proof.Machine.execTld ta ga gb band ef s
  | .tst ta ga gb band ef => Sys2Proof.Machine.execTst ta ga gb band ef s
  | .tgth ta tb ga gb band ef => Sys2Proof.Machine.execTgth ta tb ga gb band ef s
  | .tsct ta tb ga gb band ef => Sys2Proof.Machine.execTsct ta tb ga gb band ef s
  | .tshapeSet ta ga => Sys2Proof.Machine.execTshapeSet ta ga s
  | .tshapeRead ta gb => Sys2Proof.Machine.execTshapeRead ta gb s
  | .tzero ta => Sys2Proof.Machine.execTzero ta s
  | .tmov ta tb => Sys2Proof.Machine.execTmov ta tb s
  | .tmovs ta ga gb size => Sys2Proof.Machine.execTmovs ta ga gb size s
  | .wld w fmt ga gb ef => Sys2Proof.Machine.execWld w fmt ga gb ef s
  | .wldt w tb => Sys2Proof.Machine.execWldt w tb s
  | .accsv a ga => Sys2Proof.Machine.execAccsv a ga s
  | .accld a ga mode => Sys2Proof.Machine.execAccld a ga mode s
  | .tkadd gd ga gb => Sys2Proof.Machine.execTkadd gd ga gb s
  | .tkaddb gd ga gb sc => Sys2Proof.Machine.execTkaddb gd ga gb sc s
  | .recvt gd ga lgw lgh => Sys2Proof.Machine.execRecvt gd ga lgw lgh s
  | .tkdone => Sys2Proof.Machine.execTkdone s
  | .tksnap ga gb => Sys2Proof.Machine.execTksnap ga gb s
  | .lnch gd ga gb => Sys2Proof.Machine.execLnch gd ga gb s
  | .bar lgw lgh m => Sys2Proof.Machine.execBar lgw lgh m s
  | .lkacq ga m => Sys2Proof.Machine.execLkacq ga m s
  | .lktry ga m => Sys2Proof.Machine.execLktry ga m s
  | .lkrel ga => Sys2Proof.Machine.execLkrel ga s
  | .mredAddI64 ga lgw lgh m => Sys2Proof.Machine.execMredAddI64 ga lgw lgh m s
  | .mredMaxI64 ga lgw lgh m => Sys2Proof.Machine.execMredMaxI64 ga lgw lgh m s
  | .mredMinI64 ga lgw lgh m => Sys2Proof.Machine.execMredMinI64 ga lgw lgh m s
  | .mredAndI64 ga lgw lgh m => Sys2Proof.Machine.execMredAndI64 ga lgw lgh m s
  | .mredOrI64 ga lgw lgh m => Sys2Proof.Machine.execMredOrI64 ga lgw lgh m s
  | .mredAddF32 ga lgw lgh m => Sys2Proof.Machine.execMredAddF32 ga lgw lgh m s
  | .mredMaxF32 ga lgw lgh m => Sys2Proof.Machine.execMredMaxF32 ga lgw lgh m s
  | .mredMinF32 ga lgw lgh m => Sys2Proof.Machine.execMredMinF32 ga lgw lgh m s
  | .sysrd gd n => Sys2Proof.Machine.execSysrd gd n s
  | .syswr ga n => Sys2Proof.Machine.execSyswr ga n s
  | .trap code => Sys2Proof.Machine.execTrap code s
  | .tret => Sys2Proof.Machine.execTret s
  | .xlatiRange ga gb p => Sys2Proof.Machine.execXlatiRange ga gb p s
  | .xlatiAsid ga p => Sys2Proof.Machine.execXlatiAsid ga p s
  | .xlatiAll p => Sys2Proof.Machine.execXlatiAll p s
  | .xlatp gd ga user acc => Sys2Proof.Machine.execXlatp gd ga user acc s
  | .ctxsv ga => Sys2Proof.Machine.execCtxsv ga s
  | .ctxld ga => Sys2Proof.Machine.execCtxld ga s
  | .halt => Sys2Proof.Machine.execHalt s
  | .nopC => Sys2Proof.Machine.execNopC s
  | .brk code => Sys2Proof.Machine.execBrk code s
  | .trcmark ga code => Sys2Proof.Machine.execTrcmark ga code s
  | .perfrd gd n => Sys2Proof.Machine.execPerfrd gd n s
  | .add gd ga gb => Sys2Proof.Machine.execAdd gd ga gb s
  | .sub gd ga gb => Sys2Proof.Machine.execSub gd ga gb s
  | .mul gd ga gb => Sys2Proof.Machine.execMul gd ga gb s
  | .mulh gd ga gb => Sys2Proof.Machine.execMulh gd ga gb s
  | .mulhu gd ga gb => Sys2Proof.Machine.execMulhu gd ga gb s
  | .div gd ga gb => Sys2Proof.Machine.execDiv gd ga gb s
  | .divu gd ga gb => Sys2Proof.Machine.execDivu gd ga gb s
  | .rem gd ga gb => Sys2Proof.Machine.execRem gd ga gb s
  | .remu gd ga gb => Sys2Proof.Machine.execRemu gd ga gb s
  | .and gd ga gb => Sys2Proof.Machine.execAnd gd ga gb s
  | .or gd ga gb => Sys2Proof.Machine.execOr gd ga gb s
  | .xor gd ga gb => Sys2Proof.Machine.execXor gd ga gb s
  | .sll gd ga gb => Sys2Proof.Machine.execSll gd ga gb s
  | .srl gd ga gb => Sys2Proof.Machine.execSrl gd ga gb s
  | .sra gd ga gb => Sys2Proof.Machine.execSra gd ga gb s
  | .slt gd ga gb => Sys2Proof.Machine.execSlt gd ga gb s
  | .sltu gd ga gb => Sys2Proof.Machine.execSltu gd ga gb s
  | .min gd ga gb => Sys2Proof.Machine.execMin gd ga gb s
  | .max gd ga gb => Sys2Proof.Machine.execMax gd ga gb s
  | .minu gd ga gb => Sys2Proof.Machine.execMinu gd ga gb s
  | .maxu gd ga gb => Sys2Proof.Machine.execMaxu gd ga gb s
  | .clz gd ga => Sys2Proof.Machine.execClz gd ga s
  | .ctz gd ga => Sys2Proof.Machine.execCtz gd ga s
  | .popc gd ga => Sys2Proof.Machine.execPopc gd ga s
  | .sel gd ga gb gc => Sys2Proof.Machine.execSel gd ga gb gc s
  | .addi gd ga imm => Sys2Proof.Machine.execAddi gd ga imm s
  | .slti gd ga imm => Sys2Proof.Machine.execSlti gd ga imm s
  | .andi gd ga imm => Sys2Proof.Machine.execAndi gd ga imm s
  | .ori gd ga imm => Sys2Proof.Machine.execOri gd ga imm s
  | .xori gd ga imm => Sys2Proof.Machine.execXori gd ga imm s
  | .slli gd ga sh => Sys2Proof.Machine.execSlli gd ga sh s
  | .srli gd ga sh => Sys2Proof.Machine.execSrli gd ga sh s
  | .srai gd ga sh => Sys2Proof.Machine.execSrai gd ga sh s
  | .lhi gd imm => Sys2Proof.Machine.execLhi gd imm s
  | .bfxz gd ga pos width => Sys2Proof.Machine.execBfxz gd ga pos width s
  | .bfxs gd ga pos width => Sys2Proof.Machine.execBfxs gd ga pos width s
  | .bfins gd ga pos width => Sys2Proof.Machine.execBfins gd ga pos width s
  | .fadd gd ga gb rnd => Sys2Proof.Machine.execFadd gd ga gb rnd s
  | .fsub gd ga gb rnd => Sys2Proof.Machine.execFsub gd ga gb rnd s
  | .fmul gd ga gb rnd => Sys2Proof.Machine.execFmul gd ga gb rnd s
  | .fmin gd ga gb => Sys2Proof.Machine.execFmin gd ga gb s
  | .fmax gd ga gb => Sys2Proof.Machine.execFmax gd ga gb s
  | .fcvtif gd ga rnd => Sys2Proof.Machine.execFcvtif gd ga rnd s
  | .fcvtfi gd ga rnd => Sys2Proof.Machine.execFcvtfi gd ga rnd s
  | .fcmp gd ga gb cond => Sys2Proof.Machine.execFcmp gd ga gb cond s
  | .ffma gd ga gb gc rnd => Sys2Proof.Machine.execFfma gd ga gb gc rnd s
  | .tadd td ta tb sat rnd => Sys2Proof.Machine.execTadd td ta tb sat rnd s
  | .tsub td ta tb sat rnd => Sys2Proof.Machine.execTsub td ta tb sat rnd s
  | .tmul td ta tb sat rnd => Sys2Proof.Machine.execTmul td ta tb sat rnd s
  | .tfma td ta tb tc sat rnd => Sys2Proof.Machine.execTfma td ta tb tc sat rnd s
  | .tmax td ta tb => Sys2Proof.Machine.execTmax td ta tb s
  | .tmin td ta tb => Sys2Proof.Machine.execTmin td ta tb s
  | .tand td ta tb => Sys2Proof.Machine.execTand td ta tb s
  | .tor td ta tb => Sys2Proof.Machine.execTor td ta tb s
  | .txor td ta tb => Sys2Proof.Machine.execTxor td ta tb s
  | .tsel td ta tb tc => Sys2Proof.Machine.execTsel td ta tb tc s
  | .tcmp td ta tb cond => Sys2Proof.Machine.execTcmp td ta tb cond s
  | .tscl td ta gb sat rnd => Sys2Proof.Machine.execTscl td ta gb sat rnd s
  | .tclamp td ta gb sat rnd => Sys2Proof.Machine.execTclamp td ta gb sat rnd s
  | .tabs td ta sat => Sys2Proof.Machine.execTabs td ta sat s
  | .tneg td ta sat => Sys2Proof.Machine.execTneg td ta sat s
  | .texp2 td ta sat rnd => Sys2Proof.Machine.execTexp2 td ta sat rnd s
  | .tlog2 td ta sat rnd => Sys2Proof.Machine.execTlog2 td ta sat rnd s
  | .trcp td ta sat rnd => Sys2Proof.Machine.execTrcp td ta sat rnd s
  | .trsq td ta sat rnd => Sys2Proof.Machine.execTrsq td ta sat rnd s
  | .tsqrt td ta sat rnd => Sys2Proof.Machine.execTsqrt td ta sat rnd s
  | .tcvt td ta part fmt sat rnd => Sys2Proof.Machine.execTcvt td ta part fmt sat rnd s
  | .tqnt td ta blk ty sat rnd => Sys2Proof.Machine.execTqnt td ta blk ty sat rnd s
  | .tred td ta op col sat rnd => Sys2Proof.Machine.execTred td ta op col sat rnd s
  | .tbc td ta gb mode => Sys2Proof.Machine.execTbc td ta gb mode s
  | .ttr td ta => Sys2Proof.Machine.execTtr td ta s
  | .tiota td ta gb sat rnd => Sys2Proof.Machine.execTiota td ta gb sat rnd s
  | .trnd td ta gb mode sat rnd => Sys2Proof.Machine.execTrnd td ta gb mode sat rnd s
  | .mma a t w q => Sys2Proof.Machine.execMma a t w q s
  | .mmaz a t w q => Sys2Proof.Machine.execMmaz a t w q s
  | .accz a mode => Sys2Proof.Machine.execAccz a mode s
  | .drain a t gs q h he sat rnd => Sys2Proof.Machine.execDrain a t gs q h he sat rnd s
  | .hstrd t h => Sys2Proof.Machine.execHstrd t h s
  | .hstclr h => Sys2Proof.Machine.execHstclr h s
  | .xnop => Sys2Proof.Machine.execXnop s
  | .markTableClear core => Sys2Proof.Machine.execMarkTableClear core s
  | .homeRead ix => Sys2Proof.Machine.execHomeRead ix s
  | .hbmFill line => Sys2Proof.Machine.execHbmFill line s
  | .fillArrival ix => Sys2Proof.Machine.execFillArrival ix s
  | .storeRound ix => Sys2Proof.Machine.execStoreRound ix s
  | .sharerUpdate ix => Sys2Proof.Machine.execSharerUpdate ix s
  | .updateAck ix => Sys2Proof.Machine.execUpdateAck ix s
  | .roundCommit ix => Sys2Proof.Machine.execRoundCommit ix s
  | .storeDone ix => Sys2Proof.Machine.execStoreDone ix s
  | .evictionNotice ix => Sys2Proof.Machine.execEvictionNotice ix s
  | .recall ix => Sys2Proof.Machine.execRecall ix s
  | .gatherRequest ix => Sys2Proof.Machine.execGatherRequest ix s
  | .gRecall ix => Sys2Proof.Machine.execGRecall ix s
  | .gatheredCopy ix => Sys2Proof.Machine.execGatheredCopy ix s
  | .wayRequest ix => Sys2Proof.Machine.execWayRequest ix s
  | .amoAtHome ix => Sys2Proof.Machine.execAmoAtHome ix s
  | .amoReply ix => Sys2Proof.Machine.execAmoReply ix s
  | .scratchpadPortAccess ix => Sys2Proof.Machine.execScratchpadPortAccess ix s
  | .hostAgentRequest ix => Sys2Proof.Machine.execHostAgentRequest ix s
  | .hostCompletion ix r => Sys2Proof.Machine.execHostCompletion ix r s
  | .peerAccess ix => Sys2Proof.Machine.execPeerAccess ix s
  | .postedRefusal ix => Sys2Proof.Machine.execPostedRefusal ix s
  | .machineCheckPosted core => Sys2Proof.Machine.execMachineCheckPosted core s
  | .uLineAgeExpiry core line => Sys2Proof.Machine.execULineAgeExpiry core line s
  | .carryFrameShift core => Sys2Proof.Machine.execCarryFrameShift core s
  | .accessLockTimeout ix => Sys2Proof.Machine.execAccessLockTimeout ix s
  | .requestPromotion ix => Sys2Proof.Machine.execRequestPromotion ix s
  | .escapeChannelMove ix => Sys2Proof.Machine.execEscapeChannelMove ix s
  | .sharedPointPromotion ix => Sys2Proof.Machine.execSharedPointPromotion ix s
  | .copyMark job => Sys2Proof.Machine.execCopyMark job s
  | .copyEngineWrite job line memErr => Sys2Proof.Machine.execCopyEngineWrite job line memErr s
  | .copyCompletion job => Sys2Proof.Machine.execCopyCompletion job s
  | .aredMatch k peerBuf peerBf16 => Sys2Proof.Machine.execAredMatch k peerBuf peerBf16 s
  | .aredChunk k chunk incoming => Sys2Proof.Machine.execAredChunk k chunk incoming s
  | .aredCompletion k => Sys2Proof.Machine.execAredCompletion k s
  | .retentionRequest ix => Sys2Proof.Machine.execRetentionRequest ix s
  | .stcRequest ix => Sys2Proof.Machine.execStcRequest ix s
  | .walkComplete ix => Sys2Proof.Machine.execWalkComplete ix s
  | .atsCompletion k ans => Sys2Proof.Machine.execAtsCompletion k ans s
  | .priResponse pset index pasid code => Sys2Proof.Machine.execPriResponse pset index pasid code s
  | .atsInvalidation vf pasid base len => Sys2Proof.Machine.execAtsInvalidation vf pasid base len s
  | .xlatiRemoval ix => Sys2Proof.Machine.execXlatiRemoval ix s
  | .boundaryDrop ix cell port => Sys2Proof.Machine.execBoundaryDrop ix cell port s
  | .messageArrival ix => Sys2Proof.Machine.execMessageArrival ix s
  | .loftMove core task => Sys2Proof.Machine.execLoftMove core task s
  | .sendRetry ix => Sys2Proof.Machine.execSendRetry ix s
  | .mailboxOverflow core => Sys2Proof.Machine.execMailboxOverflow core s
  | .taskArrival ix => Sys2Proof.Machine.execTaskArrival ix s
  | .stealRequest ix => Sys2Proof.Machine.execStealRequest ix s
  | .stealReply ix => Sys2Proof.Machine.execStealReply ix s
  | .taskCompletionReport ix => Sys2Proof.Machine.execTaskCompletionReport ix s
  | .episodeContribution ix => Sys2Proof.Machine.execEpisodeContribution ix s
  | .qportWrite pset queue off value => Sys2Proof.Machine.execQportWrite pset queue off value s
  | .dispatch pset => Sys2Proof.Machine.execDispatch pset s
  | .preemptionSave core => Sys2Proof.Machine.execPreemptionSave core s
  | .launchStart launch => Sys2Proof.Machine.execLaunchStart launch s
  | .streamResume launch => Sys2Proof.Machine.execStreamResume launch s
  | .lateRingAppend ix => Sys2Proof.Machine.execLateRingAppend ix s
  | .sweep launch => Sys2Proof.Machine.execSweep launch s
  | .launchEnd launch => Sys2Proof.Machine.execLaunchEnd launch s
  | .lnchRequest ix => Sys2Proof.Machine.execLnchRequest ix s
  | .lockRequest ix => Sys2Proof.Machine.execLockRequest ix s
  | .lockLink ix => Sys2Proof.Machine.execLockLink ix s
  | .handoff ix => Sys2Proof.Machine.execHandoff ix s
  | .lockMoved ix => Sys2Proof.Machine.execLockMoved ix s
  | .lockFree ix => Sys2Proof.Machine.execLockFree ix s
  | .lockFreed ix => Sys2Proof.Machine.execLockFreed ix s
  | .withdraw ix => Sys2Proof.Machine.execWithdraw ix s
  | .lockPass ix => Sys2Proof.Machine.execLockPass ix s
  | .withdrawRetry ix => Sys2Proof.Machine.execWithdrawRetry ix s
  | .lockWaitTimeout core line => Sys2Proof.Machine.execLockWaitTimeout core line s
  | .lockSaved ix => Sys2Proof.Machine.execLockSaved ix s
  | .lockResume ix => Sys2Proof.Machine.execLockResume ix s
  | .probeTimer core line => Sys2Proof.Machine.execProbeTimer core line s
  | .probe ix => Sys2Proof.Machine.execProbe ix s
  | .quiesce pset => Sys2Proof.Machine.execQuiesce pset s
  | .quiesceComplete pset => Sys2Proof.Machine.execQuiesceComplete pset s
  | .quiesceLimit pset => Sys2Proof.Machine.execQuiesceLimit pset s
  | .flush pset => Sys2Proof.Machine.execFlush pset s
  | .flushComplete pset => Sys2Proof.Machine.execFlushComplete pset s
  | .paddockResume pset => Sys2Proof.Machine.execPaddockResume pset s
  | .kill pset value => Sys2Proof.Machine.execKill pset value s
  | .prictlWrite pset value => Sys2Proof.Machine.execPrictlWrite pset value s
  | .loftctlWrite core value => Sys2Proof.Machine.execLoftctlWrite core value s
  | .linkWindowWrite entry word value => Sys2Proof.Machine.execLinkWindowWrite entry word value s
  | .linkWindowTable table => Sys2Proof.Machine.execLinkWindowTable table s
  | .rrctlWrite pset value => Sys2Proof.Machine.execRrctlWrite pset value s
  | .replayDiverge pset seg => Sys2Proof.Machine.execReplayDiverge pset seg s
  | .haltreq core => Sys2Proof.Machine.execHaltreq core s
  | .debugHalt core => Sys2Proof.Machine.execDebugHalt core s
  | .debugResume core => Sys2Proof.Machine.execDebugResume core s
  | .debugStep core => Sys2Proof.Machine.execDebugStep core s
  | .traceSinkWrite core faulted => Sys2Proof.Machine.execTraceSinkWrite core faulted s
  | .traceOverflow core => Sys2Proof.Machine.execTraceOverflow core s
  | .registerWrite by_ pa value => Sys2Proof.Machine.execRegisterWrite by_ pa value s
  | .scrub loc double => Sys2Proof.Machine.execScrub loc double s
  | .coreLoss core => Sys2Proof.Machine.execCoreLoss core s
  | .coreLossNiTimeout core => Sys2Proof.Machine.execCoreLossNiTimeout core s
  | .ackTimeout line sharer => Sys2Proof.Machine.execAckTimeout line sharer s
  | .machineCheckFenceOff core => Sys2Proof.Machine.execMachineCheckFenceOff core s
  | .beatReplay cell port => Sys2Proof.Machine.execBeatReplay cell port s
  | .meshLinkFailure cell port => Sys2Proof.Machine.execMeshLinkFailure cell port s
  | .detourComputed cell port => Sys2Proof.Machine.execDetourComputed cell port s
  | .ucieLaneLoss module => Sys2Proof.Machine.execUcieLaneLoss module s
  | .ucieRetrainDone module ok => Sys2Proof.Machine.execUcieRetrainDone module ok s
  | .dieWarmReset die => Sys2Proof.Machine.execDieWarmReset die s
  | .dieReadmit die failed => Sys2Proof.Machine.execDieReadmit die failed s
  | .powerControl quarter overCap => Sys2Proof.Machine.execPowerControl quarter overCap s
  | .pwrctlCap value => Sys2Proof.Machine.execPwrctlCap value s
  | .thermalThrottle quarter => Sys2Proof.Machine.execThermalThrottle quarter s
  | .thermalShutdown => Sys2Proof.Machine.execThermalShutdown s
  | .ageingReplan quarter raise limitHit => Sys2Proof.Machine.execAgeingReplan quarter raise limitHit s
  | .cardReset => Sys2Proof.Machine.execCardReset s
  | .perstDeassert => Sys2Proof.Machine.execPerstDeassert s
  | .imageVerified slotA slotB => Sys2Proof.Machine.execImageVerified slotA slotB s
  | .selfTestComplete failed => Sys2Proof.Machine.execSelfTestComplete failed s
  | .configurationRequest => Sys2Proof.Machine.execConfigurationRequest s
  | .feataccWrite value => Sys2Proof.Machine.execFeataccWrite value s
  | .sahaxTraining peerId => Sys2Proof.Machine.execSahaxTraining peerId s
  | .sahaxTrainTimeout => Sys2Proof.Machine.execSahaxTrainTimeout s
  | .paddockActivation config => Sys2Proof.Machine.execPaddockActivation config s
  | .hostBar2Access vf off size write => Sys2Proof.Machine.execHostBar2Access vf off size write s
  | .sahaxFlit seq ack bad body => Sys2Proof.Machine.execSahaxFlit seq ack bad body s
  | .sahaxNak seq => Sys2Proof.Machine.execSahaxNak seq s
  | .sahaxLinkLoss => Sys2Proof.Machine.execSahaxLinkLoss s
  | .sahaxRetrainAttempt peerId => Sys2Proof.Machine.execSahaxRetrainAttempt peerId s
  | .sahaxRetrainComplete => Sys2Proof.Machine.execSahaxRetrainComplete s
  | .hbmWriteComplete ix => Sys2Proof.Machine.execHbmWriteComplete ix s

end Sys2Proof.Machine
end

