-- ==== Sys2Proof/Machine/Sched.lean ====
section
/-! DEFINITION. What moves where the agenda names nothing (log entry 4), and how an instruction is placed before the fetch (log
entry 5). -/
namespace Sys2Proof.Machine

/-! ### What is due -/

/-- A first answer among several. -/
def firstOf (xs : List (Option State)) : Option State := xs.findSome? id
/-- Serving something has moved the state on. -/
def progress (s t : State) : Bool :=
  t.stamp != s.stamp || t.xreqs.length != s.xreqs.length || t.ats.length != s.ats.length || t.dir != s.dir
/-- A save or a resumption has moved the state on; where its page has to wait it may not. -/
def frameMove (s t : State) : Option State := if progress s t || t.launches != s.launches || t.lockNet != s.lockNet then some t else none
/-- A launch's own next move: its end, its start, its resumption, a save, or a sweep that matches. -/
def launchDue (s : State) (l : Launch) : Option State :=
  let t := s.launchEnds l.id
  if t.launches.length < s.launches.length || (l.saveFault && l.st != .killed) then some t
  else if readyToStart s l && l.unstarted then some (s.startLaunch l.id)
  else if readyToStart s l && l.streams.all (·.inFrame) then frameMove s (s.resumeLaunch l.id)
  else if l.st == .preempting then
    l.streams.findSome? fun t => if (saveMove s l t (s.core t.core)).isSome then frameMove s (s.saveStream t.core) else none
  else
    let lives := l.streams.filter (·.st == .live)
    if l.st == .running && !l.done && !lives.isEmpty && lives.all (fun t => idleIn s (s.core t.core)) then
      let t := s.sweepLaunch l.id
      (match t.launchOf l.id with
        | some m => if m.done || m.swept != l.swept then some t else none
        | none => none)
    else none
/-- What a dispatcher's step can change: launches, records and the resume list of its set. -/
def dispatchMark (s : State) (n : Nat) : Nat × Nat × Nat :=
  (s.launches.length, ((s.pad n).queues.toList.map (·.recs.length)).sum, (s.pad n).resumeList.length)
/-- A set's own next move: a placement, the end of a quiesce or of a flush. -/
def setDue (s : State) (n : Nat) : Option State :=
  let p := s.pad n
  if p.flushing then (match s.flushOne n with | some t => some t.settle | none => s.flushDone n)
  else
    let t := if p.active then s.dispatchOne n else s
    if dispatchMark t n != dispatchMark s n then some t
    else
      let u := s.quiesceDone n
      if (u.pad n).st != p.st then some u else none
/-- A trace encoder's bytes go to its sink. -/
def traceDue (s : State) : Option State :=
  (s.allCores.filter fun c => !c.trc.buf.isEmpty).findSome? fun c => s.sinkWrite c.id false
/-- The fill of a line in W (R165). -/
def fillDue (s : State) : Option State := s.dir.findSome? fun d => if d.st == .w then some (s.fillLine d.line) else none
/-- A lofted record that has room in its queue moves there (R247). -/
def loftDue (s : State) : Option State :=
  s.allCores.findSome? fun c => match loftMoveOne s c.id false with
    | some t => some t
    | none => loftMoveOne s c.id true
/-- A late ring's oldest record that its stream's NI has room for (R279). -/
def lateDue (s : State) : Option State :=
  s.launches.findSome? fun l => l.streams.findSome? fun t =>
    if t.late.isEmpty || !t.onCell || t.leaving then none
    else
      let u := drainLate l.id t.rx t.ry 1 s
      match (u.launchOf l.id).bind (·.stream t.rx t.ry) with
      | some v => if v.late.length < t.late.length then some u else none
      | none => none
/-- A translation request that moves on (R358, R359). -/
def xlatDue (s : State) : Option State :=
  (List.range s.xreqs.length).findSome? fun i => match s.xreqs[i]?, s.serveXreq i with
    | some r, some t => if !r.walking || progress s t then some t else none
    | _, _ => none
/-- The next of the things in flight that can move, where the agenda names nothing. Some wait for the outside: the host's answers to
translation requests, the peer's all-reduces. -/
def due (s : State) : Option State :=
  firstOf [serveByClass s, fillDue s, serveNiFirst s s.ni.length 0, lateDue s, loftDue s,
    (List.range s.lockNet.length).findSome? s.retryWithdraw, xlatDue s, (List.range s.prefs.length).findSome? s.retryPref,
    serveCtlFirst s s.ctl.length 0, s.jobs.findSome? fun j => s.jobStep j.id,
    s.areds.findSome? fun a => if a.matched then s.aredDone a.id else none, s.launches.findSome? (launchDue s),
    (List.range 7).findSome? s.dumpStep, (List.range 7).findSome? (setDue s), traceDue s, s.hostReads.findSome? s.retryRead, ackDue s]
/-- The running core whose turn comes next, in ascending order after the moving one and around. -/
def nextCore (s : State) : Option Nat :=
  let ks := (s.cores.filter (·.run == .running)).map (·.id)
  match ks.find? (s.me.id < ·) with
  | some k => some k
  | none => match ks with
    | k :: _ => some k
    | [] => if s.me.run == .running then some s.me.id else none
/-- The moving core has a bundle to run without waiting for anything. -/
def State.ready (s : State) : Bool := s.me.run == .running && s.me.res != .waiting
/-- A move with nothing on the agenda and nothing for the moving core to do: what is due, else the next core's turn, else time
passes. -/
def idleMove (ex : Instr → State → Result) (s : State) : Result :=
  match due s with
  | some t => .next t
  | none => match nextCore s with
    | some k => turn ex (s.switchTo k)
    | none => .next s.tock
/-- A move of the agenda. -/
def agendaMove (ex : Instr → State → Result) (m : Move) (s : State) : Result :=
  match m with
  | .event i => if (encode i).isNone then ex i s else .fault .notAnEvent
  | .run k => if (s.core k).run == .running then turn ex (s.switchTo k) else .next s

/-! ### An instruction placed before the fetch (log entry 5) -/

/-- The page that holds the placed instruction: user code at 0x1_0000, in the first stack. -/
def programPage : Xlat :=
  { asid := 1, va := 0x10000, size := 4096, pa := 0x10000, r := true, w := false, x := true, u := true, dx := false, host := false }
/-- Core 0 as it runs a stream of a launch of one cell, about to fetch at 0x1_0000. -/
def programCore : Core :=
  { resetCore 0 with run := .running, launch := some 1, paddock := 6, tag := 6, pc := 0x10000, npc := 0x10000, arrived := false, asid := 1,
                     cwin := 0x7FF000000000, ctc := [programPage] }
/-- The launch of that stream. -/
def programLaunch : Launch :=
  { id := 1, pset := 6, queue := 0, seq := 0, record := 0, gen := 0, st := .running, ox := 0, oy := 0, successor := false,
    streams := (waitingStreams 1 1).map fun t => { t with st := .live }, mismatch := false, dropped := 0, done := false, swept := none, awaits := [],
    saveFault := false, resent := 0 }
/-- The card as firmware and a runtime would have set it up for that stream: features accepted, the whole card one paddock. -/
def State.loaded (s : State) : State :=
  { s with me := programCore, cores := putCore (s.cores.filter (·.id != 0)) s.me, launches := [programLaunch], nextId := 2,
           boot := { s.boot with stage := 6, done := true, answered := true, featdev := 0xFF, featacc := 0xFF, dies := Vector.replicate 2 0xFF },
           pads := s.pads.set (padIx 6) { resetPaddock 6 with cmask := BitVec.allOnes 192, ncode := 2, stackMask := 15 } }
/-- A word, and zeros after it, stored where the moving core fetches next; none if it cannot fetch there. -/
def storeAtPc (s : State) (w : Nat) : Option State :=
  if s.me.isYard then some (s.onMe fun c => { c with sram := c.sram.writeN c.pc.toNat w 8 })
  else match s.fetchPlace s.me.pc with
    | .ok s pa => some { s with mem := s.mem.writeN pa w 8, me := { s.me with code := [] } }
    | _ => none
/-- The state with an instruction where the next fetch takes it. A card that runs no program yet is given one stream first. -/
def placeWord (s : State) (w : Nat) : State :=
  let me : Core :=
    { s.me with asyncs := [], dbg := freshDebug, arrived := false, res := .retired, bundle := none, behind := false, pend := .none }
  let s := { s with agenda := [], me := me }
  let fresh : State := match storeAtPc s.loaded w with | some t => t | none => s.loaded
  if s.me.run == .running then (match storeAtPc s w with | some t => t | none => fresh) else fresh

end Sys2Proof.Machine
end

