-- ==== Sys2Proof/Machine/Step.lean ====
section
/-! DEFINITION. One step of the card: the agenda's next move, else the moving core's next bundle, else what is due. -/
namespace Sys2Proof.Machine

/-- One step (log entry 4). -/
def step (s : State) : Host.Outcome State Fault Refusal :=
  match s.agenda with
  | m :: rest => agendaMove exec m { s with agenda := rest }
  | [] => if s.ready then turn exec s else idleMove exec s

/-- The state with the instruction of a word stored where the next step fetches (log entry 5). Every instruction has 32 bits. -/
def State.withFetchWord (s : State) (nbits w : Nat) : State := placeWord s (w % 2 ^ (min nbits 32))

end Sys2Proof.Machine
end

