-- ==== Sys2Proof/Safety.lean ====
section
/-! DEFINITION. The terms in which statements are made: what a step leaves unchanged (its frame), what retiring a bundle and taking a
trap do, and results written from the spec's own words, apart from the meanings. -/
namespace Sys2Proof.Machine

/-! ### Frames -/

/-- The registers and the bytes of memory that a step may change; whatever it does not name stays. -/
structure Footprint where
  g : List GReg := []
  t : List TReg := []
  a : List AReg := []
  w : List TReg := []
  h : List AReg := []
  m : List MReg := []
  /-- The sticky flags. -/
  flags : Bool := false
  /-- The generator. -/
  gen : Bool := false
  /-- The brand, its carry and BRHITS. -/
  brand : Bool := false
  /-- STATUS, EPC, ECAUSE, EVA and EROW. -/
  trap : Bool := false
  /-- ESCRATCH, STVEC and ASID. -/
  sys : Bool := false
  /-- Byte ranges of memory: first address and length. -/
  mem : List (Nat × Nat) := []
  deriving DecidableEq, Repr
/-- A core's architectural state but for what a footprint names: registers, flags, special and exception registers (R35, R349). -/
structure SameCore (f : Footprint) (c d : Core) : Prop where
  g : ∀ r, r ∉ f.g → d.reg r = c.reg r
  t : ∀ r, r ∉ f.t → d.t[r] = c.t[r]
  a : ∀ r, r ∉ f.a → d.a[r] = c.a[r]
  w : ∀ r, r ∉ f.w → d.w[r] = c.w[r]
  h : ∀ r, r ∉ f.h → d.h[r] = c.h[r]
  m : ∀ r, r ∉ f.m → d.mbox[r] = c.mbox[r]
  flags : f.flags = false → d.vstat = c.vstat
  gen : f.gen = false → d.gen = c.gen
  brand : f.brand = false → d.brand = c.brand ∧ d.carry = c.carry ∧ d.brhits = c.brhits
  trap : f.trap = false → d.status = c.status ∧ d.epc = c.epc ∧ d.ecause = c.ecause ∧ d.eva = c.eva ∧ d.erow = c.erow
  sys : f.sys = false → d.escratch = c.escratch ∧ d.stvec = c.stvec ∧ d.asid = c.asid
  cwin : d.cwin = c.cwin
  genNum : d.genNum = c.genNum
  paddock : d.paddock = c.paddock
/-- An address lies in none of some byte ranges. -/
def Outside (rs : List (Nat × Nat)) (x : Nat) : Prop := ∀ r ∈ rs, ¬(r.1 ≤ x ∧ x < r.1 + r.2)
/-- What a step of the moving core leaves as it was: its own state but for the footprint, every other core's, and every byte of
memory outside the footprint's ranges. -/
structure Frame (f : Footprint) (s t : State) : Prop where
  me : SameCore f s.me t.me
  id : t.me.id = s.me.id
  others : ∀ k, k ≠ s.me.id → SameCore {} (s.core k) (t.core k)
  mem : ∀ x, Outside f.mem x → t.mem.read x = s.mem.read x

/-! ### Retiring, waiting and trapping -/

/-- The bundle has retired and the pc stands at the address after it (R20). -/
structure Retired (s t : State) : Prop where
  pc : t.me.pc = s.me.npc
  res : t.me.res = .retired
  count : t.me.nBundles = s.me.nBundles + 1
/-- The bundle has retired and the core arrives at a target (R41). -/
structure ArrivesAt (target : Word) (s t : State) : Prop where
  pc : t.me.pc = target
  arrived : t.me.arrived = true
  res : t.me.res = .retired
  count : t.me.nBundles = s.me.nBundles + 1
/-- The bundle waits, and will be tried again from the same pc. -/
structure Waits (s t : State) : Prop where
  pc : t.me.pc = s.me.pc
  res : t.me.res = .waiting
  count : t.me.nBundles = s.me.nBundles
/-- The moving core has taken a trap with a given EPC (R348): the trap registers, STATUS with INTRAP, PLV from the level, and level
1 (3 on a yard controller), and the arrival at STVEC; nothing else of the architectural state is changed. -/
structure Trapped (k : Trap) (epc : Word) (s t : State) : Prop where
  epc : t.me.epc = epc
  ecause : t.me.ecause = BitVec.ofNat 64 (k.cause * 2 ^ 24 + k.kind * 2 ^ 16 + k.code % 1024)
  eva : t.me.eva = k.va
  erow : t.me.erow = BitVec.ofNat 64 k.row
  inTrap : t.me.inTrap = true
  plv : t.me.plv = s.me.level
  level : t.me.level = if s.me.isYard then 3 else 1
  pc : t.me.pc = s.me.stvec
  res : t.me.res = .trapped
  frame : Frame { trap := true } s t
/-- Nothing moves of itself: what is sent travels until a step of its own, or nothing is on its way (log entry 6). -/
def Calm (s : State) : Prop :=
  s.lazy = true ∨ (s.net = [] ∧ s.ni = [] ∧ s.lockNet = [] ∧ s.ctl = [] ∧ s.xreqs = [] ∧ s.me.loft = [])
/-- The value that a register holds once v is written to it: g0 stays zero (R35). -/
def held (gd : GReg) (v : Word) : Word := if gd = 0 then 0 else v

/-! ### Integer results (R138 to R142) -/

/-- 1 for a true comparison, 0 for a false one. -/
def oneIf (p : Prop) [Decidable p] : Word := if p then 1 else 0
/-- What the spec's tables say a scalar integer instruction writes, and where: arithmetic on the signed or unsigned reading of the
operands, modulo 2^64 (R138 to R141). Division's results by zero are those of R139. -/
def integerResult (c : Core) : Instr → Option (GReg × Word)
  | .add gd ga gb => some (gd, BitVec.ofInt 64 ((c.reg ga).toInt + (c.reg gb).toInt))
  | .sub gd ga gb => some (gd, BitVec.ofInt 64 ((c.reg ga).toInt - (c.reg gb).toInt))
  | .mul gd ga gb => some (gd, BitVec.ofInt 64 ((c.reg ga).toInt * (c.reg gb).toInt))
  | .mulh gd ga gb => some (gd, BitVec.ofInt 64 (((c.reg ga).toInt * (c.reg gb).toInt).fdiv (2 ^ 64)))
  | .mulhu gd ga gb => some (gd, ((((c.reg ga).setWidth 128) * ((c.reg gb).setWidth 128)) >>> 64).setWidth 64)
  | .div gd ga gb => some (gd, if c.reg gb = 0 then BitVec.allOnes 64 else (c.reg ga).sdiv (c.reg gb))
  | .divu gd ga gb => some (gd, if c.reg gb = 0 then BitVec.allOnes 64 else (c.reg ga) / (c.reg gb))
  | .rem gd ga gb => some (gd, (c.reg ga).srem (c.reg gb))
  | .remu gd ga gb => some (gd, (c.reg ga) % (c.reg gb))
  | .and gd ga gb => some (gd, c.reg ga &&& c.reg gb)
  | .or gd ga gb => some (gd, c.reg ga ||| c.reg gb)
  | .xor gd ga gb => some (gd, c.reg ga ^^^ c.reg gb)
  | .sll gd ga gb => some (gd, c.reg ga <<< ((c.reg gb).setWidth 6))
  | .srl gd ga gb => some (gd, c.reg ga >>> ((c.reg gb).setWidth 6))
  | .sra gd ga gb => some (gd, (c.reg ga).sshiftRight' ((c.reg gb).setWidth 6))
  | .slt gd ga gb => some (gd, oneIf ((c.reg ga).toInt < (c.reg gb).toInt))
  | .sltu gd ga gb => some (gd, oneIf ((c.reg ga).toNat < (c.reg gb).toNat))
  | .min gd ga gb => some (gd, BitVec.ofInt 64 (min (c.reg ga).toInt (c.reg gb).toInt))
  | .max gd ga gb => some (gd, BitVec.ofInt 64 (max (c.reg ga).toInt (c.reg gb).toInt))
  | .minu gd ga gb => some (gd, BitVec.ofNat 64 (min (c.reg ga).toNat (c.reg gb).toNat))
  | .maxu gd ga gb => some (gd, BitVec.ofNat 64 (max (c.reg ga).toNat (c.reg gb).toNat))
  | .sel gd ga gb gc => some (gd, if c.reg gc = 0 then c.reg gb else c.reg ga)
  | .addi gd ga imm => some (gd, BitVec.ofInt 64 ((c.reg ga).toInt + imm.toInt))
  | .slti gd ga imm => some (gd, oneIf ((c.reg ga).toInt < imm.toInt))
  | .andi gd ga imm => some (gd, BitVec.ofNat 64 ((c.reg ga).toNat &&& imm.toNat))
  | .ori gd ga imm => some (gd, BitVec.ofNat 64 ((c.reg ga).toNat ||| imm.toNat))
  | .xori gd ga imm => some (gd, BitVec.ofNat 64 ((c.reg ga).toNat ^^^ imm.toNat))
  | .slli gd ga sh => some (gd, BitVec.ofNat 64 ((c.reg ga).toNat * 2 ^ sh.toNat))
  | .srli gd ga sh => some (gd, BitVec.ofNat 64 ((c.reg ga).toNat / 2 ^ sh.toNat))
  | .srai gd ga sh => some (gd, BitVec.ofInt 64 ((c.reg ga).toInt.fdiv (2 ^ sh.toNat)))
  | .lhi gd imm => some (gd, BitVec.ofInt 64 (imm.toInt * 4096))
  | _ => none
/-- v counts the zeros above the highest one bit of a (R138). -/
def CountsLeading (a v : Word) : Prop :=
  if a = 0 then v = 64 else ∃ n, v = BitVec.ofNat 64 n ∧ n < 64 ∧ a.getLsbD (63 - n) = true ∧ ∀ j, 63 - n < j → a.getLsbD j = false
/-- v counts the zeros below the lowest one bit of a (R138). -/
def CountsTrailing (a v : Word) : Prop :=
  if a = 0 then v = 64 else ∃ n, v = BitVec.ofNat 64 n ∧ n < 64 ∧ a.getLsbD n = true ∧ ∀ j, j < n → a.getLsbD j = false
/-- v counts the one bits of a (R138). -/
def CountsOnes (a v : Word) : Prop := v = BitVec.ofNat 64 ((List.range 64).countP fun j => a.getLsbD j)
/-- The bit of BFXZ's and BFXS's source at k: above 63 it reads as `ext` (R142). -/
def bitOf (a : Word) (k : Nat) (ext : Bool) : Bool := if k < 64 then a.getLsbD k else ext
/-- BFXZ bit by bit (R142). -/
def IsFieldZero (a v : Word) (pos width : Nat) : Prop := ∀ j, j < 64 → v.getLsbD j = (decide (j < width) && bitOf a (pos + j) false)
/-- BFXS bit by bit (R142): the field, then copies of its top bit; width 0 gives 0. -/
def IsFieldSigned (a v : Word) (pos width : Nat) : Prop :=
  ∀ j, j < 64 → v.getLsbD j =
    (decide (width ≠ 0) && bitOf a (pos + (if j < width then j else width - 1)) (a.getLsbD 63))
/-- BFINS bit by bit (R142): bits beyond 63 are discarded. -/
def IsFieldInsert (old a v : Word) (pos width : Nat) : Prop :=
  ∀ j, j < 64 → v.getLsbD j = if pos ≤ j ∧ j < pos + width then a.getLsbD (j - pos) else old.getLsbD j

/-! ### Floating-point results (R143) -/

/-- The exact result of a rounding scalar FP32 instruction, with the flags its operation sets, its destination and mode. -/
def floatResult (c : Core) : Instr → Option (GReg × Rnd × Ex × Flags)
  | .fadd gd ga gb rnd => some (gd, rnd, exAdd rnd (fp32Of (c.reg ga)) (fp32Of (c.reg gb)))
  | .fsub gd ga gb rnd => some (gd, rnd, exAdd rnd (fp32Of (c.reg ga)) (fp32Of (c.reg gb)).negate)
  | .fmul gd ga gb rnd => some (gd, rnd, exMul (fp32Of (c.reg ga)) (fp32Of (c.reg gb)))
  | .ffma gd ga gb gc rnd =>
    let p := exMul (fp32Of (c.reg ga)) (fp32Of (c.reg gb))
    let r := exAdd rnd p.1 (fp32Of (c.reg gc))
    some (gd, rnd, r.1, r.2 ||| p.2)
  | .fcvtif gd ga rnd => some (gd, rnd, .fin (decide ((c.reg ga).toInt < 0)) (c.reg ga).toInt.natAbs 0 false, noFlags)
  | _ => none
/-- The draw that a scalar instruction uses, and the generator after it: one step and draw [15:0] with SR, none else (R74, R143). -/
def oneDraw (rnd : Rnd) (g : GenState) : Nat × GenState := if rnd = .sr then ((takeDraws 1 g).1.headD 0, (takeDraws 1 g).2) else (0, g)

/-! ### Tile results (R119 to R135) -/

/-- A vector instruction that delivers elements: its destination, and the tile, flags and generator it leaves, or its fault. -/
def tileOutcome (c : Core) : Instr → Option (TReg × Except TileFault (Tile × Flags × GenState))
  | .tadd td ta tb sat rnd => some (td, vecArith addExact c.t[ta] c.t[tb] sat rnd c.gen)
  | .tsub td ta tb sat rnd => some (td, vecArith subExact c.t[ta] c.t[tb] sat rnd c.gen)
  | .tmul td ta tb sat rnd => some (td, vecArith (fun _ => exMul) c.t[ta] c.t[tb] sat rnd c.gen)
  | .tfma td ta tb tc sat rnd => some (td, vecFma c.t[ta] c.t[tb] c.t[tc] sat rnd c.gen)
  | .tscl td ta gb sat rnd => some (td, vecScale c.t[ta] (c.reg gb) sat rnd c.gen)
  | .tclamp td ta gb sat rnd => some (td, vecClamp c.t[ta] (c.reg gb) sat rnd c.gen)
  | .tabs td ta sat => some (td, vecUnary fmtNumeric absExact c.t[ta] sat .rne c.gen)
  | .tneg td ta sat => some (td, vecUnary fmtNumeric negExact c.t[ta] sat .rne c.gen)
  | .texp2 td ta sat rnd => some (td, vecUnary fmtFloat exp2Exact c.t[ta] sat rnd c.gen)
  | .tlog2 td ta sat rnd => some (td, vecUnary fmtFloat log2Exact c.t[ta] sat rnd c.gen)
  | .trcp td ta sat rnd => some (td, vecUnary fmtFloat rcpExact c.t[ta] sat rnd c.gen)
  | .trsq td ta sat rnd => some (td, vecUnary fmtFloat rsqrtExact c.t[ta] sat rnd c.gen)
  | .tsqrt td ta sat rnd => some (td, vecUnary fmtFloat sqrtExact c.t[ta] sat rnd c.gen)
  | .tcvt td ta part fmt sat rnd => some (td, vecConvert c.t[ta] fmt part.val sat rnd c.gen)
  | .tqnt td ta blk ty _ rnd => some (td, vecQuant c.t[td] c.t[ta] blk.val ty rnd c.gen)
  | .tred td ta op col sat rnd => some (td, vecReduce op col c.t[ta] sat rnd c.gen)
  | .tiota td ta gb sat rnd => some (td, vecIota c.t[ta] (c.reg gb) sat rnd c.gen)
  | .trnd td ta gb mode sat rnd => some (td, vecRandom mode c.t[ta] (c.reg gb) sat rnd c.gen)
  | _ => none
/-- A vector or movement instruction that writes a tile without rounding: its destination and the tile, or its fault. -/
def tileChosen (q4 : Bool) (c : Core) : Instr → Option (TReg × Except TileFault Tile)
  | .tmax td ta tb => some (td, vecSelectPattern maxPattern c.t[ta] c.t[tb])
  | .tmin td ta tb => some (td, vecSelectPattern minPattern c.t[ta] c.t[tb])
  | .tand td ta tb => some (td, vecLogic (· &&& ·) c.t[ta] c.t[tb])
  | .tor td ta tb => some (td, vecLogic (· ||| ·) c.t[ta] c.t[tb])
  | .txor td ta tb => some (td, vecLogic (· ^^^ ·) c.t[ta] c.t[tb])
  | .tsel td ta tb tc => some (td, vecSel c.t[ta] c.t[tb] c.t[tc])
  | .tcmp td ta tb cond => some (td, vecCmp cond c.t[ta] c.t[tb])
  | .tbc td ta gb mode => some (td, vecBroadcast mode c.t[ta] (c.reg gb))
  | .ttr td ta => some (td, vecTranspose c.t[ta])
  | .tshapeSet ta ga => some (ta, (descOfWord q4 (c.reg ga)).map fun d => { c.t[ta] with desc := d })
  | .tzero ta => some (ta, .ok { c.t[ta] with data := 0, band := 0 })
  | .tmov ta tb => some (ta, .ok c.t[tb])
  | .tmovs ta ga gb size => some (ta, .ok (tileInsert c.t[ta] size (c.reg ga) (c.reg gb)))
  | .hstrd t h => some (t, .ok { data := (c.h[h]).setWidth 32768, band := 0, desc := { fmt := .int32, rows := 2, rb := 64 } })
  | _ => none

/-! ### Memory instructions -/

/-- A scalar load (R231): destination, address, bytes, signed, ordering, scope. -/
def loadForm (c : Core) : Instr → Option (GReg × Word × Nat × Bool × Ord × Scope)
  | .ldb gd ga imm => some (gd, c.reg ga + imm.signExtend 64, 1, true, .rlx, .core)
  | .ldbz gd ga imm => some (gd, c.reg ga + imm.signExtend 64, 1, false, .rlx, .core)
  | .ldh gd ga imm => some (gd, c.reg ga + imm.signExtend 64, 2, true, .rlx, .core)
  | .ldhz gd ga imm => some (gd, c.reg ga + imm.signExtend 64, 2, false, .rlx, .core)
  | .ldw gd ga imm => some (gd, c.reg ga + imm.signExtend 64, 4, true, .rlx, .core)
  | .ldwz gd ga imm => some (gd, c.reg ga + imm.signExtend 64, 4, false, .rlx, .core)
  | .ldd gd ga imm => some (gd, c.reg ga + imm.signExtend 64, 8, true, .rlx, .core)
  | .ldbOrd gd ga o sc => some (gd, c.reg ga, 1, true, o, sc)
  | .ldbzOrd gd ga o sc => some (gd, c.reg ga, 1, false, o, sc)
  | .ldhOrd gd ga o sc => some (gd, c.reg ga, 2, true, o, sc)
  | .ldhzOrd gd ga o sc => some (gd, c.reg ga, 2, false, o, sc)
  | .ldwOrd gd ga o sc => some (gd, c.reg ga, 4, true, o, sc)
  | .ldwzOrd gd ga o sc => some (gd, c.reg ga, 4, false, o, sc)
  | .lddOrd gd ga o sc => some (gd, c.reg ga, 8, true, o, sc)
  | _ => none
/-- A scalar store (R231): address, bytes, value, ordering, scope. -/
def storeForm (c : Core) : Instr → Option (Word × Nat × Word × Ord × Scope)
  | .stb gd ga imm => some (c.reg ga + imm.signExtend 64, 1, c.reg gd, .rlx, .core)
  | .sth gd ga imm => some (c.reg ga + imm.signExtend 64, 2, c.reg gd, .rlx, .core)
  | .stw gd ga imm => some (c.reg ga + imm.signExtend 64, 4, c.reg gd, .rlx, .core)
  | .std gd ga imm => some (c.reg ga + imm.signExtend 64, 8, c.reg gd, .rlx, .core)
  | .stbOrd ga gb o sc => some (c.reg ga, 1, c.reg gb, o, sc)
  | .sthOrd ga gb o sc => some (c.reg ga, 2, c.reg gb, o, sc)
  | .stwOrd ga gb o sc => some (c.reg ga, 4, c.reg gb, o, sc)
  | .stdOrd ga gb o sc => some (c.reg ga, 8, c.reg gb, o, sc)
  | _ => none
/-- An AMO (R234): operation, bytes, destination, address register, operand register, ordering, scope. -/
def amoForm : Instr → Option (AmoOp × Nat × GReg × GReg × GReg × Ord × Scope)
  | .amoaddW gd ga gb o sc => some (.add, 4, gd, ga, gb, o, sc)
  | .amoandW gd ga gb o sc => some (.and, 4, gd, ga, gb, o, sc)
  | .amoorW gd ga gb o sc => some (.or, 4, gd, ga, gb, o, sc)
  | .amoxorW gd ga gb o sc => some (.xor, 4, gd, ga, gb, o, sc)
  | .amominW gd ga gb o sc => some (.min, 4, gd, ga, gb, o, sc)
  | .amomaxW gd ga gb o sc => some (.max, 4, gd, ga, gb, o, sc)
  | .amominuW gd ga gb o sc => some (.minu, 4, gd, ga, gb, o, sc)
  | .amomaxuW gd ga gb o sc => some (.maxu, 4, gd, ga, gb, o, sc)
  | .amoswpW gd ga gb o sc => some (.swp, 4, gd, ga, gb, o, sc)
  | .amocasW gd ga gb o sc => some (.cas, 4, gd, ga, gb, o, sc)
  | .amofaddW gd ga gb o sc => some (.fadd, 4, gd, ga, gb, o, sc)
  | .amoaddD gd ga gb o sc => some (.add, 8, gd, ga, gb, o, sc)
  | .amoandD gd ga gb o sc => some (.and, 8, gd, ga, gb, o, sc)
  | .amoorD gd ga gb o sc => some (.or, 8, gd, ga, gb, o, sc)
  | .amoxorD gd ga gb o sc => some (.xor, 8, gd, ga, gb, o, sc)
  | .amominD gd ga gb o sc => some (.min, 8, gd, ga, gb, o, sc)
  | .amomaxD gd ga gb o sc => some (.max, 8, gd, ga, gb, o, sc)
  | .amominuD gd ga gb o sc => some (.minu, 8, gd, ga, gb, o, sc)
  | .amomaxuD gd ga gb o sc => some (.maxu, 8, gd, ga, gb, o, sc)
  | .amoswpD gd ga gb o sc => some (.swp, 8, gd, ga, gb, o, sc)
  | .amocasD gd ga gb o sc => some (.cas, 8, gd, ga, gb, o, sc)
  | .amofaddD gd ga gb o sc => some (.fadd, 8, gd, ga, gb, o, sc)
  | _ => none
/-- A reduction (R237): its kind, address register, operand register, ordering, scope. -/
def reduceForm : Instr → Option (GatherKind × GReg × GReg × Ord × Scope)
  | .redaddW ga gb o sc => some (.addW, ga, gb, o, sc)
  | .redaddD ga gb o sc => some (.addD, ga, gb, o, sc)
  | .redfaddW ga gb o sc => some (.faddW, ga, gb, o, sc)
  | .redmaxW ga gb o sc => some (.maxW, ga, gb, o, sc)
  | .redmaxD ga gb o sc => some (.maxD, ga, gb, o, sc)
  | _ => none
/-- No watch of the moving core matches an access of n bytes (R414). -/
def Unwatched (s : State) (va : Word) (n : Nat) (write : Bool) : Prop :=
  watchHit s.me (va.toNat % 2 ^ 48) (va.toNat % 2 ^ 48 + n) write = none
/-- No word of a line is poisoned, and its stack can be reached (R394, R400). -/
def Clean (s : State) (line : Nat) : Prop := (∀ w ∈ s.badWords, w / 16 ≠ line) ∧ s.lineCut line = false
/-- Every piece of an access lies in the moving core's own scratchpad, within one line. -/
def OwnPieces (s : State) (ps : List Piece) : Prop :=
  ∀ p ∈ ps, (∃ cell, s.placeOf p.pa = .ok (.scratch cell) ∧ s.coreNo cell = s.me.id) ∧ p.pa % 128 + p.len ≤ 128
/-- The bytes of a list of pieces, put together where each piece stands in the value. -/
def gathered (m : Memory) (ps : List Piece) : Nat := ps.foldl (fun v p => v + m.readN p.pa p.len * 2 ^ (8 * p.pos)) 0
/-- The bytes of a value written to a list of pieces, in order. -/
def scattered (m : Memory) (ps : List Piece) (v : Nat) : Memory :=
  ps.foldl (fun m p => m.writeN p.pa (v / 2 ^ (8 * p.pos) % 2 ^ (8 * p.len)) p.len) m
/-- The byte ranges of a list of pieces. -/
def pieceRanges (ps : List Piece) : List (Nat × Nat) := ps.map fun p => (p.pa, p.len)
/-- A loaded value of n bytes in a register: sign- or zero-extended (R231). -/
def loadedWord (signed : Bool) (n v : Nat) : Word :=
  if signed && decide (2 ^ (8 * n - 1) ≤ v % 2 ^ (8 * n)) then BitVec.ofNat 64 (v % 2 ^ (8 * n) + (2 ^ 64 - 2 ^ (8 * n))) else BitVec.ofNat 64 (v % 2 ^ (8 * n))

/-! ### Packets -/

/-- The packet p stands at index i among those in flight, has come to where it is served, and nothing there goes before it (R12, R165,
R208). -/
def AtIndex (s : State) (i : Nat) (p : Pkt) : Prop :=
  ∃ f, s.net[i]? = some f ∧ f.pkt = p ∧ s.discards f = false ∧ s.travels f = false ∧ s.queued i f = false
/-- The packets of memory traffic in flight, in their order. -/
def State.pkts (s : State) : List Pkt := s.net.map (·.pkt)
/-- The lock packets in flight, in their order. -/
def State.lockPkts (s : State) : List LockPkt := s.lockNet.map (·.pkt)
/-- The packets of the network interfaces in flight, in their order. -/
def State.niPkts (s : State) : List NiPkt := s.ni.map (·.pkt)
/-- The state with the packet at index i taken out. -/
def State.took (s : State) (i : Nat) : State := { s with net := s.net.eraseIdx i }
/-- A line of local HBM, on a die that is up, whose home serves it: resident in N with no open round. -/
structure HomeReady (s : State) (line : Nat) (d : DirLine) : Prop where
  place : s.placeOf (line * 128) = .ok .localHbm
  die : absentDie s .localHbm line = false
  dir : s.dirOf line = some d
  line : d.line = line
  state : d.st = .n
  round : d.round = none
/-- No replay or record log is on in the set that owns a line. -/
def Unlogged (s : State) (line : Nat) : Prop := ∀ p, s.owner (line * 128) = some p → p.rrMode = 0

/-! ### Branches, matrix instructions, system registers -/

/-- A conditional branch's offset in words, and whether it is taken (R144). -/
def branchForm (c : Core) : Instr → Option (BitVec 12 × Prop)
  | .beq ga gb off => some (off, c.reg ga = c.reg gb)
  | .bne ga gb off => some (off, c.reg ga ≠ c.reg gb)
  | .blt ga gb off => some (off, (c.reg ga).toInt < (c.reg gb).toInt)
  | .bge ga gb off => some (off, (c.reg gb).toInt ≤ (c.reg ga).toInt)
  | .bltu ga gb off => some (off, (c.reg ga).toNat < (c.reg gb).toNat)
  | .bgeu ga gb off => some (off, (c.reg gb).toNat ≤ (c.reg ga).toNat)
  | _ => none
/-- A jump's target, and its link register if it has one (R145). -/
def jumpForm (c : Core) : Instr → Option (Word × Option GReg)
  | .j off => some (BitVec.ofInt 64 (c.pc.toInt + 4 * off.toInt), none)
  | .jal gd off => some (BitVec.ofInt 64 (c.pc.toInt + 4 * off.toInt), some gd)
  | .jalr gd ga imm => some (BitVec.ofInt 64 ((c.reg ga).toInt + 4 * imm.toInt), some gd)
  | _ => none
/-- The misaligned-target trap of an address (R41). -/
def targetFault (a : Word) : Trap := { cause := 3, kind := 0, code := 0, va := a, row := 0 }
/-- The bundle at the pc is fetched from s₀: the core goes on in sequence, or has arrived at an aligned target that is no second word of a pair
(R41). -/
def Reached (s s₀ : State) : Prop :=
  (s.me.arrived = false ∧ s₀ = s) ∨ (s.me.arrived = true ∧ s.me.pc.extractLsb' 0 2 = 0 ∧ secondWord s s.me.pc = .ok s₀ false)
/-- A matrix instruction's accumulator, and what it leaves there with its flags, or its fault (R112, R114). -/
def matrixOutcome (c : Core) : Instr → Option (AReg × Except TileFault (Acc × Flags))
  | .mma a t w q => some (a, matrixStep false c.a[a] c.t[t] c.w[w] q.val)
  | .mmaz a t w q => some (a, matrixStep true c.a[a] c.t[t] c.w[w] q.val)
  | .accz a mode => some (a, .ok ({ data := 0, mode := mode }, noFlags))
  | _ => none
/-- What a system register reads after a write of v that is allowed (R347, R349): read-only registers stay. -/
def sysAfter (c : Core) (n : Nat) (v : Word) : Option Word :=
  match n with
  | 0x000 => some (v &&& 0x1F)
  | 0x008 => some ((v &&& 0x10) ||| (if v.toNat / 4 % 4 ≤ c.level then v &&& 0xC else BitVec.ofNat 64 (4 * c.plv)) ||| BitVec.ofNat 64 c.level)
  | 0x010 => some v
  | 0x011 => some (v &&& 0xFFFF03FF)
  | 0x012 => some v
  | 0x013 => some v
  | 0x014 => some v
  | 0x018 => some (v &&& ~~~3)
  | 0x020 => some (if c.level = 3 then v &&& 0xFFFF else BitVec.ofNat 64 c.asid)
  | _ => sysRead c n
/-- An instruction that user level may not run (R346). -/
def Privileged : Instr → Prop
  | .tret => True
  | .xlatiRange .. => True
  | .xlatiAsid .. => True
  | .xlatiAll .. => True
  | .xlatp .. => True
  | .ctxsv .. => True
  | .ctxld .. => True
  | .sysrd _ n => sysNeeds n.toNat = true ∧ (sysRead (resetCore 0) n.toNat).isSome = true
  | .syswr _ n => sysNeeds n.toNat = true ∧ (sysRead (resetCore 0) n.toNat).isSome = true
  | _ => False
/-- A group contribution: its operation, value and group code, and the slot of the result (R283, R328). -/
def contributionForm (c : Core) : Instr → Option (GroupOp × Word × BitVec 3 × BitVec 2 × MReg)
  | .bar lgw lgh m => some (.bar, 0, lgw, lgh, m)
  | .mredAddI64 ga lgw lgh m => some (.addI, c.reg ga, lgw, lgh, m)
  | .mredMaxI64 ga lgw lgh m => some (.maxI, c.reg ga, lgw, lgh, m)
  | .mredMinI64 ga lgw lgh m => some (.minI, c.reg ga, lgw, lgh, m)
  | .mredAndI64 ga lgw lgh m => some (.andI, c.reg ga, lgw, lgh, m)
  | .mredOrI64 ga lgw lgh m => some (.orI, c.reg ga, lgw, lgh, m)
  | .mredAddF32 ga lgw lgh m => some (.addF, c.reg ga &&& 0xFFFFFFFF, lgw, lgh, m)
  | .mredMaxF32 ga lgw lgh m => some (.maxF, c.reg ga &&& 0xFFFFFFFF, lgw, lgh, m)
  | .mredMinF32 ga lgw lgh m => some (.minF, c.reg ga &&& 0xFFFFFFFF, lgw, lgh, m)
  | _ => none

/-! ### Events -/

/-- The new value of an AMO on a word of w bits (R234). -/
def amoSpec {w : Nat} (op : AmoOp) (m o c : BitVec w) : BitVec w :=
  match op with
  | .add => m + o
  | .and => m &&& o
  | .or => m ||| o
  | .xor => m ^^^ o
  | .min => if o.toInt < m.toInt then o else m
  | .max => if m.toInt < o.toInt then o else m
  | .minu => if o.toNat < m.toNat then o else m
  | .maxu => if m.toNat < o.toNat then o else m
  | .swp => o
  | .cas => if m = c then o else m
  | .fadd => BitVec.ofNat w (faddLanes (w / 8) m.toNat o.toNat)
/-- The word of n bytes at an address after an AMO on it. -/
def amoWord (m : Memory) (op : AmoOp) (pa n o c : Nat) : Nat :=
  (amoSpec op (BitVec.ofNat (8 * n) (m.readN pa n)) (BitVec.ofNat (8 * n) o) (BitVec.ofNat (8 * n) c)).toNat
/-- The operands of a request fit its size. -/
def Regular (r : MReq) : Prop :=
  match r.req with
  | .amo _ n _ o c _ _ => (n = 4 ∨ n = 8) ∧ o < 2 ^ (8 * n) ∧ c < 2 ^ (8 * n)
  | .gather k _ o => o < 2 ^ (8 * k.size)
  | _ => True
/-- What a request makes of memory at the one place that performs it, and the packet that answers it, where what it reads is fresh or not
(R160, R223, R234, R237). -/
def portResult (m : Memory) (r : MReq) (fresh : Bool) : Memory × Pkt :=
  match r.req with
  | .read acq _ pref _ => (m, .fill r.core r.line (m.line r.line) false acq pref fresh none)
  | .write pa n v _ _ => (m.writeN pa v n, .done r.core r.line)
  | .amo op n pa o c _ reduce =>
    (m.writeN pa (amoWord m op pa n o c) n, if reduce then .done r.core r.line else .amoReply r.core r.line (m.readN pa n) none)
  | .gather k off o =>
    (m.writeN (r.line * 128 + off) (amoWord m k.op (r.line * 128 + off) k.size o 0) k.size, .done r.core r.line)
  | .clwb => (m, .done r.core r.line)
/-- Memory after a write is placed at its home: at once with no sharer, at the end of its round otherwise (R208). -/
def openedMem (m : Memory) (d : DirLine) (pa n v : Nat) : Memory := if d.sharers = [] then m.writeN pa v n else m
/-- The packets that a write placed at its home sends: an update to every sharer (R208); with none it commits, and an AMO's reply (log entry
60) and its writer's done leave. -/
def openedPkts (d : DirLine) (pa n v : Nat) (writer : Option Nat) (amo : Option (Nat × Nat)) : List Pkt :=
  if d.sharers = [] then (amo.toList.map fun a => .amoReply a.1 d.line a.2 none) ++ writer.toList.map fun w => .done w d.line
  else d.sharers.map fun k => .update k d.line pa n v
/-- A step takes the packet at index i: it leaves memory m, sends some packets, and p holds of the state, before what follows at once
(log entry 6). -/
def Serves (x : Instr) (s : State) (i : Nat) (m : Memory) (ps : List Pkt) (p : State → Prop) : Prop :=
  ∃ u : State, exec x s = .next u.settle ∧ u.mem = m ∧ u.pkts = (s.took i).pkts ++ ps ∧ p u
/-- A step answers the request at index i with an access fault: a load and an AMO take it, a write is refused (R231, R446). -/
def Refuses (x : Instr) (s : State) (i : Nat) (r : MReq) (k : AccessKind) : Prop :=
  (∀ acq ef sync, r.req = .read acq ef false sync →
    Serves x s i s.mem [.fill r.core r.line 0 false acq false false (some (.access k))] fun _ => True) ∧
  (∀ op n pa o c dx, r.req = .amo op n pa o c dx false →
    Serves x s i s.mem [.amoReply r.core r.line 0 (some (.access k))] fun _ => True) ∧
  (∀ pa n v ef sync, r.req = .write pa n v ef sync → Serves x s i s.mem [.refusal r.core pa] fun _ => True)
/-- The lock packet p stands at index i, has come to where it is served, and nothing there goes before it (R12, R208). -/
def LockAt (s : State) (i : Nat) (p : LockPkt) : Prop :=
  ∃ f, s.lockNet[i]? = some f ∧ f.pkt = p ∧
    (f.waits = true ∨ (s.shutOut f.src f.seq = false ∧ s.mustWait (f.ends s) f.seq p.line = false ∧ (p.homeward = true → bankHeld s p.line = false))) ∧
    lockKeptBack (s.lockNet.take i) f = false ∧ s.lockBehind f = false
/-- A step takes the lock packet at index i: it leaves memory as it was, sends some lock packets, and p holds of the state, before what
follows at once (log entry 6). -/
def TakesLock (x : Instr) (s : State) (i : Nat) (ps : List LockPkt) (p : State → Prop) : Prop :=
  ∃ u : State, exec x s = .next u.settle.settleLocks ∧ u.mem = s.mem ∧ u.lockPkts = s.lockPkts.eraseIdx i ++ ps ∧ p u
/-- The NI packet p stands at index i and has come to where it is served (R12); one that was refused waits there (R249). -/
def NiAt (s : State) (i : Nat) (p : NiPkt) : Prop :=
  ∃ f, s.ni[i]? = some f ∧ f.pkt = p ∧ s.shutOut (p.injector s) f.seq = false ∧ s.mustWait (f.ends s) f.seq 0 = false
/-- A step takes the NI packet at index i: p holds of the state before what follows at once (log entry 6). -/
def TakesNi (x : Instr) (s : State) (p : State → Prop) : Prop := ∃ u : State, exec x s = .next u.settleNi.settle ∧ p u
/-- The network interface of core k takes an arrival in place: its launch is live on it, no record or replay is on (R247, R422). -/
structure NiLive (s : State) (launch rx ry k : Nat) : Prop where
  named : launch ≠ 0
  stream : ∃ l t, s.launchOf launch = some l ∧ l.st ≠ .killed ∧ l.stream rx ry = some t ∧ t.st = .live ∧ t.leaving = false ∧ t.core = k ∧ t.late = []
  unlogged : 7 ≤ (s.core k).paddock ∨ (s.pad (s.core k).paddock).rrMode = 0

end Sys2Proof.Machine
end

