-- ==== Sys2Proof/Certificates/Slice0/Obligations.lean ====
section
/-! DEFINITION. The statements for the provers, each a rule of the spec or what follows from its rules. -/
open Sys2Proof Sys2Proof.Machine

/-! ### Encoding (02 R38 to R53) -/

/-- Words that the spec writes out with their assembly, at least one of each family (02 "Encoding worked through", 04 R110, R114, 05 R122, R142
to R148, 10 R233 to R255, 14 R320 to R331, 15 and 16 R350 to R378, 19 R416). -/
def specWords : List (Nat × Instr) :=
  [(0x02500005, .beq 5 0 5), (0x0A40E000, .ldd 4 1 0), (0x0C553000, .std 5 10 0), (0x0E360186, .lddOrd 3 12 .acq .dev),
   (0x0E3513A9, .amocasD 3 10 4 .ar .dev), (0x100001A0, .fence { l := true, s := true, e := false } .die), (0x10061441, .relb 12 5 .dev),
   (0x10360042, .acqb 3 12 .dev), (0x12031460, .send 6 5 3), (0x12300068, .recv 3 3), (0x14731482, .cpy 7 6 5 4 .dev),
   (0x14C52CAB, .aredFp32 12 10 11 5), (0x166E7408, .wld 3 .q4 7 8 false), (0x1803A000, .tkadd 0 7 8), (0x18531402, .recvt 5 6 1 1),
   (0x18000003, .tkdone), (0x180280E7, .lkacq 5 7), (0x180D9470, .mredAddI64 27 1 1 3), (0x1A700020, .sysrd 7 1),
   (0x1A028001, .syswr 5 0), (0x1A029804, .xlatiRange 5 6 0), (0x1A000003, .tret), (0x1A000008, .halt), (0x1A000009, .nopC), (0x1C0000A0, .brk 5),
   (0x1C028061, .trcmark 5 3), (0x1C700102, .perfrd 7 8)] ++
  [(0x4072A000, .add 7 5 8), (0x42948FFF, .addi 9 9 0xFFF), (0x44912346, .lhi 9 0x12346), (0x46537821, .bfxs 5 6 60 8),
   (0x4A531D0C, .ffma 5 6 7 8 .rup), (0x4C823001, .tsub 4 1 3 false .rne), (0x4ECA0009, .tred 6 5 .add false false .rne),
   (0x4E4E1047, .tcvt 2 7 1 .fp32 false .sr), (0x50089000, .mma 0 1 2 1), (0x5042D203, .drain 0 8 11 1 0 true false .rne),
   (0x52000000, .xnop)]
/-- Each of the words below, written out from the encodings of the spec (R38, R43, R44, R49, R50), decodes to its instruction. -/
def Obligations.WrittenWordsDecode : Prop := ∀ p ∈ specWords, decodeWord (fun _ => true) p.1 = .ok p.2
/-- Decoding the word of a well-formed instruction gives the instruction back, at every operand the encoding admits. -/
def Obligations.DecodeOfEncodeIsTheInstruction : Prop :=
  ∀ (i : Instr) (w : Nat), i.wf = true → encode i = some w → decodeWord (fun _ => true) w = .ok i
/-- A word below 2^31 that decodes is the word of what it decodes to, which is well formed: no bit of a word is ignored. -/
def Obligations.EncodeOfDecodeIsTheWord : Prop :=
  ∀ (present : Feature → Bool) (w : Nat) (i : Instr), w < 2 ^ 31 → decodeWord present w = .ok i → i.wf = true ∧ encode i = some w
/-- The three kinds of illegal word in their order (R51, R52): an unassigned encoding, then an absent feature, then reserved fields. -/
def Obligations.IllegalKindsInOrder : Prop :=
  ∀ (present : Feature → Bool) (w : Nat),
    (decodeMajor w = none → decodeWord present w = .error .unassigned) ∧
    (∀ r f, decodeMajor w = some r → f ∈ wordFeatures w → present f = false → decodeWord present w = .error .featureAbsent) ∧
    (decodeMajor w = some none → (∀ f ∈ wordFeatures w, present f = true) → decodeWord present w = .error .reserved)

/-! ### Fetching and running bundles (R38 to R41) -/

/-- A code word of a stream below machine level is the four bytes of memory at its translated address, little-endian, where no store
has touched it since the stream started and no word of its line is poisoned (R2, R42). -/
def Obligations.FetchReadsFourBytes : Prop :=
  ∀ (s : State) (va : Word) (x : Xlat), s.me.level ≠ 3 → (va.setWidth 48).signExtend 64 = va → inWindow s va = false →
    s.me.ctc.find? (·.holds s.me.asid (va.toNat % 2 ^ 48)) = some x → x.permits .exec (s.me.level == 0) = true →
    physCheck (s.onMe (·.fillCtc x)) (x.pa + va.toNat % x.size) 0 = none →
    s.me.code.find? (·.1 == x.pa + va.toNat % x.size) = none → Clean s ((x.pa + va.toNat % x.size) / 128) →
    ∃ w, s.codeWord va = .ok (s.onMe (·.fillCtc x)) w ∧
      ∀ k, k < 4 → w.extractLsb' (8 * k) 8 = s.mem.read (x.pa + va.toNat % x.size + k)
/-- An arrival at an address that is no multiple of 4, or at the second word of a pair, takes the misaligned-target trap there, whatever made it
(a TRET, the start of a stream). A word with P = 0 at a pc so reached, or reached in sequence, is a bundle of one instruction, or takes the
illegal-instruction trap of its kind; a pair's words are checked in the order of R39: alignment to 8 bytes, class, each word's legality, then a
common destination (R38, R39, R41, R51). -/
def Obligations.BundlesAreCheckedInOrder : Prop :=
  (∀ s : State, s.me.arrived = true → s.me.pc.extractLsb' 0 2 ≠ 0 → fetchBundle s = .trap s (targetFault s.me.pc)) ∧
  (∀ (s s' : State) (w : BitVec 32), s.me.arrived = true → s.me.pc.extractLsb' 0 2 = 0 → s.me.pc.getLsbD 2 = true →
    s.codeWord (s.me.pc - 4) = .ok s' w → w.getLsbD 31 = true → fetchBundle s = .trap s' (targetFault s.me.pc)) ∧
  (∀ (s s₀ s' : State) (w : BitVec 32), Reached s s₀ → s₀.codeWord s₀.me.pc = .ok s' w → w.getLsbD 31 = false →
    (∀ i, decodeWord (s'.present s'.me.id) w.toNat = .ok i → fetchBundle s = .ok s' (i, none)) ∧
    (∀ k, decodeWord (s'.present s'.me.id) w.toNat = .error k → fetchBundle s = .trap s' (plainTrap 1 (illegalCode k)))) ∧
  (∀ (s s₀ s' : State) (w : BitVec 32), Reached s s₀ → s₀.codeWord s₀.me.pc = .ok s' w → w.getLsbD 31 = true →
    s'.me.pc.getLsbD 2 = true → fetchBundle s = .trap s' (pairTrap 1)) ∧
  (∀ (s s₀ s₁ s₂ : State) (c x : BitVec 32), Reached s s₀ → s₀.codeWord s₀.me.pc = .ok s₁ c → c.getLsbD 31 = true →
    s₁.me.pc.getLsbD 2 = false → s₁.codeWord (s₁.me.pc + 4) = .ok s₂ x →
    (∀ i j, checkPair s₂ c x = .ok (i, j) → fetchBundle s = .ok s₂ (i, some j)) ∧
    (∀ k, checkPair s₂ c x = .error k → fetchBundle s = .trap s₂ k)) ∧
  ∀ (s : State) (c x : BitVec 32),
    ((c.getLsbD 30 = true ∨ x.getLsbD 31 = true ∨ x.getLsbD 30 = false) → checkPair s c x = .error (pairTrap 2)) ∧
    (c.getLsbD 30 = false → x.getLsbD 31 = false → x.getLsbD 30 = true →
      let read (w : BitVec 32) : Except Illegal Instr := decodeWord (s.present s.me.id) w.toNat
      (∀ k, read c = .error k → checkPair s c x = .error (plainTrap 1 (illegalCode k))) ∧
      (∀ i k, read c = .ok i → read x = .error k → checkPair s c x = .error (plainTrap 1 (illegalCode k))) ∧
      (∀ i j, read c = .ok i → read x = .ok j →
        checkPair s c x = if (∃ n, n ∈ Instr.dests i ∧ n ∈ Instr.dests j ∧ n ≠ .g 0) then .error (pairTrap 3) else .ok (i, j)))
/-- When the bundle at the pc is one instruction, a step runs exec of it, with npc at the address after the word; what it
wrote loses its poison and takes new physical registers, a word whose request is out stays in hand, a debug step ends, and a kill that waited for
it is over (R18, R20, R24, R145, R393). What moves next is the model's choice (log entry 4). -/
def Obligations.StepRunsTheDecodedWord : Prop :=
  ∀ (s s' t : State) (i : Instr), s.agenda = [] → s.me.run = .running → s.me.res ≠ .waiting → boundary s = none →
    s.me.dbg.haltreq = false → s.me.bundle = none → s.me.behind = false → fetchBundle s = .ok s' (i, none) → s'.me.poison = [] →
    exec i { s' with me := { s'.me with npc := s'.me.pc + 4 } } = .next t →
    step s = .next (endStep ((if t.me.res = .retired then t.onMe (·.wrote i) else t).onMe (·.keepBundle i none))).endKill
/-- A pair whose parts both retire takes effect as one: the state after it is the C-part's, with the X-part's destinations put on it,
and an X-part reads what stood before the C-part. If either part traps, neither has effect: the trap taken is that of the part's run alone,
the C-part's first; a HALT, which takes no trap, has no effect before its X-part has passed (R40, R148). Which waits of a C-part an X-part's
trap ends is the model's reading (log entry 75), and whose generator stands after a CTXLD paired with an X-part that draws is its choice (log
entry 42). -/
def Obligations.PairsTakeEffectOrTrapAsOne : Prop :=
  ∀ (s tc tx : State) (c x : Instr), exec x { s with me := { s.me with vstat := noFlags } } = .next tx → exec c s = .next tc →
    (tc.me.res = .retired → tx.me.res = .retired → tc.hasTrapped = false → tx.hasTrapped = false →
      ∃ t, runPair exec c x none s = .next t ∧ t.mem = tc.mem ∧ t.me.pc = tc.me.pc ∧ t.me.vstat = tc.me.vstat ||| tx.me.vstat ∧
        (∀ r, .g r ∈ Instr.dests x → t.me.reg r = tx.me.reg r) ∧ (∀ r, .g r ∉ Instr.dests x → t.me.reg r = tc.me.reg r) ∧
        (∀ r, .t r ∈ Instr.dests x → t.me.t[r] = tx.me.t[r]) ∧ (∀ r, .t r ∉ Instr.dests x → t.me.t[r] = tc.me.t[r]) ∧
        (∀ r, .a r ∈ Instr.dests x → t.me.a[r] = tx.me.a[r]) ∧ (∀ r, .a r ∉ Instr.dests x → t.me.a[r] = tc.me.a[r]) ∧
        (∀ r, .w r ∈ Instr.dests x → t.me.w[r] = tx.me.w[r]) ∧ (∀ r, .w r ∉ Instr.dests x → t.me.w[r] = tc.me.w[r]) ∧
        (∀ r, .h r ∈ Instr.dests x → t.me.h[r] = tx.me.h[r]) ∧ (∀ r, .h r ∉ Instr.dests x → t.me.h[r] = tc.me.h[r]) ∧
        (.gen ∈ Instr.sources x → (∀ ga, c ≠ .ctxld ga) → t.me.gen = tx.me.gen) ∧ (.gen ∉ Instr.sources x → t.me.gen = tc.me.gen)) ∧
    (c ≠ .halt → tc.hasTrapped = true → runPair exec c x none s = .next tc) ∧
    (tx.hasTrapped = true → (c = .halt ∨ (tc.hasTrapped = false ∧ tc.me.res = .retired)) → runPair exec c x none s = exec x s)

/-! ### The machine as a whole -/

/-- Every instruction and every event answers a next state in every state: traps are taken, not stopped on; a step of the machine stops only
where the agenda names an instruction that has a word. What moves next is the model's choice (log entry 4). -/
def Obligations.AStepNeverStops : Prop :=
  (∀ (i : Instr) (s : State), ∃ t, exec i s = .next t) ∧
  ∀ s : State, (∀ i rest, s.agenda = .event i :: rest → encode i = none) → ∃ t, step s = .next t
/-- Every step keeps the canonical form of memory: addresses strictly rising, no byte listed that is zero. That unlisted bytes read zero is
the model's choice (log entry 1). -/
def Obligations.EveryStepKeepsMemoryCanonical : Prop :=
  ∀ s t : State, s.mem.wf = true → step s = .next t → t.mem.wf = true
/-- The card right after reset (R433 to R435, R367, R35): boot stage 0 and no published feature, a yard controller at machine level, no
stream, no active paddock, the link down, memory canonical. The registers of a core that has run no stream are the model's choice (log
entry 3), and so is which memory is canonical (log entry 1). -/
def Obligations.ResetState : Prop :=
  State.reset.boot.stage = 0 ∧ State.reset.boot.featdev = 0 ∧ State.reset.me.id = 512 ∧ State.reset.me.level = 3 ∧ State.reset.launches = [] ∧
  (∀ n : Fin 7, (State.reset.pads[n]).cmask = 0) ∧ State.reset.link.up = false ∧ State.reset.mem.wf = true ∧
  (∀ r : GReg, State.reset.me.reg r = 0) ∧ State.reset.me.gen = { lo := 1, hi := 0 } ∧ State.reset.me.vstat = 0 ∧
  (∀ r : TReg, State.reset.me.t[r] = ({ data := 0, band := 0, desc := { fmt := .int8, rows := 64, rb := 64 } } : Tile)) ∧
  (∀ q : Fin 4, (State.reset.quarters[q]).clockSteps = 0)

/-! ### Scalar arithmetic (05 R138 to R143) -/

/-- The scalar integer instructions of the tables write their result modulo 2^64, retire, and change nothing else; a write of g0 is
ignored (R35, R138 to R141). -/
def Obligations.IntegerInstructionsCompute : Prop :=
  ∀ (i : Instr) (s : State) (gd : GReg) (v : Word), integerResult s.me i = some (gd, v) →
    ∃ t, exec i s = .next t ∧ t.me.reg gd = held gd v ∧ Retired s t ∧ Frame { g := [gd] } s t
/-- CLZ, CTZ and POPC count bits, and BFXZ, BFXS and BFINS move fields, bit by bit (R138, R142). -/
def Obligations.BitCountsAndFieldsCompute : Prop :=
  ∀ (s : State) (gd ga : GReg) (pos : BitVec 6) (width : BitVec 7),
    let Writes (i : Instr) (p : Word → Prop) : Prop :=
      ∃ t v, exec i s = .next t ∧ p v ∧ t.me.reg gd = held gd v ∧ Retired s t ∧ Frame { g := [gd] } s t
    Writes (.clz gd ga) (CountsLeading (s.me.reg ga)) ∧ Writes (.ctz gd ga) (CountsTrailing (s.me.reg ga)) ∧
    Writes (.popc gd ga) (CountsOnes (s.me.reg ga)) ∧
    Writes (.bfxz gd ga pos width) (fun v => IsFieldZero (s.me.reg ga) v pos.toNat width.toNat) ∧
    Writes (.bfxs gd ga pos width) (fun v => IsFieldSigned (s.me.reg ga) v pos.toNat width.toNat) ∧
    Writes (.bfins gd ga pos width) (fun v => IsFieldInsert (s.me.reg gd) (s.me.reg ga) v pos.toNat width.toNat)
/-- DIV, DIVU, REM and REMU never trap, whatever their operands; by zero, and for the most negative number by -1, their results are
fixed, and -7 by 2 is truncated toward zero (R139). -/
def Obligations.DivisionCornersAreFixed : Prop :=
  ∀ (s : State) (gd ga gb : GReg),
    (∀ i : Instr, i = .div gd ga gb ∨ i = .divu gd ga gb ∨ i = .rem gd ga gb ∨ i = .remu gd ga gb →
      ∃ t, exec i s = .next t ∧ Retired s t ∧ Frame { g := [gd] } s t) ∧
    (s.me.reg ga = BitVec.ofInt 64 (-7) → s.me.reg gb = 2 →
      (∃ t, exec (.div gd ga gb) s = .next t ∧ t.me.reg gd = held gd (BitVec.ofInt 64 (-3)) ∧ Retired s t) ∧
      (∃ t, exec (.rem gd ga gb) s = .next t ∧ t.me.reg gd = held gd (BitVec.ofInt 64 (-1)) ∧ Retired s t)) ∧
    (s.me.reg gb = 0 →
      (∃ t, exec (.div gd ga gb) s = .next t ∧ t.me.reg gd = held gd (BitVec.allOnes 64) ∧ Retired s t) ∧
      (∃ t, exec (.divu gd ga gb) s = .next t ∧ t.me.reg gd = held gd (BitVec.allOnes 64) ∧ Retired s t) ∧
      (∃ t, exec (.rem gd ga gb) s = .next t ∧ t.me.reg gd = held gd (s.me.reg ga) ∧ Retired s t) ∧
      (∃ t, exec (.remu gd ga gb) s = .next t ∧ t.me.reg gd = held gd (s.me.reg ga) ∧ Retired s t)) ∧
    (s.me.reg ga = 0x8000000000000000 → s.me.reg gb = BitVec.allOnes 64 →
      (∃ t, exec (.div gd ga gb) s = .next t ∧ t.me.reg gd = held gd 0x8000000000000000 ∧ Retired s t) ∧
      (∃ t, exec (.rem gd ga gb) s = .next t ∧ t.me.reg gd = 0 ∧ Retired s t))
/-- FADD, FSUB, FMUL, FFMA and FCVTIF deliver one exact result rounded once to FP32, with zero above it; under SR they take one draw
(R74, R143). -/
def Obligations.ScalarFloatArithmeticRoundsOnce : Prop :=
  ∀ (i : Instr) (s : State) (gd : GReg) (rnd : Rnd) (x : Ex) (f : Flags), floatResult s.me i = some (gd, rnd, x, f) →
    let d := oneDraw rnd s.me.gen
    let r := deliverFp32 rnd d.1 (x, f)
    ∃ t, exec i s = .next t ∧ t.me.reg gd = held gd (BitVec.ofNat 64 r.1) ∧ t.me.vstat = s.me.vstat ||| r.2 ∧ t.me.gen = d.2 ∧
      Retired s t ∧ Frame { g := [gd], flags := true, gen := true } s t
/-- FMIN and FMAX write the pattern that R124 chooses, FCMP writes 1 or 0, and FCVTFI delivers an INT32 with saturation, sign-extended
(R124, R127, R143). -/
def Obligations.ScalarFloatSelectCompareConvert : Prop :=
  ∀ (s : State) (gd ga gb : GReg) (cond : Cond) (rnd : Rnd),
    let a := (s.me.reg ga).toNat % 2 ^ 32
    let b := (s.me.reg gb).toNat % 2 ^ 32
    let d := oneDraw rnd s.me.gen
    let r := deliver .int32 rnd true d.1 (floatExact .fp32 a)
    (∃ t, exec (.fmin gd ga gb) s = .next t ∧ t.me.reg gd = held gd (BitVec.ofNat 64 (minPattern .fp32 a b)) ∧ Retired s t ∧
      Frame { g := [gd] } s t) ∧
    (∃ t, exec (.fmax gd ga gb) s = .next t ∧ t.me.reg gd = held gd (BitVec.ofNat 64 (maxPattern .fp32 a b)) ∧ Retired s t ∧
      Frame { g := [gd] } s t) ∧
    (∃ t, exec (.fcmp gd ga gb cond) s = .next t ∧
      t.me.reg gd = held gd (oneIf (condHolds cond (floatExact .fp32 a) (floatExact .fp32 b) = true)) ∧ Retired s t ∧
      Frame { g := [gd] } s t) ∧
    (∃ t, exec (.fcvtfi gd ga rnd) s = .next t ∧ t.me.reg gd = held gd ((BitVec.ofNat 32 r.1).signExtend 64) ∧
      t.me.vstat = s.me.vstat ||| r.2 ∧ t.me.gen = d.2 ∧ Retired s t ∧ Frame { g := [gd], flags := true, gen := true } s t)
/-- A value of a floating format delivered to that format is itself, in every mode, with no flag; a NaN delivers the canonical NaN
(R61 to R63, R70, R71). -/
def Obligations.AValueOfAFormatDeliversItself : Prop :=
  ∀ (f : Fmt) (rnd : Rnd) (sat : Bool) (d p : Nat), fmtFloat f = true → p < 2 ^ (8 * fmtBytes f) → d < 2 ^ 16 →
    ((floatExact f p).isNaN = false → (floatExact f p).isInf = false → deliverFloat f rnd sat d (floatExact f p) = (p, noFlags)) ∧
    ((floatExact f p).isNaN = true → (deliverFloat f rnd sat d (floatExact f p)).1 = canonicalNaN f)

/-! ### Tiles (04, 05 R119 to R135) -/

/-- The vector instructions that round leave their tile, flags and generator, or take the tile-operand trap (R104, R119 to R135). -/
def Obligations.TileInstructionsDeliver : Prop :=
  ∀ (i : Instr) (s : State) (td : TReg),
    (∀ x f g, tileOutcome s.me i = some (td, .ok (x, f, g)) →
      ∃ t, exec i s = .next t ∧ t.me.t[td] = x ∧ t.me.vstat = s.me.vstat ||| f ∧ t.me.gen = g ∧ Retired s t ∧
        Frame { t := [td], flags := true, gen := true } s t) ∧
    (∀ k, tileOutcome s.me i = some (td, .error k) → s.me.inTrap = false →
      ∃ t, exec i s = .next t ∧ Trapped (tileTrap k) s.me.pc s t)
/-- The vector and movement instructions that choose or move patterns leave their tile, with no flag, or take the tile-operand trap
(R104, R107 to R109, R116, R124 to R127, R132, R133). -/
def Obligations.TileInstructionsSelectAndMove : Prop :=
  ∀ (i : Instr) (s : State) (td : TReg),
    (∀ x, tileChosen (s.present s.me.id .q4blk) s.me i = some (td, .ok x) →
      ∃ t, exec i s = .next t ∧ t.me.t[td] = x ∧ Retired s t ∧ Frame { t := [td] } s t) ∧
    (∀ k, tileChosen (s.present s.me.id .q4blk) s.me i = some (td, .error k) → s.me.inTrap = false →
      ∃ t, exec i s = .next t ∧ Trapped (tileTrap k) s.me.pc s t)
/-- Element by element, TADD, TSUB and TMUL deliver the exact sum, difference or product once, and what lies outside the rows and
columns of the result is zero (R119, R120, R123). -/
def Obligations.TileArithmeticIsElementwise : Prop :=
  ∀ (s : State) (td ta tb : TReg) (sat : Bool) (rnd : Rnd),
    let a := s.me.t[ta]
    let b := s.me.t[tb]
    let n := fmtBytes a.desc.fmt
    let Delivers (i : Instr) (op : Rnd → Ex → Ex → Ex × Flags) : Prop :=
      ∃ t, exec i s = .next t ∧ (t.me.t[td]).desc = a.desc ∧ (t.me.t[td]).band = 0 ∧
        ∀ r c, r < 64 → c < 64 / n → (t.me.t[td]).pattern n r c =
          if r < a.desc.rows ∧ c < a.desc.cols then
            (deliverWith a.desc.fmt rnd sat 0 (op rnd (a.exact r c) (b.exact r c))).1 % 2 ^ (8 * n) else 0
    rnd ≠ .sr → a.desc.valid = true → check2 fmtNumeric a b = none →
    Delivers (.tadd td ta tb sat rnd) addExact ∧ Delivers (.tsub td ta tb sat rnd) subExact ∧
    Delivers (.tmul td ta tb sat rnd) (fun _ => exMul)
/-- MMA, MMAZ and ACCZ leave their accumulator and flags, and DRAIN delivers a quadrant of an accumulator, scaled, into its tile and counts
its elements into a bank when asked; each takes the tile-operand trap where its operands fail (R86, R112, R114, R115). -/
def Obligations.MatrixInstructionsAccumulateAndDrain : Prop :=
  ∀ (i : Instr) (s : State) (a : AReg) (td : TReg) (gs : GReg) (q : Fin 4) (h : AReg) (he sat : Bool) (rnd : Rnd),
    let scale : Ex := if gs = 0 then .fin false 1 0 false else floatExact .fp32 ((s.me.reg gs).toNat % 2 ^ 32)
    (∀ x f, matrixOutcome s.me i = some (a, .ok (x, f)) →
      ∃ t, exec i s = .next t ∧ t.me.a[a] = x ∧ t.me.vstat = s.me.vstat ||| f ∧ Retired s t ∧ Frame { a := [a], flags := true } s t) ∧
    (∀ k, matrixOutcome s.me i = some (a, .error k) → s.me.inTrap = false →
      ∃ t, exec i s = .next t ∧ Trapped (tileTrap k) s.me.pc s t) ∧
    (∀ x f g, drainTile s.me.a[a] s.me.t[td] scale q.val sat rnd s.me.gen = .ok (x, f, g) →
      ∃ t, exec (.drain a td gs q h he sat rnd) s = .next t ∧ t.me.t[td] = x ∧ t.me.vstat = s.me.vstat ||| f ∧ t.me.gen = g ∧
        t.me.h[h] = (if he then bankAfter s.me.h[h] x else s.me.h[h]) ∧ Retired s t ∧
        Frame { t := [td], h := [h], flags := true, gen := true } s t) ∧
    (∀ k, drainTile s.me.a[a] s.me.t[td] scale q.val sat rnd s.me.gen = .error k → s.me.inTrap = false →
      ∃ t, exec (.drain a td gs q h he sat rnd) s = .next t ∧ Trapped (tileTrap k) s.me.pc s t)
/-- TSHAPE's read form writes the descriptor word, WLDT a slot or its fault, HSTCLR clears a bank, and NOP and XNOP change nothing
(R107, R111, R116, R147). -/
def Obligations.DescriptorSlotBankAndNoOperation : Prop :=
  ∀ (s : State) (ta tb w : TReg) (gb : GReg) (h : AReg),
    (∃ t, exec (.tshapeRead ta gb) s = .next t ∧
      t.me.reg gb = held gb (BitVec.ofNat 64 ((s.me.t[ta]).desc.rows + 2 ^ 8 * (s.me.t[ta]).desc.rb + 2 ^ 16 * (s.me.t[ta]).desc.fmt.code)) ∧
      Retired s t ∧ Frame { g := [gb] } s t) ∧
    (∀ x, slotOfTile s.me.t[tb] = .ok x → ∃ t, exec (.wldt w tb) s = .next t ∧ t.me.w[w] = x ∧ Retired s t ∧ Frame { w := [w] } s t) ∧
    (∀ k, slotOfTile s.me.t[tb] = .error k → s.me.inTrap = false → ∃ t, exec (.wldt w tb) s = .next t ∧ Trapped (tileTrap k) s.me.pc s t) ∧
    (∃ t, exec (.hstclr h) s = .next t ∧ t.me.h[h] = 0 ∧ Retired s t ∧ Frame { h := [h] } s t) ∧
    (∃ t, exec .nopC s = .next t ∧ Retired s t ∧ Frame {} s t) ∧ (∃ t, exec .xnop s = .next t ∧ Retired s t ∧ Frame {} s t)

/-! ### Branches and jumps (02 R41, 05 R144, R145) -/

/-- A conditional branch that is not taken goes on; one that is taken arrives at pc + 4 × off, or takes the misaligned-target trap
there, in the branching bundle; condition codes 2 and 3 are unassigned (R41, R144). -/
def Obligations.BranchesGoWhereTheySay : Prop :=
  (∀ (present : Feature → Bool) (w : Nat), w / 2 ^ 25 = 1 → (w / 2 ^ 12 % 8 = 2 ∨ w / 2 ^ 12 % 8 = 3) →
    decodeWord present w = .error .unassigned) ∧
  ∀ (i : Instr) (s : State) (off : BitVec 12) (p : Prop), branchForm s.me i = some (off, p) →
    let a := BitVec.ofInt 64 (s.me.pc.toInt + 4 * off.toInt)
    (¬p → ∃ t, exec i s = .next t ∧ Retired s t ∧ Frame {} s t) ∧
    (p → a.extractLsb' 0 2 = 0 → ∀ s', secondWord s a = .ok s' false →
      ∃ t, exec i s = .next t ∧ ArrivesAt a s' t ∧ Frame {} s' t) ∧
    (p → a.extractLsb' 0 2 = 0 → ∀ s', secondWord s a = .ok s' true → s'.me.inTrap = false →
      ∃ t, exec i s = .next t ∧ Trapped (targetFault a) s'.me.pc s' t) ∧
    (p → a.extractLsb' 0 2 ≠ 0 → s.me.inTrap = false → ∃ t, exec i s = .next t ∧ Trapped (targetFault a) s.me.pc s t)
/-- J, JAL and JALR arrive at their target with the address after the bundle in the link register, read before it is written, or take
the misaligned-target trap with nothing written (R41, R145). -/
def Obligations.JumpsLinkAndArrive : Prop :=
  ∀ (i : Instr) (s : State) (a : Word) (link : Option GReg), jumpForm s.me i = some (a, link) →
    (a.extractLsb' 0 2 = 0 → ∀ s', secondWord s a = .ok s' false →
      ∃ t, exec i s = .next t ∧ ArrivesAt a s' t ∧ (∀ gd, link = some gd → t.me.reg gd = held gd s'.me.npc) ∧
        Frame { g := link.toList } s' t) ∧
    (a.extractLsb' 0 2 = 0 → ∀ s', secondWord s a = .ok s' true → s'.me.inTrap = false →
      ∃ t, exec i s = .next t ∧ Trapped (targetFault a) s'.me.pc s' t) ∧
    (a.extractLsb' 0 2 ≠ 0 → s.me.inTrap = false → ∃ t, exec i s = .next t ∧ Trapped (targetFault a) s.me.pc s t)

/-! ### Loads, stores, AMOs and reductions (10 R231 to R237) -/

/-- A scalar access that is not a multiple of its size takes the alignment fault with EVA at its address (R102, R232). -/
def Obligations.MisalignedAccessesTrap : Prop :=
  ∀ (s : State), s.me.inTrap = false →
    (∀ i gd va n sg o sc, loadForm s.me i = some (gd, va, n, sg, o, sc) → Unwatched s va n false → va.toNat % n ≠ 0 →
      ∃ t, exec i s = .next t ∧ Trapped (alignTrap va 0) s.me.pc s t) ∧
    (∀ i va n v o sc, storeForm s.me i = some (va, n, v, o, sc) → Unwatched s va n true → va.toNat % n ≠ 0 →
      ∃ t, exec i s = .next t ∧ Trapped (alignTrap va 0) s.me.pc s t) ∧
    (∀ i op n gd ga gb o sc, amoForm i = some (op, n, gd, ga, gb, o, sc) → s.me.pend = .none → Unwatched s (s.me.reg ga) n false →
      Unwatched s (s.me.reg ga) n true → (s.me.reg ga).toNat % n ≠ 0 →
      ∃ t, exec i s = .next t ∧ Trapped (alignTrap (s.me.reg ga) 0) s.me.pc s t) ∧
    (∀ i k ga gb o sc, reduceForm i = some (k, ga, gb, o, sc) → Unwatched s (s.me.reg ga) k.size true →
      (s.me.reg ga).toNat % k.size ≠ 0 → ∃ t, exec i s = .next t ∧ Trapped (alignTrap (s.me.reg ga) 0) s.me.pc s t)
/-- Every scalar load of the core's own scratchpad writes its bytes, little-endian, sign- or zero-extended (R2, R231). -/
def Obligations.LoadsReadTheirBytes : Prop :=
  ∀ (i : Instr) (s s' : State) (gd : GReg) (va : Word) (n : Nat) (sg : Bool) (o : Ord) (sc : Scope) (p : Phys) (cell : Nat),
    loadForm s.me i = some (gd, va, n, sg, o, sc) → Unwatched s va n false → va.toNat % n = 0 → s.translate va 0 0 = .ok s' p →
    s'.placeOf p.pa = .ok (.scratch cell) → s'.coreNo cell = s'.me.id → p.pa % 128 + n ≤ 128 → s'.badWords = [] → s'.mem.wf = true →
    markOpen s' [p.pa / 128] = false →
    ∃ t, exec i s = .next t ∧ t.me.reg gd = held gd (loadedWord sg n (s'.mem.readN p.pa n)) ∧ Retired s' t ∧
      Frame { g := [gd], brand := decide (o = .acq ∨ o = .ar) } s' t
/-- A plain load that finds its line in the private cache (T, U or K) unpoisoned, with no store of the core to it open and no copy of the core still to mark it, writes the bytes of that copy;
one that finds it nowhere sends one read request to the line's home and waits (R171, R176, R215). That requests travel, or are served at
once, is the model's form (log entry 6). -/
def Obligations.LoadsHitTheCacheOrAskTheHome : Prop :=
  ∀ (i : Instr) (s s' : State) (gd : GReg) (va : Word) (n : Nat) (sg : Bool) (sc : Scope) (p : Phys),
    loadForm s.me i = some (gd, va, n, sg, .rlx, sc) → Unwatched s va n false → va.toNat % n = 0 → s.translate va 0 0 = .ok s' p →
    (s'.placeOf p.pa = .ok .localHbm ∨ s'.placeOf p.pa = .ok .peerHbm ∨ s'.placeOf p.pa = .ok .host) → p.pa % 128 + n ≤ 128 →
    s'.me.fills = [] → p.pa / 128 ∉ s'.me.undone → markOpen s' [p.pa / 128] = false →
    (∀ l, s'.me.lineOf (p.pa / 128) = some l → (l.st = .t ∨ l.st = .u ∨ l.st = .k) → Clean s' (p.pa / 128) → (p.pa / 128, false) ∉ s'.me.asked →
      ∃ t, exec i s = .next t ∧ t.me.reg gd = held gd (loadedWord sg n (l.data.toNat / 2 ^ (8 * (p.pa % 128)))) ∧ Retired s' t ∧
        Frame { g := [gd], brand := true } s' t) ∧
    (s'.me.lineOf (p.pa / 128) = none → s'.me.asked = [] → s'.lazy = true →
      let q : Pkt := .req { core := s'.me.id, line := p.pa / 128, req := .read false false false false }
      ∃ t, exec i s = .next t ∧ Waits s' t ∧ Frame {} s' t ∧ t.me.asked = [(p.pa / 128, false)] ∧
        t.pkts = s'.pkts ++ [q])
/-- Every scalar store to the core's own scratchpad writes its bytes there, little-endian, at once, and no other byte; so do TST, TSCT and
ACCSV with their rows and lines, in ascending order (R2, R101, R106, R113, R160, R231). That requests travel, or are served at once, is the
model's form (log entry 6). -/
def Obligations.StoresWriteTheirBytes : Prop :=
  (∀ (i : Instr) (s s' : State) (va : Word) (n : Nat) (v : Word) (o : Ord) (sc : Scope) (p : Phys) (cell : Nat),
    storeForm s.me i = some (va, n, v, o, sc) → Unwatched s va n true → va.toNat % n = 0 → s.translate va 1 0 = .ok s' p →
    (o = .rlx ∨ o = .acq ∨ sc = .core ∨ (Calm s' ∧ s'.me.storesDone = true ∧ marksDone s' s'.me.id = true)) →
    s'.placeOf p.pa = .ok (.scratch cell) → s'.coreNo cell = s'.me.id → p.pa % 128 + n ≤ 128 → s'.badWords = [] →
    markOpen s' [p.pa / 128] = false → s'.me.storeCount < 128 → s'.mem.wf = true →
    ∃ t, exec i s = .next t ∧ (∀ k, k < n → t.mem.read (p.pa + k) = v.extractLsb' (8 * k) 8) ∧ Retired s' t ∧
      Frame { mem := [(p.pa, n)] } s' t) ∧
  ∀ (s s₁ : State) (ta tb : TReg) (a : AReg) (ga gb : GReg) (band ef : Bool) (ps : List Piece),
    OwnPieces s₁ ps → s₁.badWords = [] → s₁.mem.wf = true → markOpen s₁ (ps.map (·.pa / 128)) = false →
    s₁.me.storeCount + ps.length ≤ 128 →
    let Writes (i : Instr) (v : Nat) : Prop :=
      ∃ t, exec i s = .next t ∧ t.mem = scattered s₁.mem ps v ∧ Retired s₁ t ∧ Frame { mem := pieceRanges ps } s₁ t
    let v := if band then (s.me.t[ta]).band.toNat else (s.me.t[ta]).data.toNat
    (rowPieces s s.me.t[ta] none ga gb band true = .ok s₁ ps → Writes (.tst ta ga gb band ef) v) ∧
    (rowPieces s s.me.t[ta] (some s.me.t[tb]) ga gb band true = .ok s₁ ps → Writes (.tsct ta tb ga gb band ef) v) ∧
    (Unwatched s (s.me.reg ga) 16384 true → imagePieces s (s.me.reg ga) 16384 0 1 = .ok s₁ ps →
      Writes (.accsv a ga) (s₁.me.a[a]).data.toNat)
/-- A scalar store elsewhere leaves as one write request to its serialisation point: it counts until it is done, its line enters the brand,
and the core's own U copy goes, with a fill of one on its way (R161, R171, R179, R210, R222). That requests travel, or are served at once, is
the model's form (log entry 6). -/
def Obligations.StoresLeaveForTheirHome : Prop :=
  ∀ (i : Instr) (s s' : State) (va : Word) (n : Nat) (v : Word) (o : Ord) (sc : Scope) (p : Phys),
    storeForm s.me i = some (va, n, v, o, sc) → Unwatched s va n true → va.toNat % n = 0 → s.translate va 1 0 = .ok s' p →
    (o = .rlx ∨ o = .acq ∨ sc = .core ∨ (Calm s' ∧ s'.me.storesDone = true ∧ marksDone s' s'.me.id = true)) →
    (s'.placeOf p.pa = .ok .localHbm ∨ s'.placeOf p.pa = .ok .peerHbm ∨ s'.placeOf p.pa = .ok .host) → p.pa % 128 + n ≤ 128 →
    Clean s' (p.pa / 128) → markOpen s' [p.pa / 128] = false → s'.me.storeCount < 128 →
    ∃ u, exec i s = .next (u.request { core := s'.me.id, line := p.pa / 128, req := .write p.pa n (v.toNat % 2 ^ (8 * n)) false false }).retire ∧
      u.net = (s'.coverFills (· == p.pa / 128)).net ∧ u.me.undone = s'.me.undone ++ [p.pa / 128] ∧ u.me.brand = (s'.me.brandWrite p.pa).brand ∧
      u.me.holdsU (p.pa / 128) = false ∧ Frame { brand := true } s' u
/-- An AMO that may go leaves as one request to its serialisation point and waits for its reply; a CAS carries what its destination register
holds (R234, R235). That requests travel, or are served at once, is the model's form (log entry 6). -/
def Obligations.AmosLeaveForTheirHome : Prop :=
  ∀ (i : Instr) (s s' : State) (op : AmoOp) (n : Nat) (gd ga gb : GReg) (o : Ord) (sc : Scope) (p : Phys) (dx : Bool),
    amoForm i = some (op, n, gd, ga, gb, o, sc) → s.me.pend = .none → Unwatched s (s.me.reg ga) n false →
    Unwatched s (s.me.reg ga) n true → (s.me.reg ga).toNat % n = 0 → s.translate (s.me.reg ga) 2 0 = .ok s' p →
    dx = (match p.leaf with | some x => x.dx | none => false) → s'.lazy = true → Clean s' (p.pa / 128) → markOpen s' [p.pa / 128] = false →
    p.pa % 128 + n ≤ 128 → (o = .rlx ∨ o = .acq ∨ sc = .core ∨ (s'.me.storesDone = true ∧ marksDone s' s'.me.id = true)) →
    (∀ cell off, s'.placeOf p.pa ≠ .ok (.control cell off)) →
    ∃ t, exec i s = .next t ∧ Waits s' t ∧ t.me.pend = .sent p.pa ∧ Frame {} s' t ∧
      t.pkts = (s'.coverFills (· == p.pa / 128)).pkts ++
        [.req { core := s'.me.id, line := p.pa / 128, req := .amo op n p.pa ((s.me.reg gb).toNat % 2 ^ (8 * n))
                  (if op = .cas then (s.me.reg gd).toNat % 2 ^ (8 * n) else 0) dx false }]
/-- An AMO whose reply has come writes the old value to its destination register, sign-extended (zero-extended for AMOFADD), and its line
enters the brand; one refused at its serialisation point takes the access fault that the reply carries (R222, R234, R235). That requests
travel, or are served at once, is the model's form (log entry 6). -/
def Obligations.AmosCompleteWithTheirReply : Prop :=
  ∀ (i : Instr) (s : State) (op : AmoOp) (n : Nat) (gd ga gb : GReg) (o : Ord) (sc : Scope),
    amoForm i = some (op, n, gd, ga, gb, o, sc) → Calm s →
    (∀ pa v, s.me.pend = .reply pa v →
      ∃ t, exec i s = .next t ∧ t.me.reg gd = held gd (if op = .fadd then v else loadedWord true n v.toNat) ∧ Retired s t ∧
        ((o = .rlx ∨ o = .rel) → t.me.brand = (s.me.brandWrite pa).brand) ∧ Frame { g := [gd], brand := true } s t) ∧
    (∀ k, s.me.pend = .fault (.access k) → s.me.inTrap = false →
      ∃ t, exec i s = .next t ∧ Trapped (accessTrap k (s.me.reg ga) 0) s.me.pc s t)
/-- A reduction leaves at retirement: to local HBM as a gathered reduction, or from a yard controller as the AMO of its operation with no
reply, as to every other place; on the core's own scratchpad it is performed at once (R160, R162, R212, R218, R237). That requests travel, or
are served at once, is the model's form (log entry 6). -/
def Obligations.ReductionsLeaveForTheirHome : Prop :=
  ∀ (i : Instr) (s s' : State) (k : GatherKind) (ga gb : GReg) (o : Ord) (sc : Scope) (p : Phys) (dx : Bool),
    reduceForm i = some (k, ga, gb, o, sc) → Unwatched s (s.me.reg ga) k.size true → (s.me.reg ga).toNat % k.size = 0 →
    s.translate (s.me.reg ga) 3 0 = .ok s' p → dx = (match p.leaf with | some x => x.dx | none => false) → Clean s' (p.pa / 128) →
    (o = .rlx ∨ o = .acq ∨ sc = .core ∨ (Calm s' ∧ s'.me.storesDone = true ∧ marksDone s' s'.me.id = true)) →
    markOpen s' [p.pa / 128] = false → s'.me.storeCount < 128 → (∀ cell off, s'.placeOf p.pa ≠ .ok (.control cell off)) →
    p.pa % 128 + k.size ≤ 128 →
    let v := (s.me.reg gb).toNat % 2 ^ (8 * k.size)
    let own := ∃ cell, s'.placeOf p.pa = .ok (.scratch cell) ∧ s'.coreNo cell = s'.me.id
    let q : Req := if s'.placeOf p.pa matches .ok .localHbm && !s'.me.isYard then .gather k (p.pa % 128) v else .amo k.op k.size p.pa v 0 dx true
    (¬own → ∃ u, exec i s = .next (u.request { core := s'.me.id, line := p.pa / 128, req := q }).retire ∧
      u.net = (s'.coverFills (· == p.pa / 128)).net ∧ u.me.undone = s'.me.undone ++ [p.pa / 128] ∧
      u.me.brand = (s'.me.brandWrite p.pa).brand ∧ Frame { brand := true } s' u) ∧
    (own → s'.mem.wf = true → ∃ t, exec i s = .next t ∧ t.mem = s'.mem.writeN p.pa (amoWord s'.mem k.op p.pa k.size v 0) k.size ∧ Retired s' t ∧
      Frame { mem := [(p.pa, k.size)] } s' t)

/-! ### Ordering, brands and cache control (08, 09, 10 R238 to R244) -/

/-- FENCE waits for what is older and of its set: with s, until the core's writes, sends and lock requests have performed, and above .core
until its counter is zero; with e, until its engines' accesses have performed, and above .core until they are done. Then it completes, and
nothing else changes (R176, R184, R238, R333). That requests travel, or are served at once, is the model's form (log entry 6). -/
def Obligations.FenceWaitsForItsSet : Prop :=
  ∀ (s : State) (set : FenceSet) (sc : Scope), Calm s →
    let placed := (set.s = true → sendsPlaced s s.me.id = true ∧ (sc ≠ .core → s.me.storesDone = true)) ∧
      (set.e = true → enginesPlaced s s.me.id = true ∧ (sc ≠ .core → enginesDone s s.me.id = true))
    (placed → ∃ t, exec (.fence set sc) s = .next t ∧ Retired s t ∧ Frame {} s t) ∧
    (¬placed → ∃ t, exec (.fence set sc) s = .next t ∧ Waits s t ∧ Frame {} s t)
/-- RELB, once every store and engine of the core is done, writes its value and the brand with the carry as one line, and the brand moves
into the carry; ACQB, once its line has come, writes the value and drops every U line that the line's brand hits (R224 to R226, R239, R240).
That requests travel, or are served at once, is the model's form (log entry 6). -/
def Obligations.BrandedReleaseAndAcquire : Prop :=
  ∀ (s s' : State) (gd ga gb : GReg) (sc : Scope) (p : Phys), (s.me.reg ga).toNat % 128 = 0 → p.pa % 128 = 0 →
    (s'.placeOf p.pa = .ok .localHbm ∨ s'.placeOf p.pa = .ok .peerHbm ∨ s'.placeOf p.pa = .ok .host) →
    (Unwatched s (s.me.reg ga) 128 true → s.me.kept = [] → s.translate (s.me.reg ga) 1 0 = .ok s' p → Calm s' →
      s'.me.storesDone = true → enginesDone s' s'.me.id = true →
      let q : Req := .write p.pa 128 ((s'.me.reg gb).toNat + s'.me.writtenBrand.toNat * 2 ^ 64) false true
      ∃ u, exec (.relb ga gb sc) s = .next (u.request { core := s'.me.id, line := p.pa / 128, req := q }).retire ∧
        u.net = (s'.coverFills (· == p.pa / 128)).net ∧ u.me.brand = 0 ∧ u.me.carry[0] = s'.me.carry[0] ||| s'.me.brand ∧
        u.me.undone = s'.me.undone ++ [p.pa / 128] ∧ Frame { brand := true } s' u) ∧
    (Unwatched s (s.me.reg ga) 128 false → s.translate (s.me.reg ga) 0 0 = .ok s' p → p.pa / 128 ∉ s'.me.undone →
      markOpen s' [p.pa / 128] = false → Clean s' (p.pa / 128) → s'.me.waitsH (p.pa / 128) = false → ∀ f, s'.me.fillOf (p.pa / 128) true = some f → f.fault = none →
      let a : BitVec 960 := f.data.extractLsb' 64 960
      ∃ t, exec (.acqb gd ga sc) s = .next t ∧ t.me.reg gd = held gd (f.data.setWidth 64) ∧ Retired s' t ∧
        (∀ l ∈ t.me.cache, l.isU = true → a ≠ fullBrand ∧ brandHits a l.line = false) ∧ Frame { g := [gd], brand := true } s' t)
/-- CLWB sends a write-back of a local HBM line to its home, CLINV drops the core's own U or T copy and nothing else, and waits for a line in H;
PREF retires in every state, whatever its pages, and one whose page fails asks for nothing (R241, R242). That requests travel, or are served at once, is the model's form (log entry 6). -/
def Obligations.CacheControlActsOnItsLine : Prop :=
  (∀ (s : State) (ga gb : GReg) (ef priv : Bool),
    (∃ t, exec (.pref ga gb ef priv) s = .next t ∧ t.me.res = .retired) ∧
    (s.me.reg gb = 0 → ∃ t, exec (.pref ga gb ef priv) s = .next t ∧ Retired s t ∧ Frame {} s t) ∧
    (∀ (s₁ : State) (k : Nat), s.me.level ≠ 3 → s.me.reg gb ≠ 0 → (s.me.reg ga).toNat % 128 + (s.me.reg gb).toNat ≤ 128 →
      probeAddr s (s.me.reg ga &&& ~~~127) .read (s.me.level == 0) 1024 = .ok s₁ (.error k) →
      exec (.pref ga gb ef priv) s = .next s₁.retire)) ∧
  ∀ (s s' : State) (ga : GReg) (p : Phys), s.translate (s.me.reg ga) 0 0 = .ok s' p →
    (s'.placeOf p.pa = .ok .localHbm → s'.me.storeCount < 128 →
      ∃ u, exec (.clwb ga) s = .next (u.request { core := s'.me.id, line := p.pa / 128, req := .clwb }).retire ∧ u.net = s'.net ∧
        u.me.undone = s'.me.undone ++ [p.pa / 128] ∧ Frame {} s' u) ∧
    (s'.placeOf p.pa ≠ .ok .localHbm → ∃ t, exec (.clwb ga) s = .next t ∧ Retired s' t ∧ Frame {} s' t) ∧
    ((s'.me.lineOf (p.pa / 128) = none ∨ ∃ l k, s'.me.lineOf (p.pa / 128) = some l ∧ (l.st = .k ∨ l.st = .g k)) →
      ∃ t, exec (.clinv ga) s = .next t ∧ t.me.cache = s'.me.cache ∧ Retired s' t ∧ Frame {} s' t) ∧
    (∀ l, s'.me.lineOf (p.pa / 128) = some l → l.st = .u →
      ∃ t, exec (.clinv ga) s = .next t ∧ t.me.cache = s'.me.cache.filter (fun x => x.line != p.pa / 128) ∧ Retired s' t ∧ Frame {} s' t) ∧
    (∀ l, s'.me.lineOf (p.pa / 128) = some l → l.st = .t →
      ∃ u, exec (.clinv ga) s = .next (u.post (.evict s'.me.id (p.pa / 128))).settle.retire ∧
        u.me.cache = s'.me.cache.filter (fun x => x.line != p.pa / 128) ∧ Frame {} s' u) ∧
    (∀ l, s'.me.lineOf (p.pa / 128) = some l → l.st = .h → Calm s' → ∃ t, exec (.clinv ga) s = .next t ∧ Waits s' t ∧ Frame {} s' t)
/-- RETAIN and UNPIN write the status that the retention master answers, or -4 for a range or an index that is none (R243, R244). That
requests travel, or are served at once, is the model's form (log entry 6). -/
def Obligations.RetentionRequestsWriteTheirStatus : Prop :=
  ∀ (s : State) (gd ga gb : GReg) (ways : Fin 8), Calm s →
    (∀ a v, s.me.pend = .reply a v →
      (∃ t, exec (.retain gd ga gb ways) s = .next t ∧ t.me.reg gd = held gd v ∧ Retired s t ∧ Frame { g := [gd] } s t) ∧
      (∃ t, exec (.unpin gd ga) s = .next t ∧ t.me.reg gd = held gd v ∧ Retired s t ∧ Frame { g := [gd] } s t)) ∧
    (s.me.pend = .none → 8 ≤ (s.me.reg ga).toNat →
      ∃ t, exec (.unpin gd ga) s = .next t ∧ t.me.reg gd = held gd (BitVec.ofInt 64 (-4)) ∧ Retired s t ∧ Frame { g := [gd] } s t) ∧
    (s.me.pend = .none → ∀ s' p, Unwatched s (s.me.reg ga) (s.me.reg gb).toNat true → s.translate (s.me.reg ga) 1 0 = .ok s' p →
      ((s.me.reg ga).toNat % 4096 ≠ 0 ∨ (s.me.reg gb).toNat % 4096 ≠ 0 ∨ s.me.reg gb = 0) →
      ∃ t, exec (.retain gd ga gb ways) s = .next t ∧ t.me.reg gd = held gd (BitVec.ofInt 64 (-4)) ∧ Retired s' t ∧ Frame { g := [gd] } s' t)

/-! ### Messages, copies and tiles (04, 10 R245 to R257) -/

/-- SEND and SENDB send one message to a stream of their launch, SENDB with the brand once stores and engines are done, and a target outside
the launch takes the TARGET trap; RECV and RECVANY take a present slot, and PEEK only looks (R246, R250). TKADD and TKADDB send a task
likewise, RECVT takes the head of its own queue, TKDONE reports the task in hand, TKSNAP of a task that keeps no restart record reads its bytes
alone, and LNCH writes the dispatcher's answer (R320 to R326). That requests travel, or are served at once, is the model's form (log entry
6). -/
def Obligations.MessagesAreSentAndTaken : Prop :=
  ∀ (s : State) (gd ga gb : GReg) (m : MReg) (sc : Scope), Calm s → s.me.storeCount < 128 →
    (∀ l x y, (s.me.reg ga).toNat < 256 → launchTarget s (s.me.reg ga).toNat = some (l, x, y) →
      (∃ u, exec (.send ga gb m) s = .next (u.sendNi (.msg l x y (some s.me.id)
          { slot := m.val, value := s.me.reg gb, sender := s.me.id, scope := .core, brand := none } false)).retire ∧
        u.ni = s.ni ∧ u.me.others = s.me.others + 1 ∧ Frame {} s u) ∧
      (s.me.storesDone = true → enginesDone s s.me.id = true →
        ∃ u, exec (.sendb ga gb m sc) s = .next (u.sendNi (.msg l x y (some s.me.id)
            { slot := m.val, value := s.me.reg gb, sender := s.me.id, scope := sc, brand := some s.me.writtenBrand } false)).retire ∧
          u.ni = s.ni ∧ u.me.others = s.me.others + 1 ∧ u.me.brand = 0 ∧ Frame { brand := true } s u)) ∧
    ((256 ≤ (s.me.reg ga).toNat ∨ launchTarget s (s.me.reg ga).toNat = none) → s.me.inTrap = false →
      (∃ t, exec (.send ga gb m) s = .next t ∧ Trapped (plainTrap 0x0A 1) s.me.pc s t) ∧
      (∃ t, exec (.sendb ga gb m sc) s = .next t ∧ Trapped (plainTrap 0x0A 1) s.me.pc s t)) ∧
    ((s.me.mbox[m]).present = true →
      ∃ t, exec (.recv gd m) s = .next t ∧ t.me.reg gd = held gd (s.me.mbox[m]).value ∧ Retired s t ∧
        (s.me.arrivals = [] → (t.me.mbox[m]).present = false ∧ ∀ k, k ≠ m → t.me.mbox[k] = s.me.mbox[k]) ∧
        Frame { g := [gd], m := List.finRange 32, brand := true } s t) ∧
    ((s.me.mbox[m]).present = false → ∃ t, exec (.recv gd m) s = .next t ∧ Waits s t ∧ Frame {} s t) ∧
    ((s.me.reg ga).setWidth 32 = 0#32 → gd ≠ gb →
      ∃ t, exec (.recvany gd ga gb) s = .next t ∧ t.me.reg gd = 0 ∧ t.me.reg gb = held gb (BitVec.allOnes 64) ∧ Retired s t ∧
        Frame { g := [gd, gb] } s t) ∧
    ((s.me.reg ga).getLsbD m.val = true → (s.me.mbox[m]).present = true → gd ≠ gb →
      (∀ k : MReg, k < m → ¬((s.me.reg ga).getLsbD k.val = true ∧ (s.me.mbox[k]).present = true)) →
      ∃ t, exec (.recvany gd ga gb) s = .next t ∧ t.me.reg gd = held gd (s.me.mbox[m]).value ∧
        t.me.reg gb = held gb (BitVec.ofNat 64 m.val) ∧ Retired s t ∧ Frame { g := [gd, gb], m := List.finRange 32, brand := true } s t) ∧
    (gd ≠ gb → ∃ t, exec (.peek gd gb m) s = .next t ∧ t.me.reg gd = held gd (if (s.me.mbox[m]).present then (s.me.mbox[m]).value else 0) ∧
      t.me.reg gb = held gb (oneIf ((s.me.mbox[m]).present = true)) ∧ Retired s t ∧ Frame { g := [gd, gb] } s t) ∧
    (∀ l, s.launchOfCore s.me.id = some l → s.me.storeCount + 2 ≤ 128 →
      (∀ n x y, taskTarget s (s.me.reg ga) = .ok s (n, x, y) →
        (∃ u, exec (.tkadd gd ga gb) s = .next (u.sendNi (.task n x y (some s.me.id)
            (buildTask s (s.me.reg ga) (s.me.reg gb) (s.me.reg gd) .core none) false)).retire ∧
          u.me.sent = s.me.sent + 1 ∧ u.me.others = s.me.others + 1 ∧ Frame {} s u) ∧
        (s.me.storesDone = true → enginesDone s s.me.id = true →
          ∃ u, exec (.tkaddb gd ga gb sc) s = .next (u.sendNi (.task n x y (some s.me.id)
              (buildTask s (s.me.reg ga) (s.me.reg gb) (s.me.reg gd) sc (some s.me.writtenBrand)) false)).retire ∧
            u.me.sent = s.me.sent + 1 ∧ u.me.others = s.me.others + 1 ∧ u.me.brand = 0 ∧ Frame { brand := true } s u)) ∧
      (∀ (s₁ : State) (m : Launch) (lgw : BitVec 3) (lgh : BitVec 2) (x : Task) (rest : List Task) (ps : List Piece),
        2 ^ lgw.toNat ≤ l.width → 2 ^ lgh.toNat ≤ l.height → s.me.inHand = none → s.me.kept = [] → Unwatched s (s.me.reg ga) 296 true →
        (s.me.reg ga).toNat % 8 = 0 → locateProg s (s.me.reg ga) 296 1 = .ok s₁ ps → OwnPieces s₁ ps → Calm s₁ → s₁.mem.wf = true →
        markOpen s₁ (ps.map (·.pa / 128)) = false → s₁.me.storeCount + ps.length + 4 ≤ 128 → s₁.me.granted = none →
        s₁.launchOfCore s₁.me.id = some m → m.done = false → s₁.me.taskQueue = x :: rest → x.barf = false → x.rest = false → x.brand = none →
        (7 ≤ s₁.me.paddock ∨ (s₁.pad s₁.me.paddock).rrMode = 0) →
        ∃ t, exec (.recvt gd ga lgw lgh) s = .next t ∧ t.me.reg gd = held gd (sext48 (x.record.toNat / 4 % 2 ^ 46 * 4)) ∧
          t.me.inHand = some (x.stamp s₁.tick) ∧ t.me.taskQueue = rest ∧ t.me.taken = s₁.me.taken + 1 ∧ Retired s₁ t ∧
          Frame { g := [gd], m := List.finRange 32, mem := pieceRanges ps } s₁ t) ∧
      (∀ x, s.me.inHand = some x → keepsRestart s x = false →
        (∃ u, exec .tkdone s = .next (u.sendNi (.report s.me.id x.owner x.seq l.id)).retire ∧ u.me.inHand = none ∧
          u.me.nTkdone = s.me.nTkdone + 1 ∧ u.me.others = s.me.others + 1 ∧ Frame {} s u) ∧
        (∀ (s₁ : State) (ps : List Piece), (s.me.reg gb).toNat ≤ 256 → (s.me.reg gb).toNat % 8 = 0 → (s.me.reg ga).toNat % 8 = 0 →
          Unwatched s (s.me.reg ga) (s.me.reg gb).toNat false → locateProg s (s.me.reg ga) (s.me.reg gb).toNat 0 = .ok s₁ ps →
          OwnPieces s₁ ps → s₁.badWords = [] → s₁.mem.wf = true → markOpen s₁ (ps.map (·.pa / 128)) = false → keepsRestart s₁ x = false →
          ∃ t, exec (.tksnap ga gb) s = .next t ∧ t.me.inHand = s₁.me.inHand ∧ Retired s₁ t ∧ Frame {} s₁ t))) ∧
    (∀ a v, s.me.pend = .reply a v →
      ∃ t, exec (.lnch gd ga gb) s = .next t ∧ t.me.reg gd = held gd v ∧ Retired s t ∧ Frame { g := [gd] } s t)
/-- CPY and CPYF hand a job over their translated pages to the core's engine, ARED an entry to the card's table, with the destination's
lines in the brand; a length beyond 4 GiB, and an ARED's of other than a whole number of lines, is COPY-LENGTH (R251, R252, R255). That requests travel, or are served at once, is the model's
form (log entry 6). EVA of COPY-LENGTH is free (log entry 43). -/
def Obligations.CopiesAndAllReducesAreHandedOver : Prop :=
  ∀ (s s₁ s₂ : State) (gd ga gb : GReg) (m : MReg) (sc : Scope) (src dst : List Piece),
    let len := (s.me.reg gb).toNat
    let ranges (ps : List Piece) : List (Nat × Nat) := ps.map fun p => (p.pa, p.len)
    (2 ^ 32 < len → s.me.inTrap = false →
      (∃ t k, exec (.cpy gd ga gb m sc) s = .next t ∧ k.cause = 8 ∧ k.kind = 11 ∧ Trapped k s.me.pc s t) ∧
      (∃ t k, exec (.cpyf gd ga gb m sc) s = .next t ∧ k.cause = 8 ∧ k.kind = 11 ∧ Trapped k s.me.pc s t)) ∧
    ((s.me.reg ga).toNat % 128 = 0 → (len % 128 ≠ 0 ∨ len < 128 ∨ 2 ^ 32 < len) → s.me.inTrap = false → ∀ bf16 : Bool,
      ∃ t k, exec (if bf16 then .aredBf16 gd ga gb m else .aredFp32 gd ga gb m) s = .next t ∧ k.cause = 8 ∧ k.kind = 11 ∧
        Trapped k s.me.pc s t) ∧
    (len ≤ 2 ^ 32 → Unwatched s (s.me.reg ga) len false → Unwatched s (s.me.reg gd) len true →
      locatePages s (s.me.reg ga) len 0 = .ok s₁ src → locatePages s₁ (s.me.reg gd) len 1 = .ok s₂ dst →
      enginesOut s₂ s₂.me.id < 4 → s₂.me.storeCount < 128 →
      ∃ u j, exec (.cpy gd ga gb m sc) s = .next (u.settleJob s₂.nextId).retire ∧ u.jobs = s₂.jobs ++ [j] ∧ j.id = s₂.nextId ∧
        j.core = s₂.me.id ∧ j.fill = false ∧ j.src = ranges src ∧ j.dst = ranges dst ∧ j.len = len ∧ j.slot = m.val ∧ j.scope = sc ∧
        j.unwritten = rangeLines (ranges dst) ∧ j.status = 0 ∧ Frame { brand := true } s₂ u) ∧
    (len ≤ 2 ^ 32 → Unwatched s (s.me.reg gd) len true → locatePages s (s.me.reg gd) len 1 = .ok s₂ dst →
      enginesOut s₂ s₂.me.id < 4 → s₂.me.storeCount < 128 →
      ∃ u j, exec (.cpyf gd ga gb m sc) s = .next (u.settleJob s₂.nextId).retire ∧ u.jobs = s₂.jobs ++ [j] ∧ j.id = s₂.nextId ∧
        j.core = s₂.me.id ∧ j.fill = true ∧ j.pattern = s.me.reg ga ∧ j.dst = ranges dst ∧ j.len = len ∧ j.slot = m.val ∧ j.scope = sc ∧
        j.unwritten = rangeLines (ranges dst) ∧ j.status = 0 ∧ Frame { brand := true } s₂ u) ∧
    ((s.me.reg ga).toNat % 128 = 0 → len % 128 = 0 → 128 ≤ len → len ≤ 2 ^ 32 → Unwatched s (s.me.reg ga) len false →
      Unwatched s (s.me.reg ga) len true → locatePages s (s.me.reg ga) len 2 = .ok s₂ dst →
      (∀ p ∈ dst, s₂.placeOf p.pa = .ok .localHbm) → s₂.link.up = true → enginesOut s₂ s₂.me.id < 4 → s₂.areds.length < 16 →
      ∀ bf16 : Bool, ∃ t a, exec (if bf16 then .aredBf16 gd ga gb m else .aredFp32 gd ga gb m) s = .next t ∧ t.areds = s₂.areds ++ [a] ∧
        a.core = s₂.me.id ∧ a.bf16 = bf16 ∧ a.tag = (s₂.me.reg gd).toNat % 2 ^ 16 ∧ a.buf = ranges dst ∧ a.len = len ∧ a.slot = m.val ∧
        a.matched = false ∧ a.status = 0 ∧ Retired s₂ t ∧ Frame { brand := true } s₂ t)
/-- TLD, TGTH, WLD and ACCLD write the bytes of their rows or lines, little-endian and each at its own place, into their register: those
of the core's own scratchpad are what memory holds there (R99 to R106, R110, R113). -/
def Obligations.TileLoadsReadTheirRows : Prop :=
  ∀ (s s₁ s₂ : State) (ta tb w : TReg) (a : AReg) (ga gb : GReg) (band ef : Bool) (fmt : Fmt) (mode : AccMode) (ps bs : List Piece),
    OwnPieces s₁ ps → s₁.badWords = [] → s₁.mem.wf = true → markOpen s₁ (ps.map (·.pa / 128)) = false →
    let put (x : Tile) : Tile := if band then { x with band := BitVec.ofNat _ (gathered s₁.mem ps) }
      else { x with data := BitVec.ofNat _ (gathered s₁.mem ps) }
    let slotOf (v : Nat) (f : Fmt) : Slot := { data := BitVec.ofNat _ v, band := BitVec.ofNat _ (v / 2 ^ 32768), fmt := f }
    (rowPieces s s.me.t[ta] none ga gb band false = .ok s₁ ps →
      ∃ t, exec (.tld ta ga gb band ef) s = .next t ∧ t.me.t[ta] = put s.me.t[ta] ∧ Retired s₁ t ∧ Frame { t := [ta] } s₁ t) ∧
    (rowPieces s s.me.t[ta] (some s.me.t[tb]) ga gb band false = .ok s₁ ps →
      ∃ t, exec (.tgth ta tb ga gb band ef) s = .next t ∧ t.me.t[ta] = put s.me.t[ta] ∧ Retired s₁ t ∧ Frame { t := [ta] } s₁ t) ∧
    (fmt ≠ .q4 → Unwatched s (s.me.reg ga) 4096 false → imagePieces s (s.me.reg ga) 4096 0 0 = .ok s₁ ps →
      ∃ t, exec (.wld w fmt ga gb ef) s = .next t ∧ t.me.w[w] = slotOf (gathered s₁.mem ps) fmt ∧ Retired s₁ t ∧ Frame { w := [w] } s₁ t) ∧
    (Unwatched s (s.me.reg ga) 16384 false → imagePieces s (s.me.reg ga) 16384 0 0 = .ok s₁ ps →
      ∃ t, exec (.accld a ga mode) s = .next t ∧ t.me.a[a] = { data := BitVec.ofNat _ (gathered s₁.mem ps), mode := mode } ∧
        Retired s₁ t ∧ Frame { a := [a] } s₁ t) ∧
    (Unwatched s (s.me.reg ga) 4096 false → Unwatched s (s.me.reg gb) 512 false → imagePieces s (s.me.reg ga) 4096 0 0 = .ok s₂ bs →
      imagePieces s₂ (s₂.me.reg gb) 512 32 0 = .ok s₁ ps → OwnPieces s₁ bs → markOpen s₁ (bs.map (·.pa / 128)) = false →
      ∃ t, exec (.wld w .q4 ga gb ef) s = .next t ∧ Retired s₁ t ∧ Frame { w := [w] } s₁ t ∧
        t.me.w[w] = slotOf (gathered s₁.mem (bs ++ shiftPieces 4096 ps)) .q4)
/-- TST, TSCT and ACCSV write the bytes of their rows or lines, in ascending order, and no other byte: to the core's own scratchpad at once
(R101, R106, R113). -/
def Obligations.TileStoresWriteTheirRows : Prop :=
  ∀ (s s₁ : State) (ta tb : TReg) (a : AReg) (ga gb : GReg) (band ef : Bool) (ps : List Piece),
    OwnPieces s₁ ps → s₁.badWords = [] → s₁.mem.wf = true → markOpen s₁ (ps.map (·.pa / 128)) = false →
    s₁.me.storeCount + ps.length ≤ 128 →
    let v := if band then (s.me.t[ta]).band.toNat else (s.me.t[ta]).data.toNat
    let Writes (i : Instr) (v : Nat) : Prop :=
      ∃ t, exec i s = .next t ∧ t.mem = scattered s₁.mem ps v ∧ Retired s₁ t ∧ Frame { mem := pieceRanges ps } s₁ t
    (rowPieces s s.me.t[ta] none ga gb band true = .ok s₁ ps → Writes (.tst ta ga gb band ef) v) ∧
    (rowPieces s s.me.t[ta] (some s.me.t[tb]) ga gb band true = .ok s₁ ps → Writes (.tsct ta tb ga gb band ef) v) ∧
    (Unwatched s (s.me.reg ga) 16384 true → imagePieces s (s.me.reg ga) 16384 0 1 = .ok s₁ ps →
      Writes (.accsv a ga) (s₁.me.a[a]).data.toNat)

/-! ### Tasks, launches, groups and locks (12 to 14) -/

/-- TKADD and TKADDB send one task, RECVT writes its entry and keeps it in hand, or writes 0 once the launch is done, TKDONE reports it, and
LNCH writes the dispatcher's answer (R320 to R326). That requests travel, or are served at once, is the model's form (log entry 6). -/
def Obligations.TasksAreAddedTakenAndEnded : Prop :=
  ∀ (s s₁ : State) (gd ga gb : GReg) (sc : Scope) (lgw : BitVec 3) (lgh : BitVec 2) (l : Launch) (ps : List Piece),
    Calm s → s.launchOfCore s.me.id = some l → s.me.storeCount < 100 →
    (∀ n x y, taskTarget s (s.me.reg ga) = .ok s (n, x, y) →
      (∃ u, exec (.tkadd gd ga gb) s = .next (u.sendNi (.task n x y (some s.me.id)
          (buildTask s (s.me.reg ga) (s.me.reg gb) (s.me.reg gd) .core none) false)).retire ∧
        u.ni = s.ni ∧ u.me.sent = s.me.sent + 1 ∧ u.me.others = s.me.others + 1 ∧ Frame {} s u) ∧
      (s.me.storesDone = true → enginesDone s s.me.id = true →
        ∃ u, exec (.tkaddb gd ga gb sc) s = .next (u.sendNi (.task n x y (some s.me.id)
            (buildTask s (s.me.reg ga) (s.me.reg gb) (s.me.reg gd) sc (some s.me.writtenBrand)) false)).retire ∧
          u.ni = s.ni ∧ u.me.sent = s.me.sent + 1 ∧ u.me.brand = 0 ∧ Frame { brand := true } s u)) ∧
    (2 ^ lgw.toNat ≤ l.width → 2 ^ lgh.toNat ≤ l.height → s.me.inHand = none → s.me.kept = [] → Unwatched s (s.me.reg ga) 296 true →
      (s.me.reg ga).toNat % 8 = 0 → locateProg s (s.me.reg ga) 296 1 = .ok s₁ ps → markOpen s₁ (ps.map (·.pa / 128)) = false →
      s₁.me.storeCount + ps.length + 4 ≤ 128 →
      (∀ x, s₁.me.granted = some x → keepsRestart s₁ x = false → x.rest = false → x.brand = none → OwnPieces s₁ ps → s₁.mem.wf = true →
        ∃ t, exec (.recvt gd ga lgw lgh) s = .next t ∧ t.me.reg gd = held gd (sext48 (x.record.toNat / 4 % 2 ^ 46 * 4)) ∧
          t.me.inHand = some (x.stamp s₁.tick) ∧ t.me.taken = s₁.me.taken + 1 ∧ t.me.granted = none ∧ Retired s₁ t ∧
          Frame { g := [gd], mem := pieceRanges ps } s₁ t) ∧
      (s₁.me.granted = none → (∀ m, s₁.launchOfCore s₁.me.id = some m → m.done = true) → s₁.launchOfCore s₁.me.id ≠ none →
        ∃ t, exec (.recvt gd ga lgw lgh) s = .next t ∧ t.me.reg gd = 0 ∧ Retired s₁ t ∧ Frame { g := [gd] } s₁ t)) ∧
    (∀ x, s.me.inHand = some x → keepsRestart s x = false →
      (∃ u, exec .tkdone s = .next (u.sendNi (.report s.me.id x.owner x.seq l.id)).retire ∧ u.me.inHand = none ∧
        u.me.nTkdone = s.me.nTkdone + 1 ∧ Frame {} s u) ∧
      ((s.me.reg gb).toNat ≤ 256 → (s.me.reg gb).toNat % 8 = 0 → (s.me.reg ga).toNat % 8 = 0 →
        Unwatched s (s.me.reg ga) (s.me.reg gb).toNat false → locateProg s (s.me.reg ga) (s.me.reg gb).toNat 0 = .ok s₁ ps →
        OwnPieces s₁ ps → s₁.badWords = [] → s₁.mem.wf = true → markOpen s₁ (ps.map (·.pa / 128)) = false → keepsRestart s₁ x = false →
        ∃ t, exec (.tksnap ga gb) s = .next t ∧ Retired s₁ t ∧ Frame {} s₁ t)) ∧
    (∀ a v, s.me.pend = .reply a v →
      ∃ t, exec (.lnch gd ga gb) s = .next t ∧ t.me.reg gd = held gd v ∧ Retired s t ∧ Frame { g := [gd] } s t) ∧
    (s.me.inHand = none → s.me.inTrap = false → ∃ t, exec .tkdone s = .next t ∧ Trapped (progressTrap 4) s.me.pc s t)
/-- BAR and every MRED contribute their value to the next episode of the group that holds their stream, or take the GROUP trap where the
group is larger than the launch (R282, R319, R328). -/
def Obligations.GroupInstructionsContribute : Prop :=
  ∀ (i : Instr) (s : State) (op : GroupOp) (v : Word) (lgw : BitVec 3) (lgh : BitVec 2) (m : MReg) (l : Launch),
    contributionForm s.me i = some (op, v, lgw, lgh, m) → s.launchOfCore s.me.id = some l →
    let ix : Fin 20 := Fin.ofNat 20 (lgw.toNat * 4 + lgh.toNat)
    let g : Group := { gw := 2 ^ lgw.toNat, gh := 2 ^ lgh.toNat, gx := s.me.rx - s.me.rx % 2 ^ lgw.toNat, gy := s.me.ry - s.me.ry % 2 ^ lgh.toNat }
    (2 ^ lgw.toNat ≤ l.width → 2 ^ lgh.toNat ≤ l.height → openContributions s l < 16 → s.me.storeCount < 128 →
      ∃ u c, exec i s = .next (u.sendNi (.contrib s.me.id c)).retire ∧ c.launch = l.id ∧ c.group = g ∧ c.episode = s.me.episodes[ix] ∧
        c.rx = s.me.rx ∧ c.ry = s.me.ry ∧ c.op = op ∧ c.value = v ∧ c.slot = m.val ∧ u.ni = s.ni ∧ u.me.episodes[ix] = s.me.episodes[ix] + 1 ∧ u.me.others = s.me.others + 1 ∧ Frame {} s u) ∧
    ((l.width < 2 ^ lgw.toNat ∨ l.height < 2 ^ lgh.toNat) → s.me.inTrap = false →
      ∃ t, exec i s = .next t ∧ Trapped (progressTrap 3) s.me.pc s t)
/-- LKACQ and LKTRY make a pending entry and send a request to the line's home, and are answered DEADLOCK for a line that the core holds; LKREL
hands the lock to the next waiter with the brand, or frees it and keeps a stub; a lock that is not held is NOT-HELD (R302, R305, R306, R331,
R332). That requests travel, or are served at once, is the
model's form (log entry 6). -/
def Obligations.LockInstructionsRequestAndRelease : Prop :=
  ∀ (s s' : State) (ga : GReg) (m : MReg) (p : Piece),
    locateProg s (s.me.reg ga) 1 1 = .ok s' [p] → s'.placeOf p.pa = .ok .localHbm →
    let line := p.pa / 128
    (Unwatched s (s.me.reg ga &&& ~~~127) 128 true → markOpen s' [line] = false →
      (s'.me.lockOf line = none → (s'.me.locks.filter (·.waits)).length < 4 → s'.me.locks.length < 8 → ∀ try_ : Bool,
        ∃ u e, exec (if try_ then .lktry ga m else .lkacq ga m) s = .next u.settleLocks.retire ∧
          u.lockPkts = s'.lockPkts ++ [.lock { core := s'.me.id, num := s'.nextId } line try_] ∧ u.me.locks = s'.me.locks ++ [e] ∧
          e.line = line ∧ e.num = s'.nextId ∧ e.st = .pending ∧ e.slot = m.val ∧ e.next = none ∧ e.try_ = try_ ∧ Frame {} s' u) ∧
      (∀ e, s'.me.lockOf line = some e → e.waits = false → ∀ try_ : Bool,
        exec (if try_ then .lktry ga m else .lkacq ga m) s =
          .next (s'.tell s'.me.id (statusMsg s'.me.id { e with slot := m.val, va := s.me.reg ga } 3 0 none)).retire)) ∧
    (∀ e, s.me.kept = [] → s'.me.lockOf line = some e → (∀ f ∈ s'.me.locks, f.line = line → f = e) → e.st = .held → Calm s' →
      s'.me.storesDone = true → enginesDone s' s'.me.id = true →
      (∀ n, e.next = some n → ∃ u, exec (.lkrel ga) s = .next u.settleLocks.retire ∧
        u.lockPkts = s'.lockPkts ++ [.moved (e.who s'.me.id) line n, .handoff n line (some s'.me.writtenBrand) false] ∧
        u.me.lockOf line = none ∧ u.me.brand = 0 ∧ Frame { brand := true } s' u) ∧
      (e.next = none → ∃ u f, exec (.lkrel ga) s = .next u.settleLocks.retire ∧ u.lockPkts = s'.lockPkts ++ [.free (e.who s'.me.id) line] ∧
        u.me.lockOf line = some f ∧ f.st = .stub ∧ f.brand = some s'.me.writtenBrand ∧ u.me.brand = 0 ∧ Frame { brand := true } s' u)) ∧
    (s.me.kept = [] → s'.me.lockOf line = none → s'.me.inTrap = false → ∃ t, exec (.lkrel ga) s = .next t ∧ Trapped (lockTrap 3) s'.me.pc s' t)

/-! ### System, traps, contexts, debug (16, 19) -/

/-- SYSRD reads and SYSWR writes every system register that the level allows; one that is not listed is a reserved encoding (R349,
R350). -/
def Obligations.SystemRegistersReadAndWrite : Prop :=
  ∀ (s : State) (gd ga : GReg) (n : BitVec 10),
    (∀ v, sysRead s.me n.toNat = some v → (s.me.level ≠ 0 ∨ n.toNat < 8) →
      (∃ t, exec (.sysrd gd n) s = .next t ∧ t.me.reg gd = held gd v ∧ Retired s t ∧ Frame { g := [gd] } s t) ∧
      (∃ t, exec (.syswr ga n) s = .next t ∧ sysRead t.me n.toNat = sysAfter s.me n.toNat (s.me.reg ga) ∧ Retired s t ∧
        (∀ k, k ≠ n.toNat → sysRead t.me k = sysRead s.me k) ∧ Frame { flags := true, trap := true, sys := true } s t)) ∧
    (sysRead s.me n.toNat = none → s.me.inTrap = false →
      (∃ t, exec (.sysrd gd n) s = .next t ∧ Trapped (plainTrap 1 3) s.me.pc s t) ∧
      (∃ t, exec (.syswr ga n) s = .next t ∧ Trapped (plainTrap 1 3) s.me.pc s t))
/-- A privileged instruction at user level takes the privilege trap with nothing else changed (R346). -/
def Obligations.UserLevelMayNotRunThePrivileged : Prop :=
  ∀ (i : Instr) (s : State), Privileged i → s.me.level = 0 → s.me.inTrap = false →
    ∃ t, exec i s = .next t ∧ Trapped (plainTrap 4 1) s.me.pc s t
/-- Taking a trap saves the pc, cause, address and row, enters supervisor level (machine level on a yard controller) at STVEC with INTRAP
and PLV set, and changes no other register and no memory; one inside a trap kills the launch (R348). What a double trap of a yard controller
does is the model's reading (log entry 27). -/
def Obligations.TakingATrapSavesAndEnters : Prop :=
  ∀ (s : State) (k : Trap) (epc : Word) (async : Bool),
    ((s.me.inTrap = false ∨ async = true) → Trapped k epc s (s.takeTrap k epc async)) ∧
    (s.me.inTrap = true → s.me.isYard = false → ∀ l, s.launchOfCore s.me.id = some l → ∀ m, (s.takeTrap k epc false).launchOf l.id = some m →
      m.st = .killed)
/-- TRAP retires and then traps with cause SYSCALL, its code, and EPC at the next bundle; TRET restores the level from PLV, clears INTRAP
and arrives at EPC; BRK takes the DEBUG trap where it cannot halt the core, and halts it where it can (R351, R352, R416). The other system and
debug instructions complete too: XLATI removes what it names and retires once every removal has been acknowledged, XLATP writes what its probe
found, CTXSV writes the core's image and CTXLD loads one that passes every check, HALT ends the stream, TRCMARK changes nothing but the trace,
and PERFRD reads a counter (R148, R360 to R362, R377, R378, R416, R418). That a yard controller stays at machine level is the model's reading
(log entry 30), and that requests travel, or are served at once, its form (log entry 6). -/
def Obligations.TrapReturnAndBreak : Prop :=
  ∀ (s : State) (code : BitVec 10),
    (s.me.inTrap = false → s.me.run = .running → ∃ t, exec (.trap code) s = .next t ∧ t.me.epc = s.me.npc ∧
      t.me.ecause = BitVec.ofNat 64 (5 * 2 ^ 24 + code.toNat) ∧ t.me.eva = 0 ∧ t.me.erow = 0 ∧ t.me.inTrap = true ∧
      t.me.plv = s.me.level ∧ t.me.level = (if s.me.isYard then 3 else 1) ∧ t.me.pc = s.me.stvec ∧ t.me.nBundles = s.me.nBundles + 1 ∧
      Frame { trap := true } s t) ∧
    (s.me.level ≠ 0 → ∃ t, exec .tret s = .next t ∧ t.me.inTrap = false ∧ t.me.level = (if s.me.isYard then 3 else s.me.plv) ∧
      ArrivesAt s.me.epc s t ∧ t.me.epc = s.me.epc ∧ t.me.ecause = s.me.ecause ∧ t.me.eva = s.me.eva ∧ t.me.erow = s.me.erow ∧
      Frame { trap := true } s t) ∧
    (s.me.inTrap = false → (s.me.dbg.brken = false ∨ haltImage s s.me.id = none) →
      ∃ t, exec (.brk code) s = .next t ∧ Trapped { cause := 0x12, kind := 0, code := code.toNat, va := 0, row := 0 } s.me.pc s t) ∧
    (s.me.dbg.brken = true → haltImage s s.me.id ≠ none → s.me.dbg.skips 5 0 = false →
      ∃ t, exec (.brk code) s = .next t ∧ t.me.run = .debugHalted ∧ t.me.dbg.cause = 5) ∧
    (∀ (gd ga gb : GReg) (n : Fin 8), s.me.level ≠ 0 →
      let va := (s.me.reg ga).toNat
      let len := (s.me.reg gb).toNat
      let lo := if len = 0 then 0 else va % 2 ^ 48
      let hi := if len = 0 then 0 else min (va % 2 ^ 48 + len) (2 ^ 48)
      (Calm s → s.me.pend ≠ .none → removalsOver s = true →
        (∃ t, exec (.xlatiRange ga gb n) s = .next t ∧ Retired s t ∧ Frame {} s t) ∧
        (∃ t, exec (.xlatiAsid ga n) s = .next t ∧ Retired s t ∧ Frame {} s t) ∧
        (∃ t, exec (.xlatiAll n) s = .next t ∧ Retired s t ∧ Frame {} s t)) ∧
      (s.lazy = false → Calm s → s.me.pend = .none → s.me.storesDone = true → s.me.kept = [] → s.me.level = 1 → s.me.paddock < 7 →
        s.me.id < 512 → (∀ c ∈ s.cores, c.id < 512 → c.paddock ≠ s.me.paddock) → s.ats = [] → s.jobs = [] → s.areds = [] → s.me.storePages = [] →
        let Removes (i : Instr) (sel : XSel) : Prop :=
          ∃ t, exec i s = .next t ∧ t.me.ctc = s.me.ctc.filter (fun x => !sel.hits x) ∧
            (t.pad s.me.paddock).stc = (s.pad s.me.paddock).stc.filter (fun e => !sel.hits e.2.2) ∧ Retired s t ∧ Frame {} s t
        Removes (.xlatiRange ga gb n) (.range (va / 2 ^ 48) lo hi) ∧ Removes (.xlatiAsid ga n) (.asid (va / 2 ^ 48)) ∧
        Removes (.xlatiAll n) .all) ∧
      (∀ (s₁ : State) (user : Bool) (acc : Access) r, probeAddr s (s.me.reg ga) acc user s.me.id = .ok s₁ r →
        ∃ t, exec (.xlatp gd ga user acc) s = .next t ∧ t.me.reg gd = held gd (probeWord r) ∧ Retired s₁ t ∧ Frame { g := [gd] } s₁ t) ∧
      (∀ (s₁ : State) (ps : List Piece), va % 4096 = 0 → OwnPieces s₁ ps → Calm s₁ → s₁.me.storesDone = true → enginesDone s₁ s₁.me.id = true →
        locksPlaced s₁ s₁.me.id = true → s₁.mem.wf = true →
        (Unwatched s (s.me.reg ga) 0x40000 true → locate s (s.me.reg ga) 0x40000 1 0 0 = .ok s₁ ps →
          ∃ t, exec (.ctxsv ga) s = .next t ∧ t.mem = scattered s₁.mem ps (contextImage s₁.me s₁.me.epc s₁.me.plv) ∧ Retired s₁ t ∧
            Frame { mem := pieceRanges ps } s₁ t) ∧
        (Unwatched s (s.me.reg ga) 0x40000 false → locate s (s.me.reg ga) 0x40000 0 0 0 = .ok s₁ ps →
          contextOk (s₁.present s₁.me.id .q4blk) (gathered s₁.mem ps) s₁.me.level = true →
          ∃ t, exec (.ctxld ga) s = .next t ∧
            (∀ r : GReg, t.me.reg r = held r (BitVec.ofNat 64 (imgWord (gathered s₁.mem ps) (0x80 + 8 * r.val)))) ∧
            t.me.epc = BitVec.ofNat 64 (imgWord (gathered s₁.mem ps) 0x180) ∧ t.me.plv = imgWord (gathered s₁.mem ps) 0x188 % 4 ∧
            t.me.level = s₁.me.level ∧ t.me.inTrap = s₁.me.inTrap ∧ Retired s₁ t ∧ t.mem = s₁.mem))) ∧
    (Calm s → s.me.storesDone = true → enginesDone s s.me.id = true → s.me.inHand = none → s.me.locks = [] → s.me.loft = [] →
      locksPlaced s s.me.id = true →
      ∃ u, exec .halt s = .next u.endStream ∧ u.me.run = .halted ∧ u.me.res = .retired ∧ (∀ m : MReg, u.me.mbox[m] = freshMSlot) ∧
        u.me.arrivals = [] ∧ u.me.taskQueue = s.me.taskQueue ∧ Frame { m := List.finRange 32 } s u) ∧
    (∀ ga : GReg, ∃ t, exec (.trcmark ga code) s = .next t ∧ Retired s t ∧ Frame {} s t) ∧
    (∀ gd : GReg, code.toNat < 15 → ∃ t v, exec (.perfrd gd code) s = .next t ∧ t.me.reg gd = held gd v ∧ Retired s t ∧ Frame { g := [gd] } s t ∧
      (code.toNat = 1 → v = s.me.nBundles))
/-- XLATI completes once every removal it sent has been acknowledged, XLATP writes what the probe found, CTXSV writes the core's image to
its pages, and CTXLD replaces the core's state by an image that passes every check (R360 to R362, R376 to R378). That requests travel, or
are served at once, is the model's form (log entry 6). The model's readings at images and probes are log entries 24, 25, 38, 41 and 49. -/
def Obligations.TranslationsAndContexts : Prop :=
  ∀ (s s₁ : State) (gd ga gb : GReg) (n : Fin 8) (user : Bool) (acc : Access) (ps : List Piece), s.me.level ≠ 0 →
    (Calm s → s.me.pend ≠ .none → removalsOver s = true →
      (∃ t, exec (.xlatiRange ga gb n) s = .next t ∧ Retired s t ∧ Frame {} s t) ∧
      (∃ t, exec (.xlatiAsid ga n) s = .next t ∧ Retired s t ∧ Frame {} s t) ∧
      (∃ t, exec (.xlatiAll n) s = .next t ∧ Retired s t ∧ Frame {} s t)) ∧
    (s.lazy = true → s.me.pend = .none → s.me.storesDone = true → s.me.level = 1 → s.me.paddock < 7 →
      ∃ t, exec (.xlatiAll n) s = .next t ∧ Waits s t ∧ Frame {} s t ∧ .removal s.me.id s.me.paddock .all 1027 ∈ t.ctl ∧
        ∀ c ∈ s.allCores, c.id < 512 → c.paddock = s.me.paddock → .removal s.me.id s.me.paddock .all c.id ∈ t.ctl) ∧
    (∀ r, probeAddr s (s.me.reg ga) acc user s.me.id = .ok s₁ r →
      ∃ t, exec (.xlatp gd ga user acc) s = .next t ∧ t.me.reg gd = held gd (probeWord r) ∧ Retired s₁ t ∧ Frame { g := [gd] } s₁ t) ∧
    (Unwatched s (s.me.reg ga) 0x40000 true → (s.me.reg ga).toNat % 4096 = 0 →
      locate s (s.me.reg ga) 0x40000 1 0 0 = .ok s₁ ps → Calm s₁ → s₁.me.storesDone = true → enginesDone s₁ s₁.me.id = true → OwnPieces s₁ ps →
      locksPlaced s₁ s₁.me.id = true → s₁.mem.wf = true →
      ∃ t, exec (.ctxsv ga) s = .next t ∧ t.mem = scattered s₁.mem ps (contextImage s₁.me s₁.me.epc s₁.me.plv) ∧ Retired s₁ t ∧
        Frame { mem := pieceRanges ps } s₁ t) ∧
    (Unwatched s (s.me.reg ga) 0x40000 false → (s.me.reg ga).toNat % 4096 = 0 → locate s (s.me.reg ga) 0x40000 0 0 0 = .ok s₁ ps →
      OwnPieces s₁ ps → s₁.mem.wf = true → Calm s₁ → s₁.me.storesDone = true → enginesDone s₁ s₁.me.id = true →
      locksPlaced s₁ s₁.me.id = true →
      (contextOk (s₁.present s₁.me.id .q4blk) (gathered s₁.mem ps) s₁.me.level = true →
        ∃ t, exec (.ctxld ga) s = .next t ∧ (∀ r : GReg, t.me.reg r = held r (BitVec.ofNat 64 (imgWord (gathered s₁.mem ps) (0x80 + 8 * r.val)))) ∧
          t.me.epc = BitVec.ofNat 64 (imgWord (gathered s₁.mem ps) 0x180) ∧ t.me.plv = imgWord (gathered s₁.mem ps) 0x188 % 4 ∧
          t.me.level = s₁.me.level ∧ t.me.inTrap = s₁.me.inTrap ∧ Retired s₁ t ∧ t.mem = s₁.mem) ∧
      (contextOk (s₁.present s₁.me.id .q4blk) (gathered s₁.mem ps) s₁.me.level = false → s₁.me.inTrap = false →
        ∃ t, exec (.ctxld ga) s = .next t ∧ Trapped (tileTrap .format) s₁.me.pc s₁ t))
/-- HALT, with every store and engine done and no lock left, ends the stream with its slots, arrivals and task in hand dropped; TRCMARK
changes nothing but the trace, and PERFRD reads a counter or takes the reserved-encoding trap (R148, R416, R418). That requests travel, or
are served at once, is the model's form (log entry 6). What a counter of cycles reads is free (log entry 7). -/
def Obligations.HaltMarkAndCounters : Prop :=
  ∀ (s : State) (gd ga : GReg) (n code : BitVec 10),
    (Calm s → s.me.storesDone = true → enginesDone s s.me.id = true → s.me.inHand = none → s.me.locks = [] → s.me.loft = [] →
      locksPlaced s s.me.id = true →
      ∃ u, exec .halt s = .next u.endStream ∧ u.me.run = .halted ∧ u.me.res = .retired ∧ (∀ m : MReg, u.me.mbox[m] = freshMSlot) ∧
        u.me.arrivals = [] ∧ u.me.inHand = none ∧ u.me.taskQueue = s.me.taskQueue ∧ Frame { m := List.finRange 32 } s u) ∧
    (∃ t, exec (.trcmark ga code) s = .next t ∧ Retired s t ∧ Frame {} s t) ∧
    (n.toNat < 15 → ∃ t v, exec (.perfrd gd n) s = .next t ∧ t.me.reg gd = held gd v ∧ Retired s t ∧ Frame { g := [gd] } s t ∧
      (n.toNat = 1 → v = s.me.nBundles) ∧ (n.toNat = 5 → v = s.me.nMma) ∧
      (s.me.isYard = false → (n.toNat = 10 → v = s.me.nTkdone) ∧ (n.toNat = 11 → v = s.me.nSteals) ∧ (n.toNat = 12 → v = s.me.nFailed))) ∧
    (15 ≤ n.toNat → s.me.inTrap = false → ∃ t, exec (.perfrd gd n) s = .next t ∧ Trapped (plainTrap 1 3) s.me.pc s t)

/-! ### Events: memory traffic (07, 09, 10) -/

/-- A request at its home slice, with its line resident in N and no round open: a read is answered with the line and makes its core a sharer
if it is on the home's die, a write or an AMO is placed (at once with no sharer, by a round otherwise), a reduction opens a gathered copy,
and a write-back clears the line's dirty mark; a line's fill brings it to N (R165, R171, R208, R218, R234, R241). That requests travel, or
are served at once, is the model's form (log entry 6); when an AMO's reply leaves is its choice (log entry 60), and so are the cycles of a
frame (log entry 12). -/
def Obligations.RequestsAreServedAtTheirHome : Prop :=
  ∀ (s : State) (i : Nat) (r : MReq) (d : DirLine),
    (AtIndex s i (.req r) → r.core ≠ 1025 → HomeReady s r.line d → setBlocked s r.line = false → Unlogged s r.line →
      (∀ acq ef pref sync, r.req = .read acq ef pref sync →
        (r.fillsHome = true → Serves (.homeRead i) s i s.mem [] fun _ => True) ∧
        (r.fillsHome = false →
          Serves (.homeRead i) s i s.mem
            [.fill r.core r.line (s.mem.line r.line) (canShare s r.core r.line) acq pref (homeFresh (s.took i) r.line) none] fun u =>
              canShare s r.core r.line = true → ∃ e, u.dirOf r.line = some e ∧ r.core ∈ e.sharers ∧ ∀ k ∈ d.sharers, k ∈ e.sharers)) ∧
      (∀ pa n v ef sync, r.req = .write pa n v ef sync →
        Serves (.storeRound i) s i (openedMem s.mem d pa n v) (openedPkts d pa n v (some r.core) none) fun u =>
          d.sharers ≠ [] → ∃ e, u.dirOf r.line = some e ∧
            e.round = some { waiting := d.sharers, pa := pa, n := n, v := v, writer := some r.core }) ∧
      (∀ op n pa o c dx reduce, r.req = .amo op n pa o c dx reduce → Regular r →
        let v := amoWord s.mem op pa n o c
        let old := s.mem.readN pa n
        Serves (.amoAtHome i) s i (openedMem s.mem d pa n v)
          (openedPkts d pa n v (if reduce then some r.core else none) (if reduce then none else some (r.core, old))) fun u =>
            d.sharers ≠ [] → ∃ e, u.dirOf r.line = some e ∧ e.round = some
              { waiting := d.sharers, pa := pa, n := n, v := v, writer := if reduce then some r.core else none,
                amo := if reduce then none else some (r.core, old) }) ∧
      (∀ k off o, r.req = .gather k off o → d.sharers = [] → ((s.core r.core).dropLine r.line).hasWay r.line = true →
        Serves (.gatherRequest i) s i s.mem [.done r.core r.line] fun u =>
          ∃ e l, u.dirOf r.line = some e ∧ e.st = .g [r.core] false ∧ (u.core r.core).lineOf r.line = some l ∧ l.st = .g k ∧
            l.data = reduceAt k (identityLine k) off o) ∧
      (r.req = .clwb →
        Serves (.hbmWriteComplete i) s i s.mem [.done r.core r.line] fun u => ∃ e, u.dirOf r.line = some e ∧ e.dirty = false)) ∧
    (∀ line, s.dirOf line = some d → d.st = .w →
      ∃ (u : State) (e : DirLine), exec (.hbmFill line) s = .next u.settle ∧ u.mem = s.mem ∧ u.dirOf line = some e ∧ e.st = .n)
/-- A request is performed where the only copy is, at a scratchpad's port, at the host once its completion comes, at the peer through an
open window, and answered from there; the host agent passes a posted write on, and refuses an AMO that the host cannot do; an error
completion or a link that is down answers with its access fault (R160, R169, R170, R236, R374). That requests travel, or are served at once,
is the model's form (log entry 6); that a posted write changes host memory as the host agent passes it on is its choice (log entry 64), and so
are what the peer's copy of a line is (log entry 2) and the host's answers (log entry 15). -/
def Obligations.PortsHostAndPeerPerformRequests : Prop :=
  ∀ (s : State) (i : Nat) (r : MReq),
    let To (x : Instr) (m : Memory) (ps : List Pkt) : Prop := Serves x s i m ps fun _ => True
    (AtIndex s i (.req r) → Regular r →
      (∀ cell, s.placeOf (r.line * 128) = .ok (.scratch cell) → absentDie s (.scratch cell) r.line = false →
        To (.scratchpadPortAccess i) (portResult s.mem r false).1 [(portResult s.mem r false).2]) ∧
      (s.placeOf (r.line * 128) = .ok .host → s.dies[(0 : Fin 2)] = .up → hostBusy (s.took i) r.line = false →
        (∀ pa n v ef sync, r.req = .write pa n v ef sync → To (.hostAgentRequest i) (s.mem.writeN pa v n) [.done r.core r.line]) ∧
        (∀ acq ef pref sync, r.req = .read acq ef pref sync → To (.hostAgentRequest i) s.mem [.hostWait r 0]) ∧
        (∀ op n pa o c dx reduce, r.req = .amo op n pa o c dx reduce → (dx = true ∨ s.cardFeature 6 = true) →
          To (.hostAgentRequest i) s.mem [.hostWait r 0]) ∧
        (∀ op n pa o c, r.req = .amo op n pa o c false false → s.cardFeature 6 = false →
          To (.hostAgentRequest i) s.mem [.amoReply r.core r.line 0 (some (.access .hostAtomic))])) ∧
      ((s.placeOf (r.line * 128) = .ok .peerHbm ∨ s.placeOf (r.line * 128) = .ok .peerScratch) → r.core < 512 →
        (s.link.up = true → s.link.retraining = false →
          windowPermits s.peerWindows.toList (s.core r.core).tag (r.line * 128) r.req.windowKind = true →
          let fresh := Config.fresh s.tick []
          To (.peerAccess i) (portResult s.mem r fresh).1 [(portResult s.mem r fresh).2]) ∧
        (s.link.up = true → s.link.retraining = false →
          windowPermits s.peerWindows.toList (s.core r.core).tag (r.line * 128) r.req.windowKind = false →
          Refuses (.peerAccess i) s i r .linkWindow) ∧
        (s.link.up = false → s.link.retraining = false → Refuses (.peerAccess i) s i r .linkAbsent))) ∧
    (∀ n, AtIndex s i (.hostWait r n) → Regular r →
      ((r.loops = false ∨ n ≠ 0) → To (.hostCompletion i .ok) (portResult s.mem r true).1 [(portResult s.mem r true).2]) ∧
      (r.loops = true → n = 0 → To (.hostCompletion i .ok) s.mem [.hostWait r 1]) ∧
      Refuses (.hostCompletion i .denied) s i r .hostDenied ∧ Refuses (.hostCompletion i .abort) s i r .hostAbort)
/-- What each packet does where it arrives: a fill satisfies its load and is installed, an update is merged and acknowledged or drops the
line at the fourth unread one, the last acknowledgement commits the round, and commits, dones, notices, recalls, gathered copies, replies
and refusals act on the line, the counter or the register they name (R208 to R213, R218 to R220, R235, R446). That requests travel, or are
served at once, is the model's form (log entry 6). What an acquire's fill installs is the model's reading (log entry 37). -/
def Obligations.PacketsActWhereTheyArrive : Prop :=
  ∀ (s : State) (i k line : Nat),
    (∀ d tr acq fr f, AtIndex s i (.fill k line d tr acq false fr f) → k < 1024 → (line, acq) ∈ (s.core k).asked →
      ∃ u : State, exec (.fillArrival i) s = .next u.settle ∧ u.mem = s.mem ∧
        (u.core k).fills = { line := line, acq := acq, data := d, fresh := fr, fault := f } :: (s.core k).fills ∧
        (f = none → tr = true → s.placeOf (line * 128) = .ok .localHbm → (s.core k).lineOf line = none → (s.core k).hasWay line = true →
          (u.core k).lineOf line = some { line := line, st := .t, data := d, unread := 0 })) ∧
    (∀ pa n v l, AtIndex s i (.update k line pa n v) → fillComing (s.took i) k line = false → (s.core k).lineOf line = some l → l.st = .t →
      (l.unread < 3 → Serves (.sharerUpdate i) s i s.mem [.ack k line false] fun u =>
        (u.core k).lineOf line = some { l with st := .h, unread := l.unread + 1, data := lineSet l.data (pa % 128) n v }) ∧
      (3 ≤ l.unread → Serves (.sharerUpdate i) s i s.mem [.ack k line true] fun u => (u.core k).lineOf line = none)) ∧
    (∀ drop d r, AtIndex s i (.ack k line drop) → s.dirOf line = some d → d.st = .n → d.round = some r →
      let left := if drop then d.sharers.filter (· != k) else d.sharers
      (r.waiting.filter (· != k) = [] → r.n ≠ 0 →
        Serves (.updateAck i) s i (s.mem.writeN r.pa r.v r.n)
          (left.map (fun c => .commit c line) ++ r.amo.toList.map (fun a => .amoReply a.1 line a.2 none) ++ r.writer.toList.map fun w => .done w line)
          fun u => ∃ e, u.dirOf line = some e ∧ e.round = none ∧ e.sharers = left) ∧
      (r.waiting.filter (· != k) ≠ [] → Serves (.updateAck i) s i s.mem [] fun u =>
        ∃ e, u.dirOf line = some e ∧ e.round = some { r with waiting := r.waiting.filter (· != k) } ∧ e.sharers = left)) ∧
    (∀ l, AtIndex s i (.commit k line) → (s.core k).lineOf line = some l → l.st = .h →
      Serves (.roundCommit i) s i s.mem [] fun u => (u.core k).lineOf line = some { l with st := .t, commit := some (s.core k).cycFrame }) ∧
    (AtIndex s i (.done k line) → k < 1024 → Serves (.storeDone i) s i s.mem [] fun u => (u.core k).undone = (s.core k).undone.erase line) ∧
    (∀ d, AtIndex s i (.evict k line) → s.dirOf line = some d →
      Serves (.evictionNotice i) s i s.mem [] fun u => u.dirOf line = some { d with sharers := d.sharers.filter (· != k) }) ∧
    (AtIndex s i (.recall k line) → fillComing (s.took i) k line = false → (∀ l, (s.core k).lineOf line = some l → l.pinned = false) →
      Serves (.recall i) s i s.mem [.ack k line true] fun u => (u.core k).lineOf line = none) ∧
    (∀ l kind, AtIndex s i (.grecall k line) → Unlogged s line → (s.core k).lineOf line = some l → l.st = .g kind →
      Serves (.gRecall i) s i s.mem [.gcopy k line kind l.data] fun u => (u.core k).lineOf line = none) ∧
    (∀ kind x d b, AtIndex s i (.gcopy k line kind x) → s.dirOf line = some d → d.st = .g [k] b → k < 512 →
      (∀ f ∈ (s.took i).net, ∀ c kd y, f.pkt ≠ .gcopy c line kd y) →
      Serves (.gatheredCopy i) s i (s.mem.writeN (line * 128) (combineLine kind (s.mem.line line) x).toNat 128) [] fun u =>
        ∃ e, u.dirOf line = some e ∧ e.st = .n ∧ e.sharers = []) ∧
    (∀ d gs, AtIndex s i (.way k line) → Unlogged s line → s.dirOf line = some d → d.st = .g gs false →
      Serves (.wayRequest i) s i s.mem (gs.map fun c => .grecall c line) fun u => ∃ e, u.dirOf line = some e ∧ e.st = .g gs true) ∧
    (∀ old pa, k < 1024 → (s.core k).pend = .sent pa →
      (AtIndex s i (.amoReply k line old none) → Serves (.amoReply i) s i s.mem [] fun u => (u.core k).pend = .reply pa (BitVec.ofNat 64 old)) ∧
      (∀ f, AtIndex s i (.amoReply k line old (some f)) → Serves (.amoReply i) s i s.mem [] fun u => (u.core k).pend = .fault f)) ∧
    (∀ pa, AtIndex s i (.refusal k pa) → k < 512 →
      Serves (.postedRefusal i) s i s.mem [] fun u =>
        (u.core k).asyncs = (s.core k).asyncs ++ [.posted pa] ∧ (u.core k).undone = (s.core k).undone.erase (pa / 128))
/-- What comes due without a packet: the mark table clears, an old U line is dropped, the carry moves one frame, packets are promoted or
change channel with nothing else moved, a read that waits too long for a locked line is answered with LOCK-TIMEOUT, and a pending machine
check or overflow is taken as a trap at a bundle boundary (R13, R23, R216, R224, R228, R297, R307, R387, R397, R399, R446). That requests
travel, or are served at once, is the model's form (log entry 6). -/
def Obligations.DueEventsHappen : Prop :=
  ∀ (s : State) (i k line : Nat) (f : InFlight),
    (∃ t : State, exec (.markTableClear k) s = .next t ∧ (t.core k).marks = [] ∧ t.mem = s.mem ∧ t.net = s.net) ∧
    ((s.core k).holdsU line = true →
      ∃ t : State, exec (.uLineAgeExpiry k line) s = .next t ∧ (t.core k).cache = (s.core k).cache.filter (·.line != line) ∧ t.mem = s.mem) ∧
    (∃ t : State, exec (.carryFrameShift k) s = .next t ∧ (t.core k).carry[0] = 0 ∧ (t.core k).carry[1] = (s.core k).carry[0] ∧
      (t.core k).carry[2] = (s.core k).carry[1] ∧ (t.core k).carry[3] = (s.core k).carry[2] ∧
      (t.core k).cycFrame = ((s.core k).cycFrame + 1) % 2 ^ 52 ∧ (t.core k).brand = (s.core k).brand ∧ t.mem = s.mem) ∧
    (s.net[i]? = some f →
      (∀ r, f.pkt = .req r → s.placeOf (r.line * 128) = .ok .localHbm → s.travels f = false →
        exec (.requestPromotion i) s = .next { s with net := s.net.set i { f with promoted := true } }) ∧
      (∀ c l d tr acq pref fr e, f.pkt = .fill c l d tr acq pref fr e → f.stage = .transit →
        exec (.escapeChannelMove i) s = .next { s with net := s.net.set i { f with escape := true } }) ∧
      exec (.sharedPointPromotion i) s = .next { s with net := s.net.set i { f with promoted := true } } ∧
      (∀ r acq ef sync d h, f.pkt = .req r → r.req = .read acq ef false sync → r.core < 1024 → s.lazy = true →
        s.placeOf (r.line * 128) = .ok .localHbm → s.travels f = false → s.dirOf r.line = some d → d.round = none →
        s.kOf r.line = some (some h, some h, false, none, false) → h.core ≠ r.core → (s.core h.core).run ≠ .debugHalted →
        ∃ t : State, exec (.accessLockTimeout i) s = .next t ∧ t.mem = s.mem ∧
          t.pkts = (s.took i).pkts ++ [.fill r.core r.line 0 false acq false false (some (.access .lockTimeout))])) ∧
    (∀ a, s.me.run = .running → s.me.inTrap = false → dueAsync s.me = some a →
      (∀ pa, a = .posted pa →
        ∃ t : State, exec (.machineCheckPosted s.me.id) s = .next t ∧ t.me.asyncs = s.me.asyncs.erase a ∧
          Trapped { cause := 0x11, kind := 4, code := 0, va := BitVec.ofNat 64 pa, row := 0 } s.me.pc s t) ∧
      (∀ l lost, a = .fenceOff l lost →
        ∃ t : State, exec (.machineCheckFenceOff s.me.id) s = .next t ∧ t.me.asyncs = s.me.asyncs.erase a ∧
          Trapped { cause := 0x11, kind := 3, code := 0, va := BitVec.ofNat 64 (l * 128), row := lost } s.me.pc s t) ∧
      (a = .overflow →
        ∃ (t : State) (n : Nat), exec (.mailboxOverflow s.me.id) s = .next t ∧ t.me.asyncs = s.me.asyncs.erase a ∧ n = (heldRecords s.me).length ∧
          Trapped { cause := 0x10, kind := 0, code := 0, va := 0, row := n } s.me.pc s t))

/-! ### Events: engines, translation, interfaces, dispatchers, locks (10, 12, 13, 16) -/

/-- A copy's lines are marked one by one, written from the source or the pattern once they may be, and its completion goes out with its
brand; an all-reduce meets the peer's, streams its lines out, adds the incoming ones and writes the sums to both buffers, and completes with
its brand; retention requests and LNCH are
answered (R191, R243, R244, R252, R254 to R257, R326). That requests travel, or are served at once, is the model's form (log entry 6). The
model's readings at copies and at LNCH's statuses are log entries 17, 18, 44 and 48. -/
def Obligations.EnginesAndRequestsProceed : Prop :=
  ∀ (s : State) (id i : Nat),
    (∀ j line rest d, s.jobOf id = some j → j.unmarked = line :: rest → line ∉ j.after → setBlocked s line = false → setParked s line = false →
      bankHeld s line = false → olderWrites s j.core id line = false → olderReads s j.core id line = false → s.dirOf line = some d →
      d.round = none → d.st = .n → d.sharers = [] →
      ∃ (t : State) (e : DirLine) (k : Job), exec (.copyMark id) s = .next t ∧ t.mem = s.mem ∧
        t.dirOf line = some e ∧ e.st = .e id false ∧ t.jobOf id = some k ∧ k.unmarked = rest ∧
        (t.core j.core).others = (s.core j.core).others - (if rest = [] then 1 else 0)) ∧
    (∀ j line s₁, s.jobOf id = some j → line ∈ j.unwritten → line ∉ j.unmarked → j.after = [] → isLocal s line = true →
      j.meetsPoison s line = false →
      (j.sourceLines line).any (sourceLost s j) = false → needsLink s line = false → sourcesReady j (j.sourceLines line) s = .ok s₁ () →
      s₁.jobOf id = some j →
      (∀ p ∈ j.piecesOf line, s₁.placeOf p.2.1 = .ok .localHbm) →
      ∃ (t : State) (k : Job), exec (.copyEngineWrite id line false) s = .next t ∧ t.jobOf id = some k ∧
        k.unwritten = j.unwritten.erase line ∧ k.status = j.status ∧
        t.mem = (j.piecesOf line).foldl (fun m p => m.writeN p.2.1 (copyBytes s₁ j p.1 p.2.2) p.2.2) s₁.mem) ∧
    (∀ j line, s.jobOf id = some j → line ∈ j.unwritten → line ∉ j.unmarked → j.after = [] →
      (isLocal s line = true ∨ (olderWrites s j.core id line = false ∧ olderReads s j.core id line = false)) →
      ∃ (t : State) (k : Job), exec (.copyEngineWrite id line true) s = .next t ∧ t.jobOf id = some k ∧ k.status = 1) ∧
    (∀ j, s.jobOf id = some j → j.unmarked = [] → j.unwritten = [] →
      (∀ f ∈ s.net, (∀ r, f.pkt = .req r → r.core ≠ 2048 + j.core) ∧ ∀ pa, f.pkt ≠ .refusal (2048 + j.core) pa) →
      exec (.copyCompletion id) s = .next (({ s with jobs := s.jobs.filter (·.id != id) } : State).sendNi
        (.msg j.launch (if j.launch = 0 then j.core else j.rx) j.ry none
          { slot := j.slot, value := BitVec.ofNat 64 (j.status * 2 ^ 60 + (if j.fill then 2 ^ 56 else 0) + j.len % 2 ^ 33), sender := j.core,
            scope := j.scope, brand := some j.brand } false))) ∧
    (∀ a peerBf16 peerBuf, s.areds.find? (·.id == id) = some a → s.areds.find? (fun b => b.tag == a.tag && !b.matched) = some a →
      s.link.up = true →
      ∃ (t : State) (b : Ared), exec (.aredMatch id peerBuf peerBf16) s = .next t ∧ t.areds.find? (·.id == id) = some b ∧
        b.matched = true ∧ t.mem = s.mem ∧
        (if (peerBuf.map (·.2)).sum = a.len ∧ peerBf16 = a.bf16 then b.status = a.status ∧ b.peer = peerBuf else b.status = 3)) ∧
    (∀ a chunk line d incoming, s.areds.find? (·.id == id) = some a → a.matched = true → a.status = 0 → a.after = [] →
      (rangeLines a.buf)[chunk]? = some line → line ∈ a.left → Clean s line → setBlocked s line = false → setParked s line = false →
      bankHeld s line = false → olderWrites s a.core id line = false → olderReads s a.core id line = false → s.dirOf line = some d →
      d.round = none → d.st = .n → s.lazy = true →
      let sum := aredLine a.bf16 (s.mem.line line) incoming
      ∃ (t : State) (b : Ared), exec (.aredChunk id chunk incoming) s = .next t ∧
        t.mem = (match (rangeLines a.peer)[chunk]? with | some l => s.mem.writeN (l * 128) sum.toNat 128 | none => s.mem) ∧
        t.pkts = s.pkts ++ [.req { core := 1028, line := line, req := .write (line * 128) 128 sum.toNat false false }] ∧
        t.out = s.out ++ [.aredChunk a.tag chunk (s.mem.line line)] ∧
        t.areds.find? (·.id == id) = some b ∧ b.left = a.left.erase line) ∧
    (∀ a, s.areds.find? (·.id == id) = some a → a.matched = true → a.status = 0 → a.left = [] → a.bad = false →
      (∀ l ∈ rangeLines a.buf, engineOpen s l = false) →
      exec (.aredCompletion id) s = .next (({ s with areds := s.areds.filter (·.id != id) } : State).sendNi
        (.msg a.launch (if a.launch = 0 then a.core else a.rx) a.ry none
          { slot := a.slot, value := BitVec.ofNat 64 ((if a.bf16 then 3 else 2) * 2 ^ 56 + a.tag % 2 ^ 16 * 2 ^ 40 + a.len % 2 ^ 33),
            sender := a.core, scope := .sys, brand := some a.brand } false))) ∧
    (∀ core asid base limit ways, s.ctl[i]? = some (.retain core asid base limit ways) → (s.core core).pend = .sent ctlMark →
      ∃ t : State, exec (.retentionRequest i) s = .next t ∧ t.ctl = s.ctl.eraseIdx i ∧
        ((s.pad (s.core core).paddock).retained = [] → ways ≤ 8 →
          (t.pad (s.core core).paddock).retained = [(0, { asid := asid, base := base, limit := limit, ways := ways })] ∧
          (t.core core).pend = .reply ctlMark 0) ∧
        ((∃ e ∈ (s.pad (s.core core).paddock).retained, base < e.2.limit ∧ e.2.base < limit) →
          (t.core core).pend = .reply ctlMark (BitVec.ofInt 64 (-3)) ∧ t.pads = s.pads)) ∧
    (∀ core asid n user x, s.ctl[i]? = some (.unpin core asid n user) → (s.core core).pend = .sent ctlMark → (s.core core).paddock < 7 →
      (s.pad (s.core core).paddock).retained.find? (·.1 == n) = some x → (user = false ∨ x.2.asid = asid) →
      ∃ t : State, exec (.retentionRequest i) s = .next t ∧ (t.core core).pend = .reply ctlMark 0 ∧
        (t.pad (s.core core).paddock).retained = (s.pad (s.core core).paddock).retained.filter (·.1 != n)) ∧
    (∀ core pset q lr, s.ctl[i]? = some (.lnch core pset q lr) → (s.core core).pend = .sent ctlMark → pset < 7 → q < 16 →
      (s.pad pset).st = .run → (s.pad pset).active = true → (s.core core).level ≠ 0 →
      let qu := (s.pad pset).queues[Fin.ofNat 16 q]
      qu.recs.length < 64 →
      ∃ t : State, exec (.lnchRequest i) s = .next t ∧ (t.core core).pend = .reply ctlMark (BitVec.ofNat 64 qu.nextSeq.toNat) ∧
        ((t.pad pset).queues[Fin.ofNat 16 q]).recs = qu.recs ++ [(qu.nextSeq.toNat, (s.pad pset).arrival, lr)] ∧
        ((t.pad pset).queues[Fin.ofNat 16 q]).nextSeq = qu.nextSeq + 1)
/-- One level of the walk reads one entry: an invalid one is NOT-PRESENT, a nonzero reserved field FORMAT, a table's entry names the next
level, and a 4 KiB leaf gives its page (R354 to R356). A translation request is answered by its slice or a walk, into the core's cache or as
a page fault; the host's answers give a page, open a page request or end in HOST-DENIED; removals and invalidations take cached pages away;
and a request that may not pass a boundary port is refused (R357 to R366, R371). That requests travel, or are served at once, is the model's
form (log entry 6). The model's readings at invalidations and boundary ports are log entries 53 and 54. -/
def Obligations.TranslationsAreAnsweredAndRemoved : Prop :=
  ∀ (s : State) (i : Nat),
    (∀ n asid va svm fuel level t d, t / 2 ^ 47 = s.link.card → t / 2 ^ 45 % 4 = 0 → t % 2 ^ 45 < 0x3000000000 →
      (s.pad n).stackMask.getLsbD (stackOf t) = true → level ≤ 3 →
      let a := t + 8 * (va / 2 ^ (39 - 9 * level) % 512)
      let e := s.mem.readN a 8
      let s' := s.hitDir (a / 128) false
      s.dirOf (a / 128) = some d → d.round = none → d.st = .n → setBlocked s (a / 128) = false → setParked s (a / 128) = false →
      bankHeld s (a / 128) = false →
      (e % 2 = 0 → walkLevels n asid va svm (fuel + 1) level t s = .ok s' (.error .notPresent)) ∧
      (e % 2 = 1 → reservedEntry e = true → walkLevels n asid va svm (fuel + 1) level t s = .ok s' (.error .format)) ∧
      (e % 4 = 1 → reservedEntry e = false → level < 3 →
        walkLevels n asid va svm (fuel + 1) level t s = walkLevels n asid va svm fuel (level + 1) (e / 2 ^ 12 % 2 ^ 36 * 2 ^ 12) s') ∧
      (e % 4 = 3 → reservedEntry e = false → level = 3 → e / 2 ^ 8 % 4 = 0 → leafFormat svm (leafXlat asid va e 4096) = false →
        walkLevels n asid va svm (fuel + 1) level t s = .ok s' (.ok (leafXlat asid va e 4096)))) ∧
    (∀ r, s.xreqs[i]? = some r → r.walking = false → r.core < 1024 →
      (∀ x, (s.pad (s.core r.core).paddock).stcHit r.asid r.va = some x →
        (x.permits r.acc r.user = true → ∃ t : State, exec (.stcRequest i) s = .next t ∧ (t.core r.core).ctc.head? = some x ∧ t.mem = s.mem) ∧
        (x.permits r.acc r.user = false →
          ∃ t : State, exec (.stcRequest i) s = .next t ∧ (t.core r.core).xfault = some (r.va / 4096, .permission) ∧ t.mem = s.mem)) ∧
      ((s.pad (s.core r.core).paddock).stcHit r.asid r.va = none →
        ∃ t : State, exec (.stcRequest i) s = .next t ∧ t.xreqs = s.xreqs.eraseIdx i ++ [{ r with walking := true }] ∧ t.mem = s.mem)) ∧
    (∀ r s₁ w, s.xreqs[i]? = some r → r.walking = true → r.core < 1024 → walkersBusy s i r = false →
      walk s (s.core r.core).paddock r.asid r.va = .ok s₁ w → (s.xreqs.filter fun q => q.walking && sameWalk s q r) = [r] →
      let rest := s.xreqs.filter fun q => !(q.walking && sameWalk s q r)
      (∀ x w0, w = .ok (w0, x) → x.host = false → x.permits r.acc r.user = true →
        ∃ t : State, exec (.walkComplete i) s = .next t ∧ (t.core r.core).ctc.head? = some x ∧ t.xreqs = rest ∧ t.mem = s₁.mem) ∧
      (∀ k, w = .error k →
        ∃ t : State, exec (.walkComplete i) s = .next t ∧ (t.core r.core).xfault = some (r.va / 4096, k) ∧ t.xreqs = rest ∧ t.mem = s₁.mem)) ∧
    (∀ a iova rd wr, s.ats[i]? = some a → a.stage ≠ 1 → a.stage ≠ 3 → a.core < 1024 →
      let x : Xlat := { a.leaf with pa := s.link.card * 2 ^ 47 + 2 ^ 46 + iova % 2 ^ 45 / 4096 * 4096, r := a.leaf.r && rd, w := a.leaf.w && wr }
      (x.permits a.acc false = true → ∃ t : State, exec (.atsCompletion i (.granted iova rd wr)) s = .next t ∧
        (t.core a.core).ctc.head? = some x ∧ t.ats = s.ats.eraseIdx i) ∧
      ((s.pad a.pset).priStopped = false → a.stage = 0 → ∃ (t : State) (b : AtsWait), exec (.atsCompletion i .fault) s = .next t ∧
        t.ats[i]? = some b ∧ b.stage = 1 ∧ b.core = a.core ∧ b.va = a.va) ∧
      (((s.pad a.pset).priStopped = true ∨ a.stage = 2) → ∃ t : State, exec (.atsCompletion i .fault) s = .next t ∧
        (t.core a.core).xfault = some (a.va / 4096, .hostDenied) ∧ t.ats = s.ats.eraseIdx i)) ∧
    (∀ n index pasid code, n < 7 →
      ((∀ a ∈ s.ats, ¬(a.stage = 1 ∧ a.pset = n ∧ a.index = index ∧ a.pasid = pasid)) → (s.pad n).priStray ≠ BitVec.allOnes 32 →
        ∃ t : State, exec (.priResponse n index pasid code) s = .next t ∧ (t.pad n).priStray = (s.pad n).priStray + 1 ∧ t.ats = s.ats) ∧
      (∀ a ∈ s.ats, index < 512 → a.core < 1024 → a.stage = 1 → a.pset = n → a.index = index → a.pasid = pasid → s.deadWait a = false →
        (∃ t : State, exec (.priResponse n index pasid .success) s = .next t ∧ { a with stage := 2 } ∈ t.ats) ∧
        (∃ t : State, exec (.priResponse n index pasid .invalid) s = .next t ∧ a ∉ t.ats ∧ (t.core a.core).xfault ≠ none) ∧
        (∃ t : State, exec (.priResponse n index pasid .failure) s = .next t ∧ a ∉ t.ats ∧ (t.pad n).priStopped = true))) ∧
    (∀ vf pasid base len, 1 ≤ vf → vf ≤ 7 →
      (∀ s₁, pasidAsids (vf - 1) pasid (namedAsids s (vf - 1)) s = .ok s₁ [] →
        exec (.atsInvalidation vf pasid base len) s = .next { s₁ with out := s₁.out ++ [.invalidationDone vf pasid] }) ∧
      (∀ s₁ a t, pasidAsids (vf - 1) pasid (namedAsids s (vf - 1)) s = .ok s₁ [a] →
        removeEverywhere s₁ (vf - 1) (.range a base (base + len)) = some t →
        exec (.atsInvalidation vf pasid base len) s = .next { t with out := t.out ++ [.invalidationDone vf pasid] } ∧
        ∀ x ∈ (t.pad (vf - 1)).stc, (XSel.range a base (base + len)).hits x.2.2 = false)) ∧
    (∀ core n sel target, s.ctl[i]? = some (.removal core n sel target) →
      (target ≠ 1027 → .removal core n sel 1027 ∉ s.ctl → heldXlat s target sel = false → engineUses s n sel = false →
        ∃ t : State, exec (.xlatiRemoval i) s = .next t ∧ (t.core target).ctc = (s.core target).ctc.filter (fun x => !sel.hits x) ∧
          t.ctl = s.ctl.eraseIdx i ∧ t.mem = s.mem) ∧
      (target = 1027 → s.ats = [] → ∃ t : State, exec (.xlatiRemoval i) s = .next t ∧
        (t.pad n).stc = (s.pad n).stc.filter (fun x => !sel.hits x.2.2) ∧ t.ctl = s.ctl.eraseIdx i ∧ t.mem = s.mem)) ∧
    (∀ f r cell port, s.net[i]? = some f → f.pkt = .req r → r.core < 512 → (s.core r.core).tag ≠ 7 →
      s.placeOf (r.line * 128) = .ok .localHbm → cell < 192 → port < 4 → bitAt (s.core (s.coreNo cell)).bport port = true →
      Refuses (.boundaryDrop i cell port) s i r .boundary)
/-- A message reaches its slot, its queue, or is refused and tried again; a task enters its queue numbered; an arrival for a saved stream is
appended to its late ring; a thief takes a tail task or finds none; reports and contributions reach the stream and the episode they name;
and a lofted record moves to its queue (R247, R249, R279, R282, R285, R287, R288). That requests travel, or are served at once, is the
model's form (log entry 6). -/
def Obligations.InterfacesTakeTheirArrivals : Prop :=
  ∀ (s : State) (i k launch rx ry : Nat) (counts : Option Nat),
    (∀ m, NiLive s launch rx ry k → heldBack (s.ni.take i) launch rx ry m.sender = false → (s.core k).lofting = false →
      loftHas s (s.core k) false = false →
      (∀ (x : Instr) (refused : Bool), x = (if refused then .sendRetry i else .messageArrival i) →
        NiAt s i (.msg launch rx ry counts m refused) →
        ((s.core k).slotEmpty m.slot = true → TakesNi x s fun u =>
          (u.core k).mbox[Fin.ofNat 32 m.slot] = { value := m.value, present := true, scope := m.scope, brand := m.brand } ∧
          u.niPkts = s.niPkts.eraseIdx i ∧ ∀ c, counts = some c → (u.core c).others = (s.core c).others - 1) ∧
        ((s.core k).slotEmpty m.slot = false → (s.core k).arrivals.length < 64 → TakesNi x s fun u =>
          (u.core k).arrivals = (s.core k).arrivals ++ [m] ∧ (u.core k).mbox = (s.core k).mbox ∧ u.niPkts = s.niPkts.eraseIdx i)) ∧
      (NiAt s i (.msg launch rx ry counts m false) → (s.core k).slotEmpty m.slot = false → (s.core k).arrivals.length = 64 →
        (s.core k).loftFree < (msgRecord m).1 →
        TakesNi (.messageArrival i) s fun u => u.niPkts = s.niPkts.set i (.msg launch rx ry counts m true) ∧ u.me = s.me ∧ u.cores = s.cores ∧
          u.mem = s.mem)) ∧
    (∀ t, NiLive s launch rx ry k → heldBack (s.ni.take i) launch rx ry t.sender = false → (s.core k).lofting = false →
      loftHas s (s.core k) true = false → (s.core k).taskQueue.length < 64 → NiAt s i (.task launch rx ry counts t false) →
      (t.numbered = false → TakesNi (.taskArrival i) s fun u =>
        (u.core k).taskQueue = (s.core k).taskQueue ++
          [{ t with owner := (s.core k).ry * 16 + (s.core k).rx, seq := (s.core k).taskSeq, numbered := true }] ∧
        (u.core k).openTasks = (s.core k).openTasks ++ [(s.core k).taskSeq] ∧ (u.core k).taskSeq = (s.core k).taskSeq + 1) ∧
      (t.numbered = true → TakesNi (.taskArrival i) s fun u =>
        (u.core k).taskQueue = (s.core k).taskQueue ++ [t] ∧ (u.core k).openTasks = (s.core k).openTasks)) ∧
    (∀ l t m refused, launch ≠ 0 → s.launchOf launch = some l → l.st ≠ .killed → l.stream rx ry = some t → t.st = .saved → s.lazy = true →
      heldBack (s.ni.take i) launch rx ry m.sender = false → NiAt s i (.msg launch rx ry counts m refused) →
      lateBytes t.late + (msgRecord m).1 ≤ 0x20000 →
      (frameWrite { s with ni := s.ni.eraseIdx i } l (latePlace l t) (msgRecord m).1 (msgRecord m).2).isSome = true →
      TakesNi (.lateRingAppend i) s fun u => ∃ l' t', u.launchOf launch = some l' ∧ l'.stream rx ry = some t' ∧
        t'.late = t.late ++ [.inl m] ∧ u.niPkts = s.niPkts.eraseIdx i) ∧
    (∀ thief g n, NiAt s i (.steal launch rx ry g n) → s.streamCore launch rx ry = some thief →
      (victimOf s launch rx ry g n = none →
        TakesNi (.stealRequest i) s fun u => u.niPkts = s.niPkts.eraseIdx i ++ [.stealReply launch rx ry g n none]) ∧
      (∀ v t, victimOf s launch rx ry g n = some v → (s.core v).lofting = false → (s.core v).loft = [] →
        (s.core v).taskQueue.getLast? = some t → (7 ≤ (s.core v).paddock ∨ (s.pad (s.core v).paddock).rrMode = 0) →
        (t.barf = false → TakesNi (.stealRequest i) s fun u =>
          (u.core v).taskQueue = (s.core v).taskQueue.dropLast ∧
          u.niPkts = s.niPkts.eraseIdx i ++ [.stealReply launch rx ry g n (some t)]) ∧
        (t.barf = true → TakesNi (.stealRequest i) s fun u =>
          (u.core v).taskQueue = (s.core v).taskQueue ∧ u.niPkts = s.niPkts.eraseIdx i ++ [.stealReply launch rx ry g n none]))) ∧
    (∀ l v g n, s.launchOf launch = some l → l.st ≠ .killed → l.stream rx ry = some v → v.st = .live → (s.core v.core).res = .waiting →
      (s.core v.core).search = some (n, g) →
      (∀ t, NiAt s i (.stealReply launch rx ry g n (some t)) → TakesNi (.stealReply i) s fun u =>
        (u.core v.core).granted = some t ∧ (u.core v.core).nSteals = (s.core v.core).nSteals + 1) ∧
      (NiAt s i (.stealReply launch rx ry g n none) → TakesNi (.stealReply i) s fun u =>
        (u.core v.core).search = some (n + 1, g) ∧ (u.core v.core).nFailed = (s.core v.core).nFailed + 1)) ∧
    (∀ c seq l t, NiAt s i (.report c (ry * 16 + rx) seq launch) → rx < 16 → s.launchOf launch = some l → l.stream rx ry = some t →
      t.st = .live → TakesNi (.taskCompletionReport i) s fun u =>
        (u.core t.core).openTasks = (s.core t.core).openTasks.erase seq ∧ (u.core c).others = (s.core c).others - 1) ∧
    (∀ c d l, NiAt s i (.contrib c d) → s.launchOf d.launch = some l →
      let cs := (s.contribs ++ [d]).filter (sameEpisode d)
      let complete := ∀ t ∈ members l d.group, t.st.isHalted = true ∨ (contribOf cs t.rx t.ry).isSome = true
      (¬complete → TakesNi (.episodeContribution i) s fun u =>
        u.contribs = s.contribs ++ [d] ∧ u.niPkts = s.niPkts.eraseIdx i ∧ (u.core c).others = (s.core c).others - 1) ∧
      (complete → (∀ e ∈ cs, e.op = d.op) → TakesNi (.episodeContribution i) s fun u =>
        u.contribs = s.contribs.filter (fun e => !sameEpisode d e) ∧ (u.core c).others = (s.core c).others - 1 ∧
        u.niPkts.length = (s.niPkts.eraseIdx i).length + cs.length ∧
        ∀ e ∈ cs, ∃ sender, .msg e.launch e.rx e.ry none
          { slot := e.slot, value := BitVec.ofNat 64 (episodeValue l d.group cs d.op), sender := sender, scope := .core, brand := none } false
            ∈ u.niPkts)) ∧
    (∀ task r, (heldRecords (s.core k)).find? (fun r => loftIsTask s (s.core k) r == task) = some r → (s.core k).lofting = false →
      loftBad s (s.core k) r = [] →
      (∀ t, task = true → loftDecode s (s.core k) r = .inr t → (s.core k).taskQueue.length < 64 →
        ∃ u : State, exec (.loftMove k true) s = .next u ∧ (u.core k).taskQueue = (s.core k).taskQueue ++ [t] ∧ u.mem = s.mem) ∧
      (∀ m, task = false → loftDecode s (s.core k) r = .inl m → (s.core k).arrivals.length < 64 → (∀ n : MReg, ((s.core k).mbox[n]).present = true) →
        ∃ u : State, exec (.loftMove k false) s = .next u ∧ (u.core k).arrivals = (s.core k).arrivals ++ [m] ∧ u.mem = s.mem))
/-- A record enters its queue by its last word, and in any state but RUN every write of the port is dropped; the dispatcher drops an invalid one with its end word and places a valid one, and a placed
launch starts its streams fresh; a pre-empted one is saved and resumes where its image says; sweeps reach DONE, a launch of halted streams
ends, and KILL ends a queued or a placed one; a set quiesces, stops, is flushed and resumes (R269 to R280, R292, R293, R369, R375, R390).
That requests travel, or are served at once, is the model's form (log entry 6). The model's readings at windows, images and frames are log
entries 21, 24 to 26 and 32. -/
def Obligations.DispatchersMoveLaunches : Prop :=
  ∀ (s : State) (n q id : Nat),
    (∀ v : Word, barLive s n = true → q < 16 →
      let qu := (s.pad n).queues[Fin.ofNat 16 q]
      let w (off : Nat) : LaunchRec := BitVec.ofNat 256 (setBits qu.staged.toNat (8 * off) 64 v.toNat)
      ((s.pad n).st = .run → ∀ off, off = 0 ∨ off = 8 ∨ off = 16 → ∃ t : State, exec (.qportWrite n q off v) s = .next t ∧
        ((t.pad n).queues[Fin.ofNat 16 q]).staged = w off ∧ ((t.pad n).queues[Fin.ofNat 16 q]).recs = qu.recs) ∧
      ((s.pad n).st = .run → qu.recs.length < 64 → ∃ t : State, exec (.qportWrite n q 24 v) s = .next t ∧
        ((t.pad n).queues[Fin.ofNat 16 q]).recs = qu.recs ++ [(qu.nextSeq.toNat, (s.pad n).arrival, w 24)] ∧
        ((t.pad n).queues[Fin.ofNat 16 q]).nextSeq = qu.nextSeq + 1) ∧
      ((s.pad n).st ≠ .run → ∀ off, off = 0 ∨ off = 8 ∨ off = 16 ∨ off = 24 → ∃ t : State, exec (.qportWrite n q off v) s = .next t ∧
        (t.pad n).queues[Fin.ofNat 16 q] = { qu with drop := true }) ∧
      ((s.pad n).st = .run → 64 ≤ qu.recs.length → ∃ t : State, exec (.qportWrite n q 24 v) s = .next t ∧
        ((t.pad n).queues[Fin.ofNat 16 q]).recs = qu.recs ∧ ((t.pad n).queues[Fin.ofNat 16 q]).drop = true)) ∧
    (∀ seq a r, n < 7 → q < 16 → (s.pad n).active = true → (s.pad n).flushing = false → (s.pad n).st ≠ .stopped →
      (s.core (512 + dispatcherDie n)).run ≠ .lost →
      bestOf (candidates s n) = some (.head q seq a r) → s.lazy = true →
      (badRecord (s.pad n) r = true → ∃ t : State, exec (.dispatch n) s = .next t ∧
        ((t.pad n).queues[Fin.ofNat 16 q]).recs = ((s.pad n).queues[Fin.ofNat 16 q]).recs.drop 1 ∧
        ((t.pad n).queues[Fin.ofNat 16 q]).inval = true ∧
        ((t.pad n).queues[Fin.ofNat 16 q]).ends = ((s.pad n).queues[Fin.ofNat 16 q]).ends + 1) ∧
      (∀ s₁ w ox oy succ, badRecord (s.pad n) r = false → asidEntry s n (recField r 48 16) none = .ok s₁ (.ok w) → (s₁.pad n).rrMode = 0 →
        findOrigin s₁ n r (BitVec.ofNat 32 seq) (successorOf (s.pad n) r) = some (ox, oy, succ) →
        ∃ (t : State) (l : Launch), exec (.dispatch n) s = .next t ∧ t.launches.getLast? = some l ∧ l.pset = n ∧ l.queue = q ∧ l.record = r ∧
          l.st = .placed ∧ l.ox = ox ∧ l.oy = oy ∧ l.successor = succ ∧
          l.streams = waitingStreams (recWidth r) (recHeight r))) ∧
    (∀ l t₀, s.launchOf id = some l → l.streams = [t₀] → s.lazy = true →
      let k := launchCore s l t₀.rx t₀.ry
      let pad := s.pad l.pset
      (readyToStart s l = true → t₀.st = .waiting → k < 512 →
        ∃ (t : State) (m : Launch), exec (.launchStart id) s = .next t ∧ t.launchOf id = some m ∧ m.st = .running ∧ m.gen = pad.genCounter.toNat ∧
          (t.core k).run = .running ∧ (t.core k).pc = sext48 (recField l.record 2 46 * 4) ∧ (t.core k).launch = some id ∧
          (t.core k).asid = recField l.record 48 16 ∧ (t.core k).stvec = pad.tvec ∧ (t.core k).level = 0 ∧
          (∀ r : GReg, (t.core k).reg r = if r = 1 then sext48 (recField l.record 64 48)
            else if r = 2 then BitVec.ofNat 64 ((l.height - 1) * 2 ^ 12 + (l.width - 1) * 2 ^ 8 + t₀.ry * 16 + t₀.rx)
            else if r = 3 then windowOf s l.pset (recField l.record 48 16) else 0)) ∧
      (∀ s₁ s₂, l.st = .preempting → t₀.st = .live → t₀.core = q → s.launchOfCore q = some l → (s.core q).rx = t₀.rx → (s.core q).ry = t₀.ry →
        canSave s (s.core q) = true → recField l.record 179 1 = 0 → (s.core q).locks = [] →
        let c := savedCore s q
        frameWrite (savePoison s l t₀ c) l (l.frame t₀.rx t₀.ry) 0x60000 (s.mem.readN (s.cellPa (q % 256) 0) 0x60000) = some s₁ →
        frameWrite s₁ l (l.frame t₀.rx t₀.ry + 0x60000) 0x40000 (contextImage c c.pc c.level) = some s₂ →
        ∃ (t : State) (m : Launch), exec (.preemptionSave q) s = .next t ∧ t.launchOf id = some m ∧ m.st = .preempted ∧
          (t.core q).run = .idle ∧ (t.core q).launch = none ∧ t.net = ((s₂.drainGathered q).forgetFills q).net) ∧
      (∀ s₀ img v, readyToStart s l = true → t₀.st = .saved → t₀.debugHalted = false → recField l.record 179 1 = 0 → t₀.late = [] →
        l.saveFault = false → (s.onLaunch id fun l => { l with st := .running, awaits := [] }).askFrames l = some s₀ →
        frameRead s₀ l (l.frame t₀.rx t₀.ry + 0x60000) 0x40000 = some img → frameSpoilt s₀ l (l.frame t₀.rx t₀.ry) = false →
        frameRead (((s₀.drainGathered k).freshCache k).zeroScratch (k % 256)) l (l.frame t₀.rx t₀.ry) 0x60000 = some v →
        ∃ (t : State) (m : Launch), exec (.streamResume id) s = .next t ∧ t.launchOf id = some m ∧ m.st = .running ∧
          (t.core k).run = .running ∧ (t.core k).pc = BitVec.ofNat 64 (imgWord img 0x180) ∧
          (t.core k).epc = BitVec.ofNat 64 (imgWord img 0x198) ∧
          ∀ r : GReg, (t.core k).reg r = held r (BitVec.ofNat 64 (imgWord img (0x80 + 8 * r.val))))) ∧
    (∀ l, s.launchOf id = some l →
      let lives := l.streams.filter (·.st == .live)
      let sent := l.streams.foldl (fun n t => n + (s.core t.core).sent) l.resent
      let taken := l.streams.foldl (fun n t => n + (s.core t.core).taken) 0
      (l.st = .running → l.done = false → lives ≠ [] → (∀ t ∈ lives, idleIn s (s.core t.core) = true) → sent = taken →
        ∃ (t : State) (m : Launch), exec (.sweep id) s = .next t ∧ t.launchOf id = some m ∧
          m.done = decide (l.swept = some (sent, taken)) ∧ (l.swept ≠ some (sent, taken) → m.swept = some (sent, taken)) ∧ t.mem = s.mem) ∧
      (l.st = .running → l.saveFault = false → (∀ t ∈ l.streams, t.st = .halted ∧ (s.core t.core).drained = true) → engineBusy s id = false →
        s.lazy = true →
        let qu := (s.pad l.pset).queues[Fin.ofNat 16 l.queue]
        let base := qu.base.toNat / 512 % 2 ^ 39 * 512
        let word := (if tasksRemain s l then 3 else 0) * 2 ^ 56 + l.mismatch.toNat * 2 ^ 55 + min l.dropped 0xFFFF * 2 ^ 32 + l.seq.toNat
        let at_ := base + 8 * qu.head
        ∃ t : State, exec (.launchEnd id) s = .next t ∧ t.launchOf id = none ∧
          ((t.pad l.pset).queues[Fin.ofNat 16 l.queue]).ends = qu.ends + 1 ∧ t.mem = s.mem ∧
          t.pkts = s.pkts ++ if base = 0 then [] else [.req { core := dispatcherAgent l.pset, line := at_ / 128, req := .write at_ 8 word false false }]) ∧
      (∀ value : Word, l.pset = n → n < 7 → value.getLsbD 63 = false →
        s.launches.find? (fun m => m.pset == n && m.queue == value.toNat / 2 ^ 48 % 16 && m.seq.toNat == value.toNat % 2 ^ 32 && m.st != .killed) =
          some l →
        ∃ t : State, exec (.kill n value) s = .next t ∧ ∀ m, t.launchOf id = some m → m.st = .killed)) ∧
    (n < 7 →
      let away := setOnDie n 0 = true ∧ s.dies[(0 : Fin 2)] = .reset ∨ setOnDie n 1 = true ∧ s.dies[(1 : Fin 2)] = .reset
      ((s.pad n).st = .run → (s.pad n).active = false → ∃ t : State, exec (.quiesce n) s = .next t ∧ (t.pad n).st = .stopped) ∧
      ((s.pad n).st = .run → (s.pad n).active = true → ¬away →
        ∃ t : State, exec (.quiesce n) s = .next t ∧ (t.pad n).st = .quiescing ∧ (t.pad n).retentions = []) ∧
      ((s.pad n).st = .run → (s.pad n).active = true → away → ∃ t : State, exec (.quiesce n) s = .next t ∧ (t.pad n).st = .run ∧ (t.pad n).busy = true) ∧
      ((s.pad n).st = .quiescing → (∀ q : Fin 16, ((s.pad n).queues[q]).recs = []) → (∀ l ∈ s.launches, l.pset ≠ n) →
        ∃ t : State, exec (.quiesceComplete n) s = .next t ∧ (t.pad n).st = .stopped) ∧
      ((s.pad n).st = .quiescing → ∃ t : State, exec (.quiesceLimit n) s = .next t ∧ (t.pad n).st = .run ∧ (t.pad n).busy = true) ∧
      ((s.pad n).st = .stopped → ∃ u : State, exec (.flush n) s = .next u.settle ∧ (u.pad n).flushing = true ∧ u.mem = s.mem) ∧
      ((s.pad n).flushing = true → (∀ d ∈ s.dir, (s.pad n).cmask.getLsbD d.home = true → d.round = none ∧ d.st = .n ∧ d.sharers = []) →
        ∃ t : State, exec (.flushComplete n) s = .next t ∧ (t.pad n).flushing = false ∧ (t.pad n).retained = [] ∧
          (∀ d ∈ t.dir, (s.pad n).cmask.getLsbD d.home = false) ∧
          ((∀ d ∈ s.dir, (s.pad n).cmask.getLsbD d.home = true → d.dirty = true → Config.writeBackFails s.tick d.line = false) → t.mem = s.mem)) ∧
      ((s.pad n).st = .stopped → ∃ t : State, exec (.paddockResume n) s = .next t ∧ (t.pad n).st = .run) ∧
      (∀ v : Word, ∃ t : State, exec (.prictlWrite n v) s = .next t ∧ (t.pad n).priEnable = v.getLsbD 0 ∧
        (t.pad n).priStopped = ((s.pad n).priStopped && !v.getLsbD 0)))
/-- The hitch queue's packets: a request takes a free line or follows its tail, a try is answered BUSY, LINK and the hand-off reach the
waiter they name, MOVED and FREE update the home, a freed stub goes, a withdrawal is noted and a passed lock goes on or is freed, a holder
that is saved and resumed keeps its lock, and the timers and probes of waiting requests act on their own line (R303 to R314). That requests
travel, or are served at once, is the model's form (log entry 6). The model's readings at OVERDUE and at stubs are log entries 35 and 45. -/
def Obligations.LockPacketsKeepTheQueue : Prop :=
  ∀ (s : State) (i line : Nat) (w : Waiter),
    (∀ d, LockAt s i (.lock w line false) → setBlocked s line = false → s.dirOf line = some d → d.round = none → Unlogged s line →
      (d.st = .n → d.sharers = [] → TakesLock (.lockRequest i) s i [.handoff w line none false] fun u =>
        u.kOf line = some (some w, some w, false, none, false)) ∧
      (∀ h t sv nx p, d.st = .k h (some t) sv nx p → ¬(sv = true ∧ h = some t) → s.withdrawnOf line t = none →
        TakesLock (.lockRequest i) s i [.link t line w] fun u => u.kOf line = some (h, some w, sv, nx, p)) ∧
      (∀ h nx p, d.st = .k (some h) (some h) true nx p →
        TakesLock (.lockRequest i) s i [] fun u => u.kOf line = some (some h, some w, true, some w, p))) ∧
    (∀ d, LockAt s i (.lock w line true) → setBlocked s line = false → s.dirOf line = some d → d.round = none → Unlogged s line →
      (∀ h t sv nx p, d.st = .k (some h) t sv nx p → TakesLock (.lockRequest i) s i [.busy w line] fun u => u.kOf line = s.kOf line) ∧
      (∀ sv nx, d.st = .k none none sv nx true → d.sharers = [] →
        TakesLock (.lockRequest i) s i [.handoff w line none true] fun u => u.kOf line = some (some w, some w, false, none, false))) ∧
    (∀ next, LockAt s i (.link w line next) →
      (∀ e, (s.core w.core).entryOf line w.num = some e →
        ((e.st = .pending ∨ e.st = .held) → TakesLock (.lockLink i) s i [] fun u => ∃ e', (u.core w.core).entryOf line w.num = some e' ∧
          e'.next = some next ∧ e'.st = (if e.st = .pending then .linked else .held)) ∧
        (∀ b, e.st = .stub → e.brand = some b →
          TakesLock (.lockLink i) s i [.moved w line next, .handoff next line (some b) false] fun u => (u.core w.core).lockOf line = none)) ∧
      ((s.core w.core).entryOf line w.num = none → TakesLock (.lockLink i) s i [.linkBack w line next] fun u => u.cores = s.cores ∧ u.me = s.me)) ∧
    (∀ next x, LockAt s i (.linkBack w line next) → s.kOf line = none → s.withdrawnOf line w = some x →
      TakesLock (.lockLink i) s i [] fun u => u.withdrawnOf line w = some { x with next := some next }) ∧
    (∀ b poisoned, LockAt s i (.handoff w line b poisoned) →
      (∀ e, (s.core w.core).entryOf line w.num = some e → e.waits = true → killedCore s w.core = false → ∃ v : State,
        exec (.handoff i) s = .next (v.tell w.core (statusMsg w.core e (if poisoned then 1 else 0) 0
          (some (match b with | some x => x | none => fullBrand)))).settle.settleLocks ∧
        (v.core w.core).entryOf line w.num = some { e with st := .held } ∧ v.mem = s.mem ∧
        (((s.core w.core).dropLine line).hasWay line = true → ∃ l, (v.core w.core).lineOf line = some l ∧ l.st = .k ∧ l.data = s.mem.line line)) ∧
      ((∀ e, (s.core w.core).entryOf line w.num = some e → e.waits = false) →
        TakesLock (.handoff i) s i [.pass w line poisoned] fun u => u.cores = s.cores ∧ u.me = s.me)) ∧
    (∀ e, LockAt s i (.busy w line) → (s.core w.core).entryOf line w.num = some e →
      ∃ v : State, exec (.handoff i) s = .next (v.tell w.core (statusMsg w.core e 5 0 none)).settle.settleLocks ∧ (v.core w.core).lockOf line = none) ∧
    (∀ next h t sv nx p, LockAt s i (.moved w line next) → s.kOf line = some (some h, t, sv, nx, p) → h.num = w.num →
      TakesLock (.lockMoved i) s i [] fun u => u.kOf line = some (some next, (if t = some w then some next else t), sv, nx, p)) ∧
    (∀ h t sv nx p, LockAt s i (.free w line) → s.kOf line = some (some h, t, sv, nx, p) → h.num = w.num →
      (t = some w → TakesLock (.lockFree i) s i [.freed w line] fun u => u.kOf line = none ∧ ∃ d, u.dirOf line = some d ∧ d.st = .n) ∧
      (t ≠ some w → TakesLock (.lockFree i) s i [] fun u => u.kOf line = s.kOf line)) ∧
    (∀ next stub h t sv nx p, LockAt s i (.force w line next stub) → s.kOf line = some (some h, t, sv, nx, p) → h.num = w.num →
      (∀ n, (if next.isSome then next else nx) = some n →
        TakesLock (.lockFree i) s i [.handoff n line none true] fun u => u.kOf line = some (some n, t, false, none, false)) ∧
      (next = none → nx = none → t.map (·.num) = some w.num →
        TakesLock (.lockFree i) s i [] fun u => u.kOf line = some (none, none, false, none, true))) ∧
    (∀ e, LockAt s i (.freed w line) → (s.core w.core).entryOf line w.num = some e → e.st = .stub →
      TakesLock (.lockFreed i) s i [] fun u => (u.core w.core).lockOf line = none) ∧
    (∀ next try_, LockAt s i (.withdraw w line next try_) →
      ((try_ = false ∨ ∃ t sv nx p, s.kOf line = some (some w, t, sv, nx, p)) → tableCount s line < 32 →
        TakesLock (.withdraw i) s i [] fun u => u.withdrawn = s.withdrawn ++ [{ line := line, who := w, next := next }]) ∧
      (try_ = true → (∀ t sv nx p, s.kOf line ≠ some (some w, t, sv, nx, p)) →
        TakesLock (.withdraw i) s i [] fun u => u.withdrawn = s.withdrawn)) ∧
    (∀ poisoned x h t sv nx p, LockAt s i (.pass w line poisoned) → s.withdrawnOf line w = some x → s.kOf line = some (some h, t, sv, nx, p) →
      h.num = w.num →
      (∀ n, x.next = some n → TakesLock (.lockPass i) s i [.handoff n line none poisoned] fun u =>
        u.kOf line = some (some n, t, false, none, false) ∧ u.withdrawnOf line w = none) ∧
      (x.next = none → t = some w → TakesLock (.lockPass i) s i [] fun u =>
        u.kOf line = (if poisoned then some (none, none, false, none, true) else none) ∧ u.withdrawnOf line w = none)) ∧
    (∀ status, (∃ f, s.lockNet[i]? = some f ∧ f.pkt = .withdrawRefused w line status) → s.lazy = true → withdrawnCount s line < 32 →
      ((s.core w.core).entryOf line w.num = none → ∃ t : State, exec (.withdrawRetry i) s = .next t ∧
        t.lockNet = s.lockNet.eraseIdx i ∧ t.me = s.me) ∧
      (∀ e, (s.core w.core).lockOf line = some e → e.num = w.num → e.waits = true → ∃ v t : State, exec (.withdrawRetry i) s = .next t ∧
        t = (match status with | some st => v.tell w.core (statusMsg w.core e st.1 st.2 none) | none => v) ∧
        (v.core w.core).lockOf line = none ∧ v.lockPkts = s.lockPkts.eraseIdx i ++ [.withdraw (e.who w.core) line e.next e.try_])) ∧
    (∀ e, (s.core w.core).lockOf line = some e → e.waits = true → e.try_ = false → s.lazy = true →
      (withdrawnCount s line < 32 → holderInDebug s line = false → ∃ v t : State, exec (.lockWaitTimeout w.core line) s = .next t ∧
        t = v.tell w.core (statusMsg w.core e 4 0 none) ∧
        (v.core w.core).lockOf line = none ∧ v.lockPkts = s.lockPkts ++ [.withdraw (e.who w.core) line e.next false] ∧ v.mem = s.mem) ∧
      (∃ t : State, exec (.probeTimer w.core line) s = .next t ∧ t.lockPkts = s.lockPkts ++ [.probe (e.who w.core) line line []] ∧ t.mem = s.mem)) ∧
    (∀ next h t sv nx p, LockAt s i (.saved w line next) → s.kOf line = some (some h, t, sv, nx, p) → h.num = w.num →
      TakesLock (.lockSaved i) s i [] fun u => u.kOf line = some (some w, t, true, (if next.isSome then next else nx), p)) ∧
    (∀ h t nx p e, LockAt s i (.resume w line) → s.kOf line = some (some h, t, true, nx, p) → h.num = w.num →
      (s.core w.core).entryOf line w.num = some e →
      TakesLock (.lockResume i) s i [] fun u => u.kOf line = some (some w, (if t.map (·.num) = some w.num then some w else t), false, none, p) ∧
        (u.core w.core).entryOf line w.num = some { e with st := .held, next := nx }) ∧
    (∀ start path h t nx p, LockAt s i (.probe w start line path) → s.kOf line = some (some h, t, false, nx, p) → h.core ≠ w.core →
      (s.core h.core).run ≠ .debugHalted → path.length < 8 →
      TakesLock (.probe i) s i (((s.core h.core).locks.filter (·.waits)).map fun e => .probe w start e.line (path ++ [(h.core, line)])) fun u =>
        u.me = s.me)

/-! ### Events: registers, debug, trace, errors, start-up, links, power (18, 19, 21) -/

/-- Writes of the loft, window, replay and other device registers take effect as their tables say; HALTREQ and the debug module halt, resume
and step a core; trace bytes go to their sink; errors poison or are counted; a lost core is unavailable; and a failing mesh link, module or
acknowledgement is replayed, detoured, retrained or fenced off (R368, R374, R392 to R403, R411 to R413, R419, R421, R423). That requests
travel, or are served at once, is the model's form (log entry 6). The model's readings at narrow writes, halt images, replay and full sinks
are log entries 28, 29, 34, 56 and 57. -/
def Obligations.RegistersDebugAndErrorsAct : Prop :=
  ∀ (s : State) (k n m cell port : Nat) (v : Word),
    (((v.toNat % 256 < 2 ∨ 192 < v.toNat % 256) → exec (.loftctlWrite k v) s = .next s) ∧
     (2 ≤ v.toNat % 256 → v.toNat % 256 ≤ 192 → (s.core k).loft = [] → (s.core k).arrivals = [] →
      ∃ t : State, exec (.loftctlWrite k v) s = .next t ∧ (t.core k).loftSize = v.toNat % 256 ∧ (t.core k).loft = [] ∧ t.mem = s.mem)) ∧
    (n < 8 → ∃ t : State, exec (.linkWindowWrite n 0 v) s = .next t ∧
      (t.windows[Fin.ofNat 8 n]).v = v.getLsbD 63 ∧ (t.windows[Fin.ofNat 8 n]).r = v.getLsbD 62 ∧ (t.windows[Fin.ofNat 8 n]).w = v.getLsbD 61 ∧
      (t.windows[Fin.ofNat 8 n]).a = v.getLsbD 60 ∧ (t.windows[Fin.ofNat 8 n]).base = v.toNat / 2 ^ 12 % 2 ^ 35) ∧
    (n < 8 → ∃ t : State, exec (.linkWindowWrite n 1 v) s = .next t ∧ (t.windows[Fin.ofNat 8 n]).limit = v.toNat / 2 ^ 12 % 2 ^ 35) ∧
    (∀ table : List LinkWindow, s.link.up = true → table.length = 8 →
      ∃ t : State, exec (.linkWindowTable table) s = .next t ∧ t.peerWindows.toList = table ∧ t.mem = s.mem) ∧
    (n < 7 → v.toNat % 4 ≠ 3 →
      ((∀ l ∈ s.launches, l.pset ≠ n) → ∃ t : State, exec (.rrctlWrite n v) s = .next t ∧ (t.pad n).rrMode = v.toNat % 4) ∧
      ((∃ l ∈ s.launches, l.pset = n) → ∃ t : State, exec (.rrctlWrite n v) s = .next t ∧ (t.pad n).rrMode = (s.pad n).rrMode ∧
        (t.pad n).rrRefused = true)) ∧
    (n < 7 → (s.pad n).rrMode = 2 → ((s.pad n).segOf m).free = false →
      ∃ u : State, exec (.replayDiverge n m) s = .next u.settle ∧ (u.pad n).rrDiverged = true ∧ ((u.pad n).segOf m).free = true) ∧
    ((s.core k).run ≠ .debugHalted → ∃ t : State, exec (.haltreq k) s = .next t ∧ (t.core k).dbg.haltreq = true ∧ t.mem = s.mem) ∧
    (∀ pa, s.me.run = .running → dueAsync s.me = none → s.me.committed = false → stopHere s = none → s.me.dbg.haltreq = true → haltImage s s.me.id = some pa →
      s.lazy = true → ∃ t : State, exec (.debugHalt s.me.id) s = .next t ∧ t.me.run = .debugHalted ∧ t.me.dbg.cause = 1 ∧
        t.me.dbg.dpc = s.me.pc ∧ t.me.dbg.haltreq = false ∧ t.me.pc = s.me.pc ∧ t.mem = s.mem) ∧
    (∀ pa, (s.core k).run = .debugHalted → haltImage s k = some pa → imageOpen s k = false → ∀ step : Bool,
      let x : Instr := if step then .debugStep k else .debugResume k
      let img := s.mem.readN pa 0x40000
      (contextOk (s.present k .q4blk) img (s.core k).level = true →
        ∃ t : State, exec x s = .next t ∧ (t.core k).run = .running ∧ (t.core k).pc = BitVec.ofNat 64 (imgWord img 0x180) ∧
          (∀ r : GReg, (t.core k).reg r = held r (BitVec.ofNat 64 (imgWord img (0x80 + 8 * r.val)))) ∧
          (t.core k).dbg.stepping = step ∧ (t.core k).dbg.err = false ∧ t.mem = s.mem) ∧
      (contextOk (s.present k .q4blk) img (s.core k).level = false →
        ∃ t : State, exec x s = .next t ∧ (t.core k).run = .debugHalted ∧ (t.core k).dbg.err = true ∧ t.mem = s.mem)) ∧
    ((s.core k).trc.buf ≠ [] → (s.core k).trc.sent = 0 →
      (∃ t : State, exec (.traceSinkWrite k true) s = .next t ∧ (t.core k).trc.buf = [] ∧ (t.core k).trc.ctl.getLsbD 0 = false ∧ t.mem = s.mem) ∧
      (let c := s.core k
       let pa := c.trc.base.toNat + c.trc.head
       let room := sinkRoom c
       sinkOk s c pa = true → room ≠ 0 → s.lazy = true →
        ∃ t : State, exec (.traceSinkWrite k false) s = .next t ∧ t.mem = s.mem ∧ (t.core k).trc = { c.trc with sent := room } ∧
          t.pkts = s.pkts ++
            [.req { core := traceAgent k, line := pa / 128, req := .write pa room (packBits 8 ((c.trc.buf.take room).map (·.toNat))) false false }])) ∧
    ((s.core k).trc.dropped ≠ 0 →
      let time : List Byte := if (s.core k).trcBit 2 then 0x30 :: bytesOf (Config.duration s.tick).toNat 4 else []
      (s.core k).trc.buf.length + time.length ≤ 253 →
      ∃ t : State, exec (.traceOverflow k) s = .next t ∧ (t.core k).trc.dropped = 0 ∧
        (t.core k).trc.buf = (s.core k).trc.buf ++ time ++ 0x70 :: bytesOf (min (s.core k).trc.dropped 0xFFFF) 2) ∧
    (n < 7 → barLive s n = true → 16 ≤ v.toNat % 32 → v.toNat % 32 ≤ 30 →
      ∃ t : State, exec (.registerWrite (.vf (n + 1)) 0x030 v) s = .next t ∧ (t.pad n).lkto = v.toNat % 32 ∧ t.mem = s.mem) ∧
    (∃ t : State, exec (.registerWrite .pf 0x018 v) s = .next t ∧ t.cap = v.getLsbD 0) ∧
    (cell < 192 → s.link.card ≤ 1 → s.dies[Fin.ofNat 2 (dieOf cell)] = .up →
      (∃ t : State, exec (.registerWrite .firmware (s.cellPa cell 0xF0400) v) s = .next t ∧
        (t.core (s.coreNo cell)).tag = v.toNat / 2 ^ 5 % 8 ∧ (t.core (s.coreNo cell)).bport = v.toNat % 16) ∧
      ∀ j, exec (.registerWrite (.supervisor j) (s.cellPa cell 0xF0400) v) s = .next s) ∧
    ((∃ t : State, exec (.scrub (.hbm m) true) s = .next t ∧ m ∈ t.badWords ∧ t.mem = s.mem) ∧
     exec (.scrub (.hbm m) false) s = .next s ∧
     (∃ t : State, exec (.scrub (.icache k m) false) s = .next t ∧ (t.core k).corrected = min ((s.core k).corrected + 1) 0xFFFFFFFF) ∧
     (n ≠ 0 → n < 32 → ∃ t : State, exec (.scrub (.register k 4 n 0) true) s = .next t ∧ .greg n ∈ (t.core k).poison)) ∧
    (k < 512 → ∀ x : Instr, x = .coreLoss k ∨ x = .coreLossNiTimeout k →
      ∃ t : State, exec x s = .next t ∧ (t.core k).run = .lost ∧ (t.core k).available = false) ∧
    (∀ line d r, k < 512 → (s.core k).fencedAt = none → s.dirOf line = some d → d.round = some r → k ∈ r.waiting →
      ∃ u : State, exec (.ackTimeout line k) s = .next u.settle ∧ (u.core k).run = .lost ∧ (u.core k).available = false) ∧
    (isPort cell port = true → (s.linkAt cell port).failed = false →
      ((s.linkAt cell port).replays < 8 → ∃ t : State, exec (.beatReplay cell port) s = .next t ∧
        (t.linkAt cell port).replays = (s.linkAt cell port).replays + 1 ∧ t.mem = s.mem) ∧
      (∀ x : Instr, x = .meshLinkFailure cell port ∨ (x = .beatReplay cell port ∧ 8 ≤ (s.linkAt cell port).replays) →
        ∃ t : State, exec x s = .next t ∧ (∀ e ∈ linkEnds cell port, (t.linkAt e.1 e.2).failed = true) ∧ t.mem = s.mem)) ∧
    ((s.linkAt cell port).failed = true → ∃ t : State, exec (.detourComputed cell port) s = .next t ∧
      (t.linkAt cell port).detour = true ∧ t.mem = s.mem) ∧
    (m < 36 →
      (s.ucie[Fin.ofNat 36 m] = .full → ∃ t : State, exec (.ucieLaneLoss m) s = .next t ∧ t.ucie[Fin.ofNat 36 m] = .retraining) ∧
      (s.ucie[Fin.ofNat 36 m] = .half → ∃ t : State, exec (.ucieLaneLoss m) s = .next t ∧ t.ucie[Fin.ofNat 36 m] = .disabled) ∧
      (s.ucie[Fin.ofNat 36 m] = .retraining → ∀ ok : Bool, ∃ t : State, exec (.ucieRetrainDone m ok) s = .next t ∧
        t.ucie[Fin.ofNat 36 m] = if ok then .half else .disabled))
/-- Start-up goes from stage to stage: reset, the image, the self-test, the driver's answer, the link's training, and the sets of the
configuration; the link carries flits in sequence, replays, retrains, is lost and comes back with its peer; dies are reset and readmitted;
and clocks and voltages follow their controls (R403, R404, R433 to R443). That requests travel, or are served at once, is the model's form
(log entry 6). The model's readings at resets, FEATDEV, the host's replies and flits are log entries 15, 33, 51, 52 and 55; slack and the
voltage limit are free (log entry 7). -/
def Obligations.StartUpLinksAndPowerProceed : Prop :=
  ∀ (s : State) (v : Word) (vf off size : Nat) (seq ack : BitVec 12) (die : Fin 2) (q : Fin 4) (b : Bool),
    (∃ t : State, exec .cardReset s = .next t ∧ t.boot.stage = 1 ∧ t.dir = [] ∧ t.launches = [] ∧
      (∀ k, t.core k = if k = 512 ∨ k = 513 then { resetCore k with sram := (s.core k).sram } else resetCore k) ∧ t.pads = State.reset.pads ∧ t.net = [] ∧ t.link.up = false) ∧
    (∃ t : State, exec .perstDeassert s = .next t ∧ t.boot.perst = true) ∧
    (s.boot.stage = 1 →
      (∀ x y : Bool, (x = true ∨ y = true) → ∃ t : State, exec (.imageVerified x y) s = .next t ∧ t.boot.stage = 2 ∧
        t.boot.slot = (if x then 1 else 2) ∧ t.boot.verified = true) ∧
      (∃ t : State, exec (.imageVerified false false) s = .next t ∧ t.boot.stage = 15)) ∧
    (∀ failed : List Nat, s.boot.stage = 2 → s.boot.perst = true → s.link.card = 0 →
      ∃ t : State, exec (.selfTestComplete failed) s = .next t ∧ t.boot.stage = 3 ∧ t.boot.featdev = 0xFF ∧
        ∀ k ∈ failed, k < 192 → (t.core k).available = false) ∧
    ((∃ t : State, exec .configurationRequest s = .next t ∧ t.out = s.out ++ [if s.boot.stage ≤ 2 then .crs else .configOk])) ∧
    (s.boot.done = false → s.boot.stage = 3 → s.boot.answered = false → v.getLsbD 63 = true →
      ∃ t : State, exec (.feataccWrite v) s = .next t ∧ t.boot.done = true ∧ t.boot.stage = 4 ∧
        t.boot.featacc = v.setWidth 8 &&& s.boot.featdev ∧ ∀ d : Fin 2, t.boot.dies[d] = v.setWidth 8 &&& s.boot.featdev) ∧
    (s.boot.stage = 4 → s.link.up = false →
      (∃ t : State, exec (.sahaxTraining v) s = .next t ∧ t.link.up = true ∧ t.link.card = (if s.boot.cardId < v then 0 else 1) ∧
        t.link.peerId = v ∧ t.boot.stage = 5 ∧ t.out = s.out ++ [.cardId s.boot.cardId, .windowTable]) ∧
      (∃ t : State, exec .sahaxTrainTimeout s = .next t ∧ t.link.up = false ∧ t.link.card = 0 ∧ t.link.alone = true ∧ t.boot.stage = 5)) ∧
    (s.boot.stage = 5 →
      (∃ t : State, exec (.paddockActivation [6]) s = .next t ∧ t.boot.stage = 6 ∧ (t.pad 6).cmask = BitVec.allOnes 192 ∧
        (t.pad 6).stackMask = 15 ∧ (t.pad 6).ncode = 2) ∧
      (∀ c : List Nat, isConfiguration c = true → ∃ t : State, exec (.paddockActivation c) s = .next t ∧ t.boot.stage = 6 ∧
        ∀ n ∈ c, (t.pad n).active = true)) ∧
    (1 ≤ vf → vf ≤ 7 → 1 ≤ size →
      let pad := s.pad (vf - 1)
      let granted := pad.active = true ∧ off + size ≤ 0x3000000000 ∧ pad.stackMask.getLsbD (stackOf off) = true ∧
        pad.stackMask.getLsbD (stackOf (off + size - 1)) = true
      (¬granted → ∀ x : Option Nat, exec (.hostBar2Access (.bar2 vf) off size x) s = .next { s with out := s.out ++ [.ur vf off] }) ∧
      (granted → s.dies[Fin.ofNat 2 (stackOf off / 2)] = .up → off % 128 + size ≤ 128 →
        let pa := s.link.card * 2 ^ 47 + off
        (∀ x : Nat, exec (.hostBar2Access (.bar2 vf) off size (some x)) s = .next (s.request
          { core := 1024, line := pa / 128, req := .write pa size (x % 2 ^ (8 * size)) false false })) ∧
        (∀ d, s.dirOf (pa / 128) = some d → d.st = .n → d.round = none → setBlocked s (pa / 128) = false → setParked s (pa / 128) = false →
          bankHeld s (pa / 128) = false → ∃ t : State, exec (.hostBar2Access (.bar2 vf) off size none) s = .next t ∧
            t.out = s.out ++ [.barRead vf off (s.mem.readN pa size)] ∧ t.mem = s.mem))) ∧
    (∀ fn, fn ≤ 7 → off % 8 = 0 →
      let reads := if fn = 0 then pfRead s off else if barLive s (fn - 1) = false then 2 ^ 64 - 1
        else if off < 0x4000 then padRead s (fn - 1) off else 0
      ∃ t : State, exec (.hostBar2Access (.bar0 fn) off 8 none) s = .next t ∧ t.out = s.out ++ [.barRead fn off (reads % 2 ^ 64)] ∧
        t.mem = s.mem) ∧
    (s.link.up = true → s.link.retraining = false →
      (∀ body, exec (.sahaxFlit seq ack true body) s = .next { s with out := s.out ++ [.nak s.link.rxSeq] }) ∧
      (∃ t : State, exec (.sahaxFlit s.link.rxSeq ack false .none) s = .next t ∧ t.link.rxSeq = s.link.rxSeq + 1 ∧ t.mem = s.mem) ∧
      (∀ pad pa n x, windowPermits s.windows.toList pad pa 1 = true →
        ∃ u : State, exec (.sahaxFlit s.link.rxSeq ack false (.store pad pa n x)) s =
          .next (u.request { core := 1025, line := pa / 128, req := .write pa n x false false }) ∧ u.link.rxSeq = s.link.rxSeq + 1 ∧
          u.net = s.net ∧ u.mem = s.mem) ∧
      (s.link.replay ≠ [seq] → ∃ t : State, exec (.sahaxNak seq) s = .next t ∧ t.link.replay = [seq] ∧ t.link.replays = 1 ∧
        t.link.retraining = false ∧ t.out = s.out ++ (s.link.buffer.dropWhile (·.1 != seq)).map fun f => .flit f.1 f.2) ∧
      (s.link.replay = [seq] → s.link.replays = 15 → ∃ t : State, exec (.sahaxNak seq) s = .next t ∧ t.link.retraining = true ∧
        t.link.retrains = min (s.link.retrains + 1) 255)) ∧
    (∃ u : State, exec .sahaxRetrainComplete s = .next u.settle ∧ u.link.retraining = false ∧ u.net = s.net ∧ u.mem = s.mem) ∧
    (s.link.up = true → ∃ u : State, exec .sahaxLinkLoss s = .next u.settle ∧ u.link.up = false ∧ u.link.lost = true ∧ u.mem = s.mem ∧
      ∀ a ∈ u.areds, a.matched = true ∧ a.status ≠ 0) ∧
    (s.link.up = false → s.link.trained = true → s.link.alone = false →
      (∃ t : State, exec (.sahaxRetrainAttempt (some s.link.peerId)) s = .next t ∧ t.link.up = true ∧ t.out = s.out ++ [.windowTable]) ∧
      (v ≠ s.link.peerId → ∃ t : State, exec (.sahaxRetrainAttempt (some v)) s = .next t ∧ t.link.up = false)) ∧
    (∃ t : State, exec (.dieWarmReset die) s = .next t ∧ t.dies[die] = .reset ∧ (∀ d ∈ t.dir, dieOf d.home ≠ die.val)) ∧
    (s.dies[die] = .reset → s.shutdown = false → (s.boot.stage = 6 ∨ (s.boot.stage = 3 ∧ s.boot.answered = true)) → ∀ failed,
      ∃ t : State, exec (.dieReadmit die failed) s = .next t ∧ t.boot.stage = 3 ∧ t.boot.done = false ∧ die ∈ t.boot.asking) ∧
    (∃ t : State, exec (.powerControl q b) s = .next t ∧ t.quarters[q] = (if b then (s.quarters[q]).lower else (s.quarters[q]).raise) ∧
      (∀ p : Fin 4, p ≠ q → t.quarters[p] = s.quarters[p]) ∧ t.mem = s.mem) ∧
    (∃ t : State, exec (.pwrctlCap v) s = .next t ∧ t.cap = v.getLsbD 0) ∧
    (max (s.quarters[q]).clockSteps (s.quarters[q]).ceilSteps < 32 → ∃ t : State, exec (.thermalThrottle q) s = .next t ∧
      (t.quarters[q]).clockSteps = max (s.quarters[q]).clockSteps (s.quarters[q]).ceilSteps + 1) ∧
    (∃ t : State, exec .thermalShutdown s = .next t ∧ t.shutdown = true ∧ t.boot.stage = 15 ∧ t.launches = [] ∧ t.net = [] ∧
      ∀ d : Fin 2, t.dies[d] = .reset) ∧
    (∀ raise : BitVec 16, ∃ t : State, exec (.ageingReplan q raise b) s = .next t ∧
      let slack := Config.monitorSlack s.tick
      let old := s.quarters[q]
      let new := t.quarters[q]
      new.slack = slack ∧
      (40 ≤ slack.toNat → new.voff = old.voff ∧ new.ceilSteps = old.ceilSteps) ∧
      (slack.toNat < 40 → new.voff = old.voff + 25 * min raise.toNat ((Config.voltageLimit - old.voff) / 25) ∧
        new.ceilSteps = if b = true ∧ Config.voltageLimit < new.voff + 25 then min (old.ceilSteps + 1) 32 else old.ceilSteps))
end

