-- ==== Sys2Proof/Laws/State.lean ====
section
/-! SUPPORT. One lemma per field per update of the state: what an update leaves is stated once, by rfl where it can be. -/
namespace Sys2Proof.Machine

/-! ### Updates of one field -/

@[simp] theorem State.onMe_cores (s : State) (f : Core → Core) : (s.onMe f).cores = s.cores := rfl
@[simp] theorem State.onMe_agenda (s : State) (f : Core → Core) : (s.onMe f).agenda = s.agenda := rfl
@[simp] theorem State.onMe_lazy (s : State) (f : Core → Core) : (s.onMe f).lazy = s.lazy := rfl
@[simp] theorem State.onMe_tick (s : State) (f : Core → Core) : (s.onMe f).tick = s.tick := rfl
@[simp] theorem State.onMe_mem (s : State) (f : Core → Core) : (s.onMe f).mem = s.mem := rfl
@[simp] theorem State.onMe_badWords (s : State) (f : Core → Core) : (s.onMe f).badWords = s.badWords := rfl
@[simp] theorem State.onMe_poisonDue (s : State) (f : Core → Core) : (s.onMe f).poisonDue = s.poisonDue := rfl
@[simp] theorem State.onMe_dir (s : State) (f : Core → Core) : (s.onMe f).dir = s.dir := rfl
@[simp] theorem State.onMe_net (s : State) (f : Core → Core) : (s.onMe f).net = s.net := rfl
@[simp] theorem State.onMe_stamp (s : State) (f : Core → Core) : (s.onMe f).stamp = s.stamp := rfl
@[simp] theorem State.onMe_classTurn (s : State) (f : Core → Core) : (s.onMe f).classTurn = s.classTurn := rfl
@[simp] theorem State.onMe_commits (s : State) (f : Core → Core) : (s.onMe f).commits = s.commits := rfl
@[simp] theorem State.onMe_overdues (s : State) (f : Core → Core) : (s.onMe f).overdues = s.overdues := rfl
@[simp] theorem State.onMe_prefs (s : State) (f : Core → Core) : (s.onMe f).prefs = s.prefs := rfl
@[simp] theorem State.onMe_ni (s : State) (f : Core → Core) : (s.onMe f).ni = s.ni := rfl
@[simp] theorem State.onMe_lockNet (s : State) (f : Core → Core) : (s.onMe f).lockNet = s.lockNet := rfl
@[simp] theorem State.onMe_withdrawn (s : State) (f : Core → Core) : (s.onMe f).withdrawn = s.withdrawn := rfl
@[simp] theorem State.onMe_xreqs (s : State) (f : Core → Core) : (s.onMe f).xreqs = s.xreqs := rfl
@[simp] theorem State.onMe_ctl (s : State) (f : Core → Core) : (s.onMe f).ctl = s.ctl := rfl
@[simp] theorem State.onMe_ats (s : State) (f : Core → Core) : (s.onMe f).ats = s.ats := rfl
@[simp] theorem State.onMe_contribs (s : State) (f : Core → Core) : (s.onMe f).contribs = s.contribs := rfl
@[simp] theorem State.onMe_jobs (s : State) (f : Core → Core) : (s.onMe f).jobs = s.jobs := rfl
@[simp] theorem State.onMe_areds (s : State) (f : Core → Core) : (s.onMe f).areds = s.areds := rfl
@[simp] theorem State.onMe_dumps (s : State) (f : Core → Core) : (s.onMe f).dumps = s.dumps := rfl
@[simp] theorem State.onMe_nextId (s : State) (f : Core → Core) : (s.onMe f).nextId = s.nextId := rfl
@[simp] theorem State.onMe_pads (s : State) (f : Core → Core) : (s.onMe f).pads = s.pads := rfl
@[simp] theorem State.onMe_launches (s : State) (f : Core → Core) : (s.onMe f).launches = s.launches := rfl
@[simp] theorem State.onMe_link (s : State) (f : Core → Core) : (s.onMe f).link = s.link := rfl
@[simp] theorem State.onMe_windows (s : State) (f : Core → Core) : (s.onMe f).windows = s.windows := rfl
@[simp] theorem State.onMe_peerWindows (s : State) (f : Core → Core) : (s.onMe f).peerWindows = s.peerWindows := rfl
@[simp] theorem State.onMe_boot (s : State) (f : Core → Core) : (s.onMe f).boot = s.boot := rfl
@[simp] theorem State.onMe_cap (s : State) (f : Core → Core) : (s.onMe f).cap = s.cap := rfl
@[simp] theorem State.onMe_shutdown (s : State) (f : Core → Core) : (s.onMe f).shutdown = s.shutdown := rfl
@[simp] theorem State.onMe_quarters (s : State) (f : Core → Core) : (s.onMe f).quarters = s.quarters := rfl
@[simp] theorem State.onMe_dies (s : State) (f : Core → Core) : (s.onMe f).dies = s.dies := rfl
@[simp] theorem State.onMe_mesh (s : State) (f : Core → Core) : (s.onMe f).mesh = s.mesh := rfl
@[simp] theorem State.onMe_ucie (s : State) (f : Core → Core) : (s.onMe f).ucie = s.ucie := rfl
@[simp] theorem State.onMe_out (s : State) (f : Core → Core) : (s.onMe f).out = s.out := rfl
@[simp] theorem State.onMe_hostReplies (s : State) (f : Core → Core) : (s.onMe f).hostReplies = s.hostReplies := rfl
@[simp] theorem State.onMe_hostReads (s : State) (f : Core → Core) : (s.onMe f).hostReads = s.hostReads := rfl
@[simp] theorem State.onMe_me (s : State) (f : Core → Core) : (s.onMe f).me = f s.me := rfl
@[simp] theorem State.setG_cores (s : State) (r : GReg) (v : Word) : (s.setG r v).cores = s.cores := rfl
@[simp] theorem State.setG_agenda (s : State) (r : GReg) (v : Word) : (s.setG r v).agenda = s.agenda := rfl
@[simp] theorem State.setG_lazy (s : State) (r : GReg) (v : Word) : (s.setG r v).lazy = s.lazy := rfl
@[simp] theorem State.setG_tick (s : State) (r : GReg) (v : Word) : (s.setG r v).tick = s.tick := rfl
@[simp] theorem State.setG_mem (s : State) (r : GReg) (v : Word) : (s.setG r v).mem = s.mem := rfl
@[simp] theorem State.setG_badWords (s : State) (r : GReg) (v : Word) : (s.setG r v).badWords = s.badWords := rfl
@[simp] theorem State.setG_poisonDue (s : State) (r : GReg) (v : Word) : (s.setG r v).poisonDue = s.poisonDue := rfl
@[simp] theorem State.setG_dir (s : State) (r : GReg) (v : Word) : (s.setG r v).dir = s.dir := rfl
@[simp] theorem State.setG_net (s : State) (r : GReg) (v : Word) : (s.setG r v).net = s.net := rfl
@[simp] theorem State.setG_stamp (s : State) (r : GReg) (v : Word) : (s.setG r v).stamp = s.stamp := rfl
@[simp] theorem State.setG_classTurn (s : State) (r : GReg) (v : Word) : (s.setG r v).classTurn = s.classTurn := rfl
@[simp] theorem State.setG_commits (s : State) (r : GReg) (v : Word) : (s.setG r v).commits = s.commits := rfl
@[simp] theorem State.setG_overdues (s : State) (r : GReg) (v : Word) : (s.setG r v).overdues = s.overdues := rfl
@[simp] theorem State.setG_prefs (s : State) (r : GReg) (v : Word) : (s.setG r v).prefs = s.prefs := rfl
@[simp] theorem State.setG_ni (s : State) (r : GReg) (v : Word) : (s.setG r v).ni = s.ni := rfl
@[simp] theorem State.setG_lockNet (s : State) (r : GReg) (v : Word) : (s.setG r v).lockNet = s.lockNet := rfl
@[simp] theorem State.setG_withdrawn (s : State) (r : GReg) (v : Word) : (s.setG r v).withdrawn = s.withdrawn := rfl
@[simp] theorem State.setG_xreqs (s : State) (r : GReg) (v : Word) : (s.setG r v).xreqs = s.xreqs := rfl
@[simp] theorem State.setG_ctl (s : State) (r : GReg) (v : Word) : (s.setG r v).ctl = s.ctl := rfl
@[simp] theorem State.setG_ats (s : State) (r : GReg) (v : Word) : (s.setG r v).ats = s.ats := rfl
@[simp] theorem State.setG_contribs (s : State) (r : GReg) (v : Word) : (s.setG r v).contribs = s.contribs := rfl
@[simp] theorem State.setG_jobs (s : State) (r : GReg) (v : Word) : (s.setG r v).jobs = s.jobs := rfl
@[simp] theorem State.setG_areds (s : State) (r : GReg) (v : Word) : (s.setG r v).areds = s.areds := rfl
@[simp] theorem State.setG_dumps (s : State) (r : GReg) (v : Word) : (s.setG r v).dumps = s.dumps := rfl
@[simp] theorem State.setG_nextId (s : State) (r : GReg) (v : Word) : (s.setG r v).nextId = s.nextId := rfl
@[simp] theorem State.setG_pads (s : State) (r : GReg) (v : Word) : (s.setG r v).pads = s.pads := rfl
@[simp] theorem State.setG_launches (s : State) (r : GReg) (v : Word) : (s.setG r v).launches = s.launches := rfl
@[simp] theorem State.setG_link (s : State) (r : GReg) (v : Word) : (s.setG r v).link = s.link := rfl
@[simp] theorem State.setG_windows (s : State) (r : GReg) (v : Word) : (s.setG r v).windows = s.windows := rfl
@[simp] theorem State.setG_peerWindows (s : State) (r : GReg) (v : Word) : (s.setG r v).peerWindows = s.peerWindows := rfl
@[simp] theorem State.setG_boot (s : State) (r : GReg) (v : Word) : (s.setG r v).boot = s.boot := rfl
@[simp] theorem State.setG_cap (s : State) (r : GReg) (v : Word) : (s.setG r v).cap = s.cap := rfl
@[simp] theorem State.setG_shutdown (s : State) (r : GReg) (v : Word) : (s.setG r v).shutdown = s.shutdown := rfl
@[simp] theorem State.setG_quarters (s : State) (r : GReg) (v : Word) : (s.setG r v).quarters = s.quarters := rfl
@[simp] theorem State.setG_dies (s : State) (r : GReg) (v : Word) : (s.setG r v).dies = s.dies := rfl
@[simp] theorem State.setG_mesh (s : State) (r : GReg) (v : Word) : (s.setG r v).mesh = s.mesh := rfl
@[simp] theorem State.setG_ucie (s : State) (r : GReg) (v : Word) : (s.setG r v).ucie = s.ucie := rfl
@[simp] theorem State.setG_out (s : State) (r : GReg) (v : Word) : (s.setG r v).out = s.out := rfl
@[simp] theorem State.setG_hostReplies (s : State) (r : GReg) (v : Word) : (s.setG r v).hostReplies = s.hostReplies := rfl
@[simp] theorem State.setG_hostReads (s : State) (r : GReg) (v : Word) : (s.setG r v).hostReads = s.hostReads := rfl
@[simp] theorem State.setG_me (s : State) (r : GReg) (v : Word) : (s.setG r v).me = s.me.setReg r v := rfl
@[simp] theorem State.addFlags_cores (s : State) (f : Flags) : (s.addFlags f).cores = s.cores := rfl
@[simp] theorem State.addFlags_agenda (s : State) (f : Flags) : (s.addFlags f).agenda = s.agenda := rfl
@[simp] theorem State.addFlags_lazy (s : State) (f : Flags) : (s.addFlags f).lazy = s.lazy := rfl
@[simp] theorem State.addFlags_tick (s : State) (f : Flags) : (s.addFlags f).tick = s.tick := rfl
@[simp] theorem State.addFlags_mem (s : State) (f : Flags) : (s.addFlags f).mem = s.mem := rfl
@[simp] theorem State.addFlags_badWords (s : State) (f : Flags) : (s.addFlags f).badWords = s.badWords := rfl
@[simp] theorem State.addFlags_poisonDue (s : State) (f : Flags) : (s.addFlags f).poisonDue = s.poisonDue := rfl
@[simp] theorem State.addFlags_dir (s : State) (f : Flags) : (s.addFlags f).dir = s.dir := rfl
@[simp] theorem State.addFlags_net (s : State) (f : Flags) : (s.addFlags f).net = s.net := rfl
@[simp] theorem State.addFlags_stamp (s : State) (f : Flags) : (s.addFlags f).stamp = s.stamp := rfl
@[simp] theorem State.addFlags_classTurn (s : State) (f : Flags) : (s.addFlags f).classTurn = s.classTurn := rfl
@[simp] theorem State.addFlags_commits (s : State) (f : Flags) : (s.addFlags f).commits = s.commits := rfl
@[simp] theorem State.addFlags_overdues (s : State) (f : Flags) : (s.addFlags f).overdues = s.overdues := rfl
@[simp] theorem State.addFlags_prefs (s : State) (f : Flags) : (s.addFlags f).prefs = s.prefs := rfl
@[simp] theorem State.addFlags_ni (s : State) (f : Flags) : (s.addFlags f).ni = s.ni := rfl
@[simp] theorem State.addFlags_lockNet (s : State) (f : Flags) : (s.addFlags f).lockNet = s.lockNet := rfl
@[simp] theorem State.addFlags_withdrawn (s : State) (f : Flags) : (s.addFlags f).withdrawn = s.withdrawn := rfl
@[simp] theorem State.addFlags_xreqs (s : State) (f : Flags) : (s.addFlags f).xreqs = s.xreqs := rfl
@[simp] theorem State.addFlags_ctl (s : State) (f : Flags) : (s.addFlags f).ctl = s.ctl := rfl
@[simp] theorem State.addFlags_ats (s : State) (f : Flags) : (s.addFlags f).ats = s.ats := rfl
@[simp] theorem State.addFlags_contribs (s : State) (f : Flags) : (s.addFlags f).contribs = s.contribs := rfl
@[simp] theorem State.addFlags_jobs (s : State) (f : Flags) : (s.addFlags f).jobs = s.jobs := rfl
@[simp] theorem State.addFlags_areds (s : State) (f : Flags) : (s.addFlags f).areds = s.areds := rfl
@[simp] theorem State.addFlags_dumps (s : State) (f : Flags) : (s.addFlags f).dumps = s.dumps := rfl
@[simp] theorem State.addFlags_nextId (s : State) (f : Flags) : (s.addFlags f).nextId = s.nextId := rfl
@[simp] theorem State.addFlags_pads (s : State) (f : Flags) : (s.addFlags f).pads = s.pads := rfl
@[simp] theorem State.addFlags_launches (s : State) (f : Flags) : (s.addFlags f).launches = s.launches := rfl
@[simp] theorem State.addFlags_link (s : State) (f : Flags) : (s.addFlags f).link = s.link := rfl
@[simp] theorem State.addFlags_windows (s : State) (f : Flags) : (s.addFlags f).windows = s.windows := rfl
@[simp] theorem State.addFlags_peerWindows (s : State) (f : Flags) : (s.addFlags f).peerWindows = s.peerWindows := rfl
@[simp] theorem State.addFlags_boot (s : State) (f : Flags) : (s.addFlags f).boot = s.boot := rfl
@[simp] theorem State.addFlags_cap (s : State) (f : Flags) : (s.addFlags f).cap = s.cap := rfl
@[simp] theorem State.addFlags_shutdown (s : State) (f : Flags) : (s.addFlags f).shutdown = s.shutdown := rfl
@[simp] theorem State.addFlags_quarters (s : State) (f : Flags) : (s.addFlags f).quarters = s.quarters := rfl
@[simp] theorem State.addFlags_dies (s : State) (f : Flags) : (s.addFlags f).dies = s.dies := rfl
@[simp] theorem State.addFlags_mesh (s : State) (f : Flags) : (s.addFlags f).mesh = s.mesh := rfl
@[simp] theorem State.addFlags_ucie (s : State) (f : Flags) : (s.addFlags f).ucie = s.ucie := rfl
@[simp] theorem State.addFlags_out (s : State) (f : Flags) : (s.addFlags f).out = s.out := rfl
@[simp] theorem State.addFlags_hostReplies (s : State) (f : Flags) : (s.addFlags f).hostReplies = s.hostReplies := rfl
@[simp] theorem State.addFlags_hostReads (s : State) (f : Flags) : (s.addFlags f).hostReads = s.hostReads := rfl
@[simp] theorem State.tock_me (s : State)  : (s.tock).me = s.me := rfl
@[simp] theorem State.tock_cores (s : State)  : (s.tock).cores = s.cores := rfl
@[simp] theorem State.tock_agenda (s : State)  : (s.tock).agenda = s.agenda := rfl
@[simp] theorem State.tock_lazy (s : State)  : (s.tock).lazy = s.lazy := rfl
@[simp] theorem State.tock_mem (s : State)  : (s.tock).mem = s.mem := rfl
@[simp] theorem State.tock_badWords (s : State)  : (s.tock).badWords = s.badWords := rfl
@[simp] theorem State.tock_poisonDue (s : State)  : (s.tock).poisonDue = s.poisonDue := rfl
@[simp] theorem State.tock_dir (s : State)  : (s.tock).dir = s.dir := rfl
@[simp] theorem State.tock_net (s : State)  : (s.tock).net = s.net := rfl
@[simp] theorem State.tock_stamp (s : State)  : (s.tock).stamp = s.stamp := rfl
@[simp] theorem State.tock_classTurn (s : State)  : (s.tock).classTurn = s.classTurn := rfl
@[simp] theorem State.tock_commits (s : State)  : (s.tock).commits = s.commits := rfl
@[simp] theorem State.tock_overdues (s : State)  : (s.tock).overdues = s.overdues := rfl
@[simp] theorem State.tock_prefs (s : State)  : (s.tock).prefs = s.prefs := rfl
@[simp] theorem State.tock_ni (s : State)  : (s.tock).ni = s.ni := rfl
@[simp] theorem State.tock_lockNet (s : State)  : (s.tock).lockNet = s.lockNet := rfl
@[simp] theorem State.tock_withdrawn (s : State)  : (s.tock).withdrawn = s.withdrawn := rfl
@[simp] theorem State.tock_xreqs (s : State)  : (s.tock).xreqs = s.xreqs := rfl
@[simp] theorem State.tock_ctl (s : State)  : (s.tock).ctl = s.ctl := rfl
@[simp] theorem State.tock_ats (s : State)  : (s.tock).ats = s.ats := rfl
@[simp] theorem State.tock_contribs (s : State)  : (s.tock).contribs = s.contribs := rfl
@[simp] theorem State.tock_jobs (s : State)  : (s.tock).jobs = s.jobs := rfl
@[simp] theorem State.tock_areds (s : State)  : (s.tock).areds = s.areds := rfl
@[simp] theorem State.tock_dumps (s : State)  : (s.tock).dumps = s.dumps := rfl
@[simp] theorem State.tock_nextId (s : State)  : (s.tock).nextId = s.nextId := rfl
@[simp] theorem State.tock_pads (s : State)  : (s.tock).pads = s.pads := rfl
@[simp] theorem State.tock_launches (s : State)  : (s.tock).launches = s.launches := rfl
@[simp] theorem State.tock_link (s : State)  : (s.tock).link = s.link := rfl
@[simp] theorem State.tock_windows (s : State)  : (s.tock).windows = s.windows := rfl
@[simp] theorem State.tock_peerWindows (s : State)  : (s.tock).peerWindows = s.peerWindows := rfl
@[simp] theorem State.tock_boot (s : State)  : (s.tock).boot = s.boot := rfl
@[simp] theorem State.tock_cap (s : State)  : (s.tock).cap = s.cap := rfl
@[simp] theorem State.tock_shutdown (s : State)  : (s.tock).shutdown = s.shutdown := rfl
@[simp] theorem State.tock_quarters (s : State)  : (s.tock).quarters = s.quarters := rfl
@[simp] theorem State.tock_dies (s : State)  : (s.tock).dies = s.dies := rfl
@[simp] theorem State.tock_mesh (s : State)  : (s.tock).mesh = s.mesh := rfl
@[simp] theorem State.tock_ucie (s : State)  : (s.tock).ucie = s.ucie := rfl
@[simp] theorem State.tock_out (s : State)  : (s.tock).out = s.out := rfl
@[simp] theorem State.tock_hostReplies (s : State)  : (s.tock).hostReplies = s.hostReplies := rfl
@[simp] theorem State.tock_hostReads (s : State)  : (s.tock).hostReads = s.hostReads := rfl
@[simp] theorem State.onPad_me (s : State) (n : Nat) (f : Paddock → Paddock) : (s.onPad n f).me = s.me := rfl
@[simp] theorem State.onPad_cores (s : State) (n : Nat) (f : Paddock → Paddock) : (s.onPad n f).cores = s.cores := rfl
@[simp] theorem State.onPad_agenda (s : State) (n : Nat) (f : Paddock → Paddock) : (s.onPad n f).agenda = s.agenda := rfl
@[simp] theorem State.onPad_lazy (s : State) (n : Nat) (f : Paddock → Paddock) : (s.onPad n f).lazy = s.lazy := rfl
@[simp] theorem State.onPad_tick (s : State) (n : Nat) (f : Paddock → Paddock) : (s.onPad n f).tick = s.tick := rfl
@[simp] theorem State.onPad_mem (s : State) (n : Nat) (f : Paddock → Paddock) : (s.onPad n f).mem = s.mem := rfl
@[simp] theorem State.onPad_badWords (s : State) (n : Nat) (f : Paddock → Paddock) : (s.onPad n f).badWords = s.badWords := rfl
@[simp] theorem State.onPad_poisonDue (s : State) (n : Nat) (f : Paddock → Paddock) : (s.onPad n f).poisonDue = s.poisonDue := rfl
@[simp] theorem State.onPad_dir (s : State) (n : Nat) (f : Paddock → Paddock) : (s.onPad n f).dir = s.dir := rfl
@[simp] theorem State.onPad_net (s : State) (n : Nat) (f : Paddock → Paddock) : (s.onPad n f).net = s.net := rfl
@[simp] theorem State.onPad_stamp (s : State) (n : Nat) (f : Paddock → Paddock) : (s.onPad n f).stamp = s.stamp := rfl
@[simp] theorem State.onPad_classTurn (s : State) (n : Nat) (f : Paddock → Paddock) : (s.onPad n f).classTurn = s.classTurn := rfl
@[simp] theorem State.onPad_commits (s : State) (n : Nat) (f : Paddock → Paddock) : (s.onPad n f).commits = s.commits := rfl
@[simp] theorem State.onPad_overdues (s : State) (n : Nat) (f : Paddock → Paddock) : (s.onPad n f).overdues = s.overdues := rfl
@[simp] theorem State.onPad_prefs (s : State) (n : Nat) (f : Paddock → Paddock) : (s.onPad n f).prefs = s.prefs := rfl
@[simp] theorem State.onPad_ni (s : State) (n : Nat) (f : Paddock → Paddock) : (s.onPad n f).ni = s.ni := rfl
@[simp] theorem State.onPad_lockNet (s : State) (n : Nat) (f : Paddock → Paddock) : (s.onPad n f).lockNet = s.lockNet := rfl
@[simp] theorem State.onPad_withdrawn (s : State) (n : Nat) (f : Paddock → Paddock) : (s.onPad n f).withdrawn = s.withdrawn := rfl
@[simp] theorem State.onPad_xreqs (s : State) (n : Nat) (f : Paddock → Paddock) : (s.onPad n f).xreqs = s.xreqs := rfl
@[simp] theorem State.onPad_ctl (s : State) (n : Nat) (f : Paddock → Paddock) : (s.onPad n f).ctl = s.ctl := rfl
@[simp] theorem State.onPad_ats (s : State) (n : Nat) (f : Paddock → Paddock) : (s.onPad n f).ats = s.ats := rfl
@[simp] theorem State.onPad_contribs (s : State) (n : Nat) (f : Paddock → Paddock) : (s.onPad n f).contribs = s.contribs := rfl
@[simp] theorem State.onPad_jobs (s : State) (n : Nat) (f : Paddock → Paddock) : (s.onPad n f).jobs = s.jobs := rfl
@[simp] theorem State.onPad_areds (s : State) (n : Nat) (f : Paddock → Paddock) : (s.onPad n f).areds = s.areds := rfl
@[simp] theorem State.onPad_dumps (s : State) (n : Nat) (f : Paddock → Paddock) : (s.onPad n f).dumps = s.dumps := rfl
@[simp] theorem State.onPad_nextId (s : State) (n : Nat) (f : Paddock → Paddock) : (s.onPad n f).nextId = s.nextId := rfl
@[simp] theorem State.onPad_launches (s : State) (n : Nat) (f : Paddock → Paddock) : (s.onPad n f).launches = s.launches := rfl
@[simp] theorem State.onPad_link (s : State) (n : Nat) (f : Paddock → Paddock) : (s.onPad n f).link = s.link := rfl
@[simp] theorem State.onPad_windows (s : State) (n : Nat) (f : Paddock → Paddock) : (s.onPad n f).windows = s.windows := rfl
@[simp] theorem State.onPad_peerWindows (s : State) (n : Nat) (f : Paddock → Paddock) : (s.onPad n f).peerWindows = s.peerWindows := rfl
@[simp] theorem State.onPad_boot (s : State) (n : Nat) (f : Paddock → Paddock) : (s.onPad n f).boot = s.boot := rfl
@[simp] theorem State.onPad_cap (s : State) (n : Nat) (f : Paddock → Paddock) : (s.onPad n f).cap = s.cap := rfl
@[simp] theorem State.onPad_shutdown (s : State) (n : Nat) (f : Paddock → Paddock) : (s.onPad n f).shutdown = s.shutdown := rfl
@[simp] theorem State.onPad_quarters (s : State) (n : Nat) (f : Paddock → Paddock) : (s.onPad n f).quarters = s.quarters := rfl
@[simp] theorem State.onPad_dies (s : State) (n : Nat) (f : Paddock → Paddock) : (s.onPad n f).dies = s.dies := rfl
@[simp] theorem State.onPad_mesh (s : State) (n : Nat) (f : Paddock → Paddock) : (s.onPad n f).mesh = s.mesh := rfl
@[simp] theorem State.onPad_ucie (s : State) (n : Nat) (f : Paddock → Paddock) : (s.onPad n f).ucie = s.ucie := rfl
@[simp] theorem State.onPad_out (s : State) (n : Nat) (f : Paddock → Paddock) : (s.onPad n f).out = s.out := rfl
@[simp] theorem State.onPad_hostReplies (s : State) (n : Nat) (f : Paddock → Paddock) : (s.onPad n f).hostReplies = s.hostReplies := rfl
@[simp] theorem State.onPad_hostReads (s : State) (n : Nat) (f : Paddock → Paddock) : (s.onPad n f).hostReads = s.hostReads := rfl
@[simp] theorem State.onLaunch_me (s : State) (n : Nat) (f : Launch → Launch) : (s.onLaunch n f).me = s.me := rfl
@[simp] theorem State.onLaunch_cores (s : State) (n : Nat) (f : Launch → Launch) : (s.onLaunch n f).cores = s.cores := rfl
@[simp] theorem State.onLaunch_agenda (s : State) (n : Nat) (f : Launch → Launch) : (s.onLaunch n f).agenda = s.agenda := rfl
@[simp] theorem State.onLaunch_lazy (s : State) (n : Nat) (f : Launch → Launch) : (s.onLaunch n f).lazy = s.lazy := rfl
@[simp] theorem State.onLaunch_tick (s : State) (n : Nat) (f : Launch → Launch) : (s.onLaunch n f).tick = s.tick := rfl
@[simp] theorem State.onLaunch_mem (s : State) (n : Nat) (f : Launch → Launch) : (s.onLaunch n f).mem = s.mem := rfl
@[simp] theorem State.onLaunch_badWords (s : State) (n : Nat) (f : Launch → Launch) : (s.onLaunch n f).badWords = s.badWords := rfl
@[simp] theorem State.onLaunch_poisonDue (s : State) (n : Nat) (f : Launch → Launch) : (s.onLaunch n f).poisonDue = s.poisonDue := rfl
@[simp] theorem State.onLaunch_dir (s : State) (n : Nat) (f : Launch → Launch) : (s.onLaunch n f).dir = s.dir := rfl
@[simp] theorem State.onLaunch_net (s : State) (n : Nat) (f : Launch → Launch) : (s.onLaunch n f).net = s.net := rfl
@[simp] theorem State.onLaunch_stamp (s : State) (n : Nat) (f : Launch → Launch) : (s.onLaunch n f).stamp = s.stamp := rfl
@[simp] theorem State.onLaunch_classTurn (s : State) (n : Nat) (f : Launch → Launch) : (s.onLaunch n f).classTurn = s.classTurn := rfl
@[simp] theorem State.onLaunch_commits (s : State) (n : Nat) (f : Launch → Launch) : (s.onLaunch n f).commits = s.commits := rfl
@[simp] theorem State.onLaunch_overdues (s : State) (n : Nat) (f : Launch → Launch) : (s.onLaunch n f).overdues = s.overdues := rfl
@[simp] theorem State.onLaunch_prefs (s : State) (n : Nat) (f : Launch → Launch) : (s.onLaunch n f).prefs = s.prefs := rfl
@[simp] theorem State.onLaunch_ni (s : State) (n : Nat) (f : Launch → Launch) : (s.onLaunch n f).ni = s.ni := rfl
@[simp] theorem State.onLaunch_lockNet (s : State) (n : Nat) (f : Launch → Launch) : (s.onLaunch n f).lockNet = s.lockNet := rfl
@[simp] theorem State.onLaunch_withdrawn (s : State) (n : Nat) (f : Launch → Launch) : (s.onLaunch n f).withdrawn = s.withdrawn := rfl
@[simp] theorem State.onLaunch_xreqs (s : State) (n : Nat) (f : Launch → Launch) : (s.onLaunch n f).xreqs = s.xreqs := rfl
@[simp] theorem State.onLaunch_ctl (s : State) (n : Nat) (f : Launch → Launch) : (s.onLaunch n f).ctl = s.ctl := rfl
@[simp] theorem State.onLaunch_ats (s : State) (n : Nat) (f : Launch → Launch) : (s.onLaunch n f).ats = s.ats := rfl
@[simp] theorem State.onLaunch_contribs (s : State) (n : Nat) (f : Launch → Launch) : (s.onLaunch n f).contribs = s.contribs := rfl
@[simp] theorem State.onLaunch_jobs (s : State) (n : Nat) (f : Launch → Launch) : (s.onLaunch n f).jobs = s.jobs := rfl
@[simp] theorem State.onLaunch_areds (s : State) (n : Nat) (f : Launch → Launch) : (s.onLaunch n f).areds = s.areds := rfl
@[simp] theorem State.onLaunch_dumps (s : State) (n : Nat) (f : Launch → Launch) : (s.onLaunch n f).dumps = s.dumps := rfl
@[simp] theorem State.onLaunch_nextId (s : State) (n : Nat) (f : Launch → Launch) : (s.onLaunch n f).nextId = s.nextId := rfl
@[simp] theorem State.onLaunch_pads (s : State) (n : Nat) (f : Launch → Launch) : (s.onLaunch n f).pads = s.pads := rfl
@[simp] theorem State.onLaunch_link (s : State) (n : Nat) (f : Launch → Launch) : (s.onLaunch n f).link = s.link := rfl
@[simp] theorem State.onLaunch_windows (s : State) (n : Nat) (f : Launch → Launch) : (s.onLaunch n f).windows = s.windows := rfl
@[simp] theorem State.onLaunch_peerWindows (s : State) (n : Nat) (f : Launch → Launch) : (s.onLaunch n f).peerWindows = s.peerWindows := rfl
@[simp] theorem State.onLaunch_boot (s : State) (n : Nat) (f : Launch → Launch) : (s.onLaunch n f).boot = s.boot := rfl
@[simp] theorem State.onLaunch_cap (s : State) (n : Nat) (f : Launch → Launch) : (s.onLaunch n f).cap = s.cap := rfl
@[simp] theorem State.onLaunch_shutdown (s : State) (n : Nat) (f : Launch → Launch) : (s.onLaunch n f).shutdown = s.shutdown := rfl
@[simp] theorem State.onLaunch_quarters (s : State) (n : Nat) (f : Launch → Launch) : (s.onLaunch n f).quarters = s.quarters := rfl
@[simp] theorem State.onLaunch_dies (s : State) (n : Nat) (f : Launch → Launch) : (s.onLaunch n f).dies = s.dies := rfl
@[simp] theorem State.onLaunch_mesh (s : State) (n : Nat) (f : Launch → Launch) : (s.onLaunch n f).mesh = s.mesh := rfl
@[simp] theorem State.onLaunch_ucie (s : State) (n : Nat) (f : Launch → Launch) : (s.onLaunch n f).ucie = s.ucie := rfl
@[simp] theorem State.onLaunch_out (s : State) (n : Nat) (f : Launch → Launch) : (s.onLaunch n f).out = s.out := rfl
@[simp] theorem State.onLaunch_hostReplies (s : State) (n : Nat) (f : Launch → Launch) : (s.onLaunch n f).hostReplies = s.hostReplies := rfl
@[simp] theorem State.onLaunch_hostReads (s : State) (n : Nat) (f : Launch → Launch) : (s.onLaunch n f).hostReads = s.hostReads := rfl
@[simp] theorem State.post_me (s : State) (p : Pkt) : (s.post p).me = s.me := rfl
@[simp] theorem State.post_cores (s : State) (p : Pkt) : (s.post p).cores = s.cores := rfl
@[simp] theorem State.post_agenda (s : State) (p : Pkt) : (s.post p).agenda = s.agenda := rfl
@[simp] theorem State.post_lazy (s : State) (p : Pkt) : (s.post p).lazy = s.lazy := rfl
@[simp] theorem State.post_tick (s : State) (p : Pkt) : (s.post p).tick = s.tick := rfl
@[simp] theorem State.post_mem (s : State) (p : Pkt) : (s.post p).mem = s.mem := rfl
@[simp] theorem State.post_badWords (s : State) (p : Pkt) : (s.post p).badWords = s.badWords := rfl
@[simp] theorem State.post_poisonDue (s : State) (p : Pkt) : (s.post p).poisonDue = s.poisonDue := rfl
@[simp] theorem State.post_dir (s : State) (p : Pkt) : (s.post p).dir = s.dir := rfl
@[simp] theorem State.post_classTurn (s : State) (p : Pkt) : (s.post p).classTurn = s.classTurn := rfl
@[simp] theorem State.post_commits (s : State) (p : Pkt) : (s.post p).commits = s.commits := rfl
@[simp] theorem State.post_overdues (s : State) (p : Pkt) : (s.post p).overdues = s.overdues := rfl
@[simp] theorem State.post_prefs (s : State) (p : Pkt) : (s.post p).prefs = s.prefs := rfl
@[simp] theorem State.post_ni (s : State) (p : Pkt) : (s.post p).ni = s.ni := rfl
@[simp] theorem State.post_lockNet (s : State) (p : Pkt) : (s.post p).lockNet = s.lockNet := rfl
@[simp] theorem State.post_withdrawn (s : State) (p : Pkt) : (s.post p).withdrawn = s.withdrawn := rfl
@[simp] theorem State.post_xreqs (s : State) (p : Pkt) : (s.post p).xreqs = s.xreqs := rfl
@[simp] theorem State.post_ctl (s : State) (p : Pkt) : (s.post p).ctl = s.ctl := rfl
@[simp] theorem State.post_ats (s : State) (p : Pkt) : (s.post p).ats = s.ats := rfl
@[simp] theorem State.post_contribs (s : State) (p : Pkt) : (s.post p).contribs = s.contribs := rfl
@[simp] theorem State.post_jobs (s : State) (p : Pkt) : (s.post p).jobs = s.jobs := rfl
@[simp] theorem State.post_areds (s : State) (p : Pkt) : (s.post p).areds = s.areds := rfl
@[simp] theorem State.post_dumps (s : State) (p : Pkt) : (s.post p).dumps = s.dumps := rfl
@[simp] theorem State.post_nextId (s : State) (p : Pkt) : (s.post p).nextId = s.nextId := rfl
@[simp] theorem State.post_pads (s : State) (p : Pkt) : (s.post p).pads = s.pads := rfl
@[simp] theorem State.post_launches (s : State) (p : Pkt) : (s.post p).launches = s.launches := rfl
@[simp] theorem State.post_link (s : State) (p : Pkt) : (s.post p).link = s.link := rfl
@[simp] theorem State.post_windows (s : State) (p : Pkt) : (s.post p).windows = s.windows := rfl
@[simp] theorem State.post_peerWindows (s : State) (p : Pkt) : (s.post p).peerWindows = s.peerWindows := rfl
@[simp] theorem State.post_boot (s : State) (p : Pkt) : (s.post p).boot = s.boot := rfl
@[simp] theorem State.post_cap (s : State) (p : Pkt) : (s.post p).cap = s.cap := rfl
@[simp] theorem State.post_shutdown (s : State) (p : Pkt) : (s.post p).shutdown = s.shutdown := rfl
@[simp] theorem State.post_quarters (s : State) (p : Pkt) : (s.post p).quarters = s.quarters := rfl
@[simp] theorem State.post_dies (s : State) (p : Pkt) : (s.post p).dies = s.dies := rfl
@[simp] theorem State.post_mesh (s : State) (p : Pkt) : (s.post p).mesh = s.mesh := rfl
@[simp] theorem State.post_ucie (s : State) (p : Pkt) : (s.post p).ucie = s.ucie := rfl
@[simp] theorem State.post_out (s : State) (p : Pkt) : (s.post p).out = s.out := rfl
@[simp] theorem State.post_hostReplies (s : State) (p : Pkt) : (s.post p).hostReplies = s.hostReplies := rfl
@[simp] theorem State.post_hostReads (s : State) (p : Pkt) : (s.post p).hostReads = s.hostReads := rfl
@[simp] theorem State.post_net (s : State) (p : Pkt) :
    (s.post p).net = s.net ++ [flightOf s.stamp p] := rfl
@[simp] theorem State.post_stamp (s : State) (p : Pkt) : (s.post p).stamp = s.stamp + 1 := rfl
@[simp] theorem State.onDir_me (s : State) (n : Nat) (f : DirLine → DirLine) : (s.onDir n f).me = s.me := rfl
@[simp] theorem State.onDir_cores (s : State) (n : Nat) (f : DirLine → DirLine) : (s.onDir n f).cores = s.cores := rfl
@[simp] theorem State.onDir_agenda (s : State) (n : Nat) (f : DirLine → DirLine) : (s.onDir n f).agenda = s.agenda := rfl
@[simp] theorem State.onDir_lazy (s : State) (n : Nat) (f : DirLine → DirLine) : (s.onDir n f).lazy = s.lazy := rfl
@[simp] theorem State.onDir_tick (s : State) (n : Nat) (f : DirLine → DirLine) : (s.onDir n f).tick = s.tick := rfl
@[simp] theorem State.onDir_mem (s : State) (n : Nat) (f : DirLine → DirLine) : (s.onDir n f).mem = s.mem := rfl
@[simp] theorem State.onDir_badWords (s : State) (n : Nat) (f : DirLine → DirLine) : (s.onDir n f).badWords = s.badWords := rfl
@[simp] theorem State.onDir_poisonDue (s : State) (n : Nat) (f : DirLine → DirLine) : (s.onDir n f).poisonDue = s.poisonDue := rfl
@[simp] theorem State.onDir_net (s : State) (n : Nat) (f : DirLine → DirLine) : (s.onDir n f).net = s.net := rfl
@[simp] theorem State.onDir_stamp (s : State) (n : Nat) (f : DirLine → DirLine) : (s.onDir n f).stamp = s.stamp := rfl
@[simp] theorem State.onDir_classTurn (s : State) (n : Nat) (f : DirLine → DirLine) : (s.onDir n f).classTurn = s.classTurn := rfl
@[simp] theorem State.onDir_commits (s : State) (n : Nat) (f : DirLine → DirLine) : (s.onDir n f).commits = s.commits := rfl
@[simp] theorem State.onDir_overdues (s : State) (n : Nat) (f : DirLine → DirLine) : (s.onDir n f).overdues = s.overdues := rfl
@[simp] theorem State.onDir_prefs (s : State) (n : Nat) (f : DirLine → DirLine) : (s.onDir n f).prefs = s.prefs := rfl
@[simp] theorem State.onDir_ni (s : State) (n : Nat) (f : DirLine → DirLine) : (s.onDir n f).ni = s.ni := rfl
@[simp] theorem State.onDir_lockNet (s : State) (n : Nat) (f : DirLine → DirLine) : (s.onDir n f).lockNet = s.lockNet := rfl
@[simp] theorem State.onDir_withdrawn (s : State) (n : Nat) (f : DirLine → DirLine) : (s.onDir n f).withdrawn = s.withdrawn := rfl
@[simp] theorem State.onDir_xreqs (s : State) (n : Nat) (f : DirLine → DirLine) : (s.onDir n f).xreqs = s.xreqs := rfl
@[simp] theorem State.onDir_ctl (s : State) (n : Nat) (f : DirLine → DirLine) : (s.onDir n f).ctl = s.ctl := rfl
@[simp] theorem State.onDir_ats (s : State) (n : Nat) (f : DirLine → DirLine) : (s.onDir n f).ats = s.ats := rfl
@[simp] theorem State.onDir_contribs (s : State) (n : Nat) (f : DirLine → DirLine) : (s.onDir n f).contribs = s.contribs := rfl
@[simp] theorem State.onDir_jobs (s : State) (n : Nat) (f : DirLine → DirLine) : (s.onDir n f).jobs = s.jobs := rfl
@[simp] theorem State.onDir_areds (s : State) (n : Nat) (f : DirLine → DirLine) : (s.onDir n f).areds = s.areds := rfl
@[simp] theorem State.onDir_dumps (s : State) (n : Nat) (f : DirLine → DirLine) : (s.onDir n f).dumps = s.dumps := rfl
@[simp] theorem State.onDir_nextId (s : State) (n : Nat) (f : DirLine → DirLine) : (s.onDir n f).nextId = s.nextId := rfl
@[simp] theorem State.onDir_pads (s : State) (n : Nat) (f : DirLine → DirLine) : (s.onDir n f).pads = s.pads := rfl
@[simp] theorem State.onDir_launches (s : State) (n : Nat) (f : DirLine → DirLine) : (s.onDir n f).launches = s.launches := rfl
@[simp] theorem State.onDir_link (s : State) (n : Nat) (f : DirLine → DirLine) : (s.onDir n f).link = s.link := rfl
@[simp] theorem State.onDir_windows (s : State) (n : Nat) (f : DirLine → DirLine) : (s.onDir n f).windows = s.windows := rfl
@[simp] theorem State.onDir_peerWindows (s : State) (n : Nat) (f : DirLine → DirLine) : (s.onDir n f).peerWindows = s.peerWindows := rfl
@[simp] theorem State.onDir_boot (s : State) (n : Nat) (f : DirLine → DirLine) : (s.onDir n f).boot = s.boot := rfl
@[simp] theorem State.onDir_cap (s : State) (n : Nat) (f : DirLine → DirLine) : (s.onDir n f).cap = s.cap := rfl
@[simp] theorem State.onDir_shutdown (s : State) (n : Nat) (f : DirLine → DirLine) : (s.onDir n f).shutdown = s.shutdown := rfl
@[simp] theorem State.onDir_quarters (s : State) (n : Nat) (f : DirLine → DirLine) : (s.onDir n f).quarters = s.quarters := rfl
@[simp] theorem State.onDir_dies (s : State) (n : Nat) (f : DirLine → DirLine) : (s.onDir n f).dies = s.dies := rfl
@[simp] theorem State.onDir_mesh (s : State) (n : Nat) (f : DirLine → DirLine) : (s.onDir n f).mesh = s.mesh := rfl
@[simp] theorem State.onDir_ucie (s : State) (n : Nat) (f : DirLine → DirLine) : (s.onDir n f).ucie = s.ucie := rfl
@[simp] theorem State.onDir_out (s : State) (n : Nat) (f : DirLine → DirLine) : (s.onDir n f).out = s.out := rfl
@[simp] theorem State.onDir_hostReplies (s : State) (n : Nat) (f : DirLine → DirLine) : (s.onDir n f).hostReplies = s.hostReplies := rfl
@[simp] theorem State.onDir_hostReads (s : State) (n : Nat) (f : DirLine → DirLine) : (s.onDir n f).hostReads = s.hostReads := rfl
@[simp] theorem State.place_agenda (s : State) (pa n v : Nat) : (s.place pa n v).agenda = s.agenda := rfl
@[simp] theorem State.place_lazy (s : State) (pa n v : Nat) : (s.place pa n v).lazy = s.lazy := rfl
@[simp] theorem State.place_tick (s : State) (pa n v : Nat) : (s.place pa n v).tick = s.tick := rfl
@[simp] theorem State.place_dir (s : State) (pa n v : Nat) : (s.place pa n v).dir = s.dir := rfl
@[simp] theorem State.place_net (s : State) (pa n v : Nat) : (s.place pa n v).net = s.net := rfl
@[simp] theorem State.place_stamp (s : State) (pa n v : Nat) : (s.place pa n v).stamp = s.stamp := rfl
@[simp] theorem State.place_classTurn (s : State) (pa n v : Nat) : (s.place pa n v).classTurn = s.classTurn := rfl
@[simp] theorem State.place_commits (s : State) (pa n v : Nat) : (s.place pa n v).commits = s.commits := rfl
@[simp] theorem State.place_overdues (s : State) (pa n v : Nat) : (s.place pa n v).overdues = s.overdues := rfl
@[simp] theorem State.place_prefs (s : State) (pa n v : Nat) : (s.place pa n v).prefs = s.prefs := rfl
@[simp] theorem State.place_ni (s : State) (pa n v : Nat) : (s.place pa n v).ni = s.ni := rfl
@[simp] theorem State.place_lockNet (s : State) (pa n v : Nat) : (s.place pa n v).lockNet = s.lockNet := rfl
@[simp] theorem State.place_withdrawn (s : State) (pa n v : Nat) : (s.place pa n v).withdrawn = s.withdrawn := rfl
@[simp] theorem State.place_xreqs (s : State) (pa n v : Nat) : (s.place pa n v).xreqs = s.xreqs := rfl
@[simp] theorem State.place_ctl (s : State) (pa n v : Nat) : (s.place pa n v).ctl = s.ctl := rfl
@[simp] theorem State.place_ats (s : State) (pa n v : Nat) : (s.place pa n v).ats = s.ats := rfl
@[simp] theorem State.place_contribs (s : State) (pa n v : Nat) : (s.place pa n v).contribs = s.contribs := rfl
@[simp] theorem State.place_jobs (s : State) (pa n v : Nat) : (s.place pa n v).jobs = s.jobs := rfl
@[simp] theorem State.place_dumps (s : State) (pa n v : Nat) : (s.place pa n v).dumps = s.dumps := rfl
@[simp] theorem State.place_nextId (s : State) (pa n v : Nat) : (s.place pa n v).nextId = s.nextId := rfl
@[simp] theorem State.place_pads (s : State) (pa n v : Nat) : (s.place pa n v).pads = s.pads := rfl
@[simp] theorem State.place_launches (s : State) (pa n v : Nat) : (s.place pa n v).launches = s.launches := rfl
@[simp] theorem State.place_link (s : State) (pa n v : Nat) : (s.place pa n v).link = s.link := rfl
@[simp] theorem State.place_windows (s : State) (pa n v : Nat) : (s.place pa n v).windows = s.windows := rfl
@[simp] theorem State.place_peerWindows (s : State) (pa n v : Nat) : (s.place pa n v).peerWindows = s.peerWindows := rfl
@[simp] theorem State.place_boot (s : State) (pa n v : Nat) : (s.place pa n v).boot = s.boot := rfl
@[simp] theorem State.place_cap (s : State) (pa n v : Nat) : (s.place pa n v).cap = s.cap := rfl
@[simp] theorem State.place_shutdown (s : State) (pa n v : Nat) : (s.place pa n v).shutdown = s.shutdown := rfl
@[simp] theorem State.place_quarters (s : State) (pa n v : Nat) : (s.place pa n v).quarters = s.quarters := rfl
@[simp] theorem State.place_dies (s : State) (pa n v : Nat) : (s.place pa n v).dies = s.dies := rfl
@[simp] theorem State.place_mesh (s : State) (pa n v : Nat) : (s.place pa n v).mesh = s.mesh := rfl
@[simp] theorem State.place_ucie (s : State) (pa n v : Nat) : (s.place pa n v).ucie = s.ucie := rfl
@[simp] theorem State.place_out (s : State) (pa n v : Nat) : (s.place pa n v).out = s.out := rfl
@[simp] theorem State.place_hostReplies (s : State) (pa n v : Nat) : (s.place pa n v).hostReplies = s.hostReplies := rfl
@[simp] theorem State.place_hostReads (s : State) (pa n v : Nat) : (s.place pa n v).hostReads = s.hostReads := rfl
@[simp] theorem State.place_mem (s : State) (pa n v : Nat) : (s.place pa n v).mem = s.mem.writeN pa v n := rfl

/-! ### Cores -/

@[simp] theorem State.setCore_agenda (s : State) (c : Core) : (s.setCore c).agenda = s.agenda := by unfold State.setCore; split <;> rfl
@[simp] theorem State.setCore_lazy (s : State) (c : Core) : (s.setCore c).lazy = s.lazy := by unfold State.setCore; split <;> rfl
@[simp] theorem State.setCore_tick (s : State) (c : Core) : (s.setCore c).tick = s.tick := by unfold State.setCore; split <;> rfl
@[simp] theorem State.setCore_mem (s : State) (c : Core) : (s.setCore c).mem = s.mem := by unfold State.setCore; split <;> rfl
@[simp] theorem State.setCore_badWords (s : State) (c : Core) : (s.setCore c).badWords = s.badWords := by unfold State.setCore; split <;> rfl
@[simp] theorem State.setCore_poisonDue (s : State) (c : Core) : (s.setCore c).poisonDue = s.poisonDue := by unfold State.setCore; split <;> rfl
@[simp] theorem State.setCore_dir (s : State) (c : Core) : (s.setCore c).dir = s.dir := by unfold State.setCore; split <;> rfl
@[simp] theorem State.setCore_net (s : State) (c : Core) : (s.setCore c).net = s.net := by unfold State.setCore; split <;> rfl
@[simp] theorem State.setCore_stamp (s : State) (c : Core) : (s.setCore c).stamp = s.stamp := by unfold State.setCore; split <;> rfl
@[simp] theorem State.setCore_classTurn (s : State) (c : Core) : (s.setCore c).classTurn = s.classTurn := by unfold State.setCore; split <;> rfl
@[simp] theorem State.setCore_commits (s : State) (c : Core) : (s.setCore c).commits = s.commits := by unfold State.setCore; split <;> rfl
@[simp] theorem State.setCore_overdues (s : State) (c : Core) : (s.setCore c).overdues = s.overdues := by unfold State.setCore; split <;> rfl
@[simp] theorem State.setCore_prefs (s : State) (c : Core) : (s.setCore c).prefs = s.prefs := by unfold State.setCore; split <;> rfl
@[simp] theorem State.setCore_ni (s : State) (c : Core) : (s.setCore c).ni = s.ni := by unfold State.setCore; split <;> rfl
@[simp] theorem State.setCore_lockNet (s : State) (c : Core) : (s.setCore c).lockNet = s.lockNet := by unfold State.setCore; split <;> rfl
@[simp] theorem State.setCore_withdrawn (s : State) (c : Core) : (s.setCore c).withdrawn = s.withdrawn := by unfold State.setCore; split <;> rfl
@[simp] theorem State.setCore_xreqs (s : State) (c : Core) : (s.setCore c).xreqs = s.xreqs := by unfold State.setCore; split <;> rfl
@[simp] theorem State.setCore_ctl (s : State) (c : Core) : (s.setCore c).ctl = s.ctl := by unfold State.setCore; split <;> rfl
@[simp] theorem State.setCore_ats (s : State) (c : Core) : (s.setCore c).ats = s.ats := by unfold State.setCore; split <;> rfl
@[simp] theorem State.setCore_contribs (s : State) (c : Core) : (s.setCore c).contribs = s.contribs := by unfold State.setCore; split <;> rfl
@[simp] theorem State.setCore_jobs (s : State) (c : Core) : (s.setCore c).jobs = s.jobs := by unfold State.setCore; split <;> rfl
@[simp] theorem State.setCore_areds (s : State) (c : Core) : (s.setCore c).areds = s.areds := by unfold State.setCore; split <;> rfl
@[simp] theorem State.setCore_dumps (s : State) (c : Core) : (s.setCore c).dumps = s.dumps := by unfold State.setCore; split <;> rfl
@[simp] theorem State.setCore_nextId (s : State) (c : Core) : (s.setCore c).nextId = s.nextId := by unfold State.setCore; split <;> rfl
@[simp] theorem State.setCore_pads (s : State) (c : Core) : (s.setCore c).pads = s.pads := by unfold State.setCore; split <;> rfl
@[simp] theorem State.setCore_launches (s : State) (c : Core) : (s.setCore c).launches = s.launches := by unfold State.setCore; split <;> rfl
@[simp] theorem State.setCore_link (s : State) (c : Core) : (s.setCore c).link = s.link := by unfold State.setCore; split <;> rfl
@[simp] theorem State.setCore_windows (s : State) (c : Core) : (s.setCore c).windows = s.windows := by unfold State.setCore; split <;> rfl
@[simp] theorem State.setCore_peerWindows (s : State) (c : Core) : (s.setCore c).peerWindows = s.peerWindows := by unfold State.setCore; split <;> rfl
@[simp] theorem State.setCore_boot (s : State) (c : Core) : (s.setCore c).boot = s.boot := by unfold State.setCore; split <;> rfl
@[simp] theorem State.setCore_cap (s : State) (c : Core) : (s.setCore c).cap = s.cap := by unfold State.setCore; split <;> rfl
@[simp] theorem State.setCore_shutdown (s : State) (c : Core) : (s.setCore c).shutdown = s.shutdown := by unfold State.setCore; split <;> rfl
@[simp] theorem State.setCore_quarters (s : State) (c : Core) : (s.setCore c).quarters = s.quarters := by unfold State.setCore; split <;> rfl
@[simp] theorem State.setCore_dies (s : State) (c : Core) : (s.setCore c).dies = s.dies := by unfold State.setCore; split <;> rfl
@[simp] theorem State.setCore_mesh (s : State) (c : Core) : (s.setCore c).mesh = s.mesh := by unfold State.setCore; split <;> rfl
@[simp] theorem State.setCore_ucie (s : State) (c : Core) : (s.setCore c).ucie = s.ucie := by unfold State.setCore; split <;> rfl
@[simp] theorem State.setCore_out (s : State) (c : Core) : (s.setCore c).out = s.out := by unfold State.setCore; split <;> rfl
@[simp] theorem State.setCore_hostReplies (s : State) (c : Core) : (s.setCore c).hostReplies = s.hostReplies := by unfold State.setCore; split <;> rfl
@[simp] theorem State.setCore_hostReads (s : State) (c : Core) : (s.setCore c).hostReads = s.hostReads := by unfold State.setCore; split <;> rfl
@[simp] theorem State.onCore_agenda (s : State) (k : Nat) (f : Core → Core) : (s.onCore k f).agenda = s.agenda := by unfold State.onCore; simp
@[simp] theorem State.onCore_lazy (s : State) (k : Nat) (f : Core → Core) : (s.onCore k f).lazy = s.lazy := by unfold State.onCore; simp
@[simp] theorem State.onCore_tick (s : State) (k : Nat) (f : Core → Core) : (s.onCore k f).tick = s.tick := by unfold State.onCore; simp
@[simp] theorem State.onCore_mem (s : State) (k : Nat) (f : Core → Core) : (s.onCore k f).mem = s.mem := by unfold State.onCore; simp
@[simp] theorem State.onCore_badWords (s : State) (k : Nat) (f : Core → Core) : (s.onCore k f).badWords = s.badWords := by unfold State.onCore; simp
@[simp] theorem State.onCore_poisonDue (s : State) (k : Nat) (f : Core → Core) : (s.onCore k f).poisonDue = s.poisonDue := by unfold State.onCore; simp
@[simp] theorem State.onCore_dir (s : State) (k : Nat) (f : Core → Core) : (s.onCore k f).dir = s.dir := by unfold State.onCore; simp
@[simp] theorem State.onCore_net (s : State) (k : Nat) (f : Core → Core) : (s.onCore k f).net = s.net := by unfold State.onCore; simp
@[simp] theorem State.onCore_stamp (s : State) (k : Nat) (f : Core → Core) : (s.onCore k f).stamp = s.stamp := by unfold State.onCore; simp
@[simp] theorem State.onCore_classTurn (s : State) (k : Nat) (f : Core → Core) : (s.onCore k f).classTurn = s.classTurn := by unfold State.onCore; simp
@[simp] theorem State.onCore_commits (s : State) (k : Nat) (f : Core → Core) : (s.onCore k f).commits = s.commits := by unfold State.onCore; simp
@[simp] theorem State.onCore_overdues (s : State) (k : Nat) (f : Core → Core) : (s.onCore k f).overdues = s.overdues := by unfold State.onCore; simp
@[simp] theorem State.onCore_prefs (s : State) (k : Nat) (f : Core → Core) : (s.onCore k f).prefs = s.prefs := by unfold State.onCore; simp
@[simp] theorem State.onCore_ni (s : State) (k : Nat) (f : Core → Core) : (s.onCore k f).ni = s.ni := by unfold State.onCore; simp
@[simp] theorem State.onCore_lockNet (s : State) (k : Nat) (f : Core → Core) : (s.onCore k f).lockNet = s.lockNet := by unfold State.onCore; simp
@[simp] theorem State.onCore_withdrawn (s : State) (k : Nat) (f : Core → Core) : (s.onCore k f).withdrawn = s.withdrawn := by unfold State.onCore; simp
@[simp] theorem State.onCore_xreqs (s : State) (k : Nat) (f : Core → Core) : (s.onCore k f).xreqs = s.xreqs := by unfold State.onCore; simp
@[simp] theorem State.onCore_ctl (s : State) (k : Nat) (f : Core → Core) : (s.onCore k f).ctl = s.ctl := by unfold State.onCore; simp
@[simp] theorem State.onCore_ats (s : State) (k : Nat) (f : Core → Core) : (s.onCore k f).ats = s.ats := by unfold State.onCore; simp
@[simp] theorem State.onCore_contribs (s : State) (k : Nat) (f : Core → Core) : (s.onCore k f).contribs = s.contribs := by unfold State.onCore; simp
@[simp] theorem State.onCore_jobs (s : State) (k : Nat) (f : Core → Core) : (s.onCore k f).jobs = s.jobs := by unfold State.onCore; simp
@[simp] theorem State.onCore_areds (s : State) (k : Nat) (f : Core → Core) : (s.onCore k f).areds = s.areds := by unfold State.onCore; simp
@[simp] theorem State.onCore_dumps (s : State) (k : Nat) (f : Core → Core) : (s.onCore k f).dumps = s.dumps := by unfold State.onCore; simp
@[simp] theorem State.onCore_nextId (s : State) (k : Nat) (f : Core → Core) : (s.onCore k f).nextId = s.nextId := by unfold State.onCore; simp
@[simp] theorem State.onCore_pads (s : State) (k : Nat) (f : Core → Core) : (s.onCore k f).pads = s.pads := by unfold State.onCore; simp
@[simp] theorem State.onCore_launches (s : State) (k : Nat) (f : Core → Core) : (s.onCore k f).launches = s.launches := by unfold State.onCore; simp
@[simp] theorem State.onCore_link (s : State) (k : Nat) (f : Core → Core) : (s.onCore k f).link = s.link := by unfold State.onCore; simp
@[simp] theorem State.onCore_windows (s : State) (k : Nat) (f : Core → Core) : (s.onCore k f).windows = s.windows := by unfold State.onCore; simp
@[simp] theorem State.onCore_peerWindows (s : State) (k : Nat) (f : Core → Core) : (s.onCore k f).peerWindows = s.peerWindows := by unfold State.onCore; simp
@[simp] theorem State.onCore_boot (s : State) (k : Nat) (f : Core → Core) : (s.onCore k f).boot = s.boot := by unfold State.onCore; simp
@[simp] theorem State.onCore_cap (s : State) (k : Nat) (f : Core → Core) : (s.onCore k f).cap = s.cap := by unfold State.onCore; simp
@[simp] theorem State.onCore_shutdown (s : State) (k : Nat) (f : Core → Core) : (s.onCore k f).shutdown = s.shutdown := by unfold State.onCore; simp
@[simp] theorem State.onCore_quarters (s : State) (k : Nat) (f : Core → Core) : (s.onCore k f).quarters = s.quarters := by unfold State.onCore; simp
@[simp] theorem State.onCore_dies (s : State) (k : Nat) (f : Core → Core) : (s.onCore k f).dies = s.dies := by unfold State.onCore; simp
@[simp] theorem State.onCore_mesh (s : State) (k : Nat) (f : Core → Core) : (s.onCore k f).mesh = s.mesh := by unfold State.onCore; simp
@[simp] theorem State.onCore_ucie (s : State) (k : Nat) (f : Core → Core) : (s.onCore k f).ucie = s.ucie := by unfold State.onCore; simp
@[simp] theorem State.onCore_out (s : State) (k : Nat) (f : Core → Core) : (s.onCore k f).out = s.out := by unfold State.onCore; simp
@[simp] theorem State.onCore_hostReplies (s : State) (k : Nat) (f : Core → Core) : (s.onCore k f).hostReplies = s.hostReplies := by unfold State.onCore; simp
@[simp] theorem State.onCore_hostReads (s : State) (k : Nat) (f : Core → Core) : (s.onCore k f).hostReads = s.hostReads := by unfold State.onCore; simp

/-! ### Packets sent -/

@[simp] theorem State.postAll_me (s : State) (ps : List Pkt) : (s.postAll ps).me = s.me := by induction ps generalizing s <;> simp_all [State.postAll]
@[simp] theorem State.postAll_cores (s : State) (ps : List Pkt) : (s.postAll ps).cores = s.cores := by induction ps generalizing s <;> simp_all [State.postAll]
@[simp] theorem State.postAll_agenda (s : State) (ps : List Pkt) : (s.postAll ps).agenda = s.agenda := by induction ps generalizing s <;> simp_all [State.postAll]
@[simp] theorem State.postAll_lazy (s : State) (ps : List Pkt) : (s.postAll ps).lazy = s.lazy := by induction ps generalizing s <;> simp_all [State.postAll]
@[simp] theorem State.postAll_tick (s : State) (ps : List Pkt) : (s.postAll ps).tick = s.tick := by induction ps generalizing s <;> simp_all [State.postAll]
@[simp] theorem State.postAll_mem (s : State) (ps : List Pkt) : (s.postAll ps).mem = s.mem := by induction ps generalizing s <;> simp_all [State.postAll]
@[simp] theorem State.postAll_badWords (s : State) (ps : List Pkt) : (s.postAll ps).badWords = s.badWords := by induction ps generalizing s <;> simp_all [State.postAll]
@[simp] theorem State.postAll_poisonDue (s : State) (ps : List Pkt) : (s.postAll ps).poisonDue = s.poisonDue := by induction ps generalizing s <;> simp_all [State.postAll]
@[simp] theorem State.postAll_dir (s : State) (ps : List Pkt) : (s.postAll ps).dir = s.dir := by induction ps generalizing s <;> simp_all [State.postAll]
@[simp] theorem State.postAll_classTurn (s : State) (ps : List Pkt) : (s.postAll ps).classTurn = s.classTurn := by induction ps generalizing s <;> simp_all [State.postAll]
@[simp] theorem State.postAll_commits (s : State) (ps : List Pkt) : (s.postAll ps).commits = s.commits := by induction ps generalizing s <;> simp_all [State.postAll]
@[simp] theorem State.postAll_overdues (s : State) (ps : List Pkt) : (s.postAll ps).overdues = s.overdues := by induction ps generalizing s <;> simp_all [State.postAll]
@[simp] theorem State.postAll_prefs (s : State) (ps : List Pkt) : (s.postAll ps).prefs = s.prefs := by induction ps generalizing s <;> simp_all [State.postAll]
@[simp] theorem State.postAll_ni (s : State) (ps : List Pkt) : (s.postAll ps).ni = s.ni := by induction ps generalizing s <;> simp_all [State.postAll]
@[simp] theorem State.postAll_lockNet (s : State) (ps : List Pkt) : (s.postAll ps).lockNet = s.lockNet := by induction ps generalizing s <;> simp_all [State.postAll]
@[simp] theorem State.postAll_withdrawn (s : State) (ps : List Pkt) : (s.postAll ps).withdrawn = s.withdrawn := by induction ps generalizing s <;> simp_all [State.postAll]
@[simp] theorem State.postAll_xreqs (s : State) (ps : List Pkt) : (s.postAll ps).xreqs = s.xreqs := by induction ps generalizing s <;> simp_all [State.postAll]
@[simp] theorem State.postAll_ctl (s : State) (ps : List Pkt) : (s.postAll ps).ctl = s.ctl := by induction ps generalizing s <;> simp_all [State.postAll]
@[simp] theorem State.postAll_ats (s : State) (ps : List Pkt) : (s.postAll ps).ats = s.ats := by induction ps generalizing s <;> simp_all [State.postAll]
@[simp] theorem State.postAll_contribs (s : State) (ps : List Pkt) : (s.postAll ps).contribs = s.contribs := by induction ps generalizing s <;> simp_all [State.postAll]
@[simp] theorem State.postAll_jobs (s : State) (ps : List Pkt) : (s.postAll ps).jobs = s.jobs := by induction ps generalizing s <;> simp_all [State.postAll]
@[simp] theorem State.postAll_areds (s : State) (ps : List Pkt) : (s.postAll ps).areds = s.areds := by induction ps generalizing s <;> simp_all [State.postAll]
@[simp] theorem State.postAll_dumps (s : State) (ps : List Pkt) : (s.postAll ps).dumps = s.dumps := by induction ps generalizing s <;> simp_all [State.postAll]
@[simp] theorem State.postAll_nextId (s : State) (ps : List Pkt) : (s.postAll ps).nextId = s.nextId := by induction ps generalizing s <;> simp_all [State.postAll]
@[simp] theorem State.postAll_pads (s : State) (ps : List Pkt) : (s.postAll ps).pads = s.pads := by induction ps generalizing s <;> simp_all [State.postAll]
@[simp] theorem State.postAll_launches (s : State) (ps : List Pkt) : (s.postAll ps).launches = s.launches := by induction ps generalizing s <;> simp_all [State.postAll]
@[simp] theorem State.postAll_link (s : State) (ps : List Pkt) : (s.postAll ps).link = s.link := by induction ps generalizing s <;> simp_all [State.postAll]
@[simp] theorem State.postAll_windows (s : State) (ps : List Pkt) : (s.postAll ps).windows = s.windows := by induction ps generalizing s <;> simp_all [State.postAll]
@[simp] theorem State.postAll_peerWindows (s : State) (ps : List Pkt) : (s.postAll ps).peerWindows = s.peerWindows := by induction ps generalizing s <;> simp_all [State.postAll]
@[simp] theorem State.postAll_boot (s : State) (ps : List Pkt) : (s.postAll ps).boot = s.boot := by induction ps generalizing s <;> simp_all [State.postAll]
@[simp] theorem State.postAll_cap (s : State) (ps : List Pkt) : (s.postAll ps).cap = s.cap := by induction ps generalizing s <;> simp_all [State.postAll]
@[simp] theorem State.postAll_shutdown (s : State) (ps : List Pkt) : (s.postAll ps).shutdown = s.shutdown := by induction ps generalizing s <;> simp_all [State.postAll]
@[simp] theorem State.postAll_quarters (s : State) (ps : List Pkt) : (s.postAll ps).quarters = s.quarters := by induction ps generalizing s <;> simp_all [State.postAll]
@[simp] theorem State.postAll_dies (s : State) (ps : List Pkt) : (s.postAll ps).dies = s.dies := by induction ps generalizing s <;> simp_all [State.postAll]
@[simp] theorem State.postAll_mesh (s : State) (ps : List Pkt) : (s.postAll ps).mesh = s.mesh := by induction ps generalizing s <;> simp_all [State.postAll]
@[simp] theorem State.postAll_ucie (s : State) (ps : List Pkt) : (s.postAll ps).ucie = s.ucie := by induction ps generalizing s <;> simp_all [State.postAll]
@[simp] theorem State.postAll_out (s : State) (ps : List Pkt) : (s.postAll ps).out = s.out := by induction ps generalizing s <;> simp_all [State.postAll]
@[simp] theorem State.postAll_hostReplies (s : State) (ps : List Pkt) : (s.postAll ps).hostReplies = s.hostReplies := by induction ps generalizing s <;> simp_all [State.postAll]
@[simp] theorem State.postAll_hostReads (s : State) (ps : List Pkt) : (s.postAll ps).hostReads = s.hostReads := by induction ps generalizing s <;> simp_all [State.postAll]
@[simp] theorem State.postLock_me (s : State) (src : Option Nat) (p : LockPkt) : (s.postLock src p).me = s.me := rfl
@[simp] theorem State.postLock_cores (s : State) (src : Option Nat) (p : LockPkt) : (s.postLock src p).cores = s.cores := rfl
@[simp] theorem State.postLock_agenda (s : State) (src : Option Nat) (p : LockPkt) : (s.postLock src p).agenda = s.agenda := rfl
@[simp] theorem State.postLock_lazy (s : State) (src : Option Nat) (p : LockPkt) : (s.postLock src p).lazy = s.lazy := rfl
@[simp] theorem State.postLock_tick (s : State) (src : Option Nat) (p : LockPkt) : (s.postLock src p).tick = s.tick := rfl
@[simp] theorem State.postLock_mem (s : State) (src : Option Nat) (p : LockPkt) : (s.postLock src p).mem = s.mem := rfl
@[simp] theorem State.postLock_badWords (s : State) (src : Option Nat) (p : LockPkt) : (s.postLock src p).badWords = s.badWords := rfl
@[simp] theorem State.postLock_poisonDue (s : State) (src : Option Nat) (p : LockPkt) : (s.postLock src p).poisonDue = s.poisonDue := rfl
@[simp] theorem State.postLock_dir (s : State) (src : Option Nat) (p : LockPkt) : (s.postLock src p).dir = s.dir := rfl
@[simp] theorem State.postLock_net (s : State) (src : Option Nat) (p : LockPkt) : (s.postLock src p).net = s.net := rfl
@[simp] theorem State.postLock_classTurn (s : State) (src : Option Nat) (p : LockPkt) : (s.postLock src p).classTurn = s.classTurn := rfl
@[simp] theorem State.postLock_commits (s : State) (src : Option Nat) (p : LockPkt) : (s.postLock src p).commits = s.commits := rfl
@[simp] theorem State.postLock_overdues (s : State) (src : Option Nat) (p : LockPkt) : (s.postLock src p).overdues = s.overdues := rfl
@[simp] theorem State.postLock_prefs (s : State) (src : Option Nat) (p : LockPkt) : (s.postLock src p).prefs = s.prefs := rfl
@[simp] theorem State.postLock_ni (s : State) (src : Option Nat) (p : LockPkt) : (s.postLock src p).ni = s.ni := rfl
@[simp] theorem State.postLock_withdrawn (s : State) (src : Option Nat) (p : LockPkt) : (s.postLock src p).withdrawn = s.withdrawn := rfl
@[simp] theorem State.postLock_xreqs (s : State) (src : Option Nat) (p : LockPkt) : (s.postLock src p).xreqs = s.xreqs := rfl
@[simp] theorem State.postLock_ctl (s : State) (src : Option Nat) (p : LockPkt) : (s.postLock src p).ctl = s.ctl := rfl
@[simp] theorem State.postLock_ats (s : State) (src : Option Nat) (p : LockPkt) : (s.postLock src p).ats = s.ats := rfl
@[simp] theorem State.postLock_contribs (s : State) (src : Option Nat) (p : LockPkt) : (s.postLock src p).contribs = s.contribs := rfl
@[simp] theorem State.postLock_jobs (s : State) (src : Option Nat) (p : LockPkt) : (s.postLock src p).jobs = s.jobs := rfl
@[simp] theorem State.postLock_areds (s : State) (src : Option Nat) (p : LockPkt) : (s.postLock src p).areds = s.areds := rfl
@[simp] theorem State.postLock_dumps (s : State) (src : Option Nat) (p : LockPkt) : (s.postLock src p).dumps = s.dumps := rfl
@[simp] theorem State.postLock_nextId (s : State) (src : Option Nat) (p : LockPkt) : (s.postLock src p).nextId = s.nextId := rfl
@[simp] theorem State.postLock_pads (s : State) (src : Option Nat) (p : LockPkt) : (s.postLock src p).pads = s.pads := rfl
@[simp] theorem State.postLock_launches (s : State) (src : Option Nat) (p : LockPkt) : (s.postLock src p).launches = s.launches := rfl
@[simp] theorem State.postLock_link (s : State) (src : Option Nat) (p : LockPkt) : (s.postLock src p).link = s.link := rfl
@[simp] theorem State.postLock_windows (s : State) (src : Option Nat) (p : LockPkt) : (s.postLock src p).windows = s.windows := rfl
@[simp] theorem State.postLock_peerWindows (s : State) (src : Option Nat) (p : LockPkt) : (s.postLock src p).peerWindows = s.peerWindows := rfl
@[simp] theorem State.postLock_boot (s : State) (src : Option Nat) (p : LockPkt) : (s.postLock src p).boot = s.boot := rfl
@[simp] theorem State.postLock_cap (s : State) (src : Option Nat) (p : LockPkt) : (s.postLock src p).cap = s.cap := rfl
@[simp] theorem State.postLock_shutdown (s : State) (src : Option Nat) (p : LockPkt) : (s.postLock src p).shutdown = s.shutdown := rfl
@[simp] theorem State.postLock_quarters (s : State) (src : Option Nat) (p : LockPkt) : (s.postLock src p).quarters = s.quarters := rfl
@[simp] theorem State.postLock_dies (s : State) (src : Option Nat) (p : LockPkt) : (s.postLock src p).dies = s.dies := rfl
@[simp] theorem State.postLock_mesh (s : State) (src : Option Nat) (p : LockPkt) : (s.postLock src p).mesh = s.mesh := rfl
@[simp] theorem State.postLock_ucie (s : State) (src : Option Nat) (p : LockPkt) : (s.postLock src p).ucie = s.ucie := rfl
@[simp] theorem State.postLock_out (s : State) (src : Option Nat) (p : LockPkt) : (s.postLock src p).out = s.out := rfl
@[simp] theorem State.postLock_hostReplies (s : State) (src : Option Nat) (p : LockPkt) : (s.postLock src p).hostReplies = s.hostReplies := rfl
@[simp] theorem State.postLock_hostReads (s : State) (src : Option Nat) (p : LockPkt) : (s.postLock src p).hostReads = s.hostReads := rfl
@[simp] theorem State.postNi_me (s : State) (p : NiPkt) : (s.postNi p).me = s.me := rfl
@[simp] theorem State.postNi_cores (s : State) (p : NiPkt) : (s.postNi p).cores = s.cores := rfl
@[simp] theorem State.postNi_agenda (s : State) (p : NiPkt) : (s.postNi p).agenda = s.agenda := rfl
@[simp] theorem State.postNi_lazy (s : State) (p : NiPkt) : (s.postNi p).lazy = s.lazy := rfl
@[simp] theorem State.postNi_tick (s : State) (p : NiPkt) : (s.postNi p).tick = s.tick := rfl
@[simp] theorem State.postNi_mem (s : State) (p : NiPkt) : (s.postNi p).mem = s.mem := rfl
@[simp] theorem State.postNi_badWords (s : State) (p : NiPkt) : (s.postNi p).badWords = s.badWords := rfl
@[simp] theorem State.postNi_poisonDue (s : State) (p : NiPkt) : (s.postNi p).poisonDue = s.poisonDue := rfl
@[simp] theorem State.postNi_dir (s : State) (p : NiPkt) : (s.postNi p).dir = s.dir := rfl
@[simp] theorem State.postNi_net (s : State) (p : NiPkt) : (s.postNi p).net = s.net := rfl
@[simp] theorem State.postNi_classTurn (s : State) (p : NiPkt) : (s.postNi p).classTurn = s.classTurn := rfl
@[simp] theorem State.postNi_commits (s : State) (p : NiPkt) : (s.postNi p).commits = s.commits := rfl
@[simp] theorem State.postNi_overdues (s : State) (p : NiPkt) : (s.postNi p).overdues = s.overdues := rfl
@[simp] theorem State.postNi_prefs (s : State) (p : NiPkt) : (s.postNi p).prefs = s.prefs := rfl
@[simp] theorem State.postNi_lockNet (s : State) (p : NiPkt) : (s.postNi p).lockNet = s.lockNet := rfl
@[simp] theorem State.postNi_withdrawn (s : State) (p : NiPkt) : (s.postNi p).withdrawn = s.withdrawn := rfl
@[simp] theorem State.postNi_xreqs (s : State) (p : NiPkt) : (s.postNi p).xreqs = s.xreqs := rfl
@[simp] theorem State.postNi_ctl (s : State) (p : NiPkt) : (s.postNi p).ctl = s.ctl := rfl
@[simp] theorem State.postNi_ats (s : State) (p : NiPkt) : (s.postNi p).ats = s.ats := rfl
@[simp] theorem State.postNi_contribs (s : State) (p : NiPkt) : (s.postNi p).contribs = s.contribs := rfl
@[simp] theorem State.postNi_jobs (s : State) (p : NiPkt) : (s.postNi p).jobs = s.jobs := rfl
@[simp] theorem State.postNi_areds (s : State) (p : NiPkt) : (s.postNi p).areds = s.areds := rfl
@[simp] theorem State.postNi_dumps (s : State) (p : NiPkt) : (s.postNi p).dumps = s.dumps := rfl
@[simp] theorem State.postNi_nextId (s : State) (p : NiPkt) : (s.postNi p).nextId = s.nextId := rfl
@[simp] theorem State.postNi_pads (s : State) (p : NiPkt) : (s.postNi p).pads = s.pads := rfl
@[simp] theorem State.postNi_launches (s : State) (p : NiPkt) : (s.postNi p).launches = s.launches := rfl
@[simp] theorem State.postNi_link (s : State) (p : NiPkt) : (s.postNi p).link = s.link := rfl
@[simp] theorem State.postNi_windows (s : State) (p : NiPkt) : (s.postNi p).windows = s.windows := rfl
@[simp] theorem State.postNi_peerWindows (s : State) (p : NiPkt) : (s.postNi p).peerWindows = s.peerWindows := rfl
@[simp] theorem State.postNi_boot (s : State) (p : NiPkt) : (s.postNi p).boot = s.boot := rfl
@[simp] theorem State.postNi_cap (s : State) (p : NiPkt) : (s.postNi p).cap = s.cap := rfl
@[simp] theorem State.postNi_shutdown (s : State) (p : NiPkt) : (s.postNi p).shutdown = s.shutdown := rfl
@[simp] theorem State.postNi_quarters (s : State) (p : NiPkt) : (s.postNi p).quarters = s.quarters := rfl
@[simp] theorem State.postNi_dies (s : State) (p : NiPkt) : (s.postNi p).dies = s.dies := rfl
@[simp] theorem State.postNi_mesh (s : State) (p : NiPkt) : (s.postNi p).mesh = s.mesh := rfl
@[simp] theorem State.postNi_ucie (s : State) (p : NiPkt) : (s.postNi p).ucie = s.ucie := rfl
@[simp] theorem State.postNi_out (s : State) (p : NiPkt) : (s.postNi p).out = s.out := rfl
@[simp] theorem State.postNi_hostReplies (s : State) (p : NiPkt) : (s.postNi p).hostReplies = s.hostReplies := rfl
@[simp] theorem State.postNi_hostReads (s : State) (p : NiPkt) : (s.postNi p).hostReads = s.hostReads := rfl

end Sys2Proof.Machine
end

