-- ==== Sys2Proof/Laws/Cores.lean ====
section
/-! SUPPORT. Cores by number, and general registers: what a read after a write gives. -/
namespace Sys2Proof.Machine

/-- The core found for a number has that number. -/
@[simp] theorem findCore_id (cs : List Core) (k : Nat) : (findCore cs k).id = k := by
  induction cs with
  | nil => rfl
  | cons c cs ih => unfold findCore; split <;> simp_all
/-- What is found after a core is put into a list. -/
theorem findCore_putCore (cs : List Core) (c : Core) (k : Nat) :
    findCore (putCore cs c) k = if k = c.id then c else findCore cs k := by
  by_cases h : k = c.id
  · subst h
    rw [if_pos rfl]
    induction cs with
    | nil => simp [putCore, findCore]
    | cons d cs ih =>
      unfold putCore
      split
      · simp [findCore]
      · split
        · simp [findCore]
        · rename_i h2
          have h3 : ¬d.id = c.id := fun e => h2 (by simp [e])
          simp [findCore, h3, ih]
  · have h' : ¬c.id = k := fun e => h e.symm
    rw [if_neg h]
    induction cs with
    | nil => simp [putCore, findCore, h']
    | cons d cs ih =>
      unfold putCore
      split
      · simp [findCore, h']
      · split
        · rename_i h2
          have h3 : ¬d.id = k := by rw [← (by simpa using h2 : c.id = d.id)]; exact h'
          simp [findCore, h', h3]
        · simp only [findCore, ih]
/-- A core of the state has the number it is asked by. -/
@[simp] theorem State.core_id (s : State) (k : Nat) : (s.core k).id = k := by unfold State.core; split <;> simp_all
/-- The moving core by its number. -/
@[simp] theorem State.core_me (s : State) : s.core s.me.id = s.me := by simp [State.core]
/-- A core after a core is replaced. -/
theorem State.core_setCore (s : State) (c : Core) (k : Nat) : (s.setCore c).core k = if k = c.id then c else s.core k := by
  unfold State.setCore
  by_cases hm : s.me.id = c.id
  · by_cases h : k = c.id
    · simp [State.core, hm, h]
    · have : ¬c.id = k := fun e => h e.symm
      simp [State.core, hm, h, this]
  · by_cases h : k = c.id
    · simp [State.core, hm, h, findCore_putCore]
    · by_cases hk : s.me.id = k
      · simp [State.core, h, hk]
      · simp [State.core, hm, h, hk, findCore_putCore]
/-- A core after a core is changed by an update that keeps its number. -/
theorem State.core_onCore (s : State) (j : Nat) (f : Core → Core) (k : Nat) (h : (f (s.core j)).id = j) :
    (s.onCore j f).core k = if k = j then f (s.core j) else s.core k := by
  rw [State.onCore, State.core_setCore, h]
/-- The core itself after the change. -/
theorem State.core_onCore_self (s : State) (k : Nat) (f : Core → Core) (h : (f (s.core k)).id = k) :
    (s.onCore k f).core k = f (s.core k) := by simp [State.core_onCore s k f k h]
/-- Cores are read from two fields. -/
theorem State.core_congr {s t : State} (h : t.me = s.me) (h' : t.cores = s.cores) (k : Nat) : t.core k = s.core k := by
  simp [State.core, h, h']
@[simp] theorem State.core_post (s : State) (p : Pkt) (k : Nat) : (s.post p).core k = s.core k := rfl
@[simp] theorem State.core_postAll (s : State) (ps : List Pkt) (k : Nat) : (s.postAll ps).core k = s.core k :=
  State.core_congr (by simp) (by simp) k
@[simp] theorem State.core_onDir (s : State) (n : Nat) (f : DirLine → DirLine) (k : Nat) : (s.onDir n f).core k = s.core k := rfl
@[simp] theorem State.core_onPad (s : State) (n : Nat) (f : Paddock → Paddock) (k : Nat) : (s.onPad n f).core k = s.core k := rfl
@[simp] theorem State.core_onLaunch (s : State) (n : Nat) (f : Launch → Launch) (k : Nat) : (s.onLaunch n f).core k = s.core k := rfl

/-- A register after a register is written: a write of g0 is ignored (R35). -/
theorem Core.reg_setReg (c : Core) (r q : GReg) (v : Word) :
    (c.setReg r v).reg q = if q = r ∧ r ≠ 0 then v else c.reg q := by
  by_cases hr : r = 0
  · simp [Core.setReg, hr]
  · by_cases hq : q = r
    · subst hq; simp [Core.reg, Core.setReg, hr]
    · have hv : r.val ≠ q.val := fun e => hq (Fin.ext e.symm)
      simp [Core.reg, Core.setReg, hr, hq, Vector.getElem_set_ne _ _ hv]
/-- The register itself. -/
theorem Core.reg_setReg_self (c : Core) (r : GReg) (v : Word) : (c.setReg r v).reg r = if r = 0 then 0 else v := by
  by_cases h : r = 0
  · subst h; simp [Core.reg]
  · rw [Core.reg_setReg, if_pos ⟨rfl, h⟩, if_neg h]
/-- g0 reads zero. -/
@[simp] theorem Core.reg_zero (c : Core) : c.reg 0 = 0 := rfl

end Sys2Proof.Machine
end

