-- ==== Sys2Proof/Laws/Traffic.lean ====
section
/-! SUPPORT. Packets and the directory: what serving one leaves, said once for each shared operation. -/
namespace Sys2Proof.Machine

/-! ### What follows at once (log entry 6) -/

/-- Nothing follows at once while requests travel. -/
@[simp] theorem State.settle_lazy {s : State} (h : s.lazy = true) : s.settle = s := by simp [State.settle, h]
@[simp] theorem State.settleNi_lazy {s : State} (h : s.lazy = true) : s.settleNi = s := by simp [State.settleNi, h]
@[simp] theorem State.settleLocks_lazy {s : State} (h : s.lazy = true) : s.settleLocks = s := by simp [State.settleLocks, h]
@[simp] theorem State.settleCtl_lazy {s : State} (h : s.lazy = true) : s.settleCtl = s := by simp [State.settleCtl, h]
@[simp] theorem State.settleX_lazy {s : State} (h : s.lazy = true) : s.settleX = s := by simp [State.settleX, h]
/-- Nothing follows where nothing is in flight. -/
theorem State.settle_empty {s : State} (h : s.net = []) : s.settle = s := by
  unfold State.settle; split
  · rfl
  · have : serveFirst s = none := by simp [serveFirst, serveOrder, serveAmong, h]
    rw [show (4096 : Nat) = 4095 + 1 from rfl, settleLoop, this]

/-! ### The directory -/

/-- A line's entry names the line. -/
theorem State.dirOf_line {s : State} {l : Nat} {d : DirLine} (h : s.dirOf l = some d) : d.line = l := by
  have := List.find?_some h; simpa using this
/-- The directory is read from one field. -/
theorem State.dirOf_congr {s t : State} (h : t.dir = s.dir) (l : Nat) : t.dirOf l = s.dirOf l := by simp [State.dirOf, h]
/-- A line's entry after a change of a line that keeps its number. -/
theorem State.dirOf_onDir (s : State) (l k : Nat) (f : DirLine → DirLine) (h : ∀ d, d.line = l → (f d).line = l) :
    (s.onDir l f).dirOf k = if k = l then (s.dirOf k).map f else s.dirOf k := by
  simp only [State.dirOf, State.onDir]
  induction s.dir with
  | nil => by_cases hk : k = l <;> simp [hk]
  | cons d ds ih =>
    by_cases hd : d.line = l
    · by_cases hk : k = l
      · subst hk; simp [hd, h d hd]
      · have h1 : ¬l = k := fun e => hk e.symm
        simp [hd, h d hd, h1, hk] at ih ⊢
        simpa [hk] using ih
    · by_cases hk : k = l
      · subst hk; simp [hd] at ih ⊢; simpa using ih
      · by_cases hdk : d.line = k <;> simp [hd, hdk, hk] at ih ⊢
        simpa [hk] using ih
@[simp] theorem State.dirOf_post (s : State) (p : Pkt) (l : Nat) : (s.post p).dirOf l = s.dirOf l := rfl
@[simp] theorem State.dirOf_postAll (s : State) (ps : List Pkt) (l : Nat) : (s.postAll ps).dirOf l = s.dirOf l :=
  State.dirOf_congr (by simp) l
@[simp] theorem State.dirOf_setCore (s : State) (c : Core) (l : Nat) : (s.setCore c).dirOf l = s.dirOf l := State.dirOf_congr (by simp) l
@[simp] theorem State.dirOf_onCore (s : State) (k : Nat) (f : Core → Core) (l : Nat) : (s.onCore k f).dirOf l = s.dirOf l :=
  State.dirOf_congr (by simp) l
@[simp] theorem State.dirOf_place (s : State) (pa n v l : Nat) : (s.place pa n v).dirOf l = s.dirOf l := rfl
@[simp] theorem State.dirOf_took (s : State) (i l : Nat) : (s.took i).dirOf l = s.dirOf l := rfl
/-- Packets sent in order. -/
theorem State.postAll_pkts (s : State) (ps : List Pkt) : (s.postAll ps).pkts = s.pkts ++ ps := by
  induction ps generalizing s with
  | nil => simp [State.postAll, State.pkts]
  | cons p ps ih =>
    have := ih (s.post p)
    simp only [State.postAll, List.foldl_cons] at this ⊢
    rw [this]; simp [State.pkts, flightOf]
/-- One packet sent. -/
@[simp] theorem State.post_pkts (s : State) (p : Pkt) : (s.post p).pkts = s.pkts ++ [p] := by simp [State.pkts, flightOf]
/-- One lock packet sent. -/
@[simp] theorem State.postLock_pkts (s : State) (src : Option Nat) (p : LockPkt) : (s.postLock src p).lockPkts = s.lockPkts ++ [p] := by
  simp [State.lockPkts, State.postLock]
/-- One packet of the network interfaces sent. -/
@[simp] theorem State.postNi_pkts (s : State) (p : NiPkt) : (s.postNi p).niPkts = s.niPkts ++ [p] := by simp [State.niPkts, State.postNi]
/-- What answers a read goes on with its age: no packet changes. -/
@[simp] theorem State.inherit_pkts (s : State) (f : InFlight) : (s.inherit f).pkts = s.pkts := by
  unfold State.inherit
  split
  · rfl
  · split
    · simp only [State.pkts, List.map_map]
      apply List.map_congr_left
      intro g _
      simp only [Function.comp_apply]
      split <;> (try split) <;> rfl
    · rfl
/-- A hit changes the directory alone: recency and marks (R163, R164, R166). -/
theorem State.hitDir_eq (s : State) (l : Nat) (ef : Bool) :
    ∃ f : DirLine → DirLine, s.hitDir l ef = { s with dir := s.dir.map f } ∧
      ∀ d, (f d).line = d.line ∧ (f d).home = d.home ∧ (f d).st = d.st ∧ (f d).sharers = d.sharers ∧ (f d).round = d.round ∧
        (f d).dirty = d.dirty := by
  unfold State.hitDir
  cases h : s.dirOf l with
  | none => exact ⟨id, by simp, fun d => by simp⟩
  | some d =>
    refine ⟨_, rfl, fun e => ?_⟩
    by_cases he : e.line == l <;> cases ef <;> simp [he, DirLine.afterUse] <;> (repeat' split) <;> simp_all

/-! ### Serving one packet -/

/-- A packet's entry among those taken. -/
@[simp] theorem State.took_net (s : State) (i : Nat) : (s.took i).net = s.net.eraseIdx i := rfl
/-- A packet that may move and answers to the step's description is served, then what follows at once. -/
theorem servePktIf_used {s u : State} {i : Nat} {p : Pkt} {is : Pkt → Bool} (h : AtIndex s i p) (hi : is p = true) (hf : ∀ k l d tr a pr fr e, p ≠ .fill k l d tr a pr fr e)
    (hs : servePkt (s.took i) p = .used u) : ∃ f, servePktIf s i is = .next (u.inherit f).settle := by
  obtain ⟨f, hx, rfl, hd, ht, hq⟩ := h
  have : serveFlight (s.took i) f = servePkt (s.took i) f.pkt := by
    unfold serveFlight; split
    · rename_i k l d tr a pr fr e hp; exact absurd hp (hf k l d tr a pr fr e)
    · rfl
  unfold State.took at hs this
  exact ⟨f, by simp [servePktIf, served, hx, hi, serveAt, hd, ht, hq, this, hs]⟩
/-- The same where the packet stays. -/
theorem servePktIf_stays {s u : State} {i : Nat} {p : Pkt} {is : Pkt → Bool} (h : AtIndex s i p) (hi : is p = true) (hf : ∀ k l d tr a pr fr e, p ≠ .fill k l d tr a pr fr e)
    (hs : servePkt (s.took i) p = .stays u) :
    ∃ f, s.net[i]? = some f ∧ servePktIf s i is = .next ({ u with net := u.net.take i ++ f :: u.net.drop i } : State).settle := by
  obtain ⟨f, hx, rfl, hd, ht, hq⟩ := h
  have : serveFlight (s.took i) f = servePkt (s.took i) f.pkt := by
    unfold serveFlight; split
    · rename_i k l d tr a pr fr e hp; exact absurd hp (hf k l d tr a pr fr e)
    · rfl
  unfold State.took at hs this
  exact ⟨f, hx, by simp [servePktIf, served, hx, hi, serveAt, hd, ht, hq, this, hs]⟩
/-- A fill that may move arrives at its core, then what follows at once. -/
theorem servePktIf_fill {s : State} {i k l : Nat} {d : BitVec 1024} {tr acq pr fresh : Bool} {e : Option LateFault}
    {is : Pkt → Bool} (h : AtIndex s i (.fill k l d tr acq pr fresh e)) (hi : is (.fill k l d tr acq pr fresh e) = true) :
    ∃ (f : InFlight) (slow : Bool) (n : Nat), servePktIf s i is =
      .next (({ arriveFill (s.took i) k l d tr acq pr fresh e slow with tick := n } : State).inherit f).settle := by
  obtain ⟨f, hx, hp, hd, ht, hq⟩ := h
  rw [← hp] at hi
  have : ∃ n, serveFlight { s with net := s.net.eraseIdx i } f =
      .used { arriveFill (s.took i) k l d tr acq pr fresh e (f.slow (s.took i)) with tick := n } := by
    unfold serveFlight State.took; rw [hp]; dsimp only
    split
    · exact ⟨_, rfl⟩
    · exact ⟨(arriveFill (s.took i) k l d tr acq pr fresh e (f.slow (s.took i))).tick, rfl⟩
  obtain ⟨n, this⟩ := this
  refine ⟨f, f.slow (s.took i), n, ?_⟩
  simp [servePktIf, served, hx, hi, serveAt, hd, ht, hq, this]
/-- A lock packet that may move and answers to the step's description is taken, then what follows at once. -/
theorem serveLockIf_used {s u : State} {i : Nat} {p : LockPkt} {is : LockPkt → Bool} (h : LockAt s i p) (hi : is p = true)
    (hs : serveLockPkt { s with lockNet := s.lockNet.eraseIdx i } p = .used u) : serveLockIf s i is = .next u.settle.settleLocks := by
  obtain ⟨f, hx, rfl, hw, hk, hb⟩ := h
  simp only [serveLockIf, served, hx, hi, State.serveLockAt, hk, hb, hs]
  rcases hw with h | ⟨h1, h2, h3⟩
  · simp [h]
  · by_cases hh : f.pkt.homeward <;> simp_all

end Sys2Proof.Machine
end

