-- ==== Sys2Proof/Laws/Frames.lean ====
section
/-! SUPPORT. Frames and the shared operations of every instruction: what retiring, waiting, tracing and a squash leave unchanged. -/
namespace Sys2Proof.Machine

/-! ### Frames -/

/-- A core has its own architectural state. -/
theorem SameCore.refl (f : Footprint) (c : Core) : SameCore f c c := by constructor <;> intros <;> simp_all
/-- A larger footprint allows as much. -/
theorem Frame.of_me {f : Footprint} {s t : State} (h : SameCore f s.me t.me) (hi : t.me.id = s.me.id) (hc : t.cores = s.cores)
    (hm : t.mem = s.mem) : Frame f s t := by
  refine ⟨h, hi, ?_, fun x _ => by rw [hm]⟩
  intro k hk
  have : t.core k = s.core k := by
    have h1 : ¬s.me.id = k := fun e => hk e.symm
    simp [State.core, hi, hc, h1]
  rw [this]; exact SameCore.refl _ _
/-- A step that changes no register and no memory. -/
theorem Frame.refl (f : Footprint) (s : State) : Frame f s s := Frame.of_me (SameCore.refl f _) rfl rfl rfl
/-- Frames of the same footprint follow one another where the first names nothing. -/
theorem SameCore.trans {f : Footprint} {c d e : Core} (h : SameCore {} c d) (h' : SameCore f d e) : SameCore f c e where
  g r hr := (h'.g r hr).trans (h.g r (by simp))
  t r hr := (h'.t r hr).trans (h.t r (by simp))
  a r hr := (h'.a r hr).trans (h.a r (by simp))
  w r hr := (h'.w r hr).trans (h.w r (by simp))
  h r hr := (h'.h r hr).trans (h.h r (by simp))
  m r hr := (h'.m r hr).trans (h.m r (by simp))
  flags hf := (h'.flags hf).trans (h.flags rfl)
  gen hf := (h'.gen hf).trans (h.gen rfl)
  brand hf := by
    have a := h'.brand hf; have b := h.brand rfl
    exact ⟨a.1.trans b.1, a.2.1.trans b.2.1, a.2.2.trans b.2.2⟩
  trap hf := by
    have a := h'.trap hf; have b := h.trap rfl
    exact ⟨a.1.trans b.1, a.2.1.trans b.2.1, a.2.2.1.trans b.2.2.1, a.2.2.2.1.trans b.2.2.2.1, a.2.2.2.2.trans b.2.2.2.2⟩
  sys hf := by
    have a := h'.sys hf; have b := h.sys rfl
    exact ⟨a.1.trans b.1, a.2.1.trans b.2.1, a.2.2.trans b.2.2⟩
  cwin := h'.cwin.trans h.cwin
  genNum := h'.genNum.trans h.genNum
  paddock := h'.paddock.trans h.paddock
/-- A frame that names nothing, before another. -/
theorem Frame.trans {f : Footprint} {s t u : State} (h : Frame {} s t) (h' : Frame f t u) : Frame f s u where
  me := h.me.trans h'.me
  id := h'.id.trans h.id
  others k hk := (h.others k hk).trans (h'.others k (by rw [h.id]; exact hk))
  mem x hx := (h'.mem x hx).trans (h.mem x (by intro r hr; simp at hr))

/-! ### Retiring and squashing -/

/-- Retirement keeps the architectural state but for the pc (R20). -/
theorem Core.retire_same (c : Core) : SameCore {} c c.retire := by constructor <;> intros <;> first | rfl | exact ⟨rfl, rfl, rfl⟩ | exact ⟨rfl, rfl, rfl, rfl, rfl⟩
/-- Retirement moves the pc to the address after the bundle (R20). -/
theorem State.retire_retired (s : State) : Retired s s.retire := ⟨rfl, rfl, rfl⟩
/-- Retirement changes no register and no memory. -/
theorem State.retire_frame (s : State) : Frame {} s s.retire := Frame.of_me s.me.retire_same rfl rfl rfl
/-- Retirement with an arrival changes no register and no memory. -/
theorem State.retireTo_frame (s : State) (a : Word) : Frame {} s (s.retireTo a) :=
  Frame.of_me (by constructor <;> intros <;> first | rfl | exact ⟨rfl, rfl, rfl⟩ | exact ⟨rfl, rfl, rfl, rfl, rfl⟩) rfl rfl rfl
/-- A jump arrives where it says. -/
theorem State.retireTo_arrives (s : State) (a : Word) : ArrivesAt a s (s.retireTo a) := ⟨rfl, rfl, rfl, rfl⟩
/-- A wait changes no register and no memory. -/
theorem State.hold_frame (s : State) : Frame {} s s.hold := Frame.of_me (by constructor <;> intros <;> first | rfl | exact ⟨rfl, rfl, rfl⟩ | exact ⟨rfl, rfl, rfl, rfl, rfl⟩) rfl rfl rfl
/-- A bundle that is held waits at its pc. -/
theorem State.hold_waits (s : State) : Waits s s.hold := ⟨rfl, rfl, rfl⟩
/-- An instruction with one destination register writes it, retires, and changes nothing else. -/
theorem retireWith_spec (s : State) (gd : GReg) (v : Word) :
    ∃ t, retireWith s gd v = .next t ∧ t.me.reg gd = held gd v ∧ Retired s t ∧ Frame { g := [gd] } s t := by
  refine ⟨_, rfl, ?_, ⟨?_, rfl, ?_⟩, Frame.of_me ?_ ?_ rfl rfl⟩
  · show (s.me.setReg gd v).retire.reg gd = held gd v
    rw [show (s.me.setReg gd v).retire.reg gd = (s.me.setReg gd v).reg gd from rfl, Core.reg_setReg_self, held]
  · by_cases h : gd = 0 <;> simp [State.setG, Core.setReg, State.retire, Core.retire, h]
  · by_cases h : gd = 0 <;> simp [State.setG, Core.setReg, State.retire, Core.retire, Core.squash, h]
  · constructor <;> intros
    · rename_i r hr
      show (s.me.setReg gd v).reg r = s.me.reg r
      rw [Core.reg_setReg, if_neg]; simp at hr; exact fun h => hr h.1
    all_goals by_cases h : gd = 0 <;> simp [State.setG, Core.setReg, State.retire, Core.retire, Core.squash, Core.brhits, h]
  · by_cases h : gd = 0 <;> simp [State.setG, Core.setReg, State.retire, Core.retire, Core.squash, h]

/-! ### Tracing (R420) -/

/-- Two cores that differ in the trace encoder alone. -/
def OnlyTrace (c d : Core) : Prop := d = { c with trc := d.trc }
theorem OnlyTrace.trans {c d e : Core} (h : OnlyTrace c d) (h' : OnlyTrace d e) : OnlyTrace c e := by
  unfold OnlyTrace at *; rw [h', h]
theorem Core.raw_only (c : Core) (bs : List Byte) : OnlyTrace c (c.raw bs) := by
  unfold Core.raw OnlyTrace; split <;> rfl
theorem Core.timed_only (c : Core) (n : Nat) (bs : List Byte) : OnlyTrace c (c.timed n bs) := by
  unfold Core.timed
  split
  · exact (c.raw_only _).trans (Core.raw_only _ bs)
  · exact c.raw_only bs
theorem Core.putOverflow_only (c : Core) (n : Nat) : OnlyTrace c (c.putOverflow n) := by
  unfold Core.putOverflow OnlyTrace
  by_cases h : (c.trc.dropped == 0 || 256 < c.trc.buf.length + (if c.trcBit 2 then 8 else 3)) = true
  · rw [if_pos h]
  · rw [if_neg h]
theorem Core.putPacket_only (c : Core) (n : Nat) (bs : List Byte) : OnlyTrace c (c.putPacket n bs) :=
  (c.putOverflow_only n).trans (Core.timed_only _ (n + 1) bs)
theorem Core.flushBranches_only (c : Core) (n : Nat) : OnlyTrace c (c.flushBranches n) := by
  unfold Core.flushBranches OnlyTrace; split <;> rfl
theorem Core.syncPacket_only (c : Core) (n : Nat) : OnlyTrace c (c.syncPacket n) := by
  unfold Core.syncPacket OnlyTrace; split <;> rfl
/-- A packet put into a core's encoder changes the encoder and the free-value counter alone. -/
theorem State.emit_spec (s : State) (k : Nat) (bs : List Byte) :
    ∃ d n, OnlyTrace (s.core k) d ∧ (s.emit k bs = s ∨ s.emit k bs = { s.setCore d with tick := n }) := by
  refine ⟨(((s.core k).flushBranches s.tick).syncPacket (s.tick + 1)).putPacket (s.tick + 3) bs, s.tick + 5,
    (((s.core k).flushBranches_only s.tick).trans (Core.syncPacket_only _ (s.tick + 1))).trans (Core.putPacket_only _ (s.tick + 3) bs), ?_⟩
  unfold State.emit
  dsimp only
  split
  · exact .inr rfl
  · exact .inl rfl
/-- A moving core that differs in its encoder alone put back. -/
theorem State.setCore_trace {s : State} {d : Core} (h : OnlyTrace s.me d) : s.setCore d = { s with me := { s.me with trc := d.trc } } := by
  have hi : d.id = s.me.id := by rw [show d = _ from h]
  rw [State.setCore, if_pos (by simp [hi]), show d = _ from h]
/-- The same, with the counter of free values moved. -/
theorem State.setCore_traced {s : State} {d : Core} (h : OnlyTrace s.me d) (m : Nat) :
    ∃ x n, { s.setCore d with tick := m } = { s with me := { s.me with trc := x }, tick := n } :=
  ⟨d.trc, m, by rw [State.setCore_trace h]⟩
/-- A packet of the moving core. -/
theorem State.emit_me (s : State) (bs : List Byte) :
    ∃ x n, s.emit s.me.id bs = { s with me := { s.me with trc := x }, tick := n } := by
  obtain ⟨d, n, hd, h⟩ := s.emit_spec s.me.id bs
  rw [State.core_me] at hd
  rcases h with h | h
  · exact ⟨s.me.trc, s.tick, h⟩
  · exact ⟨d.trc, n, by rw [h, State.setCore_trace hd]⟩
/-- A branch's outcome of the moving core. -/
theorem State.emitBranch_me (s : State) (taken : Bool) : ∃ x n, s.emitBranch s.me.id taken = { s with me := { s.me with trc := x }, tick := n } := by
  unfold State.emitBranch
  simp only [State.core_me]
  split
  · have h0 : OnlyTrace s.me (if s.me.trc.outcomes.isEmpty = true then s.me.syncPacket s.tick else s.me) := by
      split
      · exact Core.syncPacket_only _ _
      · rfl
    refine State.setCore_traced ?_ (s.tick + 3)
    generalize (if s.me.trc.outcomes.isEmpty = true then s.me.syncPacket s.tick else s.me) = d at h0 ⊢
    refine OnlyTrace.trans (d := { d with trc := { d.trc with outcomes := d.trc.outcomes ++ [taken] } }) (h0.trans rfl) ?_
    split
    · exact Core.flushBranches_only _ _
    · rfl
  · exact ⟨s.me.trc, s.tick, rfl⟩
/-- The packets of a trap, of the moving core. -/
theorem State.emitTrap_me (s : State) (t : Trap) : ∃ x n, s.emitTrap t = { s with me := { s.me with trc := x }, tick := n } := by
  have hr : ∃ x n, s.emitRetire s.me.id = { s with me := { s.me with trc := x }, tick := n } := by
    unfold State.emitRetire
    simp only [State.core_me]
    split
    · obtain ⟨x, n, h⟩ := s.emit_me (0x20 :: bytesOf (min s.me.trc.since 0xFFFFFFFF) 4)
      refine ⟨{ x with since := 0 }, n, ?_⟩
      rw [h]; simp [State.onCore, State.setCore, State.core]
    · exact ⟨s.me.trc, s.tick, rfl⟩
  obtain ⟨x, n, h⟩ := hr
  unfold State.emitTrap State.emitAddr
  rw [h]
  obtain ⟨x', n', h'⟩ := ({ s with me := { s.me with trc := x }, tick := n } : State).emit_me (0x60 :: bytesOf (t.ecause.toNat % 2 ^ 32) 4)
  dsimp only at h' ⊢
  rw [h']
  obtain ⟨y, m, h''⟩ := ({ s with me := { s.me with trc := x' }, tick := n' } : State).emit_me
    (BitVec.ofNat 8 (0x10 + 1) :: bytesOf (s.me.stvec.toNat % 2 ^ 48) 6)
  dsimp only at h''
  exact ⟨y, m, h''⟩

end Sys2Proof.Machine
end

