-- ==== Sys2Proof/Laws/Memory.lean ====
section
/-! SUPPORT. Memory: what a read after a write gives, and that every operation keeps the canonical form. -/
namespace Sys2Proof.Machine

/-- A canonical memory from a bound is one from any lower bound. -/
theorem Memory.wfFrom_mono {lo lo' : Nat} {m : Memory} (h : m.wfFrom lo = true) (hl : lo' ≤ lo) : m.wfFrom lo' = true := by
  cases m with
  | nil => rfl
  | cons c m =>
    obtain ⟨a, b⟩ := c
    simp only [Memory.wfFrom, Bool.and_eq_true, decide_eq_true_eq] at h ⊢
    exact ⟨⟨by omega, h.1.2⟩, h.2⟩
/-- Below the bound nothing is listed. -/
theorem Memory.read_below {lo x : Nat} {m : Memory} (h : m.wfFrom lo = true) (hx : x < lo) : m.read x = 0 := by
  induction m generalizing lo with
  | nil => rfl
  | cons c m ih =>
    obtain ⟨a, b⟩ := c
    simp only [Memory.wfFrom, Bool.and_eq_true, decide_eq_true_eq] at h
    have : ¬x = a := by omega
    have : x < a := by omega
    simp_all [Memory.read]
/-- A write keeps the canonical form. -/
theorem Memory.write_wfFrom {lo x : Nat} {m : Memory} {v : Byte} (h : m.wfFrom lo = true) (hx : lo ≤ x) :
    (m.write x v).wfFrom lo = true := by
  induction m generalizing lo with
  | nil => unfold Memory.write; split <;> simp_all [Memory.wfFrom]
  | cons c m ih =>
    obtain ⟨a, b⟩ := c
    have h0 := h
    simp only [Memory.wfFrom, Bool.and_eq_true, decide_eq_true_eq] at h
    unfold Memory.write
    split
    · split
      · exact h0
      · simp_all [Memory.wfFrom] <;> omega
    · split
      · have hxa : x = a := by simpa using ‹(x == a) = true›
        split
        · exact Memory.wfFrom_mono h.2 (by omega)
        · simp_all [Memory.wfFrom]
      · rename_i h1 h2
        have hxa : x ≠ a := by simpa using h2
        simp only [Memory.wfFrom, Bool.and_eq_true, decide_eq_true_eq]
        exact ⟨h.1, ih h.2 (by omega)⟩
/-- A write keeps the canonical form. -/
theorem Memory.write_wf {m : Memory} (h : m.wf = true) (x : Nat) (v : Byte) : (m.write x v).wf = true :=
  Memory.write_wfFrom h (Nat.zero_le x)
/-- A read after a write gives the value at its address, and elsewhere what stood there. -/
theorem Memory.read_writeFrom {lo x y : Nat} {m : Memory} {v : Byte} (h : m.wfFrom lo = true) :
    (m.write x v).read y = if y = x then v else m.read y := by
  induction m generalizing lo with
  | nil =>
    by_cases hv : v = 0#8 <;> by_cases hy : y = x <;> simp [Memory.write, Memory.read, hv, hy]
  | cons c m ih =>
    obtain ⟨a, b⟩ := c
    simp only [Memory.wfFrom, Bool.and_eq_true, decide_eq_true_eq] at h
    have hb := Memory.read_below (x := y) h.2
    unfold Memory.write
    rcases Nat.lt_trichotomy x a with hxa | hxa | hxa
    · by_cases hv : v = 0#8 <;> by_cases hy : y = x
      · subst hy; simp [Memory.read, hv, hxa]; omega
      · simp [Memory.read, hv, hxa, hy]
      · subst hy; simp [Memory.read, hv, hxa]
      · simp only [hxa, if_true, show (v == 0) = false from by simpa using hv, Memory.read, beq_iff_eq, hy, if_false]
        by_cases hyx : y < x
        · have h1 : ¬y = a := by omega
          have h2 : y < a := by omega
          simp [hyx, h1, h2, Memory.read, hy]
        · simp [hyx, Memory.read, hy]
    · subst hxa
      by_cases hv : v = 0#8 <;> by_cases hy : y = x
      · subst hy; simp [hv]; exact hb (by omega)
      · simp [Memory.read, hv, hy]; intro hyx; exact hb (by omega)
      · subst hy; simp [Memory.read, hv]
      · simp [Memory.read, hv, hy]
    · have h1 : ¬x < a := by omega
      have h2 : ¬x = a := by omega
      simp only [h1, if_false, beq_iff_eq, h2, Memory.read, ih h.2]
      by_cases hya : y = a
      · have : ¬y = x := by omega
        simp [hya]; omega
      · by_cases hyl : y < a
        · have : ¬y = x := by omega
          simp [hya, hyl, this]
        · simp [hya, hyl]
/-- A read after a write. -/
theorem Memory.read_write {m : Memory} (h : m.wf = true) (x y : Nat) (v : Byte) :
    (m.write x v).read y = if y = x then v else m.read y := Memory.read_writeFrom h
/-- A write of several bytes keeps the canonical form. -/
theorem Memory.writeN_wf {m : Memory} (h : m.wf = true) (a v n : Nat) : (m.writeN a v n).wf = true := by
  induction n generalizing m a v with
  | zero => exact h
  | succ n ih => exact ih (Memory.write_wf h _ _) _ _
/-- What a write of n bytes leaves at an address: its own byte inside the range, what stood there outside. -/
theorem Memory.read_writeN {m : Memory} (h : m.wf = true) (a v n x : Nat) :
    (m.writeN a v n).read x = if a ≤ x ∧ x < a + n then BitVec.ofNat 8 (v / 256 ^ (x - a)) else m.read x := by
  induction n generalizing m a v with
  | zero => simp [Memory.writeN] <;> omega
  | succ n ih =>
    rw [Memory.writeN, ih (Memory.write_wf h _ _), Memory.read_write h]
    by_cases hx : x = a
    · subst hx; simp <;> omega
    · by_cases hr : a + 1 ≤ x ∧ x < a + 1 + n
      · have : a ≤ x ∧ x < a + (n + 1) := by omega
        rw [if_pos hr, if_pos this, Nat.div_div_eq_div_mul]
        congr 2
        rw [← Nat.pow_succ']; congr 1; omega
      · have : ¬(a ≤ x ∧ x < a + (n + 1)) := by omega
        rw [if_neg hr, if_neg hx, if_neg this]
/-- A part of a canonical memory is canonical. -/
theorem Memory.filter_wfFrom {lo : Nat} {m : Memory} (h : m.wfFrom lo = true) (p : Host.Cell → Bool) :
    Memory.wfFrom lo (m.filter p) = true := by
  induction m generalizing lo with
  | nil => rfl
  | cons c m ih =>
    obtain ⟨a, b⟩ := c
    simp only [Memory.wfFrom, Bool.and_eq_true, decide_eq_true_eq] at h
    simp only [List.filter_cons]
    split
    · simp only [Memory.wfFrom, Bool.and_eq_true, decide_eq_true_eq]
      exact ⟨h.1, ih h.2⟩
    · exact Memory.wfFrom_mono (ih h.2) (by omega)
/-- A part of a canonical memory is canonical. -/
theorem Memory.filter_wf {m : Memory} (h : m.wf = true) (p : Host.Cell → Bool) : Memory.wf (m.filter p) = true :=
  Memory.filter_wfFrom h p
/-- n bytes read as a number are below 256 to the n. -/
theorem Memory.readN_lt (m : Memory) (a n : Nat) : m.readN a n < 256 ^ n := by
  induction n generalizing a with
  | zero => simp [Memory.readN]
  | succ n ih =>
    have h1 := ih (a + 1)
    have h2 : (m.read a).toNat < 256 := (m.read a).isLt
    rw [Memory.readN, Nat.pow_succ']
    omega

/-- Above every listed address memory reads zero. -/
theorem Memory.read_above (m : Memory) (x : Nat) (h : m.all (fun c => decide (c.1 < x)) = true) : m.read x = 0 := by
  induction m with
  | nil => rfl
  | cons c m ih =>
    simp only [List.all_cons, Bool.and_eq_true, decide_eq_true_eq] at h
    have h1 : ¬(x = c.1) := by omega
    have h2 : ¬(x < c.1) := by omega
    simp [Memory.read, h1, h2, ih h.2]
/-- The bytes above every listed address are zero together. -/
theorem Memory.readN_above (m : Memory) (n : Nat) : ∀ x, m.all (fun c => decide (c.1 < x)) = true → m.readN x n = 0 := by
  induction n with
  | zero => intro _ _; rfl
  | succ n ih =>
    intro x h
    have h' : m.all (fun c => decide (c.1 < x + 1)) = true := by
      simp only [List.all_eq_true, decide_eq_true_eq] at h ⊢
      intro c hc
      have := h c hc
      omega
    simp [Memory.readN, m.read_above x h, ih (x + 1) h']
/-- A range read in two parts. -/
theorem Memory.readN_add (m : Memory) (j n : Nat) : ∀ a, m.readN a (j + n) = m.readN a j + 256 ^ j * m.readN (a + j) n := by
  induction j with
  | zero => intro a; simp [Memory.readN]
  | succ j ih =>
    intro a
    rw [Nat.succ_add]
    simp only [Memory.readN]
    rw [ih (a + 1), Nat.mul_add, Nat.add_assoc, Nat.add_comm 1 j, Nat.pow_succ', Nat.mul_assoc]
    omega
end Sys2Proof.Machine
end

