-- ==== Sys2Proof/Tests/Slice0.lean ====
section
/-! SUPPORT. The author's own tests: an ill-formed term for each check, words written out from the spec's encodings, small steps whose
results are the spec's, and, for the statements, states that meet their hypotheses. -/
set_option Elab.async false
open Sys2Proof Sys2Proof.Machine
namespace Sys2Proof.Tests

/-! ### Well-formedness: each check refuses a term -/

theorem test_wf_order_scopes : (Instr.amoaddW 1 2 3 .rlx .sys).wf = false ∧ (Instr.ldwOrd 1 2 .rlx .dev).wf = false ∧
    (Instr.stdOrd 1 2 .rlx .die).wf = false ∧ (Instr.redaddW 1 2 .rlx .dev).wf = false := by decide
theorem test_wf_order_kinds : (Instr.lddOrd 1 2 .rel .dev).wf = false ∧ (Instr.lddOrd 1 2 .ar .dev).wf = false ∧
    (Instr.stdOrd 1 2 .acq .dev).wf = false ∧ (Instr.redmaxD 1 2 .ar .dev).wf = false := by decide
theorem test_wf_wide_scopes : (Instr.relb 1 2 .die).wf = false ∧ (Instr.acqb 1 2 .core).wf = false ∧
    (Instr.sendb 1 2 0 .die).wf = false ∧ (Instr.tkaddb 1 2 3 .core).wf = false := by decide
theorem test_wf_fence_set : (Instr.fence { l := false, s := false, e := false } .sys).wf = false := by decide
theorem test_wf_two_destinations : (Instr.recvany 4 5 4).wf = false ∧ (Instr.peek 4 4 0).wf = false ∧ (Instr.recvany 0 5 0).wf = true := by decide
theorem test_wf_weight_formats : (Instr.wld 0 .fp32 1 0 false).wf = false ∧ (Instr.wld 0 .int32 1 0 false).wf = false ∧
    (Instr.wld 0 .int8 1 2 false).wf = false ∧ (Instr.wld 0 .q4 1 2 false).wf = true := by decide
theorem test_wf_groups : (Instr.bar 5 0 0).wf = false ∧ (Instr.recvt 1 2 5 0).wf = false ∧ (Instr.mredAddI64 1 7 0 0).wf = false ∧
    (Instr.mredMaxF32 1 5 0 0).wf = false ∧ (Instr.bar 4 3 0).wf = true := by decide
theorem test_wf_numbers : (Instr.sysrd 1 0x004).wf = false ∧ (Instr.syswr 1 0x023).wf = false ∧ (Instr.perfrd 1 15).wf = false ∧
    (Instr.sysrd 1 0x022).wf = true := by decide
theorem test_wf_widths : (Instr.bfxz 1 2 0 65).wf = false ∧ (Instr.bfxs 1 2 0 127).wf = false ∧ (Instr.bfins 1 2 0 65).wf = false ∧
    (Instr.bfins 1 2 63 64).wf = true := by decide
theorem test_wf_tiles : (Instr.trnd 0 1 0 .bits false .sr).wf = false ∧ (Instr.trnd 0 1 4 .unit false .rne).wf = false ∧
    (Instr.drain 0 1 0 0 2 false false .rne).wf = false ∧ (Instr.drain 0 1 0 0 2 true false .rne).wf = true := by decide

/-! ### Decoding: words written out from the encodings of the spec (02 R38 to R51 and the sections' examples) -/

/-- What the decoder reads from a 32-bit word with every feature present. -/
def dec (w : Nat) : Option Instr := match decodeWord (fun _ => true) w with | .ok i => some i | .error _ => none
/-- The words of the spec are read as the spec reads them, one family after the other. -/
theorem test_decode_words : specWords.all (fun p => dec p.1 == some p.2) = true := by decide +kernel
/-- Majors JAL, JALR and J from R43 and R49: `jal g31, +2`, `jalr g0, g31, 0`, `j -1`. -/
theorem test_decode_jumps : dec 0x07F00002 = some (.jal 31 2) ∧ dec 0x080F8000 = some (.jalr 0 31 0) ∧ dec 0x05FFFFFF = some (.j 0x1FFFFFF) := by
  decide +kernel
/-- The pair of 02 "Encoding worked through". -/
theorem test_decode_pair : dec (0x8A534010 % 2 ^ 31) = some (.ldw 5 6 16) ∧ (0x8A534010#32).getLsbD 31 = true ∧ dec 0x4072A000 = some (.add 7 5 8) := by
  decide +kernel
/-- The all-zero word is unassigned (R49), an absent engine's instruction is FEATURE-ABSENT (R52), and a reserved field is RESERVED (R44). -/
theorem test_decode_refusals : decodeWord (fun _ => true) 0 = .error .unassigned ∧
    decodeWord (fun f => f != .matrix) 0x50089000 = .error .featureAbsent ∧ decodeWord (fun _ => true) 0x4072A020 = .error .reserved :=
  ⟨rfl, rfl, rfl⟩

/-! ### Small states -/

/-- A page of local HBM that the program may read and write. -/
def dataPage : Xlat :=
  { asid := 1, va := 0x20000, size := 4096, pa := 0x20000, r := true, w := true, x := false, u := true, dx := false, host := false }
/-- Core 0 running a stream at 0x1_0000 with some registers set, its packets served by steps of their own. -/
def on (gs : List (GReg × Word)) (f : Core → Core) : State :=
  ({ State.reset with lazy := true } : State).loaded.onMe fun c =>
    f (gs.foldl (fun c p => c.setReg p.1 p.2) { c with ctc := [dataPage, programPage] })
/-- What a step leaves, or the state itself. -/
def after (i : Instr) (s : State) : State := match exec i s with | .next t => t | _ => s
/-- The instruction answers a next state. -/
def goes (i : Instr) (s : State) : Bool := match exec i s with | .next _ => true | _ => false
/-- A general register after an instruction. -/
def out (i : Instr) (gs : List (GReg × Word)) (r : GReg) : Word := (after i (on gs id)).me.reg r
/-- The cause, kind and row of the trap that an instruction has taken. -/
def trapOf (s : State) : Nat × Nat × Bool := (s.me.ecause.toNat / 2 ^ 24, s.me.ecause.toNat / 2 ^ 16 % 256, s.me.inTrap)
theorem goes_next {i : Instr} {s : State} (h : goes i s = true) : exec i s = .next (after i s) := by
  unfold goes at h
  unfold after
  split at h <;> simp_all

/-! ### Scalar instructions -/

/-- R139: 7 by -2, both truncated toward zero, and by zero. -/
theorem test_div : out (.div 3 1 2) [(1, -7), (2, 2)] 3 = -3 ∧ out (.rem 3 1 2) [(1, -7), (2, 2)] 3 = -1 ∧
    out (.divu 3 1 2) [(1, 7)] 3 = -1 ∧ out (.rem 3 1 2) [(1, 7)] 3 = 7 ∧ out (.div 3 1 2) [(1, 0x8000000000000000), (2, -1)] 3 = 0x8000000000000000 := by
  decide +kernel
/-- R35: a write of g0 is ignored. -/
theorem test_g0 : out (.addi 0 0 5) [] 0 = 0 ∧ out (.addi 3 0 0xFFF) [] 3 = -1 ∧ out (.ori 3 0 0xFFF) [] 3 = 0xFFF := by decide +kernel
theorem test_mulh : out (.mulh 3 1 2) [(1, -1), (2, -1)] 3 = 0 ∧ out (.mulhu 3 1 2) [(1, -1), (2, -1)] 3 = -2 := by decide +kernel
/-- 02 "li": lhi and addi leave exactly v. -/
theorem test_li : out (.addi 9 9 0xFFF) [(9, (after (.lhi 9 0x12346) (on [] id)).me.reg 9)] 9 = 0x12345FFF := by decide +kernel
/-- The table of R142, with g6 = 0x9000_0000_0000_0000. -/
theorem test_bit_fields : out (.bfxz 5 6 60 8) [(6, 0x9000000000000000)] 5 = 9 ∧ out (.bfxs 5 6 60 8) [(6, 0x9000000000000000)] 5 = -7 ∧
    out (.bfxs 5 6 0 0) [(6, -1)] 5 = 0 := by decide +kernel
theorem test_shift_counts : out (.sll 3 1 2) [(1, 1), (2, 65)] 3 = 2 ∧ out (.srai 3 1 63) [(1, 0x8000000000000000)] 3 = -1 ∧
    out (.clz 3 1) [] 3 = 64 ∧ out (.ctz 3 1) [(1, 8)] 3 = 3 ∧ out (.popc 3 1) [(1, 0xF0F)] 3 = 8 := by decide +kernel
/-- R143: 1.5 + 2.25 × 2 = 6 exactly; 1 / 3 × 3 by hand would round; FCVTFI saturates (R64). -/
theorem test_floats : out (.ffma 5 6 7 8 .rne) [(6, 0x40100000), (7, 0x40000000), (8, 0x3FC00000)] 5 = 0x40C00000 ∧
    out (.fcvtfi 5 6 .rtz) [(6, 0x7F800000)] 5 = 0x7FFFFFFF ∧ out (.fcvtif 5 6 .rne) [(6, -1)] 5 = 0xBF800000 ∧
    out (.fcmp 5 6 7 .un) [(6, 0x7FC00000)] 5 = 1 := by decide +kernel
/-- R138 and R139 at operands; the statements about integer and division instructions say so for all. -/
theorem test_meets_integer : integerResult (on [(1, 5), (2, 7)] id).me (.sub 3 1 2) = some (3, -2) ∧ (on [] id).me.reg 2 = 0 ∧
    (on [(1, 0x8000000000000000), (2, BitVec.allOnes 64)] id).me.reg 1 = 0x8000000000000000 ∧
    (on [(1, 0x8000000000000000), (2, BitVec.allOnes 64)] id).me.reg 2 = BitVec.allOnes 64 ∧
    (floatResult (on [(1, 0x3F800000)] id).me (.fadd 3 1 2 .sr)).isSome = true := by decide +kernel
theorem test_meets_encoding : (Instr.add 7 5 8).wf = true ∧ encode (.add 7 5 8) = some 0x4072A000 ∧
    decodeWord (fun _ => true) 0x4072A000 = .ok (.add 7 5 8) := ⟨rfl, rfl, rfl⟩
theorem test_meets_illegal : decodeMajor 0 = none ∧ decodeMajor 0x50089000 = some (some (.mma 0 1 2 1)) ∧
    .matrix ∈ wordFeatures 0x50089000 ∧ decodeMajor 0x4072A020 = some none ∧ wordFeatures 0x4072A020 = [] := by decide +kernel
theorem test_meets_formats : fmtFloat .bf16 = true ∧ (floatExact .bf16 0x3F80).isNaN = false ∧ (floatExact .bf16 0x3F80).isInf = false ∧
    (floatExact .bf16 0x7FC1).isNaN = true := by decide +kernel

/-! ### Tiles and matrix instructions -/

/-- A tile of one row of four INT8 elements. -/
def row4 (v : Nat) : Tile := { data := BitVec.ofNat _ v, band := 0, desc := { fmt := .int8, rows := 1, rb := 4 } }
/-- A core with two such tiles in t1 and t2, and an FP32 tile of one element in t4. -/
def tiles (a b : Nat) (c : Core) : Core :=
  { c with t := ((c.t.set 1 (row4 a)).set 2 (row4 b)).set 4 { data := 0x40000000, band := 0, desc := { fmt := .fp32, rows := 1, rb := 4 } } }
/-- R77: 100 + 100 saturates at 127, or wraps to -56; R123. -/
theorem test_tadd : ((after (.tadd 3 1 2 true .rne) (on [] (tiles 100 100))).me.t[(3 : TReg)]).data = 127 ∧
    ((after (.tadd 3 1 2 false .rne) (on [] (tiles 100 100))).me.t[(3 : TReg)]).data = 0xC8 := by decide +kernel
/-- R104: operands of two formats take the tile-operand fault, kind MIX. -/
theorem test_tile_fault : trapOf (after (.tadd 3 1 4 true .rne) (on [] (tiles 1 2))) = (9, 3, true) := by decide +kernel
/-- R131: the row sum of 1, 2, 3 and 4 stands in column 0. -/
theorem test_tred : (after (.tred 3 1 .add false true .rne) (on [] (tiles 0x04030201 0))).me.t[(3 : TReg)].data = 10 := by decide +kernel
/-- R129: the INT8 elements 1 and -1 as FP32. -/
theorem test_tcvt : (after (.tcvt 3 1 0 .fp32 false .rne) (on [] (tiles 0xFF01 0))).me.t[(3 : TReg)].data = 0xBF8000003F800000 := by
  decide +kernel
theorem test_tmovs : (after (.tmovs 1 5 6 .h) (on [(5, 0xABCD), (6, 3)] (tiles 0 0))).me.t[(1 : TReg)].data = 0xABCD0000 := by decide +kernel
theorem test_tshape : (after (.tshapeRead 1 5) (on [] (tiles 0 0))).me.reg 5 = 0x50401 := by decide +kernel
/-- One row of A with elements 1 and 2 against a slot whose first column is all ones. -/
def weights (c : Core) : Core :=
  { tiles 0x0201 0 c with t := (tiles 0x0201 0 c).t.set 1 { row4 0x0201 with desc := { fmt := .int8, rows := 1, rb := 64 } },
                          w := c.w.set 2 { data := BitVec.allOnes 32768, band := 0, fmt := .int8 } }
/-- R114: with every weight -1, the sum of row 0 is -3. -/
theorem test_mmaz : (after (.mmaz 0 1 2 0) (on [] weights)).me.a[(0 : AReg)].elem 0 0 = 0xFFFFFFFD := by decide +kernel
/-- R115: the accumulator's element, drained to INT8. -/
theorem test_drain : ((after (.drain 0 3 0 0 1 true true .rne) (after (.mmaz 0 1 2 0) (on [] weights))).me.t[(3 : TReg)]).pattern 1 0 0 = 0xFD := by
  decide +kernel
theorem okOf {β ε α : Type} {r : Option (β × Except ε α)} (h : (match r with | some (_, .ok _) => true | _ => false) = true) :
    ∃ b x, r = some (b, .ok x) := by
  rcases r with _ | ⟨b, _ | x⟩ <;> simp_all
theorem errorOf {β ε α : Type} {r : Option (β × Except ε α)} (h : (match r with | some (_, .error _) => true | _ => false) = true) :
    ∃ b k, r = some (b, .error k) := by
  rcases r with _ | ⟨b, k | _⟩ <;> simp_all
theorem exceptOk {ε α : Type} {r : Except ε α} (h : (match r with | .ok _ => true | .error _ => false) = true) : ∃ x, r = .ok x := by
  cases r <;> simp_all
theorem exceptError {ε α : Type} {r : Except ε α} (h : (match r with | .ok _ => false | .error _ => true) = true) : ∃ k, r = .error k := by
  cases r <;> simp_all
theorem test_meets_tiles : (∃ b x, tileOutcome (on [] (tiles 1 2)).me (.tadd 3 1 2 true .rne) = some (b, .ok x)) ∧
    (∃ b k, tileOutcome (on [] (tiles 1 2)).me (.tadd 3 1 4 true .rne) = some (b, .error k)) ∧ (on [] (tiles 1 2)).me.inTrap = false :=
  ⟨okOf (by decide +kernel), errorOf (by decide +kernel), by decide +kernel⟩
theorem test_meets_chosen : (∃ b x, tileChosen true (on [] (tiles 1 2)).me (.tmax 3 1 2) = some (b, .ok x)) ∧
    (∃ b k, tileChosen true (on [] (tiles 1 2)).me (.tmax 3 1 4) = some (b, .error k)) ∧ (on [] (tiles 1 2)).present 0 .q4blk = true :=
  ⟨okOf (by decide +kernel), errorOf (by decide +kernel), by decide +kernel⟩
theorem test_meets_elementwise : (row4 1).desc.valid = true ∧ check2 fmtNumeric (row4 1) (row4 2) = none ∧ Rnd.rne ≠ .sr := by decide +kernel
theorem test_meets_matrix : (∃ b x, matrixOutcome (on [] weights).me (.mmaz 0 1 2 0) = some (b, .ok x)) ∧
    (∃ b k, matrixOutcome (on [] weights).me (.mmaz 0 4 2 0) = some (b, .error k)) :=
  ⟨okOf (by decide +kernel), errorOf (by decide +kernel)⟩
theorem test_meets_drain (scale : Ex) : (∃ x, drainTile freshAcc (row4 0) scale 0 true .rne { lo := 1, hi := 0 } = .ok x) ∧
    (∃ k, drainTile freshAcc (row4 0) scale 1 true .rne { lo := 1, hi := 0 } = .error k) := ⟨⟨_, rfl⟩, ⟨_, rfl⟩⟩
theorem test_meets_slot : (∃ x, slotOfTile freshTile = .ok x) ∧ (∃ k, slotOfTile (row4 0) = .error k) :=
  ⟨exceptOk (by decide +kernel), exceptError (by decide +kernel)⟩

/-! ### Control, traps and system registers -/

/-- R144: a branch that is taken from 0x1_0000 by five words, with a lone word in the line before it. -/
theorem test_beq : (after (.beq 1 2 5) (on [] id)).me.pc = 0x10014 ∧ (after (.bne 1 2 5) (on [] fun c => { c with npc := 0x10004 })).me.pc = 0x10004 := by
  decide +kernel
/-- R145: jal links the address after the bundle. -/
theorem test_jal : (after (.jal 31 2) (on [] fun c => { c with npc := 0x10004 })).me.reg 31 = 0x10004 ∧
    (after (.jalr 0 31 0) (on [(31, 0x10008)] id)).me.pc = 0x10008 := by decide +kernel
/-- R41: a target that is not a multiple of 4 is MISALIGNED-TARGET, with EVA at it. -/
theorem test_misaligned_target : trapOf (after (.jalr 0 31 0) (on [(31, 0x1000A)] id)) = (3, 0, true) ∧
    (after (.jalr 0 31 0) (on [(31, 0x1000A)] id)).me.eva = 0x1000A := by decide +kernel
/-- R351: TRAP's EPC is the next bundle, its code in ECAUSE. -/
theorem test_trap : (after (.trap 0x155) (on [] fun c => { c with npc := 0x10004 })).me.epc = 0x10004 ∧
    (after (.trap 0x155) (on [] id)).me.ecause = 0x05000155 := by decide +kernel
/-- R352: TRET returns to EPC at PLV. -/
theorem test_tret : (after .tret (on [] fun c => { c with status := 0b10001, epc := 0x10020 })).me.pc = 0x10020 ∧
    (after .tret (on [] fun c => { c with status := 0b10001, epc := 0x10020 })).me.level = 0 := by decide +kernel
/-- R346: a privileged instruction at user level. -/
theorem test_privilege : trapOf (after .tret (on [] id)) = (4, 1, true) ∧ trapOf (after (.sysrd 5 0x010) (on [] id)) = (4, 1, true) := by
  decide +kernel
/-- R349: VSTAT is written and read back; MYCORE reads the core number. -/
theorem test_sysregs : (after (.syswr 5 0) (on [(5, 0x3F)] id)).me.vstat = 0x1F ∧ trapOf (after (.sysrd 5 0x3FF) (on [] id)) = (1, 3, true) := by
  decide +kernel
theorem test_perfrd : (after (.perfrd 7 1) (on [] fun c => { c with nBundles := 41 })).me.reg 7 = 41 ∧
    trapOf (after (.perfrd 7 15) (on [] id)) = (1, 3, true) := by decide +kernel

/-- An answer with a value, and what holds of it. -/
theorem ansOk {α : Type} {x : Ans α} {P : State → α → Prop} [∀ s v, Decidable (P s v)]
    (h : (match x with | .ok s v => decide (P s v) | _ => false) = true) : ∃ s v, x = .ok s v ∧ P s v := by
  cases x with
  | ok s v => exact ⟨s, v, rfl, of_decide_eq_true h⟩
  | wait => simp at h
  | trap => simp at h
theorem test_meets_fetch : (on [] id).me.level ≠ 3 ∧ ((0x10000 : Word).setWidth 48).signExtend 64 = 0x10000 ∧ inWindow (on [] id) 0x10000 = false ∧
    (on [] id).me.ctc.find? (·.holds (on [] id).me.asid ((0x10000 : Word).toNat % 2 ^ 48)) = some programPage ∧
    programPage.permits .exec ((on [] id).me.level == 0) = true ∧
    physCheck ((on [] id).onMe (·.fillCtc programPage)) (programPage.pa + (0x10000 : Word).toNat % programPage.size) 0 = none ∧
    (on [] id).me.code.find? (·.1 == programPage.pa + (0x10000 : Word).toNat % programPage.size) = none ∧
    (on [] id).badWords = [] ∧ (on [] id).lineCut ((programPage.pa + (0x10000 : Word).toNat % programPage.size) / 128) = false := by decide +kernel
/-- A state with some words stored at the pc. -/
def coded (ws : Nat) (f : Core → Core) : State := { on [] f with mem := Memory.writeN [] 0x10000 ws 16 }
theorem test_meets_bundles :
    (∃ s' w, (coded 0x4072A000 id).codeWord (coded 0x4072A000 id).me.pc = .ok s' w ∧
      ((coded 0x4072A000 id).me.arrived = false ∧ w.getLsbD 31 = false ∧ w.toNat = 0x4072A000 ∧ s'.present s'.me.id .matrix = true)) ∧
    (∃ s' w, (coded 0xC072A00000000000 fun c => { c with pc := 0x10004 }).codeWord 0x10004 = .ok s' w ∧
      (w.getLsbD 31 = true ∧ s'.me.pc.getLsbD 2 = true)) := ⟨ansOk (by decide +kernel), ansOk (by decide +kernel)⟩
/-- R41: an arrival at a misaligned address, at the second word of a pair, and at a word that is none. -/
theorem test_meets_arrivals : (coded 0 fun c => { c with arrived := true, pc := 0x10002 }).me.pc.extractLsb' 0 2 ≠ 0 ∧
    (let s := coded 0x4072A0008A534010 fun c => { c with arrived := true, pc := 0x10004 }
     s.me.pc.extractLsb' 0 2 = 0 ∧ s.me.pc.getLsbD 2 = true ∧ ∃ s' w, s.codeWord (s.me.pc - 4) = .ok s' w ∧ w.getLsbD 31 = true) ∧
    (let s := coded 0x4072A000 fun c => { c with arrived := true }
     s.me.pc.extractLsb' 0 2 = 0 ∧ ∃ s₀ b, secondWord s s.me.pc = .ok s₀ b ∧ b = false) :=
  ⟨by decide +kernel, ⟨by decide +kernel, by decide +kernel, ansOk (by decide +kernel)⟩, by decide +kernel, ansOk (by decide +kernel)⟩
theorem test_meets_pair_checks : (∃ i, legalWord (on [] id) 0x0A534010 = .ok i) ∧ (∃ j, legalWord (on [] id) 0x4072A000 = .ok j) ∧
    (0x8A534010#32).getLsbD 30 = false ∧ (0x4072A000#32).getLsbD 31 = false ∧ (0x4072A000#32).getLsbD 30 = true :=
  ⟨exceptOk (by decide +kernel), exceptOk (by decide +kernel), by decide +kernel, by decide +kernel, by decide +kernel⟩
theorem test_meets_step : ∃ s' b, fetchBundle (coded 0x4072A000 id) = .ok s' b ∧
    (b = (.add 7 5 8, none) ∧ (coded 0x4072A000 id).agenda = [] ∧ (coded 0x4072A000 id).me.run = .running ∧
      (coded 0x4072A000 id).me.res ≠ .waiting ∧ boundary (coded 0x4072A000 id) = none ∧ (coded 0x4072A000 id).me.dbg.haltreq = false ∧
      (coded 0x4072A000 id).me.bundle = none ∧ (coded 0x4072A000 id).me.behind = false ∧
      s'.me.poison = [] ∧ goes b.1 { s' with me := { s'.me with npc := s'.me.pc + 4 } } = true) := ansOk (by decide +kernel)
/-- A step of a placed instruction runs it: R20, R138. -/
theorem test_step : (match step ((on [(5, 3), (8, 4)] id).withFetchWord 32 0x4072A000) with | .next t => t.me.reg 7 | _ => 0) = 7 := by
  decide +kernel
/-- The X-part of `ldw g5, 0(g6) || add g7, g5, g8` reads the old g5 (R40). -/
theorem test_pair : (match runPair exec (.ldw 5 6 0) (.add 7 5 8) none (on [(5, 3), (8, 4), (6, 0x7FF000000000)] id) with
    | .next t => (t.me.reg 5, t.me.reg 7) | _ => (9, 9)) = (0, 7) := by decide +kernel
/-- Both parts retire; the C-part traps; the X-part traps. -/
theorem test_meets_pairs :
    (after (.ldw 5 6 0) (on [(6, 0x7FF000000000)] id)).me.res = .retired ∧ (after (.ldw 5 6 0) (on [(6, 0x7FF000000000)] id)).me.run ≠ .idle ∧
    (after (.add 7 5 8) (on [] id)).me.res = .retired ∧ (after (.ldw 5 6 0) (on [(6, 0x7FF000000001)] id)).me.res = .trapped ∧
    (after (.tadd 3 1 4 true .rne) (on [] (tiles 1 2))).me.res = .trapped := by decide +kernel
theorem test_meets_agenda : State.reset.agenda = [] ∧ State.reset.mem.wf = true ∧ (match step State.reset with | .next t => t.mem.wf | _ => false) = true := by
  decide +kernel
theorem test_meets_branches :
    (∃ s' b, secondWord (on [] id) 0x10014 = .ok s' b ∧ b = false) ∧
    (∃ s' b, secondWord (coded 0x4072A0008A534010 id) 0x10004 = .ok s' b ∧ (b = true ∧ s'.me.inTrap = false)) ∧
    (branchForm (on [] id).me (.beq 1 2 5)).isSome = true ∧ jumpForm (on [(31, 0x1000A)] id).me (.jalr 0 31 0) = some (0x1000A, some 0) ∧
    (0x1000A : Word).extractLsb' 0 2 ≠ 0 := ⟨ansOk (by decide +kernel), ansOk (by decide +kernel), rfl, by decide +kernel, by decide +kernel⟩
theorem test_meets_system : sysRead (on [] id).me 0 = some 0 ∧ sysRead (on [] id).me 0x3FF = none ∧ (on [] id).me.inTrap = false ∧
    (on [] fun c => { c with status := 0b00001 }).me.level ≠ 0 ∧ (on [] id).me.run = .running ∧
    (on [] fun c => { c with status := 0b10000 }).me.inTrap = true ∧ (on [] id).me.isYard = false ∧
    (on [] id).launchOfCore (on [] id).me.id = some programLaunch := by decide +kernel
theorem test_meets_privileged : Privileged .tret ∧ Privileged (.sysrd 5 0x010) ∧ (on [] id).me.level = 0 := by
  refine ⟨trivial, ⟨?_, ?_⟩, ?_⟩ <;> decide +kernel
/-- R348: a second trap inside a trap kills the launch. -/
theorem test_double_trap : ((after .tkdone (on [] fun c => { c with status := 0b10000 })).launchOf 1).all (·.st == .killed) = true := by decide +kernel
/-- A core whose halt image has a place, so that BRK may halt it (R411, R416). -/
def debugged (c : Core) : Core := { c with dbg := { c.dbg with brken := true, dsave := 0x100001 } }
theorem test_brk : trapOf (after (.brk 5) (on [] id)) = (0x12, 0, true) ∧
    (after (.brk 5) (on [] id)).me.ecause = 0x12000005 := by decide +kernel
theorem test_meets_brk : (on [] debugged).me.dbg.brken = true ∧ haltImage (on [] debugged) (on [] debugged).me.id ≠ none ∧
    (on [] debugged).me.dbg.skips 5 0 = false ∧ (on [] id).me.dbg.brken = false := by decide +kernel

/-! ### Memory instructions -/

/-- A state with a value at the start of the own scratchpad, whose window starts at 0x7FF0_0000_0000. -/
def scratch (v : Nat) (gs : List (GReg × Word)) : State :=
  let s := on gs id
  { s with mem := s.mem.writeN (s.cellPa 0 0) v 8 }
/-- R231: a byte is sign- or zero-extended; R2: little-endian. -/
theorem test_loads : (after (.ldb 3 1 1) (scratch 0x80FF01 [(1, 0x7FF000000000)])).me.reg 3 = -1 ∧
    (after (.ldhz 3 1 2) (scratch 0x80FF01 [(1, 0x7FF000000000)])).me.reg 3 = 0x80 ∧
    (after (.lddOrd 3 1 .acq .dev) (scratch 0x80FF01 [(1, 0x7FF000000000)])).me.reg 3 = 0x80FF01 := by decide +kernel
theorem test_store : (after (.sth 3 1 2) (scratch 0 [(1, 0x7FF000000000), (3, 0xABCD)])).mem.readN ((on [] id).cellPa 0 0) 4 = 0xABCD0000 := by
  decide +kernel
/-- R232: an address that is not a multiple of the size, with EVA at it; R357: a page that is not writable. -/
theorem test_access_faults : trapOf (after (.ldw 3 1 0) (on [(1, 0x20002)] id)) = (6, 0, true) ∧
    (after (.ldw 3 1 0) (on [(1, 0x20002)] id)).me.eva = 0x20002 ∧ trapOf (after (.stb 3 1 0) (on [(1, 0x10000)] id)) = (7, 2, true) := by
  decide +kernel
/-- R31: past the scratchpad of the window is the WINDOW access fault. -/
theorem test_window_fault : trapOf (after (.ldb 3 1 0) (on [(1, 0x7FF000060000)] id)) = (8, 6, true) := by decide +kernel
/-- What a memory form of a core needs, with the access where it lands. -/
theorem test_meets_loads :
    loadForm (scratch 7 [(1, 0x7FF000000000)]).me (.ldd 3 1 0) = some (3, 0x7FF000000000, 8, true, .rlx, .core) ∧
    Unwatched (scratch 7 [(1, 0x7FF000000000)]) 0x7FF000000000 8 false ∧
    ∃ s' p, (scratch 7 [(1, 0x7FF000000000)]).translate 0x7FF000000000 0 0 = .ok s' p ∧
      ((0x7FF000000000 : Word).toNat % 8 = 0 ∧ p.pa = s'.cellPa 0 0 ∧ s'.coreNo 0 = s'.me.id ∧ p.pa % 128 + 8 ≤ 128 ∧ s'.badWords = [] ∧
        s'.mem.wf = true ∧ markOpen s' [p.pa / 128] = false ∧ (match s'.placeOf p.pa with | .ok (.scratch c) => c == 0 | _ => false) = true) :=
  ⟨by decide +kernel, by unfold Unwatched; decide +kernel, ansOk (by decide +kernel)⟩
/-- A state whose g1 addresses local HBM, with a cache. -/
def hbm (gs : List (GReg × Word)) (cache : List CLine) (f : Core → Core) : State := on ((1, 0x20040) :: gs) fun c => f { c with cache := cache }
/-- What lands in local HBM at 0x2_0040, with p of the state and the place. -/
def lands (s : State) (kind : Nat) (q : State → Phys → Bool) : Bool :=
  match s.translate 0x20040 kind 0 with
  | .ok s p => p.pa == 0x20040 && (match s.placeOf p.pa with | .ok .localHbm => true | _ => false) && q s p
  | _ => false
/-- A T copy of line 0x400 with byte 64 at 7. -/
def copy7 : CLine := { line := 0x400, st := .t, data := BitVec.ofNat _ (7 * 2 ^ 512), unread := 0 }
/-- R171, R215: a hit reads the copy; a miss asks the home once and waits. -/
theorem test_hit_and_miss : (after (.ldb 3 1 0) (hbm [] [{ copy7 with st := .u }] id)).me.reg 3 = 7 ∧ (after (.ldb 3 1 0) (hbm [] [] id)).me.res = .waiting ∧
    (after (.ldb 3 1 0) (hbm [] [] id)).net.length = 1 := by decide +kernel
theorem test_meets_hits : lands (hbm [] [copy7] id) 0 (fun s p => s.me.lineOf (p.pa / 128) == some copy7 && s.me.fills.isEmpty
      && s.me.undone.isEmpty && s.badWords.isEmpty && !s.lineCut (p.pa / 128) && !markOpen s [p.pa / 128] && s.me.asked.isEmpty) = true ∧
    lands (hbm [] [] id) 0 (fun s p => s.me.lineOf (p.pa / 128) == none && s.me.asked.isEmpty && s.lazy && s.me.fills.isEmpty && !markOpen s [p.pa / 128]) = true ∧
    watchHit (hbm [] [] id).me 0x20040 0x20041 false = none ∧ (loadForm (hbm [] [] id).me (.ldb 3 1 0)).isSome = true := by decide +kernel
theorem test_meets_stores : storeForm (hbm [(2, 5)] [] id).me (.stdOrd 1 2 .rel .dev) = some (0x20040, 8, 5, .rel, .dev) ∧
    lands (hbm [(2, 5)] [] id) 1 (fun s p => s.lazy && s.me.storesDone && marksDone s s.me.id && decide (s.me.storeCount < 128) && s.badWords.isEmpty
      && !s.lineCut (p.pa / 128) && !markOpen s [p.pa / 128]) = true ∧
    (match (on [(1, 0x7FF000000000)] id).translate 0x7FF000000000 1 0 with
      | .ok s p => p.pa == s.cellPa 0 0 && s.mem.wf && s.badWords.isEmpty && !markOpen s [p.pa / 128] && decide (s.me.storeCount < 128)
          && (match s.placeOf p.pa with | .ok (.scratch c) => s.coreNo c == s.me.id | _ => false)
      | _ => false) = true ∧
    watchHit (hbm [] [] id).me 0x20040 0x20048 true = none := by decide +kernel
/-- R161, R210: a store leaves as one request, counts until it is done, and drops the U copy. -/
theorem test_store_leaves : (after (.std 2 1 0) (hbm [(2, 5)] [{ copy7 with st := .u }] id)).me.undone = [0x400] ∧
    (after (.std 2 1 0) (hbm [(2, 5)] [{ copy7 with st := .u }] id)).me.cache = [] ∧
    (after (.std 2 1 0) (hbm [(2, 5)] [] id)).net.length = 1 := by decide +kernel
/-- R234, R235: AMOMIN.w's reply is the old word, sign-extended. -/
theorem test_amo_reply : (after (.amominW 3 1 2 .rlx .core) (hbm [] [] fun c => { c with pend := .reply 0x20040 0x80000000 })).me.reg 3 =
      0xFFFFFFFF80000000 ∧
    (after (.amofaddW 3 1 2 .rlx .core) (hbm [] [] fun c => { c with pend := .reply 0x20040 0x80000000 })).me.reg 3 = 0x80000000 := by
  decide +kernel
theorem test_meets_amos : amoForm (.amocasD 3 1 2 .ar .sys) = some (.cas, 8, 3, 1, 2, .ar, .sys) ∧
    lands (hbm [(2, 5)] [] id) 2 (fun s p => s.lazy && s.me.storesDone && marksDone s s.me.id && s.badWords.isEmpty && !s.lineCut (p.pa / 128)
      && !markOpen s [p.pa / 128]) = true ∧
    (hbm [] [] id).me.pend = .none ∧ watchHit (hbm [] [] id).me 0x20040 0x20048 true = none ∧ watchHit (hbm [] [] id).me 0x20040 0x20048 false = none ∧
    (hbm [] [] fun c => { c with pend := .reply 0x20040 1 }).me.pend = .reply 0x20040 1 ∧
    (hbm [] [] fun c => { c with pend := .fault (.access .hostAtomic) }).me.pend = .fault (.access .hostAtomic) := by
  refine ⟨rfl, ?_⟩
  decide +kernel
theorem test_meets_reductions : reduceForm (.redmaxW 1 2 .rel .dev) = some (.maxW, 1, 2, .rel, .dev) ∧
    lands (hbm [(2, 5)] [] id) 3 (fun s p => s.lazy && s.me.storesDone && marksDone s s.me.id && s.badWords.isEmpty && decide (s.me.storeCount < 128)
      && !s.lineCut (p.pa / 128) && !markOpen s [p.pa / 128]) = true ∧
    (match (on [] id).translate 0x7FF000000000 3 0 with
      | .ok s p => s.mem.wf && s.badWords.isEmpty && !markOpen s [p.pa / 128]
          && (match s.placeOf p.pa with | .ok (.scratch c) => s.coreNo c == s.me.id | _ => false)
      | _ => false) = true :=
  ⟨rfl, by decide +kernel⟩
theorem test_meets_calm (gs : List (GReg × Word)) (f : Core → Core) : Calm (on gs f) := .inl rfl
theorem test_meets_misaligned : loadForm (on [(1, 0x20002)] id).me (.ldw 3 1 0) = some (3, 0x20002, 4, true, .rlx, .core) ∧
    storeForm (on [(1, 0x20002)] id).me (.stw 3 1 0) = some (0x20002, 4, 0, .rlx, .core) ∧ (0x20002 : Word).toNat % 4 ≠ 0 ∧
    (on [(1, 0x20002)] id).me.inTrap = false ∧
    reduceForm (.redaddW 1 2 .rlx .core) = some (.addW, 1, 2, .rlx, .core) ∧ GatherKind.addW.size = 4 ∧
    watchHit (on [] id).me 0x20002 0x20006 true = none ∧ watchHit (on [] id).me 0x20002 0x20006 false = none ∧
    amoForm (.amoaddW 3 1 2 .rlx .core) = some (.add, 4, 3, 1, 2, .rlx, .core) := by
  refine ⟨?_, ?_, ?_, ?_, ?_, ?_, ?_, ?_, rfl⟩ <;> decide +kernel

/-! ### Ordering, messages, copies, tiles in memory -/

theorem test_fence : (after (.fence { l := false, s := true, e := false } .sys) (on [] fun c => { c with undone := [5] })).me.res = .waiting ∧
    (after (.fence { l := true, s := true, e := true } .sys) (on [] fun c => { c with npc := 0x10004 })).me.pc = 0x10004 := by decide +kernel
/-- An all-reduce of core 0 over two lines of local HBM. -/
def ared : Ared :=
  { id := 7, core := 0, launch := 1, rx := 0, ry := 0, bf16 := false, tag := 3, buf := [(0x20000, 256)], len := 256, slot := 2, brand := 0,
    matched := false, status := 0, left := [0x400, 0x401], peer := [], after := [], bad := false }
theorem test_meets_fence : (on [] id).me.storesDone = true ∧ enginesDone (on [] id) (on [] id).me.id = true ∧
    (on [] fun c => { c with undone := [5] }).me.storesDone = false ∧
    enginesDone { on [] id with areds := [ared] } 0 = false ∧ sendsPlaced (on [] id) 0 = true ∧ enginesPlaced (on [] id) 0 = true := by decide +kernel
theorem test_meets_branded :
    (match (on [(1, 0x20080)] id).translate 0x20080 1 0 with
      | .ok s p => p.pa % 128 == 0 && s.badWords.isEmpty && s.me.storesDone && enginesDone s s.me.id && s.lazy | _ => false) = true ∧
    ((0x20080 : Word).toNat % 128 = 0) ∧
    (match (on [(1, 0x20080)] fun c => { c with fills := [{ line := 0x401, acq := true, data := 9, fresh := false, fault := none }] }).translate 0x20080 0 0 with
      | .ok s p => s.me.fillOf (p.pa / 128) true == some { line := 0x401, acq := true, data := 9, fresh := false, fault := none } && s.me.undone.isEmpty
          && !s.me.waitsH (p.pa / 128) && !markOpen s [p.pa / 128] && s.badWords.isEmpty && !s.lineCut (p.pa / 128) | _ => false) = true ∧
    (on [(1, 0x20080)] id).me.kept = [] := by decide +kernel
/-- R239: RELB's brand register is empty afterwards, its carry the old brand. -/
theorem test_relb : (after (.relb 1 2 .dev) (on [(1, 0x20080)] fun c => { c with brand := 6 })).me.brand = 0 ∧
    ((after (.relb 1 2 .dev) (on [(1, 0x20080)] fun c => { c with brand := 6 })).me.carry[(0 : Fin 4)]).toNat % 8 = 6 := by decide +kernel
theorem test_meets_cache_control : lands (hbm [] [{ copy7 with st := .u }] id) 0 (fun s p =>
      s.me.lineOf (p.pa / 128) == some { copy7 with st := .u } && decide (s.me.storeCount < 128)) = true ∧
    lands (hbm [] [copy7] id) 0 (fun s p => s.me.lineOf (p.pa / 128) == some copy7) = true ∧
    lands (hbm [] [] id) 0 (fun s p => s.me.lineOf (p.pa / 128) == none) = true ∧
    lands (hbm [] [{ copy7 with st := .k }] id) 0 (fun s p => s.me.lineOf (p.pa / 128) == some { copy7 with st := .k }) = true ∧
    lands (hbm [] [{ copy7 with st := .h }] id) 0 (fun s p => s.me.lineOf (p.pa / 128) == some { copy7 with st := .h } && s.lazy) = true ∧
    (match probeAddr (on [(1, 0x30040), (2, 8)] id) (0x30040 &&& ~~~127) .read true 1024 with | .ok _ (.error _) => true | _ => false) = true ∧
    (on [(1, 0x30040), (2, 8)] id).me.level = 0 ∧ (0x30040 : Word).toNat % 128 + (8 : Word).toNat ≤ 128 ∧
    (match (on [] id).translate 0x7FF000000000 0 0 with
      | .ok s p => (match s.placeOf p.pa with | .ok .localHbm => false | _ => true) | _ => false) = true := by decide +kernel
theorem test_clinv : (after (.clinv 1) (hbm [] [{ copy7 with st := .u }] id)).me.cache = [] ∧
    (after (.clinv 1) (hbm [] [{ copy7 with st := .k }] id)).me.cache = [{ copy7 with st := .k }] := by decide +kernel
theorem test_meets_retention : (on [] fun c => { c with pend := .reply 0 5 }).me.pend = .reply 0 5 ∧ (on [(1, 8)] id).me.pend = .none ∧
    8 ≤ ((on [(1, 8)] id).me.reg 1).toNat ∧
    lands (hbm [(2, 4096)] [] id) 1 (fun s _ => (s.me.reg 1).toNat % 4096 != 0) = true ∧
    watchHit (hbm [(2, 4096)] [] id).me 0x20040 0x21040 true = none := by decide +kernel
theorem test_unpin : (after (.unpin 3 1) (on [(1, 8)] id)).me.reg 3 = -4 := by decide +kernel

/-- A core with a value in mailbox slot 3. -/
def mail (c : Core) : Core := { c with mbox := c.mbox.set 3 { value := 9, present := true, scope := .core, brand := none } }
/-- R250: RECV takes a slot and leaves it empty; RECVANY takes the lowest, or -1 with an empty mask; PEEK leaves it. -/
theorem test_recv : (after (.recv 5 3) (on [] mail)).me.reg 5 = 9 ∧ ((after (.recv 5 3) (on [] mail)).me.mbox[(3 : MReg)]).present = false ∧
    (after (.recv 5 4) (on [] mail)).me.res = .waiting := by decide +kernel
theorem test_recvany : (after (.recvany 5 6 7) (on [(6, 0b11000)] mail)).me.reg 7 = 3 ∧ (after (.recvany 5 6 7) (on [] mail)).me.reg 7 = -1 ∧
    (after (.peek 5 7 3) (on [] mail)).me.reg 7 = 1 ∧ ((after (.peek 5 7 3) (on [] mail)).me.mbox[(3 : MReg)]).present = true := by decide +kernel
/-- R246: a target outside the 1 × 1 launch. -/
theorem test_send : trapOf (after (.send 6 5 3) (on [(6, 1)] id)) = (0xA, 1, true) ∧ (after (.send 6 5 3) (on [(5, 7)] id)).ni.length = 1 := by
  decide +kernel
theorem test_meets_messages : launchTarget (on [] id) 0 = some (1, 0, 0) ∧ launchTarget (on [] id) 1 = none ∧ (on [] id).me.storeCount < 128 ∧
    ((on [] mail).me.mbox[(3 : MReg)]).present = true ∧ (on [] mail).me.arrivals = [] ∧ ((on [] mail).me.mbox[(4 : MReg)]).present = false ∧
    ((on [(6, 0b11000)] mail).me.reg 6).getLsbD 3 = true ∧ ((on [] mail).me.reg 6).setWidth 32 = 0#32 ∧
    (∀ k : MReg, k < 3 → ((on [] mail).me.mbox[k]).present = false) := by decide +kernel
theorem test_meets_copies :
    (match locatePages (on [] id) 0x20000 256 0 with
      | .ok s ps => (match locatePages s 0x20400 256 1 with
        | .ok s qs => !ps.isEmpty && !qs.isEmpty && decide (enginesOut s s.me.id < 4) && decide (s.me.storeCount < 128)
        | _ => false)
      | _ => false) = true ∧
    (match locatePages ({ on [] id with link := { resetLink with up := true } }) 0x20000 256 2 with
      | .ok s qs => qs.all (fun p => (match s.placeOf p.pa with | .ok .localHbm => true | _ => false)) && s.link.up && s.areds.isEmpty
          && decide (enginesOut s s.me.id < 4)
      | _ => false) = true ∧
    watchHit (on [] id).me 0x20400 0x20500 true = none ∧ watchHit (on [] id).me 0x20000 0x20100 false = none ∧
    2 ^ 32 < ((on [(2, 0x100000001)] id).me.reg 2).toNat := by decide +kernel
/-- R251: a copy of more than 4 GiB; R255: no link. -/
theorem test_copy_faults : trapOf (after (.cpy 7 6 2 4 .dev) (on [(2, 0x100000001), (6, 0x20000), (7, 0x20400)] id)) = (8, 11, true) ∧
    trapOf (after (.aredFp32 7 6 2 4) (on [(2, 128), (6, 0x20000)] id)) = (8, 4, true) ∧
    trapOf (after (.aredBf16 7 6 2 4) (on [(2, 130), (6, 0x20000)] id)) = (8, 11, true) := by decide +kernel
/-- R252: the completion word's job holds the length and the destination's two lines. -/
theorem test_cpy : ((after (.cpy 7 6 2 4 .dev) (on [(2, 256), (6, 0x20000), (7, 0x20400)] id)).jobs.map fun j => (j.len, j.unwritten)) =
    [(256, [0x408, 0x409])] := by decide +kernel
/-- What lies in the moving core's own scratchpad, with memory canonical and no line of it to be marked. -/
def own (s : State) (ps : List Piece) : Bool :=
  s.mem.wf && !markOpen s (ps.map (·.pa / 128))
    && ps.all fun p => (match s.placeOf p.pa with | .ok (.scratch c) => s.coreNo c == s.me.id | _ => false) && decide (p.pa % 128 + p.len ≤ 128)
/-- A core with an offset tile of one row in t5 and the row tiles of `tiles`. -/
def rows (c : Core) : Core := { tiles 0x04030201 0 c with t := (tiles 0x04030201 0 c).t.set 5 { data := 8, band := 0, desc := { fmt := .int32, rows := 1, rb := 4 } } }
theorem test_meets_tile_rows :
    (match rowPieces (on [(1, 0x7FF000000000), (2, 64)] rows) (row4 0) none 1 2 false false with
      | .ok s ps => own s ps && !ps.isEmpty && s.badWords.isEmpty && s.mem.wf | _ => false) = true ∧
    (match rowPieces (on [(1, 0x7FF000000000), (2, 64)] rows) (row4 0) (some (on [] rows).me.t[(5 : TReg)]) 1 2 false true with
      | .ok s ps => own s ps && !ps.isEmpty && decide (s.me.storeCount + ps.length ≤ 128) | _ => false) = true ∧
    (match imagePieces (on [] id) 0x7FF000000000 4096 0 0 with
      | .ok s bs => own s bs && (match imagePieces s 0x7FF000001000 512 32 0 with | .ok s ps => own s (ps) | _ => false)
      | _ => false) = true ∧
    watchHit (on [] id).me 0x7FF000000000 0x7FF000001000 false = none := by decide +kernel
/-- Every piece of a store of rows, or of an accumulator's image, lies in the own scratchpad, and the counter has room. -/
def ownStore (s : State) (ps : List Piece) : Bool :=
  own s ps && !ps.isEmpty && s.badWords.isEmpty && !markOpen s (ps.map (·.pa / 128)) && decide (s.me.storeCount + ps.length ≤ 128)
theorem test_meets_tile_stores :
    (match rowPieces (on [(1, 0x7FF000000000), (2, 64)] rows) (row4 0) none 1 2 false true with | .ok s ps => ownStore s ps | _ => false) = true ∧
    (match rowPieces (on [(1, 0x7FF000000000), (2, 64)] rows) (row4 0) (some (on [] rows).me.t[(5 : TReg)]) 1 2 false true with
      | .ok s ps => ownStore s ps | _ => false) = true ∧
    (match imagePieces (on [] id) 0x7FF000000000 16384 0 1 with | .ok s ps => ownStore s ps | _ => false) = true ∧
    watchHit (on [] id).me 0x7FF000000000 0x7FF000004000 true = none := by decide +kernel
theorem test_meets_accumulator_images :
    (match imagePieces (on [] id) 0x7FF000000000 16384 0 1 with
      | .ok s bs => own s bs && decide (s.me.storeCount + bs.length ≤ 128) | _ => false) = true ∧
    (match imagePieces (on [] id) 0x7FF000000000 16384 0 0 with | .ok s bs => own s bs | _ => false) = true := by decide +kernel
/-- R106: a row is loaded from the own scratchpad, and stored with the offset of its row. -/
theorem test_tld : ((after (.tld 1 1 2 false false) (let s := on [(1, 0x7FF000000000), (2, 64)] rows
    { s with mem := s.mem.writeN (s.cellPa 0 0) 0x0D0C0B0A 4 })).me.t[(1 : TReg)]).data = 0x0D0C0B0A := by decide +kernel
theorem test_tsct : (after (.tsct 1 5 1 2 false false) (on [(1, 0x7FF000000000), (2, 4)] rows)).mem.readN ((on [] id).cellPa 0 32) 4 = 0x04030201 := by
  decide +kernel

/-! ### Tasks, groups, locks, contexts -/

/-- A task whose entry is 0x1_0040. -/
def task1 : Task :=
  { record := 0x10040, restarted := false, snapLen := 0, snap := 0, scope := .core, brand := none, owner := 0, seq := 0 }
theorem test_meets_tasks : (on [] id).launchOfCore (on [] id).me.id = some programLaunch ∧ (on [] id).me.storeCount < 100 ∧
    (match taskTarget (on [] id) 0x10040 with | .ok _ t => t == (1, 0, 0) | _ => false) = true ∧ 2 ^ (0 : BitVec 3).toNat ≤ programLaunch.width ∧
    2 ^ (0 : BitVec 2).toNat ≤ programLaunch.height ∧
    (match locate (on [] fun c => { c with granted := some task1 }) 0x7FF000000000 296 1 0 0 with
      | .ok s ps => own s ps && s.me.granted == some task1 && decide (s.me.storeCount + ps.length + 4 ≤ 128) && !keepsRestart s task1 | _ => false) = true ∧
    task1.rest = false ∧ task1.brand = none ∧ (on [] id).me.inHand = none ∧
    watchHit (on [] id).me 0x7FF000000000 0x7FF000000128 true = none := by decide +kernel
/-- R322: the core's own task, with a landing address in its scratchpad. -/
theorem test_meets_recvt : let s := on [(6, 0x7FF000000000)] fun c => { c with taskQueue := [{ task1 with numbered := true }] }
    (match locateProg s (s.me.reg 6) 296 1 with
      | .ok t ps => own t ps && !markOpen t (ps.map (·.pa / 128)) && decide (t.me.storeCount + ps.length + 4 ≤ 128) && t.me.granted.isNone
          && t.launchOfCore t.me.id == some programLaunch && t.me.taskQueue == [{ task1 with numbered := true }] && t.lazy
          && (t.pad t.me.paddock).rrMode == 0
      | _ => false) = true ∧
    programLaunch.done = false ∧ task1.barf = false ∧ s.me.inHand = none ∧ s.me.kept = [] ∧ s.launchOfCore s.me.id = some programLaunch := by decide +kernel
/-- R246, R320: a task for the stream's own queue leaves, counted; a branded one takes the brand with it. -/
theorem test_tkadd : let s := on [(6, 0x10040)] fun c => { c with brand := 6 }
    (after (.tkadd 5 6 7) s).me.sent = 1 ∧ (after (.tkadd 5 6 7) s).ni.length = 1 ∧ (after (.tkadd 5 6 7) s).me.others = 1 ∧
    (after (.tkaddb 5 6 7 .dev) s).me.brand = 0 ∧ (after (.tkaddb 5 6 7 .dev) s).ni.length = 1 := by decide +kernel
/-- R324, R325: the report of a task in hand; a snapshot that no restart asks for. -/
theorem test_meets_tksnap : let s := on [(6, 0x7FF000000000), (7, 16)] fun c => { c with inHand := some task1 }
    (match locateProg s (s.me.reg 6) (s.me.reg 7).toNat 0 with
      | .ok t ps => own t ps && t.badWords.isEmpty && !keepsRestart t task1 | _ => false) = true ∧
    watchHit s.me 0x7FF000000000 0x7FF000000010 false = none ∧ (after (.tksnap 6 7) s).me.inHand = some task1 ∧
    (after .tkdone s).me.inHand = none ∧ (after .tkdone s).niPkts = [.report 0 0 0 1] ∧
    (after (.lnch 5 6 7) (on [] fun c => { c with pend := .reply ctlMark 3 })).me.reg 5 = 3 := by decide +kernel
theorem test_meets_task_ends : (on [] fun c => { c with inHand := some task1 }).me.inHand = some task1 ∧
    keepsRestart (on [] fun c => { c with inHand := some task1 }) task1 = false ∧
    (match locate (on [] fun c => { c with inHand := some task1 }) 0x7FF000000000 16 0 0 0 with
      | .ok s ps => own s ps && s.badWords.isEmpty && s.mem.wf && !keepsRestart s task1 | _ => false) = true ∧
    (on [] fun c => { c with pend := .reply 0 3 }).me.pend = .reply 0 3 ∧
    ({ on [] id with launches := [{ programLaunch with done := true }] } : State).launchOfCore 0 = some { programLaunch with done := true } := by
  decide +kernel
/-- R322: of a launch that is done, 0. -/
theorem test_recvt : (after (.recvt 5 6 0 0) { on [(5, 9), (6, 0x7FF000000000)] id with launches := [{ programLaunch with done := true }] }).me.reg 5 = 0 := by
  decide +kernel
/-- R324: without a task in hand, kind STATE; R319: a group larger than the launch, kind GROUP. -/
theorem test_progress_faults : trapOf (after .tkdone (on [] id)) = (0xB, 4, true) ∧ trapOf (after (.bar 1 0 2) (on [] id)) = (0xB, 3, true) ∧
    trapOf (after (.tkadd 0 7 8) (on [] id)) = (0xB, 2, true) := by decide +kernel
theorem test_meets_groups : (contributionForm (on [(1, 5)] id).me (.mredAddI64 1 0 0 3)).isSome = true ∧ openContributions (on [] id) programLaunch < 16 ∧
    programLaunch.width < 2 ^ (1 : BitVec 3).toNat := by decide +kernel
theorem test_mred : ((after (.mredAddI64 1 0 0 3) (on [(1, 5)] id)).niPkts.map fun p => match p with
    | .contrib k c => (k, c.launch, c.episode, c.slot) | _ => (9, 9, 9, 9)) = [(0, 1, 0, 3)] := by decide +kernel
/-- The request of core k that its NI numbered k. -/
def who (k : Nat) : Waiter := { core := k, num := k }
/-- A lock entry of line 0x400, of request 3. -/
def lock (st : LockState) (next : Option Nat) : LockEntry :=
  { line := 0x400, va := 0x20000, slot := 7, num := 3, st := st, next := next.map who, try_ := false, brand := none }
theorem test_meets_lock_instructions :
    (match locateProg (hbm [] [] id) 0x20040 1 1 with
      | .ok s [p] => p.pa == 0x20040 && (match s.placeOf p.pa with | .ok .localHbm => true | _ => false) && !markOpen s [p.pa / 128]
      | _ => false) = true ∧ (hbm [] [] id).me.kept = [] ∧
    lands (hbm [] [] id) 1 (fun s p => s.me.lockOf (p.pa / 128) == none && s.me.locks.isEmpty && !markOpen s [p.pa / 128]) = true ∧
    lands (hbm [] [] fun c => { c with locks := [lock .held none] }) 1 (fun s p =>
      s.me.lockOf (p.pa / 128) == some (lock .held none) && s.lazy && s.me.storesDone && enginesDone s s.me.id) = true ∧
    lands (hbm [] [] fun c => { c with locks := [lock .held (some 5)] }) 1 (fun s p => s.me.lockOf (p.pa / 128) == some (lock .held (some 5))) = true ∧
    watchHit (hbm [] [] id).me 0x20000 0x20080 true = none := by decide +kernel
/-- R306, R332: a request goes to the home; a release hands on, or frees and keeps a stub. -/
theorem test_locks : ((after (.lkacq 1 7) (hbm [] [] id)).me.locks.map (·.st)) = [.pending] ∧
    ((after (.lkrel 1) (hbm [] [] fun c => { c with locks := [lock .held none] })).me.locks.map (·.st)) = [.stub] ∧
    (after (.lkrel 1) (hbm [] [] fun c => { c with locks := [lock .held (some 5)] })).me.locks = [] ∧
    trapOf (after (.lkrel 1) (hbm [] [] id)) = (0xC, 3, true) := by decide +kernel
theorem test_meets_translation_instructions : (on [] fun c => { c with status := 1 }).me.level = 1 ∧ (on [] fun c => { c with status := 1 }).me.paddock < 7 ∧
    removalsOver (on [] fun c => { c with status := 1, pend := .sent 0 }) = true ∧ (on [] fun c => { c with status := 1, pend := .sent 0 }).me.pend ≠ .none ∧
    (on [] id).lazy = true ∧ (on [] id).me.pend = .none ∧
    (match probeAddr (on [] id) 0x20040 .read true 0 with | .ok _ _ => true | _ => false) = true := by decide +kernel
/-- R362: a probe of a page that is there gives its address. -/
theorem test_xlatp : (after (.xlatp 3 1 true .write) (on [(1, 0x20040)] fun c => { c with status := 1 })).me.reg 3 =
    probeWord (.ok { pa := 0x20040, leaf := some dataPage, window := false }) := by decide +kernel
/-- The slices of set 6 hold the data page too. -/
def cachedHere (s : State) : State := s.onPad 6 fun p => { p with stc := [(stcSlice p 1 0x20000, stcSet dataPage 0x20000, dataPage)] }
theorem test_xlati : (after (.xlatiAll 7) (on [] fun c => { c with status := 1 })).me.res = .waiting ∧
    .removal 0 6 .all 1027 ∈ (after (.xlatiAll 7) (on [] fun c => { c with status := 1 })).ctl := by decide +kernel
/-- R360, R361: with nothing in flight, a removal is over in the step that asks for it: the page of ASID 1 leaves both caches. -/
theorem test_xlati_at_once : let s := cachedHere { on [(1, 0x1000000020000), (2, 4096)] fun c => { c with status := 1 } with lazy := false }
    s.net = [] ∧ s.ni = [] ∧ s.lockNet = [] ∧ s.ctl = [] ∧ s.xreqs = [] ∧ s.me.loft = [] ∧ s.me.pend = .none ∧ s.me.storesDone = true ∧ s.me.kept = [] ∧ s.me.storePages = [] ∧
    s.me.level = 1 ∧ s.me.paddock < 7 ∧ s.me.id < 512 ∧ (s.cores.all fun c => decide (512 ≤ c.id)) = true ∧ s.ats = [] ∧ s.jobs = [] ∧ s.areds = [] ∧ s.me.ctc = [dataPage, programPage] ∧
    (s.pad 6).stc.length = 1 ∧
    (after (.xlatiRange 1 2 7) s).me.ctc = [programPage] ∧ (after (.xlatiRange 1 2 7) s).me.res = .retired ∧
    ((after (.xlatiRange 1 2 7) s).pad 6).stc = [] ∧ ((after (.xlatiAsid 1 7) s).pad 6).stc = [] ∧ (after (.xlatiAll 7) s).me.ctc = [] := by
  decide +kernel
theorem test_meets_halt : (on [] id).me.inHand = none ∧ (on [] id).me.locks = [] ∧ (on [] id).me.loft = [] ∧ (on [] id).me.storesDone = true ∧
    enginesDone (on [] id) (on [] id).me.id = true ∧ locksPlaced (on [] id) 0 = true := by decide +kernel
theorem test_halt : (after .halt (on [] id)).me.run = .halted ∧ (after .halt (on [] fun c => { c with undone := [5] })).me.run = .running := by
  decide +kernel
/-- What stands above every listed byte adds nothing. -/
theorem gathered_low (m : Memory) (ps : List Piece) :
    gathered m ps = ps.foldl (fun v p => if m.all (fun c => decide (c.1 < p.pa)) then v else v + m.readN p.pa p.len * 2 ^ (8 * p.pos)) 0 := by
  unfold gathered
  congr 1
  funext v p
  split
  · rename_i h
    rw [m.readN_above p.len p.pa h, Nat.zero_mul, Nat.add_zero]
  · rfl
/-- The words of a context image that its checks read, at level 1 (R376, R378). -/
def imageMem (a : Nat) : Memory :=
  (List.range 16).foldl (fun (m : Memory) i => (m.writeN (a + 0x280 + 8 * i) 0x54040 8).writeN (a + 0x320 + 8 * i) 5 8) (Memory.writeN [] a 1 8)
/-- A supervisor with such an image in its own scratchpad. -/
def imaged : State := { on [] fun c => { c with status := 1 } with mem := imageMem ((on [] id).cellPa 0 0) }
theorem test_meets_context_image : ∃ s ps, locate imaged 0x7FF000000000 0x40000 0 0 0 = .ok s ps ∧ (own s ps = true ∧ s.mem.wf = true ∧
    s.me.level = 1 ∧ locksPlaced s s.me.id = true ∧ contextOk (s.present s.me.id .q4blk) (gathered s.mem ps) 1 = true) := by
  simp only [gathered_low]
  exact ansOk (by decide +kernel)
theorem test_meets_context_refused : (match locate (on [] fun c => { c with status := 1 }) 0x7FF000000000 0x40000 1 0 0 with
    | .ok s ps => own s ps && s.lazy && s.me.storesDone && enginesDone s s.me.id && locksPlaced s s.me.id && !s.me.inTrap && !contextOk true 0 s.me.level
    | _ => false) = true := by decide +kernel
theorem image_read (a : Nat) (m : Memory) (h : m.all (fun c => decide (c.1 < a + 0x3A0)) = true) : m.readN a 0x40000 = m.readN a 0x3A0 := by
  rw [show 0x40000 = 0x3A0 + 0x3FC60 from rfl, m.readN_add, m.readN_above _ (a + 0x3A0) h, Nat.mul_zero, Nat.add_zero]
/-- A core that is halted, with its image in local HBM. -/
def haltedImage : State := { on [] fun c => { c with run := .debugHalted, dbg := { c.dbg with dsave := 0x100001 } } with mem := imageMem 0x100000 }
theorem test_meets_debug_image : haltImage haltedImage 0 = some 0x100000 ∧ (haltedImage.core 0).run = .debugHalted ∧ (haltedImage.core 0).level = 0 ∧
    contextOk (haltedImage.present 0 .q4blk) (haltedImage.mem.readN 0x100000 0x40000) 0 = true ∧
    contextOk true ((on [] id).mem.readN 0x100000 0x40000) 0 = false ∧ imageOpen haltedImage 0 = false := by
  rw [image_read 0x100000 haltedImage.mem (by decide +kernel), (on [] id).mem.readN_above _ _ (by decide +kernel)]
  decide +kernel

/-! ### Events: requests and packets. Each test meets its clause's hypotheses on a small state and looks at what follows. -/

/-- A resident line 0x400 of local HBM at its home. -/
def dl (st : DState) (sharers : List Nat) (round : Option Round) : DirLine :=
  { line := 0x400, home := (on [] id).homeOf 0x400, st := st, sharers := sharers, round := round, dirty := true, rank := 0, mark := none }
/-- Core 0's card with some packets in flight and some lines at their homes. -/
def net (ps : List Pkt) (ds : List DirLine) (f : State → State) : State :=
  f { on [] id with net := ps.zipIdx.map fun p => flightOf p.2 p.1, stamp := ps.length, dir := ds }
/-- A request of core 3 for line 0x400. -/
def rq (r : Req) : Pkt := .req { core := 3, line := 0x400, req := r }
/-- The packet at index i has come to where it is served, with nothing before it. -/
def arrivedAt (s : State) (i : Nat) : Bool :=
  match s.net[i]? with | some f => !s.discards f && !s.travels f && !s.queued i f | none => false
/-- The step takes the packet at index i, goes on, leaves a memory and some packets, and a property holds. -/
def serves (x : Instr) (s : State) (i : Nat) (m : Memory) (ps : List Pkt) (p : State → Bool) : Bool :=
  arrivedAt s i && match exec x s with | .next u => u.mem == m && u.pkts == (s.took i).pkts ++ ps && p u | _ => false
/-- The packet at index i may move, its line's home is ready, and no log is on. -/
def atHome (s : State) (i : Nat) (p : Pkt) (d : DirLine) : Bool :=
  arrivedAt s i && (match s.net[i]? with | some f => f.pkt == p | none => false)
  && (match s.placeOf (d.line * 128) with | .ok .localHbm => true | _ => false) && !absentDie s .localHbm d.line
  && s.dirOf d.line == some d && d.st == .n && d.round == none && !setBlocked s d.line && (match s.owner (d.line * 128) with | some p => p.rrMode == 0 | none => true)
/-- The line after a step. -/
def dirIs (u : State) (p : DirLine → Bool) : Bool := (u.dirOf 0x400).any p

theorem test_home_read : let s := net [rq (.read false false false false)] [dl .n [5] none] id
    atHome s 0 (rq (.read false false false false)) (dl .n [5] none) = true ∧ canShare s 3 0x400 = true ∧
    serves (.homeRead 0) s 0 s.mem [.fill 3 0x400 (s.mem.line 0x400) true false false false none]
      (fun u => dirIs u fun e => e.sharers.contains 3 && e.sharers.contains 5) = true := by decide +kernel
theorem test_store_round : let s := net [rq (.write 0x20008 8 7 false false)] [dl .n [5] none] id
    let w : Req := .write 0x20008 8 7 false false
    atHome s 0 (rq w) (dl .n [5] none) = true ∧
    serves (.storeRound 0) s 0 s.mem [.update 5 0x400 0x20008 8 7]
      (fun u => dirIs u fun e => e.round == some { waiting := [5], pa := 0x20008, n := 8, v := 7, writer := some 3 }) = true ∧
    serves (.storeRound 0) (net [rq w] [dl .n [] none] id) 0 [(0x20008, 7)] [.done 3 0x400] (fun _ => true) = true := by decide +kernel
theorem test_amo_at_home : let a : Req := .amo .add 4 0x20004 1 0 false false
    let s := net [rq a] [dl .n [] none] fun s => { s with mem := s.mem.writeN 0x20004 0xFFFFFFFF 4 }
    atHome s 0 (rq a) (dl .n [] none) = true ∧ amoWord s.mem .add 0x20004 4 1 0 = 0 ∧
    serves (.amoAtHome 0) s 0 [] [.amoReply 3 0x400 0xFFFFFFFF none] (fun _ => true) = true ∧
    serves (.amoAtHome 0) (net [rq (.amo .add 4 0x20004 1 0 false true)] [dl .n [5] none] id) 0 [] [.update 5 0x400 0x20004 4 1]
      (fun u => dirIs u fun e => e.round == some { waiting := [5], pa := 0x20004, n := 4, v := 1, writer := some 3 }) = true := by decide +kernel
theorem test_gather_request : let g : Req := .gather .addW 4 9
    let s := net [rq g] [dl .n [] none] id
    atHome s 0 (rq g) (dl .n [] none) = true ∧ ((s.core 3).dropLine 0x400).hasWay 0x400 = true ∧
    serves (.gatherRequest 0) s 0 s.mem [.done 3 0x400] (fun u => dirIs u (fun e => e.st == .g [3] false)
      && ((u.core 3).lineOf 0x400).any fun l => l.st == .g .addW && l.data == reduceAt .addW (identityLine .addW) 4 9) = true := by decide +kernel
theorem test_write_back : let s := net [rq .clwb] [dl .n [5] none] id
    atHome s 0 (rq .clwb) (dl .n [5] none) = true ∧
    serves (.hbmWriteComplete 0) s 0 s.mem [.done 3 0x400] (fun u => dirIs u fun e => !e.dirty) = true := by decide +kernel
theorem test_hbm_fill : let s := net [] [dl .w [] none] id
    s.dirOf 0x400 = some (dl .w [] none) ∧ (after (.hbmFill 0x400) s).mem = s.mem ∧ dirIs (after (.hbmFill 0x400) s) (·.st == .n) = true := by
  decide +kernel
/-- R160: a scratchpad's port; R170, R236: the host; R374: the peer. -/
theorem test_port : let pa := (on [] id).cellPa 5 0x80
    let r : MReq := { core := 3, line := pa / 128, req := .amo .swp 8 pa 6 0 false false }
    let s := net [.req r] [] fun s => { s with mem := s.mem.writeN pa 4 8 }
    (match s.placeOf (r.line * 128) with | .ok (.scratch c) => c == 5 && !absentDie s (.scratch c) r.line | _ => false) = true ∧
    serves (.scratchpadPortAccess 0) s 0 (s.mem.writeN pa 6 8) [.amoReply 3 r.line 4 none] (fun _ => true) = true := by decide +kernel
/-- A request of core 3 for a line of host memory. -/
def hq (r : Req) : MReq := { core := 3, line := 2 ^ 46 / 128, req := r }
theorem test_host_agent :
    (match (on [] id).placeOf ((hq .clwb).line * 128) with | .ok .host => true | _ => false) = true ∧ (on [] id).dies[(0 : Fin 2)] = .up ∧
    (let s := net [.req (hq (.write (2 ^ 46) 8 7 false false))] [] id
     !hostBusy (s.took 0) (2 ^ 46 / 128) && serves (.hostAgentRequest 0) s 0 (s.mem.writeN (2 ^ 46) 7 8) [.done 3 (2 ^ 46 / 128)] (fun _ => true)) = true ∧
    (let s := net [.req (hq (.read false false false false))] [] id
     serves (.hostAgentRequest 0) s 0 s.mem [.hostWait (hq (.read false false false false)) 0] (fun _ => true)) = true ∧
    (let s := net [.req (hq (.amo .add 4 (2 ^ 46) 1 0 true false))] [] id
     serves (.hostAgentRequest 0) s 0 s.mem [.hostWait (hq (.amo .add 4 (2 ^ 46) 1 0 true false)) 0] (fun _ => true)) = true ∧
    (let s := net [.req (hq (.amo .add 4 (2 ^ 46) 1 0 false false))] [] fun s => { s with boot := { s.boot with dies := Vector.replicate 2 0 } }
     serves (.hostAgentRequest 0) s 0 s.mem [.amoReply 3 (2 ^ 46 / 128) 0 (some (.access .hostAtomic))] (fun _ => s.cardFeature 6 == false)) = true := by
  decide +kernel
theorem test_host_completion : let a := hq (.amo .xor 4 (2 ^ 46) 1 0 false false)
    let c := hq (.amo .cas 4 (2 ^ 46) 1 0 true false)
    let s := net [.hostWait a 0] [] id
    a.loops = true ∧ c.loops = false ∧ serves (.hostCompletion 0 .ok) s 0 s.mem [.hostWait a 1] (fun _ => true) = true ∧
    serves (.hostCompletion 0 .ok) (net [.hostWait a 1] [] id) 0 (s.mem.writeN (2 ^ 46) 1 4) [.amoReply 3 (2 ^ 46 / 128) 0 none] (fun _ => true) = true ∧
    serves (.hostCompletion 0 .ok) (net [.hostWait c 0] [] id) 0 (s.mem.writeN (2 ^ 46) 1 4) [.amoReply 3 (2 ^ 46 / 128) 0 none] (fun _ => true) = true ∧
    serves (.hostCompletion 0 .denied) s 0 s.mem [.amoReply 3 (2 ^ 46 / 128) 0 (some (.access .hostDenied))] (fun _ => true) = true ∧
    serves (.hostCompletion 0 .abort) (net [.hostWait (hq (.read false false false false)) 0] [] id) 0 s.mem
      [.fill 3 (2 ^ 46 / 128) 0 false false false false (some (.access .hostAbort))] (fun _ => true) = true := by decide +kernel
/-- A request of core 3 for the peer card's HBM. -/
def pq (r : Req) : MReq := { core := 3, line := 2 ^ 47 / 128, req := r }
/-- The peer's windows, one of them open to paddock 6 or to none. -/
def peerOpen (m : BitVec 7) (s : State) : State :=
  { s with link := { s.link with up := true },
           peerWindows := s.peerWindows.set 0 { v := true, r := true, w := true, a := true, pmask := m, base := 0, limit := 1024 },
           cores := [{ resetCore 3 with tag := 6 }] }
theorem test_peer_access :
    (match (peerOpen 64 (on [] id)).placeOf ((pq .clwb).line * 128) with | .ok .peerHbm => true | _ => false) = true ∧
    (let s := net [.req (pq (.write (2 ^ 47) 8 7 false false))] [] (peerOpen 64)
     windowPermits s.peerWindows.toList (s.core 3).tag (2 ^ 47) 1 && !s.link.retraining
       && serves (.peerAccess 0) s 0 (s.mem.writeN (2 ^ 47) 7 8) [.done 3 (2 ^ 47 / 128)] (fun _ => true)) = true ∧
    (let s := net [.req (pq (.write (2 ^ 47) 8 7 false false))] [] (peerOpen 0)
     serves (.peerAccess 0) s 0 s.mem [.refusal 3 (2 ^ 47)] (fun _ => !windowPermits s.peerWindows.toList (s.core 3).tag (2 ^ 47) 1)) = true ∧
    (let s := net [.req (pq (.read false false false false))] [] id
     serves (.peerAccess 0) s 0 s.mem [.fill 3 (2 ^ 47 / 128) 0 false false false false (some (.access .linkAbsent))] (fun _ => !s.link.up)) = true := by
  decide +kernel
/-- A T copy of line 0x400, all zero. -/
def copy : CLine := { line := 0x400, st := .t, data := 0, unread := 0 }
/-- A card whose core k has something in it. -/
def other (k : Nat) (f : Core → Core) (s : State) : State := { s with cores := [f (resetCore k)] }
/-- Core 3 with a line in its cache. -/
def has (l : CLine) (c : Core) : Core := { c with cache := [l] }
theorem test_fill_arrival : let s := net [.fill 3 0x400 7 true false false false none] [dl .n [3] none] (other 3 fun c => { c with asked := [(0x400, false)] })
    arrivedAt s 0 = true ∧ (0x400, false) ∈ (s.core 3).asked ∧ (s.core 3).hasWay 0x400 = true ∧
    ((after (.fillArrival 0) s).core 3).fills = [{ line := 0x400, acq := false, data := 7, fresh := false, fault := none }] ∧
    ((after (.fillArrival 0) s).core 3).lineOf 0x400 = some { line := 0x400, st := .t, data := 7, unread := 0 } := by decide +kernel
/-- R209, R211: merged and acknowledged, or dropped at the fourth unread update. -/
theorem test_update : let u : Pkt := .update 3 0x400 0x20000 1 9
    let s := net [u] [dl .n [3] none] (other 3 (has copy))
    fillComing (s.took 0) 3 0x400 = false ∧
    serves (.sharerUpdate 0) s 0 s.mem [.ack 3 0x400 false]
      (fun t => (t.core 3).lineOf 0x400 == some { line := 0x400, st := .h, data := 9, unread := 1 }) = true ∧
    serves (.sharerUpdate 0) (net [u] [dl .n [3] none] (other 3 (has { copy with unread := 3 }))) 0 s.mem [.ack 3 0x400 true]
      (fun t => (t.core 3).lineOf 0x400 == none) = true := by decide +kernel
/-- R208: the last acknowledgement places the write, commits and tells the writer. -/
theorem test_update_ack : let r : Round := { waiting := [3, 5], pa := 0x20000, n := 1, v := 9, writer := some 2 }
    let s := net [.ack 3 0x400 false] [dl .n [3, 5] (some r)] id
    serves (.updateAck 0) s 0 [] [] (fun u => dirIs u fun e => e.round == some { r with waiting := [5] } && e.sharers == [3, 5]) = true ∧
    serves (.updateAck 0) (net [.ack 3 0x400 true] [dl .n [3, 5] (some { r with waiting := [3] })] id) 0 [(0x20000, 9)]
      [.commit 5 0x400, .done 2 0x400] (fun u => dirIs u fun e => e.round == none && e.sharers == [5]) = true ∧
    serves (.updateAck 0) (net [.ack 3 0x400 false] [dl .n [3] (some { r with waiting := [3], writer := none, amo := some (2, 4) })] id) 0 [(0x20000, 9)]
      [.commit 3 0x400, .amoReply 2 0x400 4 none] (fun _ => true) = true := by decide +kernel
theorem test_commit_and_done :
    (let s := net [.commit 3 0x400] [] (other 3 (has { copy with st := .h }))
     serves (.roundCommit 0) s 0 s.mem [] (fun u => (u.core 3).lineOf 0x400 == some { copy with commit := some 0 })) = true ∧
    (let s := net [.done 3 0x400] [] (other 3 fun c => { c with undone := [0x400, 5] })
     serves (.storeDone 0) s 0 s.mem [] (fun u => (u.core 3).undone == [5])) = true ∧
    (let s := net [.evict 3 0x400] [dl .n [3, 5] none] id
     serves (.evictionNotice 0) s 0 s.mem [] (fun u => dirIs u fun e => e.sharers == [5])) = true := by decide +kernel
theorem test_recalls :
    (let s := net [.recall 3 0x400] [] (other 3 (has copy))
     !fillComing (s.took 0) 3 0x400 && serves (.recall 0) s 0 s.mem [.ack 3 0x400 true] (fun u => (u.core 3).lineOf 0x400 == none)) = true ∧
    (let s := net [.grecall 3 0x400] [] (other 3 (has { copy with st := .g .addW, data := 5 }))
     serves (.gRecall 0) s 0 s.mem [.gcopy 3 0x400 .addW 5] (fun u => (u.core 3).lineOf 0x400 == none)) = true ∧
    (let s := net [.gcopy 3 0x400 .addW 5] [dl (.g [3] true) [] none] fun s => { s with mem := [(0x20000, 2)] }
     serves (.gatheredCopy 0) s 0 [(0x20000, 7)] [] (fun u => dirIs u fun e => e.st == .n && e.sharers == [])) = true ∧
    (let s := net [.way 3 0x400] [dl (.g [3, 5] false) [] none] id
     serves (.wayRequest 0) s 0 s.mem [.grecall 3 0x400, .grecall 5 0x400] (fun u => dirIs u fun e => e.st == .g [3, 5] true)) = true := by
  decide +kernel
theorem test_replies :
    (let s := net [.amoReply 3 0x400 7 none] [] (other 3 fun c => { c with pend := .sent 0x20000 })
     serves (.amoReply 0) s 0 s.mem [] (fun u => (u.core 3).pend == .reply 0x20000 7)) = true ∧
    (let s := net [.amoReply 3 0x400 7 (some .memory)] [] (other 3 fun c => { c with pend := .sent 0x20000 })
     serves (.amoReply 0) s 0 s.mem [] (fun u => (u.core 3).pend == .fault .memory)) = true ∧
    (let s := net [.refusal 3 0x20000] [] (other 3 fun c => { c with undone := [0x400] })
     serves (.postedRefusal 0) s 0 s.mem [] (fun u => (u.core 3).asyncs == [.posted 0x20000] && (u.core 3).undone == [])) = true := by
  decide +kernel

theorem test_mark_table : ((after (.markTableClear 3) (other 3 (fun c => { c with marks := [1, 2] }) (on [] id))).core 3).marks = [] := by decide +kernel
theorem test_u_line_age : let s := other 3 (has { copy with st := .u }) (on [] id)
    (s.core 3).holdsU 0x400 = true ∧ ((after (.uLineAgeExpiry 3 0x400) s).core 3).cache = [] := by decide +kernel
/-- R224: a new frame. -/
theorem test_carry : let s := other 3 (fun c => { c with carry := (Vector.replicate 4 (0 : BitVec 960)).set 0 5 }) (on [] id)
    ((after (.carryFrameShift 3) s).core 3).carry[(1 : Fin 4)] = 5 ∧ ((after (.carryFrameShift 3) s).core 3).carry[(0 : Fin 4)] = 0 ∧
    ((after (.carryFrameShift 3) s).core 3).cycFrame = 1 := by decide +kernel
theorem test_promotions : let s := net [rq .clwb, .fill 3 0x400 7 true false false false none] [] id
    (s.net.all fun f => !s.travels f) = true ∧ ((after (.requestPromotion 0) s).net.map (·.promoted)) = [true, false] ∧ ((after (.sharedPointPromotion 1) s).net.map (·.promoted)) = [false, true] ∧
    ((after (.escapeChannelMove 1) s).net.map (·.escape)) = [false, true] := by decide +kernel
/-- R307: a read that waits for a locked line. -/
theorem test_access_lock_timeout : let s := net [rq (.read false false false false)] [dl (.k (some (who 5)) (some (who 5)) false none false) [] none] id
    s.kOf 0x400 = some (some (who 5), some (who 5), false, none, false) ∧ (s.core 5).run ≠ .debugHalted ∧
    (s.net.all fun f => !s.travels f) = true ∧ (after (.accessLockTimeout 0) s).pkts = [.fill 3 0x400 0 false false false false (some (.access .lockTimeout))] := by decide +kernel
/-- R387, R399, R446: the pending asynchronous traps. -/
theorem test_async_traps : let s (a : Async) := on [] fun c => { c with asyncs := [a] }
    dueAsync (s (.posted 0x80)).me = some (.posted 0x80) ∧ dueAsync (s (.fenceOff 5 9)).me = some (.fenceOff 5 9) ∧ dueAsync (s .overflow).me = some .overflow ∧
    trapOf (after (.machineCheckPosted 0) (s (.posted 0x80))) = (0x11, 4, true) ∧ (after (.machineCheckPosted 0) (s (.posted 0x80))).me.eva = 0x80 ∧
    trapOf (after (.machineCheckFenceOff 0) (s (.fenceOff 5 9))) = (0x11, 3, true) ∧ (after (.machineCheckFenceOff 0) (s (.fenceOff 5 9))).me.erow = 9 ∧
    trapOf (after (.mailboxOverflow 0) (s .overflow)) = (0x10, 0, true) ∧ (after (.mailboxOverflow 0) (s .overflow)).me.asyncs = [] := by decide +kernel

/-! ### Events: engines, translations, interfaces -/

/-- A copy of core 0 of two lines to 0x2_0400, in some state. -/
def job (f : Job → Job) (s : State) : State :=
  { s with jobs := [f { id := 7, core := 0, launch := 1, rx := 0, ry := 0, fill := false, src := [(0x20000, 256)], dst := [(0x20400, 256)],
                        pattern := 0, len := 256, slot := 4, scope := .dev, unmarked := [], unwritten := [0x408, 0x409], after := [], saved := [],
                        brand := 0, status := 0, asid := 1, va := 0x20400 }] }
/-- A resident line by its number. -/
def dlAt (l : Nat) : DirLine := { dl .n [] none with line := l, home := (on [] id).homeOf l }
theorem test_copy_mark : let s := job (fun j => { j with unmarked := [0x408, 0x409] }) { on [] id with dir := [dlAt 0x408] }
    s.dirOf 0x408 = some (dlAt 0x408) ∧ setBlocked s 0x408 = false ∧ setParked s 0x408 = false ∧ bankHeld s 0x408 = false ∧
    olderWrites s 0 7 0x408 = false ∧ olderReads s 0 7 0x408 = false ∧ ((after (.copyMark 7) s).dirOf 0x408).map (·.st) = some (.e 7 false) ∧
    ((after (.copyMark 7) s).jobOf 7).map (·.unmarked) = some [0x409] := by decide +kernel
/-- R252: the second line is written from the source, whose lines are ready. -/
theorem test_copy_write : let s := job id { on [] id with dir := [{ dlAt 0x408 with st := .e 7 false }, { dlAt 0x409 with st := .e 7 false }, dlAt 0x401], mem := [(0x20080, 5)] }
    (s.jobOf 7).all (fun (j : Job) => isLocal s 0x409 && !j.meetsPoison s 0x409 && !needsLink s 0x409 && !(j.sourceLines 0x409).any (sourceLost s j)
      && (match sourcesReady j (j.sourceLines 0x409) s with
          | .ok s₁ _ => s₁.jobOf 7 == some j && (j.piecesOf 0x409).all (fun p => (match s₁.placeOf p.2.1 with | .ok .localHbm => true | _ => false))
          | _ => false)) = true ∧
    (after (.copyEngineWrite 7 0x409 false) s).mem = [(0x20080, 5), (0x20480, 5)] ∧
    ((after (.copyEngineWrite 7 0x409 false) s).jobOf 7).map (·.unwritten) = some [0x408] ∧
    ((after (.copyEngineWrite 7 0x409 true) s).jobOf 7).map (·.status) = some 1 := by decide +kernel
/-- R254: the completion word of a copy of 256 bytes. -/
theorem test_copy_completion : let s := job (fun j => { j with unwritten := [] }) (on [] id)
    (after (.copyCompletion 7) s).jobs = [] ∧
    (after (.copyCompletion 7) s).niPkts = [.msg 1 0 0 none { slot := 4, value := 256, sender := 0, scope := .dev, brand := some 0 } false] := by
  decide +kernel
/-- An all-reduce with its link up. -/
def reducing (f : Ared → Ared) (s : State) : State := { s with areds := [f ared], link := { s.link with up := true } }
theorem test_ared_match : ((after (.aredMatch 7 [(2 ^ 47, 256)] false) (reducing id (on [] id))).areds.map fun a => (a.matched, a.status)) = [(true, 0)] ∧
    ((after (.aredMatch 7 [(2 ^ 47, 128)] false) (reducing id (on [] id))).areds.map fun a => (a.matched, a.status)) = [(true, 3)] := by decide +kernel
/-- R256: an incoming 1.0 added to 2.0 at the buffer's second line, whose chunk goes to the peer as it was; the sum stands in both buffers. -/
theorem test_ared_chunk : let s := reducing (fun a => { a with matched := true, peer := [(2 ^ 47, 256)] }) {
      on [] id with dir := [dlAt 0x401], mem := Memory.writeN [] 0x20080 0x40000000 4 }
    s.dirOf 0x401 = some (dlAt 0x401) ∧ setBlocked s 0x401 = false ∧ setParked s 0x401 = false ∧ bankHeld s 0x401 = false ∧
    olderWrites s 0 7 0x401 = false ∧ olderReads s 0 7 0x401 = false ∧ s.badWords = [] ∧ s.lineCut 0x401 = false ∧ (rangeLines ared.buf)[1]? = some 0x401 ∧
    (after (.aredChunk 7 1 0x3F800000) s).pkts =
      [.req { core := 1028, line := 0x401, req := .write 0x20080 128 0x40400000 false false }] ∧
    (after (.aredChunk 7 1 0x3F800000) s).mem.readN (2 ^ 47 + 128) 128 = 0x40400000 ∧
    (after (.aredChunk 7 1 0x3F800000) s).out = [.aredChunk 3 1 0x40000000] ∧
    ((after (.aredChunk 7 1 0x3F800000) s).areds.map (·.left)) = [[0x400]] := by decide +kernel
theorem test_ared_completion : let s := reducing (fun a => { a with matched := true, left := [] }) (on [] id)
    (s.areds.all fun a => !a.bad && (rangeLines a.buf).all fun l => !engineOpen s l) = true ∧
    (after (.aredCompletion 7) s).niPkts =
      [.msg 1 0 0 none { slot := 2, value := 0x0200030000000100, sender := 0, scope := .sys, brand := some 0 } false] := by decide +kernel
/-- R192: a store to the buffer during the operation leaves both buffers undefined. -/
theorem test_ared_store : (((reducing id (on [] id)).placeBy (some 3) 0x20010 1 0).areds.map (·.bad)) = [true] ∧
    (((reducing id (on [] id)).placeBy (some 1028) 0x20010 1 0).areds.map (·.bad)) = [false] := by decide +kernel
/-- R243, R244, R326: what the retention master and the dispatcher answer to core 3 of paddock 6. -/
def asks (f : Core → Core) (q : CtlReq) : State :=
  { other 3 (fun c => f { c with pend := .sent ctlMark, paddock := 6, status := 1 }) (on [] id) with ctl := [q] }
theorem test_retention : let s := asks id (.retain 3 1 32 64 4)
    ((after (.retentionRequest 0) s).core 3).pend = .reply ctlMark 0 ∧
    ((after (.retentionRequest 0) s).pad 6).retained = [(0, { asid := 1, base := 32, limit := 64, ways := 4 })] ∧
    ((after (.retentionRequest 0) { asks id (.retain 3 1 40 48 1) with pads := (after (.retentionRequest 0) s).pads }).core 3).pend =
      .reply ctlMark (BitVec.ofInt 64 (-3)) ∧
    ((after (.retentionRequest 0) { asks id (.unpin 3 1 0 true) with pads := (after (.retentionRequest 0) s).pads }).pad 6).retained = [] := by decide +kernel
theorem test_lnch : let s := asks id (.lnch 3 6 2 9)
    ((after (.lnchRequest 0) s).core 3).pend = .reply ctlMark 0 ∧ (((after (.lnchRequest 0) s).pad 6).queues[(2 : Fin 16)]).recs = [(0, 0, 9)] ∧
    (s.pad 6).active = true ∧ (s.core 3).level ≠ 0 := by decide +kernel

/-- A request of core 3 of paddock 6 for page 0x2_0000, at its slice or in a walker. -/
def xasks (walking : Bool) (f : State → State) : State :=
  f { other 3 (fun c => { c with paddock := 6 }) (on [] id) with
        xreqs := [{ core := 3, asid := 1, va := 0x20008, acc := .read, user := true, walking := walking }] }
/-- The set's slices hold the data page. -/
def cached (x : Xlat) (s : State) : State := s.onPad 6 fun p => { p with stc := [(stcSlice p x.asid x.va, stcSet x x.va, x)] }
/-- The ASID's words in the cache of the slice that takes a miss for its page (R358, R359). -/
def named (w0 : Word) (s : State) : State := s.onPad 6 fun p => { p with asidCache := [(stcSlice p 1 0x20008, 1, w0, 0)] }
/-- The set's ASID table at 0x10_0000, with an entry for ASID 1 (R353). -/
def listed (w0 : Word) (s : State) : State :=
  { s.onPad 6 fun p => { p with asidtb := 0x100001 } with
    mem := s.mem.writeN 0x100010 w0.toNat 8, dir := { dlAt 0x2000 with line := 0x2000 } :: s.dir }
theorem test_stc : let s := xasks false (cached dataPage)
    (s.pad 6).stcHit 1 0x20008 = some dataPage ∧ dataPage.permits .read true = true ∧
    ((after (.stcRequest 0) s).core 3).ctc.head? = some dataPage ∧
    ((after (.stcRequest 0) (xasks false (cached { dataPage with u := false }))).core 3).xfault = some (32, .permission) ∧
    ((after (.stcRequest 0) (xasks false id)).xreqs.map (·.walking)) = [true] := by decide +kernel
/-- Tables that map page 0x2_0000 of ASID 1: the root at 0x40_0000, one entry in each level's line (R354, R355). -/
def tables (leaf : Nat) (s : State) : State :=
  let line (a : Nat) : DirLine := { dlAt (a / 128) with line := a / 128 }
  { s with mem := (((Memory.writeN [] 0x400000 0x401001 8).writeN 0x401000 0x402001 8).writeN 0x402000 0x403001 8).writeN 0x403100 leaf 8,
           dir := [line 0x400000, line 0x401000, line 0x402000, line 0x403100], pads := (named 0x8000000000000400 s).pads }
/-- R354, R356: a leaf of 4 KiB at 0x2_0000 with R, W and U; an absent one; one with a reserved bit. -/
theorem test_walk : ((after (.walkComplete 0) (xasks true (tables 0x2002F))).core 3).ctc.head? =
      some { asid := 1, va := 0x20000, size := 4096, pa := 0x20000, r := true, w := true, x := false, u := true, dx := false, host := false } ∧
    ((after (.walkComplete 0) (xasks true (tables 0))).core 3).xfault = some (32, .notPresent) ∧
    ((after (.walkComplete 0) (xasks true (tables 0x2042F))).core 3).xfault = some (32, .format) := by decide +kernel
/-- The levels of the walk: the root's entry leads on, the leaf's answers. -/
theorem test_meets_walk : let s := xasks true (tables 0x2002F)
    s.dirOf (0x400000 / 128) = some (dlAt (0x400000 / 128)) ∧ s.dirOf (0x403100 / 128) = some (dlAt (0x403100 / 128)) ∧
    setBlocked s (0x400000 / 128) = false ∧ setParked s (0x400000 / 128) = false ∧ bankHeld s (0x400000 / 128) = false ∧
    (s.pad 6).stackMask.getLsbD (stackOf 0x400000) = true ∧ s.mem.readN (0x400000 + 8 * (0x20008 / 2 ^ 39 % 512)) 8 = 0x401001 ∧
    s.mem.readN (0x403000 + 8 * (0x20008 / 2 ^ 12 % 512)) 8 = 0x2002F ∧ reservedEntry 0x2002F = false ∧ reservedEntry 0x2042F = true ∧
    leafFormat false (leafXlat 1 0x20008 0x2002F 4096) = false ∧
    (match walk { s with xreqs := [] } 6 1 0x20008 with | .ok _ (.ok (_, x)) => !x.host && x.permits .read true | _ => false) = true ∧
    (match walk { xasks true (tables 0) with xreqs := [] } 6 1 0x20008 with | .ok _ (.error .notPresent) => true | _ => false) = true := by
  decide +kernel
/-- A wait of core 3 for the host's answer. -/
def waits (stage : Nat) (f : State → State) : State :=
  let a : AtsWait := { core := 3, asid := 1, va := 0x20000, acc := .read, pset := 6, pasid := 9, stage := stage, index := 4, gen := 0,
                       leaf := { dataPage with host := true } }
  f { (xasks false id).onCore 3 (fun c => { c with launch := some 1 }) with xreqs := [], ats := [a] }
/-- R363, R364: granted; a page request is opened; the second fault is HOST-DENIED. -/
theorem test_ats : ((after (.atsCompletion 0 (.granted 0x5000 true true)) (waits 0 id)).core 3).ctc.map (·.pa) = [2 ^ 46 + 0x5000] ∧
    ((after (.atsCompletion 0 .fault) (waits 0 id)).ats.map (·.stage)) = [1] ∧
    ((after (.atsCompletion 0 .fault) (waits 2 id)).core 3).xfault = some (32, .hostDenied) ∧
    ((after (.atsCompletion 0 .fault) (waits 0 fun s => s.onPad 6 fun p => { p with priStopped := true })).core 3).xfault = some (32, .hostDenied) := by
  decide +kernel
theorem test_pri : ((after (.priResponse 6 5 9 .success) (waits 1 id)).pad 6).priStray = 1 ∧ (waits 1 id).ats.all (fun a => !(waits 1 id).deadWait a) = true ∧
    ((after (.priResponse 6 4 9 .success) (waits 1 id)).ats.map (·.stage)) = [2] ∧
    ((after (.priResponse 6 4 9 .invalid) (waits 1 id)).core 3).xfault ≠ none ∧ (after (.priResponse 6 4 9 .invalid) (waits 1 id)).ats = [] ∧
    ((after (.priResponse 6 4 9 .failure) (waits 1 id)).pad 6).priStopped = true := by decide +kernel
/-- R366: no ASID carries the PASID; one does, whose page goes. -/
theorem test_ats_invalidation :
    (after (.atsInvalidation 7 9 0x20000 4096) (on [] id)).out = [.invalidationDone 7 9] ∧
    (let s := listed 0x8000240000000400 (cached dataPage (on [] id))
     (match pasidAsids 6 9 (namedAsids s 6) s with
       | .ok t l => l == [1] && (removeEverywhere t 6 (.range 1 0x20000 0x21000)).isSome | _ => false) = true ∧
     (match pasidAsids 6 9 (namedAsids (on [] id) 6) (on [] id) with | .ok _ l => l == [] | _ => false) = true ∧ (after (.atsInvalidation 7 9 0x20000 4096) s).out = [.invalidationDone 7 9] ∧
     ((after (.atsInvalidation 7 9 0x20000 4096) s).pad 6).stc = []) := by
  decide +kernel
theorem test_removals : let s (target : Nat) : State := { cached dataPage (other 3 (fun c => { c with ctc := [dataPage] }) (on [] id)) with
      ctl := [.removal 0 6 (.asid 1) target] }
    .removal 0 6 (.asid 1) 1027 ∉ (s 3).ctl ∧ heldXlat (s 3) 3 (.asid 1) = false ∧ engineUses (s 3) 6 (.asid 1) = false ∧ ((after (.xlatiRemoval 0) (s 3)).core 3).ctc = [] ∧
    (after (.xlatiRemoval 0) (s 3)).ctl = [] ∧ ((after (.xlatiRemoval 0) (s 1027)).pad 6).stc = [] := by decide +kernel
/-- R371: a closed port. -/
theorem test_boundary : let s := net [rq (.write 0x20000 8 1 false false)] [] fun s => { s with cores := [{ resetCore 3 with tag := 6 }, { resetCore 16 with bport := 8 }] }
    (s.core 3).tag ≠ 7 ∧ bitAt (s.core (s.coreNo 16)).bport 3 = true ∧
    serves (.boundaryDrop 0 16 3) s 0 s.mem [.refusal 3 0x20000] (fun _ => true) = true := by decide +kernel

/-- A launch of two cells side by side, cores 0 and 1, and NI packets on their way. -/
def pair (ps : List NiPkt) (f0 f1 : Core → Core) : State :=
  let two : List Machine.Stream := (waitingStreams 2 1).map fun t => { t with st := .live, core := t.rx }
  { on [] f0 with ni := ps.zipIdx.map (fun p => { pkt := p.1, seq := p.2 }), stamp := ps.length, launches := [{ programLaunch with record := BitVec.ofNat 256 (2 ^ 188), streams := two }],
                  cores := [f1 { resetCore 1 with run := .running, launch := some 1, rx := 1, paddock := 6 }] }
/-- A message of core 0 to slot 3. -/
def note : Msg := { slot := 3, value := 9, sender := 0, scope := .core, brand := none }
/-- The named stream is live on core k, whose set logs nothing, and nothing older is held back. -/
def live (s : State) (rx k : Nat) : Bool :=
  (match s.launchOf 1 with | some l => l.st != .killed && ((l.stream rx 0).any fun t => t.st == .live && !t.leaving && t.core == k && t.late.isEmpty) | none => false)
  && (match s.ni[0]? with | some f => !s.mustWait (f.ends s) f.seq 0 && !s.shutOut (f.pkt.injector s) f.seq | none => false)
  && !heldBack (s.ni.take 0) 1 rx 0 0 && !(s.core k).lofting && (s.pad (s.core k).paddock).rrMode == 0
theorem test_message_arrival : let s := pair [.msg 1 1 0 (some 0) note false] (fun c => { c with others := 1 }) id
    live s 1 1 = true ∧ loftHas s (s.core 1) false = false ∧ (s.core 1).slotEmpty 3 = true ∧
    (((after (.messageArrival 0) s).core 1).mbox[(3 : MReg)]) = { value := 9, present := true, scope := .core, brand := none } ∧
    (after (.messageArrival 0) s).niPkts = [] ∧ ((after (.messageArrival 0) s).core 0).others = 0 := by decide +kernel
theorem test_message_queue : let s := pair [.msg 1 1 0 none note false] id mail
    (s.core 1).slotEmpty 3 = false ∧ ((after (.messageArrival 0) s).core 1).arrivals = [note] ∧
    ((after (.sendRetry 0) (pair [.msg 1 1 0 none note true] id id)).core 1).arrivals = [] ∧
    (((after (.sendRetry 0) (pair [.msg 1 1 0 none note true] id id)).core 1).mbox[(3 : MReg)]).present = true := by decide +kernel
/-- A core with slot 3 taken, 64 arrivals and a loft that is full. -/
def full (c : Core) : Core :=
  { mail c with arrivals := List.replicate 64 note, loftSize := 2,
                loft := [{ task := false, place := 0, len := 2048, gone := false, owner := 0, seq := 0, restarted := false, snapLen := 0, snap := 0 }] }
/-- R249: no slot, no queue and no loft left: refused. -/
theorem test_message_refused : let s := pair [.msg 1 1 0 none note false] id full
    (s.core 1).slotEmpty 3 = false ∧ (s.core 1).arrivals.length = 64 ∧ (s.core 1).loftFree < (msgRecord note).1 ∧
    (after (.messageArrival 0) s).niPkts = [.msg 1 1 0 none note true] := by decide +kernel
theorem test_task_arrival : let s := pair [.task 1 1 0 none task1 false] id id
    live s 1 1 = true ∧ loftHas s (s.core 1) true = false ∧ ((after (.taskArrival 0) s).core 1).taskQueue = [{ task1 with owner := 1, seq := 0, numbered := true }] ∧
    ((after (.taskArrival 0) s).core 1).openTasks = [0] ∧ ((after (.taskArrival 0) s).core 1).taskSeq = 1 := by decide +kernel
/-- R287: stream (0, 0) asks the core of stream (1, 0), which has a task, and a member of the group that the launch does not have. -/
theorem test_steal : let g : Group := { gw := 4, gh := 1, gx := 0, gy := 0 }
    let t : Task := { task1 with owner := 1 }
    let s := pair [.steal 1 0 0 g 1] id fun c => { c with taskQueue := [t] }
    victimOf s 1 0 0 g 1 = some 1 ∧ (s.core 1).taskQueue.getLast? = some t ∧ t.barf = false ∧ ((after (.stealRequest 0) s).core 1).taskQueue = [] ∧
    (after (.stealRequest 0) s).niPkts = [.stealReply 1 0 0 g 1 (some t)] ∧ victimOf s 1 0 0 g 2 = none ∧
    (after (.stealRequest 0) (pair [.steal 1 0 0 g 2] id id)).niPkts = [.stealReply 1 0 0 g 2 none] := by decide +kernel
theorem test_steal_reply : let g : Group := { gw := 2, gh := 1, gx := 0, gy := 0 }
    let asking (c : Core) : Core := { c with res := .waiting, search := some (1, g) }
    (after (.stealReply 0) (pair [.stealReply 1 0 0 g 1 (some task1)] asking id)).me.granted = some task1 ∧
    (after (.stealReply 0) (pair [.stealReply 1 0 0 g 1 none] asking id)).me.search = some (2, g) ∧
    (after (.stealReply 0) (pair [.stealReply 1 0 0 g 1 none] asking id)).me.nFailed = 1 := by decide +kernel
theorem test_task_report : let s := pair [.report 0 1 5 1] (fun c => { c with others := 1 }) fun c => { c with openTasks := [4, 5] }
    ((after (.taskCompletionReport 0) s).core 1).openTasks = [4] ∧ (after (.taskCompletionReport 0) s).me.others = 0 := by decide +kernel
/-- A contribution of a member of the pair. -/
def part (rx v : Nat) : Contribution :=
  { launch := 1, group := { gw := 2, gh := 1, gx := 0, gy := 0 }, episode := 0, rx := rx, ry := 0, op := .addI, value := BitVec.ofNat 64 v, slot := 3 }
/-- R282, R283: the sum of 5 and 6 comes to both members. -/
theorem test_episode : (after (.episodeContribution 0) (pair [.contrib 0 (part 0 5)] id id)).contribs = [part 0 5] ∧
    (let t := after (.episodeContribution 0) { pair [.contrib 1 (part 1 6)] id id with contribs := [part 0 5] }
     t.contribs = [] ∧ t.niPkts.map (fun p => match p with | .msg _ rx _ _ m _ => (rx, m.value, m.slot) | _ => (9, 0, 0)) = [(0, 11, 3), (1, 11, 3)]) := by
  decide +kernel
/-- R247, R248: a message that found the queue full, moved out of the loft once there is room; and a task. -/
theorem test_loft_move :
    let s := after (.messageArrival 0) (pair [.msg 1 1 0 none note false] id fun c => { mail c with arrivals := List.replicate 64 note })
    let s := (s.onCore 1 fun c => { c with arrivals := [], mbox := Vector.replicate 32 { value := 1, present := true, scope := .core, brand := none } })
    let r := (heldRecords (s.core 1)).find? (fun r => loftIsTask s (s.core 1) r == false)
    r.isSome = true ∧ (r.all fun x => (loftBad s (s.core 1) x).isEmpty) = true ∧ (match r.map (loftDecode s (s.core 1)) with | some (.inl m) => m == note | _ => false) = true ∧
    ((after (.loftMove 1 false) s).core 1).arrivals = [note] := by decide +kernel
theorem test_loft_move_task :
    let s := after (.taskArrival 0) (pair [.task 1 1 0 none task1 false] id fun c => { c with taskQueue := List.replicate 64 task1 })
    let s := s.onCore 1 fun c => { c with taskQueue := [] }
    let r := (heldRecords (s.core 1)).find? (fun r => loftIsTask s (s.core 1) r == true)
    (r.all fun x => (loftBad s (s.core 1) x).isEmpty) = true ∧ (match r.map (loftDecode s (s.core 1)) with | some (.inr t) => t.record == task1.record | _ => false) = true ∧
    ((after (.loftMove 1 true) s).core 1).taskQueue.length = 1 := by decide +kernel

/-! ### Events: dispatchers and sets -/

/-- A queue entry with record r at the head of queue 2 of set 6. -/
def queued (r : LaunchRec) (s : State) : State :=
  s.onPad 6 fun p => { p with queues := p.queues.set 2 { resetQueue with recs := [(0, 0, r)], nextSeq := 1 } }
/-- R269: three words are staged, the fourth enters the record; a full queue drops it. -/
theorem test_qport : barLive (on [] id) 6 = true ∧ (((after (.qportWrite 6 2 8 5) (on [] id)).pad 6).queues[(2 : Fin 16)]).staged = BitVec.ofNat 256 (5 * 2 ^ 64) ∧
    (((after (.qportWrite 6 2 24 5) (on [] id)).pad 6).queues[(2 : Fin 16)]).recs = [(0, 0, BitVec.ofNat 256 (5 * 2 ^ 192))] ∧
    ([0, 8, 16, 24].all fun off => (((after (.qportWrite 6 2 off 5) ((on [] id).onPad 6 fun p => { p with st := .stopped })).pad 6).queues[(2 : Fin 16)])
      == { ((on [] id).pad 6).queues[(2 : Fin 16)] with drop := true }) = true ∧
    (((on [] id).pad 6).queues[(2 : Fin 16)]).recs.length < 64 := by decide +kernel
/-- A record of one cell for ASID 1 with entry 0x1_0000. -/
def plain : LaunchRec := BitVec.ofNat 256 (0x10000 + 2 ^ 48 + 2 ^ 148)
theorem test_dispatch : let s := listed 0x8000000000000400 { queued plain (on [] id) with launches := [] }
    (match bestOf (candidates s 6) with | some (.head q _ _ r) => q == 2 && r == plain | _ => false) = true ∧ badRecord (s.pad 6) plain = false ∧
    (match asidEntry s 6 (recField plain 48 16) none with | .ok t (.ok _) => (t.pad 6).rrMode == 0 && (findOrigin t 6 plain 0 none).isSome | _ => false) = true ∧
    ((after (.dispatch 6) s).launches.map fun l => (l.queue, l.record == plain, l.st)) = [(2, true, .placed)] := by decide +kernel
theorem test_dispatch_invalid : let s := { queued 0 (on [] id) with launches := [] }
    badRecord (s.pad 6) 0 = true ∧ (((after (.dispatch 6) s).pad 6).queues[(2 : Fin 16)]).inval = true ∧
    (((after (.dispatch 6) s).pad 6).queues[(2 : Fin 16)]).recs = [] ∧ (((after (.dispatch 6) s).pad 6).queues[(2 : Fin 16)]).ends = 1 := by decide +kernel
/-- Launch 9 of that record on cell 5, with its one stream in some state. -/
def launched (st : LState) (stream : SState) (f : State → State) : State :=
  f { on [] id with launches := [{ programLaunch with id := 9, record := plain, st := st, ox := 5,
                                                      streams := (waitingStreams 1 1).map fun t => { t with st := stream, core := 5 } }] }
/-- R276, R35: the stream starts fresh at its entry. -/
theorem test_launch_start : let s := launched .placed .waiting (fun s => queued plain s)
    (s.launchOf 9).all (fun l => readyToStart s l && launchCore s l 0 0 == 5) = true ∧ ((after (.launchStart 9) s).core 5).run = .running ∧
    ((after (.launchStart 9) s).core 5).pc = 0x10000 ∧ ((after (.launchStart 9) s).core 5).reg 2 = 0 ∧ ((after (.launchStart 9) s).core 5).asid = 1 ∧
    ((after (.launchStart 9) s).launchOf 9).map (·.st) = some .running := by decide +kernel
/-- A live stream of launch 9 on core 5. -/
def onFive (f : Core → Core) (s : State) : State :=
  { s with cores := [f { resetCore 5 with run := .running, launch := some 9, paddock := 6, asid := 1 }] }
/-- Core 5 in RECVT with nothing to take. -/
def idle (c : Core) : Core := { c with res := .waiting, search := some (1, { gw := 1, gh := 1, gx := 0, gy := 0 }) }
/-- R292: two sweeps with equal sums and idle streams reach DONE. -/
theorem test_sweep : let s := launched .running .live (onFive idle)
    idleIn s (s.core 5) = true ∧ ((after (.sweep 9) s).launchOf 9).map (fun l => (l.swept, l.done)) = some (some (0, 0), false) ∧
    ((after (.sweep 9) (after (.sweep 9) s)).launchOf 9).map (·.done) = some true := by decide +kernel
/-- R280, R390: a launch whose streams have halted ends; KILL kills one that is placed. -/
theorem test_launch_end : let s := launched .running .halted fun s => queued 0 s
    (s.launchOf 9).all (fun l => (s.core 5).drained && !engineBusy s 9 && !tasksRemain s l) = true ∧ (after (.launchEnd 9) s).launches = [] ∧
    (((after (.launchEnd 9) s).pad 6).queues[(0 : Fin 16)]).ends = 1 ∧ (after (.launchEnd 9) s).net = [] := by decide +kernel
theorem test_kill : let s := launched .running .live (onFive id)
    s.launches.find? (fun m => m.pset == 6 && m.queue == 0 && m.seq.toNat == 0 && m.st != .killed) = s.launchOf 9 ∧ (0 : Word).getLsbD 63 = false ∧
    ((after (.kill 6 0) s).launchOf 9).all (·.st == .killed) = true := by decide +kernel
/-- R369, R375: a set stops once it is empty, is flushed, and runs again. -/
def set6 (f : Paddock → Paddock) : State := ({ on [] id with launches := [] } : State).onPad 6 f
theorem test_sets : ((after (.quiesce 6) (set6 id)).pad 6).st = .quiescing ∧ ((set6 id).pad 6).active = true ∧
    ((set6 id).pad 2).active = false ∧ ((after (.quiesce 2) (set6 id)).pad 2).st = .stopped ∧ (set6 id).dir = [] ∧
    ((after (.quiesceComplete 6) (set6 fun p => { p with st := .quiescing })).pad 6).st = .stopped ∧
    ((after (.quiesceLimit 6) (set6 fun p => { p with st := .quiescing })).pad 6).busy = true ∧
    ((after (.flush 6) (set6 fun p => { p with st := .stopped })).pad 6).flushing = true ∧
    ((after (.flushComplete 6) (set6 fun p => { p with st := .stopped, flushing := true })).pad 6).flushing = false ∧
    ((after (.paddockResume 6) (set6 fun p => { p with st := .stopped })).pad 6).st = .run ∧
    ((after (.prictlWrite 6 0) (set6 fun p => { p with priStopped := true })).pad 6).priEnable = false := by decide +kernel
/-- Tables that map the first gigabyte for the runtime, at 0x40_0000 of local HBM (R278). -/
def mapped (s : State) : State :=
  let line (a : Nat) : DirLine := { dlAt (a / 128) with line := a / 128 }
  { s with mem := (Memory.writeN [] 0x4000000 0x4001001 8).writeN 0x4001000 0xF 8, dir := [line 0x4000000, line 0x4001000],
           pads := (s.onPad 6 fun p => { p with asidCache := [(stcSlice p 1 0, 1, 0x8000000000004000, 0)] }).pads }
/-- R279: an arrival for a saved stream, whose frame's page is writable. -/
theorem test_late_ring : let s := launched .preempted .saved fun s => { mapped s with ni := [{ pkt := .msg 9 0 0 none note false, seq := 0 }], stamp := 1 }
    (s.launchOf 9).any (fun l => (l.stream 0 0).any fun t =>
      (frameWrite { s with ni := s.ni.eraseIdx 0 } l (latePlace l t) (msgRecord note).1 (msgRecord note).2).isSome) = true ∧
    (match s.ni[0]? with | some f => !s.mustWait (f.ends s) f.seq 0 && !s.shutOut (f.pkt.injector s) f.seq | none => false) = true ∧
    ((after (.lateRingAppend 0) s).launchOf 9).bind (fun l => (l.stream 0 0).map (·.late)) = some [.inl note] ∧ (after (.lateRingAppend 0) s).niPkts = [] := by
  decide +kernel
/-- A state whose memory traffic is all on its way. -/
def quiet (s : State) (N : List InFlight) (k : Nat) : State := { s with net := N, stamp := k }
theorem readyAtHome_quiet {s : State} {N : List InFlight} {k line : Nat} {d : DirLine} (hn : ∀ f ∈ N, f.stage = .transit) (hl : s.lockNet = [])
    (hb : setBlocked s line = false) (hd : s.dirOf line = some d) (hr : d.round = none) (hs : d.st = .n) :
    (quiet s N k).readyAtHome line = .ok (quiet (s.hitDir line false) N k) () := by
  have h1 : setParked (quiet s N k) line = false := by
    simp only [setParked, quiet, hl, List.any_nil, Bool.or_false, List.any_eq_false]
    intro f hf; simp [hn f hf]
  have h2 : bankHeld (quiet s N k) line = false := by
    simp only [bankHeld, quiet, hl, List.any_nil, Bool.or_false, List.any_eq_false]
    intro f hf; simp [hn f hf]
  have h3 : setBlocked (quiet s N k) line = false := hb
  have h4 : (quiet s N k).dirOf line = some d := hd
  have h5 : (quiet s N k).hitDir line false = quiet (s.hitDir line false) N k := by
    unfold State.hitDir
    rw [h4, hd]; rfl
  unfold State.readyAtHome
  simp only [h1, h2, h3, h4, hr, hs, h5]
  rfl
theorem hitDir_mem (s : State) (line : Nat) (ef : Bool) : (s.hitDir line ef).mem = s.mem := by
  unfold State.hitDir; split <;> rfl
theorem wordAtHome_quiet {s : State} {N : List InFlight} {k pa v : Nat} {d : DirLine} (hn : ∀ f ∈ N, f.stage = .transit) (hl : s.lockNet = [])
    (hb : setBlocked s (pa / 128) = false) (hd : s.dirOf (pa / 128) = some d) (hr : d.round = none) (hs : d.st = .n) (hv : s.mem.readN pa 8 = v) :
    (quiet s N k).wordAtHome pa = .ok (quiet (s.hitDir (pa / 128) false) N k) v := by
  unfold State.wordAtHome
  rw [readyAtHome_quiet hn hl hb hd hr hs]
  show Ans.ok _ ((s.hitDir (pa / 128) false).mem.readN pa 8) = _
  rw [hitDir_mem, hv]
/-- A table of the paddock's own HBM (R354). -/
def tableOk (s : State) (n t : Nat) : Bool :=
  t / 2 ^ 47 == s.link.card && t / 2 ^ 45 % 4 == 0 && t % 2 ^ 45 < 0x3000000000 && (s.pad n).stackMask.getLsbD (stackOf t)
theorem walkLevels_table {s u : State} {n asid va fuel level t e : Nat} {svm : Bool} (ht : tableOk s n t = true)
    (hw : s.wordAtHome (t + 8 * (va / 2 ^ (39 - 9 * level) % 512)) = .ok u e) (h0 : bitAt e 0 = true) (hr : reservedEntry e = false)
    (h1 : bitAt e 1 = false) (hl : (level == 3) = false) :
    walkLevels n asid va svm (fuel + 1) level t s = walkLevels n asid va svm fuel (level + 1) (e / 2 ^ 12 % 2 ^ 36 * 2 ^ 12) u := by
  unfold tableOk at ht
  simp only [walkLevels, ht, hw, Ans.bind, h0, hr, h1, hl, Bool.not_true, Bool.not_false, Bool.false_eq_true, if_false, if_true]
theorem walkLevels_leaf {s u : State} {n asid va fuel level t e size : Nat} {svm : Bool} (ht : tableOk s n t = true)
    (hw : s.wordAtHome (t + 8 * (va / 2 ^ (39 - 9 * level) % 512)) = .ok u e) (h0 : bitAt e 0 = true) (hr : reservedEntry e = false)
    (h1 : bitAt e 1 = true) (hp : pageSize level (e / 2 ^ 8 % 4) = some (size, 1)) (hm : u.mem.readN (t + 8 * (va / 2 ^ (39 - 9 * level) % 512)) 8 = e)
    (hf : leafFormat svm (leafXlat asid va e size) = false) :
    walkLevels n asid va svm (fuel + 1) level t s = .ok u (.ok (leafXlat asid va e size)) := by
  have hs : (runEntries u.mem (t + 8 * (va / 2 ^ (39 - 9 * level) % 512 / 1 * 1)) 1).all (fun x => x == e) = true := by
    rw [Nat.div_one, Nat.mul_one]; simp [runEntries, hm, List.range_succ]
  unfold tableOk at ht
  simp only [walkLevels, ht, hw, Ans.bind, h0, hr, h1, hp, hs, hf, Bool.not_true, Bool.false_eq_true, if_false, if_true, Bool.or_self]
/-- A state of launch 9 that is saved. -/
def saving : State := launched .preempting .live fun s => mapped (onFive id s)
/-- The same once the two lines of its tables have been read. -/
def saving2 : State := (saving.hitDir 0x80000 false).hitDir 0x80020 false
/-- Its launch. -/
def launch9 : Launch := { programLaunch with id := 9, record := plain, st := .preempting, ox := 5,
                                             streams := (waitingStreams 1 1).map fun t => { t with st := .live, core := 5 } }
theorem leaf_format (b : Bool) (va : Nat) : leafFormat b (leafXlat 1 va 0xF (2 ^ 30)) = false := by
  have h1 : bitAt 0xF 2 = true := by decide
  have h2 : bitAt 0xF 6 = false := by decide
  have h3 : bitAt 0xF 5 = false := by decide
  simp [leafFormat, leafXlat, h1, h2, h3]
theorem frame_ok {N : List InFlight} {k va : Nat} (hn : ∀ f ∈ N, f.stage = .transit) (hv : va < 2 ^ 21) :
    walk (quiet saving N k) 6 1 va = .ok (quiet saving2 N k) (.ok (0x8000000000004000, leafXlat 1 va 0xF (2 ^ 30))) := by
  have m2 : saving2.mem.readN 0x4001000 8 = 0xF := by decide +kernel
  have e1 : va / 2 ^ 39 % 512 = 0 := by omega
  have e2 : va / 2 ^ 30 % 512 = 0 := by omega
  have e3 : stcSlice ((quiet saving N k).pad 6) 1 va = stcSlice (saving.pad 6) 1 0 := by
    unfold stcSlice
    have : va / 2 ^ 21 % 2 ^ 16 = 0 / 2 ^ 21 % 2 ^ 16 := by omega
    have : va / 2 ^ 37 % 2 ^ 11 = 0 / 2 ^ 37 % 2 ^ 11 := by omega
    simp only [*]; rfl
  have w1 := wordAtHome_quiet (s := saving) (k := k) (pa := 0x4000000) (v := 0x4001001) (d := saving.dir[0]) hn rfl
    (by decide +kernel) (by decide +kernel) (by decide +kernel) (by decide +kernel) (by decide +kernel)
  have w2 := wordAtHome_quiet (s := saving.hitDir 0x80000 false) (k := k) (pa := 0x4001000) (v := 0xF) (d := (saving.hitDir 0x80000 false).dir[1]) hn (by decide +kernel)
    (by decide +kernel) (by decide +kernel) (by decide +kernel) (by decide +kernel) (by decide +kernel)
  have ea : asidEntry (quiet saving N k) 6 1 (some (stcSlice (saving.pad 6) 1 0)) = .ok (quiet saving N k) (.ok (0x8000000000004000, 0)) := by rfl
  unfold walk
  rw [e3, ea]
  simp only [Ans.bind]
  rw [walkLevels_table (s := quiet saving N k) (e := 0x4001001) (show tableOk saving _ _ = true by decide +kernel) (by rw [e1]; exact w1) rfl rfl rfl rfl,
    walkLevels_leaf (s := quiet (saving.hitDir (0x4000000 / 128) false) N k) (e := 0xF) (size := 2 ^ 30) (show tableOk (saving.hitDir 0x80000 false) _ _ = true by decide +kernel) (by rw [e2]; exact w2) rfl rfl rfl rfl
      (by rw [e2]; exact m2) (leaf_format _ va)]
  rfl
/-- Where the page of an address below 2 MiB stands for the dispatcher. -/
def frameAt (s : State) (pa : Nat) : Bool :=
  match s.placeOf pa with
  | .ok .localHbm => (s.pad 6).stackMask.getLsbD (stackOf pa) && !absentDie s .localHbm (pa / 128)
  | _ => false
theorem framePa_saving {N : List InFlight} {k va : Nat} (hn : ∀ f ∈ N, f.stage = .transit) (hv : va < 2 ^ 21)
    (ha : frameAt saving2 va = true) : framePa (quiet saving N k) launch9 va = some va := by
  have hw := frame_ok (k := k) hn hv
  have hm : va % 2 ^ 48 = va := Nat.mod_eq_of_lt (by omega)
  have hz : (leafXlat 1 va 0xF (2 ^ 30)).pa + va % (leafXlat 1 va 0xF (2 ^ 30)).size = va := by
    show 0 + va % 2 ^ 30 = va
    omega
  have hp : (quiet saving2 N k).placeOf va = saving2.placeOf va := rfl
  have hd : ((quiet saving2 N k).pad 6).stackMask.getLsbD (stackOf va) = (saving2.pad 6).stackMask.getLsbD (stackOf va) := rfl
  have hq : absentDie (quiet saving2 N k) .localHbm (va / 128) = absentDie saving2 .localHbm (va / 128) := rfl
  have h6 : launch9.pset = 6 := rfl
  have hr : recField launch9.record 48 16 = 1 := by decide +kernel
  unfold framePa framePlace
  simp only [h6, hr, hm]
  rw [hw]
  simp only [Ans.bind, hz, hp]
  unfold frameAt at ha
  split at ha
  · rename_i h
    rw [h]
    simp only [hd, hq, ha]
    rfl
  · exact absurd ha (by decide)

theorem splitAt_mem {u a n : Nat} : ∀ {fuel done : Nat} {p : Nat × Nat × Nat}, p ∈ splitAt u a n fuel done → a ≤ p.1 ∧ p.1 < a + n
  | 0, _, _, h => by simp [splitAt] at h
  | fuel + 1, done, p, h => by
    unfold splitAt at h
    split at h
    · simp at h
    · rcases List.mem_cons.1 h with rfl | h
      · exact ⟨by simp, by simp; omega⟩
      · exact splitAt_mem h
/-- A write of a dispatcher in a lazy state only sends packets. -/
theorem dispatcherWrite_quiet {s : State} (hz : s.lazy = true) {N : List InFlight} {k : Nat} (hn : ∀ f ∈ N, f.stage = .transit) (n pa len v : Nat) :
    ∃ N' k', (quiet s N k).dispatcherWrite n pa len v = quiet s N' k' ∧ ∀ f ∈ N', f.stage = .transit := by
  unfold State.dispatcherWrite State.engineWriteAs
  generalize linePieces pa len = ps
  induction ps generalizing N k with
  | nil => exact ⟨N, k, rfl, hn⟩
  | cons p ps ih =>
    have h1 : ∀ r, (quiet s N k).request r = quiet s (N ++ [flightOf k (.req r)]) (k + 1) := by
      intro r
      show (if s.lazy then _ else _) = _
      rw [hz]; rfl
    rw [List.foldl_cons, h1]
    exact ih (by
      intro f hf
      rcases List.mem_append.1 hf with h | h
      · exact hn f h
      · rw [List.mem_singleton.1 h]; rfl)
theorem frameWrite_quiet {N : List InFlight} {k : Nat} (hn : ∀ f ∈ N, f.stage = .transit) {va n v : Nat}
    (hv : va + n ≤ 2 ^ 21) (ha : (splitAt 4096 va n (n / 4096 + 2) 0).all (fun p => frameAt saving2 p.1) = true) :
    ∃ N' k', frameWrite (quiet saving N k) launch9 va n v = some (quiet saving N' k') ∧ ∀ f ∈ N', f.stage = .transit := by
  unfold frameWrite
  have hm := fun p (h : p ∈ splitAt 4096 va n (n / 4096 + 2) 0) => (splitAt_mem h).2
  revert ha hm
  generalize splitAt 4096 va n (n / 4096 + 2) 0 = ps
  intro ha hm
  induction ps generalizing N k with
  | nil => exact ⟨N, k, rfl, hn⟩
  | cons p ps ih =>
    rw [List.all_cons, Bool.and_eq_true] at ha
    have hp := framePa_saving (k := k) hn (Nat.lt_of_lt_of_le (hm p (List.mem_cons_self ..)) hv) ha.1
    obtain ⟨N', k', he, hn'⟩ := dispatcherWrite_quiet (k := k) (s := saving) rfl hn launch9.pset p.1 p.2.1 (v / 256 ^ p.2.2 % 256 ^ p.2.1)
    rw [List.foldl_cons]
    simp only [hp, he]
    exact ih hn' ha.2 fun q h => hm q (List.mem_cons_of_mem _ h)
/-- R277, R278: a stream that can be saved, with its frame mapped. -/
theorem test_meets_save : saving.launchOf 9 = some launch9 ∧ canSave saving (saving.core 5) = true ∧ recField launch9.record 179 1 = 0 ∧
    (saving.core 5).locks = [] ∧ saving.launchOfCore 5 = some launch9 ∧ (saving.core 5).rx = 0 ∧ (saving.core 5).ry = 0 ∧ saving.lazy = true ∧ ∀ v w : Nat, ∃ s₁ s₂,
      frameWrite (savePoison saving launch9 launch9.streams[0] (savedCore saving 5)) launch9 (launch9.frame 0 0) 0x60000 v = some s₁ ∧
      frameWrite s₁ launch9 (launch9.frame 0 0 + 0x60000) 0x40000 w = some s₂ := by
  refine ⟨by decide +kernel, by decide +kernel, by decide +kernel, by decide +kernel, by decide +kernel, rfl, rfl, rfl, fun v w => ?_⟩
  have h0 : savePoison saving launch9 launch9.streams[0] (savedCore saving 5) = quiet saving [] saving.stamp := by decide +kernel
  obtain ⟨N, k, h1, hn⟩ := frameWrite_quiet (N := []) (k := saving.stamp) (va := launch9.frame 0 0) (n := 0x60000) (v := v) (by simp) (by decide +kernel) (by decide +kernel)
  obtain ⟨N', k', h2, _⟩ := frameWrite_quiet (k := k) (va := launch9.frame 0 0 + 0x60000) (n := 0x40000) (v := w) hn (by decide +kernel) (by decide +kernel)
  exact ⟨_, _, h0 ▸ h1, h2⟩
/-- R279: a saved stream whose image and scratchpad can be read back. -/
theorem test_meets_resume : let s := launched .placed .saved fun s => mapped s
    (s.launchOf 9).all (fun l => readyToStart s l && (l.stream 0 0).all (fun t => !t.debugHalted && t.late.isEmpty) && recField l.record 179 1 == 0
      && !l.saveFault && (match (s.onLaunch 9 fun l => { l with st := .running, awaits := [] }).askFrames l with
        | none => false
        | some s₀ => !frameSpoilt s₀ l (l.frame 0 0) && (frameRead s₀ l (l.frame 0 0 + 0x60000) 0x40000).isSome
            && (frameRead (((s₀.drainGathered 5).freshCache 5).zeroScratch 5) l (l.frame 0 0) 0x60000).isSome)) = true := by decide +kernel

/-! ### Events: locks -/

/-- A card with lock packets on their way, a line at its home, and core 3 with its lock entries. -/
def lnet (ps : List LockPkt) (st : DState) (es : List LockEntry) (f : State → State) : State :=
  f { other 3 (fun c => { c with locks := es }) (on [] id) with
    lockNet := ps.zipIdx.map (fun p => { pkt := p.1, src := none, waits := false, seq := p.2 }), stamp := ps.length, dir := [dl st [] none] }
/-- The K state of the line with the requests named by their numbers. -/
def kOf (h t : Option Nat) (sv : Bool) (nx : Option Nat) (p : Bool) : DState := .k (h.map who) (t.map who) sv (nx.map who) p
/-- The lock packet at index i is served where it stands. -/
def lockAt (s : State) (i : Nat) : Bool :=
  match s.lockNet[i]? with
  | some f => (f.waits || (!s.shutOut f.src f.seq && !s.mustWait (f.ends s) f.seq f.pkt.line && !(f.pkt.homeward && bankHeld s f.pkt.line))) && !lockKeptBack (s.lockNet.take i) f && !s.lockBehind f
  | none => false
/-- The step goes on, leaves memory and some lock packets, and a property holds. -/
def locks (x : Instr) (s : State) (i : Nat) (ps : List LockPkt) (p : State → Bool) : Bool :=
  lockAt s i && match exec x s with | .next u => u.mem == s.mem && u.lockPkts == s.lockPkts.eraseIdx i ++ ps && p u | _ => false
/-- The lock's record at the home after a step. -/
def kIs (u : State) (h t : Option Nat) (sv : Bool) (nx : Option Nat) (p : Bool) : Bool :=
  u.kOf 0x400 == some (h.map who, t.map who, sv, nx.map who, p)
theorem test_lock_request : let q : LockPkt := .lock (who 3) 0x400 false
    setBlocked (lnet [q] (kOf none none false none true) [] id) 0x400 = false ∧
    locks (.lockRequest 0) (lnet [q] .n [] id) 0 [.handoff (who 3) 0x400 none false] (fun u => kIs u (some 3) (some 3) false none false) = true ∧
    locks (.lockRequest 0) (lnet [q] (kOf (some 5) (some 6) false none true) [] id) 0 [.link (who 6) 0x400 (who 3)]
      (fun u => kIs u (some 5) (some 3) false none true) = true ∧
    locks (.lockRequest 0) (lnet [q] (kOf (some 5) (some 5) true none false) [] id) 0 [] (fun u => kIs u (some 5) (some 3) true (some 3) false) = true ∧
    locks (.lockRequest 0) (lnet [.lock (who 3) 0x400 true] (kOf (some 5) (some 5) false none false) [] id) 0 [.busy (who 3) 0x400]
      (fun u => kIs u (some 5) (some 5) false none false) = true ∧
    locks (.lockRequest 0) (lnet [.lock (who 3) 0x400 true] (kOf none none false none true) [] id) 0 [.handoff (who 3) 0x400 none true]
      (fun u => kIs u (some 3) (some 3) false none false) = true := by decide +kernel
theorem test_link : let l : LockPkt := .link (who 3) 0x400 (who 5)
    locks (.lockLink 0) (lnet [l] .n [lock .pending none] id) 0 [] (fun u => (u.core 3).locks == [lock .linked (some 5)]) = true ∧
    locks (.lockLink 0) (lnet [l] .n [lock .held none] id) 0 [] (fun u => (u.core 3).locks == [lock .held (some 5)]) = true ∧
    locks (.lockLink 0) (lnet [l] .n [{ lock .stub none with brand := some 6 }] id) 0
      [.moved (who 3) 0x400 (who 5), .handoff (who 5) 0x400 (some 6) false] (fun u => (u.core 3).locks == []) = true ∧
    locks (.lockLink 0) (lnet [l] .n [] id) 0 [.linkBack (who 3) 0x400 (who 5)] (fun _ => true) = true ∧
    locks (.lockLink 0) (lnet [.linkBack (who 3) 0x400 (who 5)] .n [] fun s => { s with withdrawn := [{ line := 0x400, who := who 3, next := none }] }) 0 []
      (fun u => u.withdrawn == [{ line := 0x400, who := who 3, next := some (who 5) }]) = true := by decide +kernel
/-- R306: the waiter holds the lock, with its line in K and its status in the slot; a core that waits no more passes it on. -/
theorem test_handoff : let s := lnet [.handoff (who 3) 0x400 (some 6) false] (kOf (some 3) (some 3) false none false) [lock .pending none] id
    lockAt s 0 = true ∧ killedCore s 3 = false ∧
    (lock .pending none).waits = true ∧ ((s.core 3).dropLine 0x400).hasWay 0x400 = true ∧ (((after (.handoff 0) s).core 3).locks) = [lock .held none] ∧
    ((after (.handoff 0) s).core 3).lineOf 0x400 = some { line := 0x400, st := .k, data := 0, unread := 0 } ∧
    locks (.handoff 0) (lnet [.handoff (who 3) 0x400 none true] .n [lock .stub none] id) 0 [.pass (who 3) 0x400 true] (fun _ => true) = true ∧
    lockAt (lnet [.busy (who 3) 0x400] .n [] id) 0 = true ∧
    ((after (.handoff 0) (lnet [.busy (who 3) 0x400] .n [{ lock .pending none with try_ := true }] id)).core 3).locks = [] := by decide +kernel
theorem test_moved_and_free :
    locks (.lockMoved 0) (lnet [.moved (who 3) 0x400 (who 5)] (kOf (some 3) (some 3) false none false) [] id) 0 []
      (fun u => kIs u (some 5) (some 5) false none false) = true ∧
    locks (.lockFree 0) (lnet [.free (who 3) 0x400] (kOf (some 3) (some 3) false none false) [] id) 0 [.freed (who 3) 0x400]
      (fun u => u.kOf 0x400 == none && dirIs u fun e => e.st == .n) = true ∧
    locks (.lockFree 0) (lnet [.free (who 3) 0x400] (kOf (some 3) (some 5) false none false) [] id) 0 []
      (fun u => kIs u (some 3) (some 5) false none false) = true ∧
    locks (.lockFree 0) (lnet [.force (who 3) 0x400 (some (who 5)) false] (kOf (some 3) (some 5) false none false) [] id) 0 [.handoff (who 5) 0x400 none true]
      (fun u => kIs u (some 5) (some 5) false none false) = true ∧
    locks (.lockFree 0) (lnet [.force (who 3) 0x400 none false] (kOf (some 3) (some 3) false none false) [] id) 0 []
      (fun u => kIs u none none false none true) = true ∧
    locks (.lockFreed 0) (lnet [.freed (who 3) 0x400] .n [lock .stub none] id) 0 [] (fun u => (u.core 3).locks == []) = true := by decide +kernel
theorem test_withdraw : let k : DState := kOf (some 5) (some 3) false none false
    let gone (n : Option Nat) (s : State) : State := { s with withdrawn := [{ line := 0x400, who := who 3, next := n.map who }] }
    locks (.withdraw 0) (lnet [.withdraw (who 3) 0x400 none false] k [] id) 0 []
      (fun u => u.withdrawn == [{ line := 0x400, who := who 3, next := none }]) = true ∧
    locks (.withdraw 0) (lnet [.withdraw (who 3) 0x400 none true] k [] id) 0 [] (fun u => u.withdrawn == []) = true ∧
    locks (.lockPass 0) (lnet [.pass (who 3) 0x400 true] (kOf (some 3) (some 6) false none false) [] (gone (some 6))) 0 [.handoff (who 6) 0x400 none true]
      (fun u => kIs u (some 6) (some 6) false none false && u.withdrawn.isEmpty) = true ∧
    locks (.lockPass 0) (lnet [.pass (who 3) 0x400 false] (kOf (some 3) (some 3) false none false) [] (gone none)) 0 []
      (fun u => u.kOf 0x400 == none && u.withdrawn.isEmpty) = true ∧
    locks (.withdrawRetry 0) (lnet [.withdrawRefused (who 3) 0x400 none] k [] id) 0 [] (fun _ => true) = true ∧
    locks (.withdrawRetry 0) (lnet [.withdrawRefused (who 3) 0x400 (3, 3)] k [lock .linked (some 9)] id) 0 [.withdraw (who 3) 0x400 (some (who 9)) false]
      (fun u => (u.core 3).locks == []) = true := by decide +kernel
/-- R308: the NI does not withdraw while the home's table is full. -/
theorem test_withdraw_full : let full (s : State) : State := { s with withdrawn := List.replicate 32 { line := 0x400, who := who 3, next := none } }
    let s := lnet [] (kOf (some 5) (some 3) false none false) [lock .linked (some 9)] full
    withdrawnCount s 0x400 = 32 ∧ (after (.lockWaitTimeout 3 0x400) s).lockPkts = [.withdrawRefused (who 3) 0x400 (4, 0)] ∧
    ((after (.lockWaitTimeout 3 0x400) s).core 3).locks = [lock .linked (some 9)] := by decide +kernel
theorem test_lock_timers : let s := lnet [] (kOf (some 5) (some 3) false none false) [lock .linked (some 9)] id
    holderInDebug s 0x400 = false ∧ (after (.lockWaitTimeout 3 0x400) s).lockPkts = [.withdraw (who 3) 0x400 (some (who 9)) false] ∧
    ((after (.lockWaitTimeout 3 0x400) s).core 3).locks = [] ∧ (after (.probeTimer 3 0x400) s).lockPkts = [.probe (who 3) 0x400 0x400 []] := by decide +kernel
theorem test_saved_and_resumed :
    locks (.lockSaved 0) (lnet [.saved (who 3) 0x400 (some (who 5))] (kOf (some 3) (some 5) false none false) [] id) 0 []
      (fun u => kIs u (some 3) (some 5) true (some 5) false) = true ∧
    locks (.lockResume 0) (lnet [.resume (who 3) 0x400] (.k (some { core := 6, num := 3 }) (some { core := 6, num := 3 }) true (some (who 5)) false)
        [lock .saved none] id) 0 []
      (fun u => kIs u (some 3) (some 3) false none false && (u.core 3).locks == [lock .held (some 5)]) = true ∧
    locks (.probe 0) (lnet [.probe (who 7) 0x500 0x400 []] (kOf (some 3) (some 3) false none false) [{ lock .linked none with line := 0x600 }] id) 0
      [.probe (who 7) 0x500 0x600 [(3, 0x400)]] (fun _ => true) = true := by decide +kernel

/-! ### Events: registers, debug, errors, start-up, links, power -/

theorem test_loftctl : after (.loftctlWrite 3 1) (on [] id) = on [] id ∧ ((after (.loftctlWrite 3 64) (on [] id)).core 3).loftSize = 64 ∧
    ((on [] id).core 3).loft = [] ∧ ((on [] id).core 3).arrivals = [] := by decide +kernel
theorem test_windows : ((after (.linkWindowWrite 2 0 0x9000000000005000) (on [] id)).windows[(2 : Fin 8)]) =
      { resetWindow with v := true, a := true, pmask := (after (.linkWindowWrite 2 0 0x9000000000005000) (on [] id)).windows[(2 : Fin 8)].pmask, base := 5 } ∧
    ((after (.linkWindowWrite 2 1 0x7000) (on [] id)).windows[(2 : Fin 8)]).limit = 7 ∧
    (after (.linkWindowTable (List.replicate 8 { resetWindow with v := true })) (reducing id (on [] id))).peerWindows =
      Vector.replicate 8 { resetWindow with v := true } := by decide +kernel
theorem test_rrctl : ((after (.rrctlWrite 6 1) (set6 id)).pad 6).rrMode = 1 ∧ ((after (.rrctlWrite 6 1) (on [] id)).pad 6).rrRefused = true ∧
    ((after (.rrctlWrite 6 1) (on [] id)).pad 6).rrMode = 0 ∧ ((after (.replayDiverge 6 5) (set6 fun p => { p with rrMode := 2 })).pad 6).rrDiverged = true ∧
    (((set6 fun p => { p with rrMode := 2 }).pad 6).segOf 5).free = false := by decide +kernel
theorem test_halt_requests : ((after (.haltreq 3) (on [] id)).core 3).dbg.haltreq = true ∧
    (let s := on [] fun c => { c with dbg := { c.dbg with dsave := 0x100001, haltreq := true } }
     (stopHere s).isNone = true ∧ s.me.committed = false ∧ dueAsync s.me = none ∧ haltImage s s.me.id = some 0x100000) := by decide +kernel
/-- R419: a full sink turns the encoder off; R420: OVERFLOW with the bytes that were lost; the sink takes what there is. -/
def traced (t : Trace → Trace) : State := other 3 (fun c => { c with paddock := 6, trc := t { c.trc with buf := [0x11, 0x22] } }) (on [] id)
theorem test_trace : ((after (.traceSinkWrite 3 true) (traced fun t => { t with ctl := 1 })).core 3).trc.ctl = 0 ∧
    ((after (.traceSinkWrite 3 true) (traced id)).core 3).trc.buf = [] ∧
    ((after (.traceOverflow 3) (traced fun t => { t with dropped := 70000 })).core 3).trc.buf = [0x11, 0x22, 0x70, 0xFF, 0xFF] ∧
    (let s := traced fun t => { t with ctl := 1, base := 0x20000, len := 4096 }
     sinkOk s (s.core 3) 0x20000 = true ∧ sinkRoom (s.core 3) = 2 ∧ (s.core 3).trc.sent = 0 ∧
     (after (.traceSinkWrite 3 false) s).pkts =
       [.req { core := traceAgent 3, line := 0x400, req := .write 0x20000 2 0x2211 false false }] ∧
     ((after (.traceSinkWrite 3 false) s).core 3).trc.sent = 2 ∧ ({ (s.core 3).trc with sent := 2 } : Trace).advance.head = 2) := by decide +kernel
theorem test_registers : ((after (.registerWrite (.vf 7) 0x030 18) (on [] id)).pad 6).lkto = 18 ∧ (after (.registerWrite .pf 0x018 1) (on [] id)).cap = true ∧
    ((after (.registerWrite .firmware ((on [] id).cellPa 5 0xF0400) 0x4A) (on [] id)).core 5).tag = 2 ∧
    ((after (.registerWrite .firmware ((on [] id).cellPa 5 0xF0400) 0x4A) (on [] id)).core 5).bport = 10 ∧
    after (.registerWrite (.supervisor 6) ((on [] id).cellPa 5 0xF0400) 0x4A) (on [] id) = on [] id := by decide +kernel
theorem test_scrub : (after (.scrub (.hbm 0x4000) true) (on [] id)).badWords = [0x4000] ∧ after (.scrub (.hbm 0x4000) false) (on [] id) = on [] id ∧
    ((after (.scrub (.icache 3 0) false) (on [] id)).core 3).corrected = 1 ∧ ((after (.scrub (.register 3 4 7 0) true) (on [] id)).core 3).poison = [.greg 7] := by
  decide +kernel
theorem test_core_loss : ((after (.coreLoss 3) (on [] id)).core 3).run = .lost ∧ ((after (.coreLossNiTimeout 3) (on [] id)).core 3).available = false ∧
    ((on [] id).core 3).fencedAt = none ∧ ((after (.ackTimeout 0x400 3) (net [] [dl .n [3] (some { waiting := [3], pa := 0x20000, n := 1, v := 9, writer := none })] id)).core 3).run = .lost := by
  decide +kernel
theorem test_mesh : isPort 5 1 = true ∧ ((after (.beatReplay 5 1) (on [] id)).linkAt 5 1).replays = 1 ∧
    ((after (.meshLinkFailure 5 1) (on [] id)).linkAt 5 1).failed = true ∧
    linkEnds 5 1 = [(5, 1), (6, 0)] ∧ ((after (.meshLinkFailure 5 1) (on [] id)).linkAt 6 0).failed = true ∧
    (((List.replicate 9 (Instr.beatReplay 5 1)).foldl (fun s i => after i s) (on [] id)).linkAt 5 1).failed = true ∧
    ((after (.detourComputed 5 1) (after (.meshLinkFailure 5 1) (on [] id))).linkAt 5 1).detour = true := by decide +kernel
theorem test_ucie : (after (.ucieLaneLoss 4) (on [] id)).ucie[(4 : Fin 36)] = .retraining ∧
    (after (.ucieRetrainDone 4 true) (after (.ucieLaneLoss 4) (on [] id))).ucie[(4 : Fin 36)] = .half ∧
    (after (.ucieLaneLoss 4) (after (.ucieRetrainDone 4 true) (after (.ucieLaneLoss 4) (on [] id)))).ucie[(4 : Fin 36)] = .disabled ∧
    (after (.ucieRetrainDone 4 false) (after (.ucieLaneLoss 4) (on [] id))).ucie[(4 : Fin 36)] = .disabled := by decide +kernel

/-- The card at a stage of start-up. -/
def at_ (n : Nat) (f : Boot → Boot) : State := { State.reset with boot := f { State.reset.boot with stage := n } }
/-- R438: a read through BAR0 of a register, of the physical function and of a set that takes none. -/
theorem test_bar0 : (after (.hostBar2Access (.bar0 7) 0x030 8 none) (on [] id)).out = [.barRead 7 0x030 (padRead (on [] id) 6 0x030)] ∧
    barLive (on [] id) 6 = true ∧ (after (.hostBar2Access (.bar0 3) 0x030 8 none) (on [] id)).out = [.barRead 3 0x030 (2 ^ 64 - 1)] := by decide +kernel
theorem test_card_reset : (after .cardReset (on [] id)).boot.stage = 1 ∧ ((after .cardReset (on [] id)).core 3).run = .idle ∧ (after .cardReset (on [] id)).launches = [] ∧
    (after .perstDeassert State.reset).boot.perst = true := by decide +kernel
theorem test_stages : (after (.imageVerified false true) (at_ 1 id)).boot.slot = 2 ∧ (after (.imageVerified false false) (at_ 1 id)).boot.stage = 15 ∧
    (after (.selfTestComplete [7]) (at_ 2 fun b => { b with perst := true })).boot.featdev = 0xFF ∧
    ((after (.selfTestComplete [7]) (at_ 2 fun b => { b with perst := true })).core 7).available = false ∧
    (after .configurationRequest State.reset).out = [.crs] ∧ (after .configurationRequest (at_ 3 id)).out = [.configOk] := by decide +kernel
/-- R435 to R437: the answer, the link's training and the sets. -/
theorem test_features : (after (.feataccWrite 0x800000000000002F) (at_ 3 fun b => { b with featdev := 0x0F })).boot.featacc = 0x0F ∧
    (after (.feataccWrite 0x800000000000002F) (at_ 3 fun b => { b with featdev := 0x0F })).boot.stage = 4 := by decide +kernel
theorem test_training : (after (.sahaxTraining 9) (at_ 4 fun b => { b with cardId := 5 })).link.card = 0 ∧
    (after (.sahaxTraining 9) (at_ 4 fun b => { b with cardId := 12 })).link.card = 1 ∧ (after (.sahaxTraining 9) (at_ 4 id)).link.up = true ∧
    (after .sahaxTrainTimeout (at_ 4 id)).link.alone = true ∧ (after .sahaxTrainTimeout (at_ 4 id)).boot.stage = 5 := by decide +kernel
theorem test_activation : ((after (.paddockActivation [6]) (at_ 5 id)).pad 6).cmask = BitVec.allOnes 192 ∧
    isConfiguration [0, 1, 2, 3] = true ∧ ((after (.paddockActivation [0, 1, 2, 3]) (at_ 5 id)).pad 2).active = true := by decide +kernel
/-- R438: a write through BAR2, a read, and an offset that is not granted. -/
theorem test_bar2 : (after (.hostBar2Access (.bar2 7) 0x20000 8 (some 5)) (on [] id)).pkts =
      [.req { core := 1024, line := 0x400, req := .write 0x20000 8 5 false false }] ∧
    (let s := { on [] id with dir := [dl .n [] none] }
     setBlocked s 0x400 = false ∧ setParked s 0x400 = false ∧ bankHeld s 0x400 = false ∧ s.dirOf 0x400 = some (dl .n [] none) ∧
     (after (.hostBar2Access (.bar2 7) 0x20000 8 none) s).out = [.barRead 7 0x20000 0]) ∧
    (after (.hostBar2Access (.bar2 3) 0x20000 8 none) (on [] id)).out = [.ur 3 0x20000] := by decide +kernel
/-- R439: a flit in its place, one with a bad check, and a request of the peer through an open window. -/
theorem test_flits : let s := { reducing id (on [] id) with windows := (on [] id).windows.set 0 { resetWindow with v := true, w := true, pmask := 4, limit := 1024 } }
    (after (.sahaxFlit 0 0 true .none) s).out = [.nak 0] ∧ (after (.sahaxFlit 0 0 false .none) s).link.rxSeq = 1 ∧
    windowPermits s.windows.toList 2 0x20000 1 = true ∧
    (after (.sahaxFlit 0 0 false (.store 2 0x20000 8 5)) s).pkts =
      [.req { core := 1025, line := 0x400, req := .write 0x20000 8 5 false false }] ∧
    (after (.sahaxNak 7) s).link.replay = [7] ∧ (after (.sahaxNak 7) { s with link := { s.link with buffer := [(6, 1), (7, 2)] } }).out = [.flit 7 2] ∧
    (after (.sahaxNak 7) { s with link := { s.link with replay := [7], replays := 15 } }).link.retraining = true ∧
    (after .sahaxRetrainComplete { s with link := { s.link with retraining := true } }).link.retraining = false := by decide +kernel
theorem test_link_loss : let s := after .sahaxLinkLoss { reducing id (on [] id) with link := { (reducing id (on [] id)).link with trained := true } }
    s.link.trained = true ∧ s.link.alone = false ∧ s.link.peerId = 0 ∧ s.link.up = false ∧ s.link.lost = true ∧ (s.areds.all fun a => a.matched && a.status != 0) = true ∧
    (after (.sahaxRetrainAttempt (some 0)) s).link.up = true ∧ (after (.sahaxRetrainAttempt (some 1)) s).link.up = false := by decide +kernel
theorem test_dies : (after (.dieWarmReset 1) (net [] [{ dl .n [] none with home := 12, dirty := false }] id)).dies[(1 : Fin 2)] = .reset ∧
    dieOf 12 = 1 ∧ (after (.dieWarmReset 1) (net [] [{ dl .n [] none with home := 12, dirty := false }] id)).dir = [] ∧
    (after (.dieReadmit 1 []) (after (.dieWarmReset 1) (on [] id))).boot.stage = 3 := by decide +kernel
theorem test_power : (after (.thermalThrottle 2) (on [] id)).quarters[(2 : Fin 4)].clockSteps = 1 ∧ (after (.pwrctlCap 1) (on [] id)).cap = true ∧
    (after (.powerControl 2 true) (on [] id)).quarters[(2 : Fin 4)] = resetQuarter.lower ∧ (after .thermalShutdown (on [] id)).shutdown = true ∧
    (after .thermalShutdown (on [] id)).boot.stage = 15 := by decide +kernel
/-- R442: the slack of the monitors is kept, and no other quarter moves (its value is free, log entry 7). -/
theorem test_ageing : (after (.ageingReplan 2 4 true) (on [] id)).quarters[(2 : Fin 4)].slack = Config.monitorSlack (on [] id).tick ∧
    (after (.ageingReplan 2 4 true) (on [] id)).quarters[(1 : Fin 4)] = resetQuarter := ⟨rfl, rfl⟩

end Sys2Proof.Tests
end

section
/-! SUPPORT. Fetching a bundle: what each check answers (02 R38 to R41). -/
namespace Sys2Proof.Machine

/-! ### Answers in sequence -/

@[simp] theorem Ans.ok_bind {α β : Type} (s : State) (v : α) (f : State → α → Ans β) : (Ans.ok s v).bind f = f s v := rfl
@[simp] theorem Ans.trap_bind {α β : Type} (s : State) (t : Trap) (f : State → α → Ans β) : (Ans.trap s t).bind f = .trap s t := rfl

/-! ### Arrivals (R41) -/

theorem secondWord_of_codeWord {s s' : State} {a : Word} {w : BitVec 32} (ha : a.getLsbD 2 = true) (hw : s.codeWord (a - 4) = .ok s' w) :
    secondWord s a = .ok s' (w.getLsbD 31) := by
  simp only [secondWord, ha, if_true, hw]
theorem checkArrival_sequential {s : State} (h : s.me.arrived = false) : checkArrival s = .ok s () := by
  simp [checkArrival, h]
theorem checkArrival_misaligned {s : State} (h : s.me.arrived = true) (hpc : s.me.pc.extractLsb' 0 2 ≠ 0) :
    checkArrival s = .trap s (targetFault s.me.pc) := by
  simp only [checkArrival, h, Bool.not_true, Bool.false_eq_true, if_false, bne_iff_ne.mpr hpc, if_true, targetFault]
theorem checkArrival_aligned {s s' : State} {second : Bool} (h : s.me.arrived = true) (hpc : s.me.pc.extractLsb' 0 2 = 0)
    (hw : secondWord s s.me.pc = .ok s' second) :
    checkArrival s = if second then .trap s' (targetFault s.me.pc) else .ok s' () := by
  simp [checkArrival, targetFault, h, hpc, hw]
theorem checkArrival_of_reached {s s₀ : State} (h : Reached s s₀) : checkArrival s = .ok s₀ () := by
  obtain ⟨harr, rfl⟩ | ⟨harr, hpc, hsecond⟩ := h
  · exact checkArrival_sequential harr
  · simp [checkArrival_aligned harr hpc hsecond]

/-! ### A word, by whether it is legal (R51 to R53) -/

theorem legalWord_of_decode {s : State} {w : BitVec 32} {i : Instr} (h : decodeWord (s.present s.me.id) w.toNat = .ok i) :
    legalWord s w = .ok i := by
  simp [legalWord, h]
theorem legalWord_of_illegal {s : State} {w : BitVec 32} {k : Illegal} (h : decodeWord (s.present s.me.id) w.toNat = .error k) :
    legalWord s w = .error (plainTrap 1 (illegalCode k)) := by
  simp [legalWord, h]

/-! ### The checks of a pair (R39) -/

/-- Check 4: a name that both parts write, g0 apart. -/
theorem conflicts_iff (i j : Instr) :
    (Instr.conflicts i).any (Instr.conflicts j).contains = true ↔ ∃ n, n ∈ Instr.dests i ∧ n ∈ Instr.dests j ∧ n ≠ .g 0 := by
  simp only [Instr.conflicts, List.any_eq_true, List.contains_iff_mem, List.mem_filter, bne_iff_ne]
  exact ⟨fun ⟨n, ⟨hi, h0⟩, hj, _⟩ => ⟨n, hi, hj, h0⟩, fun ⟨n, hi, hj, h0⟩ => ⟨n, ⟨hi, h0⟩, hj, h0⟩⟩

theorem checkPair_of_wrong_class {s : State} {c x : BitVec 32}
    (h : c.getLsbD 30 = true ∨ x.getLsbD 31 = true ∨ x.getLsbD 30 = false) : checkPair s c x = .error (pairTrap 2) := by
  have hclass : (c.getLsbD 30 || x.getLsbD 31 || !x.getLsbD 30) = true := by
    simpa only [Bool.or_eq_true, Bool.not_eq_true', or_assoc] using h
  simp only [checkPair, hclass, if_true]

section
variable {s : State} {c x : BitVec 32} (hc : c.getLsbD 30 = false) (hx : x.getLsbD 31 = false) (hxc : x.getLsbD 30 = true)
include hc hx hxc

theorem checkPair_of_illegal_head {t : Trap} (h : legalWord s c = .error t) : checkPair s c x = .error t := by
  simp only [checkPair, hc, hx, hxc, Bool.or_false, Bool.not_true, Bool.false_eq_true, if_false, h]
theorem checkPair_of_illegal_second {i : Instr} {t : Trap} (hi : legalWord s c = .ok i) (h : legalWord s x = .error t) :
    checkPair s c x = .error t := by
  simp only [checkPair, hc, hx, hxc, Bool.or_false, Bool.not_true, Bool.false_eq_true, if_false, hi, h]
theorem checkPair_of_legal {i j : Instr} (hi : legalWord s c = .ok i) (hj : legalWord s x = .ok j) :
    checkPair s c x = if (∃ n, n ∈ Instr.dests i ∧ n ∈ Instr.dests j ∧ n ≠ .g 0) then .error (pairTrap 3) else .ok (i, j) := by
  simp only [checkPair, hc, hx, hxc, hi, hj, conflicts_iff, Bool.or_false, Bool.not_true, Bool.false_eq_true, if_false]
end

/-! ### A bundle, by the words at its address (R38 to R41) -/

theorem fetchBundle_of_bad_arrival {s s' : State} {t : Trap} (h : checkArrival s = .trap s' t) : fetchBundle s = .trap s' t := by
  simp [fetchBundle, h]

section
variable {s s₀ s₁ : State} {c : BitVec 32} (hr : Reached s s₀) (hw : s₀.codeWord s₀.me.pc = .ok s₁ c)
include hr hw

theorem fetchBundle_of_legal_word {i : Instr} (hP : c.getLsbD 31 = false) (h : legalWord s₁ c = .ok i) : fetchBundle s = .ok s₁ (i, none) := by
  simp only [fetchBundle, checkArrival_of_reached hr, Ans.ok_bind, hw, hP, Bool.not_false, if_true, h]
theorem fetchBundle_of_illegal_word {t : Trap} (hP : c.getLsbD 31 = false) (h : legalWord s₁ c = .error t) : fetchBundle s = .trap s₁ t := by
  simp only [fetchBundle, checkArrival_of_reached hr, Ans.ok_bind, hw, hP, Bool.not_false, if_true, h]
theorem fetchBundle_of_misaligned_pair (hP : c.getLsbD 31 = true) (hpc : s₁.me.pc.getLsbD 2 = true) :
    fetchBundle s = .trap s₁ (pairTrap 1) := by
  simp only [fetchBundle, checkArrival_of_reached hr, Ans.ok_bind, hw, hP, Bool.not_true, Bool.false_eq_true, if_false, hpc, if_true]

variable {s₂ : State} {x : BitVec 32} (hP : c.getLsbD 31 = true) (hpc : s₁.me.pc.getLsbD 2 = false)
  (hw₂ : s₁.codeWord (s₁.me.pc + 4) = .ok s₂ x)
include hP hpc hw₂

theorem fetchBundle_of_good_pair {i j : Instr} (h : checkPair s₂ c x = .ok (i, j)) : fetchBundle s = .ok s₂ (i, some j) := by
  simp only [fetchBundle, checkArrival_of_reached hr, Ans.ok_bind, hw, hP, Bool.not_true, Bool.false_eq_true, if_false, hpc, hw₂, h]
theorem fetchBundle_of_bad_pair {t : Trap} (h : checkPair s₂ c x = .error t) : fetchBundle s = .trap s₂ t := by
  simp only [fetchBundle, checkArrival_of_reached hr, Ans.ok_bind, hw, hP, Bool.not_true, Bool.false_eq_true, if_false, hpc, hw₂, h]
end

/-- Settles O6: each clause is the equation of `checkArrival`, `fetchBundle` or `checkPair` for its case. -/
theorem bundlesAreCheckedInOrder : Obligations.BundlesAreCheckedInOrder := by
  unfold Obligations.BundlesAreCheckedInOrder
  refine ⟨?misaligned, ?second, ?lone, ?pairAlign, ?pair, ?checks⟩
  case misaligned =>
    intro s harr hpc
    exact fetchBundle_of_bad_arrival (checkArrival_misaligned harr hpc)
  case second =>
    intro s s' w harr hpc hbit hw hP
    have hsecond : secondWord s s.me.pc = .ok s' true := hP ▸ secondWord_of_codeWord hbit hw
    exact fetchBundle_of_bad_arrival (checkArrival_aligned harr hpc hsecond)
  case lone =>
    intro s s₀ s' w hr hw hP
    exact ⟨fun i h => fetchBundle_of_legal_word hr hw hP (legalWord_of_decode h),
      fun k h => fetchBundle_of_illegal_word hr hw hP (legalWord_of_illegal h)⟩
  case pairAlign =>
    intro s s₀ s' w hr hw hP hpc
    exact fetchBundle_of_misaligned_pair hr hw hP hpc
  case pair =>
    intro s s₀ s₁ s₂ c x hr hw hP hpc hw₂
    exact ⟨fun i j h => fetchBundle_of_good_pair hr hw hP hpc hw₂ h, fun t h => fetchBundle_of_bad_pair hr hw hP hpc hw₂ h⟩
  case checks =>
    intro s c x
    refine ⟨checkPair_of_wrong_class, fun hc hx hxc => ⟨?_, ?_, ?_⟩⟩
    · exact fun k h => checkPair_of_illegal_head hc hx hxc (legalWord_of_illegal h)
    · exact fun i k hi h => checkPair_of_illegal_second hc hx hxc (legalWord_of_decode hi) (legalWord_of_illegal h)
    · exact fun i j hi hj => checkPair_of_legal hc hx hxc (legalWord_of_decode hi) (legalWord_of_decode hj)

end Sys2Proof.Machine
end

section
/-! SUPPORT. Taking a trap: what TakeTrap leaves (16 R347, R348). -/
namespace Sys2Proof.Machine

/-! ### The fields of STATUS (R347) -/

/-- STATUS as a number holds its fields side by side. -/
theorem mkStatus_toNat (inTrap : Bool) (plv lvl : Nat) :
    (mkStatus inTrap plv lvl).toNat = inTrap.toNat * 16 + plv % 4 * 4 + lvl % 4 := by
  have hInTrap : inTrap.toNat < 2 := inTrap.toNat_lt
  rw [mkStatus, BitVec.toNat_ofNat, Nat.mod_eq_of_lt]
  omega

section
variable {c : Core} {inTrap : Bool} {plv lvl : Nat} (h : c.status = mkStatus inTrap plv lvl)
include h

theorem Core.inTrap_of_status : c.inTrap = inTrap := by
  have hlt : inTrap.toNat < 2 := inTrap.toNat_lt
  have hbit : (inTrap.toNat * 16 + plv % 4 * 4 + lvl % 4) / 16 % 2 = inTrap.toNat := by omega
  rw [Core.inTrap, h, mkStatus_toNat, hbit]
  cases inTrap <;> rfl
theorem Core.plv_of_status : c.plv = plv % 4 := by
  rw [Core.plv, h, mkStatus_toNat]; omega
theorem Core.level_of_status : c.level = lvl % 4 := by
  rw [Core.level, h, mkStatus_toNat]; omega
end

theorem Core.level_lt (c : Core) : c.level < 4 := Nat.mod_lt _ (by decide)

/-! ### The trap itself (R348) -/

/-- The trace encoder is no part of the architectural state. -/
theorem OnlyTrace.same {c d : Core} (h : OnlyTrace c d) : SameCore {} c d := by
  rw [show d = _ from h]
  constructor <;> intros <;> simp [Core.reg, Core.brhits]
/-- Writing system registers whole changes poison alone (R394). -/
theorem Core.cleanSys_eq (c : Core) (is : List Nat) : ∃ poison, c.cleanSys is = { c with poison := poison } := by
  unfold Core.cleanSys
  split
  · exact ⟨c.poison, rfl⟩
  · exact ⟨_, rfl⟩
@[simp] theorem Core.enterTrap_id (c : Core) (k : Trap) (epc : Word) : (c.enterTrap k epc).id = c.id := by
  obtain ⟨poison, h⟩ := c.squash.cleanSys_eq [5, 6, 7, 8]
  rw [Core.enterTrap, h, Core.squash]
/-- A core that enters a trap keeps its architectural state but for the trap registers. -/
theorem Core.enterTrap_same (c : Core) (k : Trap) (epc : Word) : SameCore { trap := true } c (c.enterTrap k epc) := by
  obtain ⟨poison, h⟩ := c.squash.cleanSys_eq [5, 6, 7, 8]
  rw [Core.enterTrap, h]
  constructor <;> intros <;> simp_all [Core.squash, Core.reg, Core.brhits]
/-- A trap that is no double trap is taken: the packets of its trace, the squash, and the entry. -/
theorem State.takeTrap_eq {s : State} {async : Bool} (h : s.me.inTrap = false ∨ async = true) (k : Trap) (epc : Word) :
    s.takeTrap k epc async = { (s.emitTrap k).squash with me := (s.emitTrap k).me.enterTrap k epc } := by
  have hsingle : (s.me.inTrap && !async) = false := by
    rcases h with h | h <;> simp [h]
  simp [State.takeTrap, hsingle]
/-- TakeTrap outside a trap, or of an asynchronous cause, does what R348 says and nothing else. -/
theorem State.takeTrap_trapped {s : State} {async : Bool} (h : s.me.inTrap = false ∨ async = true) (k : Trap) (epc : Word) :
    Trapped k epc s (s.takeTrap k epc async) := by
  obtain ⟨trc, n, htrc⟩ := s.emitTrap_me k
  rw [State.takeTrap_eq h, htrc]
  have hstatus : (({ s.me with trc := trc } : Core).enterTrap k epc).status = mkStatus true s.me.level (if s.me.isYard then 3 else 1) := rfl
  have htrace : OnlyTrace s.me { s.me with trc := trc } := rfl
  exact {
    epc := rfl
    ecause := rfl
    eva := rfl
    erow := rfl
    inTrap := Core.inTrap_of_status hstatus
    plv := (Core.plv_of_status hstatus).trans (Nat.mod_eq_of_lt s.me.level_lt)
    level := (Core.level_of_status hstatus).trans (by split <;> rfl)
    pc := rfl
    res := rfl
    frame := Frame.of_me (htrace.same.trans (Core.enterTrap_same _ k epc)) (Core.enterTrap_id _ k epc) rfl rfl }

end Sys2Proof.Machine
end

section
/-! SUPPORT. Scalar integer division: its results at the corners, and that it retires (05 R138, R139). -/
namespace Sys2Proof.Machine

/-! ### Quotients and remainders at the corners (R139) -/

@[simp] theorem divSigned_zero (a : Word) : divSigned a 0 = BitVec.allOnes 64 := rfl
@[simp] theorem divUnsigned_zero (a : Word) : divUnsigned a 0 = BitVec.allOnes 64 := rfl
@[simp] theorem remSigned_zero (a : Word) : remSigned a 0 = a := rfl
@[simp] theorem remUnsigned_zero (a : Word) : remUnsigned a 0 = a := rfl
/-- The quotient is rounded toward zero. -/
theorem divSigned_truncates : divSigned (BitVec.ofInt 64 (-7)) 2 = BitVec.ofInt 64 (-3) := by decide
/-- The remainder's sign follows the dividend. -/
theorem remSigned_follows_dividend : remSigned (BitVec.ofInt 64 (-7)) 2 = BitVec.ofInt 64 (-1) := by decide
/-- The one quotient that overflows wraps. -/
theorem divSigned_overflow : divSigned 0x8000000000000000 (BitVec.allOnes 64) = 0x8000000000000000 := by decide
theorem remSigned_overflow : remSigned 0x8000000000000000 (BitVec.allOnes 64) = 0 := by decide

/-! ### An instruction that writes one result and retires -/

section
variable {i : Instr} {s : State} {gd : GReg} {v : Word} (h : exec i s = retireWith s gd v)
include h

/-- It retires with its result in gd, whatever the operands: it cannot trap. -/
theorem exec_retires_with : ∃ t, exec i s = .next t ∧ t.me.reg gd = held gd v ∧ Retired s t := by
  obtain ⟨t, hnext, hreg, hretired, -⟩ := retireWith_spec s gd v
  exact ⟨t, h.trans hnext, hreg, hretired⟩
/-- It changes nothing but gd. -/
theorem exec_retires_framed : ∃ t, exec i s = .next t ∧ Retired s t ∧ Frame { g := [gd] } s t := by
  obtain ⟨t, hnext, -, hretired, hframe⟩ := retireWith_spec s gd v
  exact ⟨t, h.trans hnext, hretired, hframe⟩
end

section
variable (s : State) (gd ga gb : GReg)

theorem exec_div : exec (.div gd ga gb) s = retireWith s gd (divSigned (s.me.reg ga) (s.me.reg gb)) := rfl
theorem exec_divu : exec (.divu gd ga gb) s = retireWith s gd (divUnsigned (s.me.reg ga) (s.me.reg gb)) := rfl
theorem exec_rem : exec (.rem gd ga gb) s = retireWith s gd (remSigned (s.me.reg ga) (s.me.reg gb)) := rfl
theorem exec_remu : exec (.remu gd ga gb) s = retireWith s gd (remUnsigned (s.me.reg ga) (s.me.reg gb)) := rfl
end

/-- Settles O14: each of the four writes one result and retires, and the result at each corner is that of `divSigned`, `divUnsigned`,
`remSigned` or `remUnsigned` there. -/
theorem divisionCornersAreFixed : Obligations.DivisionCornersAreFixed := by
  unfold Obligations.DivisionCornersAreFixed
  intro s gd ga gb
  have hdiv := exec_div s gd ga gb
  have hdivu := exec_divu s gd ga gb
  have hrem := exec_rem s gd ga gb
  have hremu := exec_remu s gd ga gb
  refine ⟨?retires, ?truncates, ?byZero, ?overflows⟩
  case retires =>
    rintro i (rfl | rfl | rfl | rfl)
    · exact exec_retires_framed hdiv
    · exact exec_retires_framed hdivu
    · exact exec_retires_framed hrem
    · exact exec_retires_framed hremu
  case truncates =>
    intro ha hb
    rw [ha, hb, divSigned_truncates] at hdiv
    rw [ha, hb, remSigned_follows_dividend] at hrem
    exact ⟨exec_retires_with hdiv, exec_retires_with hrem⟩
  case byZero =>
    intro hb
    rw [hb, divSigned_zero] at hdiv
    rw [hb, divUnsigned_zero] at hdivu
    rw [hb, remSigned_zero] at hrem
    rw [hb, remUnsigned_zero] at hremu
    exact ⟨exec_retires_with hdiv, exec_retires_with hdivu, exec_retires_with hrem, exec_retires_with hremu⟩
  case overflows =>
    intro ha hb
    rw [ha, hb, divSigned_overflow] at hdiv
    rw [ha, hb, remSigned_overflow] at hrem
    have hzero : held gd 0 = 0 := ite_self 0
    exact ⟨exec_retires_with hdiv, hzero ▸ exec_retires_with hrem⟩

end Sys2Proof.Machine
end

section
/-! SUPPORT. Conditional branches: their words, their targets, and what each outcome leaves (02 R41, 05 R144). -/
namespace Sys2Proof.Machine

/-! ### Condition codes 2 and 3 (R47, R144) -/

theorem decBr_of_unassigned_condition {w : Nat} (h : fld w 12 3 = 2 ∨ fld w 12 3 = 3) : decBr w = none := by
  rcases h with h | h <;> simp [decBr, h]
theorem decodeWord_of_unassigned_condition {present : Feature → Bool} {w : Nat} (hmajor : w / 2 ^ 25 = 1)
    (hcond : fld w 12 3 = 2 ∨ fld w 12 3 = 3) : decodeWord present w = .error .unassigned := by
  have hbr : fld w 25 6 = 1 := by unfold fld; omega
  have hnone : decodeMajor w = none := by
    simp only [decodeMajor, hbr, decBr_of_unassigned_condition hcond]
  simp only [decodeWord, hnone]

/-! ### The target (R41, R144) -/

/-- The target on signed readings, modulo 2^64. -/
theorem branchTarget_eq {n : Nat} (s : State) (off : BitVec n) :
    branchTarget s off = BitVec.ofInt 64 (s.me.pc.toInt + 4 * off.toInt) := by
  have hshift : (off.signExtend 64) <<< 2 = BitVec.ofInt 64 (4 * off.toInt) := by
    rw [BitVec.shiftLeft_eq_mul_twoPow, BitVec.mul_comm, BitVec.ofInt_mul]
    rfl
  rw [branchTarget, hshift, BitVec.ofInt_add, BitVec.ofInt_toInt]
theorem checkTarget_misaligned {s : State} {a : Word} (h : a.extractLsb' 0 2 ≠ 0) : checkTarget s a = .trap s (targetFault a) := by
  simp only [checkTarget, bne_iff_ne.mpr h, if_true, targetFault]
theorem checkTarget_aligned {s s' : State} {a : Word} {second : Bool} (h : a.extractLsb' 0 2 = 0) (hw : secondWord s a = .ok s' second) :
    checkTarget s a = if second then .trap s' (targetFault a) else .ok s' a := by
  simp [checkTarget, targetFault, h, hw]
/-- The trap that an answer of a jump takes. -/
theorem finishJump_trap {s : State} (h : s.me.inTrap = false) (k : Trap) :
    ∃ t, finishJump (.trap s k) = .next t ∧ Trapped k s.me.pc s t :=
  ⟨_, rfl, State.takeTrap_trapped (.inl h) k s.me.pc⟩

/-! ### The branch's outcome noted (R17, R420) -/

/-- The predictor, the count of jumps and the trace encoder alone note a branch. -/
theorem State.noteBranch_eq (s : State) (taken : Bool) : ∃ trc n, s.noteBranch taken =
    { s with me := { s.me with predict := trainCounter s.me.predict s.me.pc taken, jumps := s.me.jumps + 1, trc := trc }, tick := n } :=
  (s.onMe fun c => { c with predict := trainCounter c.predict c.pc taken, jumps := c.jumps + 1 }).emitBranch_me taken
theorem State.noteBranch_frame (s : State) (taken : Bool) : Frame {} s (s.noteBranch taken) := by
  obtain ⟨trc, n, h⟩ := s.noteBranch_eq taken
  rw [h]
  exact Frame.of_me (by constructor <;> intros <;> simp [Core.reg, Core.brhits]) rfl rfl rfl
@[simp] theorem State.noteBranch_npc (s : State) (taken : Bool) : (s.noteBranch taken).me.npc = s.me.npc := by
  obtain ⟨trc, n, h⟩ := s.noteBranch_eq taken
  rw [h]
@[simp] theorem State.noteBranch_nBundles (s : State) (taken : Bool) : (s.noteBranch taken).me.nBundles = s.me.nBundles := by
  obtain ⟨trc, n, h⟩ := s.noteBranch_eq taken
  rw [h]

/-! ### A branch by its outcome (R144) -/

theorem not_slt_iff (x y : Word) : (!x.slt y) = true ↔ y.toInt ≤ x.toInt := by
  rw [Bool.not_eq_true', BitVec.slt, decide_eq_false_iff_not, Int.not_lt]
theorem not_ult_iff (x y : Word) : (!x.ult y) = true ↔ y.toNat ≤ x.toNat := by
  rw [Bool.not_eq_true', BitVec.ult, decide_eq_false_iff_not, Nat.not_lt]
/-- Each of the six branches, in the order of `branchForm`, is `condBranch` on its condition. -/
theorem exec_of_branchForm {i : Instr} {s : State} {off : BitVec 12} {p : Prop} (h : branchForm s.me i = some (off, p)) :
    ∃ taken : Bool, (taken = true ↔ p) ∧ exec i s = condBranch s off taken := by
  unfold branchForm at h
  split at h
  case h_7 => cases h
  all_goals
    obtain ⟨rfl, rfl⟩ := Prod.mk.inj (Option.some.inj h)
    refine ⟨_, ?_, rfl⟩
  case h_1 => exact beq_iff_eq
  case h_2 => exact bne_iff_ne
  case h_3 => exact BitVec.slt_iff_toInt_lt
  case h_4 => exact not_slt_iff _ _
  case h_5 => exact BitVec.ult_iff_toNat_lt
  case h_6 => exact not_ult_iff _ _

section
variable (s : State) (off : BitVec 12)

theorem condBranch_untaken : ∃ t, condBranch s off false = .next t ∧ Retired s t ∧ Frame {} s t :=
  ⟨_, rfl, ⟨by simp [State.retire, Core.retire], rfl, by simp [State.retire, Core.retire]⟩,
    (s.noteBranch_frame false).trans (State.retire_frame _)⟩

variable {s} {off} {a : Word} (ha : branchTarget s off = a)
include ha

theorem condBranch_misaligned (h : a.extractLsb' 0 2 ≠ 0) (hs : s.me.inTrap = false) :
    ∃ t, condBranch s off true = .next t ∧ Trapped (targetFault a) s.me.pc s t := by
  simp only [condBranch, if_true, ha, checkTarget_misaligned h, Ans.trap_bind]
  exact finishJump_trap hs _

variable {s' : State} (h : a.extractLsb' 0 2 = 0)
include h

theorem condBranch_arrives (hw : secondWord s a = .ok s' false) :
    ∃ t, condBranch s off true = .next t ∧ ArrivesAt a s' t ∧ Frame {} s' t := by
  simp only [condBranch, if_true, ha, checkTarget_aligned h hw, Bool.false_eq_true, if_false, Ans.ok_bind, finishJump]
  exact ⟨_, rfl, ⟨rfl, rfl, rfl, by simp [State.retireTo, Core.retire]⟩, (s'.noteBranch_frame true).trans (State.retireTo_frame _ a)⟩
theorem condBranch_to_second_word (hw : secondWord s a = .ok s' true) (hs : s'.me.inTrap = false) :
    ∃ t, condBranch s off true = .next t ∧ Trapped (targetFault a) s'.me.pc s' t := by
  simp only [condBranch, if_true, ha, checkTarget_aligned h hw, Ans.trap_bind]
  exact finishJump_trap hs _
end

/-- Settles O23: by the branch's outcome and, where it is taken, by what the check of its target answers. -/
theorem branchesGoWhereTheySay : Obligations.BranchesGoWhereTheySay := by
  unfold Obligations.BranchesGoWhereTheySay
  refine ⟨fun present w => decodeWord_of_unassigned_condition, ?_⟩
  intro i s off p hform a
  obtain ⟨taken, htaken, hexec⟩ := exec_of_branchForm hform
  have ha : branchTarget s off = a := branchTarget_eq s off
  rw [hexec, ← htaken]
  refine ⟨?untaken, ?arrives, ?second, ?misaligned⟩
  case untaken =>
    intro hp
    rw [eq_false_of_ne_true hp]
    exact condBranch_untaken s off
  all_goals
    rintro rfl
  case arrives => exact fun h s' hw => condBranch_arrives ha h hw
  case second => exact fun h s' hw hs => condBranch_to_second_word ha h hw hs
  case misaligned => exact fun h hs => condBranch_misaligned ha h hs

end Sys2Proof.Machine
end

section
/-! SUPPORT. Decoding the word of an instruction: the fields of a sum of fields, and each row of the opcode table (02 R43 to R50). -/
namespace Sys2Proof

/-! ### A field of a sum of fields (R43) -/

/-- A field below those that follow it. -/
@[simp] theorem fld_add_above {lo n k : Nat} (w x : Nat) (h : k % 2 ^ (lo + n) = 0) : fld (w + x * k) lo n = fld w lo n := by
  obtain ⟨m, rfl⟩ := Nat.dvd_of_mod_eq_zero h
  have hx : x * (2 ^ (lo + n) * m) = x * m * 2 ^ n * 2 ^ lo := by
    rw [Nat.pow_add]
    grind
  rw [fld, hx, Nat.add_mul_div_right _ _ (Nat.two_pow_pos lo), Nat.add_mul_mod_self_right, fld]
/-- The field itself, where nothing else stands. -/
@[simp] theorem fld_add_at {lo n w x k : Nat} (hk : k = 2 ^ lo) (hx : x < 2 ^ n) (h : w % 2 ^ (lo + n) < 2 ^ lo) :
    fld (w + x * k) lo n = x := by
  have hfree : w / 2 ^ lo % 2 ^ n = 0 := by
    rw [← Nat.mod_mul_right_div_self, ← Nat.pow_add, Nat.div_eq_of_lt h]
  rw [fld, hk, Nat.add_mul_div_right _ _ (Nat.two_pow_pos lo), Nat.add_mod, hfree, Nat.zero_add, Nat.mod_mod, Nat.mod_eq_of_lt hx]
/-- The lowest field. -/
@[simp] theorem fld_add_lowest {n w x : Nat} (hx : x < 2 ^ n) (h : w % 2 ^ n = 0) : fld (w + x) 0 n = x := by
  simpa using fld_add_at (lo := 0) (w := w) (k := 1) rfl hx (by simp [h])
/-- A field above one that does not reach it. -/
@[simp] theorem fld_add_below {lo n w x : Nat} (h : w % 2 ^ lo + x < 2 ^ lo) : fld (w + x) lo n = fld w lo n := by
  have hsum : w + x = 2 ^ lo * (w / 2 ^ lo) + (w % 2 ^ lo + x) := by rw [← Nat.add_assoc, Nat.div_add_mod]
  rw [fld, hsum, Nat.mul_add_div (Nat.two_pow_pos lo), Nat.div_eq_of_lt h, Nat.add_zero, fld]
/-- A field of the fixed bits of an encoding. -/
@[simp] theorem fld_literal (a lo n : Nat) : fld (no_index (OfNat.ofNat a)) lo n = OfNat.ofNat a / 2 ^ lo % 2 ^ n := rfl

/-! ### Field codes (R46, R48) -/

theorem Ord.code_lt (x : Ord) : x.code < 4 := by cases x <;> decide
theorem Scope.code_lt (x : Scope) : x.code < 4 := by cases x <;> decide
theorem Rnd.code_lt (x : Rnd) : x.code < 8 := by cases x <;> decide
theorem Size.code_lt (x : Size) : x.code < 4 := by cases x <;> decide
theorem Fmt.code_lt (x : Fmt) : x.code < 16 := by cases x <;> decide
theorem AccMode.code_lt (x : AccMode) : x.code < 2 := by cases x <;> decide
theorem Access.code_lt (x : Access) : x.code < 4 := by cases x <;> decide
theorem Cond.code_lt (x : Cond) : x.code < 8 := by cases x <;> decide
theorem RedOp.code_lt (x : RedOp) : x.code < 4 := by cases x <;> decide
theorem TbcMode.code_lt (x : TbcMode) : x.code < 4 := by cases x <;> decide
theorem TrndMode.code_lt (x : TrndMode) : x.code < 4 := by cases x <;> decide
theorem Q4Type.code_lt (x : Q4Type) : x.code < 4 := by cases x <;> decide
theorem FenceSet.code_lt (x : FenceSet) : x.code < 8 := by
  obtain ⟨l, s, e⟩ := x
  revert l s e; decide
@[simp] theorem Ord.ofCode_code (x : Ord) : Ord.ofCode x.code = x := by cases x <;> rfl
@[simp] theorem Scope.ofCode_code (x : Scope) : Scope.ofCode x.code = x := by cases x <;> rfl
@[simp] theorem Rnd.ofCode_code (x : Rnd) : Rnd.ofCode x.code = some x := by cases x <;> rfl
@[simp] theorem Size.ofCode_code (x : Size) : Size.ofCode x.code = x := by cases x <;> rfl
@[simp] theorem Fmt.ofCode_code (x : Fmt) : Fmt.ofCode x.code = some x := by cases x <;> rfl
@[simp] theorem AccMode.ofCode_code (x : AccMode) : AccMode.ofCode x.code = x := by cases x <;> rfl
@[simp] theorem Access.ofCode_code (x : Access) : Access.ofCode x.code = some x := by cases x <;> rfl
@[simp] theorem Cond.ofCode_code (x : Cond) : Cond.ofCode x.code = x := by cases x <;> rfl
@[simp] theorem RedOp.ofCode_code (x : RedOp) : RedOp.ofCode x.code = some x := by cases x <;> rfl
@[simp] theorem TbcMode.ofCode_code (x : TbcMode) : TbcMode.ofCode x.code = some x := by cases x <;> rfl
@[simp] theorem TrndMode.ofCode_code (x : TrndMode) : TrndMode.ofCode x.code = some x := by cases x <;> rfl
@[simp] theorem Q4Type.ofCode_code (x : Q4Type) : Q4Type.ofCode x.code = x := by cases x <;> rfl
@[simp] theorem FenceSet.ofCode_code (x : FenceSet) : FenceSet.ofCode x.code = x := by
  obtain ⟨l, s, e⟩ := x
  revert l s e; decide
@[simp] theorem toNat_beq_one (b : Bool) : (b.toNat == 1) = b := by cases b <;> rfl

/-! ### Each row of the opcode table -/

/-- The word of an instruction, if it has one, is read as the instruction. -/
def Decodes (i : Instr) : Prop := ∀ w, encode i = some w → decodeMajor w = some (some i)

/-! Major 0x01 -/

theorem decodes_br_ga_gb_off (ga gb : GReg) (off : BitVec 12) :
    Decodes (.beq ga gb off) ∧ Decodes (.bne ga gb off) ∧ Decodes (.blt ga gb off) ∧ Decodes (.bge ga gb off) ∧
    Decodes (.bltu ga gb off) ∧ Decodes (.bgeu ga gb off) := by
  and_intros
  all_goals
    rintro _ ⟨⟩
    simp (disch := omega) [decodeMajor, decBr]

/-! Major 0x02 -/

theorem decodes_j_off (off : BitVec 25) : Decodes (.j off) := by
  rintro _ ⟨⟩
  simp (disch := omega) [decodeMajor, decJ]

/-! Major 0x03 -/

theorem decodes_jal_gd_off (gd : GReg) (off : BitVec 20) : Decodes (.jal gd off) := by
  rintro _ ⟨⟩
  simp (disch := omega) [decodeMajor, decJal]

/-! Major 0x04 -/

theorem decodes_jalr_gd_ga_imm (gd ga : GReg) (imm : BitVec 15) : Decodes (.jalr gd ga imm) := by
  rintro _ ⟨⟩
  simp (disch := omega) [decodeMajor, decJalr]

/-! Major 0x05 -/

theorem decodes_ldi_gd_ga_imm (gd ga : GReg) (imm : BitVec 12) :
    Decodes (.ldb gd ga imm) ∧ Decodes (.ldbz gd ga imm) ∧ Decodes (.ldh gd ga imm) ∧ Decodes (.ldhz gd ga imm) ∧
    Decodes (.ldw gd ga imm) ∧ Decodes (.ldwz gd ga imm) ∧ Decodes (.ldd gd ga imm) := by
  and_intros
  all_goals
    rintro _ ⟨⟩
    simp (disch := omega) [decodeMajor, decLdi]

/-! Major 0x06 -/

theorem decodes_sti_gd_ga_imm (gd ga : GReg) (imm : BitVec 12) :
    Decodes (.stb gd ga imm) ∧ Decodes (.sth gd ga imm) ∧ Decodes (.stw gd ga imm) ∧ Decodes (.std gd ga imm) := by
  and_intros
  all_goals
    rintro _ ⟨⟩
    simp (disch := omega) [decodeMajor, decSti]

/-! Major 0x07 -/

theorem decodes_mem_gd_ga_ord_sc (gd ga : GReg) (ord : Ord) (sc : Scope) :
    Decodes (.ldbOrd gd ga ord sc) ∧ Decodes (.ldbzOrd gd ga ord sc) ∧ Decodes (.ldhOrd gd ga ord sc) ∧
    Decodes (.ldhzOrd gd ga ord sc) ∧ Decodes (.ldwOrd gd ga ord sc) ∧ Decodes (.ldwzOrd gd ga ord sc) ∧
    Decodes (.lddOrd gd ga ord sc) := by
  have := ord.code_lt
  have := sc.code_lt
  and_intros
  all_goals
    rintro _ ⟨⟩
    simp (disch := omega) [decodeMajor, decMem]
theorem decodes_mem_ga_gb_ord_sc (ga gb : GReg) (ord : Ord) (sc : Scope) :
    Decodes (.stbOrd ga gb ord sc) ∧ Decodes (.sthOrd ga gb ord sc) ∧ Decodes (.stwOrd ga gb ord sc) ∧ Decodes (.stdOrd ga gb ord sc) ∧
    Decodes (.redaddW ga gb ord sc) ∧ Decodes (.redaddD ga gb ord sc) ∧ Decodes (.redfaddW ga gb ord sc) ∧
    Decodes (.redmaxW ga gb ord sc) ∧ Decodes (.redmaxD ga gb ord sc) := by
  have := ord.code_lt
  have := sc.code_lt
  and_intros
  all_goals
    rintro _ ⟨⟩
    simp (disch := omega) [decodeMajor, decMem]
theorem decodes_mem_gd_ga_gb_ord_sc (gd ga gb : GReg) (ord : Ord) (sc : Scope) :
    Decodes (.amoaddW gd ga gb ord sc) ∧ Decodes (.amoandW gd ga gb ord sc) ∧ Decodes (.amoorW gd ga gb ord sc) ∧
    Decodes (.amoxorW gd ga gb ord sc) ∧ Decodes (.amominW gd ga gb ord sc) ∧ Decodes (.amomaxW gd ga gb ord sc) ∧
    Decodes (.amominuW gd ga gb ord sc) ∧ Decodes (.amomaxuW gd ga gb ord sc) ∧ Decodes (.amoswpW gd ga gb ord sc) ∧
    Decodes (.amocasW gd ga gb ord sc) ∧ Decodes (.amofaddW gd ga gb ord sc) := by
  have := ord.code_lt
  have := sc.code_lt
  and_intros
  all_goals
    rintro _ ⟨⟩
    simp (disch := omega) [decodeMajor, decMem]
theorem decodes_mem_gd_ga_gb_ord_sc_doubleword (gd ga gb : GReg) (ord : Ord) (sc : Scope) :
    Decodes (.amoaddD gd ga gb ord sc) ∧ Decodes (.amoandD gd ga gb ord sc) ∧ Decodes (.amoorD gd ga gb ord sc) ∧
    Decodes (.amoxorD gd ga gb ord sc) ∧ Decodes (.amominD gd ga gb ord sc) ∧ Decodes (.amomaxD gd ga gb ord sc) ∧
    Decodes (.amominuD gd ga gb ord sc) ∧ Decodes (.amomaxuD gd ga gb ord sc) ∧ Decodes (.amoswpD gd ga gb ord sc) ∧
    Decodes (.amocasD gd ga gb ord sc) ∧ Decodes (.amofaddD gd ga gb ord sc) := by
  have := ord.code_lt
  have := sc.code_lt
  and_intros
  all_goals
    rintro _ ⟨⟩
    simp (disch := omega) [decodeMajor, decMem]
/-! Major 0x08 -/

theorem decodes_sync_set_sc (set : FenceSet) (sc : Scope) : Decodes (.fence set sc) := by
  have := set.code_lt
  have := sc.code_lt
  rintro _ ⟨⟩
  simp (disch := omega) [decodeMajor, decSync]
theorem decodes_sync_ga_gb_sc (ga gb : GReg) (sc : Scope) : Decodes (.relb ga gb sc) := by
  have := sc.code_lt
  rintro _ ⟨⟩
  simp (disch := omega) [decodeMajor, decSync]
theorem decodes_sync_gd_ga_sc (gd ga : GReg) (sc : Scope) : Decodes (.acqb gd ga sc) := by
  have := sc.code_lt
  rintro _ ⟨⟩
  simp (disch := omega) [decodeMajor, decSync]
theorem decodes_sync_ga (ga : GReg) : Decodes (.clwb ga) ∧ Decodes (.clinv ga) := by
  and_intros
  all_goals
    rintro _ ⟨⟩
    simp (disch := omega) [decodeMajor, decSync]
theorem decodes_sync_ga_gb_ef_priv (ga gb : GReg) (ef priv : Bool) : Decodes (.pref ga gb ef priv) := by
  have := ef.toNat_lt
  have := priv.toNat_lt
  rintro _ ⟨⟩
  simp (disch := omega) [decodeMajor, decSync]
theorem decodes_sync_gd_ga_gb_ways (gd ga gb : GReg) (ways : Fin 8) : Decodes (.retain gd ga gb ways) := by
  rintro _ ⟨⟩
  simp (disch := omega) [decodeMajor, decSync]
theorem decodes_sync_gd_ga (gd ga : GReg) : Decodes (.unpin gd ga) := by
  rintro _ ⟨⟩
  simp (disch := omega) [decodeMajor, decSync]

/-! Major 0x09 -/

theorem decodes_msg_ga_gb_m (ga gb : GReg) (m : MReg) : Decodes (.send ga gb m) := by
  rintro _ ⟨⟩
  simp (disch := omega) [decodeMajor, decMsg]
theorem decodes_msg_ga_gb_m_sc (ga gb : GReg) (m : MReg) (sc : Scope) : Decodes (.sendb ga gb m sc) := by
  have := sc.code_lt
  rintro _ ⟨⟩
  simp (disch := omega) [decodeMajor, decMsg]
theorem decodes_msg_gd_m (gd : GReg) (m : MReg) : Decodes (.recv gd m) := by
  rintro _ ⟨⟩
  simp (disch := omega) [decodeMajor, decMsg]
theorem decodes_msg_gd_ga_gb (gd ga gb : GReg) : Decodes (.recvany gd ga gb) := by
  rintro _ ⟨⟩
  simp (disch := omega) [decodeMajor, decMsg]
theorem decodes_msg_gd_gb_m (gd gb : GReg) (m : MReg) : Decodes (.peek gd gb m) := by
  rintro _ ⟨⟩
  simp (disch := omega) [decodeMajor, decMsg]

/-! Major 0x0A -/

theorem decodes_copy_gd_ga_gb_m_sc (gd ga gb : GReg) (m : MReg) (sc : Scope) :
    Decodes (.cpy gd ga gb m sc) ∧ Decodes (.cpyf gd ga gb m sc) := by
  have := sc.code_lt
  and_intros
  all_goals
    rintro _ ⟨⟩
    simp (disch := omega) [decodeMajor, decCopy]
theorem decodes_copy_gd_ga_gb_m (gd ga gb : GReg) (m : MReg) :
    Decodes (.aredFp32 gd ga gb m) ∧ Decodes (.aredBf16 gd ga gb m) := by
  and_intros
  all_goals
    rintro _ ⟨⟩
    simp (disch := omega) [decodeMajor, decCopy]

/-! Major 0x0B -/

theorem decodes_tm_ta_ga_gb_band_ef (ta : TReg) (ga gb : GReg) (band ef : Bool) :
    Decodes (.tld ta ga gb band ef) ∧ Decodes (.tst ta ga gb band ef) := by
  have := band.toNat_lt
  have := ef.toNat_lt
  and_intros
  all_goals
    rintro _ ⟨⟩
    simp (disch := omega) [decodeMajor, decTm]
theorem decodes_tm_ta_tb_ga_gb_band_ef (ta tb : TReg) (ga gb : GReg) (band ef : Bool) :
    Decodes (.tgth ta tb ga gb band ef) ∧ Decodes (.tsct ta tb ga gb band ef) := by
  have := band.toNat_lt
  have := ef.toNat_lt
  and_intros
  all_goals
    rintro _ ⟨⟩
    simp (disch := omega) [decodeMajor, decTm]
theorem decodes_tm_ta_ga (ta : TReg) (ga : GReg) : Decodes (.tshapeSet ta ga) := by
  rintro _ ⟨⟩
  simp (disch := omega) [decodeMajor, decTm]
theorem decodes_tm_ta_gb (ta : TReg) (gb : GReg) : Decodes (.tshapeRead ta gb) := by
  rintro _ ⟨⟩
  simp (disch := omega) [decodeMajor, decTm]
theorem decodes_tm_ta (ta : TReg) : Decodes (.tzero ta) := by
  rintro _ ⟨⟩
  simp (disch := omega) [decodeMajor, decTm]
theorem decodes_tm_ta_tb (ta tb : TReg) : Decodes (.tmov ta tb) := by
  rintro _ ⟨⟩
  simp (disch := omega) [decodeMajor, decTm]
theorem decodes_tm_ta_ga_gb_size (ta : TReg) (ga gb : GReg) (size : Size) : Decodes (.tmovs ta ga gb size) := by
  have := size.code_lt
  rintro _ ⟨⟩
  simp (disch := omega) [decodeMajor, decTm]
theorem decodes_tm_w_fmt_ga_gb_ef (w : TReg) (fmt : Fmt) (ga gb : GReg) (ef : Bool) : Decodes (.wld w fmt ga gb ef) := by
  have := fmt.code_lt
  have := ef.toNat_lt
  rintro _ ⟨⟩
  simp (disch := omega) [decodeMajor, decTm]
theorem decodes_tm_w_tb (w tb : TReg) : Decodes (.wldt w tb) := by
  rintro _ ⟨⟩
  simp (disch := omega) [decodeMajor, decTm]
theorem decodes_tm_a_ga (a : AReg) (ga : GReg) : Decodes (.accsv a ga) := by
  rintro _ ⟨⟩
  simp (disch := omega) [decodeMajor, decTm]
theorem decodes_tm_a_ga_mode (a : AReg) (ga : GReg) (mode : AccMode) : Decodes (.accld a ga mode) := by
  have := mode.code_lt
  rintro _ ⟨⟩
  simp (disch := omega) [decodeMajor, decTm]

/-! Major 0x0C -/

theorem decodes_prog_gd_ga_gb (gd ga gb : GReg) : Decodes (.tkadd gd ga gb) ∧ Decodes (.lnch gd ga gb) := by
  and_intros
  all_goals
    rintro _ ⟨⟩
    simp (disch := omega) [decodeMajor, decProg]
theorem decodes_prog_gd_ga_gb_sc (gd ga gb : GReg) (sc : Scope) : Decodes (.tkaddb gd ga gb sc) := by
  have := sc.code_lt
  rintro _ ⟨⟩
  simp (disch := omega) [decodeMajor, decProg]
theorem decodes_prog_gd_ga_lgw_lgh (gd ga : GReg) (lgw : BitVec 3) (lgh : BitVec 2) : Decodes (.recvt gd ga lgw lgh) := by
  rintro _ ⟨⟩
  simp (disch := omega) [decodeMajor, decProg]
theorem decodes_prog_plain : Decodes .tkdone := by
  rintro _ ⟨⟩
  simp (disch := omega) [decodeMajor, decProg]
theorem decodes_prog_ga_gb (ga gb : GReg) : Decodes (.tksnap ga gb) := by
  rintro _ ⟨⟩
  simp (disch := omega) [decodeMajor, decProg]
theorem decodes_prog_lgw_lgh_m (lgw : BitVec 3) (lgh : BitVec 2) (m : MReg) : Decodes (.bar lgw lgh m) := by
  rintro _ ⟨⟩
  simp (disch := omega) [decodeMajor, decProg]
theorem decodes_prog_ga_m (ga : GReg) (m : MReg) : Decodes (.lkacq ga m) ∧ Decodes (.lktry ga m) := by
  and_intros
  all_goals
    rintro _ ⟨⟩
    simp (disch := omega) [decodeMajor, decProg]
theorem decodes_prog_ga (ga : GReg) : Decodes (.lkrel ga) := by
  rintro _ ⟨⟩
  simp (disch := omega) [decodeMajor, decProg]
theorem decodes_prog_ga_lgw_lgh_m (ga : GReg) (lgw : BitVec 3) (lgh : BitVec 2) (m : MReg) :
    Decodes (.mredAddI64 ga lgw lgh m) ∧ Decodes (.mredMaxI64 ga lgw lgh m) ∧ Decodes (.mredMinI64 ga lgw lgh m) ∧
    Decodes (.mredAndI64 ga lgw lgh m) ∧ Decodes (.mredOrI64 ga lgw lgh m) ∧ Decodes (.mredAddF32 ga lgw lgh m) ∧
    Decodes (.mredMaxF32 ga lgw lgh m) ∧ Decodes (.mredMinF32 ga lgw lgh m) := by
  and_intros
  all_goals
    rintro _ ⟨⟩
    simp (disch := omega) [decodeMajor, decProg]

/-! Major 0x0D -/

theorem decodes_sys_gd_n (gd : GReg) (n : BitVec 10) : Decodes (.sysrd gd n) := by
  rintro _ ⟨⟩
  simp (disch := omega) [decodeMajor, decSys]
theorem decodes_sys_ga_n (ga : GReg) (n : BitVec 10) : Decodes (.syswr ga n) := by
  rintro _ ⟨⟩
  simp (disch := omega) [decodeMajor, decSys]
theorem decodes_sys_code (code : BitVec 10) : Decodes (.trap code) := by
  rintro _ ⟨⟩
  simp (disch := omega) [decodeMajor, decSys]
theorem decodes_sys_plain : Decodes .tret ∧ Decodes .halt ∧ Decodes .nopC := by
  and_intros
  all_goals
    rintro _ ⟨⟩
    simp (disch := omega) [decodeMajor, decSys]
theorem decodes_sys_ga_gb_p (ga gb : GReg) (p : Fin 8) : Decodes (.xlatiRange ga gb p) := by
  rintro _ ⟨⟩
  simp (disch := omega) [decodeMajor, decSys]
theorem decodes_sys_ga_p (ga : GReg) (p : Fin 8) : Decodes (.xlatiAsid ga p) := by
  rintro _ ⟨⟩
  simp (disch := omega) [decodeMajor, decSys]
theorem decodes_sys_p (p : Fin 8) : Decodes (.xlatiAll p) := by
  rintro _ ⟨⟩
  simp (disch := omega) [decodeMajor, decSys]
theorem decodes_sys_gd_ga_user_acc (gd ga : GReg) (user : Bool) (acc : Access) : Decodes (.xlatp gd ga user acc) := by
  have := user.toNat_lt
  have := acc.code_lt
  rintro _ ⟨⟩
  simp (disch := omega) [decodeMajor, decSys]
theorem decodes_sys_ga (ga : GReg) : Decodes (.ctxsv ga) ∧ Decodes (.ctxld ga) := by
  and_intros
  all_goals
    rintro _ ⟨⟩
    simp (disch := omega) [decodeMajor, decSys]

/-! Major 0x0E -/

theorem decodes_dbg_code (code : BitVec 10) : Decodes (.brk code) := by
  rintro _ ⟨⟩
  simp (disch := omega) [decodeMajor, decDbg]
theorem decodes_dbg_ga_code (ga : GReg) (code : BitVec 10) : Decodes (.trcmark ga code) := by
  rintro _ ⟨⟩
  simp (disch := omega) [decodeMajor, decDbg]
theorem decodes_dbg_gd_n (gd : GReg) (n : BitVec 10) : Decodes (.perfrd gd n) := by
  rintro _ ⟨⟩
  simp (disch := omega) [decodeMajor, decDbg]

/-! Major 0x20 -/

theorem decodes_alu_gd_ga_gb (gd ga gb : GReg) :
    Decodes (.add gd ga gb) ∧ Decodes (.sub gd ga gb) ∧ Decodes (.mul gd ga gb) ∧ Decodes (.mulh gd ga gb) ∧
    Decodes (.mulhu gd ga gb) ∧ Decodes (.div gd ga gb) ∧ Decodes (.divu gd ga gb) ∧ Decodes (.rem gd ga gb) ∧
    Decodes (.remu gd ga gb) ∧ Decodes (.and gd ga gb) ∧ Decodes (.or gd ga gb) ∧ Decodes (.xor gd ga gb) ∧ Decodes (.sll gd ga gb) ∧
    Decodes (.srl gd ga gb) ∧ Decodes (.sra gd ga gb) ∧ Decodes (.slt gd ga gb) ∧ Decodes (.sltu gd ga gb) ∧ Decodes (.min gd ga gb) ∧
    Decodes (.max gd ga gb) ∧ Decodes (.minu gd ga gb) ∧ Decodes (.maxu gd ga gb) := by
  and_intros
  all_goals
    rintro _ ⟨⟩
    simp (disch := omega) [decodeMajor, decAlu]
theorem decodes_alu_gd_ga (gd ga : GReg) : Decodes (.clz gd ga) ∧ Decodes (.ctz gd ga) ∧ Decodes (.popc gd ga) := by
  and_intros
  all_goals
    rintro _ ⟨⟩
    simp (disch := omega) [decodeMajor, decAlu]
theorem decodes_alu_gd_ga_gb_gc (gd ga gb gc : GReg) : Decodes (.sel gd ga gb gc) := by
  rintro _ ⟨⟩
  simp (disch := omega) [decodeMajor, decAlu]

/-! Major 0x21 -/

theorem decodes_alui_gd_ga_imm (gd ga : GReg) (imm : BitVec 12) :
    Decodes (.addi gd ga imm) ∧ Decodes (.slti gd ga imm) ∧ Decodes (.andi gd ga imm) ∧ Decodes (.ori gd ga imm) ∧
    Decodes (.xori gd ga imm) := by
  and_intros
  all_goals
    rintro _ ⟨⟩
    simp (disch := omega) [decodeMajor, decAlui]
theorem decodes_alui_gd_ga_sh (gd ga : GReg) (sh : BitVec 6) :
    Decodes (.slli gd ga sh) ∧ Decodes (.srli gd ga sh) ∧ Decodes (.srai gd ga sh) := by
  and_intros
  all_goals
    rintro _ ⟨⟩
    simp (disch := omega) [decodeMajor, decAlui]

/-! Major 0x22 -/

theorem decodes_lhi_gd_imm (gd : GReg) (imm : BitVec 20) : Decodes (.lhi gd imm) := by
  rintro _ ⟨⟩
  simp (disch := omega) [decodeMajor, decLhi]

/-! Major 0x23 -/

theorem decodes_bf_gd_ga_pos_width (gd ga : GReg) (pos : BitVec 6) (width : BitVec 7) :
    Decodes (.bfxz gd ga pos width) ∧ Decodes (.bfxs gd ga pos width) ∧ Decodes (.bfins gd ga pos width) := by
  and_intros
  all_goals
    rintro _ ⟨⟩
    simp (disch := omega) [decodeMajor, decBf]

/-! Major 0x24 -/

theorem decodes_fp_gd_ga_gb_rnd (gd ga gb : GReg) (rnd : Rnd) :
    Decodes (.fadd gd ga gb rnd) ∧ Decodes (.fsub gd ga gb rnd) ∧ Decodes (.fmul gd ga gb rnd) := by
  have := rnd.code_lt
  and_intros
  all_goals
    rintro _ ⟨⟩
    simp (disch := omega) [decodeMajor, decFp]
theorem decodes_fp_gd_ga_gb (gd ga gb : GReg) : Decodes (.fmin gd ga gb) ∧ Decodes (.fmax gd ga gb) := by
  and_intros
  all_goals
    rintro _ ⟨⟩
    simp (disch := omega) [decodeMajor, decFp]
theorem decodes_fp_gd_ga_rnd (gd ga : GReg) (rnd : Rnd) : Decodes (.fcvtif gd ga rnd) ∧ Decodes (.fcvtfi gd ga rnd) := by
  have := rnd.code_lt
  and_intros
  all_goals
    rintro _ ⟨⟩
    simp (disch := omega) [decodeMajor, decFp]
theorem decodes_fp_gd_ga_gb_cond (gd ga gb : GReg) (cond : Cond) : Decodes (.fcmp gd ga gb cond) := by
  have := cond.code_lt
  rintro _ ⟨⟩
  simp (disch := omega) [decodeMajor, decFp]

/-! Major 0x25 -/

theorem decodes_ffma_gd_ga_gb_gc_rnd (gd ga gb gc : GReg) (rnd : Rnd) : Decodes (.ffma gd ga gb gc rnd) := by
  have := rnd.code_lt
  rintro _ ⟨⟩
  simp (disch := omega) [decodeMajor, decFfma]

/-! Major 0x26 -/

theorem decodes_va_td_ta_tb_sat_rnd (td ta tb : TReg) (sat : Bool) (rnd : Rnd) :
    Decodes (.tadd td ta tb sat rnd) ∧ Decodes (.tsub td ta tb sat rnd) ∧ Decodes (.tmul td ta tb sat rnd) := by
  have := sat.toNat_lt
  have := rnd.code_lt
  and_intros
  all_goals
    rintro _ ⟨⟩
    simp (disch := omega) [decodeMajor, decVa]
theorem decodes_va_td_ta_tb_tc_sat_rnd (td ta tb tc : TReg) (sat : Bool) (rnd : Rnd) : Decodes (.tfma td ta tb tc sat rnd) := by
  have := sat.toNat_lt
  have := rnd.code_lt
  rintro _ ⟨⟩
  simp (disch := omega) [decodeMajor, decVa]
theorem decodes_va_td_ta_tb (td ta tb : TReg) :
    Decodes (.tmax td ta tb) ∧ Decodes (.tmin td ta tb) ∧ Decodes (.tand td ta tb) ∧ Decodes (.tor td ta tb) ∧
    Decodes (.txor td ta tb) := by
  and_intros
  all_goals
    rintro _ ⟨⟩
    simp (disch := omega) [decodeMajor, decVa]
theorem decodes_va_td_ta_tb_tc (td ta tb tc : TReg) : Decodes (.tsel td ta tb tc) := by
  rintro _ ⟨⟩
  simp (disch := omega) [decodeMajor, decVa]
theorem decodes_va_td_ta_tb_cond (td ta tb : TReg) (cond : Cond) : Decodes (.tcmp td ta tb cond) := by
  have := cond.code_lt
  rintro _ ⟨⟩
  simp (disch := omega) [decodeMajor, decVa]
theorem decodes_va_td_ta_gb_sat_rnd (td ta : TReg) (gb : GReg) (sat : Bool) (rnd : Rnd) :
    Decodes (.tscl td ta gb sat rnd) ∧ Decodes (.tclamp td ta gb sat rnd) := by
  have := sat.toNat_lt
  have := rnd.code_lt
  and_intros
  all_goals
    rintro _ ⟨⟩
    simp (disch := omega) [decodeMajor, decVa]

/-! Major 0x27 -/

theorem decodes_vb_td_ta_sat (td ta : TReg) (sat : Bool) : Decodes (.tabs td ta sat) ∧ Decodes (.tneg td ta sat) := by
  have := sat.toNat_lt
  and_intros
  all_goals
    rintro _ ⟨⟩
    simp (disch := omega) [decodeMajor, decVb]
theorem decodes_vb_td_ta_sat_rnd (td ta : TReg) (sat : Bool) (rnd : Rnd) :
    Decodes (.texp2 td ta sat rnd) ∧ Decodes (.tlog2 td ta sat rnd) ∧ Decodes (.trcp td ta sat rnd) ∧ Decodes (.trsq td ta sat rnd) ∧
    Decodes (.tsqrt td ta sat rnd) := by
  have := sat.toNat_lt
  have := rnd.code_lt
  and_intros
  all_goals
    rintro _ ⟨⟩
    simp (disch := omega) [decodeMajor, decVb]
theorem decodes_vb_td_ta_part_fmt_sat_rnd (td ta : TReg) (part : Fin 4) (fmt : Fmt) (sat : Bool) (rnd : Rnd) :
    Decodes (.tcvt td ta part fmt sat rnd) := by
  have := fmt.code_lt
  have := sat.toNat_lt
  have := rnd.code_lt
  rintro _ ⟨⟩
  simp (disch := omega) [decodeMajor, decVb]
theorem decodes_vb_td_ta_blk_ty_sat_rnd (td ta : TReg) (blk : Fin 8) (ty : Q4Type) (sat : Bool) (rnd : Rnd) :
    Decodes (.tqnt td ta blk ty sat rnd) := by
  have := ty.code_lt
  have := sat.toNat_lt
  have := rnd.code_lt
  rintro _ ⟨⟩
  simp (disch := omega) [decodeMajor, decVb]
theorem decodes_vb_td_ta_op_col_sat_rnd (td ta : TReg) (op : RedOp) (col sat : Bool) (rnd : Rnd) :
    Decodes (.tred td ta op col sat rnd) := by
  have := op.code_lt
  have := col.toNat_lt
  have := sat.toNat_lt
  have := rnd.code_lt
  rintro _ ⟨⟩
  simp (disch := omega) [decodeMajor, decVb]
theorem decodes_vb_td_ta_gb_mode (td ta : TReg) (gb : GReg) (mode : TbcMode) : Decodes (.tbc td ta gb mode) := by
  have := mode.code_lt
  rintro _ ⟨⟩
  simp (disch := omega) [decodeMajor, decVb]
theorem decodes_vb_td_ta (td ta : TReg) : Decodes (.ttr td ta) := by
  rintro _ ⟨⟩
  simp (disch := omega) [decodeMajor, decVb]
theorem decodes_vb_td_ta_gb_sat_rnd (td ta : TReg) (gb : GReg) (sat : Bool) (rnd : Rnd) : Decodes (.tiota td ta gb sat rnd) := by
  have := sat.toNat_lt
  have := rnd.code_lt
  rintro _ ⟨⟩
  simp (disch := omega) [decodeMajor, decVb]
theorem decodes_vb_td_ta_gb_mode_sat_rnd (td ta : TReg) (gb : GReg) (mode : TrndMode) (sat : Bool) (rnd : Rnd) :
    Decodes (.trnd td ta gb mode sat rnd) := by
  have := mode.code_lt
  have := sat.toNat_lt
  have := rnd.code_lt
  rintro _ ⟨⟩
  simp (disch := omega) [decodeMajor, decVb]

/-! Major 0x28 -/

theorem decodes_mx_a_t_w_q (a : AReg) (t w : TReg) (q : Fin 4) : Decodes (.mma a t w q) ∧ Decodes (.mmaz a t w q) := by
  and_intros
  all_goals
    rintro _ ⟨⟩
    simp (disch := omega) [decodeMajor, decMx]
theorem decodes_mx_a_mode (a : AReg) (mode : AccMode) : Decodes (.accz a mode) := by
  have := mode.code_lt
  rintro _ ⟨⟩
  simp (disch := omega) [decodeMajor, decMx]
theorem decodes_mx_a_t_gs_q_h_he_sat_rnd (a : AReg) (t : TReg) (gs : GReg) (q : Fin 4) (h : AReg) (he sat : Bool) (rnd : Rnd) :
    Decodes (.drain a t gs q h he sat rnd) := by
  have := he.toNat_lt
  have := sat.toNat_lt
  have := rnd.code_lt
  rintro _ ⟨⟩
  simp (disch := omega) [decodeMajor, decMx]
theorem decodes_mx_t_h (t : TReg) (h : AReg) : Decodes (.hstrd t h) := by
  rintro _ ⟨⟩
  simp (disch := omega) [decodeMajor, decMx]
theorem decodes_mx_h (h : AReg) : Decodes (.hstclr h) := by
  rintro _ ⟨⟩
  simp (disch := omega) [decodeMajor, decMx]

/-! Major 0x29 -/

theorem decodes_xnop_plain : Decodes .xnop := by
  rintro _ ⟨⟩
  simp (disch := omega) [decodeMajor, decXnop]
/-! ### A word from its fields (R43) -/

/-- Fields side by side from the lowest up, of the widths listed. -/
def joinedFields (w lo : Nat) : List Nat → Nat
  | [] => 0
  | n :: ns => fld w lo n + 2 ^ n * joinedFields w (lo + n) ns
/-- A field is made of the fields it is divided into. -/
theorem fld_eq_joined (w : Nat) (ns : List Nat) : ∀ lo, fld w lo ns.sum = joinedFields w lo ns := by
  induction ns with
  | nil => intro lo; simp [fld, joinedFields, Nat.mod_one]
  | cons n ns ih =>
    intro lo
    rw [joinedFields, ← ih, List.sum_cons]
    unfold fld
    rw [Nat.pow_add, Nat.mod_mul, Nat.pow_add, Nat.div_div_eq_div_mul]
theorem fld_lt (w lo n : Nat) : fld w lo n < 2 ^ n := Nat.mod_lt _ (Nat.two_pow_pos n)
/-- A word with P = 0 is made of its fields. -/
theorem word_eq_joined {w : Nat} (hw : w < 2 ^ 31) (ns : List Nat) (hn : ns.sum = 31) : w = joinedFields w 0 ns := by
  rw [← fld_eq_joined, hn, fld, Nat.pow_zero, Nat.div_one, Nat.mod_eq_of_lt hw]

/-! ### What stands in a field is what the field's operand encodes to -/

@[simp] theorem val_ofNat_fld {w lo n k : Nat} [NeZero k] (h : 2 ^ n ≤ k) : (Fin.ofNat k (fld w lo n)).val = fld w lo n :=
  Nat.mod_eq_of_lt (Nat.lt_of_lt_of_le (fld_lt w lo n) h)
@[simp] theorem toNat_ofNat_fld (w lo n : Nat) : (BitVec.ofNat n (fld w lo n)).toNat = fld w lo n := by
  rw [BitVec.toNat_ofNat, Nat.mod_eq_of_lt (fld_lt w lo n)]
@[simp] theorem toNat_fld_beq_one (w lo : Nat) : (fld w lo 1 == 1).toNat = fld w lo 1 := by
  have : ∀ x < 2, (x == 1).toNat = x := by decide
  exact this _ (fld_lt w lo 1)
@[simp] theorem Ord.code_ofCode_fld (w lo : Nat) : (Ord.ofCode (fld w lo 2)).code = fld w lo 2 := by
  have : ∀ x < 4, (Ord.ofCode x).code = x := by decide
  exact this _ (fld_lt w lo 2)
@[simp] theorem Scope.code_ofCode_fld (w lo : Nat) : (Scope.ofCode (fld w lo 2)).code = fld w lo 2 := by
  have : ∀ x < 4, (Scope.ofCode x).code = x := by decide
  exact this _ (fld_lt w lo 2)
@[simp] theorem Size.code_ofCode_fld (w lo : Nat) : (Size.ofCode (fld w lo 2)).code = fld w lo 2 := by
  have : ∀ x < 4, (Size.ofCode x).code = x := by decide
  exact this _ (fld_lt w lo 2)
@[simp] theorem Q4Type.code_ofCode_fld (w lo : Nat) : (Q4Type.ofCode (fld w lo 2)).code = fld w lo 2 := by
  have : ∀ x < 4, (Q4Type.ofCode x).code = x := by decide
  exact this _ (fld_lt w lo 2)
@[simp] theorem AccMode.code_ofCode_fld (w lo : Nat) : (AccMode.ofCode (fld w lo 1)).code = fld w lo 1 := by
  have : ∀ x < 2, (AccMode.ofCode x).code = x := by decide
  exact this _ (fld_lt w lo 1)
@[simp] theorem Cond.code_ofCode_fld (w lo : Nat) : (Cond.ofCode (fld w lo 3)).code = fld w lo 3 := by
  have : ∀ x < 8, (Cond.ofCode x).code = x := by decide
  exact this _ (fld_lt w lo 3)
@[simp] theorem FenceSet.code_ofCode_fld (w lo : Nat) : (FenceSet.ofCode (fld w lo 3)).code = fld w lo 3 := by
  have : ∀ x < 8, (FenceSet.ofCode x).code = x := by decide
  exact this _ (fld_lt w lo 3)
@[simp] theorem Rnd.ofCode_eq_some {n : Nat} {x : Rnd} : Rnd.ofCode n = some x ↔ n = x.code := by
  refine ⟨fun h => ?_, fun h => h ▸ x.ofCode_code⟩
  unfold Rnd.ofCode at h; split at h <;> cases h <;> rfl
@[simp] theorem Fmt.ofCode_eq_some {n : Nat} {x : Fmt} : Fmt.ofCode n = some x ↔ n = x.code := by
  refine ⟨fun h => ?_, fun h => h ▸ x.ofCode_code⟩
  unfold Fmt.ofCode at h; split at h <;> cases h <;> rfl
@[simp] theorem Access.ofCode_eq_some {n : Nat} {x : Access} : Access.ofCode n = some x ↔ n = x.code := by
  refine ⟨fun h => ?_, fun h => h ▸ x.ofCode_code⟩
  unfold Access.ofCode at h; split at h <;> cases h <;> rfl
@[simp] theorem RedOp.ofCode_eq_some {n : Nat} {x : RedOp} : RedOp.ofCode n = some x ↔ n = x.code := by
  refine ⟨fun h => ?_, fun h => h ▸ x.ofCode_code⟩
  unfold RedOp.ofCode at h; split at h <;> cases h <;> rfl
@[simp] theorem TbcMode.ofCode_eq_some {n : Nat} {x : TbcMode} : TbcMode.ofCode n = some x ↔ n = x.code := by
  refine ⟨fun h => ?_, fun h => h ▸ x.ofCode_code⟩
  unfold TbcMode.ofCode at h; split at h <;> cases h <;> rfl
@[simp] theorem TrndMode.ofCode_eq_some {n : Nat} {x : TrndMode} : TrndMode.ofCode n = some x ↔ n = x.code := by
  refine ⟨fun h => ?_, fun h => h ▸ x.ofCode_code⟩
  unfold TrndMode.ofCode at h; split at h <;> cases h <;> rfl

/-! ### Each decoder -/

theorem encode_decBr {w : Nat} {i : Instr} (hw : w < 2 ^ 31) (hm : fld w 25 6 = 1) (h : decBr w = some (some i)) :
    encode i = some w := by
  have hword := word_eq_joined hw [12, 3, 5, 5, 6] rfl
  simp only [joinedFields, Nat.reduceAdd] at hword
  unfold decBr at h
  split at h
  all_goals
    simp only [Option.some.injEq, reduceCtorEq] at h
  all_goals
    repeat obtain ⟨_, h⟩ := h
    refine congrArg some ?_
    simp only [val_ofNat_fld, Nat.reducePow, Nat.reduceLeDiff, toNat_ofNat_fld]
    omega

theorem encode_decJ {w : Nat} {i : Instr} (hw : w < 2 ^ 31) (hm : fld w 25 6 = 2) (h : decJ w = some (some i)) :
    encode i = some w := by
  have hword := word_eq_joined hw [25, 6] rfl
  simp only [joinedFields, Nat.reduceAdd] at hword
  unfold decJ at h
  all_goals
    simp only [Option.some.injEq] at h
  all_goals
    repeat obtain ⟨_, h⟩ := h
    refine congrArg some ?_
    simp only [toNat_ofNat_fld]
    omega

theorem encode_decJal {w : Nat} {i : Instr} (hw : w < 2 ^ 31) (hm : fld w 25 6 = 3) (h : decJal w = some (some i)) :
    encode i = some w := by
  have hword := word_eq_joined hw [20, 5, 6] rfl
  simp only [joinedFields, Nat.reduceAdd] at hword
  unfold decJal at h
  all_goals
    simp only [Option.some.injEq] at h
  all_goals
    repeat obtain ⟨_, h⟩ := h
    refine congrArg some ?_
    simp only [val_ofNat_fld, Nat.reducePow, Nat.reduceLeDiff, toNat_ofNat_fld]
    omega

theorem encode_decJalr {w : Nat} {i : Instr} (hw : w < 2 ^ 31) (hm : fld w 25 6 = 4) (h : decJalr w = some (some i)) :
    encode i = some w := by
  have hword := word_eq_joined hw [15, 5, 5, 6] rfl
  simp only [joinedFields, Nat.reduceAdd] at hword
  unfold decJalr at h
  all_goals
    simp only [Option.some.injEq] at h
  all_goals
    repeat obtain ⟨_, h⟩ := h
    refine congrArg some ?_
    simp only [val_ofNat_fld, Nat.reducePow, Nat.reduceLeDiff, toNat_ofNat_fld]
    omega

theorem encode_decLdi {w : Nat} {i : Instr} (hw : w < 2 ^ 31) (hm : fld w 25 6 = 5) (h : decLdi w = some (some i)) :
    encode i = some w := by
  have hword := word_eq_joined hw [12, 3, 5, 5, 6] rfl
  simp only [joinedFields, Nat.reduceAdd] at hword
  unfold decLdi at h
  split at h
  all_goals
    simp only [Option.some.injEq, reduceCtorEq] at h
  all_goals
    repeat obtain ⟨_, h⟩ := h
    refine congrArg some ?_
    simp only [val_ofNat_fld, Nat.reducePow, Nat.reduceLeDiff, toNat_ofNat_fld]
    omega

theorem encode_decSti {w : Nat} {i : Instr} (hw : w < 2 ^ 31) (hm : fld w 25 6 = 6) (h : decSti w = some (some i)) :
    encode i = some w := by
  have hword := word_eq_joined hw [12, 3, 5, 5, 6] rfl
  simp only [joinedFields, Nat.reduceAdd] at hword
  unfold decSti at h
  split at h
  all_goals
    simp only [Option.some.injEq, reduceCtorEq] at h
  all_goals
    repeat obtain ⟨_, h⟩ := h
    refine congrArg some ?_
    simp only [val_ofNat_fld, Nat.reducePow, Nat.reduceLeDiff, toNat_ofNat_fld]
    omega

theorem encode_decMem {w : Nat} {i : Instr} (hw : w < 2 ^ 31) (hm : fld w 25 6 = 7) (h : decMem w = some (some i)) :
    encode i = some w := by
  have hword := word_eq_joined hw [6, 2, 2, 5, 5, 5, 6] rfl
  simp only [joinedFields, Nat.reduceAdd] at hword
  unfold decMem at h
  split at h
  all_goals
    simp only [Option.some.injEq, beq_iff_eq, Option.ite_none_right_eq_some, reduceCtorEq] at h
  all_goals
    repeat obtain ⟨_, h⟩ := h
    refine congrArg some ?_
    simp only [val_ofNat_fld, Nat.reducePow, Nat.reduceLeDiff, Ord.code_ofCode_fld, Scope.code_ofCode_fld]
    omega

theorem encode_decSync {w : Nat} {i : Instr} (hw : w < 2 ^ 31) (hm : fld w 25 6 = 8) (h : decSync w = some (some i)) :
    encode i = some w := by
  have hword := word_eq_joined hw [5, 2, 1, 1, 1, 5, 5, 5, 6] rfl
  have h5_3 := fld_eq_joined w [2, 1] 5
  have h5_10 := fld_eq_joined w [2, 1, 1, 1, 5] 5
  have h7_3 := fld_eq_joined w [1, 1, 1] 7
  have h7_8 := fld_eq_joined w [1, 1, 1, 5] 7
  have h8_2 := fld_eq_joined w [1, 1] 8
  have h10_15 := fld_eq_joined w [5, 5, 5] 10
  simp only [joinedFields, List.sum_cons, List.sum_nil, Nat.reduceAdd] at hword h5_3 h5_10 h7_3 h7_8 h8_2 h10_15
  unfold decSync at h
  split at h
  all_goals
    simp only [Option.some.injEq, beq_iff_eq, Option.ite_none_right_eq_some, Bool.and_eq_true, reduceCtorEq] at h
  all_goals
    repeat obtain ⟨_, h⟩ := h
    refine congrArg some ?_
    simp only [val_ofNat_fld, Nat.reducePow, Nat.reduceLeDiff, toNat_fld_beq_one, Scope.code_ofCode_fld, FenceSet.code_ofCode_fld]
    omega

theorem encode_decMsg {w : Nat} {i : Instr} (hw : w < 2 ^ 31) (hm : fld w 25 6 = 9) (h : decMsg w = some (some i)) :
    encode i = some w := by
  have hword := word_eq_joined hw [2, 3, 5, 5, 5, 5, 6] rfl
  have h10_10 := fld_eq_joined w [5, 5] 10
  simp only [joinedFields, List.sum_cons, List.sum_nil, Nat.reduceAdd] at hword h10_10
  unfold decMsg at h
  split at h
  all_goals
    simp only [Option.some.injEq, beq_iff_eq, Option.ite_none_right_eq_some, Bool.and_eq_true, reduceCtorEq] at h
  all_goals
    repeat obtain ⟨_, h⟩ := h
    refine congrArg some ?_
    simp only [val_ofNat_fld, Nat.reducePow, Nat.reduceLeDiff, Scope.code_ofCode_fld]
    omega

theorem encode_decCopy {w : Nat} {i : Instr} (hw : w < 2 ^ 31) (hm : fld w 25 6 = 10) (h : decCopy w = some (some i)) :
    encode i = some w := by
  have hword := word_eq_joined hw [2, 3, 5, 5, 5, 5, 6] rfl
  simp only [joinedFields, Nat.reduceAdd] at hword
  unfold decCopy at h
  split at h
  all_goals
    simp only [Option.some.injEq, beq_iff_eq, Option.ite_none_right_eq_some, reduceCtorEq] at h
  all_goals
    repeat obtain ⟨_, h⟩ := h
    refine congrArg some ?_
    simp only [val_ofNat_fld, Nat.reducePow, Nat.reduceLeDiff, Scope.code_ofCode_fld]
    omega

theorem encode_decTm {w : Nat} {i : Instr} (hw : w < 2 ^ 31) (hm : fld w 25 6 = 11) (h : decTm w = some (some i)) :
    encode i = some w := by
  have hword := word_eq_joined hw [5, 1, 1, 5, 5, 4, 2, 2, 6] rfl
  have h5_2 := fld_eq_joined w [1, 1] 5
  have h5_7 := fld_eq_joined w [1, 1, 5] 5
  have h5_12 := fld_eq_joined w [1, 1, 5, 5] 5
  have h5_16 := fld_eq_joined w [1, 1, 5, 5, 4] 5
  have h6_6 := fld_eq_joined w [1, 5] 6
  have h12_9 := fld_eq_joined w [5, 4] 12
  have h21_4 := fld_eq_joined w [2, 2] 21
  simp only [joinedFields, List.sum_cons, List.sum_nil, Nat.reduceAdd] at hword h5_2 h5_7 h5_12 h5_16 h6_6 h12_9 h21_4
  unfold decTm at h
  split at h
  case' h_5 => split at h
  all_goals
    simp only [Option.some.injEq, beq_iff_eq, Option.ite_none_right_eq_some, Bool.and_eq_true, reduceCtorEq,
      Option.map_eq_some_iff, Fmt.ofCode_eq_some] at h
  all_goals
    repeat obtain ⟨_, h⟩ := h
    refine congrArg some ?_
    simp only [val_ofNat_fld, Nat.reducePow, Nat.reduceLeDiff, toNat_fld_beq_one, Size.code_ofCode_fld, AccMode.code_ofCode_fld]
    omega

theorem encode_decProg {w : Nat} {i : Instr} (hw : w < 2 ^ 31) (hm : fld w 25 6 = 12) (h : decProg w = some (some i)) :
    encode i = some w := by
  have hword := word_eq_joined hw [5, 2, 3, 2, 3, 5, 5, 6] rfl
  have h5_5 := fld_eq_joined w [2, 3] 5
  have h5_10 := fld_eq_joined w [2, 3, 2, 3] 5
  have h5_20 := fld_eq_joined w [2, 3, 2, 3, 5, 5] 5
  have h10_5 := fld_eq_joined w [2, 3] 10
  have h15_10 := fld_eq_joined w [5, 5] 15
  simp only [joinedFields, List.sum_cons, List.sum_nil, Nat.reduceAdd] at hword h5_5 h5_10 h5_20 h10_5 h15_10
  unfold decProg at h
  split at h
  all_goals
    simp only [Option.some.injEq, beq_iff_eq, Option.ite_none_right_eq_some, Bool.and_eq_true, reduceCtorEq] at h
  all_goals
    repeat obtain ⟨_, h⟩ := h
    refine congrArg some ?_
    try simp only [val_ofNat_fld, Nat.reducePow, Nat.reduceLeDiff, toNat_ofNat_fld, Scope.code_ofCode_fld]
    omega

theorem encode_decSys {w : Nat} {i : Instr} (hw : w < 2 ^ 31) (hm : fld w 25 6 = 13) (h : decSys w = some (some i)) :
    encode i = some w := by
  have hword := word_eq_joined hw [5, 2, 1, 2, 5, 5, 5, 6] rfl
  have h5_10 := fld_eq_joined w [2, 1, 2, 5] 5
  have h5_20 := fld_eq_joined w [2, 1, 2, 5, 5, 5] 5
  have h7_3 := fld_eq_joined w [1, 2] 7
  have h8_7 := fld_eq_joined w [2, 5] 8
  have h10_15 := fld_eq_joined w [5, 5, 5] 10
  have h15_10 := fld_eq_joined w [5, 5] 15
  simp only [joinedFields, List.sum_cons, List.sum_nil, Nat.reduceAdd] at hword h5_10 h5_20 h7_3 h8_7 h10_15 h15_10
  unfold decSys at h
  split at h
  case' h_5 => split at h
  all_goals
    simp only [Option.some.injEq, beq_iff_eq, Option.ite_none_right_eq_some, Bool.and_eq_true, reduceCtorEq,
      Option.map_eq_some_iff, Access.ofCode_eq_some] at h
  all_goals
    repeat obtain ⟨_, h⟩ := h
    refine congrArg some ?_
    try simp only [val_ofNat_fld, Nat.reducePow, Nat.reduceLeDiff, toNat_ofNat_fld, toNat_fld_beq_one]
    omega

theorem encode_decDbg {w : Nat} {i : Instr} (hw : w < 2 ^ 31) (hm : fld w 25 6 = 14) (h : decDbg w = some (some i)) :
    encode i = some w := by
  have hword := word_eq_joined hw [5, 10, 5, 5, 6] rfl
  have h15_10 := fld_eq_joined w [5, 5] 15
  simp only [joinedFields, List.sum_cons, List.sum_nil, Nat.reduceAdd] at hword h15_10
  unfold decDbg at h
  split at h
  all_goals
    simp only [Option.some.injEq, beq_iff_eq, Option.ite_none_right_eq_some, reduceCtorEq] at h
  all_goals
    repeat obtain ⟨_, h⟩ := h
    refine congrArg some ?_
    simp only [val_ofNat_fld, Nat.reducePow, Nat.reduceLeDiff, toNat_ofNat_fld]
    omega

theorem encode_decAlu {w : Nat} {i : Instr} (hw : w < 2 ^ 31) (hm : fld w 25 6 = 32) (h : decAlu w = some (some i)) :
    encode i = some w := by
  have hword := word_eq_joined hw [5, 5, 5, 5, 5, 6] rfl
  have h5_10 := fld_eq_joined w [5, 5] 5
  simp only [joinedFields, List.sum_cons, List.sum_nil, Nat.reduceAdd] at hword h5_10
  unfold decAlu at h
  split at h
  all_goals
    simp only [Option.some.injEq, beq_iff_eq, Option.ite_none_right_eq_some, reduceCtorEq] at h
  all_goals
    repeat obtain ⟨_, h⟩ := h
    refine congrArg some ?_
    simp only [val_ofNat_fld, Nat.reducePow, Nat.reduceLeDiff]
    omega

theorem encode_decAlui {w : Nat} {i : Instr} (hw : w < 2 ^ 31) (hm : fld w 25 6 = 33) (h : decAlui w = some (some i)) :
    encode i = some w := by
  have hword := word_eq_joined hw [6, 6, 3, 5, 5, 6] rfl
  have h0_12 := fld_eq_joined w [6, 6] 0
  simp only [joinedFields, List.sum_cons, List.sum_nil, Nat.reduceAdd] at hword h0_12
  unfold decAlui at h
  split at h
  all_goals
    simp only [Option.some.injEq, beq_iff_eq, Option.ite_none_right_eq_some, reduceCtorEq] at h
  all_goals
    repeat obtain ⟨_, h⟩ := h
    refine congrArg some ?_
    simp only [val_ofNat_fld, Nat.reducePow, Nat.reduceLeDiff, toNat_ofNat_fld]
    omega

theorem encode_decLhi {w : Nat} {i : Instr} (hw : w < 2 ^ 31) (hm : fld w 25 6 = 34) (h : decLhi w = some (some i)) :
    encode i = some w := by
  have hword := word_eq_joined hw [20, 5, 6] rfl
  simp only [joinedFields, Nat.reduceAdd] at hword
  unfold decLhi at h
  all_goals
    simp only [Option.some.injEq] at h
  all_goals
    repeat obtain ⟨_, h⟩ := h
    refine congrArg some ?_
    simp only [val_ofNat_fld, Nat.reducePow, Nat.reduceLeDiff, toNat_ofNat_fld]
    omega

theorem encode_decBf {w : Nat} {i : Instr} (hw : w < 2 ^ 31) (hm : fld w 25 6 = 35) (h : decBf w = some (some i)) :
    encode i = some w := by
  have hword := word_eq_joined hw [2, 7, 6, 5, 5, 6] rfl
  simp only [joinedFields, Nat.reduceAdd] at hword
  unfold decBf at h
  split at h
  all_goals
    simp only [Option.some.injEq, reduceCtorEq] at h
  all_goals
    repeat obtain ⟨_, h⟩ := h
    refine congrArg some ?_
    simp only [val_ofNat_fld, Nat.reducePow, Nat.reduceLeDiff, toNat_ofNat_fld]
    omega

theorem encode_decFp {w : Nat} {i : Instr} (hw : w < 2 ^ 31) (hm : fld w 25 6 = 36) (h : decFp w = some (some i)) :
    encode i = some w := by
  have hword := word_eq_joined hw [5, 2, 3, 5, 5, 5, 6] rfl
  have h5_5 := fld_eq_joined w [2, 3] 5
  simp only [joinedFields, List.sum_cons, List.sum_nil, Nat.reduceAdd] at hword h5_5
  unfold decFp at h
  split at h
  all_goals
    simp only [Option.some.injEq, beq_iff_eq, Option.ite_none_right_eq_some, Bool.and_eq_true, reduceCtorEq,
      Option.map_eq_some_iff, Rnd.ofCode_eq_some] at h
  all_goals
    repeat obtain ⟨_, h⟩ := h
    refine congrArg some ?_
    simp only [val_ofNat_fld, Nat.reducePow, Nat.reduceLeDiff, Cond.code_ofCode_fld]
    omega

theorem encode_decFfma {w : Nat} {i : Instr} (hw : w < 2 ^ 31) (hm : fld w 25 6 = 37) (h : decFfma w = some (some i)) :
    encode i = some w := by
  have hword := word_eq_joined hw [2, 3, 5, 5, 5, 5, 6] rfl
  simp only [joinedFields, Nat.reduceAdd] at hword
  unfold decFfma at h
  all_goals
    simp only [Option.some.injEq, beq_iff_eq, Option.ite_none_right_eq_some, Option.map_eq_some_iff,
      Rnd.ofCode_eq_some] at h
  all_goals
    repeat obtain ⟨_, h⟩ := h
    refine congrArg some ?_
    simp only [val_ofNat_fld, Nat.reducePow, Nat.reduceLeDiff]
    omega

theorem encode_decVa {w : Nat} {i : Instr} (hw : w < 2 ^ 31) (hm : fld w 25 6 = 38) (h : decVa w = some (some i)) :
    encode i = some w := by
  have hword := word_eq_joined hw [4, 3, 1, 3, 1, 4, 1, 4, 4, 6] rfl
  have h4_4 := fld_eq_joined w [3, 1] 4
  have h4_8 := fld_eq_joined w [3, 1, 3, 1] 4
  have h8_4 := fld_eq_joined w [3, 1] 8
  have h12_5 := fld_eq_joined w [4, 1] 12
  simp only [joinedFields, List.sum_cons, List.sum_nil, Nat.reduceAdd] at hword h4_4 h4_8 h8_4 h12_5
  unfold decVa at h
  split at h
  all_goals
    simp only [Option.some.injEq, beq_iff_eq, Option.ite_none_right_eq_some, Bool.and_eq_true, reduceCtorEq,
      Option.map_eq_some_iff, Rnd.ofCode_eq_some] at h
  all_goals
    repeat obtain ⟨_, h⟩ := h
    refine congrArg some ?_
    simp only [val_ofNat_fld, Nat.reducePow, Nat.reduceLeDiff, toNat_fld_beq_one, Cond.code_ofCode_fld]
    omega

theorem encode_decVb {w : Nat} {i : Instr} (hw : w < 2 ^ 31) (hm : fld w 25 6 = 39) (h : decVb w = some (some i)) :
    encode i = some w := by
  have hword := word_eq_joined hw [4, 3, 1, 1, 1, 2, 2, 1, 2, 4, 4, 6] rfl
  have h4_4 := fld_eq_joined w [3, 1] 4
  have h4_13 := fld_eq_joined w [3, 1, 1, 1, 2, 2, 1, 2] 4
  have h8_2 := fld_eq_joined w [1, 1] 8
  have h8_4 := fld_eq_joined w [1, 1, 2] 8
  have h8_9 := fld_eq_joined w [1, 1, 2, 2, 1, 2] 8
  have h12_3 := fld_eq_joined w [2, 1] 12
  have h12_5 := fld_eq_joined w [2, 1, 2] 12
  have h14_3 := fld_eq_joined w [1, 2] 14
  simp only [joinedFields, List.sum_cons, List.sum_nil, Nat.reduceAdd] at hword h4_4 h4_13 h8_2 h8_4 h8_9 h12_3 h12_5 h14_3
  unfold decVb at h
  split at h
  all_goals
    simp only [Bool.and_eq_true, beq_iff_eq, Option.some.injEq, Option.ite_none_right_eq_some, Option.bind_eq_some_iff,
      Option.map_eq_some_iff, Fmt.ofCode_eq_some, RedOp.ofCode_eq_some, Rnd.ofCode_eq_some, TbcMode.ofCode_eq_some,
      TrndMode.ofCode_eq_some, reduceCtorEq] at h
  all_goals
    repeat obtain ⟨_, h⟩ := h
    refine congrArg some ?_
    simp only [val_ofNat_fld, Nat.reducePow, Nat.reduceLeDiff, toNat_fld_beq_one, Q4Type.code_ofCode_fld]
    omega

theorem encode_decMx {w : Nat} {i : Instr} (hw : w < 2 ^ 31) (hm : fld w 25 6 = 40) (h : decMx w = some (some i)) :
    encode i = some w := by
  have hword := word_eq_joined hw [3, 2, 3, 1, 1, 2, 1, 1, 4, 1, 4, 2, 6] rfl
  have h3_7 := fld_eq_joined w [2, 3, 1, 1] 3
  have h3_9 := fld_eq_joined w [2, 3, 1, 1, 2] 3
  have h12_2 := fld_eq_joined w [1, 1] 12
  have h12_7 := fld_eq_joined w [1, 1, 4, 1] 12
  have h12_13 := fld_eq_joined w [1, 1, 4, 1, 4, 2] 12
  have h13_10 := fld_eq_joined w [1, 4, 1, 4] 13
  have h14_5 := fld_eq_joined w [4, 1] 14
  simp only [joinedFields, List.sum_cons, List.sum_nil, Nat.reduceAdd] at hword h3_7 h3_9 h12_2 h12_7 h12_13 h13_10 h14_5
  unfold decMx at h
  split at h
  all_goals
    simp only [Option.some.injEq, beq_iff_eq, Option.ite_none_right_eq_some, Bool.and_eq_true, reduceCtorEq,
      Option.map_eq_some_iff, Rnd.ofCode_eq_some, Fmt.ofCode_eq_some, Access.ofCode_eq_some] at h
  all_goals
    repeat obtain ⟨_, h⟩ := h
    refine congrArg some ?_
    simp only [val_ofNat_fld, Nat.reducePow, Nat.reduceLeDiff, toNat_fld_beq_one, AccMode.code_ofCode_fld]
    omega

theorem encode_decXnop {w : Nat} {i : Instr} (hw : w < 2 ^ 31) (hm : fld w 25 6 = 41) (h : decXnop w = some (some i)) :
    encode i = some w := by
  have hword := word_eq_joined hw [25, 6] rfl
  simp only [joinedFields, Nat.reduceAdd] at hword
  unfold decXnop at h
  all_goals
    simp only [Option.some.injEq, beq_iff_eq, Option.ite_none_right_eq_some, Bool.and_eq_true, reduceCtorEq,
      Option.map_eq_some_iff, Rnd.ofCode_eq_some, Fmt.ofCode_eq_some, Access.ofCode_eq_some] at h
  all_goals
    repeat obtain ⟨_, h⟩ := h
    refine congrArg some ?_
    omega

theorem decodes_of_no_word {i : Instr} (h : encode i = none) : Decodes i := by
  intro w hw
  simp [h] at hw
/-- Every word is read as the instruction it was made from; a step that has no word has nothing to read. -/
theorem decodes (i : Instr) : Decodes i := by
  cases i
  all_goals try exact decodes_of_no_word rfl
  all_goals simp only [
    decodes_br_ga_gb_off, decodes_j_off, decodes_jal_gd_off, decodes_jalr_gd_ga_imm, decodes_ldi_gd_ga_imm,
    decodes_sti_gd_ga_imm, decodes_mem_gd_ga_ord_sc, decodes_mem_ga_gb_ord_sc, decodes_mem_gd_ga_gb_ord_sc,
    decodes_mem_gd_ga_gb_ord_sc_doubleword, decodes_sync_set_sc, decodes_sync_ga_gb_sc, decodes_sync_gd_ga_sc,
    decodes_sync_ga, decodes_sync_ga_gb_ef_priv, decodes_sync_gd_ga_gb_ways, decodes_sync_gd_ga, decodes_msg_ga_gb_m,
    decodes_msg_ga_gb_m_sc, decodes_msg_gd_m, decodes_msg_gd_ga_gb, decodes_msg_gd_gb_m, decodes_copy_gd_ga_gb_m_sc,
    decodes_copy_gd_ga_gb_m, decodes_tm_ta_ga_gb_band_ef, decodes_tm_ta_tb_ga_gb_band_ef, decodes_tm_ta_ga, decodes_tm_ta_gb,
    decodes_tm_ta, decodes_tm_ta_tb, decodes_tm_ta_ga_gb_size, decodes_tm_w_fmt_ga_gb_ef, decodes_tm_w_tb, decodes_tm_a_ga,
    decodes_tm_a_ga_mode, decodes_prog_gd_ga_gb, decodes_prog_gd_ga_gb_sc, decodes_prog_gd_ga_lgw_lgh, decodes_prog_plain,
    decodes_prog_ga_gb, decodes_prog_lgw_lgh_m, decodes_prog_ga_m, decodes_prog_ga, decodes_prog_ga_lgw_lgh_m,
    decodes_sys_gd_n, decodes_sys_ga_n, decodes_sys_code, decodes_sys_plain, decodes_sys_ga_gb_p, decodes_sys_ga_p,
    decodes_sys_p, decodes_sys_gd_ga_user_acc, decodes_sys_ga, decodes_dbg_code, decodes_dbg_ga_code, decodes_dbg_gd_n,
    decodes_alu_gd_ga_gb, decodes_alu_gd_ga, decodes_alu_gd_ga_gb_gc, decodes_alui_gd_ga_imm, decodes_alui_gd_ga_sh,
    decodes_lhi_gd_imm, decodes_bf_gd_ga_pos_width, decodes_fp_gd_ga_gb_rnd, decodes_fp_gd_ga_gb, decodes_fp_gd_ga_rnd,
    decodes_fp_gd_ga_gb_cond, decodes_ffma_gd_ga_gb_gc_rnd, decodes_va_td_ta_tb_sat_rnd, decodes_va_td_ta_tb_tc_sat_rnd,
    decodes_va_td_ta_tb, decodes_va_td_ta_tb_tc, decodes_va_td_ta_tb_cond, decodes_va_td_ta_gb_sat_rnd, decodes_vb_td_ta_sat,
    decodes_vb_td_ta_sat_rnd, decodes_vb_td_ta_part_fmt_sat_rnd, decodes_vb_td_ta_blk_ty_sat_rnd,
    decodes_vb_td_ta_op_col_sat_rnd, decodes_vb_td_ta_gb_mode, decodes_vb_td_ta, decodes_vb_td_ta_gb_sat_rnd,
    decodes_vb_td_ta_gb_mode_sat_rnd, decodes_mx_a_t_w_q, decodes_mx_a_mode, decodes_mx_a_t_gs_q_h_he_sat_rnd,
    decodes_mx_t_h, decodes_mx_h, decodes_xnop_plain]
/-- Settles O2: the word is read by its major and minor, and a well-formed instruction passes the last check. -/
theorem decodeOfEncodeIsTheInstruction : Obligations.DecodeOfEncodeIsTheInstruction := by
  unfold Obligations.DecodeOfEncodeIsTheInstruction
  intro i w hwf hw
  simp [decodeWord, decodes i w hw, hwf]

/-! ### Every word that is read -/

/-- No bit of a word with P = 0 is ignored. -/
theorem encode_of_decodeMajor {w : Nat} {i : Instr} (hw : w < 2 ^ 31) (h : decodeMajor w = some (some i)) : encode i = some w := by
  unfold decodeMajor at h
  split at h
  · exact encode_decBr hw ‹_› h
  · exact encode_decJ hw ‹_› h
  · exact encode_decJal hw ‹_› h
  · exact encode_decJalr hw ‹_› h
  · exact encode_decLdi hw ‹_› h
  · exact encode_decSti hw ‹_› h
  · exact encode_decMem hw ‹_› h
  · exact encode_decSync hw ‹_› h
  · exact encode_decMsg hw ‹_› h
  · exact encode_decCopy hw ‹_› h
  · exact encode_decTm hw ‹_› h
  · exact encode_decProg hw ‹_› h
  · exact encode_decSys hw ‹_› h
  · exact encode_decDbg hw ‹_› h
  · exact encode_decAlu hw ‹_› h
  · exact encode_decAlui hw ‹_› h
  · exact encode_decLhi hw ‹_› h
  · exact encode_decBf hw ‹_› h
  · exact encode_decFp hw ‹_› h
  · exact encode_decFfma hw ‹_› h
  · exact encode_decVa hw ‹_› h
  · exact encode_decVb hw ‹_› h
  · exact encode_decMx hw ‹_› h
  · exact encode_decXnop hw ‹_› h
  · cases h
/-- What decodes has passed each of the three checks (R51). -/
theorem decodeWord_eq_ok {present : Feature → Bool} {w : Nat} {i : Instr} (h : decodeWord present w = .ok i) :
    decodeMajor w = some (some i) ∧ i.wf = true := by
  unfold decodeWord at h
  split at h
  · cases h
  · split at h
    · split at h
      · cases h
      · split at h
        · cases h
          exact ⟨‹_›, ‹_›⟩
        · cases h
    · cases h
/-- Settles O3: a word that decodes was read by one of the decoders, each of which keeps every field. -/
theorem encodeOfDecodeIsTheWord : Obligations.EncodeOfDecodeIsTheWord := by
  unfold Obligations.EncodeOfDecodeIsTheWord
  intro present w i hw h
  obtain ⟨hmajor, hwf⟩ := decodeWord_eq_ok h
  exact ⟨hwf, encode_of_decodeMajor hw hmajor⟩

/-! ### The kinds of an illegal word (R51, R52) -/

/-- Settles O4: by the two questions that `decodeWord` asks of a word in turn, its meaning by its major and its features. -/
theorem illegalKindsInOrder : Obligations.IllegalKindsInOrder := by
  unfold Obligations.IllegalKindsInOrder
  intro present w
  refine ⟨?unassigned, ?absent, ?reserved⟩
  case unassigned =>
    intro h
    simp [decodeWord, h]
  case absent =>
    intro r f h hf habsent
    have hall : ¬(wordFeatures w).all present = true := by
      rw [List.all_eq_true]
      exact fun hpresent => by simp [hpresent f hf] at habsent
    simp only [decodeWord, h, hall, Bool.false_eq_true, if_false]
  case reserved =>
    intro h hpresent
    simp only [decodeWord, h, List.all_eq_true.mpr hpresent, if_true]

end Sys2Proof
end

section
/-! SUPPORT. Every function of the model keeps the canonical form of memory, and every instruction and event answers a next state. Memory is
written in seven places only (`State.placeBy`, the fill of a line, the clearing of a scratchpad, a resumed stream's scratchpad, a die's and the
card's reset, and a change of card number); the lemma of every other function rests on those of the functions it calls, in the order of the
model. -/

namespace Sys2Proof.Machine
set_option Elab.async false

/-- An answer's state has canonical memory, whatever the answer. -/
def Ans.Wf {α : Type} : Ans α → Prop
  | .ok s _ => s.mem.wf = true
  | .wait s => s.mem.wf = true
  | .trap s _ => s.mem.wf = true
/-- What serving a packet leaves has canonical memory. -/
def Served.Wf : Served → Prop
  | .used s => s.mem.wf = true
  | .stays s => s.mem.wf = true
  | .becomes s _ => s.mem.wf = true
  | .blocked => True
/-- A result is a next state, and its memory is canonical where that of the state before was. -/
def Moves (s : State) (r : Result) : Prop := ∃ t, r = .next t ∧ (s.mem.wf = true → t.mem.wf = true)
theorem foldl_wf {α : Type} (f : State → α → State) (hf : ∀ s a, s.mem.wf = true → (f s a).mem.wf = true) (xs : List α) (s : State) (hs : s.mem.wf = true) :
    (xs.foldl f s).mem.wf = true := by
  induction xs generalizing s with
  | nil => exact hs
  | cons x xs ih => exact ih _ (hf s x hs)
theorem Ans.bind_wf {α β : Type} {x : Ans α} {f : State → α → Ans β} (hx : x.Wf) (hf : ∀ s v, s.mem.wf = true → (f s v).Wf) : (x.bind f).Wf := by
  cases x <;> simp_all [Ans.Wf, Ans.bind]
theorem findSome_wf {α : Type} {f : α → Option State} (hf : ∀ a u, f a = some u → u.mem.wf = true) (xs : List α) : ∀ u, xs.findSome? f = some u → u.mem.wf = true := by
  intro u h
  obtain ⟨a, -, ha⟩ := List.exists_of_findSome?_eq_some h
  exact hf a u ha
theorem moves_next {s t : State} (h : s.mem.wf = true → t.mem.wf = true) : Moves s (.next t) := ⟨t, rfl, h⟩
theorem Moves.mono {s t : State} {r : Result} (h : s.mem.wf = true → t.mem.wf = true) (m : Moves t r) : Moves s r :=
  m.imp fun _ hu => ⟨hu.1, fun hs => hu.2 (h hs)⟩
theorem foldlSome_wf {α : Type} (f : Option State → α → Option State)
    (hf : ∀ o a, (∀ u, o = some u → u.mem.wf = true) → ∀ u, f o a = some u → u.mem.wf = true) (xs : List α) (o : Option State)
    (ho : ∀ u, o = some u → u.mem.wf = true) : ∀ u, xs.foldl f o = some u → u.mem.wf = true := by
  induction xs generalizing o with
  | nil => exact ho
  | cons x xs ih => exact ih _ (hf o x ho)
theorem foldlAns_wf {α β : Type} (f : Ans β → α → Ans β) (hf : ∀ x a, x.Wf → (f x a).Wf) (xs : List α) (x : Ans β) (hx : x.Wf) :
    (xs.foldl f x).Wf := by
  induction xs generalizing x with
  | nil => exact hx
  | cons a xs ih => exact ih _ (hf x a hx)
theorem firstOf_wf {xs : List (Option State)} (h : ∀ o ∈ xs, ∀ u, o = some u → u.mem.wf = true) :
    ∀ u, firstOf xs = some u → u.mem.wf = true := by
  intro u hu
  obtain ⟨o, ho, hou⟩ := List.exists_of_findSome?_eq_some hu
  exact h o ho u hou
/-- Canonical memory as a structure, so that no check unfolds a run of byte writes of a known, large length. -/
structure State.Canon (s : State) : Prop where
  wf : s.mem.wf = true
/-- The same of a state that may be missing. -/
structure MayCanon (o : Option State) : Prop where
  wf : ∀ u, o = some u → u.Canon
theorem State.Canon.writeN {s : State} (h : s.Canon) (a v n : Nat) : State.Canon { s with mem := s.mem.writeN a v n } :=
  ⟨Memory.writeN_wf h.wf a v n⟩
theorem foldl_canon {α : Type} {f : State → α → State} (hf : ∀ s a, s.Canon → (f s a).Canon) (xs : List α) {s : State} (hs : s.Canon) :
    (xs.foldl f s).Canon := by
  induction xs generalizing s with
  | nil => exact hs
  | cons x xs ih => exact ih (hf s x hs)
theorem State.Canon.of_ite {c : Bool} {s t : State} (hs : s.Canon) (ht : t.Canon) : State.Canon (if c then s else t) := by
  cases c <;> assumption
theorem Memory.filterMap_wfFrom {m : Memory} {lo lo' k : Nat} (h : m.wfFrom lo = true) (p : Nat → Bool) (hp : ∀ a, p a = true → k ≤ a)
    (hlo : lo' + k ≤ lo ∨ lo' = 0) : Memory.wfFrom lo' (m.filterMap fun c => if p c.1 then some (c.1 - k, c.2) else none) = true := by
  induction m generalizing lo lo' with
  | nil => rfl
  | cons c m ih =>
    obtain ⟨a, b⟩ := c
    simp only [Memory.wfFrom, Bool.and_eq_true, decide_eq_true_eq] at h
    obtain ⟨⟨ha, hb⟩, hm⟩ := h
    cases hpa : p a with
    | false =>
      simp only [List.filterMap_cons, hpa, Bool.false_eq_true, if_false]
      exact ih hm (by omega)
    | true =>
      have := hp a hpa
      simp only [List.filterMap_cons, hpa, if_true, Memory.wfFrom, Bool.and_eq_true, decide_eq_true_eq]
      exact ⟨⟨by omega, hb⟩, ih hm (by omega)⟩
theorem Memory.filterMap_wf {m : Memory} (h : m.wf = true) (k : Nat) (p : Nat → Bool) (hp : ∀ a, p a = true → k ≤ a) :
    Memory.wf (m.filterMap fun c => if p c.1 then some (c.1 - k, c.2) else none) = true :=
  Memory.filterMap_wfFrom h p hp (Or.inr rfl)
theorem State.tock_wf {s : State} (hs : s.mem.wf = true) : (State.tock s).mem.wf = true := by
  grind [State.tock]
theorem State.switchTo_wf {s : State} (k : Nat) (hs : s.mem.wf = true) : (State.switchTo s k).mem.wf = true := by
  grind [State.switchTo]
theorem State.postLock_wf {s : State} (src : Option Nat) (p : LockPkt) (hs : s.mem.wf = true) : (State.postLock s src p).mem.wf = true := by
  grind [State.postLock]
theorem State.postNi_wf {s : State} (p : NiPkt) (hs : s.mem.wf = true) : (State.postNi s p).mem.wf = true := by
  grind [State.postNi]
theorem State.onLaunch_wf {s : State} (id : Nat) (f : Launch → Launch) (hs : s.mem.wf = true) : (State.onLaunch s id f).mem.wf = true := by
  grind [State.onLaunch]
theorem tryEpisode_wf {s : State} (c : Contribution) (hs : s.mem.wf = true) : (tryEpisode s c).mem.wf = true := by
  grind [tryEpisode, State.onLaunch_wf, State.postNi_wf, foldl_wf]
theorem State.setCore_wf {s : State} (c : Core) (hs : s.mem.wf = true) : (State.setCore s c).mem.wf = true := by
  grind [State.setCore]
theorem State.onCore_wf {s : State} (k : Nat) (f : Core → Core) (hs : s.mem.wf = true) : (State.onCore s k f).mem.wf = true := by
  grind [State.onCore, State.setCore_wf]
theorem State.wakeSearch_wf {s : State} (launch : Nat) (rx : Nat) (ry : Nat) (hs : s.mem.wf = true) : (State.wakeSearch s launch rx
    ry).mem.wf = true := by
  grind [State.wakeSearch]
theorem State.onPad_wf {s : State} (n : Nat) (f : Paddock → Paddock) (hs : s.mem.wf = true) : (State.onPad s n f).mem.wf = true := by
  grind [State.onPad]
theorem State.diverge_wf {s : State} (n : Nat) (seg : Nat) (hs : s.mem.wf = true) : (State.diverge s n seg).mem.wf = true := by
  grind [State.diverge, State.onPad_wf]
theorem State.post_wf {s : State} (p : Pkt) (hs : s.mem.wf = true) : (State.post s p).mem.wf = true := by
  grind [State.post]
theorem State.writeEntry_wf {s : State} (p : Paddock) (seg : Nat) (i : Nat) (w0 : Nat) (w1 : Nat) (hs : s.mem.wf = true) : (State.writeEntry
    s p seg i w0 w1).mem.wf = true := by
  grind [State.writeEntry, State.post_wf]
theorem State.appendEntry_wf {s : State} (n : Nat) (seg : Nat) (w0 : Nat) (x : Nat) (run : Nat) (hs : s.mem.wf = true) : (State.appendEntry
    s n seg w0 x run).mem.wf = true := by
  grind [State.appendEntry, State.onPad_wf, State.writeEntry_wf]
theorem State.logPoint_wf {s : State} (n : Nat) (seg : Nat) (w0 : Nat) (x : Nat) (hs : s.mem.wf = true) : ∀ u, State.logPoint s n seg w0 x =
    some u → u.mem.wf = true := by
  grind [State.logPoint, State.writeEntry_wf, State.onPad_wf, State.appendEntry_wf, State.diverge_wf]
theorem State.logArrival_wf {s : State} (k : Nat) (sender : Nat) (slot : Nat) (task : Bool) (hs : s.mem.wf = true) : ∀ u, State.logArrival s
    k sender slot task = some u → u.mem.wf = true := by
  grind [State.logArrival, State.logPoint_wf]
theorem State.placeBy_wf {s : State} (w : Option Nat) (pa : Nat) (n : Nat) (v : Nat) (hs : s.mem.wf = true) : (State.placeBy s w pa n
    v).mem.wf = true := by
  grind [State.placeBy, Memory.writeN_wf]
theorem State.place_wf {s : State} (pa : Nat) (n : Nat) (v : Nat) (hs : s.mem.wf = true) : (State.place s pa n v).mem.wf = true := by
  grind [State.place, State.placeBy_wf]
theorem loftWrite_wf {s : State} (c : Core) (pos : Nat) (n : Nat) (v : Nat) (hs : s.mem.wf = true) : (loftWrite s c pos n v).mem.wf = true
    := by
  grind [loftWrite, State.place_wf, foldl_wf]
theorem loftPut_wf {s : State} (k : Nat) (n : Nat) (v : Nat) (r : LoftRec) (hs : s.mem.wf = true) : ∀ u, loftPut s k n v r = some u →
    u.mem.wf = true := by
  grind [loftPut, loftWrite_wf, State.setCore_wf]
theorem loftMoveOne_wf {s : State} (k : Nat) (task : Bool) (hs : s.mem.wf = true) : ∀ u, loftMoveOne s k task = some u → u.mem.wf = true :=
    by
  grind [loftMoveOne, State.setCore_wf]
theorem loftMoves_wf (k : Nat) (n1 : Nat) {s : State} (hs : s.mem.wf = true) : (loftMoves k n1 s).mem.wf = true := by
  induction n1 generalizing s with
  | zero => exact hs
  | succ n ih =>
    unfold loftMoves
    grind [loftMoveOne_wf]
theorem State.niSettle_wf {s : State} (k : Nat) (hs : s.mem.wf = true) : (State.niSettle s k).mem.wf = true := by
  grind [State.niSettle, State.setCore_wf, loftMoves_wf]
theorem enqueueTask_wf {s : State} (k : Nat) (t : Task) (hs : s.mem.wf = true) : ∀ u, enqueueTask s k t = some u → u.mem.wf = true := by
  grind (splits := 25) [enqueueTask, State.setCore_wf, State.niSettle_wf, loftPut_wf, Option.map_eq_some_iff]
theorem deliverTask_wf {s : State} (k : Nat) (launch : Nat) (t : Task) (hs : s.mem.wf = true) : ∀ u, deliverTask s k launch t = some u →
    u.mem.wf = true := by
  intro u h
  unfold deliverTask at h
  have key : ∀ (t : Task) v, ((enqueueTask s k t).bind fun s => s.logArrival k t.sender 0 true) = some v → v.mem.wf = true := by
    intro t v hv
    obtain ⟨w, hw, hv⟩ := Option.bind_eq_some_iff.mp hv
    exact State.logArrival_wf k t.sender 0 true (enqueueTask_wf k t hs w hw) v hv
  grind [State.wakeSearch_wf, State.onCore_wf]
theorem placeMsg_wf {s : State} (k : Nat) (m : Msg) (hs : s.mem.wf = true) : ∀ u, placeMsg s k m = some u → u.mem.wf = true := by
  grind (splits := 25) [placeMsg, State.niSettle_wf, loftPut_wf, State.setCore_wf, Option.map_eq_some_iff]
theorem deliverMsg_wf {s : State} (k : Nat) (m : Msg) (hs : s.mem.wf = true) : ∀ u, deliverMsg s k m = some u → u.mem.wf = true := by
  intro u h
  unfold deliverMsg at h
  split at h
  · cases h
  · exact State.logArrival_wf _ _ _ _ (placeMsg_wf k m hs _ ‹_›) u h
theorem placeAtNi_wf {s : State} (launch : Nat) (t : Stream) (r : Msg ⊕ Task) (hs : s.mem.wf = true) : ∀ u, placeAtNi s launch t r = some u
    → u.mem.wf = true := by
  grind [placeAtNi, State.onLaunch_wf, deliverMsg_wf, deliverTask_wf]
theorem State.askHostFor_wf {s : State} (n : Nat) (gen : Nat) (agent : Nat) (asid : Nat) (va : Nat) (acc : Access) (w0 : Nat) (x : Xlat) (hs
    : s.mem.wf = true) : (State.askHostFor s n gen agent asid va acc w0 x).mem.wf = true := by
  grind [State.askHostFor]
theorem hostFrame_wf {s : State} (l : Launch) (w0 : Nat) (x : Xlat) (va : Nat) (hs : s.mem.wf = true) : (hostFrame s l w0 x va).Wf := by
  grind [hostFrame, State.askHostFor_wf, Ans.Wf]
theorem State.inherit_wf {s : State} (f : InFlight) (hs : s.mem.wf = true) : (State.inherit s f).mem.wf = true := by
  grind [State.inherit]
theorem State.logError_wf {s : State} (n : Nat) (kind : Nat) (core : Nat) (detail : Nat) (pa : Nat) (hs : s.mem.wf = true) : (State.logError
    s n kind core detail pa).mem.wf = true := by
  grind [State.logError, State.onPad_wf, State.tock_wf]
theorem State.logErrorAll_wf {s : State} (which : Paddock → Bool) (kind : Nat) (core : Nat) (detail : Nat) (pa : Nat) (hs : s.mem.wf = true)
    : (State.logErrorAll s which kind core detail pa).mem.wf = true := by
  grind [State.logErrorAll, State.logError_wf, foldl_wf]
theorem State.logOutside_wf {s : State} (die : Nat) (kind : Nat) (core : Nat) (detail : Nat) (pa : Nat) (hs : s.mem.wf = true) :
    (State.logOutside s die kind core detail pa).mem.wf = true := by
  grind [State.logOutside, State.logError_wf, State.logErrorAll_wf]
theorem State.logAt_wf {s : State} (cell : Nat) (kind : Nat) (core : Nat) (detail : Nat) (pa : Nat) (hs : s.mem.wf = true) : (State.logAt s
    cell kind core detail pa).mem.wf = true := by
  grind [State.logAt, State.logError_wf, State.logOutside_wf]
theorem State.logCore_wf {s : State} (k : Nat) (kind : Nat) (detail : Nat) (pa : Nat) (hs : s.mem.wf = true) : (State.logCore s k kind
    detail pa).mem.wf = true := by
  grind [State.logCore, State.logOutside_wf, State.logAt_wf]
theorem State.sinkFault_wf {s : State} (k : Nat) (pa : Nat) (hs : s.mem.wf = true) : (State.sinkFault s k pa).mem.wf = true := by
  grind [State.sinkFault, State.onCore_wf, State.logError_wf]
theorem State.hostStored_wf {s : State} (r : MReq) (v : Nat) (hs : s.mem.wf = true) : (State.hostStored s r v).mem.wf = true := by
  grind [State.hostStored, State.place_wf]
theorem State.refuse_wf {s : State} (r : MReq) (f : LateFault) (hs : s.mem.wf = true) : (State.refuse s r f).mem.wf = true := by
  grind [State.refuse, State.post_wf]
theorem servePort_wf {s : State} (r : MReq) (fresh : Bool) (hs : s.mem.wf = true) : (servePort s r fresh).mem.wf = true := by
  grind [servePort, State.post_wf, State.placeBy_wf]
theorem completeHost_wf {s : State} (r : MReq) (tries : Nat) (ans : HostReply) (hs : s.mem.wf = true) : (completeHost s r tries ans).mem.wf
    = true := by
  unfold completeHost
  grind (splits := 25) [State.post_wf, servePort_wf, State.refuse_wf, State.hostStored_wf]
theorem State.freshen_wf {s : State} (k : Nat) (line : Nat) (hs : s.mem.wf = true) : (State.freshen s k line).mem.wf = true := by
  grind [State.freshen, State.onCore_wf]
theorem State.install_wf {s : State} (k : Nat) (l : CLine) (hs : s.mem.wf = true) : (State.install s k l).mem.wf = true := by
  grind [State.install, State.setCore_wf, State.post_wf]
theorem arriveFill_wf {s : State} (k : Nat) (line : Nat) (d : BitVec 1024) (tracked : Bool) (acq : Bool) (pref : Bool) (fresh : Bool) (f :
    Option LateFault) (slow : Bool) (hs : s.mem.wf = true) : (arriveFill s k line d tracked acq pref fresh f slow).mem.wf = true := by
  grind (splits := 25) [arriveFill, State.setCore_wf, State.install_wf, State.freshen_wf, State.onCore_wf, Option.map_eq_some_iff]
theorem State.logCombine_wf {s : State} (home : Nat) (line : Nat) (counts : List (Nat × Nat)) (hs : s.mem.wf = true) : ∀ u, State.logCombine
    s home line counts = some u → u.mem.wf = true := by
  grind [State.logCombine, State.appendEntry_wf, State.diverge_wf, State.onPad_wf, foldl_wf]
theorem State.onDir_wf {s : State} (line : Nat) (f : DirLine → DirLine) (hs : s.mem.wf = true) : (State.onDir s line f).mem.wf = true := by
  grind [State.onDir]
theorem State.postAll_wf {s : State} (ps : List Pkt) (hs : s.mem.wf = true) : (State.postAll s ps).mem.wf = true := by
  grind [State.postAll, State.post_wf, foldl_wf]
theorem State.recallG_wf {s : State} (line : Nat) (gs : List Nat) (hs : s.mem.wf = true) : ∀ u, State.recallG s line gs = some u → u.mem.wf
    = true := by
  grind (splits := 25) [State.recallG, State.postAll_wf, State.onDir_wf, State.logCombine_wf, Option.map_eq_some_iff]
theorem State.noteCommit_wf {s : State} (line : Nat) (hs : s.mem.wf = true) : (State.noteCommit s line).mem.wf = true := by
  grind [State.noteCommit]
theorem State.combine_wf {s : State} (line : Nat) (gs : List Nat) (hs : s.mem.wf = true) : (State.combine s line gs).mem.wf = true := by
  grind [State.combine, State.noteCommit_wf, State.onDir_wf, Memory.writeN_wf, foldl_wf]
theorem State.doneLine_wf {s : State} (k : Nat) (line : Nat) (hs : s.mem.wf = true) : (State.doneLine s k line).mem.wf = true := by
  grind [State.doneLine, State.onCore_wf]
theorem State.traceDone_wf {s : State} (k : Nat) (hs : s.mem.wf = true) : (State.traceDone s k).mem.wf = true := by
  grind [State.traceDone, State.onCore_wf]
theorem State.commitRound_wf {s : State} (d : DirLine) (r : Round) (hs : s.mem.wf = true) : (State.commitRound s d r).mem.wf = true := by
  grind [State.commitRound, State.noteCommit_wf, State.placeBy_wf, State.onCore_wf, State.onDir_wf, State.postAll_wf, State.post_wf]
theorem State.ackRound_wf {s : State} (k : Nat) (line : Nat) (drop : Bool) (hs : s.mem.wf = true) : (State.ackRound s k line drop).mem.wf =
    true := by
  grind [State.ackRound, State.onDir_wf, State.commitRound_wf]
theorem arriveUpdate_wf {s : State} (k : Nat) (line : Nat) (pa : Nat) (n : Nat) (v : Nat) (hs : s.mem.wf = true) : (arriveUpdate s k line pa
    n v).mem.wf = true := by
  grind [arriveUpdate, State.post_wf, State.setCore_wf]
theorem State.toHost_wf {s : State} (r : MReq) (hs : s.mem.wf = true) : (State.toHost s r).mem.wf = true := by
  grind [State.toHost]
theorem serveHost_wf {s : State} (r : MReq) (hs : s.mem.wf = true) : (serveHost s r).mem.wf = true := by
  grind [serveHost, State.refuse_wf, State.post_wf, State.placeBy_wf, State.toHost_wf]
theorem State.postFill_wf {s : State} (k : Nat) (line : Nat) (tracked : Bool) (acq : Bool) (pref : Bool) (hs : s.mem.wf = true) :
    (State.postFill s k line tracked acq pref).mem.wf = true := by
  grind [State.postFill, State.tock_wf, State.post_wf]
theorem State.logSlice_wf {s : State} (home : Nat) (line : Nat) (kind : Nat) (core : Nat) (sub : Nat) (hs : s.mem.wf = true) : ∀ u,
    State.logSlice s home line kind core sub = some u → u.mem.wf = true := by
  grind [State.logSlice, State.logPoint_wf]
theorem logReq_wf {s : State} (d : DirLine) (r : MReq) (asAmo : Bool) (hs : s.mem.wf = true) : ∀ u, logReq s d r asAmo = some u → u.mem.wf =
    true := by
  grind [logReq, State.logSlice_wf]
theorem State.hitDir_wf {s : State} (line : Nat) (ef : Bool) (hs : s.mem.wf = true) : (State.hitDir s line ef).mem.wf = true := by
  grind [State.hitDir]
theorem State.openRound_wf {s : State} (d : DirLine) (pa : Nat) (n : Nat) (v : Nat) (writer : Option Nat) (amo : Option (Nat × Nat)) (hs :
    s.mem.wf = true) : (State.openRound s d pa n v writer amo).mem.wf = true := by
  grind [State.openRound, State.commitRound_wf, State.postAll_wf, State.onDir_wf]
theorem reduceAsAmo_wf {s : State} (d : DirLine) (r : MReq) (k : GatherKind) (off : Nat) (o : Nat) (hs : s.mem.wf = true) : (reduceAsAmo s d
    r k off o).Wf := by
  grind [reduceAsAmo, logReq_wf, State.openRound_wf, State.hitDir_wf, Served.Wf]
theorem State.spoilAreds_wf {s : State} (w : Option Nat) (pa : Nat) (n : Nat) (hs : s.mem.wf = true) : (State.spoilAreds s w pa n).mem.wf =
    true := by
  grind [State.spoilAreds]
theorem askWay_wf {s : State} (k : Nat) (v : CLine) (hs : s.mem.wf = true) : (askWay s k v).Wf := by
  grind [askWay, State.post_wf, Served.Wf]
theorem startGather_wf {s : State} (r : MReq) (gs : List Nat) (k : GatherKind) (off : Nat) (o : Nat) (hs : s.mem.wf = true) : (startGather s
    r gs k off o).Wf := by
  grind [startGather, askWay_wf, State.onDir_wf, State.spoilAreds_wf, State.install_wf, State.post_wf, Served.Wf]
theorem recallFirst_wf {s : State} (line : Nat) (gs : List Nat) (hs : s.mem.wf = true) : (recallFirst s line gs).Wf := by
  grind [recallFirst, State.recallG_wf, Served.Wf]
theorem State.startRecall_wf {s : State} (d : DirLine) (hs : s.mem.wf = true) : (State.startRecall s d).mem.wf = true := by
  grind [State.startRecall, State.postAll_wf, State.onDir_wf]
theorem serveNow_wf {s : State} (d : DirLine) (r : MReq) (hs : s.mem.wf = true) : (serveNow s d r).Wf := by
  grind [serveNow, State.hitDir_wf, State.onDir_wf, State.postFill_wf, State.openRound_wf, State.startRecall_wf, startGather_wf,
    State.post_wf, Served.Wf]
theorem serveN_wf {s : State} (d : DirLine) (r : MReq) (hs : s.mem.wf = true) : (serveN s d r).Wf := by
  grind [serveN, logReq_wf, serveNow_wf, Served.Wf]
theorem State.dropDir_wf {s : State} (v : DirLine) (hs : s.mem.wf = true) : (State.dropDir s v).mem.wf = true := by
  grind [State.dropDir]
theorem State.addDir_wf {s : State} (d : DirLine) (ef : Bool) (hs : s.mem.wf = true) : (State.addDir s d ef).mem.wf = true := by
  grind [State.addDir]
theorem allocate_wf {s : State} (line : Nat) (ef : Bool) (hs : s.mem.wf = true) : (allocate s line ef).Wf := by
  grind [allocate, State.addDir_wf, State.dropDir_wf, State.startRecall_wf, Served.Wf]
theorem serveHomeLine_wf {s : State} (r : MReq) (hs : s.mem.wf = true) : (serveHomeLine s r).Wf := by
  unfold serveHomeLine
  repeat' split
  all_goals
    grind (splits := 20) [Served.Wf, allocate_wf, State.post_wf, serveN_wf, State.onCore_wf, State.spoilAreds_wf, State.hitDir_wf,
      recallFirst_wf, startGather_wf, reduceAsAmo_wf, logReq_wf, State.postFill_wf]
theorem serveHome_wf {s : State} (r : MReq) (hs : s.mem.wf = true) : (serveHome s r).Wf := by
  grind [serveHome, State.hitDir_wf, serveHomeLine_wf, Served.Wf]
theorem serveFromPeer_wf {s : State} (r : MReq) (hs : s.mem.wf = true) : (serveFromPeer s r).Wf := by
  grind [serveFromPeer, serveHome_wf, Served.Wf]
theorem servePeerControl_wf {s : State} (r : MReq) (hs : s.mem.wf = true) : (servePeerControl s r).mem.wf = true := by
  grind [servePeerControl, State.tock_wf, State.post_wf]
theorem servePeer_wf {s : State} (r : MReq) (hs : s.mem.wf = true) : (servePeer s r).mem.wf = true := by
  grind [servePeer, State.refuse_wf, servePeerControl_wf, State.tock_wf, servePort_wf]
theorem serveReq_wf {s : State} (r : MReq) (hs : s.mem.wf = true) : (serveReq s r).Wf := by
  grind [serveReq, servePeer_wf, State.refuse_wf, serveFromPeer_wf, serveHome_wf, servePort_wf, serveHost_wf, Served.Wf]
theorem servePkt_wf {s : State} (p : Pkt) (hs : s.mem.wf = true) : (servePkt s p).Wf := by
  unfold servePkt
  repeat' split
  all_goals grind (splits := 25) [serveReq_wf, arriveUpdate_wf, State.ackRound_wf, State.onCore_wf, State.traceDone_wf, State.doneLine_wf,
    State.onDir_wf, State.post_wf, State.setCore_wf, State.combine_wf, State.recallG_wf, arriveFill_wf, completeHost_wf, State.sinkFault_wf,
    State.logCore_wf, Served.Wf, Option.map_eq_some_iff]
theorem serveFlight_wf {s : State} (f : InFlight) (hs : s.mem.wf = true) : (serveFlight s f).Wf := by
  grind [serveFlight, arriveFill_wf, State.tock_wf, servePkt_wf, Served.Wf]
theorem State.holdAt_wf {s : State} (i : Nat) (f : InFlight) (hs : s.mem.wf = true) : ∀ u, State.holdAt s i f = some u → u.mem.wf = true :=
    by
  grind [State.holdAt]
theorem serveAt_wf {s : State} (i : Nat) (hs : s.mem.wf = true) : ∀ u, serveAt s i = some u → u.mem.wf = true := by
  grind [serveAt, State.holdAt_wf, serveFlight_wf, State.inherit_wf, Served.Wf]
theorem serveAmong_wf {s : State} (is : List Nat) (hs : s.mem.wf = true) : ∀ u, serveAmong s is = some u → u.mem.wf = true := by
  grind (splits := 25) [serveAmong, serveAt_wf, findSome_wf, Option.map_eq_some_iff]
theorem serveFirst_wf {s : State} (hs : s.mem.wf = true) : ∀ u, serveFirst s = some u → u.mem.wf = true := by
  grind [serveFirst, serveAmong_wf]
theorem settleLoop_wf (n1 : Nat) {s : State} (hs : s.mem.wf = true) : (settleLoop n1 s).mem.wf = true := by
  induction n1 generalizing s with
  | zero => exact hs
  | succ n ih =>
    unfold settleLoop
    grind [serveFirst_wf]
theorem State.settle_wf {s : State} (hs : s.mem.wf = true) : (State.settle s).mem.wf = true := by
  grind [State.settle, settleLoop_wf]
theorem State.readyAtHome_wf {s : State} (line : Nat) (hs : s.mem.wf = true) : (State.readyAtHome s line).Wf := by
  unfold State.readyAtHome
  split
  · exact hs
  · have hu : ∀ u : State, u = (match s.dirOf line with
        | none => (match allocate s line false with | .stays s => s | _ => s)
        | some _ => s) → u.mem.wf = true := by
      rintro u rfl
      have := allocate_wf line false hs
      grind [Served.Wf]
    extract_lets u
    have hw : u.mem.wf = true := hu u rfl
    clear_value u
    split
    · exact hw
    split
    · exact hw
    split
    · exact State.hitDir_wf _ _ hw
    · exact hw
    · exact hw
    · grind [State.hitDir_wf, Ans.Wf]
    · exact hw
    · split
      · exact hw
      · have := State.settle_wf (State.recallG_wf _ _ hw _ ‹_›)
        grind [State.hitDir_wf, Ans.Wf]
theorem State.wordAtHome_wf {s : State} (pa : Nat) (hs : s.mem.wf = true) : (State.wordAtHome s pa).Wf := by
  grind (splits := 25) [State.wordAtHome, State.readyAtHome_wf, Ans.Wf, Option.bind_eq_some_iff, Ans.bind_wf]
theorem walkLevels_wf (n : Nat) (asid : Nat) (va : Nat) (svm : Bool) (n1 : Nat) (n2 : Nat) (n3 : Nat) {s : State} (hs : s.mem.wf = true) :
    (walkLevels n asid va svm n1 n2 n3 s).Wf := by
  induction n1 generalizing n2 n3 s with
  | zero => exact hs
  | succ fuel ih =>
    unfold walkLevels
    split
    · exact hs
    · refine Ans.bind_wf (State.wordAtHome_wf _ hs) fun s e hs => ?_
      grind [State.tock_wf, Ans.Wf]
theorem asidEntry_wf {s : State} (n : Nat) (asid : Nat) (slice : Option Nat) (hs : s.mem.wf = true) : (asidEntry s n asid slice).Wf := by
  unfold asidEntry
  extract_lets p check
  have hcheck : ∀ (s : State) w0 w1, s.mem.wf = true → (check s w0 w1).Wf := by
    intro s w0 w1 hs
    grind [Ans.Wf]
  split
  · exact hcheck s _ _ hs
  · split
    · exact hs
    split
    · exact hs
    refine Ans.bind_wf (State.wordAtHome_wf _ hs) fun s w0 hs => Ans.bind_wf (State.wordAtHome_wf _ hs) fun s w1 hs =>
      Ans.bind_wf (hcheck s _ _ hs) fun s r hs => ?_
    grind [State.onPad_wf, Ans.Wf]
theorem walk_wf {s : State} (n : Nat) (asid : Nat) (va : Nat) (hs : s.mem.wf = true) : (walk s n asid va).Wf := by
  grind (splits := 25) [walk, asidEntry_wf, walkLevels_wf, Ans.Wf, Option.bind_eq_some_iff, Ans.bind_wf]
theorem framePlace_wf {s : State} (l : Launch) (va : Nat) (hs : s.mem.wf = true) : (framePlace s l va).Wf := by
  grind (splits := 25) [framePlace, walk_wf, hostFrame_wf, Ans.Wf, Option.bind_eq_some_iff, Ans.bind_wf]
theorem frameWait_wf {s : State} (l : Launch) (va : Nat) (n : Nat) (hs : s.mem.wf = true) : ∀ u, frameWait s l va n = some u → u.mem.wf =
    true := by
  grind [frameWait, framePlace_wf, Ans.Wf, findSome_wf]
theorem State.request_wf {s : State} (r : MReq) (hs : s.mem.wf = true) : (State.request s r).mem.wf = true := by
  grind [State.request, State.settle_wf, State.post_wf]
theorem State.engineWriteAs_wf (agent : Nat) {s : State} (pa : Nat) (n : Nat) (v : Nat) (hs : s.mem.wf = true) : (State.engineWriteAs agent
    s pa n v).mem.wf = true := by
  grind [State.engineWriteAs, State.request_wf, foldl_wf]
theorem State.dispatcherWrite_wf {s : State} (n : Nat) (pa : Nat) (len : Nat) (v : Nat) (hs : s.mem.wf = true) : (State.dispatcherWrite s n
    pa len v).mem.wf = true := by
  grind [State.dispatcherWrite, State.engineWriteAs_wf]
theorem frameWrite_wf {s : State} (l : Launch) (va : Nat) (n : Nat) (v : Nat) (hs : s.mem.wf = true) : ∀ u, frameWrite s l va n v = some u →
    u.mem.wf = true := by
  unfold frameWrite
  refine foldlSome_wf _ (fun o p ho => ?_) _ _ (by simpa using hs)
  grind [State.dispatcherWrite_wf]
theorem lateAppend_wf {s : State} (l : Launch) (t : Stream) (r : Msg ⊕ Task) (hs : s.mem.wf = true) : ∀ u, lateAppend s l t r = some u →
    u.mem.wf = true := by
  grind [lateAppend, frameWrite_wf, State.onLaunch_wf, frameWait_wf]
theorem arriveAt_wf {s : State} (launch : Nat) (rx : Nat) (ry : Nat) (r : Msg ⊕ Task) (hs : s.mem.wf = true) : ∀ u, arriveAt s launch rx ry
    r = some u → u.mem.wf = true := by
  grind [arriveAt, deliverMsg_wf, lateAppend_wf, placeAtNi_wf, State.onLaunch_wf]
theorem serveStealReply_wf {s : State} (launch : Nat) (rx : Nat) (ry : Nat) (g : Group) (k : Nat) (t : Option Task) (hs : s.mem.wf = true) :
    ∀ u, serveStealReply s launch rx ry g k t = some u → u.mem.wf = true := by
  intro u h
  unfold serveStealReply at h
  repeat' split at h
  all_goals grind (splits := 25) [State.onCore_wf, arriveAt_wf, Option.map_eq_some_iff]
theorem State.logDispatch_wf {s : State} (n : Nat) (kind : Nat) (who : Nat) (x : Nat) (hs : s.mem.wf = true) : ∀ u, State.logDispatch s n
    kind who x = some u → u.mem.wf = true := by
  grind [State.logDispatch, State.logPoint_wf]
theorem takeTail_wf {s : State} (k : Nat) (hs : s.mem.wf = true) : ∀ u, takeTail s k = some u → u.1.mem.wf = true := by
  grind [takeTail, State.niSettle_wf, State.setCore_wf]
theorem serveSteal_wf {s : State} (launch : Nat) (rx : Nat) (ry : Nat) (g : Group) (k : Nat) (hs : s.mem.wf = true) : ∀ u, serveSteal s
    launch rx ry g k = some u → u.mem.wf = true := by
  intro u h
  unfold serveSteal at h
  have := @takeTail_wf s
  grind [State.postNi_wf, State.logDispatch_wf, Option.map_eq_some_iff, Option.bind_eq_some_iff]
theorem State.warmLate_wf {s : State} (launch : Nat) (rx : Nat) (ry : Nat) (r : Msg ⊕ Task) (refused : Bool) (hs : s.mem.wf = true) : ∀ u,
    State.warmLate s launch rx ry r refused = some u → u.mem.wf = true := by
  grind [State.warmLate, frameWait_wf]
theorem State.uncount_wf {s : State} (c : Option Nat) (hs : s.mem.wf = true) : (State.uncount s c).mem.wf = true := by
  unfold State.uncount
  grind (splits := 25) [State.onCore_wf]
theorem State.serveNi_wf {s : State} (i : Nat) (hs : s.mem.wf = true) : ∀ u, State.serveNi s i = some u → u.mem.wf = true := by
  intro u h
  unfold State.serveNi at h
  split at h
  · cases h
  extract_lets v before waits at h
  have hv : v.mem.wf = true := hs
  clear_value v
  have hm : ∀ (launch rx ry : Nat) (r : Sum Msg Task) (refused : Bool) (g : State → State),
      (∀ s, (g s).mem = s.mem) → ∀ w, (s.warmLate launch rx ry r refused).map g = some w → w.mem.wf = true := by
    intro launch rx ry r refused g hg w hw
    obtain ⟨x, hx, rfl⟩ := Option.map_eq_some_iff.mp hw
    exact (hg x) ▸ State.warmLate_wf _ _ _ _ _ hs x hx
  split at h
  · cases h; exact hv
  split at h
  · grind [arriveAt_wf, State.uncount_wf]
  · grind [arriveAt_wf, State.uncount_wf]
  · grind [serveSteal_wf]
  · grind [serveStealReply_wf]
  · grind (splits := 20) [State.uncount_wf, State.onLaunch_wf, State.onCore_wf, State.wakeSearch_wf]
  · split at h
    · cases h
    · cases h; exact State.uncount_wf _ (tryEpisode_wf _ hv)
theorem serveNiFirst_wf {s : State} (n1 : Nat) (n2 : Nat) (hs : s.mem.wf = true) : ∀ u, serveNiFirst s n1 n2 = some u → u.mem.wf = true :=
    by
  induction n1 generalizing n2 with
  | zero => intro u h; cases h
  | succ n ih =>
    intro u h
    unfold serveNiFirst at h
    grind [State.serveNi_wf]
theorem settleNiLoop_wf (n1 : Nat) {s : State} (hs : s.mem.wf = true) : (settleNiLoop n1 s).mem.wf = true := by
  induction n1 generalizing s with
  | zero => exact hs
  | succ n ih =>
    unfold settleNiLoop
    grind [serveNiFirst_wf]
theorem State.settleNi_wf {s : State} (hs : s.mem.wf = true) : (State.settleNi s).mem.wf = true := by
  grind [State.settleNi, settleNiLoop_wf]
theorem State.sendNi_wf {s : State} (p : NiPkt) (hs : s.mem.wf = true) : (State.sendNi s p).mem.wf = true := by
  grind [State.sendNi, State.settleNi_wf, State.postNi_wf]
theorem State.tell_wf {s : State} (k : Nat) (m : Msg) (hs : s.mem.wf = true) : (State.tell s k m).mem.wf = true := by
  grind [State.tell, State.sendNi_wf]
theorem State.withdrawEntry_wf {s : State} (k : Nat) (line : Nat) (status : Option (Nat × Nat)) (hs : s.mem.wf = true) :
    (State.withdrawEntry s k line status).mem.wf = true := by
  grind [State.withdrawEntry, State.postLock_wf, State.onCore_wf, State.tell_wf]
theorem serveProbe_wf {s : State} (origin : Waiter) (start : Nat) (line : Nat) (path : List (Nat × Nat)) (hs : s.mem.wf = true) :
    (serveProbe s origin start line path).mem.wf = true := by
  grind [serveProbe, State.onPad_wf, State.withdrawEntry_wf, State.postLock_wf, foldl_wf]
theorem State.unlockLine_wf {s : State} (line : Nat) (hs : s.mem.wf = true) : (State.unlockLine s line).mem.wf = true := by
  grind [State.unlockLine, State.onDir_wf]
theorem State.setK_wf {s : State} (line : Nat) (h : Option Waiter) (t : Option Waiter) (sv : Bool) (nx : Option Waiter) (p : Bool) (hs :
    s.mem.wf = true) : (State.setK s line h t sv nx p).mem.wf = true := by
  grind [State.setK, State.onDir_wf]
theorem State.endQueue_wf {s : State} (line : Nat) (poisoned : Bool) (hs : s.mem.wf = true) : (State.endQueue s line poisoned).mem.wf = true
    := by
  grind [State.endQueue, State.setK_wf, State.unlockLine_wf]
theorem State.clearWithdrawn_wf {s : State} (line : Nat) (w : Waiter) (hs : s.mem.wf = true) : (State.clearWithdrawn s line w).mem.wf = true
    := by
  grind [State.clearWithdrawn]
theorem State.grantOn_wf {s : State} (line : Nat) (to_ : Waiter) (tail : Option Waiter) (poisoned : Bool) (hs : s.mem.wf = true) :
    (State.grantOn s line to_ tail poisoned).mem.wf = true := by
  grind [State.grantOn, State.postLock_wf, State.setK_wf]
theorem asHolder_wf {s : State} (w : Waiter) (line : Nat) (f : Option Waiter → Bool → Option Waiter → Bool → Served) (hf : ∀ a b c d, (f a b
    c d).Wf) (hs : s.mem.wf = true) : (asHolder s w line f).Wf := by
  grind [asHolder, Served.Wf]
theorem linkHome_wf {s : State} (w : Waiter) (line : Nat) (next : Waiter) (hs : s.mem.wf = true) : (linkHome s w line next).mem.wf = true :=
    by
  grind [linkHome, State.onDir_wf, State.postLock_wf]
theorem handOn_wf {s : State} (from_ : Waiter) (line : Nat) (next : Waiter) (brand : BitVec 960) (hs : s.mem.wf = true) : (handOn s from_
    line next brand).mem.wf = true := by
  grind [handOn, State.postLock_wf]
theorem serveLock_wf {s : State} (w : Waiter) (line : Nat) (try_ : Bool) (hs : s.mem.wf = true) : (serveLock s w line try_).Wf := by
  unfold serveLock
  repeat' split
  all_goals
    grind (splits := 20) [Served.Wf, allocate_wf, recallFirst_wf, State.startRecall_wf, State.logSlice_wf, State.hitDir_wf, State.setK_wf,
      State.postLock_wf, linkHome_wf]
theorem serveLockPkt_wf {s : State} (p : LockPkt) (hs : s.mem.wf = true) : (serveLockPkt s p).Wf := by
  unfold serveLockPkt
  grind (splits := 25) [serveLock_wf, State.onCore_wf, handOn_wf, State.postLock_wf, linkHome_wf, State.install_wf, State.tell_wf,
    asHolder_wf, State.setK_wf, State.unlockLine_wf, State.grantOn_wf, State.clearWithdrawn_wf, State.endQueue_wf, serveProbe_wf, Served.Wf,
    Option.map_eq_some_iff]
theorem State.holdLock_wf {s : State} (i : Nat) (f : LockFlight) (hs : s.mem.wf = true) : ∀ u, State.holdLock s i f = some u → u.mem.wf =
    true := by
  grind [State.holdLock]
theorem State.serveLockAt_wf {s : State} (i : Nat) (hs : s.mem.wf = true) : ∀ u, State.serveLockAt s i = some u → u.mem.wf = true := by
  grind [State.serveLockAt, State.holdLock_wf, serveLockPkt_wf, Served.Wf]
theorem serveLockFirst_wf {s : State} (n1 : Nat) (n2 : Nat) (hs : s.mem.wf = true) : ∀ u, serveLockFirst s n1 n2 = some u → u.mem.wf = true
    := by
  induction n1 generalizing n2 with
  | zero => intro u h; cases h
  | succ n ih =>
    intro u h
    unfold serveLockFirst at h
    grind [State.serveLockAt_wf]
theorem serveByClass_wf {s : State} (hs : s.mem.wf = true) : ∀ u, serveByClass s = some u → u.mem.wf = true := by
  grind [serveByClass, serveAmong_wf, serveLockFirst_wf]
theorem settleLockLoop_wf (n1 : Nat) {s : State} (hs : s.mem.wf = true) : (settleLockLoop n1 s).mem.wf = true := by
  induction n1 generalizing s with
  | zero => exact hs
  | succ n ih =>
    unfold settleLockLoop
    grind [serveByClass_wf]
theorem State.settleLocks_wf {s : State} (hs : s.mem.wf = true) : (State.settleLocks s).mem.wf = true := by
  grind [State.settleLocks, settleLockLoop_wf]
theorem State.forceRelease_wf {s : State} (k : Nat) (e : LockEntry) (hs : s.mem.wf = true) : (State.forceRelease s k e).mem.wf = true := by
  grind [State.forceRelease, State.settleLocks_wf, State.postLock_wf]
theorem State.dropLocks_wf {s : State} (k : Nat) (answers : Bool) (hs : s.mem.wf = true) : (State.dropLocks s k answers).mem.wf = true := by
  grind [State.dropLocks, State.onCore_wf, State.settleLocks_wf, State.settle_wf, State.withdrawEntry_wf, State.postLock_wf, foldl_wf]
theorem killStream_wf {s : State} (t : Stream) (hs : s.mem.wf = true) : (killStream s t).mem.wf = true := by
  grind [killStream, State.onCore_wf, State.dropLocks_wf, State.forceRelease_wf, foldl_wf]
theorem State.releaseCores_wf {s : State} (l : Launch) (hs : s.mem.wf = true) : (State.releaseCores s l).mem.wf = true := by
  grind [State.releaseCores, State.setCore_wf, foldl_wf]
theorem State.cellsLeft_wf {s : State} (id : Nat) (hs : s.mem.wf = true) : (State.cellsLeft s id).mem.wf = true := by
  grind [State.cellsLeft]
theorem State.onQueue_wf {s : State} (n : Nat) (q : Nat) (f : Queue → Queue) (hs : s.mem.wf = true) : (State.onQueue s n q f).mem.wf = true
    := by
  grind [State.onQueue, State.onPad_wf]
theorem State.endWord_wf {s : State} (n : Nat) (q : Nat) (status : Nat) (mismatch : Bool) (dropped : Nat) (seq : BitVec 32) (hs : s.mem.wf =
    true) : (State.endWord s n q status mismatch dropped seq).mem.wf = true := by
  grind [State.endWord, State.dispatcherWrite_wf, State.onQueue_wf]
theorem State.finishLaunch_wf {s : State} (l : Launch) (status : Nat) (hs : s.mem.wf = true) : (State.finishLaunch s l status).mem.wf = true
    := by
  grind [State.finishLaunch, State.endWord_wf, State.cellsLeft_wf, State.onPad_wf]
theorem State.endLaunch_wf {s : State} (id : Nat) (hs : s.mem.wf = true) : (State.endLaunch s id).mem.wf = true := by
  grind [State.endLaunch, State.finishLaunch_wf, State.releaseCores_wf, State.onPad_wf]
theorem State.poisonNext_wf {s : State} (agent : Nat) (words : List Nat) (hs : s.mem.wf = true) : (State.poisonNext s agent words).mem.wf =
    true := by
  grind [State.poisonNext]
theorem State.dumpCount_wf {s : State} (n : Nat) (written : Nat) (skipped : Nat) (outcome : Nat) (hs : s.mem.wf = true) : (State.dumpCount s
    n written skipped outcome).mem.wf = true := by
  grind [State.dumpCount, State.onPad_wf]
theorem State.dumpStep_wf {s : State} (n : Nat) (hs : s.mem.wf = true) : ∀ u, State.dumpStep s n = some u → u.mem.wf = true := by
  grind [State.dumpStep, State.dumpCount_wf, State.dispatcherWrite_wf, State.poisonNext_wf]
theorem State.settleDumps_wf {s : State} (n : Nat) (hs : s.mem.wf = true) : (State.settleDumps s n).mem.wf = true := by
  unfold State.settleDumps
  have hn : ∀ u : State, u.mem.wf = true → ((u.dumpStep n).getD u).mem.wf = true := by
    intro u hu
    cases h : u.dumpStep n with
    | none => exact hu
    | some v => exact State.dumpStep_wf n hu v h
  grind
theorem State.dump_wf {s : State} (l : Launch) (t : Stream) (reason : Nat) (hs : s.mem.wf = true) : (State.dump s l t reason).mem.wf = true
    := by
  grind [State.dump, State.dumpCount_wf, State.onPad_wf, State.settleDumps_wf]
theorem State.endKillOf_wf {s : State} (k : Nat) (hs : s.mem.wf = true) : (State.endKillOf s k).mem.wf = true := by
  grind [State.endKillOf, State.dump_wf, State.endLaunch_wf, killStream_wf]
theorem State.endKill_wf {s : State} (hs : s.mem.wf = true) : (State.endKill s).mem.wf = true := by
  grind [State.endKill, State.endKillOf_wf]
theorem State.forgetFills_wf {s : State} (k : Nat) (hs : s.mem.wf = true) : (State.forgetFills s k).mem.wf = true := by
  grind [State.forgetFills]
theorem State.dropAsked_wf {s : State} (k : Nat) (hs : s.mem.wf = true) : (State.dropAsked s k).mem.wf = true := by
  grind [State.dropAsked, State.forgetFills_wf]
theorem State.squash_wf {s : State} (hs : s.mem.wf = true) : (State.squash s).mem.wf = true := by
  grind [State.squash, State.dropAsked_wf]
theorem State.emit_wf {s : State} (k : Nat) (bs : List Byte) (hs : s.mem.wf = true) : (State.emit s k bs).mem.wf = true := by
  grind [State.emit, State.setCore_wf]
theorem State.emitRetire_wf {s : State} (k : Nat) (hs : s.mem.wf = true) : (State.emitRetire s k).mem.wf = true := by
  grind [State.emitRetire, State.onCore_wf, State.emit_wf]
theorem State.emitAddr_wf {s : State} (k : Nat) (reason : Nat) (va : Word) (hs : s.mem.wf = true) : (State.emitAddr s k reason va).mem.wf =
    true := by
  grind [State.emitAddr, State.emit_wf]
theorem State.emitTrap_wf {s : State} (t : Trap) (hs : s.mem.wf = true) : (State.emitTrap s t).mem.wf = true := by
  grind [State.emitTrap, State.emitAddr_wf, State.emit_wf, State.emitRetire_wf]
theorem State.killLaunch_wf {s : State} (id : Nat) (saveFault : Bool) (hs : s.mem.wf = true) : (State.killLaunch s id saveFault).mem.wf =
    true := by
  grind [State.killLaunch, State.onLaunch_wf, killStream_wf, State.onPad_wf, State.endLaunch_wf, foldl_wf]
theorem State.dumpWhen_wf {s : State} (l : Launch) (t : Stream) (reason : Nat) (hs : s.mem.wf = true) : (State.dumpWhen s l t reason).mem.wf
    = true := by
  grind [State.dumpWhen, State.onLaunch_wf, State.dump_wf]
theorem State.killCore_wf {s : State} (k : Nat) (reason : Nat) (hs : s.mem.wf = true) : (State.killCore s k reason).mem.wf = true := by
  grind [State.killCore, State.dumpWhen_wf, State.killLaunch_wf]
theorem State.onMe_wf {s : State} (f : Core → Core) (hs : s.mem.wf = true) : (State.onMe s f).mem.wf = true := by
  grind [State.onMe]
theorem State.doubleTrap_wf {s : State} (cause : Nat) (hs : s.mem.wf = true) : (State.doubleTrap s cause).mem.wf = true := by
  grind [State.doubleTrap, State.onMe_wf, State.killCore_wf]
theorem State.takeTrap_wf {s : State} (t : Trap) (epc : Word) (async : Bool) (hs : s.mem.wf = true) : (State.takeTrap s t epc async).mem.wf
    = true := by
  grind [State.takeTrap, State.doubleTrap_wf, State.emitTrap_wf, State.squash_wf]
theorem State.hold_wf {s : State} (hs : s.mem.wf = true) : (State.hold s).mem.wf = true := by
  grind [State.hold]
theorem runPair_wf (ex : Instr → State → Result) (c : Instr) (x : Instr) (xtrap : Option Trap) {s : State} (hex : ∀ i s, Moves s (ex i s)) :
    Moves s (runPair ex c x xtrap s) := by
  have hpart : ∀ u : State, Moves u (match xtrap with | some t => .next (u.takeTrap t u.me.pc false) | none => ex x u) := by
    intro u
    cases xtrap with
    | none => exact hex x u
    | some t => exact moves_next fun hs => State.takeTrap_wf t _ _ hs
  obtain ⟨sx, hx, -⟩ := hpart { s with me := { s.me with vstat := noFlags } }
  obtain ⟨sc, hc, hcw⟩ := hex c s
  unfold runPair
  simp only [hx, hc]
  repeat' split
  all_goals grind [moves_next, State.onMe_wf]
theorem runWord_wf (ex : Instr → State → Result) (i : Instr) {s : State} (hex : ∀ i s, Moves s (ex i s)) : Moves s (runWord ex i s) := by
  obtain ⟨t, ht, hw⟩ := hex i s
  unfold runWord
  grind [moves_next, State.onMe_wf]
theorem runFetched_wf (ex : Instr → State → Result) {s : State} (i : Instr) (x : Option Instr) (hex : ∀ i s, Moves s (ex i s)) : Moves s
    (runFetched ex s i x) := by
  unfold runFetched
  extract_lets u
  have hu : s.mem.wf = true → u.mem.wf = true := fun hs => hs
  split
  · exact moves_next fun hs => State.takeTrap_wf _ _ _ (hu hs)
  cases x with
  | none =>
    obtain ⟨t, ht, hw⟩ := runWord_wf ex i (s := u) hex
    simp only [ht]
    exact moves_next fun hs => hw (hu hs)
  | some j =>
    obtain ⟨t, ht, hw⟩ := runPair_wf ex i j (stateCheck u j) (s := u) hex
    simp only [ht]
    exact moves_next fun hs => hw (hu hs)
theorem State.askHost_wf {s : State} (r : XReq) (w0 : Nat) (x : Xlat) (hs : s.mem.wf = true) : (State.askHost s r w0 x).mem.wf = true := by
  grind [State.askHost, State.askHostFor_wf]
theorem State.xlatFault_wf {s : State} (k : Nat) (va : Nat) (f : PageKind) (hs : s.mem.wf = true) : (State.xlatFault s k va f).mem.wf = true
    := by
  grind [State.xlatFault, State.onCore_wf]
theorem State.xlatAnswer_wf {s : State} (r : XReq) (x : Xlat) (hs : s.mem.wf = true) : (State.xlatAnswer s r x).mem.wf = true := by
  grind [State.xlatAnswer, State.onCore_wf, State.onPad_wf, State.xlatFault_wf]
theorem State.walked_wf (found : Except PageKind (Nat × Xlat)) {s : State} (r : XReq) (hs : s.mem.wf = true) : (State.walked found s
    r).mem.wf = true := by
  unfold State.walked
  grind (splits := 25) [State.xlatFault_wf, State.xlatAnswer_wf, State.askHost_wf, Ans.Wf]
theorem State.serveStc_wf {s : State} (r : XReq) (hs : s.mem.wf = true) : (State.serveStc s r).mem.wf = true := by
  grind [State.serveStc, State.xlatAnswer_wf, Ans.Wf]
theorem State.serveXreq_wf {s : State} (i : Nat) (hs : s.mem.wf = true) : ∀ u, State.serveXreq s i = some u → u.mem.wf = true := by
  grind [State.serveXreq, State.serveStc_wf, walk_wf, State.walked_wf, Ans.Wf, foldl_wf]
theorem State.settleX_wf {s : State} (hs : s.mem.wf = true) : (State.settleX s).mem.wf = true := by
  unfold State.settleX
  have hx : ∀ u : State, u.mem.wf = true →
      (match u.serveXreq (u.xreqs.length - 1) with | some s' => s' | none => u).mem.wf = true := by
    intro u hu
    have := State.serveXreq_wf (u.xreqs.length - 1) hu
    grind
  grind
theorem State.pageOf_wf {s : State} (va : Word) (acc : Access) (user : Bool) (hs : s.mem.wf = true) : (State.pageOf s va acc user).Wf := by
  grind [State.pageOf, State.onMe_wf, State.settleX_wf, Ans.Wf]
theorem State.fetchPlace_wf {s : State} (va : Word) (hs : s.mem.wf = true) : (State.fetchPlace s va).Wf := by
  grind (splits := 25) [State.fetchPlace, State.pageOf_wf, Ans.Wf, Option.bind_eq_some_iff, Ans.bind_wf]
theorem State.codeWord_wf {s : State} (va : Word) (hs : s.mem.wf = true) : (State.codeWord s va).Wf := by
  grind (splits := 25) [State.codeWord, State.fetchPlace_wf, State.tock_wf, Ans.Wf, Option.bind_eq_some_iff, Ans.bind_wf]
theorem secondWord_wf {s : State} (n1 : Word) (hs : s.mem.wf = true) : (secondWord s n1).Wf := by
  grind [secondWord, State.codeWord_wf, Ans.Wf]
theorem checkArrival_wf {s : State} (hs : s.mem.wf = true) : (checkArrival s).Wf := by
  grind (splits := 25) [checkArrival, secondWord_wf, Ans.Wf, Option.bind_eq_some_iff, Ans.bind_wf]
theorem fetchBundle_wf {s : State} (hs : s.mem.wf = true) : (fetchBundle s).Wf := by
  grind (splits := 25) [fetchBundle, checkArrival_wf, State.codeWord_wf, Ans.Wf, Option.bind_eq_some_iff, Ans.bind_wf]
theorem awaitImage_wf {s : State} (hs : s.mem.wf = true) : (awaitImage s).Wf := by
  grind [awaitImage, State.settle_wf, State.onMe_wf, Ans.Wf]
theorem runSent_wf (ex : Instr → State → Result) {s : State} (i : Instr) (x : Option Instr) (hex : ∀ i s, Moves s (ex i s)) : Moves s
    (runSent ex s i x) := by
  unfold runSent
  grind (splits := 25) [runWord_wf, runPair_wf]
theorem runBundle_wf (ex : Instr → State → Result) {s : State} (hex : ∀ i s, Moves s (ex i s)) : Moves s (runBundle ex s) := by
  unfold runBundle
  split
  · exact runSent_wf ex _ _ hex
  · have hf : s.mem.wf = true → ((awaitImage s).bind fun s _ => fetchBundle s).Wf := fun hs =>
      Ans.bind_wf (awaitImage_wf hs) fun s _ hs => fetchBundle_wf hs
    generalize ((awaitImage s).bind fun s _ => fetchBundle s) = b at hf ⊢
    match b with
    | .ok s p =>
      obtain ⟨t, ht, hw⟩ := runFetched_wf ex (s := s) p.1 p.2 hex
      exact ⟨t, ht, fun hs => hw (hf hs)⟩
    | .wait s => exact moves_next fun hs => State.hold_wf (hf hs)
    | .trap s t => exact moves_next fun hs => State.takeTrap_wf _ _ _ (hf hs)
theorem State.squashOf_wf {s : State} (k : Nat) (hs : s.mem.wf = true) : (State.squashOf s k).mem.wf = true := by
  grind [State.squashOf, State.onCore_wf, State.dropAsked_wf]
theorem State.engineWrite_wf {s : State} (pa : Nat) (n : Nat) (v : Nat) (hs : s.mem.wf = true) : (State.engineWrite s pa n v).mem.wf = true
    := by
  grind [State.engineWrite, State.engineWriteAs_wf]
theorem State.debugHalt_wf {s : State} (k : Nat) (cause : Nat) (index : Nat) (hs : s.mem.wf = true) : (State.debugHalt s k cause
    index).mem.wf = true := by
  grind [State.debugHalt, State.engineWrite_wf, State.poisonNext_wf, State.emit_wf, State.emitRetire_wf, State.onCore_wf, State.squashOf_wf]
theorem endStep_wf {s : State} (hs : s.mem.wf = true) : (endStep s).mem.wf = true := by
  grind [endStep, State.debugHalt_wf]
theorem State.stopStream_wf {s : State} (k : Nat) (l : Launch) (t : Stream) (hs : s.mem.wf = true) : (State.stopStream s k l t).mem.wf =
    true := by
  grind [State.stopStream, State.onLaunch_wf, State.onCore_wf, State.squashOf_wf]
theorem stopHere_wf {s : State} (hs : s.mem.wf = true) : ∀ u, stopHere s = some u → u.mem.wf = true := by
  grind [stopHere, State.stopStream_wf]
theorem State.takeAsync_wf {s : State} (n1 : Async) (hs : s.mem.wf = true) : (State.takeAsync s n1).mem.wf = true := by
  grind [State.takeAsync, State.takeTrap_wf, State.onMe_wf]
theorem boundary_wf {s : State} (hs : s.mem.wf = true) : ∀ u, boundary s = some u → u.mem.wf = true := by
  grind [boundary, State.takeAsync_wf, stopHere_wf, State.debugHalt_wf, State.takeTrap_wf]
theorem turn_wf (ex : Instr → State → Result) {s : State} (hex : ∀ i s, Moves s (ex i s)) : Moves s (turn ex s) := by
  unfold turn
  split
  · exact moves_next fun hs => endStep_wf (boundary_wf hs _ ‹_›)
  · extract_lets u
    have hu : s.mem.wf = true → u.mem.wf = true := by grind [State.onMe_wf]
    obtain ⟨t, ht, hw⟩ := runBundle_wf ex (s := u) hex
    simp only [ht]
    exact moves_next fun hs => State.endKill_wf (endStep_wf (hw (hu hs)))
theorem retryEpisodes_wf {s : State} (launch : Nat) (hs : s.mem.wf = true) : (retryEpisodes s launch).mem.wf = true := by
  grind [retryEpisodes, tryEpisode_wf, foldl_wf]
theorem State.finishSave_wf {s : State} (id : Nat) (hs : s.mem.wf = true) : (State.finishSave s id).mem.wf = true := by
  grind [State.finishSave, State.cellsLeft_wf, State.onPad_wf, State.onLaunch_wf]
theorem State.stopLost_wf {s : State} (k : Nat) (hs : s.mem.wf = true) : (State.stopLost s k).mem.wf = true := by
  grind [State.stopLost, State.endKillOf_wf, State.onCore_wf, State.squashOf_wf]
theorem State.loseCore_wf {s : State} (k : Nat) (line : Nat) (answers : Bool) (hs : s.mem.wf = true) : (State.loseCore s k line
    answers).mem.wf = true := by
  unfold State.loseCore
  grind (splits := 25) [State.stopLost_wf, State.onCore_wf, State.dropLocks_wf, State.onLaunch_wf, State.setCore_wf, State.settleNi_wf,
    State.postNi_wf, State.finishSave_wf, retryEpisodes_wf, State.killCore_wf, foldl_wf, Option.map_eq_some_iff]
theorem State.fenceOff_wf {s : State} (k : Nat) (line : Nat) (hs : s.mem.wf = true) : (State.fenceOff s k line).mem.wf = true := by
  grind [State.fenceOff, State.loseCore_wf, State.dropLocks_wf, State.logCore_wf, State.onCore_wf]
theorem State.ackTimeout_wf {s : State} (line : Nat) (k : Nat) (hs : s.mem.wf = true) : ∀ u, State.ackTimeout s line k = some u → u.mem.wf =
    true := by
  grind [State.ackTimeout, State.settle_wf, State.fenceOff_wf, State.ackRound_wf, State.onCore_wf, State.onDir_wf, State.logCore_wf,
    State.combine_wf]
theorem ackDue_wf {s : State} (hs : s.mem.wf = true) : ∀ u, ackDue s = some u → u.mem.wf = true := by
  grind (splits := 25) [ackDue, State.ackTimeout_wf, findSome_wf, Option.bind_eq_some_iff]
theorem readReady_wf {s : State} (pa : Nat) (n : Nat) (hs : s.mem.wf = true) : (readReady s pa n).Wf := by
  unfold readReady
  refine Ans.bind_wf (foldlAns_wf _ (fun x p hx => Ans.bind_wf hx fun s _ hs => State.readyAtHome_wf _ hs) _ _ hs) fun s _ hs => hs
theorem bar2Read_wf {s : State} (vf : Nat) (off : Nat) (size : Nat) (hs : s.mem.wf = true) : (bar2Read s vf off size).Wf := by
  grind (splits := 25) [bar2Read, readReady_wf, Ans.Wf, Option.bind_eq_some_iff, Ans.bind_wf]
theorem State.retryRead_wf {s : State} (r : Nat × Nat × Nat) (hs : s.mem.wf = true) : ∀ u, State.retryRead s r = some u → u.mem.wf = true :=
    by
  grind [State.retryRead, bar2Read_wf, Ans.Wf]
theorem State.sinkWrite_wf {s : State} (k : Nat) (faulted : Bool) (hs : s.mem.wf = true) : ∀ u, State.sinkWrite s k faulted = some u →
    u.mem.wf = true := by
  grind [State.sinkWrite, State.sinkFault_wf, State.request_wf, State.onCore_wf]
theorem traceDue_wf {s : State} (hs : s.mem.wf = true) : ∀ u, traceDue s = some u → u.mem.wf = true := by
  grind [traceDue, State.sinkWrite_wf, findSome_wf]
theorem State.quiesceDone_wf {s : State} (n : Nat) (hs : s.mem.wf = true) : (State.quiesceDone s n).mem.wf = true := by
  grind [State.quiesceDone, State.onPad_wf]
theorem evictFor_wf {s : State} (l : Launch) (hs : s.mem.wf = true) : (evictFor s l).mem.wf = true := by
  grind [evictFor, State.onLaunch_wf, State.onPad_wf]
theorem State.placeAt_wf {s : State} (n : Nat) (c : Candidate) (ox : Nat) (oy : Nat) (own : Option Retention) (successor : Bool) (hs :
    s.mem.wf = true) : (State.placeAt s n c ox oy own successor).mem.wf = true := by
  unfold State.placeAt
  grind (splits := 25) [evictFor_wf, State.onPad_wf, State.onLaunch_wf, State.onQueue_wf, foldl_wf, Option.map_eq_some_iff]
theorem State.dispatchOne_wf {s : State} (n : Nat) (hs : s.mem.wf = true) : (State.dispatchOne s n).mem.wf = true := by
  have ha := fun r : LaunchRec => asidEntry_wf n (recField r 48 16) none hs
  unfold State.dispatchOne
  extract_lets p
  split
  · exact hs
  split
  · exact hs
  extract_lets try_
  have ht : ∀ (u : State) r seq own, u.mem.wf = true → (try_ u r seq own).mem.wf = true := by
    intro u r seq own hu
    grind [State.logDispatch_wf, State.placeAt_wf]
  clear_value try_
  split
  · exact ht _ _ _ _ hs
  · grind [State.onQueue_wf, State.endWord_wf, Ans.Wf]
theorem State.writeBackOrLose_wf {s : State} (d : DirLine) (hs : s.mem.wf = true) : (State.writeBackOrLose s d).mem.wf = true := by
  grind [State.writeBackOrLose, State.logAt_wf, State.place_wf]
theorem State.writeBackAll_wf {s : State} (which : DirLine → Bool) (hs : s.mem.wf = true) : (State.writeBackAll s which).mem.wf = true := by
  grind [State.writeBackAll, State.tock_wf, State.writeBackOrLose_wf, foldl_wf]
theorem State.flushDone_wf {s : State} (n : Nat) (hs : s.mem.wf = true) : ∀ u, State.flushDone s n = some u → u.mem.wf = true := by
  grind [State.flushDone, State.writeBackAll_wf, State.onPad_wf]
theorem State.flushLine_wf {s : State} (d : DirLine) (hs : s.mem.wf = true) : (State.flushLine s d).mem.wf = true := by
  grind [State.flushLine, State.recallG_wf, State.startRecall_wf]
theorem State.flushOne_wf {s : State} (n : Nat) (hs : s.mem.wf = true) : ∀ u, State.flushOne s n = some u → u.mem.wf = true := by
  grind (splits := 25) [State.flushOne, State.flushLine_wf, Option.map_eq_some_iff]
theorem setDue_wf {s : State} (n : Nat) (hs : s.mem.wf = true) : ∀ u, setDue s n = some u → u.mem.wf = true := by
  grind [setDue, State.flushOne_wf, State.settle_wf, State.flushDone_wf, State.dispatchOne_wf, State.quiesceDone_wf]
theorem State.sweepLaunch_wf {s : State} (id : Nat) (hs : s.mem.wf = true) : (State.sweepLaunch s id).mem.wf = true := by
  grind [State.sweepLaunch, State.onLaunch_wf, foldl_wf]
theorem parkLocks_wf {s : State} (k : Nat) (c : Core) (hs : s.mem.wf = true) : (parkLocks s k c).mem.wf = true := by
  grind [parkLocks, State.postLock_wf, foldl_wf]
theorem State.drainGathered_wf {s : State} (k : Nat) (hs : s.mem.wf = true) : (State.drainGathered s k).mem.wf = true := by
  grind [State.drainGathered, State.settle_wf, State.postAll_wf]
theorem savePoison_wf {s : State} (l : Launch) (t : Stream) (c : Core) (hs : s.mem.wf = true) : (savePoison s l t c).mem.wf = true := by
  grind [savePoison, State.poisonNext_wf]
theorem saveLoft_wf {s : State} (l : Launch) (t : Stream) (c : Core) (hs : s.mem.wf = true) : ∀ u, saveLoft s l t c = some u → u.mem.wf =
    true := by
  unfold saveLoft
  refine foldlSome_wf _ (fun o r ho => foldlSome_wf _ (fun o i ho => ?_) _ _ ho) _ _ (by simpa using hs)
  grind [frameWrite_wf]
theorem writeFrame_wf {s : State} (l : Launch) (t : Stream) (c : Core) (hs : s.mem.wf = true) : ∀ u, writeFrame s l t c = some u → u.mem.wf
    = true := by
  intro u h
  unfold writeFrame at h
  obtain ⟨v, hv, hu⟩ := Option.bind_eq_some_iff.mp h
  refine frameWrite_wf _ _ _ _ ?_ u hu
  grind [saveLoft_wf, frameWrite_wf]
theorem leaveQueues_wf {s : State} (k : Nat) (hs : s.mem.wf = true) : (leaveQueues s k).mem.wf = true := by
  grind [leaveQueues, State.settleLocks_wf, State.withdrawEntry_wf, foldl_wf]
theorem State.unstopStream_wf {s : State} (k : Nat) (l : Launch) (t : Stream) (hs : s.mem.wf = true) : (State.unstopStream s k l t).mem.wf =
    true := by
  grind [State.unstopStream, State.onLaunch_wf, State.onCore_wf]
theorem State.saveStream_wf {s : State} (k : Nat) (hs : s.mem.wf = true) : (State.saveStream s k).mem.wf = true := by
  unfold State.saveStream
  repeat' split
  all_goals grind (splits := 25) [State.stopStream_wf, State.unstopStream_wf, leaveQueues_wf, writeFrame_wf, savePoison_wf, frameWait_wf,
    State.killLaunch_wf, State.onLaunch_wf, State.drainGathered_wf, parkLocks_wf, State.dropAsked_wf, State.finishSave_wf,
    State.settleLocks_wf, State.setCore_wf]
theorem State.askFrame_wf {s : State} (l : Launch) (va : Nat) (n : Nat) (hs : s.mem.wf = true) : ∀ u, State.askFrame s l va n = some u →
    u.mem.wf = true := by
  unfold State.askFrame
  refine foldlSome_wf _ (fun o line ho u h => ?_) _ _ (by simpa using hs)
  obtain ⟨v, hv, hu⟩ := Option.bind_eq_some_iff.mp h
  grind
theorem State.askFrames_wf {s : State} (l : Launch) (hs : s.mem.wf = true) : ∀ u, State.askFrames s l = some u → u.mem.wf = true := by
  unfold State.askFrames
  refine foldlSome_wf _ (fun o t ho u h => ?_) _ _ (by simpa using hs)
  obtain ⟨v, hv, hu⟩ := Option.bind_eq_some_iff.mp h
  grind [State.askFrame_wf]
theorem drainLate_wf (launch : Nat) (rx : Nat) (ry : Nat) (n1 : Nat) {s : State} (hs : s.mem.wf = true) : (drainLate launch rx ry n1
    s).mem.wf = true := by
  induction n1 generalizing s with
  | zero => exact hs
  | succ n ih =>
    unfold drainLate
    split
    · exact hs
    split
    · exact hs
    split
    · exact hs
    · exact ih (State.onLaunch_wf _ _ (placeAtNi_wf _ _ _ hs _ ‹_›))
theorem restoreLoft_wf {s : State} (l : Launch) (t : Stream) (k : Nat) (hs : s.mem.wf = true) : (restoreLoft s l t k).mem.wf = true := by
  suffices h : (restoreLoft s l t k).Canon from h.wf
  obtain ⟨f, hf⟩ : ∃ f, f = @restoreLoft := ⟨_, rfl⟩
  rw [← hf]
  delta restoreLoft at hf
  generalize @frameRead = read at hf
  subst hf
  refine foldl_canon (fun s r hs => foldl_canon (fun s i hs => ?_) _ hs) _ ⟨hs⟩
  extract_lets -underBinder -lift off
  clear_value off
  split
  · exact ⟨State.place_wf _ _ _ hs.wf⟩
  · exact hs
theorem State.coverFillsOf_wf {s : State} (k : Nat) (hit : Nat → Bool) (hs : s.mem.wf = true) : (State.coverFillsOf s k hit).mem.wf = true
    := by
  grind [State.coverFillsOf]
theorem State.freshCache_wf {s : State} (k : Nat) (hs : s.mem.wf = true) : (State.freshCache s k).mem.wf = true := by
  grind [State.freshCache, State.coverFillsOf_wf]
theorem State.zeroScratch_wf {s : State} (cell : Nat) (hs : s.mem.wf = true) : (State.zeroScratch s cell).mem.wf = true := by
  exact Memory.filter_wf hs _
theorem restoredScratch_canon {s : State} (h : s.Canon) (disp : Bool) (l : Launch) (t : Stream) (k a n : Nat) (o : Option Nat) :
    State.Canon (if disp then restoreLoft s l t k else match o with
      | some v => { s with mem := s.mem.writeN a v n }
      | none => s) := by
  cases disp with
  | true => exact ⟨restoreLoft_wf l t k h.wf⟩
  | false => cases o with
    | none => exact h
    | some v => exact h.writeN a v n
theorem restoreStream_wf (l : Launch) (win : Word) (tvec : Word) {s : State} (t : Stream) (hs : s.mem.wf = true) : ∀ u, restoreStream l win
    tvec s t = some u → u.mem.wf = true := by
  suffices h : MayCanon (restoreStream l win tvec s t) from fun u hu => (h.wf u hu).wf
  obtain ⟨f, hf⟩ : ∃ f, f = @restoreStream := ⟨_, rfl⟩
  rw [← hf]
  delta restoreStream at hf
  generalize @frameRead = read, @frameSpoilt = spoilt at hf
  subst hf
  dsimp -zeta -iota -proj only
  extract_lets -underBinder -lift k base live disp
  clear_value k base live disp
  split
  · extract_lets -underBinder -lift s1 s2 s3 fresh c pc c' s5 s6 s7 s8 s9 s10
    have h1 : s1.Canon := ⟨State.zeroScratch_wf _ (State.freshCache_wf _ (State.drainGathered_wf _ hs))⟩
    clear_value s1
    have h2 : s2.Canon := restoredScratch_canon h1 _ _ _ _ _ _ _
    clear_value s2
    have h3 : s3.Canon := ⟨h2.wf⟩
    clear_value s3 fresh c pc c'
    have h5 : s5.Canon := ⟨State.setCore_wf _ h3.wf⟩
    clear_value s5
    have h6 : s6.Canon := ⟨h5.wf⟩
    clear_value s6
    have h7 : s7.Canon := ⟨State.onLaunch_wf _ _ h6.wf⟩
    clear_value s7
    have h8 : s8.Canon := ⟨foldl_wf _ (fun s e hs => State.postLock_wf _ _ hs) _ _ h7.wf⟩
    clear_value s8
    have h9 : s9.Canon := ⟨State.emit_wf _ _ h8.wf⟩
    clear_value s9
    have h10 : s10.Canon :=  State.Canon.of_ite ⟨State.emitAddr_wf _ _ _ h9.wf⟩ h9
    exact ⟨by rintro u ⟨⟩; exact ⟨State.niSettle_wf _ (drainLate_wf _ _ _ _ (State.settleLocks_wf h10.wf))⟩⟩
  · exact ⟨fun _ h => nomatch h⟩
theorem State.resumeLaunch_wf {s : State} (id : Nat) (hs : s.mem.wf = true) : (State.resumeLaunch s id).mem.wf = true := by
  unfold State.resumeLaunch
  split
  · exact hs
  split
  · exact hs
  split
  · exact State.killLaunch_wf _ _ hs
  extract_lets p win started
  have hr : ∀ u, ‹Launch›.streams.foldl (fun (o : Option State) t => o.bind fun s => restoreStream ‹_› win p.tvec s t)
      (started.askFrames ‹_›) = some u → u.mem.wf = true := by
    refine foldlSome_wf _ (fun o t ho u h => ?_) _ _ (State.askFrames_wf _ (State.onLaunch_wf _ _ hs))
    obtain ⟨v, hv, hu⟩ := Option.bind_eq_some_iff.mp h
    exact restoreStream_wf _ _ _ _ (ho v hv) u hu
  split
  · exact hr _ ‹_›
  split
  · exact findSome_wf (fun t u h => frameWait_wf _ _ _ hs u h) _ _ ‹_›
  · exact State.killLaunch_wf _ _ hs
theorem frameMove_wf {s : State} {t : State} (hs : s.mem.wf = true) (ht : t.mem.wf = true) : ∀ u, frameMove s t = some u → u.mem.wf = true
    := by
  grind [frameMove]
theorem startStream_wf (l : Launch) (win : Word) (tvec : Word) {s : State} (t : Stream) (hs : s.mem.wf = true) : (startStream l win tvec s
    t).mem.wf = true := by
  grind [startStream, State.freshCache_wf, State.drainGathered_wf, State.zeroScratch_wf, State.setCore_wf, State.onLaunch_wf, State.emit_wf,
    State.emitAddr_wf]
theorem State.startLaunch_wf {s : State} (id : Nat) (hs : s.mem.wf = true) : (State.startLaunch s id).mem.wf = true := by
  grind [State.startLaunch, State.onLaunch_wf, State.onPad_wf, startStream_wf, foldl_wf]
theorem State.launchEnds_wf {s : State} (id : Nat) (hs : s.mem.wf = true) : (State.launchEnds s id).mem.wf = true := by
  grind [State.launchEnds, State.killLaunch_wf, State.endLaunch_wf]
theorem launchDue_wf {s : State} (l : Launch) (hs : s.mem.wf = true) : ∀ u, launchDue s l = some u → u.mem.wf = true := by
  grind [launchDue, State.launchEnds_wf, State.startLaunch_wf, frameMove_wf, State.resumeLaunch_wf, State.saveStream_wf,
    State.sweepLaunch_wf, findSome_wf]
theorem State.sendCompletion_wf {s : State} (core : Nat) (launch : Nat) (rx : Nat) (ry : Nat) (slot : Nat) (v : Word) (sc : Scope) (b :
    BitVec 960) (hs : s.mem.wf = true) : (State.sendCompletion s core launch rx ry slot v sc b).mem.wf = true := by
  grind [State.sendCompletion, State.sendNi_wf]
theorem spoilBuffer_wf {s : State} (n1 : Ared) (hs : s.mem.wf = true) : (spoilBuffer s n1).mem.wf = true := by
  grind [spoilBuffer, State.placeBy_wf, foldl_wf]
theorem State.aredDone_wf {s : State} (id : Nat) (hs : s.mem.wf = true) : ∀ u, State.aredDone s id = some u → u.mem.wf = true := by
  grind [State.aredDone, spoilBuffer_wf, State.sendCompletion_wf]
theorem State.copyDone_wf {s : State} (id : Nat) (hs : s.mem.wf = true) : ∀ u, State.copyDone s id = some u → u.mem.wf = true := by
  grind [State.copyDone, State.sendCompletion_wf]
theorem State.liftMarks_wf {s : State} (id : Nat) (lines : List Nat) (hs : s.mem.wf = true) : (State.liftMarks s id lines).mem.wf = true :=
    by
  grind [State.liftMarks]
theorem State.onJob_wf {s : State} (id : Nat) (f : Job → Job) (hs : s.mem.wf = true) : (State.onJob s id f).mem.wf = true := by
  grind [State.onJob]
theorem State.enqueue_wf {s : State} (n : Nat) (q : Nat) (r : LaunchRec) (hs : s.mem.wf = true) : (State.enqueue s n q r).mem.wf = true :=
    by
  grind [State.enqueue, State.onPad_wf]
theorem State.qportEnter_wf {s : State} (n : Nat) (q : Nat) (hs : s.mem.wf = true) : (State.qportEnter s n q).mem.wf = true := by
  grind [State.qportEnter, State.onQueue_wf, State.enqueue_wf]
theorem State.qportWord_wf {s : State} (n : Nat) (q : Nat) (off : Nat) (v : Nat) (hs : s.mem.wf = true) : (State.qportWord s n q off
    v).mem.wf = true := by
  grind [State.qportWord, State.onQueue_wf, State.qportEnter_wf]
theorem State.rrSet_wf {s : State} (n : Nat) (mode : Nat) (hs : s.mem.wf = true) : (State.rrSet s n mode).mem.wf = true := by
  grind [State.rrSet, State.onPad_wf]
theorem State.killWrite_wf {s : State} (n : Nat) (v : Word) (hs : s.mem.wf = true) : (State.killWrite s n v).mem.wf = true := by
  grind [State.killWrite, State.dumpWhen_wf, State.killLaunch_wf, State.endWord_wf, State.onQueue_wf]
theorem State.priSet_wf {s : State} (n : Nat) (v : Nat) (hs : s.mem.wf = true) : (State.priSet s n v).mem.wf = true := by
  grind [State.priSet, State.onPad_wf]
theorem State.setCmask_wf {s : State} (n : Nat) (i : Nat) (v : Nat) (hs : s.mem.wf = true) : (State.setCmask s n i v).mem.wf = true := by
  grind [State.setCmask, State.onPad_wf]
theorem State.quiesceSet_wf {s : State} (n : Nat) (hs : s.mem.wf = true) : (State.quiesceSet s n).mem.wf = true := by
  grind [State.quiesceSet, State.onPad_wf]
theorem State.resumeSet_wf {s : State} (n : Nat) (hs : s.mem.wf = true) : (State.resumeSet s n).mem.wf = true := by
  grind [State.resumeSet, State.onPad_wf]
theorem State.flushSet_wf {s : State} (n : Nat) (hs : s.mem.wf = true) : (State.flushSet s n).mem.wf = true := by
  grind [State.flushSet, State.onPad_wf, State.settle_wf, State.flushLine_wf, foldl_wf]
theorem padWrite_wf {s : State} (n : Nat) (off : Nat) (v : Nat) (machine : Bool) (hs : s.mem.wf = true) : (padWrite s n off v
    machine).mem.wf = true := by
  grind (splits := 25) [padWrite, State.onPad_wf, State.flushSet_wf, State.resumeSet_wf, State.quiesceSet_wf, State.setCmask_wf,
    State.priSet_wf, State.killWrite_wf, State.rrSet_wf, State.qportWord_wf, State.onQueue_wf]
theorem State.sendWindows_wf {s : State} (hs : s.mem.wf = true) : (State.sendWindows s).mem.wf = true := by
  grind [State.sendWindows]
theorem State.windowSet_wf {s : State} (i : Nat) (word : Nat) (v : Nat) (hs : s.mem.wf = true) : (State.windowSet s i word v).mem.wf = true
    := by
  grind [State.windowSet, State.sendWindows_wf]
theorem State.debugContinue_wf {s : State} (k : Nat) (step : Bool) (hs : s.mem.wf = true) : (State.debugContinue s k step).mem.wf = true :=
    by
  grind [State.debugContinue, State.onCore_wf, State.emitAddr_wf, State.coverFillsOf_wf, State.tock_wf, State.setCore_wf]
theorem State.dctlWrite_wf {s : State} (k : Nat) (v : Nat) (hs : s.mem.wf = true) : (State.dctlWrite s k v).mem.wf = true := by
  grind [State.dctlWrite, State.onCore_wf, State.debugContinue_wf]
theorem State.loftctlSet_wf {s : State} (k : Nat) (v : Nat) (hs : s.mem.wf = true) : (State.loftctlSet s k v).mem.wf = true := by
  grind [State.loftctlSet, State.setCore_wf, loftWrite_wf, State.onCore_wf, State.niSettle_wf, foldl_wf]
theorem regWrite_wf {s : State} (cell : Nat) (off : Nat) (v : Nat) (machine : Bool) (hs : s.mem.wf = true) : (regWrite s cell off v
    machine).mem.wf = true := by
  grind (splits := 25) [regWrite, State.onCore_wf, State.loftctlSet_wf, State.dctlWrite_wf, State.windowSet_wf, padWrite_wf]
theorem regSetBytes_wf {s : State} (cell : Nat) (off : Nat) (n : Nat) (v : Nat) (machine : Bool) (hs : s.mem.wf = true) : (regSetBytes s
    cell off n v machine).mem.wf = true := by
  grind [regSetBytes, regWrite_wf]
theorem controlStore_wf {s : State} (cell : Nat) (off : Nat) (n : Nat) (v : Nat) (machine : Bool) (hs : s.mem.wf = true) : (controlStore s
    cell off n v machine).mem.wf = true := by
  grind [controlStore, regSetBytes_wf, foldl_wf]
theorem State.ownWriteOf_wf {s : State} (k : Nat) (line : Nat) (hs : s.mem.wf = true) : (State.ownWriteOf s k line).mem.wf = true := by
  grind [State.ownWriteOf, State.coverFillsOf_wf, State.onCore_wf]
theorem enginePiece_wf {s : State} (j : Job) (pa : Nat) (n : Nat) (v : Nat) (hs : s.mem.wf = true) : (enginePiece s j pa n v).mem.wf = true
    := by
  grind [enginePiece, State.ownWriteOf_wf, State.noteCommit_wf, State.placeBy_wf, State.onDir_wf, controlStore_wf, State.request_wf]
theorem sourceReady_wf {s : State} (j : Job) (line : Nat) (hs : s.mem.wf = true) : (sourceReady s j line).Wf := by
  grind [sourceReady, State.readyAtHome_wf, State.request_wf, Ans.Wf]
theorem sourcesReady_wf (j : Job) (xs1 : List Nat) {s : State} (hs : s.mem.wf = true) : (sourcesReady j xs1 s).Wf := by
  induction xs1 generalizing s with
  | nil => exact hs
  | cons l ls ih => exact Ans.bind_wf (sourceReady_wf j l hs) fun s _ hs => ih hs
theorem State.endCopyAt_wf {s : State} (j : Job) (line : Nat) (status : Nat) (hs : s.mem.wf = true) : (State.endCopyAt s j line
    status).mem.wf = true := by
  grind [State.endCopyAt, State.placeBy_wf, State.liftMarks_wf, State.onCore_wf, State.onJob_wf, State.logError_wf, foldl_wf]
theorem State.copyWrite_wf {s : State} (id : Nat) (line : Nat) (memErr : Bool) (hs : s.mem.wf = true) : ∀ u, State.copyWrite s id line
    memErr = some u → u.mem.wf = true := by
  intro u h
  unfold State.copyWrite at h
  simp only [Option.map_eq_some_iff] at h
  grind (splits := 25) [State.endCopyAt_wf, sourcesReady_wf, enginePiece_wf, State.onJob_wf, State.liftMarks_wf, Ans.Wf, foldl_wf,
    Option.map_eq_some_iff]
theorem State.lineMarked_wf {s : State} (j : Job) (rest : List Nat) (hs : s.mem.wf = true) : (State.lineMarked s j rest).mem.wf = true := by
  grind [State.lineMarked, State.onJob_wf, State.onCore_wf]
theorem State.copyMark_wf {s : State} (id : Nat) (hs : s.mem.wf = true) : ∀ u, State.copyMark s id = some u → u.mem.wf = true := by
  intro u h
  unfold State.copyMark at h
  repeat' split at h
  all_goals grind (splits := 25) [allocate_wf, State.recallG_wf, State.startRecall_wf, State.lineMarked_wf, State.onDir_wf, State.hitDir_wf,
    Served.Wf]
theorem State.jobStep_wf {s : State} (id : Nat) (hs : s.mem.wf = true) : ∀ u, State.jobStep s id = some u → u.mem.wf = true := by
  grind (splits := 25) [State.jobStep, State.copyMark_wf, State.settle_wf, State.copyWrite_wf, State.copyDone_wf, findSome_wf,
    Option.bind_eq_some_iff]
theorem State.replyTo_wf {s : State} (core : Nat) (v : Int) (hs : s.mem.wf = true) : (State.replyTo s core v).mem.wf = true := by
  grind [State.replyTo, State.onCore_wf]
theorem State.serveLnch_wf {s : State} (core : Nat) (pset : Nat) (queue : Nat) (r : LaunchRec) (hs : s.mem.wf = true) : (State.serveLnch s
    core pset queue r).mem.wf = true := by
  grind [State.serveLnch, State.replyTo_wf, State.enqueue_wf]
theorem State.serveUnpin_wf {s : State} (core : Nat) (asid : Nat) (i : Nat) (user : Bool) (hs : s.mem.wf = true) : (State.serveUnpin s core
    asid i user).mem.wf = true := by
  grind [State.serveUnpin, State.replyTo_wf, State.onPad_wf]
theorem State.serveRetain_wf {s : State} (core : Nat) (asid : Nat) (base : Nat) (limit : Nat) (ways : Nat) (hs : s.mem.wf = true) :
    (State.serveRetain s core asid base limit ways).mem.wf = true := by
  grind [State.serveRetain, State.onPad_wf, State.replyTo_wf]
theorem removeAtCore_wf {s : State} (k : Nat) (sel : XSel) (hs : s.mem.wf = true) : (removeAtCore s k sel).mem.wf = true := by
  grind [removeAtCore, State.onCore_wf]
theorem removeAtSlices_wf {s : State} (n : Nat) (sel : XSel) (hs : s.mem.wf = true) : (removeAtSlices s n sel).mem.wf = true := by
  grind [removeAtSlices, State.onPad_wf]
theorem serveRemoval_wf {s : State} (core : Nat) (n : Nat) (sel : XSel) (target : Nat) (hs : s.mem.wf = true) : ∀ u, serveRemoval s core n
    sel target = some u → u.mem.wf = true := by
  grind [serveRemoval, removeAtSlices_wf, removeAtCore_wf]
theorem State.serveCtl_wf {s : State} (i : Nat) (hs : s.mem.wf = true) : ∀ u, State.serveCtl s i = some u → u.mem.wf = true := by
  intro u h
  unfold State.serveCtl at h
  split at h
  · cases h
  extract_lets v at h
  have hv : v.mem.wf = true := hs
  split at h
  · exact serveRemoval_wf _ _ _ _ hv u h
  · cases h; exact State.serveRetain_wf _ _ _ _ _ hv
  · cases h; exact State.serveUnpin_wf _ _ _ _ hv
  · cases h; exact State.serveLnch_wf _ _ _ _ hv
theorem serveCtlFirst_wf {s : State} (n1 : Nat) (n2 : Nat) (hs : s.mem.wf = true) : ∀ u, serveCtlFirst s n1 n2 = some u → u.mem.wf = true :=
    by
  induction n1 generalizing n2 with
  | zero => intro u h; cases h
  | succ n ih =>
    intro u h
    unfold serveCtlFirst at h
    grind [State.serveCtl_wf]
theorem prefFill_wf (ef : Bool) (priv : Bool) {s : State} (pa : Nat) (hs : s.mem.wf = true) : (prefFill ef priv s pa).mem.wf = true := by
  grind [prefFill, State.request_wf]
theorem State.probeHost_wf {s : State} (who : Nat) (r : XReq) (w0 : Nat) (x : Xlat) (hs : s.mem.wf = true) : (State.probeHost s who r w0
    x).mem.wf = true := by
  grind [State.probeHost]
theorem probePage_wf {s : State} (v : Nat) (acc : Access) (user : Bool) (who : Nat) (hs : s.mem.wf = true) : (probePage s v acc user who).Wf
    := by
  grind (splits := 25) [probePage, State.onMe_wf, State.onPad_wf, walk_wf, State.probeHost_wf, Ans.Wf, Option.bind_eq_some_iff, Ans.bind_wf]
theorem probeAddr_wf {s : State} (va : Word) (acc : Access) (user : Bool) (who : Nat) (hs : s.mem.wf = true) : (probeAddr s va acc user
    who).Wf := by
  grind (splits := 25) [probeAddr, probePage_wf, Ans.Wf, Option.bind_eq_some_iff, Ans.bind_wf]
theorem prefPlace_wf {s : State} (va : Word) (user : Bool) (hs : s.mem.wf = true) : (prefPlace s va user).Wf := by
  grind [prefPlace, probeAddr_wf, Ans.Wf]
theorem State.retryPref_wf {s : State} (i : Nat) (hs : s.mem.wf = true) : ∀ u, State.retryPref s i = some u → u.mem.wf = true := by
  grind [State.retryPref, prefPlace_wf, State.switchTo_wf, prefFill_wf, Ans.Wf]
theorem xlatDue_wf {s : State} (hs : s.mem.wf = true) : ∀ u, xlatDue s = some u → u.mem.wf = true := by
  grind [xlatDue, State.serveXreq_wf, findSome_wf]
theorem State.withdrawLock_wf {s : State} (k : Nat) (line : Nat) (status : Option (Nat × Nat)) (hs : s.mem.wf = true) : (State.withdrawLock
    s k line status).mem.wf = true := by
  grind [State.withdrawLock, State.settleLocks_wf, State.withdrawEntry_wf]
theorem State.retryWithdraw_wf {s : State} (i : Nat) (hs : s.mem.wf = true) : ∀ u, State.retryWithdraw s i = some u → u.mem.wf = true := by
  grind [State.retryWithdraw, State.withdrawLock_wf]
theorem loftDue_wf {s : State} (hs : s.mem.wf = true) : ∀ u, loftDue s = some u → u.mem.wf = true := by
  grind [loftDue, loftMoveOne_wf, findSome_wf]
theorem lateDue_wf {s : State} (hs : s.mem.wf = true) : ∀ u, lateDue s = some u → u.mem.wf = true := by
  grind [lateDue, drainLate_wf, findSome_wf]
theorem State.fillLine_wf {s : State} (line : Nat) (hs : s.mem.wf = true) : (State.fillLine s line).mem.wf = true := by
  grind [State.fillLine, State.settle_wf, State.onDir_wf]
theorem fillDue_wf {s : State} (hs : s.mem.wf = true) : ∀ u, fillDue s = some u → u.mem.wf = true := by
  grind [fillDue, State.fillLine_wf, findSome_wf]
theorem due_wf {s : State} (hs : s.mem.wf = true) : ∀ u, due s = some u → u.mem.wf = true := by
  unfold due
  apply firstOf_wf
  simp only [List.forall_mem_cons, List.not_mem_nil, false_imp_iff, implies_true, and_true]
  exact ⟨serveByClass_wf hs, fillDue_wf hs, serveNiFirst_wf _ _ hs, lateDue_wf hs, loftDue_wf hs,
    findSome_wf (fun a => State.retryWithdraw_wf a hs) _, xlatDue_wf hs, findSome_wf (fun a => State.retryPref_wf a hs) _,
    serveCtlFirst_wf _ _ hs, findSome_wf (fun (j : Job) => State.jobStep_wf j.id hs) _, findSome_wf (by grind [State.aredDone_wf]) _,
    findSome_wf (fun (l : Launch) => launchDue_wf l hs) _, findSome_wf (fun n => State.dumpStep_wf n hs) _, findSome_wf (fun n => setDue_wf n hs) _,
    traceDue_wf hs, findSome_wf (fun r => State.retryRead_wf r hs) _, ackDue_wf hs⟩
theorem idleMove_wf (ex : Instr → State → Result) {s : State} (hex : ∀ i s, Moves s (ex i s)) : Moves s (idleMove ex s) := by
  unfold idleMove
  split
  · exact moves_next fun hs => due_wf hs _ ‹_›
  split
  · obtain ⟨t, ht, hw⟩ := turn_wf ex (s := s.switchTo ‹_›) hex
    exact ⟨t, ht, fun hs => hw (State.switchTo_wf _ hs)⟩
  · exact moves_next fun hs => State.tock_wf hs
theorem served_wf {s : State} (o : Option State) (hk : s.mem.wf = true → ∀ u, o = some u → u.mem.wf = true) : Moves s (served s o) := by
  unfold served
  refine moves_next fun hs => ?_
  cases o with
  | none => exact hs
  | some t => exact hk hs t rfl
theorem servePktIf_wf {s : State} (i : Nat) (is : Pkt → Bool) : Moves s (servePktIf s i is) := by
  grind (splits := 25) [servePktIf, served_wf, State.settle_wf, serveAt_wf, Option.map_eq_some_iff]
theorem execHbmWriteComplete_wf (i : Nat) {s : State} : Moves s (execHbmWriteComplete i s) := by
  grind [execHbmWriteComplete, servePktIf_wf]
theorem execSahaxRetrainComplete_wf {s : State} : Moves s (execSahaxRetrainComplete s) := by
  unfold execSahaxRetrainComplete
  refine moves_next fun hs => ?_
  grind (splits := 25) [State.settle_wf]
theorem execSahaxRetrainAttempt_wf (peerId : Option Word) {s : State} : Moves s (execSahaxRetrainAttempt peerId s) := by
  unfold execSahaxRetrainAttempt
  refine moves_next fun hs => ?_
  grind (splits := 25) [State.sendWindows_wf]
theorem State.linkDown_wf {s : State} (hs : s.mem.wf = true) : (State.linkDown s).mem.wf = true := by
  grind [State.linkDown, State.settle_wf, State.refuse_wf, foldl_wf]
theorem execSahaxLinkLoss_wf {s : State} : Moves s (execSahaxLinkLoss s) := by
  unfold execSahaxLinkLoss
  refine moves_next fun hs => ?_
  grind (splits := 25) [State.linkDown_wf]
theorem execSahaxNak_wf (seq : BitVec 12) {s : State} : Moves s (execSahaxNak seq s) := by
  unfold execSahaxNak
  refine moves_next fun hs => ?_
  grind (splits := 25) [Option.map_eq_some_iff]
theorem State.deliverPeer_wf {s : State} (b : PeerRequest) (hs : s.mem.wf = true) : (State.deliverPeer s b).mem.wf = true := by
  grind [State.deliverPeer, State.request_wf]
theorem execSahaxFlit_wf (seq : BitVec 12) (ack : BitVec 12) (bad : Bool) (body : PeerRequest) {s : State} : Moves s (execSahaxFlit seq ack
    bad body s) := by
  unfold execSahaxFlit
  refine moves_next fun hs => ?_
  grind (splits := 25) [State.deliverPeer_wf]
theorem State.feataccSet_wf {s : State} (v : Nat) (hs : s.mem.wf = true) : (State.feataccSet s v).mem.wf = true := by
  grind [State.feataccSet]
theorem pfWrite_wf {s : State} (off : Nat) (v : Nat) (hs : s.mem.wf = true) : (pfWrite s off v).mem.wf = true := by
  grind [pfWrite, State.feataccSet_wf]
theorem bar0Set_wf {s : State} (fn : Nat) (off : Nat) (n : Nat) (v : Nat) (hs : s.mem.wf = true) : (bar0Set s fn off n v).mem.wf = true :=
    by
  grind [bar0Set, pfWrite_wf, regSetBytes_wf]
theorem bar0Write_wf {s : State} (fn : Nat) (off : Nat) (n : Nat) (v : Nat) (hs : s.mem.wf = true) : (bar0Write s fn off n v).mem.wf = true
    := by
  grind [bar0Write, bar0Set_wf, foldl_wf]
theorem bar2Access_wf (vf : Nat) (off : Nat) (size : Nat) (write : Option Nat) {s : State} : Moves s (bar2Access vf off size write s) := by
  have hr : s.mem.wf = true → (bar2Read s vf off size).Wf := fun hs => bar2Read_wf vf off size hs
  unfold bar2Access
  extract_lets pa
  split
  · exact moves_next fun hs => hs
  split
  · exact moves_next fun hs => hs
  split
  · exact moves_next fun hs => hs
  split
  · exact moves_next fun hs => foldl_wf _ (fun s p hs => State.request_wf _ hs) _ _ hs
  · generalize bar2Read s vf off size = b at hr ⊢
    match b with
    | .ok s _ => exact moves_next hr
    | .wait s => exact moves_next hr
    | .trap s _ => exact moves_next hr
theorem execHostBar2Access_wf (bar : HostBar) (off : Nat) (size : Nat) (write : Option Nat) {s : State} : Moves s (execHostBar2Access bar
    off size write s) := by
  unfold execHostBar2Access
  split
  · exact bar2Access_wf _ _ _ _
  · refine moves_next fun hs => ?_
    grind [bar0Write_wf]
theorem State.activate_wf {s : State} (n : Nat) (hs : s.mem.wf = true) : (State.activate s n).mem.wf = true := by
  grind [State.activate, State.onPad_wf, State.onCore_wf, foldl_wf]
theorem execPaddockActivation_wf (config : List Nat) {s : State} : Moves s (execPaddockActivation config s) := by
  unfold execPaddockActivation
  refine moves_next fun hs => ?_
  grind (splits := 25) [State.activate_wf, foldl_wf]
theorem State.renumber_wf {s : State} (hs : s.mem.wf = true) : (State.renumber s).mem.wf = true := by
  show s.mem.renumber.wf = true
  unfold Memory.renumber
  generalize s.mem = m
  suffices ∀ n : Memory, n.wf = true → Memory.wf (m.foldl (fun (n : Memory) c => n.write (c.1 ^^^ 2 ^ 47) c.2) n) = true from
    this [] rfl
  induction m with
  | nil => exact fun n hn => hn
  | cons c m ih => exact fun n hn => ih _ (Memory.write_wf hn _ _)
theorem execSahaxTrainTimeout_wf {s : State} : Moves s (execSahaxTrainTimeout s) := by
  unfold execSahaxTrainTimeout
  refine moves_next fun hs => ?_
  grind (splits := 25) [State.renumber_wf]
theorem execSahaxTraining_wf (peerId : Word) {s : State} : Moves s (execSahaxTraining peerId s) := by
  unfold execSahaxTraining
  refine moves_next fun hs => ?_
  grind (splits := 25) [State.renumber_wf, State.sendWindows_wf]
theorem execFeataccWrite_wf (value : Word) {s : State} : Moves s (execFeataccWrite value s) := by
  unfold execFeataccWrite
  refine moves_next fun hs => ?_
  grind (splits := 25) [State.feataccSet_wf]
theorem execConfigurationRequest_wf {s : State} : Moves s (execConfigurationRequest s) := by
  unfold execConfigurationRequest
  refine moves_next fun hs => ?_
  grind (splits := 25)
theorem execSelfTestComplete_wf (failed : List Nat) {s : State} : Moves s (execSelfTestComplete failed s) := by
  unfold execSelfTestComplete
  refine moves_next fun hs => ?_
  grind (splits := 25) [State.onCore_wf, foldl_wf]
theorem execImageVerified_wf (slotA : Bool) (slotB : Bool) {s : State} : Moves s (execImageVerified slotA slotB s) := by
  unfold execImageVerified
  refine moves_next fun hs => ?_
  grind (splits := 25) [Option.map_eq_some_iff]
theorem execPerstDeassert_wf {s : State} : Moves s (execPerstDeassert s) := by
  unfold execPerstDeassert
  refine moves_next fun hs => ?_
  grind (splits := 25)
theorem execCardReset_wf {s : State} : Moves s (execCardReset s) := by
  refine moves_next fun hs => ?_
  show (hostMemory s).wf = true
  unfold hostMemory
  have := Memory.filterMap_wf hs (s.link.card * 2 ^ 47) (fun a => a / 2 ^ 45 == 4 * s.link.card + 2) fun a ha => by
    have := eq_of_beq ha
    omega
  exact this
theorem State.onQuarter_wf {s : State} (q : Fin 4) (f : Quarter → Quarter) (hs : s.mem.wf = true) : (State.onQuarter s q f).mem.wf = true :=
    by
  grind [State.onQuarter]
theorem execAgeingReplan_wf (quarter : Fin 4) (raise : BitVec 16) (limitHit : Bool) {s : State} : Moves s (execAgeingReplan quarter raise
    limitHit s) := by
  unfold execAgeingReplan
  refine moves_next fun hs => ?_
  grind (splits := 25) [State.tock_wf, State.onQuarter_wf]
theorem State.resetDie_wf {s : State} (die : Nat) (hs : s.mem.wf = true) : (State.resetDie s die).mem.wf = true := by
  exact Memory.filter_wf hs _
theorem execThermalShutdown_wf {s : State} : Moves s (execThermalShutdown s) := by
  unfold execThermalShutdown
  refine moves_next fun hs => ?_
  grind (splits := 25) [State.resetDie_wf]
theorem execThermalThrottle_wf (quarter : Fin 4) {s : State} : Moves s (execThermalThrottle quarter s) := by
  unfold execThermalThrottle
  refine moves_next fun hs => ?_
  grind (splits := 25) [State.onQuarter_wf]
theorem execPwrctlCap_wf (value : Word) {s : State} : Moves s (execPwrctlCap value s) := by
  unfold execPwrctlCap
  refine moves_next fun hs => ?_
  grind (splits := 25)
theorem execPowerControl_wf (quarter : Fin 4) (overCap : Bool) {s : State} : Moves s (execPowerControl quarter overCap s) := by
  unfold execPowerControl
  refine moves_next fun hs => ?_
  grind (splits := 25) [State.onQuarter_wf]
theorem execDieReadmit_wf (die : Fin 2) (failed : List Nat) {s : State} : Moves s (execDieReadmit die failed s) := by
  unfold execDieReadmit
  refine moves_next fun hs => ?_
  grind (splits := 25) [State.onCore_wf, foldl_wf]
theorem deliverCrossing_wf {s : State} (hs : s.mem.wf = true) : ∀ u, deliverCrossing s = some u → u.mem.wf = true := by
  grind [deliverCrossing, serveAt_wf, State.serveLockAt_wf, State.serveNi_wf, findSome_wf]
theorem deliverAll_wf (n1 : Nat) {s : State} (hs : s.mem.wf = true) : (deliverAll n1 s).mem.wf = true := by
  induction n1 generalizing s with
  | zero => exact hs
  | succ n ih =>
    unfold deliverAll
    grind [deliverCrossing_wf]
theorem State.warmReset_wf {s : State} (die : Nat) (hs : s.mem.wf = true) : (State.warmReset s die).mem.wf = true := by
  grind [State.warmReset, State.killLaunch_wf, deliverAll_wf, State.settle_wf, State.linkDown_wf, State.logErrorAll_wf, State.resetDie_wf,
    State.writeBackAll_wf, foldl_wf]
theorem execDieWarmReset_wf (die : Fin 2) {s : State} : Moves s (execDieWarmReset die s) := by
  unfold execDieWarmReset
  refine moves_next fun hs => ?_
  grind (splits := 25) [State.warmReset_wf]
theorem State.setUcie_wf {s : State} (m : Nat) (u : UcieState) (hs : s.mem.wf = true) : (State.setUcie s m u).mem.wf = true := by
  grind [State.setUcie, State.logError_wf, State.logErrorAll_wf]
theorem execUcieRetrainDone_wf (module : Nat) (ok : Bool) {s : State} : Moves s (execUcieRetrainDone module ok s) := by
  unfold execUcieRetrainDone
  refine moves_next fun hs => ?_
  grind (splits := 25) [State.setUcie_wf]
theorem execUcieLaneLoss_wf (module : Nat) {s : State} : Moves s (execUcieLaneLoss module s) := by
  unfold execUcieLaneLoss
  refine moves_next fun hs => ?_
  grind (splits := 25) [State.setUcie_wf]
theorem State.setLink_wf {s : State} (l : MeshLink) (hs : s.mem.wf = true) : (State.setLink s l).mem.wf = true := by
  grind [State.setLink]
theorem State.onLink_wf {s : State} (cell : Nat) (port : Nat) (f : MeshLink → MeshLink) (hs : s.mem.wf = true) : (State.onLink s cell port
    f).mem.wf = true := by
  grind [State.onLink, State.setLink_wf, foldl_wf]
theorem execDetourComputed_wf (cell : Nat) (port : Nat) {s : State} : Moves s (execDetourComputed cell port s) := by
  unfold execDetourComputed
  refine moves_next fun hs => ?_
  grind (splits := 25) [State.onLink_wf]
theorem State.failLink_wf {s : State} (cell : Nat) (port : Nat) (hs : s.mem.wf = true) : (State.failLink s cell port).mem.wf = true := by
  grind [State.failLink, State.logAt_wf, State.onLink_wf]
theorem execMeshLinkFailure_wf (cell : Nat) (port : Nat) {s : State} : Moves s (execMeshLinkFailure cell port s) := by
  unfold execMeshLinkFailure
  refine moves_next fun hs => ?_
  grind (splits := 25) [State.failLink_wf]
theorem execBeatReplay_wf (cell : Nat) (port : Nat) {s : State} : Moves s (execBeatReplay cell port s) := by
  unfold execBeatReplay
  refine moves_next fun hs => ?_
  grind (splits := 25) [State.failLink_wf, State.setLink_wf]
theorem State.onTurnOf_wf {s : State} (k : Nat) (f : State → Option State) (hf : ∀ s u, s.mem.wf = true → f s = some u → u.mem.wf = true)
    (hs : s.mem.wf = true) : ∀ u, State.onTurnOf s k f = some u → u.mem.wf = true := by
  grind (splits := 25) [State.onTurnOf, State.switchTo_wf, Option.map_eq_some_iff]
theorem State.takeDue_wf {s : State} (k : Nat) (is : Async → Bool) (hs : s.mem.wf = true) : ∀ u, State.takeDue s k is = some u → u.mem.wf =
    true := by
  grind [State.takeDue, State.onTurnOf_wf, State.takeAsync_wf]
theorem execMachineCheckFenceOff_wf (core : Nat) {s : State} : Moves s (execMachineCheckFenceOff core s) := by
  grind [execMachineCheckFenceOff, served_wf, State.takeDue_wf]
theorem execAckTimeout_wf (line : Nat) (sharer : Nat) {s : State} : Moves s (execAckTimeout line sharer s) := by
  unfold execAckTimeout
  split
  · exact served_wf _ fun hs => State.ackTimeout_wf _ _ hs
  · exact moves_next fun hs => hs
theorem State.coreLost_wf {s : State} (k : Nat) (answers : Bool) (hs : s.mem.wf = true) : (State.coreLost s k answers).mem.wf = true := by
  grind [State.coreLost, State.logCore_wf, State.onCore_wf, State.loseCore_wf]
theorem execCoreLossNiTimeout_wf (core : Nat) {s : State} : Moves s (execCoreLossNiTimeout core s) := by
  unfold execCoreLossNiTimeout
  refine moves_next fun hs => ?_
  grind (splits := 25) [State.coreLost_wf]
theorem execCoreLoss_wf (core : Nat) {s : State} : Moves s (execCoreLoss core s) := by
  unfold execCoreLoss
  refine moves_next fun hs => ?_
  grind (splits := 25) [State.coreLost_wf]
theorem State.refetchLine_wf {s : State} (k : Nat) (line : Nat) (hs : s.mem.wf = true) : (State.refetchLine s k line).mem.wf = true := by
  grind [State.refetchLine, State.onCore_wf, State.post_wf]
theorem State.replayBundle_wf {s : State} (k : Nat) (struct : Nat) (hs : s.mem.wf = true) : (State.replayBundle s k struct).mem.wf = true :=
    by
  grind [State.replayBundle, State.switchTo_wf, State.squash_wf, State.onCore_wf, State.coreLost_wf]
theorem State.refetchCode_wf {s : State} (k : Nat) (line : Nat) (hs : s.mem.wf = true) : (State.refetchCode s k line).mem.wf = true := by
  grind [State.refetchCode, State.onCore_wf]
theorem State.poisonReg_wf {s : State} (k : Nat) (cls : Nat) (index : Nat) (row : Nat) (hs : s.mem.wf = true) : (State.poisonReg s k cls
    index row).mem.wf = true := by
  grind [State.poisonReg, State.logAt_wf, State.onCore_wf]
theorem State.countCorrected_wf {s : State} (k : Nat) (hs : s.mem.wf = true) : (State.countCorrected s k).mem.wf = true := by
  grind [State.countCorrected, State.onCore_wf]
theorem State.poisonWord_wf {s : State} (cell : Nat) (word : Nat) (hs : s.mem.wf = true) : (State.poisonWord s cell word).mem.wf = true :=
    by
  grind [State.poisonWord, State.logAt_wf]
theorem State.scrubAt_wf {s : State} (loc : ErrorPlace) (double : Bool) (hs : s.mem.wf = true) : (State.scrubAt s loc double).mem.wf = true
    := by
  unfold State.scrubAt
  grind (splits := 25) [State.poisonWord_wf, State.countCorrected_wf, State.poisonReg_wf, State.refetchCode_wf, State.coreLost_wf,
    State.replayBundle_wf, State.refetchLine_wf, State.onCore_wf, State.onPad_wf]
theorem execScrub_wf (loc : ErrorPlace) (double : Bool) {s : State} : Moves s (execScrub loc double s) := by
  unfold execScrub
  refine moves_next fun hs => ?_
  grind (splits := 25) [State.scrubAt_wf]
theorem execRegisterWrite_wf (by_ : Party) (pa : Nat) (value : Word) {s : State} : Moves s (execRegisterWrite by_ pa value s) := by
  unfold execRegisterWrite
  refine moves_next fun hs => ?_
  grind (splits := 25) [pfWrite_wf, padWrite_wf, regWrite_wf]
theorem execTraceOverflow_wf (core : Nat) {s : State} : Moves s (execTraceOverflow core s) := by
  unfold execTraceOverflow
  refine moves_next fun hs => ?_
  grind (splits := 25) [State.tock_wf, State.onCore_wf]
theorem execTraceSinkWrite_wf (core : Nat) (faulted : Bool) {s : State} : Moves s (execTraceSinkWrite core faulted s) := by
  grind [execTraceSinkWrite, served_wf, State.sinkWrite_wf]
theorem execDebugStep_wf (core : Nat) {s : State} : Moves s (execDebugStep core s) := by
  unfold execDebugStep
  refine moves_next fun hs => ?_
  grind (splits := 25) [State.debugContinue_wf]
theorem execDebugResume_wf (core : Nat) {s : State} : Moves s (execDebugResume core s) := by
  unfold execDebugResume
  refine moves_next fun hs => ?_
  grind (splits := 25) [State.debugContinue_wf]
theorem execDebugHalt_wf (core : Nat) {s : State} : Moves s (execDebugHalt core s) := by
  grind [execDebugHalt, served_wf, State.onTurnOf_wf, boundary_wf]
theorem execHaltreq_wf (core : Nat) {s : State} : Moves s (execHaltreq core s) := by
  unfold execHaltreq
  refine moves_next fun hs => ?_
  grind (splits := 25) [State.onCore_wf]
theorem execReplayDiverge_wf (pset : Nat) (seg : Nat) {s : State} : Moves s (execReplayDiverge pset seg s) := by
  unfold execReplayDiverge
  refine moves_next fun hs => ?_
  grind (splits := 25) [State.settle_wf, State.onPad_wf]
theorem execRrctlWrite_wf (pset : Nat) (value : Word) {s : State} : Moves s (execRrctlWrite pset value s) := by
  unfold execRrctlWrite
  refine moves_next fun hs => ?_
  grind (splits := 25) [State.rrSet_wf]
theorem execLinkWindowTable_wf (table : List LinkWindow) {s : State} : Moves s (execLinkWindowTable table s) := by
  unfold execLinkWindowTable
  refine moves_next fun hs => ?_
  grind (splits := 25)
theorem execLinkWindowWrite_wf (entry : Nat) (word : Nat) (value : Word) {s : State} : Moves s (execLinkWindowWrite entry word value s) :=
    by
  unfold execLinkWindowWrite
  refine moves_next fun hs => ?_
  grind (splits := 25) [State.windowSet_wf]
theorem execLoftctlWrite_wf (core : Nat) (value : Word) {s : State} : Moves s (execLoftctlWrite core value s) := by
  unfold execLoftctlWrite
  refine moves_next fun hs => ?_
  grind (splits := 25) [State.loftctlSet_wf]
theorem onSet_wf {s : State} (n : Nat) (f : State → State) (hf : ∀ s : State, s.mem.wf = true → (f s).mem.wf = true) : Moves s (onSet s n f)
    := by
  unfold onSet
  refine moves_next fun hs => ?_
  grind (splits := 25)
theorem execPrictlWrite_wf (pset : Nat) (value : Word) {s : State} : Moves s (execPrictlWrite pset value s) := by
  grind [execPrictlWrite, onSet_wf, State.priSet_wf]
theorem execKill_wf (pset : Nat) (value : Word) {s : State} : Moves s (execKill pset value s) := by
  grind [execKill, onSet_wf, State.killWrite_wf]
theorem execPaddockResume_wf (pset : Nat) {s : State} : Moves s (execPaddockResume pset s) := by
  grind [execPaddockResume, onSet_wf, State.resumeSet_wf]
theorem execFlushComplete_wf (pset : Nat) {s : State} : Moves s (execFlushComplete pset s) := by
  unfold execFlushComplete
  split
  · exact served_wf _ fun hs => State.flushDone_wf _ hs
  · exact moves_next fun hs => hs
theorem execFlush_wf (pset : Nat) {s : State} : Moves s (execFlush pset s) := by
  grind [execFlush, onSet_wf, State.flushSet_wf]
theorem State.quiesceFail_wf {s : State} (n : Nat) (hs : s.mem.wf = true) : (State.quiesceFail s n).mem.wf = true := by
  grind [State.quiesceFail, State.onPad_wf]
theorem execQuiesceLimit_wf (pset : Nat) {s : State} : Moves s (execQuiesceLimit pset s) := by
  grind [execQuiesceLimit, onSet_wf, State.quiesceFail_wf]
theorem execQuiesceComplete_wf (pset : Nat) {s : State} : Moves s (execQuiesceComplete pset s) := by
  grind [execQuiesceComplete, onSet_wf, State.quiesceDone_wf]
theorem execQuiesce_wf (pset : Nat) {s : State} : Moves s (execQuiesce pset s) := by
  grind [execQuiesce, onSet_wf, State.quiesceSet_wf]
theorem serveLockIf_wf {s : State} (i : Nat) (is : LockPkt → Bool) : Moves s (serveLockIf s i is) := by
  grind (splits := 25) [serveLockIf, served_wf, State.settleLocks_wf, State.settle_wf, State.serveLockAt_wf, Option.map_eq_some_iff]
theorem execProbe_wf (i : Nat) {s : State} : Moves s (execProbe i s) := by
  grind [execProbe, serveLockIf_wf]
theorem execProbeTimer_wf (core : Nat) (line : Nat) {s : State} : Moves s (execProbeTimer core line s) := by
  grind [execProbeTimer, served_wf, State.settleLocks_wf, State.postLock_wf]
theorem execLockResume_wf (i : Nat) {s : State} : Moves s (execLockResume i s) := by
  grind [execLockResume, serveLockIf_wf]
theorem execLockSaved_wf (i : Nat) {s : State} : Moves s (execLockSaved i s) := by
  grind [execLockSaved, serveLockIf_wf]
theorem State.overdue_wf {s : State} (line : Nat) (core : Nat) (hs : s.mem.wf = true) : (State.overdue s line core).mem.wf = true := by
  grind [State.overdue, State.tock_wf, State.sendNi_wf, State.tell_wf]
theorem State.lockTimeout_wf {s : State} (k : Nat) (line : Nat) (hs : s.mem.wf = true) : ∀ u, State.lockTimeout s k line = some u → u.mem.wf
    = true := by
  grind [State.lockTimeout, State.withdrawLock_wf, State.overdue_wf]
theorem execLockWaitTimeout_wf (core : Nat) (line : Nat) {s : State} : Moves s (execLockWaitTimeout core line s) := by
  grind [execLockWaitTimeout, served_wf, State.lockTimeout_wf]
theorem execWithdrawRetry_wf (i : Nat) {s : State} : Moves s (execWithdrawRetry i s) := by
  grind [execWithdrawRetry, served_wf, State.retryWithdraw_wf]
theorem execLockPass_wf (i : Nat) {s : State} : Moves s (execLockPass i s) := by
  grind [execLockPass, serveLockIf_wf]
theorem execWithdraw_wf (i : Nat) {s : State} : Moves s (execWithdraw i s) := by
  grind [execWithdraw, serveLockIf_wf]
theorem execLockFreed_wf (i : Nat) {s : State} : Moves s (execLockFreed i s) := by
  grind [execLockFreed, serveLockIf_wf]
theorem execLockFree_wf (i : Nat) {s : State} : Moves s (execLockFree i s) := by
  grind [execLockFree, serveLockIf_wf]
theorem execLockMoved_wf (i : Nat) {s : State} : Moves s (execLockMoved i s) := by
  grind [execLockMoved, serveLockIf_wf]
theorem execHandoff_wf (i : Nat) {s : State} : Moves s (execHandoff i s) := by
  grind [execHandoff, serveLockIf_wf]
theorem execLockLink_wf (i : Nat) {s : State} : Moves s (execLockLink i s) := by
  grind [execLockLink, serveLockIf_wf]
theorem execLockRequest_wf (i : Nat) {s : State} : Moves s (execLockRequest i s) := by
  grind [execLockRequest, serveLockIf_wf]
theorem serveCtlIf_wf {s : State} (i : Nat) (is : CtlReq → Bool) : Moves s (serveCtlIf s i is) := by
  grind [serveCtlIf, served_wf, State.serveCtl_wf]
theorem execLnchRequest_wf (i : Nat) {s : State} : Moves s (execLnchRequest i s) := by
  grind [execLnchRequest, serveCtlIf_wf]
theorem execLaunchEnd_wf (launch : Nat) {s : State} : Moves s (execLaunchEnd launch s) := by
  unfold execLaunchEnd
  refine moves_next fun hs => ?_
  grind (splits := 25) [State.launchEnds_wf]
theorem execSweep_wf (launch : Nat) {s : State} : Moves s (execSweep launch s) := by
  unfold execSweep
  refine moves_next fun hs => ?_
  grind (splits := 25) [State.sweepLaunch_wf]
theorem serveNiIf_wf {s : State} (i : Nat) (is : NiPkt → Bool) : Moves s (serveNiIf s i is) := by
  grind (splits := 25) [serveNiIf, served_wf, State.settle_wf, State.settleNi_wf, State.serveNi_wf, Option.map_eq_some_iff]
theorem execLateRingAppend_wf (i : Nat) {s : State} : Moves s (execLateRingAppend i s) := by
  grind [execLateRingAppend, serveNiIf_wf]
theorem execStreamResume_wf (launch : Nat) {s : State} : Moves s (execStreamResume launch s) := by
  unfold execStreamResume
  refine moves_next fun hs => ?_
  grind (splits := 25) [State.resumeLaunch_wf]
theorem execLaunchStart_wf (launch : Nat) {s : State} : Moves s (execLaunchStart launch s) := by
  unfold execLaunchStart
  refine moves_next fun hs => ?_
  grind (splits := 25) [State.startLaunch_wf]
theorem execPreemptionSave_wf (core : Nat) {s : State} : Moves s (execPreemptionSave core s) := by
  unfold execPreemptionSave
  refine moves_next fun hs => ?_
  grind (splits := 25) [State.saveStream_wf]
theorem execDispatch_wf (pset : Nat) {s : State} : Moves s (execDispatch pset s) := by
  grind [execDispatch, onSet_wf, State.dispatchOne_wf]
theorem execQportWrite_wf (pset : Nat) (queue : Nat) (off : Nat) (value : Word) {s : State} : Moves s (execQportWrite pset queue off value
    s) := by
  unfold execQportWrite
  refine moves_next fun hs => ?_
  grind (splits := 25) [State.qportWord_wf]
theorem execEpisodeContribution_wf (i : Nat) {s : State} : Moves s (execEpisodeContribution i s) := by
  grind [execEpisodeContribution, serveNiIf_wf]
theorem execTaskCompletionReport_wf (i : Nat) {s : State} : Moves s (execTaskCompletionReport i s) := by
  grind [execTaskCompletionReport, serveNiIf_wf]
theorem execStealReply_wf (i : Nat) {s : State} : Moves s (execStealReply i s) := by
  grind [execStealReply, serveNiIf_wf]
theorem execStealRequest_wf (i : Nat) {s : State} : Moves s (execStealRequest i s) := by
  grind [execStealRequest, serveNiIf_wf]
theorem execTaskArrival_wf (i : Nat) {s : State} : Moves s (execTaskArrival i s) := by
  grind [execTaskArrival, serveNiIf_wf]
theorem execMailboxOverflow_wf (core : Nat) {s : State} : Moves s (execMailboxOverflow core s) := by
  grind [execMailboxOverflow, served_wf, State.takeDue_wf]
theorem execSendRetry_wf (i : Nat) {s : State} : Moves s (execSendRetry i s) := by
  grind [execSendRetry, serveNiIf_wf]
theorem execLoftMove_wf (core : Nat) (task : Bool) {s : State} : Moves s (execLoftMove core task s) := by
  grind [execLoftMove, served_wf, loftMoveOne_wf]
theorem execMessageArrival_wf (i : Nat) {s : State} : Moves s (execMessageArrival i s) := by
  grind [execMessageArrival, serveNiIf_wf]
theorem dropNet_left_wf {s : State} (i : Nat) (f : InFlight) (hs : s.mem.wf = true) : ∀ d, dropNet s i f = some d → d.left.mem.wf = true := by
  intro d h
  unfold dropNet at h
  extract_lets rest reply at h
  have hr : rest.mem.wf = true := hs
  clear_value rest
  have hp : ∀ line t, t.mem.wf = true → ∀ e, reply line t = some e → e.left.mem.wf = true := by
    intro line t ht e he
    obtain ⟨n, -, rfl⟩ := Option.map_eq_some_iff.mp he
    exact ht
  clear_value reply
  grind [State.refuse_wf, State.post_wf]
theorem dropNi_left_wf {s : State} (i : Nat) (f : NiFlight) (hs : s.mem.wf = true) : ∀ d, dropNi s i f = some d → d.left.mem.wf = true := by
  intro d h
  unfold dropNi at h
  extract_lets rest posted at h
  have hr : rest.mem.wf = true := hs
  clear_value rest
  have hp : ∀ c pa, (posted c pa).mem.wf = true := by
    intro c pa
    cases c with
    | none => exact hr
    | some k => exact State.onCore_wf _ _ (State.uncount_wf _ hr)
  clear_value posted
  grind [State.postNi_wf]
theorem dropLock_left_wf {s : State} (i : Nat) (f : LockFlight) (hs : s.mem.wf = true) : ∀ d, dropLock s i f = some d → d.left.mem.wf = true := by
  intro d h
  unfold dropLock at h
  split at h
  · cases h; exact hs
  · cases h
theorem State.dropAtBoundary_wf {s : State} (i : Nat) (cell : Nat) (port : Nat) (hs : s.mem.wf = true) : ∀ u, State.dropAtBoundary s i cell
    port = some u → u.mem.wf = true := by
  intro u h
  unfold State.dropAtBoundary at h
  extract_lets k n found at h
  have hf : ∀ d, found = some d → d.left.mem.wf = true := by
    intro d hd
    simp only [found] at hd
    grind [dropNet_left_wf, dropNi_left_wf, dropLock_left_wf, Option.bind_eq_some_iff]
  clear_value found
  grind [State.onPad_wf]
theorem execBoundaryDrop_wf (i : Nat) (cell : Nat) (port : Nat) {s : State} : Moves s (execBoundaryDrop i cell port s) := by
  grind (splits := 25) [execBoundaryDrop, served_wf, State.settle_wf, State.dropAtBoundary_wf, Option.map_eq_some_iff]
theorem execXlatiRemoval_wf (i : Nat) {s : State} : Moves s (execXlatiRemoval i s) := by
  grind [execXlatiRemoval, serveCtlIf_wf]
theorem removeEverywhere_wf {s : State} (n : Nat) (sel : XSel) (hs : s.mem.wf = true) : ∀ u, removeEverywhere s n sel = some u → u.mem.wf =
    true := by
  grind [removeEverywhere, serveRemoval_wf, removeAtCore_wf, foldl_wf]
theorem pasidAsids_wf (n : Nat) (pasid : Nat) (xs1 : List Nat) {s : State} (hs : s.mem.wf = true) : (pasidAsids n pasid xs1 s).Wf := by
  induction xs1 generalizing s with
  | nil => exact hs
  | cons a as ih => exact Ans.bind_wf (asidEntry_wf _ _ _ hs) fun s e hs => Ans.bind_wf (ih hs) fun s r hs => hs
theorem State.atsInvalidate_wf {s : State} (vf : Nat) (pasid : Nat) (base : Nat) (len : Nat) (hs : s.mem.wf = true) : ∀ u,
    State.atsInvalidate s vf pasid base len = some u → u.mem.wf = true := by
  intro u h
  unfold State.atsInvalidate at h
  extract_lets n at h
  split at h
  · cases h
  have hp := pasidAsids_wf n pasid (namedAsids s n) hs
  generalize pasidAsids n pasid (namedAsids s n) s = p at h hp
  match p, h with
  | .ok s asids, h =>
    obtain ⟨v, hv, rfl⟩ := Option.map_eq_some_iff.mp h
    refine foldlSome_wf _ (fun o a ho w hw => ?_) asids (some s) (by rintro _ ⟨⟩; exact hp) v hv
    obtain ⟨x, hx, hw⟩ := Option.bind_eq_some_iff.mp hw
    exact removeEverywhere_wf _ _ (ho x hx) w hw
  | .wait t, h => grind [Ans.Wf]
  | .trap _ _, h => cases h
theorem execAtsInvalidation_wf (vf : Nat) (pasid : Nat) (base : Nat) (len : Nat) {s : State} : Moves s (execAtsInvalidation vf pasid base
    len s) := by
  grind [execAtsInvalidation, served_wf, State.atsInvalidate_wf]
theorem State.denyWait_wf {s : State} (n1 : AtsWait) (hs : s.mem.wf = true) : (State.denyWait s n1).mem.wf = true := by
  grind [State.denyWait, State.xlatFault_wf]
theorem State.denyWaits_wf {s : State} (waits : List AtsWait) (hs : s.mem.wf = true) : (State.denyWaits s waits).mem.wf = true := by
  grind [State.denyWaits, State.denyWait_wf, foldl_wf]
theorem State.sendPageRequest_wf {s : State} (n : Nat) (old : List AtsWait) (hs : s.mem.wf = true) : (State.sendPageRequest s n old).mem.wf
    = true := by
  grind [State.sendPageRequest, Ans.Wf]
theorem State.priAnswer_wf {s : State} (n : Nat) (index : Nat) (pasid : Nat) (code : PriCode) (hs : s.mem.wf = true) : (State.priAnswer s n
    index pasid code).mem.wf = true := by
  grind [State.priAnswer, State.onPad_wf, State.sendPageRequest_wf, State.denyWaits_wf]
theorem execPriResponse_wf (pset : Nat) (index : Nat) (pasid : Nat) (code : PriCode) {s : State} : Moves s (execPriResponse pset index pasid
    code s) := by
  unfold execPriResponse
  refine moves_next fun hs => ?_
  grind (splits := 25) [State.priAnswer_wf, Ans.Wf]
theorem State.atsAnswer_wf {s : State} (k : Nat) (ans : AtsAnswer) (hs : s.mem.wf = true) : (State.atsAnswer s k ans).mem.wf = true := by
  grind [State.atsAnswer, State.denyWait_wf, State.onPad_wf, State.onCore_wf, Ans.Wf]
theorem execAtsCompletion_wf (k : Nat) (ans : AtsAnswer) {s : State} : Moves s (execAtsCompletion k ans s) := by
  unfold execAtsCompletion
  refine moves_next fun hs => ?_
  grind (splits := 25) [State.atsAnswer_wf, Ans.Wf]
theorem serveXreqIf_wf {s : State} (i : Nat) (walking : Bool) : Moves s (serveXreqIf s i walking) := by
  grind [serveXreqIf, served_wf, State.serveXreq_wf]
theorem execWalkComplete_wf (i : Nat) {s : State} : Moves s (execWalkComplete i s) := by
  grind [execWalkComplete, serveXreqIf_wf]
theorem execStcRequest_wf (i : Nat) {s : State} : Moves s (execStcRequest i s) := by
  grind [execStcRequest, serveXreqIf_wf]
theorem execRetentionRequest_wf (i : Nat) {s : State} : Moves s (execRetentionRequest i s) := by
  grind [execRetentionRequest, serveCtlIf_wf]
theorem execAredCompletion_wf (k : Nat) {s : State} : Moves s (execAredCompletion k s) := by
  grind [execAredCompletion, served_wf, State.aredDone_wf]
theorem State.onAred_wf {s : State} (id : Nat) (f : Ared → Ared) (hs : s.mem.wf = true) : (State.onAred s id f).mem.wf = true := by
  grind [State.onAred]
theorem State.aredChunk_wf {s : State} (id : Nat) (chunk : Nat) (incoming : BitVec 1024) (hs : s.mem.wf = true) : ∀ u, State.aredChunk s id
    chunk incoming = some u → u.mem.wf = true := by
  intro u h
  unfold State.aredChunk at h
  repeat' split at h
  all_goals grind (splits := 25) [State.onAred_wf, State.readyAtHome_wf, State.request_wf, State.placeBy_wf, Ans.Wf]
theorem execAredChunk_wf (k : Nat) (chunk : Nat) (incoming : BitVec 1024) {s : State} : Moves s (execAredChunk k chunk incoming s) := by
  grind [execAredChunk, served_wf, State.aredChunk_wf]
theorem State.aredMatch_wf {s : State} (id : Nat) (peerBuf : List (Nat × Nat)) (peerBf16 : Bool) (hs : s.mem.wf = true) : ∀ u,
    State.aredMatch s id peerBuf peerBf16 = some u → u.mem.wf = true := by
  grind [State.aredMatch, State.onAred_wf]
theorem execAredMatch_wf (k : Nat) (peerBuf : List (Nat × Nat)) (peerBf16 : Bool) {s : State} : Moves s (execAredMatch k peerBuf peerBf16 s)
    := by
  grind [execAredMatch, served_wf, State.aredMatch_wf]
theorem execCopyCompletion_wf (job : Nat) {s : State} : Moves s (execCopyCompletion job s) := by
  grind [execCopyCompletion, served_wf, State.copyDone_wf]
theorem execCopyEngineWrite_wf (job : Nat) (line : Nat) (memErr : Bool) {s : State} : Moves s (execCopyEngineWrite job line memErr s) := by
  grind [execCopyEngineWrite, served_wf, State.copyWrite_wf]
theorem execCopyMark_wf (job : Nat) {s : State} : Moves s (execCopyMark job s) := by
  grind [execCopyMark, served_wf, State.copyMark_wf]
theorem State.onFlight_wf {s : State} (i : Nat) (f : InFlight → InFlight) (hs : s.mem.wf = true) : (State.onFlight s i f).mem.wf = true :=
    by
  grind [State.onFlight]
theorem execSharedPointPromotion_wf (i : Nat) {s : State} : Moves s (execSharedPointPromotion i s) := by
  unfold execSharedPointPromotion
  refine moves_next fun hs => ?_
  grind (splits := 25) [State.onFlight_wf]
theorem execEscapeChannelMove_wf (i : Nat) {s : State} : Moves s (execEscapeChannelMove i s) := by
  unfold execEscapeChannelMove
  refine moves_next fun hs => ?_
  grind (splits := 25) [State.onFlight_wf]
theorem execRequestPromotion_wf (i : Nat) {s : State} : Moves s (execRequestPromotion i s) := by
  unfold execRequestPromotion
  refine moves_next fun hs => ?_
  grind (splits := 25) [State.onFlight_wf]
theorem State.engineTimeout_wf {s : State} (i : Nat) (hs : s.mem.wf = true) : ∀ u, State.engineTimeout s i = some u → u.mem.wf = true := by
  grind (splits := 25) [State.engineTimeout, State.overdue_wf, Option.map_eq_some_iff]
theorem State.accessTimeout_wf {s : State} (i : Nat) (hs : s.mem.wf = true) : ∀ u, State.accessTimeout s i = some u → u.mem.wf = true := by
  grind [State.accessTimeout, State.engineTimeout_wf, State.overdue_wf, State.refuse_wf]
theorem execAccessLockTimeout_wf (i : Nat) {s : State} : Moves s (execAccessLockTimeout i s) := by
  unfold execAccessLockTimeout
  refine moves_next fun hs => ?_
  grind (splits := 25) [served_wf, State.settle_wf, State.accessTimeout_wf, Option.map_eq_some_iff]
theorem execCarryFrameShift_wf (core : Nat) {s : State} : Moves s (execCarryFrameShift core s) := by
  unfold execCarryFrameShift
  refine moves_next fun hs => ?_
  grind (splits := 25) [State.onCore_wf, Option.map_eq_some_iff]
theorem execULineAgeExpiry_wf (core : Nat) (line : Nat) {s : State} : Moves s (execULineAgeExpiry core line s) := by
  unfold execULineAgeExpiry
  refine moves_next fun hs => ?_
  grind (splits := 25) [State.onCore_wf]
theorem execMachineCheckPosted_wf (core : Nat) {s : State} : Moves s (execMachineCheckPosted core s) := by
  grind [execMachineCheckPosted, served_wf, State.takeDue_wf]
theorem execPostedRefusal_wf (i : Nat) {s : State} : Moves s (execPostedRefusal i s) := by
  grind [execPostedRefusal, servePktIf_wf]
theorem execPeerAccess_wf (i : Nat) {s : State} : Moves s (execPeerAccess i s) := by
  grind [execPeerAccess, servePktIf_wf]
theorem execHostCompletion_wf (i : Nat) (r : HostReply) {s : State} : Moves s (execHostCompletion i r s) := by
  unfold execHostCompletion
  split
  · split
    · refine served_wf _ fun hs u hu => ?_
      obtain ⟨t, ht, rfl⟩ := Option.map_eq_some_iff.mp hu
      exact State.settle_wf (serveAt_wf _ (s := { s with hostReplies := r :: s.hostReplies }) hs t ht)
    · exact moves_next fun hs => hs
  · exact moves_next fun hs => hs
theorem execHostAgentRequest_wf (i : Nat) {s : State} : Moves s (execHostAgentRequest i s) := by
  grind [execHostAgentRequest, servePktIf_wf]
theorem execScratchpadPortAccess_wf (i : Nat) {s : State} : Moves s (execScratchpadPortAccess i s) := by
  grind [execScratchpadPortAccess, servePktIf_wf]
theorem execAmoReply_wf (i : Nat) {s : State} : Moves s (execAmoReply i s) := by
  grind [execAmoReply, servePktIf_wf]
theorem execAmoAtHome_wf (i : Nat) {s : State} : Moves s (execAmoAtHome i s) := by
  grind [execAmoAtHome, servePktIf_wf]
theorem execWayRequest_wf (i : Nat) {s : State} : Moves s (execWayRequest i s) := by
  grind [execWayRequest, servePktIf_wf]
theorem execGatheredCopy_wf (i : Nat) {s : State} : Moves s (execGatheredCopy i s) := by
  grind [execGatheredCopy, servePktIf_wf]
theorem execGRecall_wf (i : Nat) {s : State} : Moves s (execGRecall i s) := by
  grind [execGRecall, servePktIf_wf]
theorem execGatherRequest_wf (i : Nat) {s : State} : Moves s (execGatherRequest i s) := by
  grind [execGatherRequest, servePktIf_wf]
theorem execRecall_wf (i : Nat) {s : State} : Moves s (execRecall i s) := by
  grind [execRecall, servePktIf_wf]
theorem execEvictionNotice_wf (i : Nat) {s : State} : Moves s (execEvictionNotice i s) := by
  grind [execEvictionNotice, servePktIf_wf]
theorem execStoreDone_wf (i : Nat) {s : State} : Moves s (execStoreDone i s) := by
  grind [execStoreDone, servePktIf_wf]
theorem execRoundCommit_wf (i : Nat) {s : State} : Moves s (execRoundCommit i s) := by
  grind [execRoundCommit, servePktIf_wf]
theorem execUpdateAck_wf (i : Nat) {s : State} : Moves s (execUpdateAck i s) := by
  grind [execUpdateAck, servePktIf_wf]
theorem execSharerUpdate_wf (i : Nat) {s : State} : Moves s (execSharerUpdate i s) := by
  grind [execSharerUpdate, servePktIf_wf]
theorem execStoreRound_wf (i : Nat) {s : State} : Moves s (execStoreRound i s) := by
  grind [execStoreRound, servePktIf_wf]
theorem execFillArrival_wf (i : Nat) {s : State} : Moves s (execFillArrival i s) := by
  grind [execFillArrival, servePktIf_wf]
theorem execHbmFill_wf (line : Nat) {s : State} : Moves s (execHbmFill line s) := by
  unfold execHbmFill
  refine moves_next fun hs => ?_
  grind (splits := 25) [State.fillLine_wf]
theorem execHomeRead_wf (i : Nat) {s : State} : Moves s (execHomeRead i s) := by
  grind [execHomeRead, servePktIf_wf]
theorem execMarkTableClear_wf (core : Nat) {s : State} : Moves s (execMarkTableClear core s) := by
  unfold execMarkTableClear
  refine moves_next fun hs => ?_
  grind (splits := 25) [State.onCore_wf]
theorem State.retire_wf {s : State} (hs : s.mem.wf = true) : (State.retire s).mem.wf = true := by
  grind [State.retire]
theorem execXnop_wf {s : State} : Moves s (execXnop s) := by
  unfold execXnop
  refine moves_next fun hs => ?_
  grind (splits := 25) [State.retire_wf]
theorem State.setH_wf {s : State} (r : AReg) (h : Bank) (hs : s.mem.wf = true) : (State.setH s r h).mem.wf = true := by
  grind [State.setH, State.onMe_wf]
theorem execHstclr_wf (h : AReg) {s : State} : Moves s (execHstclr h s) := by
  unfold execHstclr
  refine moves_next fun hs => ?_
  grind (splits := 25) [State.retire_wf, State.setH_wf]
theorem State.setT_wf {s : State} (td : TReg) (t : Tile) (hs : s.mem.wf = true) : (State.setT s td t).mem.wf = true := by
  grind [State.setT, State.onMe_wf]
theorem execHstrd_wf (t : TReg) (h : AReg) {s : State} : Moves s (execHstrd t h s) := by
  unfold execHstrd
  refine moves_next fun hs => ?_
  grind (splits := 25) [State.retire_wf, State.setT_wf]
theorem State.addFlags_wf {s : State} (f : Flags) (hs : s.mem.wf = true) : (State.addFlags s f).mem.wf = true := by
  grind [State.addFlags]
theorem State.retireTo_wf {s : State} (target : Word) (hs : s.mem.wf = true) : (State.retireTo s target).mem.wf = true := by
  grind [State.retireTo]
/-- An instruction's answer taken to the state it leaves. -/
theorem finish_moves {s : State} {x : Ans Unit} (h : s.mem.wf = true → x.Wf) : Moves s (finish x) := by
  match x with
  | .ok t _ => exact moves_next fun hs => State.retire_wf (h hs)
  | .wait t => exact moves_next fun hs => State.hold_wf (h hs)
  | .trap t k => exact moves_next fun hs => State.takeTrap_wf _ _ _ (h hs)
theorem finishJump_moves {s : State} {x : Ans Word} (h : s.mem.wf = true → x.Wf) : Moves s (finishJump x) := by
  match x with
  | .ok t v => exact moves_next fun hs => State.retireTo_wf _ (h hs)
  | .wait t => exact moves_next fun hs => State.hold_wf (h hs)
  | .trap t k => exact moves_next fun hs => State.takeTrap_wf _ _ _ (h hs)
theorem execDrain_wf (n1 : AReg) (t : TReg) (gs : GReg) (q : Fin 4) (h : AReg) (he : Bool) (sat : Bool) (rnd : Rnd) {s : State} : Moves s
    (execDrain n1 t gs q h he sat rnd s) := by
  grind (splits := 25) [execDrain, State.onMe_wf, State.addFlags_wf, State.setT_wf, State.retire_wf, State.setH_wf, Ans.Wf, finish_moves,
    moves_next]
theorem State.setA_wf {s : State} (r : AReg) (n1 : Acc) (hs : s.mem.wf = true) : (State.setA s r n1).mem.wf = true := by
  grind [State.setA, State.onMe_wf]
theorem execAccz_wf (n1 : AReg) (mode : AccMode) {s : State} : Moves s (execAccz n1 mode s) := by
  unfold execAccz
  refine moves_next fun hs => ?_
  grind (splits := 25) [State.retire_wf, State.setA_wf]
theorem matrixWith_wf (zero : Bool) (n1 : AReg) (t : TReg) (w : TReg) (q : Fin 4) {s : State} : Moves s (matrixWith zero n1 t w q s) := by
  grind (splits := 25) [matrixWith, State.retire_wf, State.onMe_wf, State.addFlags_wf, State.setA_wf, Ans.Wf, finish_moves, moves_next]
theorem execMmaz_wf (n1 : AReg) (t : TReg) (w : TReg) (q : Fin 4) {s : State} : Moves s (execMmaz n1 t w q s) := by
  grind [execMmaz, matrixWith_wf]
theorem execMma_wf (n1 : AReg) (t : TReg) (w : TReg) (q : Fin 4) {s : State} : Moves s (execMma n1 t w q s) := by
  grind [execMma, matrixWith_wf]
theorem tileResult_wf (td : TReg) (r : Except TileFault (Tile × Flags × GenState)) {s : State} : Moves s (tileResult td r s) := by
  unfold tileResult
  grind (splits := 25) [State.retire_wf, State.onMe_wf, State.addFlags_wf, State.setT_wf, Ans.Wf, finish_moves, moves_next]
theorem execTrnd_wf (td : TReg) (ta : TReg) (gb : GReg) (mode : TrndMode) (sat : Bool) (rnd : Rnd) {s : State} : Moves s (execTrnd td ta gb
    mode sat rnd s) := by
  grind [execTrnd, tileResult_wf]
theorem execTiota_wf (td : TReg) (ta : TReg) (gb : GReg) (sat : Bool) (rnd : Rnd) {s : State} : Moves s (execTiota td ta gb sat rnd s) := by
  grind [execTiota, tileResult_wf]
theorem tileInto_wf (td : TReg) (r : Except TileFault Tile) {s : State} : Moves s (tileInto td r s) := by
  unfold tileInto
  grind (splits := 25) [State.retire_wf, State.setT_wf, Ans.Wf, finish_moves, moves_next]
theorem execTtr_wf (td : TReg) (ta : TReg) {s : State} : Moves s (execTtr td ta s) := by
  grind [execTtr, tileInto_wf]
theorem execTbc_wf (td : TReg) (ta : TReg) (gb : GReg) (mode : TbcMode) {s : State} : Moves s (execTbc td ta gb mode s) := by
  grind [execTbc, tileInto_wf]
theorem execTred_wf (td : TReg) (ta : TReg) (op : RedOp) (col : Bool) (sat : Bool) (rnd : Rnd) {s : State} : Moves s (execTred td ta op col
    sat rnd s) := by
  grind [execTred, tileResult_wf]
theorem execTqnt_wf (td : TReg) (ta : TReg) (blk : Fin 8) (ty : Q4Type) (_sat : Bool) (rnd : Rnd) {s : State} : Moves s (execTqnt td ta blk
    ty _sat rnd s) := by
  grind [execTqnt, tileResult_wf]
theorem execTcvt_wf (td : TReg) (ta : TReg) (part : Fin 4) (fmt : Fmt) (sat : Bool) (rnd : Rnd) {s : State} : Moves s (execTcvt td ta part
    fmt sat rnd s) := by
  grind [execTcvt, tileResult_wf]
theorem execTsqrt_wf (td : TReg) (ta : TReg) (sat : Bool) (rnd : Rnd) {s : State} : Moves s (execTsqrt td ta sat rnd s) := by
  grind [execTsqrt, tileResult_wf]
theorem execTrsq_wf (td : TReg) (ta : TReg) (sat : Bool) (rnd : Rnd) {s : State} : Moves s (execTrsq td ta sat rnd s) := by
  grind [execTrsq, tileResult_wf]
theorem execTrcp_wf (td : TReg) (ta : TReg) (sat : Bool) (rnd : Rnd) {s : State} : Moves s (execTrcp td ta sat rnd s) := by
  grind [execTrcp, tileResult_wf]
theorem execTlog2_wf (td : TReg) (ta : TReg) (sat : Bool) (rnd : Rnd) {s : State} : Moves s (execTlog2 td ta sat rnd s) := by
  grind [execTlog2, tileResult_wf]
theorem execTexp2_wf (td : TReg) (ta : TReg) (sat : Bool) (rnd : Rnd) {s : State} : Moves s (execTexp2 td ta sat rnd s) := by
  grind [execTexp2, tileResult_wf]
theorem execTneg_wf (td : TReg) (ta : TReg) (sat : Bool) {s : State} : Moves s (execTneg td ta sat s) := by
  grind [execTneg, tileResult_wf]
theorem execTabs_wf (td : TReg) (ta : TReg) (sat : Bool) {s : State} : Moves s (execTabs td ta sat s) := by
  grind [execTabs, tileResult_wf]
theorem execTclamp_wf (td : TReg) (ta : TReg) (gb : GReg) (sat : Bool) (rnd : Rnd) {s : State} : Moves s (execTclamp td ta gb sat rnd s) :=
    by
  grind [execTclamp, tileResult_wf]
theorem execTscl_wf (td : TReg) (ta : TReg) (gb : GReg) (sat : Bool) (rnd : Rnd) {s : State} : Moves s (execTscl td ta gb sat rnd s) := by
  grind [execTscl, tileResult_wf]
theorem execTcmp_wf (td : TReg) (ta : TReg) (tb : TReg) (cond : Cond) {s : State} : Moves s (execTcmp td ta tb cond s) := by
  grind [execTcmp, tileInto_wf]
theorem execTsel_wf (td : TReg) (ta : TReg) (tb : TReg) (tc : TReg) {s : State} : Moves s (execTsel td ta tb tc s) := by
  grind [execTsel, tileInto_wf]
theorem execTxor_wf (td : TReg) (ta : TReg) (tb : TReg) {s : State} : Moves s (execTxor td ta tb s) := by
  grind [execTxor, tileInto_wf]
theorem execTor_wf (td : TReg) (ta : TReg) (tb : TReg) {s : State} : Moves s (execTor td ta tb s) := by
  grind [execTor, tileInto_wf]
theorem execTand_wf (td : TReg) (ta : TReg) (tb : TReg) {s : State} : Moves s (execTand td ta tb s) := by
  grind [execTand, tileInto_wf]
theorem execTmin_wf (td : TReg) (ta : TReg) (tb : TReg) {s : State} : Moves s (execTmin td ta tb s) := by
  grind [execTmin, tileInto_wf]
theorem execTmax_wf (td : TReg) (ta : TReg) (tb : TReg) {s : State} : Moves s (execTmax td ta tb s) := by
  grind [execTmax, tileInto_wf]
theorem execTfma_wf (td : TReg) (ta : TReg) (tb : TReg) (tc : TReg) (sat : Bool) (rnd : Rnd) {s : State} : Moves s (execTfma td ta tb tc sat
    rnd s) := by
  grind [execTfma, tileResult_wf]
theorem execTmul_wf (td : TReg) (ta : TReg) (tb : TReg) (sat : Bool) (rnd : Rnd) {s : State} : Moves s (execTmul td ta tb sat rnd s) := by
  grind [execTmul, tileResult_wf]
theorem execTsub_wf (td : TReg) (ta : TReg) (tb : TReg) (sat : Bool) (rnd : Rnd) {s : State} : Moves s (execTsub td ta tb sat rnd s) := by
  grind [execTsub, tileResult_wf]
theorem execTadd_wf (td : TReg) (ta : TReg) (tb : TReg) (sat : Bool) (rnd : Rnd) {s : State} : Moves s (execTadd td ta tb sat rnd s) := by
  grind [execTadd, tileResult_wf]
theorem State.setG_wf {s : State} (r : GReg) (v : Word) (hs : s.mem.wf = true) : (State.setG s r v).mem.wf = true := by
  grind [State.setG]
theorem writeDelivered_wf {s : State} (gd : GReg) (r : Nat × Flags) (hs : s.mem.wf = true) : (writeDelivered s gd r).mem.wf = true := by
  grind [writeDelivered, State.addFlags_wf, State.setG_wf]
theorem fpWith_wf (gd : GReg) (rnd : Rnd) (x : Ex × Flags) {s : State} : Moves s (fpWith gd rnd x s) := by
  unfold fpWith
  refine moves_next fun hs => ?_
  grind (splits := 25) [State.retire_wf, writeDelivered_wf, State.onMe_wf]
theorem execFfma_wf (gd : GReg) (ga : GReg) (gb : GReg) (gc : GReg) (rnd : Rnd) {s : State} : Moves s (execFfma gd ga gb gc rnd s) := by
  grind [execFfma, fpWith_wf]
theorem retireWith_wf {s : State} (gd : GReg) (v : Word) : Moves s (retireWith s gd v) := by
  unfold retireWith
  refine moves_next fun hs => ?_
  grind (splits := 25) [State.retire_wf, State.setG_wf]
theorem execFcmp_wf (gd : GReg) (ga : GReg) (gb : GReg) (cond : Cond) {s : State} : Moves s (execFcmp gd ga gb cond s) := by
  grind [execFcmp, retireWith_wf]
theorem execFcvtfi_wf (gd : GReg) (ga : GReg) (rnd : Rnd) {s : State} : Moves s (execFcvtfi gd ga rnd s) := by
  unfold execFcvtfi
  refine moves_next fun hs => ?_
  grind (splits := 25) [State.retire_wf, writeDelivered_wf, State.onMe_wf]
theorem execFcvtif_wf (gd : GReg) (ga : GReg) (rnd : Rnd) {s : State} : Moves s (execFcvtif gd ga rnd s) := by
  grind [execFcvtif, fpWith_wf]
theorem execFmax_wf (gd : GReg) (ga : GReg) (gb : GReg) {s : State} : Moves s (execFmax gd ga gb s) := by
  grind [execFmax, retireWith_wf]
theorem execFmin_wf (gd : GReg) (ga : GReg) (gb : GReg) {s : State} : Moves s (execFmin gd ga gb s) := by
  grind [execFmin, retireWith_wf]
theorem execFmul_wf (gd : GReg) (ga : GReg) (gb : GReg) (rnd : Rnd) {s : State} : Moves s (execFmul gd ga gb rnd s) := by
  grind [execFmul, fpWith_wf]
theorem execFsub_wf (gd : GReg) (ga : GReg) (gb : GReg) (rnd : Rnd) {s : State} : Moves s (execFsub gd ga gb rnd s) := by
  grind [execFsub, fpWith_wf]
theorem execFadd_wf (gd : GReg) (ga : GReg) (gb : GReg) (rnd : Rnd) {s : State} : Moves s (execFadd gd ga gb rnd s) := by
  grind [execFadd, fpWith_wf]
theorem execBfins_wf (gd : GReg) (ga : GReg) (pos : BitVec 6) (width : BitVec 7) {s : State} : Moves s (execBfins gd ga pos width s) := by
  grind [execBfins, retireWith_wf]
theorem execBfxs_wf (gd : GReg) (ga : GReg) (pos : BitVec 6) (width : BitVec 7) {s : State} : Moves s (execBfxs gd ga pos width s) := by
  grind [execBfxs, retireWith_wf]
theorem execBfxz_wf (gd : GReg) (ga : GReg) (pos : BitVec 6) (width : BitVec 7) {s : State} : Moves s (execBfxz gd ga pos width s) := by
  grind [execBfxz, retireWith_wf]
theorem execLhi_wf (gd : GReg) (imm : BitVec 20) {s : State} : Moves s (execLhi gd imm s) := by
  grind [execLhi, retireWith_wf]
theorem execSrai_wf (gd : GReg) (ga : GReg) (sh : BitVec 6) {s : State} : Moves s (execSrai gd ga sh s) := by
  grind [execSrai, retireWith_wf]
theorem execSrli_wf (gd : GReg) (ga : GReg) (sh : BitVec 6) {s : State} : Moves s (execSrli gd ga sh s) := by
  grind [execSrli, retireWith_wf]
theorem execSlli_wf (gd : GReg) (ga : GReg) (sh : BitVec 6) {s : State} : Moves s (execSlli gd ga sh s) := by
  grind [execSlli, retireWith_wf]
theorem execXori_wf (gd : GReg) (ga : GReg) (imm : BitVec 12) {s : State} : Moves s (execXori gd ga imm s) := by
  grind [execXori, retireWith_wf]
theorem execOri_wf (gd : GReg) (ga : GReg) (imm : BitVec 12) {s : State} : Moves s (execOri gd ga imm s) := by
  grind [execOri, retireWith_wf]
theorem execAndi_wf (gd : GReg) (ga : GReg) (imm : BitVec 12) {s : State} : Moves s (execAndi gd ga imm s) := by
  grind [execAndi, retireWith_wf]
theorem execSlti_wf (gd : GReg) (ga : GReg) (imm : BitVec 12) {s : State} : Moves s (execSlti gd ga imm s) := by
  grind [execSlti, retireWith_wf]
theorem execAddi_wf (gd : GReg) (ga : GReg) (imm : BitVec 12) {s : State} : Moves s (execAddi gd ga imm s) := by
  grind [execAddi, retireWith_wf]
theorem execSel_wf (gd : GReg) (ga : GReg) (gb : GReg) (gc : GReg) {s : State} : Moves s (execSel gd ga gb gc s) := by
  grind [execSel, retireWith_wf]
theorem execPopc_wf (gd : GReg) (ga : GReg) {s : State} : Moves s (execPopc gd ga s) := by
  grind [execPopc, retireWith_wf]
theorem execCtz_wf (gd : GReg) (ga : GReg) {s : State} : Moves s (execCtz gd ga s) := by
  grind [execCtz, retireWith_wf]
theorem execClz_wf (gd : GReg) (ga : GReg) {s : State} : Moves s (execClz gd ga s) := by
  grind [execClz, retireWith_wf]
theorem aluWith_wf (f : Word → Word → Word) (gd : GReg) (ga : GReg) (gb : GReg) {s : State} : Moves s (aluWith f gd ga gb s) := by
  grind [aluWith, retireWith_wf]
theorem execMaxu_wf (gd : GReg) (ga : GReg) (gb : GReg) {s : State} : Moves s (execMaxu gd ga gb s) := by
  grind [execMaxu, aluWith_wf]
theorem execMinu_wf (gd : GReg) (ga : GReg) (gb : GReg) {s : State} : Moves s (execMinu gd ga gb s) := by
  grind [execMinu, aluWith_wf]
theorem execMax_wf (gd : GReg) (ga : GReg) (gb : GReg) {s : State} : Moves s (execMax gd ga gb s) := by
  grind [execMax, aluWith_wf]
theorem execMin_wf (gd : GReg) (ga : GReg) (gb : GReg) {s : State} : Moves s (execMin gd ga gb s) := by
  grind [execMin, aluWith_wf]
theorem execSltu_wf (gd : GReg) (ga : GReg) (gb : GReg) {s : State} : Moves s (execSltu gd ga gb s) := by
  grind [execSltu, aluWith_wf]
theorem execSlt_wf (gd : GReg) (ga : GReg) (gb : GReg) {s : State} : Moves s (execSlt gd ga gb s) := by
  grind [execSlt, aluWith_wf]
theorem execSra_wf (gd : GReg) (ga : GReg) (gb : GReg) {s : State} : Moves s (execSra gd ga gb s) := by
  grind [execSra, aluWith_wf]
theorem execSrl_wf (gd : GReg) (ga : GReg) (gb : GReg) {s : State} : Moves s (execSrl gd ga gb s) := by
  grind [execSrl, aluWith_wf]
theorem execSll_wf (gd : GReg) (ga : GReg) (gb : GReg) {s : State} : Moves s (execSll gd ga gb s) := by
  grind [execSll, aluWith_wf]
theorem execXor_wf (gd : GReg) (ga : GReg) (gb : GReg) {s : State} : Moves s (execXor gd ga gb s) := by
  grind [execXor, aluWith_wf]
theorem execOr_wf (gd : GReg) (ga : GReg) (gb : GReg) {s : State} : Moves s (execOr gd ga gb s) := by
  grind [execOr, aluWith_wf]
theorem execAnd_wf (gd : GReg) (ga : GReg) (gb : GReg) {s : State} : Moves s (execAnd gd ga gb s) := by
  grind [execAnd, aluWith_wf]
theorem execRemu_wf (gd : GReg) (ga : GReg) (gb : GReg) {s : State} : Moves s (execRemu gd ga gb s) := by
  grind [execRemu, aluWith_wf]
theorem execRem_wf (gd : GReg) (ga : GReg) (gb : GReg) {s : State} : Moves s (execRem gd ga gb s) := by
  grind [execRem, aluWith_wf]
theorem execDivu_wf (gd : GReg) (ga : GReg) (gb : GReg) {s : State} : Moves s (execDivu gd ga gb s) := by
  grind [execDivu, aluWith_wf]
theorem execDiv_wf (gd : GReg) (ga : GReg) (gb : GReg) {s : State} : Moves s (execDiv gd ga gb s) := by
  grind [execDiv, aluWith_wf]
theorem execMulhu_wf (gd : GReg) (ga : GReg) (gb : GReg) {s : State} : Moves s (execMulhu gd ga gb s) := by
  grind [execMulhu, aluWith_wf]
theorem execMulh_wf (gd : GReg) (ga : GReg) (gb : GReg) {s : State} : Moves s (execMulh gd ga gb s) := by
  grind [execMulh, aluWith_wf]
theorem execMul_wf (gd : GReg) (ga : GReg) (gb : GReg) {s : State} : Moves s (execMul gd ga gb s) := by
  grind [execMul, aluWith_wf]
theorem execSub_wf (gd : GReg) (ga : GReg) (gb : GReg) {s : State} : Moves s (execSub gd ga gb s) := by
  grind [execSub, aluWith_wf]
theorem execAdd_wf (gd : GReg) (ga : GReg) (gb : GReg) {s : State} : Moves s (execAdd gd ga gb s) := by
  grind [execAdd, aluWith_wf]
theorem execPerfrd_wf (gd : GReg) (n : BitVec 10) {s : State} : Moves s (execPerfrd gd n s) := by
  unfold execPerfrd
  split
  · exact finish_moves fun hs => hs
  · exact Moves.mono (fun hs => State.tock_wf (State.onMe_wf _ hs)) (retireWith_wf _ _)
theorem execTrcmark_wf (ga : GReg) (code : BitVec 10) {s : State} : Moves s (execTrcmark ga code s) := by
  unfold execTrcmark
  refine moves_next fun hs => ?_
  grind (splits := 25) [State.retire_wf, State.emit_wf, State.emitRetire_wf]
theorem execBrk_wf (code : BitVec 10) {s : State} : Moves s (execBrk code s) := by
  grind (splits := 25) [execBrk, State.debugHalt_wf, Ans.Wf, finish_moves, moves_next]
theorem execNopC_wf {s : State} : Moves s (execNopC s) := by
  unfold execNopC
  refine moves_next fun hs => ?_
  grind (splits := 25) [State.retire_wf]
theorem State.haltCore_wf {s : State} (hs : s.mem.wf = true) : (State.haltCore s).mem.wf = true := by
  grind [State.haltCore, State.onMe_wf, foldl_wf]
theorem State.endStream_wf {s : State} (hs : s.mem.wf = true) : (State.endStream s).mem.wf = true := by
  grind [State.endStream, State.settleNi_wf, retryEpisodes_wf, State.onLaunch_wf]
theorem State.releaseLock_wf {s : State} (k : Nat) (line : Nat) (brand : BitVec 960) (hs : s.mem.wf = true) : (State.releaseLock s k line
    brand).mem.wf = true := by
  grind [State.releaseLock, State.settleLocks_wf, handOn_wf, State.onCore_wf, State.postLock_wf]
theorem State.haltLocks_wf {s : State} (hs : s.mem.wf = true) : (State.haltLocks s).mem.wf = true := by
  grind [State.haltLocks, State.releaseLock_wf, State.onMe_wf, State.withdrawLock_wf, foldl_wf]
theorem State.writeRestart_wf {s : State} (off : Nat) (n : Nat) (v : Nat) (hs : s.mem.wf = true) : (State.writeRestart s off n v).mem.wf =
    true := by
  grind [State.writeRestart, State.request_wf, State.onMe_wf, foldl_wf]
theorem State.closeRestart_wf {s : State} (t : Task) (hs : s.mem.wf = true) : (State.closeRestart s t).mem.wf = true := by
  grind [State.closeRestart, State.writeRestart_wf]
theorem State.closeLive_wf {s : State} (hs : s.mem.wf = true) : (State.closeLive s).mem.wf = true := by
  grind [State.closeLive, State.closeRestart_wf]
theorem awaitRelease_wf {s : State} (hs : s.mem.wf = true) : (awaitRelease s).Wf := by
  grind [awaitRelease, State.settle_wf, Ans.Wf]
theorem execHalt_wf {s : State} : Moves s (execHalt s) := by
  grind (splits := 25) [execHalt, awaitRelease_wf, State.closeLive_wf, State.haltLocks_wf, State.endStream_wf, State.haltCore_wf,
    State.retire_wf, State.settleLocks_wf, Ans.Wf, Option.bind_eq_some_iff, Ans.bind_wf, finish_moves, moves_next]
theorem State.coverFills_wf {s : State} (hit : Nat → Bool) (hs : s.mem.wf = true) : (State.coverFills s hit).mem.wf = true := by
  grind [State.coverFills, State.coverFillsOf_wf]
theorem loadLine_wf {s : State} (pa : Nat) (acq : Bool) (ef : Bool) (sync : Bool) (bulk : optParam Bool false) (hs : s.mem.wf = true) :
    (loadLine s pa acq ef sync bulk).Wf := by
  grind [loadLine, State.settle_wf, State.request_wf, State.onMe_wf, Ans.Wf]
theorem loadPiece_wf {s : State} (p : Piece) (acq : Bool) (ef : Bool) (sync : Bool) (hs : s.mem.wf = true) : (loadPiece s p acq ef sync).Wf
    := by
  grind (splits := 25) [loadPiece, loadLine_wf, Ans.Wf, Option.bind_eq_some_iff, Ans.bind_wf]
theorem loadPieces_wf (acq : Bool) (ef : Bool) (sync : Bool) (xs1 : List Piece) (n2 : Nat) (xs3 : List Nat) {s : State} (hs : s.mem.wf =
    true) : (loadPieces acq ef sync xs1 n2 xs3 s).Wf := by
  induction xs1 generalizing n2 xs3 s with
  | nil => exact hs
  | cons p ps ih => exact Ans.bind_wf (loadPiece_wf _ _ _ _ hs) fun s r hs => ih _ _ hs
theorem State.startLofting_wf {s : State} (hs : s.mem.wf = true) : (State.startLofting s).mem.wf = true := by
  grind [State.startLofting, State.onMe_wf]
theorem awaitOlder_wf {s : State} (hs : s.mem.wf = true) : (awaitOlder s).Wf := by
  grind (splits := 25) [awaitOlder, awaitRelease_wf, State.settleLocks_wf, Ans.Wf, Option.bind_eq_some_iff, Ans.bind_wf]
theorem State.translate_wf {s : State} (va : Word) (kind : Nat) (row : Nat) (hs : s.mem.wf = true) : (State.translate s va kind row).Wf :=
    by
  unfold State.translate
  split
  · grind [Ans.Wf]
  split
  · exact hs
  split
  · grind [Ans.Wf]
  extract_lets user second
  have h2 : ∀ (s : State) x, s.mem.wf = true → (second s x).Wf := by
    intro s x hs
    grind [Ans.Wf]
  clear_value second
  refine Ans.bind_wf (State.pageOf_wf _ _ _ hs) fun s x hs => ?_
  split
  · exact hs
  split
  · exact h2 _ _ hs
  refine Ans.bind_wf (State.pageOf_wf _ _ _ hs) fun s y hs => ?_
  split
  · exact hs
  · exact h2 _ _ hs
theorem locateFrom_wf (kind : Nat) (row : Nat) (pos : Nat) (xs1 : List (Nat × Nat × Nat)) (xs2 : List Piece) {s : State} (hs : s.mem.wf =
    true) : (locateFrom kind row pos xs1 xs2 s).Wf := by
  induction xs1 generalizing xs2 s with
  | nil => exact hs
  | cons p ps ih => exact Ans.bind_wf (State.translate_wf _ _ _ hs) fun s r hs => ih _ hs
theorem locate_wf {s : State} (va : Word) (n : Nat) (kind : Nat) (row : Nat) (pos : Nat) (hs : s.mem.wf = true) : (locate s va n kind row
    pos).Wf := by
  grind [locate, locateFrom_wf, Ans.Wf]
theorem checkAlign_wf {s : State} (va : Word) (n : Nat) (row : Nat) (hs : s.mem.wf = true) : (checkAlign s va n row).Wf := by
  grind [checkAlign, Ans.Wf]
theorem checkWatch_wf {s : State} (lo : Word) (n : Nat) (write : Bool) (hs : s.mem.wf = true) : (checkWatch s lo n write).Wf := by
  grind [checkWatch, State.debugHalt_wf, Ans.Wf]
theorem needSupervisor_wf {s : State} (k : State → Result) (hk : ∀ s, Moves s (k s)) : Moves s (needSupervisor s k) := by
  grind (splits := 25) [needSupervisor, Ans.Wf, finish_moves]
theorem execCtxld_wf (ga : GReg) {s : State} : Moves s (execCtxld ga s) := by
  unfold execCtxld
  refine needSupervisor_wf _ fun s => finish_moves fun hs => ?_
  refine Ans.bind_wf (checkWatch_wf _ _ _ hs) fun s _ hs => Ans.bind_wf (checkAlign_wf _ _ _ hs) fun s _ hs =>
    Ans.bind_wf (locate_wf _ _ _ _ _ hs) fun s ps hs => Ans.bind_wf (awaitOlder_wf (State.startLofting_wf hs)) fun s _ hs =>
    Ans.bind_wf (loadPieces_wf _ _ _ _ _ _ hs) fun s r hs => ?_
  split
  · exact hs
  · exact State.niSettle_wf _ (State.coverFills_wf _ (State.onMe_wf _ (foldl_wf _ (fun s l hs => State.freshen_wf _ _ hs) _ _ hs)))
theorem State.ownWrite_wf {s : State} (line : Nat) (hs : s.mem.wf = true) : (State.ownWrite s line).mem.wf = true := by
  grind [State.ownWrite, State.coverFills_wf, State.onMe_wf]
theorem State.sendWrite_wf {s : State} (p : Piece) (req : Req) (hs : s.mem.wf = true) : (State.sendWrite s p req).mem.wf = true := by
  grind [State.sendWrite, State.request_wf, State.onMe_wf, State.ownWrite_wf]
theorem storePiece_wf (brands : Bool) (ef : Bool) (sync : Bool) {s : State} (p : Piece) (v : Nat) (hs : s.mem.wf = true) : (storePiece
    brands ef sync s p v).mem.wf = true := by
  grind [storePiece, controlStore_wf, State.place_wf, State.sendWrite_wf, State.onMe_wf]
theorem storePieces_wf (brands : Bool) (ef : Bool) (sync : Bool) {s : State} (ps : List Piece) (v : Nat) (hs : s.mem.wf = true) :
    (storePieces brands ef sync s ps v).mem.wf = true := by
  grind [storePieces, storePiece_wf, foldl_wf]
theorem storeImage_wf {s : State} (ps : List Piece) (hs : s.mem.wf = true) : (storeImage s ps).mem.wf = true := by
  grind [storeImage, storePieces_wf, State.poisonNext_wf]
theorem execCtxsv_wf (ga : GReg) {s : State} : Moves s (execCtxsv ga s) := by
  grind (splits := 25) [execCtxsv, needSupervisor_wf, checkWatch_wf, checkAlign_wf, locate_wf, awaitOlder_wf, State.startLofting_wf,
    State.onMe_wf, storeImage_wf, Ans.Wf, Option.bind_eq_some_iff, Ans.bind_wf, finish_moves]
theorem execXlatp_wf (gd : GReg) (ga : GReg) (user : Bool) (acc : Access) {s : State} : Moves s (execXlatp gd ga user acc s) := by
  grind (splits := 25) [execXlatp, needSupervisor_wf, probeAddr_wf, State.setG_wf, Ans.Wf, Option.bind_eq_some_iff, Ans.bind_wf,
    finish_moves]
theorem State.sendRemovals_wf {s : State} (sets : List Nat) (sel : XSel) (hs : s.mem.wf = true) : (State.sendRemovals s sets sel).mem.wf =
    true := by
  grind [State.sendRemovals]
theorem settleCtlLoop_wf (n1 : Nat) {s : State} (hs : s.mem.wf = true) : (settleCtlLoop n1 s).mem.wf = true := by
  induction n1 generalizing s with
  | zero => exact hs
  | succ n ih =>
    unfold settleCtlLoop
    grind [serveCtlFirst_wf]
theorem State.settleCtl_wf {s : State} (hs : s.mem.wf = true) : (State.settleCtl s).mem.wf = true := by
  grind [State.settleCtl, settleCtlLoop_wf]
theorem xlatiWith_wf (p : Fin 8) (sel : XSel) {s : State} : Moves s (xlatiWith p sel s) := by
  grind (splits := 25) [xlatiWith, needSupervisor_wf, State.settle_wf, State.settleCtl_wf, State.sendRemovals_wf, Ans.Wf, finish_moves]
theorem execXlatiAll_wf (p : Fin 8) {s : State} : Moves s (execXlatiAll p s) := by
  grind [execXlatiAll, xlatiWith_wf]
theorem execXlatiAsid_wf (ga : GReg) (p : Fin 8) {s : State} : Moves s (execXlatiAsid ga p s) := by
  grind [execXlatiAsid, xlatiWith_wf]
theorem execXlatiRange_wf (ga : GReg) (gb : GReg) (p : Fin 8) {s : State} : Moves s (execXlatiRange ga gb p s) := by
  grind [execXlatiRange, xlatiWith_wf]
theorem execTret_wf {s : State} : Moves s (execTret s) := by
  grind (splits := 25) [execTret, needSupervisor_wf, State.retireTo_wf, State.emitAddr_wf, State.onMe_wf, moves_next, Ans.Wf]
theorem execTrap_wf (code : BitVec 10) {s : State} : Moves s (execTrap code s) := by
  unfold execTrap
  refine moves_next fun hs => ?_
  grind (splits := 25) [State.onMe_wf, State.takeTrap_wf, State.retire_wf]
theorem execSyswr_wf (ga : GReg) (n : BitVec 10) {s : State} : Moves s (execSyswr ga n s) := by
  grind (splits := 25) [execSyswr, State.retire_wf, State.onMe_wf, Ans.Wf, finish_moves, moves_next]
theorem execSysrd_wf (gd : GReg) (n : BitVec 10) {s : State} : Moves s (execSysrd gd n s) := by
  grind (splits := 25) [execSysrd, retireWith_wf, Ans.Wf, finish_moves]
theorem State.sendCounted_wf {s : State} (p : NiPkt) (hs : s.mem.wf = true) : (State.sendCounted s p).mem.wf = true := by
  grind [State.sendCounted, State.sendNi_wf, State.onMe_wf]
theorem roomForStore_wf {s : State} (n : Nat) (hs : s.mem.wf = true) : (roomForStore s n).Wf := by
  grind [roomForStore, State.settle_wf, Ans.Wf]
theorem checkGroup_wf {s : State} (l : Launch) (lgw : BitVec 3) (lgh : BitVec 2) (hs : s.mem.wf = true) : (checkGroup s l lgw lgh).Wf := by
  grind [checkGroup, Ans.Wf]
theorem needLaunch_wf {s : State} (k : Launch → Ans Unit) (hk : s.mem.wf = true → ∀ l, (k l).Wf) : Moves s (needLaunch s k) := by
  grind (splits := 25) [needLaunch, Ans.Wf, finish_moves]
theorem contribute_wf (op : GroupOp) (v : Word) (lgw : BitVec 3) (lgh : BitVec 2) (m : MReg) {s : State} : Moves s (contribute op v lgw lgh
    m s) := by
  grind (splits := 25) [contribute, needLaunch_wf, checkGroup_wf, roomForStore_wf, State.sendCounted_wf, State.onMe_wf, Ans.Wf,
    Option.bind_eq_some_iff, Ans.bind_wf]
theorem execMredMinF32_wf (ga : GReg) (lgw : BitVec 3) (lgh : BitVec 2) (m : MReg) {s : State} : Moves s (execMredMinF32 ga lgw lgh m s) :=
    by
  grind [execMredMinF32, contribute_wf]
theorem execMredMaxF32_wf (ga : GReg) (lgw : BitVec 3) (lgh : BitVec 2) (m : MReg) {s : State} : Moves s (execMredMaxF32 ga lgw lgh m s) :=
    by
  grind [execMredMaxF32, contribute_wf]
theorem execMredAddF32_wf (ga : GReg) (lgw : BitVec 3) (lgh : BitVec 2) (m : MReg) {s : State} : Moves s (execMredAddF32 ga lgw lgh m s) :=
    by
  grind [execMredAddF32, contribute_wf]
theorem execMredOrI64_wf (ga : GReg) (lgw : BitVec 3) (lgh : BitVec 2) (m : MReg) {s : State} : Moves s (execMredOrI64 ga lgw lgh m s) := by
  grind [execMredOrI64, contribute_wf]
theorem execMredAndI64_wf (ga : GReg) (lgw : BitVec 3) (lgh : BitVec 2) (m : MReg) {s : State} : Moves s (execMredAndI64 ga lgw lgh m s) :=
    by
  grind [execMredAndI64, contribute_wf]
theorem execMredMinI64_wf (ga : GReg) (lgw : BitVec 3) (lgh : BitVec 2) (m : MReg) {s : State} : Moves s (execMredMinI64 ga lgw lgh m s) :=
    by
  grind [execMredMinI64, contribute_wf]
theorem execMredMaxI64_wf (ga : GReg) (lgw : BitVec 3) (lgh : BitVec 2) (m : MReg) {s : State} : Moves s (execMredMaxI64 ga lgw lgh m s) :=
    by
  grind [execMredMaxI64, contribute_wf]
theorem execMredAddI64_wf (ga : GReg) (lgw : BitVec 3) (lgh : BitVec 2) (m : MReg) {s : State} : Moves s (execMredAddI64 ga lgw lgh m s) :=
    by
  grind [execMredAddI64, contribute_wf]
theorem State.leafOf_wf {s : State} (va : Word) (kind : Nat) (row : Nat) (hs : s.mem.wf = true) : (State.leafOf s va kind row).Wf := by
  grind (splits := 25) [State.leafOf, State.pageOf_wf, Ans.Wf, Option.bind_eq_some_iff, Ans.bind_wf]
theorem checkPages_wf (kind : Nat) (xs1 : List (Nat × Nat × Nat)) {s : State} (hs : s.mem.wf = true) : (checkPages kind xs1 s).Wf := by
  induction xs1 generalizing s with
  | nil => exact hs
  | cons p ps ih => exact Ans.bind_wf (State.leafOf_wf _ _ _ hs) fun s r hs => ih hs
theorem locateProg_wf {s : State} (va : Word) (n : Nat) (kind : Nat) (hs : s.mem.wf = true) : (locateProg s va n kind).Wf := by
  grind (splits := 25) [locateProg, checkPages_wf, locate_wf, Ans.Wf, Option.bind_eq_some_iff, Ans.bind_wf]
theorem lockPlace_wf {s : State} (va : Word) (watch : Bool) (hs : s.mem.wf = true) : (lockPlace s va watch).Wf := by
  grind (splits := 25) [lockPlace, checkWatch_wf, locateProg_wf, Ans.Wf, Option.bind_eq_some_iff, Ans.bind_wf]
theorem keepOr_wf {s : State} (f : State → Ans (List Piece)) (hf : ∀ s, s.mem.wf = true → (f s).Wf) (hs : s.mem.wf = true) : (keepOr s f).Wf
    := by
  grind (splits := 25) [keepOr, State.onMe_wf, Ans.Wf, Option.bind_eq_some_iff, Ans.bind_wf]
theorem execLkrel_wf (ga : GReg) {s : State} : Moves s (execLkrel ga s) := by
  grind (splits := 25) [execLkrel, keepOr_wf, lockPlace_wf, awaitRelease_wf, State.settleLocks_wf, State.releaseLock_wf, State.onMe_wf,
    Ans.Wf, Option.bind_eq_some_iff, Ans.bind_wf, finish_moves]
theorem State.requestLock_wf {s : State} (k : Nat) (line : Nat) (va : Word) (slot : Nat) (try_ : Bool) (hs : s.mem.wf = true) :
    (State.requestLock s k line va slot try_).mem.wf = true := by
  grind [State.requestLock, State.settleLocks_wf, State.postLock_wf, State.onCore_wf]
theorem awaitMarks_wf {s : State} (ps : List Piece) (hs : s.mem.wf = true) : (awaitMarks s ps).Wf := by
  grind [awaitMarks, State.settle_wf, Ans.Wf]
theorem lockRequest_wf {s : State} (va : Word) (m : MReg) (try_ : Bool) (hs : s.mem.wf = true) : (lockRequest s va m try_).Wf := by
  grind (splits := 25) [lockRequest, lockPlace_wf, State.tell_wf, awaitMarks_wf, State.requestLock_wf, Ans.Wf, Option.bind_eq_some_iff,
    Ans.bind_wf]
theorem execLktry_wf (ga : GReg) (m : MReg) {s : State} : Moves s (execLktry ga m s) := by
  grind (splits := 25) [execLktry, lockRequest_wf, finish_moves, Ans.Wf]
theorem execLkacq_wf (ga : GReg) (m : MReg) {s : State} : Moves s (execLkacq ga m s) := by
  grind (splits := 25) [execLkacq, lockRequest_wf, finish_moves, Ans.Wf]
theorem execBar_wf (lgw : BitVec 3) (lgh : BitVec 2) (m : MReg) {s : State} : Moves s (execBar lgw lgh m s) := by
  grind [execBar, contribute_wf]
theorem State.askCtl_wf {s : State} (r : CtlReq) (mark : optParam Nat ctlMark) (hs : s.mem.wf = true) : (State.askCtl s r mark).mem.wf =
    true := by
  grind [State.askCtl, State.settleCtl_wf]
theorem ctlReply_wf {s : State} (hs : s.mem.wf = true) : (ctlReply s).Wf := by
  grind [ctlReply, Ans.Wf]
theorem checkPoison_wf {s : State} (partly : Bool) (xs1 : List Piece) (hs : s.mem.wf = true) : (checkPoison s partly xs1).Wf := by
  induction xs1 with
  | nil => exact hs
  | cons p ps ih =>
    unfold checkPoison
    split
    · exact hs
    · exact ih
theorem loadAll_wf {s : State} (ps : List Piece) (acq : Bool) (ef : Bool) (sync : Bool) (hs : s.mem.wf = true) : (loadAll s ps acq ef
    sync).Wf := by
  grind (splits := 25) [loadAll, loadPieces_wf, checkPoison_wf, State.freshen_wf, Ans.Wf, foldl_wf, Option.bind_eq_some_iff, Ans.bind_wf]
theorem execLnch_wf (gd : GReg) (ga : GReg) (gb : GReg) {s : State} : Moves s (execLnch gd ga gb s) := by
  grind (splits := 25) [execLnch, checkWatch_wf, checkAlign_wf, locateProg_wf, loadAll_wf, ctlReply_wf, State.askCtl_wf, State.setG_wf,
    State.settleCtl_wf, Ans.Wf, Option.bind_eq_some_iff, Ans.bind_wf, finish_moves]
theorem State.snapRestart_wf {s : State} (t : Task) (hs : s.mem.wf = true) : (State.snapRestart s t).mem.wf = true := by
  grind [State.snapRestart, State.writeRestart_wf]
theorem execTksnap_wf (ga : GReg) (gb : GReg) {s : State} : Moves s (execTksnap ga gb s) := by
  unfold execTksnap
  refine needLaunch_wf _ fun hs l => ?_
  split
  · exact hs
  split
  · exact hs
  refine Ans.bind_wf (checkWatch_wf _ _ _ hs) fun s _ hs => Ans.bind_wf (checkAlign_wf _ _ _ hs) fun s _ hs =>
    Ans.bind_wf (locateProg_wf _ _ _ hs) fun s ps hs => Ans.bind_wf (loadAll_wf _ _ _ _ hs) fun s v hs => ?_
  split
  · exact Ans.bind_wf (roomForStore_wf _ hs) fun s _ hs => State.snapRestart_wf _ (State.onMe_wf _ hs)
  · exact hs
theorem State.emitTask_wf {s : State} (t : Task) (hs : s.mem.wf = true) : (State.emitTask s t).mem.wf = true := by
  grind [State.emitTask, State.emit_wf]
theorem execTkdone_wf {s : State} : Moves s (execTkdone s) := by
  grind (splits := 25) [execTkdone, needLaunch_wf, roomForStore_wf, State.emitTask_wf, State.closeRestart_wf, State.onMe_wf,
    State.sendCounted_wf, Ans.Wf, Option.bind_eq_some_iff, Ans.bind_wf]
theorem searchRing_wf (g : Group) (n1 : Nat) {s : State} (hs : s.mem.wf = true) : (searchRing g n1 s).mem.wf = true := by
  induction n1 generalizing s with
  | zero => exact hs
  | succ n ih =>
    unfold searchRing
    grind [State.onMe_wf, State.sendNi_wf]
theorem State.takeHead_wf {s : State} (t : Task) (hs : s.mem.wf = true) : ∀ u, State.takeHead s t = some u → u.1.mem.wf = true := by
  grind (splits := 25) [State.takeHead, State.niSettle_wf, State.onMe_wf, State.logDispatch_wf, Option.map_eq_some_iff]
theorem State.brandTest_wf {s : State} (n1 : BitVec 960) (hs : s.mem.wf = true) : (State.brandTest s n1).mem.wf = true := by
  grind [State.brandTest, State.coverFills_wf, State.onMe_wf]
theorem State.applyBranded_wf {s : State} (sc : Scope) (b : Option (BitVec 960)) (hs : s.mem.wf = true) : (State.applyBranded s sc b).mem.wf
    = true := by
  unfold State.applyBranded
  grind (splits := 25) [State.brandTest_wf]
theorem State.openRestart_wf {s : State} (t : Task) (hs : s.mem.wf = true) : (State.openRestart s t).mem.wf = true := by
  grind [State.openRestart, State.writeRestart_wf]
theorem State.takeTask_wf {s : State} (gd : GReg) (ps : List Piece) (t : Task) (hs : s.mem.wf = true) : (State.takeTask s gd ps t).mem.wf =
    true := by
  grind [State.takeTask, storePieces_wf, State.tock_wf, State.onMe_wf, State.setG_wf, State.openRestart_wf, State.applyBranded_wf]
theorem recvTask_wf {s : State} (gd : GReg) (g : Group) (ps : List Piece) (hs : s.mem.wf = true) : (recvTask s gd g ps).Wf := by
  refine Ans.bind_wf (awaitMarks_wf _ hs) fun s _ hs => Ans.bind_wf (roomForStore_wf _ hs) fun s _ hs => ?_
  have ht := fun t => @State.takeHead_wf s t hs
  grind [State.takeTask_wf, State.setG_wf, State.onMe_wf, State.settleNi_wf, searchRing_wf, Ans.Wf]
theorem execRecvt_wf (gd : GReg) (ga : GReg) (lgw : BitVec 3) (lgh : BitVec 2) {s : State} : Moves s (execRecvt gd ga lgw lgh s) := by
  grind (splits := 25) [execRecvt, needLaunch_wf, checkGroup_wf, keepOr_wf, checkWatch_wf, checkAlign_wf, locateProg_wf, recvTask_wf,
    Ans.Wf, Option.bind_eq_some_iff, Ans.bind_wf]
theorem State.sendTask_wf {s : State} (t : Nat × Nat × Nat) (x : Task) (hs : s.mem.wf = true) : (State.sendTask s t x).mem.wf = true := by
  grind [State.sendTask, State.sendCounted_wf, State.onMe_wf]
theorem taskTarget_wf {s : State} (n1 : Word) (hs : s.mem.wf = true) : (taskTarget s n1).Wf := by
  grind [taskTarget, Ans.Wf]
theorem execTkaddb_wf (gd : GReg) (ga : GReg) (gb : GReg) (sc : Scope) {s : State} : Moves s (execTkaddb gd ga gb sc s) := by
  grind (splits := 25) [execTkaddb, needLaunch_wf, taskTarget_wf, awaitRelease_wf, roomForStore_wf, State.sendTask_wf, State.onMe_wf,
    Ans.Wf, Option.bind_eq_some_iff, Ans.bind_wf]
theorem execTkadd_wf (gd : GReg) (ga : GReg) (gb : GReg) {s : State} : Moves s (execTkadd gd ga gb s) := by
  grind (splits := 25) [execTkadd, needLaunch_wf, taskTarget_wf, roomForStore_wf, State.sendTask_wf, Ans.Wf, Option.bind_eq_some_iff,
    Ans.bind_wf]
theorem locateRows_wf (kind : Nat) (unit : Nat) (len : Nat) (stride : Nat) (xs1 : List (Nat × Word)) (xs2 : List Piece) {s : State} (hs :
    s.mem.wf = true) : (locateRows kind unit len stride xs1 xs2 s).Wf := by
  induction xs1 generalizing xs2 s with
  | nil => exact hs
  | cons p ps ih =>
    exact Ans.bind_wf (checkAlign_wf _ _ _ hs) fun s r hs => Ans.bind_wf (locate_wf _ _ _ _ _ hs) fun s qs hs => ih _ hs
theorem imagePieces_wf {s : State} (va : Word) (n : Nat) (first : Nat) (write : Nat) (hs : s.mem.wf = true) : (imagePieces s va n first
    write).Wf := by
  grind (splits := 25) [imagePieces, checkAlign_wf, locateRows_wf, Ans.Wf, Option.map_eq_some_iff, Option.bind_eq_some_iff, Ans.bind_wf]
theorem execAccld_wf (n1 : AReg) (ga : GReg) (mode : AccMode) {s : State} : Moves s (execAccld n1 ga mode s) := by
  grind (splits := 25) [execAccld, checkWatch_wf, imagePieces_wf, loadAll_wf, State.setA_wf, Ans.Wf, Option.bind_eq_some_iff, Ans.bind_wf,
    finish_moves]
theorem storeAll_wf {s : State} (ps : List Piece) (v : Nat) (ef : Bool) (hs : s.mem.wf = true) : (storeAll s ps v ef).Wf := by
  grind (splits := 25) [storeAll, checkPoison_wf, awaitMarks_wf, roomForStore_wf, storePieces_wf, Ans.Wf, Option.bind_eq_some_iff,
    Ans.bind_wf]
theorem execAccsv_wf (n1 : AReg) (ga : GReg) {s : State} : Moves s (execAccsv n1 ga s) := by
  grind (splits := 25) [execAccsv, checkWatch_wf, imagePieces_wf, storeAll_wf, Ans.Wf, Option.bind_eq_some_iff, Ans.bind_wf, finish_moves]
theorem State.setW_wf {s : State} (w : TReg) (x : Slot) (hs : s.mem.wf = true) : (State.setW s w x).mem.wf = true := by
  grind [State.setW, State.onMe_wf]
theorem execWldt_wf (w : TReg) (tb : TReg) {s : State} : Moves s (execWldt w tb s) := by
  grind (splits := 25) [execWldt, State.retire_wf, State.setW_wf, Ans.Wf, finish_moves, moves_next]
theorem execWld_wf (w : TReg) (fmt : Fmt) (ga : GReg) (gb : GReg) (ef : Bool) {s : State} : Moves s (execWld w fmt ga gb ef s) := by
  grind (splits := 25) [execWld, checkWatch_wf, imagePieces_wf, loadAll_wf, State.setW_wf, Ans.Wf, Option.bind_eq_some_iff, Ans.bind_wf,
    finish_moves]
theorem execTmovs_wf (ta : TReg) (ga : GReg) (gb : GReg) (size : Size) {s : State} : Moves s (execTmovs ta ga gb size s) := by
  unfold execTmovs
  refine moves_next fun hs => ?_
  grind (splits := 25) [State.retire_wf, State.setT_wf]
theorem execTmov_wf (ta : TReg) (tb : TReg) {s : State} : Moves s (execTmov ta tb s) := by
  unfold execTmov
  refine moves_next fun hs => ?_
  grind (splits := 25) [State.retire_wf, State.setT_wf]
theorem execTzero_wf (ta : TReg) {s : State} : Moves s (execTzero ta s) := by
  unfold execTzero
  refine moves_next fun hs => ?_
  grind (splits := 25) [State.retire_wf, State.setT_wf]
theorem execTshapeRead_wf (ta : TReg) (gb : GReg) {s : State} : Moves s (execTshapeRead ta gb s) := by
  grind [execTshapeRead, retireWith_wf]
theorem execTshapeSet_wf (ta : TReg) (ga : GReg) {s : State} : Moves s (execTshapeSet ta ga s) := by
  grind (splits := 25) [execTshapeSet, State.retire_wf, State.setT_wf, Ans.Wf, finish_moves, moves_next]
theorem rowPieces_wf {s : State} (t : Tile) (offs : Option Tile) (ga : GReg) (gb : GReg) (band : Bool) (write : Bool) (hs : s.mem.wf = true)
    : (rowPieces s t offs ga gb band write).Wf := by
  grind (splits := 25) [rowPieces, checkWatch_wf, locateRows_wf, Ans.Wf, Option.bind_eq_some_iff, Ans.bind_wf]
theorem rowStore_wf {s : State} (ta : TReg) (offs : Option Tile) (ga : GReg) (gb : GReg) (band : Bool) (ef : Bool) : Moves s (rowStore s ta
    offs ga gb band ef) := by
  grind (splits := 25) [rowStore, rowPieces_wf, storeAll_wf, Ans.Wf, Option.bind_eq_some_iff, Ans.bind_wf, finish_moves]
theorem execTsct_wf (ta : TReg) (tb : TReg) (ga : GReg) (gb : GReg) (band : Bool) (ef : Bool) {s : State} : Moves s (execTsct ta tb ga gb
    band ef s) := by
  grind [execTsct, rowStore_wf]
theorem rowLoad_wf {s : State} (ta : TReg) (offs : Option Tile) (ga : GReg) (gb : GReg) (band : Bool) (ef : Bool) : Moves s (rowLoad s ta
    offs ga gb band ef) := by
  grind (splits := 25) [rowLoad, rowPieces_wf, loadAll_wf, State.setT_wf, Ans.Wf, Option.bind_eq_some_iff, Ans.bind_wf, finish_moves]
theorem execTgth_wf (ta : TReg) (tb : TReg) (ga : GReg) (gb : GReg) (band : Bool) (ef : Bool) {s : State} : Moves s (execTgth ta tb ga gb
    band ef s) := by
  grind [execTgth, rowLoad_wf]
theorem execTst_wf (ta : TReg) (ga : GReg) (gb : GReg) (band : Bool) (ef : Bool) {s : State} : Moves s (execTst ta ga gb band ef s) := by
  grind [execTst, rowStore_wf]
theorem execTld_wf (ta : TReg) (ga : GReg) (gb : GReg) (band : Bool) (ef : Bool) {s : State} : Moves s (execTld ta ga gb band ef s) := by
  grind [execTld, rowLoad_wf]
theorem State.startAred_wf {s : State} (bf16 : Bool) (tag : Nat) (buf : List Piece) (len : Nat) (m : MReg) (hs : s.mem.wf = true) :
    (State.startAred s bf16 tag buf len m).mem.wf = true := by
  grind [State.startAred, State.onMe_wf]
theorem locatePages_wf {s : State} (va : Word) (n : Nat) (kind : Nat) (hs : s.mem.wf = true) : (locatePages s va n kind).Wf := by
  grind [locatePages, locateFrom_wf, Ans.Wf]
theorem aredWith_wf (bf16 : Bool) (gd : GReg) (ga : GReg) (gb : GReg) (m : MReg) {s : State} : Moves s (aredWith bf16 gd ga gb m s) := by
  grind (splits := 25) [aredWith, State.tock_wf, checkWatch_wf, locatePages_wf, State.startAred_wf, Ans.Wf, Option.bind_eq_some_iff,
    Ans.bind_wf, finish_moves]
theorem execAredBf16_wf (gd : GReg) (ga : GReg) (gb : GReg) (m : MReg) {s : State} : Moves s (execAredBf16 gd ga gb m s) := by
  grind [execAredBf16, aredWith_wf]
theorem execAredFp32_wf (gd : GReg) (ga : GReg) (gb : GReg) (m : MReg) {s : State} : Moves s (execAredFp32 gd ga gb m s) := by
  grind [execAredFp32, aredWith_wf]
theorem jobSteps_wf (id : Nat) (n1 : Nat) {s : State} (hs : s.mem.wf = true) : (jobSteps id n1 s).mem.wf = true := by
  induction n1 generalizing s with
  | zero => exact hs
  | succ n ih =>
    unfold jobSteps
    grind [State.jobStep_wf]
theorem State.settleJob_wf {s : State} (id : Nat) (hs : s.mem.wf = true) : (State.settleJob s id).mem.wf = true := by
  grind [State.settleJob, jobSteps_wf]
theorem State.startCopy_wf {s : State} (fill : Bool) (src : List Piece) (dst : List Piece) (pattern : Word) (len : Nat) (m : MReg) (sc :
    Scope) (va : Word) (hs : s.mem.wf = true) : (State.startCopy s fill src dst pattern len m sc va).mem.wf = true := by
  grind [State.startCopy, State.onMe_wf, State.settleJob_wf, State.coverFills_wf]
theorem copyWith_wf (fill : Bool) (gd : GReg) (ga : GReg) (gb : GReg) (m : MReg) (sc : Scope) {s : State} : Moves s (copyWith fill gd ga gb
    m sc s) := by
  grind (splits := 25) [copyWith, State.tock_wf, checkWatch_wf, locatePages_wf, roomForStore_wf, State.startCopy_wf, Ans.Wf,
    Option.bind_eq_some_iff, Ans.bind_wf, finish_moves]
theorem execCpyf_wf (gd : GReg) (ga : GReg) (gb : GReg) (m : MReg) (sc : Scope) {s : State} : Moves s (execCpyf gd ga gb m sc s) := by
  grind [execCpyf, copyWith_wf]
theorem execCpy_wf (gd : GReg) (ga : GReg) (gb : GReg) (m : MReg) (sc : Scope) {s : State} : Moves s (execCpy gd ga gb m sc s) := by
  grind [execCpy, copyWith_wf]
theorem execPeek_wf (gd : GReg) (gb : GReg) (m : MReg) {s : State} : Moves s (execPeek gd gb m s) := by
  grind (splits := 25) [execPeek, State.setG_wf, Ans.Wf, finish_moves]
theorem State.takeSlot_wf {s : State} (m : MReg) (gd : GReg) (hs : s.mem.wf = true) : (State.takeSlot s m gd).mem.wf = true := by
  grind [State.takeSlot, State.onMe_wf, State.setG_wf, State.settleNi_wf, State.niSettle_wf, State.applyBranded_wf]
theorem execRecvany_wf (gd : GReg) (ga : GReg) (gb : GReg) {s : State} : Moves s (execRecvany gd ga gb s) := by
  grind (splits := 25) [execRecvany, State.setG_wf, State.takeSlot_wf, Ans.Wf, finish_moves]
theorem execRecv_wf (gd : GReg) (m : MReg) {s : State} : Moves s (execRecv gd m s) := by
  grind (splits := 25) [execRecv, State.takeSlot_wf, Ans.Wf, finish_moves]
theorem sendTarget_wf {s : State} (ga : GReg) (hs : s.mem.wf = true) : (sendTarget s ga).Wf := by
  grind [sendTarget, Ans.Wf]
theorem execSendb_wf (ga : GReg) (gb : GReg) (m : MReg) (sc : Scope) {s : State} : Moves s (execSendb ga gb m sc s) := by
  grind (splits := 25) [execSendb, sendTarget_wf, awaitRelease_wf, roomForStore_wf, State.sendCounted_wf, State.onMe_wf, Ans.Wf,
    Option.bind_eq_some_iff, Ans.bind_wf, finish_moves]
theorem execSend_wf (ga : GReg) (gb : GReg) (m : MReg) {s : State} : Moves s (execSend ga gb m s) := by
  grind (splits := 25) [execSend, sendTarget_wf, roomForStore_wf, State.sendCounted_wf, Ans.Wf, Option.bind_eq_some_iff, Ans.bind_wf,
    finish_moves]
theorem execUnpin_wf (gd : GReg) (ga : GReg) {s : State} : Moves s (execUnpin gd ga s) := by
  grind (splits := 25) [execUnpin, State.setG_wf, ctlReply_wf, State.askCtl_wf, State.settleCtl_wf, Ans.Wf, Option.bind_eq_some_iff,
    Ans.bind_wf, finish_moves]
theorem execRetain_wf (gd : GReg) (ga : GReg) (gb : GReg) (ways : Fin 8) {s : State} : Moves s (execRetain gd ga gb ways s) := by
  have hr : ∀ u : State, u.mem.wf = true → ((ctlReply u).bind fun s v => .ok (s.setG gd v) ()).Wf := fun u hu =>
    Ans.bind_wf (ctlReply_wf hu) fun s v hs => State.setG_wf _ _ hs
  unfold execRetain
  split
  · refine finish_moves fun hs => Ans.bind_wf (checkWatch_wf _ _ _ hs) fun s _ hs => Ans.bind_wf (locate_wf _ _ _ _ _ hs) fun s ps hs => ?_
    split
    · split
      · exact State.setG_wf _ _ hs
      · exact hr _ (State.askCtl_wf _ _ hs)
    · exact hs
  · exact finish_moves fun hs => hr _ (State.settleCtl_wf hs)
theorem prefLine_wf (ef : Bool) (priv : Bool) {s : State} (va : Word) (hs : s.mem.wf = true) : (prefLine ef priv s va).mem.wf = true := by
  grind [prefLine, prefPlace_wf, prefFill_wf, Ans.Wf]
theorem execPref_wf (ga : GReg) (gb : GReg) (ef : Bool) (priv : Bool) {s : State} : Moves s (execPref ga gb ef priv s) := by
  grind (splits := 25) [execPref, prefLine_wf, Ans.Wf, foldl_wf, finish_moves]
theorem linePiece_wf {s : State} (va : Word) (hs : s.mem.wf = true) : (linePiece s va).Wf := by
  grind (splits := 25) [linePiece, locate_wf, Ans.Wf, Option.bind_eq_some_iff, Ans.bind_wf]
theorem linePlace_wf {s : State} (va : Word) (hs : s.mem.wf = true) : (linePlace s va).Wf := by
  grind (splits := 25) [linePlace, linePiece_wf, Ans.Wf, Option.bind_eq_some_iff, Ans.bind_wf]
theorem execClinv_wf (ga : GReg) {s : State} : Moves s (execClinv ga s) := by
  grind (splits := 25) [execClinv, linePlace_wf, State.settle_wf, State.onMe_wf, State.post_wf, Ans.Wf, Option.bind_eq_some_iff,
    Ans.bind_wf, finish_moves]
theorem execClwb_wf (ga : GReg) {s : State} : Moves s (execClwb ga s) := by
  grind (splits := 25) [execClwb, linePiece_wf, roomForStore_wf, State.request_wf, State.onMe_wf, Ans.Wf, Option.bind_eq_some_iff,
    Ans.bind_wf, finish_moves]
theorem loadAt_wf {s : State} (va : Word) (n : Nat) (acq : Bool) (sync : Bool) (hs : s.mem.wf = true) : (loadAt s va n acq sync).Wf := by
  grind (splits := 25) [loadAt, checkWatch_wf, checkAlign_wf, locate_wf, loadAll_wf, Ans.Wf, Option.bind_eq_some_iff, Ans.bind_wf]
theorem execAcqb_wf (gd : GReg) (ga : GReg) (_sc : Scope) {s : State} : Moves s (execAcqb gd ga _sc s) := by
  grind (splits := 25) [execAcqb, loadAt_wf, State.brandTest_wf, State.setG_wf, Ans.Wf, Option.bind_eq_some_iff, Ans.bind_wf, finish_moves]
theorem execRelb_wf (ga : GReg) (gb : GReg) (_sc : Scope) {s : State} : Moves s (execRelb ga gb _sc s) := by
  grind (splits := 25) [execRelb, keepOr_wf, checkWatch_wf, checkAlign_wf, locate_wf, awaitRelease_wf, roomForStore_wf, storePieces_wf,
    State.onMe_wf, Ans.Wf, Option.bind_eq_some_iff, Ans.bind_wf, finish_moves]
theorem execFence_wf (set : FenceSet) (sc : Scope) {s : State} : Moves s (execFence set sc s) := by
  grind (splits := 25) [execFence, State.settleLocks_wf, State.settle_wf, Ans.Wf, finish_moves]
theorem sendReduction_wf {s : State} (k : GatherKind) (operand : Nat) (p : Piece) (hs : s.mem.wf = true) : (sendReduction s k operand
    p).mem.wf = true := by
  grind [sendReduction, State.sendWrite_wf, State.onMe_wf, regSetBytes_wf, State.place_wf]
theorem awaitPlainRelease_wf {s : State} (sc : Scope) (hs : s.mem.wf = true) : (awaitPlainRelease s sc).Wf := by
  grind [awaitPlainRelease, State.settle_wf, Ans.Wf]
theorem awaitOrd_wf {s : State} (o : Sys2Proof.Ord) (sc : Scope) (hs : s.mem.wf = true) : (awaitOrd s o sc).Wf := by
  unfold awaitOrd
  grind (splits := 25) [awaitPlainRelease_wf, Ans.Wf]
theorem reduceTo_wf {s : State} (k : GatherKind) (va : Word) (operand : Nat) (o : Sys2Proof.Ord) (sc : Scope) (hs : s.mem.wf = true) :
    (reduceTo s k va operand o sc).Wf := by
  exact Ans.bind_wf (checkWatch_wf _ _ _ hs) fun s _ hs => Ans.bind_wf (checkAlign_wf _ _ _ hs) fun s _ hs =>
    Ans.bind_wf (locate_wf _ _ _ _ _ hs) fun s ps hs => Ans.bind_wf (checkPoison_wf _ _ hs) fun s _ hs =>
    Ans.bind_wf (awaitOrd_wf _ _ hs) fun s _ hs => Ans.bind_wf (awaitMarks_wf _ hs) fun s _ hs =>
    Ans.bind_wf (roomForStore_wf _ hs) fun s _ hs => foldl_wf _ (fun s p hs => sendReduction_wf _ _ _ hs) _ _ hs
theorem reduceReg_wf {s : State} (k : GatherKind) (ga : GReg) (gb : GReg) (o : Sys2Proof.Ord) (sc : Scope) : Moves s (reduceReg s k ga gb o
    sc) := by
  grind (splits := 25) [reduceReg, reduceTo_wf, finish_moves, Ans.Wf]
theorem execRedmaxD_wf (ga : GReg) (gb : GReg) (o : Sys2Proof.Ord) (sc : Scope) {s : State} : Moves s (execRedmaxD ga gb o sc s) := by
  grind [execRedmaxD, reduceReg_wf]
theorem execRedmaxW_wf (ga : GReg) (gb : GReg) (o : Sys2Proof.Ord) (sc : Scope) {s : State} : Moves s (execRedmaxW ga gb o sc s) := by
  grind [execRedmaxW, reduceReg_wf]
theorem execRedfaddW_wf (ga : GReg) (gb : GReg) (o : Sys2Proof.Ord) (sc : Scope) {s : State} : Moves s (execRedfaddW ga gb o sc s) := by
  grind [execRedfaddW, reduceReg_wf]
theorem execRedaddD_wf (ga : GReg) (gb : GReg) (o : Sys2Proof.Ord) (sc : Scope) {s : State} : Moves s (execRedaddD ga gb o sc s) := by
  grind [execRedaddD, reduceReg_wf]
theorem execRedaddW_wf (ga : GReg) (gb : GReg) (o : Sys2Proof.Ord) (sc : Scope) {s : State} : Moves s (execRedaddW ga gb o sc s) := by
  grind [execRedaddW, reduceReg_wf]
theorem State.plainAcquire_wf {s : State} (sc : Scope) (hs : s.mem.wf = true) : (State.plainAcquire s sc).mem.wf = true := by
  unfold State.plainAcquire
  grind (splits := 25) [State.onMe_wf, State.coverFills_wf]
theorem State.acquireOrd_wf {s : State} (o : Sys2Proof.Ord) (sc : Scope) (hs : s.mem.wf = true) : (State.acquireOrd s o sc).mem.wf = true :=
    by
  unfold State.acquireOrd
  grind (splits := 25) [State.plainAcquire_wf]
theorem sendAmo_wf {s : State} (op : AmoOp) (size : Nat) (operand : Nat) (compare : Nat) (p : Piece) (hs : s.mem.wf = true) : (sendAmo s op
    size operand compare p).mem.wf = true := by
  grind [sendAmo, State.request_wf, State.onMe_wf, State.ownWrite_wf]
theorem amoReply_wf {s : State} (va : Word) (hs : s.mem.wf = true) : (amoReply s va).Wf := by
  grind [amoReply, State.onMe_wf, Ans.Wf]
theorem amoChecks_wf {s : State} (op : AmoOp) (size : Nat) (gd : GReg) (va : Word) (hs : s.mem.wf = true) : (amoChecks s op size gd va).Wf
    := by
  unfold amoChecks
  repeat' split
  all_goals grind (splits := 25) [checkWatch_wf, checkAlign_wf, locate_wf, checkPoison_wf, Ans.Wf, Ans.bind_wf]
theorem amoAt_wf {s : State} (op : AmoOp) (size : Nat) (gd : GReg) (va : Word) (operand : Nat) (o : Sys2Proof.Ord) (sc : Scope) (hs :
    s.mem.wf = true) : (amoAt s op size gd va operand o sc).Wf := by
  grind (splits := 25) [amoAt, amoChecks_wf, awaitOrd_wf, regSetBytes_wf, awaitMarks_wf, amoReply_wf, sendAmo_wf, State.settle_wf, Ans.Wf,
    Option.bind_eq_some_iff, Ans.bind_wf]
theorem amoReg_wf {s : State} (op : AmoOp) (size : Nat) (gd : GReg) (ga : GReg) (gb : GReg) (o : Sys2Proof.Ord) (sc : Scope) : Moves s
    (amoReg s op size gd ga gb o sc) := by
  grind (splits := 25) [amoReg, amoAt_wf, State.acquireOrd_wf, State.setG_wf, Ans.Wf, Option.bind_eq_some_iff, Ans.bind_wf, finish_moves]
theorem execAmofaddD_wf (gd : GReg) (ga : GReg) (gb : GReg) (o : Sys2Proof.Ord) (sc : Scope) {s : State} : Moves s (execAmofaddD gd ga gb o
    sc s) := by
  grind [execAmofaddD, amoReg_wf]
theorem execAmocasD_wf (gd : GReg) (ga : GReg) (gb : GReg) (o : Sys2Proof.Ord) (sc : Scope) {s : State} : Moves s (execAmocasD gd ga gb o sc
    s) := by
  grind [execAmocasD, amoReg_wf]
theorem execAmoswpD_wf (gd : GReg) (ga : GReg) (gb : GReg) (o : Sys2Proof.Ord) (sc : Scope) {s : State} : Moves s (execAmoswpD gd ga gb o sc
    s) := by
  grind [execAmoswpD, amoReg_wf]
theorem execAmomaxuD_wf (gd : GReg) (ga : GReg) (gb : GReg) (o : Sys2Proof.Ord) (sc : Scope) {s : State} : Moves s (execAmomaxuD gd ga gb o
    sc s) := by
  grind [execAmomaxuD, amoReg_wf]
theorem execAmominuD_wf (gd : GReg) (ga : GReg) (gb : GReg) (o : Sys2Proof.Ord) (sc : Scope) {s : State} : Moves s (execAmominuD gd ga gb o
    sc s) := by
  grind [execAmominuD, amoReg_wf]
theorem execAmomaxD_wf (gd : GReg) (ga : GReg) (gb : GReg) (o : Sys2Proof.Ord) (sc : Scope) {s : State} : Moves s (execAmomaxD gd ga gb o sc
    s) := by
  grind [execAmomaxD, amoReg_wf]
theorem execAmominD_wf (gd : GReg) (ga : GReg) (gb : GReg) (o : Sys2Proof.Ord) (sc : Scope) {s : State} : Moves s (execAmominD gd ga gb o sc
    s) := by
  grind [execAmominD, amoReg_wf]
theorem execAmoxorD_wf (gd : GReg) (ga : GReg) (gb : GReg) (o : Sys2Proof.Ord) (sc : Scope) {s : State} : Moves s (execAmoxorD gd ga gb o sc
    s) := by
  grind [execAmoxorD, amoReg_wf]
theorem execAmoorD_wf (gd : GReg) (ga : GReg) (gb : GReg) (o : Sys2Proof.Ord) (sc : Scope) {s : State} : Moves s (execAmoorD gd ga gb o sc
    s) := by
  grind [execAmoorD, amoReg_wf]
theorem execAmoandD_wf (gd : GReg) (ga : GReg) (gb : GReg) (o : Sys2Proof.Ord) (sc : Scope) {s : State} : Moves s (execAmoandD gd ga gb o sc
    s) := by
  grind [execAmoandD, amoReg_wf]
theorem execAmoaddD_wf (gd : GReg) (ga : GReg) (gb : GReg) (o : Sys2Proof.Ord) (sc : Scope) {s : State} : Moves s (execAmoaddD gd ga gb o sc
    s) := by
  grind [execAmoaddD, amoReg_wf]
theorem execAmofaddW_wf (gd : GReg) (ga : GReg) (gb : GReg) (o : Sys2Proof.Ord) (sc : Scope) {s : State} : Moves s (execAmofaddW gd ga gb o
    sc s) := by
  grind [execAmofaddW, amoReg_wf]
theorem execAmocasW_wf (gd : GReg) (ga : GReg) (gb : GReg) (o : Sys2Proof.Ord) (sc : Scope) {s : State} : Moves s (execAmocasW gd ga gb o sc
    s) := by
  grind [execAmocasW, amoReg_wf]
theorem execAmoswpW_wf (gd : GReg) (ga : GReg) (gb : GReg) (o : Sys2Proof.Ord) (sc : Scope) {s : State} : Moves s (execAmoswpW gd ga gb o sc
    s) := by
  grind [execAmoswpW, amoReg_wf]
theorem execAmomaxuW_wf (gd : GReg) (ga : GReg) (gb : GReg) (o : Sys2Proof.Ord) (sc : Scope) {s : State} : Moves s (execAmomaxuW gd ga gb o
    sc s) := by
  grind [execAmomaxuW, amoReg_wf]
theorem execAmominuW_wf (gd : GReg) (ga : GReg) (gb : GReg) (o : Sys2Proof.Ord) (sc : Scope) {s : State} : Moves s (execAmominuW gd ga gb o
    sc s) := by
  grind [execAmominuW, amoReg_wf]
theorem execAmomaxW_wf (gd : GReg) (ga : GReg) (gb : GReg) (o : Sys2Proof.Ord) (sc : Scope) {s : State} : Moves s (execAmomaxW gd ga gb o sc
    s) := by
  grind [execAmomaxW, amoReg_wf]
theorem execAmominW_wf (gd : GReg) (ga : GReg) (gb : GReg) (o : Sys2Proof.Ord) (sc : Scope) {s : State} : Moves s (execAmominW gd ga gb o sc
    s) := by
  grind [execAmominW, amoReg_wf]
theorem execAmoxorW_wf (gd : GReg) (ga : GReg) (gb : GReg) (o : Sys2Proof.Ord) (sc : Scope) {s : State} : Moves s (execAmoxorW gd ga gb o sc
    s) := by
  grind [execAmoxorW, amoReg_wf]
theorem execAmoorW_wf (gd : GReg) (ga : GReg) (gb : GReg) (o : Sys2Proof.Ord) (sc : Scope) {s : State} : Moves s (execAmoorW gd ga gb o sc
    s) := by
  grind [execAmoorW, amoReg_wf]
theorem execAmoandW_wf (gd : GReg) (ga : GReg) (gb : GReg) (o : Sys2Proof.Ord) (sc : Scope) {s : State} : Moves s (execAmoandW gd ga gb o sc
    s) := by
  grind [execAmoandW, amoReg_wf]
theorem execAmoaddW_wf (gd : GReg) (ga : GReg) (gb : GReg) (o : Sys2Proof.Ord) (sc : Scope) {s : State} : Moves s (execAmoaddW gd ga gb o sc
    s) := by
  grind [execAmoaddW, amoReg_wf]
theorem storeAt_wf {s : State} (va : Word) (n : Nat) (v : Nat) (o : Sys2Proof.Ord) (sc : Scope) (hs : s.mem.wf = true) : (storeAt s va n v o
    sc).Wf := by
  grind (splits := 25) [storeAt, checkWatch_wf, checkAlign_wf, locate_wf, awaitOrd_wf, storeAll_wf, Ans.Wf, Option.bind_eq_some_iff,
    Ans.bind_wf]
theorem storeReg_wf {s : State} (va : Word) (n : Nat) (v : Word) (o : Sys2Proof.Ord) (sc : Scope) : Moves s (storeReg s va n v o sc) := by
  grind (splits := 25) [storeReg, storeAt_wf, finish_moves, Ans.Wf]
theorem execStdOrd_wf (ga : GReg) (gb : GReg) (o : Sys2Proof.Ord) (sc : Scope) {s : State} : Moves s (execStdOrd ga gb o sc s) := by
  grind [execStdOrd, storeReg_wf]
theorem execStwOrd_wf (ga : GReg) (gb : GReg) (o : Sys2Proof.Ord) (sc : Scope) {s : State} : Moves s (execStwOrd ga gb o sc s) := by
  grind [execStwOrd, storeReg_wf]
theorem execSthOrd_wf (ga : GReg) (gb : GReg) (o : Sys2Proof.Ord) (sc : Scope) {s : State} : Moves s (execSthOrd ga gb o sc s) := by
  grind [execSthOrd, storeReg_wf]
theorem execStbOrd_wf (ga : GReg) (gb : GReg) (o : Sys2Proof.Ord) (sc : Scope) {s : State} : Moves s (execStbOrd ga gb o sc s) := by
  grind [execStbOrd, storeReg_wf]
theorem loadReg_wf {s : State} (gd : GReg) (va : Word) (n : Nat) (signed : Bool) (o : Sys2Proof.Ord) (sc : Scope) : Moves s (loadReg s gd va
    n signed o sc) := by
  grind (splits := 25) [loadReg, loadAt_wf, State.acquireOrd_wf, State.setG_wf, Ans.Wf, Option.bind_eq_some_iff, Ans.bind_wf, finish_moves]
theorem execLddOrd_wf (gd : GReg) (ga : GReg) (o : Sys2Proof.Ord) (sc : Scope) {s : State} : Moves s (execLddOrd gd ga o sc s) := by
  grind [execLddOrd, loadReg_wf]
theorem execLdwzOrd_wf (gd : GReg) (ga : GReg) (o : Sys2Proof.Ord) (sc : Scope) {s : State} : Moves s (execLdwzOrd gd ga o sc s) := by
  grind [execLdwzOrd, loadReg_wf]
theorem execLdwOrd_wf (gd : GReg) (ga : GReg) (o : Sys2Proof.Ord) (sc : Scope) {s : State} : Moves s (execLdwOrd gd ga o sc s) := by
  grind [execLdwOrd, loadReg_wf]
theorem execLdhzOrd_wf (gd : GReg) (ga : GReg) (o : Sys2Proof.Ord) (sc : Scope) {s : State} : Moves s (execLdhzOrd gd ga o sc s) := by
  grind [execLdhzOrd, loadReg_wf]
theorem execLdhOrd_wf (gd : GReg) (ga : GReg) (o : Sys2Proof.Ord) (sc : Scope) {s : State} : Moves s (execLdhOrd gd ga o sc s) := by
  grind [execLdhOrd, loadReg_wf]
theorem execLdbzOrd_wf (gd : GReg) (ga : GReg) (o : Sys2Proof.Ord) (sc : Scope) {s : State} : Moves s (execLdbzOrd gd ga o sc s) := by
  grind [execLdbzOrd, loadReg_wf]
theorem execLdbOrd_wf (gd : GReg) (ga : GReg) (o : Sys2Proof.Ord) (sc : Scope) {s : State} : Moves s (execLdbOrd gd ga o sc s) := by
  grind [execLdbOrd, loadReg_wf]
theorem execStd_wf (gd : GReg) (ga : GReg) (imm : BitVec 12) {s : State} : Moves s (execStd gd ga imm s) := by
  grind [execStd, storeReg_wf]
theorem execStw_wf (gd : GReg) (ga : GReg) (imm : BitVec 12) {s : State} : Moves s (execStw gd ga imm s) := by
  grind [execStw, storeReg_wf]
theorem execSth_wf (gd : GReg) (ga : GReg) (imm : BitVec 12) {s : State} : Moves s (execSth gd ga imm s) := by
  grind [execSth, storeReg_wf]
theorem execStb_wf (gd : GReg) (ga : GReg) (imm : BitVec 12) {s : State} : Moves s (execStb gd ga imm s) := by
  grind [execStb, storeReg_wf]
theorem execLdd_wf (gd : GReg) (ga : GReg) (imm : BitVec 12) {s : State} : Moves s (execLdd gd ga imm s) := by
  grind [execLdd, loadReg_wf]
theorem execLdwz_wf (gd : GReg) (ga : GReg) (imm : BitVec 12) {s : State} : Moves s (execLdwz gd ga imm s) := by
  grind [execLdwz, loadReg_wf]
theorem execLdw_wf (gd : GReg) (ga : GReg) (imm : BitVec 12) {s : State} : Moves s (execLdw gd ga imm s) := by
  grind [execLdw, loadReg_wf]
theorem execLdhz_wf (gd : GReg) (ga : GReg) (imm : BitVec 12) {s : State} : Moves s (execLdhz gd ga imm s) := by
  grind [execLdhz, loadReg_wf]
theorem execLdh_wf (gd : GReg) (ga : GReg) (imm : BitVec 12) {s : State} : Moves s (execLdh gd ga imm s) := by
  grind [execLdh, loadReg_wf]
theorem execLdbz_wf (gd : GReg) (ga : GReg) (imm : BitVec 12) {s : State} : Moves s (execLdbz gd ga imm s) := by
  grind [execLdbz, loadReg_wf]
theorem execLdb_wf (gd : GReg) (ga : GReg) (imm : BitVec 12) {s : State} : Moves s (execLdb gd ga imm s) := by
  grind [execLdb, loadReg_wf]
theorem linkTo_wf {s : State} (gd : GReg) (hs : s.mem.wf = true) : (linkTo s gd).mem.wf = true := by
  grind [linkTo, State.onMe_wf, State.setG_wf]
theorem checkTarget_wf {s : State} (n1 : Word) (hs : s.mem.wf = true) : (checkTarget s n1).Wf := by
  grind (splits := 25) [checkTarget, secondWord_wf, Ans.Wf, Option.bind_eq_some_iff, Ans.bind_wf]
theorem execJalr_wf (gd : GReg) (ga : GReg) (imm : BitVec 15) {s : State} : Moves s (execJalr gd ga imm s) := by
  grind (splits := 25) [execJalr, checkTarget_wf, State.emitAddr_wf, State.onMe_wf, linkTo_wf, Ans.Wf, Option.bind_eq_some_iff, Ans.bind_wf,
    finishJump_moves]
theorem execJal_wf (gd : GReg) (off : BitVec 20) {s : State} : Moves s (execJal gd off s) := by
  grind (splits := 25) [execJal, checkTarget_wf, linkTo_wf, Ans.Wf, Option.bind_eq_some_iff, Ans.bind_wf, finishJump_moves]
theorem execJ_wf (off : BitVec 25) {s : State} : Moves s (execJ off s) := by
  grind (splits := 25) [execJ, checkTarget_wf, finishJump_moves, Ans.Wf]
theorem State.emitBranch_wf {s : State} (k : Nat) (taken : Bool) (hs : s.mem.wf = true) : (State.emitBranch s k taken).mem.wf = true := by
  grind [State.emitBranch, State.setCore_wf]
theorem State.noteBranch_wf {s : State} (taken : Bool) (hs : s.mem.wf = true) : (State.noteBranch s taken).mem.wf = true := by
  grind [State.noteBranch, State.emitBranch_wf, State.onMe_wf]
theorem condBranch_wf {s : State} (off : BitVec 12) (taken : Bool) : Moves s (condBranch s off taken) := by
  grind (splits := 25) [condBranch, checkTarget_wf, State.noteBranch_wf, Ans.Wf, Option.bind_eq_some_iff, Ans.bind_wf, finish_moves,
    finishJump_moves]
theorem execBgeu_wf (ga : GReg) (gb : GReg) (off : BitVec 12) {s : State} : Moves s (execBgeu ga gb off s) := by
  grind [execBgeu, condBranch_wf]
theorem execBltu_wf (ga : GReg) (gb : GReg) (off : BitVec 12) {s : State} : Moves s (execBltu ga gb off s) := by
  grind [execBltu, condBranch_wf]
theorem execBge_wf (ga : GReg) (gb : GReg) (off : BitVec 12) {s : State} : Moves s (execBge ga gb off s) := by
  grind [execBge, condBranch_wf]
theorem execBlt_wf (ga : GReg) (gb : GReg) (off : BitVec 12) {s : State} : Moves s (execBlt ga gb off s) := by
  grind [execBlt, condBranch_wf]
theorem execBne_wf (ga : GReg) (gb : GReg) (off : BitVec 12) {s : State} : Moves s (execBne ga gb off s) := by
  grind [execBne, condBranch_wf]
theorem execBeq_wf (ga : GReg) (gb : GReg) (off : BitVec 12) {s : State} : Moves s (execBeq ga gb off s) := by
  grind [execBeq, condBranch_wf]
theorem agendaMove_wf (ex : Instr → State → Result) (m : Move) {s : State} (hex : ∀ i s, Moves s (ex i s)) (hm : ∀ i, m = .event i → encode
    i = none) : Moves s (agendaMove ex m s) := by
  unfold agendaMove
  split
  · next i =>
    simp only [hm i rfl, Option.isNone_none, if_true]
    exact hex i s
  · split
    · obtain ⟨t, ht, hw⟩ := turn_wf ex (s := s.switchTo ‹_›) hex
      exact ⟨t, ht, fun hs => hw (State.switchTo_wf _ hs)⟩
    · exact moves_next fun hs => hs
/-- Every instruction and event answers a next state, and keeps memory canonical. The last case is the recall of a gathered line, whose name is a keyword
of Mathlib. -/
theorem exec_moves (i : Instr) (s : State) : Moves s (exec i s) := by
  cases i with
  | beq ga gb off => exact execBeq_wf ga gb off
  | bne ga gb off => exact execBne_wf ga gb off
  | blt ga gb off => exact execBlt_wf ga gb off
  | bge ga gb off => exact execBge_wf ga gb off
  | bltu ga gb off => exact execBltu_wf ga gb off
  | bgeu ga gb off => exact execBgeu_wf ga gb off
  | j off => exact execJ_wf off
  | jal gd off => exact execJal_wf gd off
  | jalr gd ga imm => exact execJalr_wf gd ga imm
  | ldb gd ga imm => exact execLdb_wf gd ga imm
  | ldbz gd ga imm => exact execLdbz_wf gd ga imm
  | ldh gd ga imm => exact execLdh_wf gd ga imm
  | ldhz gd ga imm => exact execLdhz_wf gd ga imm
  | ldw gd ga imm => exact execLdw_wf gd ga imm
  | ldwz gd ga imm => exact execLdwz_wf gd ga imm
  | ldd gd ga imm => exact execLdd_wf gd ga imm
  | stb gd ga imm => exact execStb_wf gd ga imm
  | sth gd ga imm => exact execSth_wf gd ga imm
  | stw gd ga imm => exact execStw_wf gd ga imm
  | std gd ga imm => exact execStd_wf gd ga imm
  | ldbOrd gd ga ord sc => exact execLdbOrd_wf gd ga ord sc
  | ldbzOrd gd ga ord sc => exact execLdbzOrd_wf gd ga ord sc
  | ldhOrd gd ga ord sc => exact execLdhOrd_wf gd ga ord sc
  | ldhzOrd gd ga ord sc => exact execLdhzOrd_wf gd ga ord sc
  | ldwOrd gd ga ord sc => exact execLdwOrd_wf gd ga ord sc
  | ldwzOrd gd ga ord sc => exact execLdwzOrd_wf gd ga ord sc
  | lddOrd gd ga ord sc => exact execLddOrd_wf gd ga ord sc
  | stbOrd ga gb ord sc => exact execStbOrd_wf ga gb ord sc
  | sthOrd ga gb ord sc => exact execSthOrd_wf ga gb ord sc
  | stwOrd ga gb ord sc => exact execStwOrd_wf ga gb ord sc
  | stdOrd ga gb ord sc => exact execStdOrd_wf ga gb ord sc
  | amoaddW gd ga gb ord sc => exact execAmoaddW_wf gd ga gb ord sc
  | amoandW gd ga gb ord sc => exact execAmoandW_wf gd ga gb ord sc
  | amoorW gd ga gb ord sc => exact execAmoorW_wf gd ga gb ord sc
  | amoxorW gd ga gb ord sc => exact execAmoxorW_wf gd ga gb ord sc
  | amominW gd ga gb ord sc => exact execAmominW_wf gd ga gb ord sc
  | amomaxW gd ga gb ord sc => exact execAmomaxW_wf gd ga gb ord sc
  | amominuW gd ga gb ord sc => exact execAmominuW_wf gd ga gb ord sc
  | amomaxuW gd ga gb ord sc => exact execAmomaxuW_wf gd ga gb ord sc
  | amoswpW gd ga gb ord sc => exact execAmoswpW_wf gd ga gb ord sc
  | amocasW gd ga gb ord sc => exact execAmocasW_wf gd ga gb ord sc
  | amofaddW gd ga gb ord sc => exact execAmofaddW_wf gd ga gb ord sc
  | amoaddD gd ga gb ord sc => exact execAmoaddD_wf gd ga gb ord sc
  | amoandD gd ga gb ord sc => exact execAmoandD_wf gd ga gb ord sc
  | amoorD gd ga gb ord sc => exact execAmoorD_wf gd ga gb ord sc
  | amoxorD gd ga gb ord sc => exact execAmoxorD_wf gd ga gb ord sc
  | amominD gd ga gb ord sc => exact execAmominD_wf gd ga gb ord sc
  | amomaxD gd ga gb ord sc => exact execAmomaxD_wf gd ga gb ord sc
  | amominuD gd ga gb ord sc => exact execAmominuD_wf gd ga gb ord sc
  | amomaxuD gd ga gb ord sc => exact execAmomaxuD_wf gd ga gb ord sc
  | amoswpD gd ga gb ord sc => exact execAmoswpD_wf gd ga gb ord sc
  | amocasD gd ga gb ord sc => exact execAmocasD_wf gd ga gb ord sc
  | amofaddD gd ga gb ord sc => exact execAmofaddD_wf gd ga gb ord sc
  | redaddW ga gb ord sc => exact execRedaddW_wf ga gb ord sc
  | redaddD ga gb ord sc => exact execRedaddD_wf ga gb ord sc
  | redfaddW ga gb ord sc => exact execRedfaddW_wf ga gb ord sc
  | redmaxW ga gb ord sc => exact execRedmaxW_wf ga gb ord sc
  | redmaxD ga gb ord sc => exact execRedmaxD_wf ga gb ord sc
  | fence set sc => exact execFence_wf set sc
  | relb ga gb sc => exact execRelb_wf ga gb sc
  | acqb gd ga sc => exact execAcqb_wf gd ga sc
  | clwb ga => exact execClwb_wf ga
  | clinv ga => exact execClinv_wf ga
  | pref ga gb ef priv => exact execPref_wf ga gb ef priv
  | retain gd ga gb ways => exact execRetain_wf gd ga gb ways
  | unpin gd ga => exact execUnpin_wf gd ga
  | send ga gb m => exact execSend_wf ga gb m
  | sendb ga gb m sc => exact execSendb_wf ga gb m sc
  | recv gd m => exact execRecv_wf gd m
  | recvany gd ga gb => exact execRecvany_wf gd ga gb
  | peek gd gb m => exact execPeek_wf gd gb m
  | cpy gd ga gb m sc => exact execCpy_wf gd ga gb m sc
  | cpyf gd ga gb m sc => exact execCpyf_wf gd ga gb m sc
  | aredFp32 gd ga gb m => exact execAredFp32_wf gd ga gb m
  | aredBf16 gd ga gb m => exact execAredBf16_wf gd ga gb m
  | tld ta ga gb band ef => exact execTld_wf ta ga gb band ef
  | tst ta ga gb band ef => exact execTst_wf ta ga gb band ef
  | tgth ta tb ga gb band ef => exact execTgth_wf ta tb ga gb band ef
  | tsct ta tb ga gb band ef => exact execTsct_wf ta tb ga gb band ef
  | tshapeSet ta ga => exact execTshapeSet_wf ta ga
  | tshapeRead ta gb => exact execTshapeRead_wf ta gb
  | tzero ta => exact execTzero_wf ta
  | tmov ta tb => exact execTmov_wf ta tb
  | tmovs ta ga gb size => exact execTmovs_wf ta ga gb size
  | wld w fmt ga gb ef => exact execWld_wf w fmt ga gb ef
  | wldt w tb => exact execWldt_wf w tb
  | accsv a ga => exact execAccsv_wf a ga
  | accld a ga mode => exact execAccld_wf a ga mode
  | tkadd gd ga gb => exact execTkadd_wf gd ga gb
  | tkaddb gd ga gb sc => exact execTkaddb_wf gd ga gb sc
  | recvt gd ga lgw lgh => exact execRecvt_wf gd ga lgw lgh
  | tkdone => exact execTkdone_wf
  | tksnap ga gb => exact execTksnap_wf ga gb
  | lnch gd ga gb => exact execLnch_wf gd ga gb
  | bar lgw lgh m => exact execBar_wf lgw lgh m
  | lkacq ga m => exact execLkacq_wf ga m
  | lktry ga m => exact execLktry_wf ga m
  | lkrel ga => exact execLkrel_wf ga
  | mredAddI64 ga lgw lgh m => exact execMredAddI64_wf ga lgw lgh m
  | mredMaxI64 ga lgw lgh m => exact execMredMaxI64_wf ga lgw lgh m
  | mredMinI64 ga lgw lgh m => exact execMredMinI64_wf ga lgw lgh m
  | mredAndI64 ga lgw lgh m => exact execMredAndI64_wf ga lgw lgh m
  | mredOrI64 ga lgw lgh m => exact execMredOrI64_wf ga lgw lgh m
  | mredAddF32 ga lgw lgh m => exact execMredAddF32_wf ga lgw lgh m
  | mredMaxF32 ga lgw lgh m => exact execMredMaxF32_wf ga lgw lgh m
  | mredMinF32 ga lgw lgh m => exact execMredMinF32_wf ga lgw lgh m
  | sysrd gd n => exact execSysrd_wf gd n
  | syswr ga n => exact execSyswr_wf ga n
  | trap code => exact execTrap_wf code
  | tret => exact execTret_wf
  | xlatiRange ga gb p => exact execXlatiRange_wf ga gb p
  | xlatiAsid ga p => exact execXlatiAsid_wf ga p
  | xlatiAll p => exact execXlatiAll_wf p
  | xlatp gd ga user acc => exact execXlatp_wf gd ga user acc
  | ctxsv ga => exact execCtxsv_wf ga
  | ctxld ga => exact execCtxld_wf ga
  | halt => exact execHalt_wf
  | nopC => exact execNopC_wf
  | brk code => exact execBrk_wf code
  | trcmark ga code => exact execTrcmark_wf ga code
  | perfrd gd n => exact execPerfrd_wf gd n
  | add gd ga gb => exact execAdd_wf gd ga gb
  | sub gd ga gb => exact execSub_wf gd ga gb
  | mul gd ga gb => exact execMul_wf gd ga gb
  | mulh gd ga gb => exact execMulh_wf gd ga gb
  | mulhu gd ga gb => exact execMulhu_wf gd ga gb
  | div gd ga gb => exact execDiv_wf gd ga gb
  | divu gd ga gb => exact execDivu_wf gd ga gb
  | rem gd ga gb => exact execRem_wf gd ga gb
  | remu gd ga gb => exact execRemu_wf gd ga gb
  | and gd ga gb => exact execAnd_wf gd ga gb
  | or gd ga gb => exact execOr_wf gd ga gb
  | xor gd ga gb => exact execXor_wf gd ga gb
  | sll gd ga gb => exact execSll_wf gd ga gb
  | srl gd ga gb => exact execSrl_wf gd ga gb
  | sra gd ga gb => exact execSra_wf gd ga gb
  | slt gd ga gb => exact execSlt_wf gd ga gb
  | sltu gd ga gb => exact execSltu_wf gd ga gb
  | min gd ga gb => exact execMin_wf gd ga gb
  | max gd ga gb => exact execMax_wf gd ga gb
  | minu gd ga gb => exact execMinu_wf gd ga gb
  | maxu gd ga gb => exact execMaxu_wf gd ga gb
  | clz gd ga => exact execClz_wf gd ga
  | ctz gd ga => exact execCtz_wf gd ga
  | popc gd ga => exact execPopc_wf gd ga
  | sel gd ga gb gc => exact execSel_wf gd ga gb gc
  | addi gd ga imm => exact execAddi_wf gd ga imm
  | slti gd ga imm => exact execSlti_wf gd ga imm
  | andi gd ga imm => exact execAndi_wf gd ga imm
  | ori gd ga imm => exact execOri_wf gd ga imm
  | xori gd ga imm => exact execXori_wf gd ga imm
  | slli gd ga sh => exact execSlli_wf gd ga sh
  | srli gd ga sh => exact execSrli_wf gd ga sh
  | srai gd ga sh => exact execSrai_wf gd ga sh
  | lhi gd imm => exact execLhi_wf gd imm
  | bfxz gd ga pos width => exact execBfxz_wf gd ga pos width
  | bfxs gd ga pos width => exact execBfxs_wf gd ga pos width
  | bfins gd ga pos width => exact execBfins_wf gd ga pos width
  | fadd gd ga gb rnd => exact execFadd_wf gd ga gb rnd
  | fsub gd ga gb rnd => exact execFsub_wf gd ga gb rnd
  | fmul gd ga gb rnd => exact execFmul_wf gd ga gb rnd
  | fmin gd ga gb => exact execFmin_wf gd ga gb
  | fmax gd ga gb => exact execFmax_wf gd ga gb
  | fcvtif gd ga rnd => exact execFcvtif_wf gd ga rnd
  | fcvtfi gd ga rnd => exact execFcvtfi_wf gd ga rnd
  | fcmp gd ga gb cond => exact execFcmp_wf gd ga gb cond
  | ffma gd ga gb gc rnd => exact execFfma_wf gd ga gb gc rnd
  | tadd td ta tb sat rnd => exact execTadd_wf td ta tb sat rnd
  | tsub td ta tb sat rnd => exact execTsub_wf td ta tb sat rnd
  | tmul td ta tb sat rnd => exact execTmul_wf td ta tb sat rnd
  | tfma td ta tb tc sat rnd => exact execTfma_wf td ta tb tc sat rnd
  | tmax td ta tb => exact execTmax_wf td ta tb
  | tmin td ta tb => exact execTmin_wf td ta tb
  | tand td ta tb => exact execTand_wf td ta tb
  | tor td ta tb => exact execTor_wf td ta tb
  | txor td ta tb => exact execTxor_wf td ta tb
  | tsel td ta tb tc => exact execTsel_wf td ta tb tc
  | tcmp td ta tb cond => exact execTcmp_wf td ta tb cond
  | tscl td ta gb sat rnd => exact execTscl_wf td ta gb sat rnd
  | tclamp td ta gb sat rnd => exact execTclamp_wf td ta gb sat rnd
  | tabs td ta sat => exact execTabs_wf td ta sat
  | tneg td ta sat => exact execTneg_wf td ta sat
  | texp2 td ta sat rnd => exact execTexp2_wf td ta sat rnd
  | tlog2 td ta sat rnd => exact execTlog2_wf td ta sat rnd
  | trcp td ta sat rnd => exact execTrcp_wf td ta sat rnd
  | trsq td ta sat rnd => exact execTrsq_wf td ta sat rnd
  | tsqrt td ta sat rnd => exact execTsqrt_wf td ta sat rnd
  | tcvt td ta part fmt sat rnd => exact execTcvt_wf td ta part fmt sat rnd
  | tqnt td ta blk ty sat rnd => exact execTqnt_wf td ta blk ty sat rnd
  | tred td ta op col sat rnd => exact execTred_wf td ta op col sat rnd
  | tbc td ta gb mode => exact execTbc_wf td ta gb mode
  | ttr td ta => exact execTtr_wf td ta
  | tiota td ta gb sat rnd => exact execTiota_wf td ta gb sat rnd
  | trnd td ta gb mode sat rnd => exact execTrnd_wf td ta gb mode sat rnd
  | mma a t w q => exact execMma_wf a t w q
  | mmaz a t w q => exact execMmaz_wf a t w q
  | accz a mode => exact execAccz_wf a mode
  | drain a t gs q h he sat rnd => exact execDrain_wf a t gs q h he sat rnd
  | hstrd t h => exact execHstrd_wf t h
  | hstclr h => exact execHstclr_wf h
  | xnop => exact execXnop_wf
  | markTableClear core => exact execMarkTableClear_wf core
  | homeRead ix => exact execHomeRead_wf ix
  | hbmFill line => exact execHbmFill_wf line
  | fillArrival ix => exact execFillArrival_wf ix
  | storeRound ix => exact execStoreRound_wf ix
  | sharerUpdate ix => exact execSharerUpdate_wf ix
  | updateAck ix => exact execUpdateAck_wf ix
  | roundCommit ix => exact execRoundCommit_wf ix
  | storeDone ix => exact execStoreDone_wf ix
  | evictionNotice ix => exact execEvictionNotice_wf ix
  | gatherRequest ix => exact execGatherRequest_wf ix
  | gRecall ix => exact execGRecall_wf ix
  | gatheredCopy ix => exact execGatheredCopy_wf ix
  | wayRequest ix => exact execWayRequest_wf ix
  | amoAtHome ix => exact execAmoAtHome_wf ix
  | amoReply ix => exact execAmoReply_wf ix
  | scratchpadPortAccess ix => exact execScratchpadPortAccess_wf ix
  | hostAgentRequest ix => exact execHostAgentRequest_wf ix
  | hostCompletion ix r => exact execHostCompletion_wf ix r
  | peerAccess ix => exact execPeerAccess_wf ix
  | postedRefusal ix => exact execPostedRefusal_wf ix
  | machineCheckPosted core => exact execMachineCheckPosted_wf core
  | uLineAgeExpiry core line => exact execULineAgeExpiry_wf core line
  | carryFrameShift core => exact execCarryFrameShift_wf core
  | accessLockTimeout ix => exact execAccessLockTimeout_wf ix
  | requestPromotion ix => exact execRequestPromotion_wf ix
  | escapeChannelMove ix => exact execEscapeChannelMove_wf ix
  | sharedPointPromotion ix => exact execSharedPointPromotion_wf ix
  | copyMark job => exact execCopyMark_wf job
  | copyEngineWrite job line memErr => exact execCopyEngineWrite_wf job line memErr
  | copyCompletion job => exact execCopyCompletion_wf job
  | aredMatch k peerBuf peerBf16 => exact execAredMatch_wf k peerBuf peerBf16
  | aredChunk k chunk incoming => exact execAredChunk_wf k chunk incoming
  | aredCompletion k => exact execAredCompletion_wf k
  | retentionRequest ix => exact execRetentionRequest_wf ix
  | stcRequest ix => exact execStcRequest_wf ix
  | walkComplete ix => exact execWalkComplete_wf ix
  | atsCompletion k ans => exact execAtsCompletion_wf k ans
  | priResponse pset index pasid code => exact execPriResponse_wf pset index pasid code
  | atsInvalidation vf pasid base len => exact execAtsInvalidation_wf vf pasid base len
  | xlatiRemoval ix => exact execXlatiRemoval_wf ix
  | boundaryDrop ix cell port => exact execBoundaryDrop_wf ix cell port
  | messageArrival ix => exact execMessageArrival_wf ix
  | loftMove core task => exact execLoftMove_wf core task
  | sendRetry ix => exact execSendRetry_wf ix
  | mailboxOverflow core => exact execMailboxOverflow_wf core
  | taskArrival ix => exact execTaskArrival_wf ix
  | stealRequest ix => exact execStealRequest_wf ix
  | stealReply ix => exact execStealReply_wf ix
  | taskCompletionReport ix => exact execTaskCompletionReport_wf ix
  | episodeContribution ix => exact execEpisodeContribution_wf ix
  | qportWrite pset queue off value => exact execQportWrite_wf pset queue off value
  | dispatch pset => exact execDispatch_wf pset
  | preemptionSave core => exact execPreemptionSave_wf core
  | launchStart launch => exact execLaunchStart_wf launch
  | streamResume launch => exact execStreamResume_wf launch
  | lateRingAppend ix => exact execLateRingAppend_wf ix
  | sweep launch => exact execSweep_wf launch
  | launchEnd launch => exact execLaunchEnd_wf launch
  | lnchRequest ix => exact execLnchRequest_wf ix
  | lockRequest ix => exact execLockRequest_wf ix
  | lockLink ix => exact execLockLink_wf ix
  | handoff ix => exact execHandoff_wf ix
  | lockMoved ix => exact execLockMoved_wf ix
  | lockFree ix => exact execLockFree_wf ix
  | lockFreed ix => exact execLockFreed_wf ix
  | withdraw ix => exact execWithdraw_wf ix
  | lockPass ix => exact execLockPass_wf ix
  | withdrawRetry ix => exact execWithdrawRetry_wf ix
  | lockWaitTimeout core line => exact execLockWaitTimeout_wf core line
  | lockSaved ix => exact execLockSaved_wf ix
  | lockResume ix => exact execLockResume_wf ix
  | probeTimer core line => exact execProbeTimer_wf core line
  | probe ix => exact execProbe_wf ix
  | quiesce pset => exact execQuiesce_wf pset
  | quiesceComplete pset => exact execQuiesceComplete_wf pset
  | quiesceLimit pset => exact execQuiesceLimit_wf pset
  | flush pset => exact execFlush_wf pset
  | flushComplete pset => exact execFlushComplete_wf pset
  | paddockResume pset => exact execPaddockResume_wf pset
  | kill pset value => exact execKill_wf pset value
  | prictlWrite pset value => exact execPrictlWrite_wf pset value
  | loftctlWrite core value => exact execLoftctlWrite_wf core value
  | linkWindowWrite entry word value => exact execLinkWindowWrite_wf entry word value
  | linkWindowTable table => exact execLinkWindowTable_wf table
  | rrctlWrite pset value => exact execRrctlWrite_wf pset value
  | replayDiverge pset seg => exact execReplayDiverge_wf pset seg
  | haltreq core => exact execHaltreq_wf core
  | debugHalt core => exact execDebugHalt_wf core
  | debugResume core => exact execDebugResume_wf core
  | debugStep core => exact execDebugStep_wf core
  | traceSinkWrite core faulted => exact execTraceSinkWrite_wf core faulted
  | traceOverflow core => exact execTraceOverflow_wf core
  | registerWrite by_ pa value => exact execRegisterWrite_wf by_ pa value
  | scrub loc double => exact execScrub_wf loc double
  | coreLoss core => exact execCoreLoss_wf core
  | coreLossNiTimeout core => exact execCoreLossNiTimeout_wf core
  | ackTimeout line sharer => exact execAckTimeout_wf line sharer
  | machineCheckFenceOff core => exact execMachineCheckFenceOff_wf core
  | beatReplay cell port => exact execBeatReplay_wf cell port
  | meshLinkFailure cell port => exact execMeshLinkFailure_wf cell port
  | detourComputed cell port => exact execDetourComputed_wf cell port
  | ucieLaneLoss module => exact execUcieLaneLoss_wf module
  | ucieRetrainDone module ok => exact execUcieRetrainDone_wf module ok
  | dieWarmReset die => exact execDieWarmReset_wf die
  | dieReadmit die failed => exact execDieReadmit_wf die failed
  | powerControl quarter overCap => exact execPowerControl_wf quarter overCap
  | pwrctlCap value => exact execPwrctlCap_wf value
  | thermalThrottle quarter => exact execThermalThrottle_wf quarter
  | thermalShutdown => exact execThermalShutdown_wf
  | ageingReplan quarter raise limitHit => exact execAgeingReplan_wf quarter raise limitHit
  | cardReset => exact execCardReset_wf
  | perstDeassert => exact execPerstDeassert_wf
  | imageVerified slotA slotB => exact execImageVerified_wf slotA slotB
  | selfTestComplete failed => exact execSelfTestComplete_wf failed
  | configurationRequest => exact execConfigurationRequest_wf
  | feataccWrite value => exact execFeataccWrite_wf value
  | sahaxTraining peerId => exact execSahaxTraining_wf peerId
  | sahaxTrainTimeout => exact execSahaxTrainTimeout_wf
  | paddockActivation config => exact execPaddockActivation_wf config
  | hostBar2Access vf off size write => exact execHostBar2Access_wf vf off size write
  | sahaxFlit seq ack bad body => exact execSahaxFlit_wf seq ack bad body
  | sahaxNak seq => exact execSahaxNak_wf seq
  | sahaxLinkLoss => exact execSahaxLinkLoss_wf
  | sahaxRetrainAttempt peerId => exact execSahaxRetrainAttempt_wf peerId
  | sahaxRetrainComplete => exact execSahaxRetrainComplete_wf
  | hbmWriteComplete ix => exact execHbmWriteComplete_wf ix
  | _ => exact execRecall_wf _
/-- A step that answers a next state named no instruction that has a word. -/
theorem agenda_of_step_next {s t : State} (h : step s = .next t) : ∀ i rest, s.agenda = .event i :: rest → encode i = none := by
  intro i rest ha
  simp only [step, ha, agendaMove] at h
  split at h
  · next hi => exact Option.isNone_iff_eq_none.mp hi
  · cases h
/-- A step moves, unless its agenda names an instruction that has a word. -/
theorem step_moves (s : State) (h : ∀ i rest, s.agenda = .event i :: rest → encode i = none) : Moves s (step s) := by
  unfold step
  split
  · next m rest hm =>
    obtain ⟨t, ht, hw⟩ := agendaMove_wf exec m (s := { s with agenda := rest }) exec_moves fun i hi => h i rest (hi ▸ hm)
    exact ⟨t, ht, hw⟩
  · split
    · exact turn_wf exec exec_moves
    · exact idleMove_wf exec exec_moves
/-- Settles O9: every function of the model answers a next state (`exec_moves`, `step_moves`). -/
theorem aStepNeverStops : Obligations.AStepNeverStops := by
  unfold Obligations.AStepNeverStops
  exact ⟨fun i s => (exec_moves i s).imp fun _ h => h.1, fun s h => (step_moves s h).imp fun _ h => h.1⟩

/-- Settles O10: a step that answers a next state is one of `step_moves`, which keeps memory canonical. -/
theorem everyStepKeepsMemoryCanonical : Obligations.EveryStepKeepsMemoryCanonical := by
  unfold Obligations.EveryStepKeepsMemoryCanonical
  intro s t hs ht
  obtain ⟨u, hu, hw⟩ := step_moves s (agenda_of_step_next ht)
  cases hu.symm.trans ht
  exact hw hs

end Sys2Proof.Machine
end

section
/-! SUPPORT. Instructions on registers alone: what each writes, and the frame it keeps (02 R35, 04, 05). -/
namespace Sys2Proof.Machine

theorem ofInt_add_toInt (a b : Word) : BitVec.ofInt 64 (a.toInt + b.toInt) = a + b := by
  rw [BitVec.ofInt_add, BitVec.ofInt_toInt, BitVec.ofInt_toInt]

theorem ofInt_sub_toInt (a b : Word) : BitVec.ofInt 64 (a.toInt - b.toInt) = a - b := by
  rw [Int.sub_eq_add_neg, BitVec.ofInt_add, BitVec.ofInt_neg, BitVec.ofInt_toInt, BitVec.ofInt_toInt, BitVec.sub_eq_add_neg]

theorem ofInt_mul_toInt (a b : Word) : BitVec.ofInt 64 (a.toInt * b.toInt) = a * b := by
  rw [BitVec.ofInt_mul, BitVec.ofInt_toInt, BitVec.ofInt_toInt]

theorem mulHigh_eq (a b : Word) : BitVec.ofInt 64 ((a.toInt * b.toInt).fdiv (2 ^ 64)) = mulHigh a b := by
  rw [mulHigh, Int.fdiv_eq_ediv_of_nonneg _ (by decide)]

theorem mulHighU_eq (a b : Word) : ((a.setWidth 128 * b.setWidth 128) >>> 64).setWidth 64 = mulHighU a b := by
  apply BitVec.eq_of_toNat_eq
  have ha := a.isLt
  have hb := b.isLt
  have hab : a.toNat * b.toNat < 2 ^ 128 := by
    calc a.toNat * b.toNat < 2 ^ 64 * 2 ^ 64 := Nat.mul_lt_mul'' ha hb
      _ = 2 ^ 128 := by decide
  simp only [mulHighU, BitVec.toNat_setWidth, BitVec.toNat_ushiftRight, BitVec.toNat_mul, BitVec.toNat_ofNat, Nat.shiftRight_eq_div_pow]
  rw [Nat.mod_eq_of_lt (a := a.toNat) (by omega), Nat.mod_eq_of_lt (a := b.toNat) (by omega), Nat.mod_eq_of_lt hab]

theorem divSigned_eq (a b : Word) : (if b = 0 then BitVec.allOnes 64 else a.sdiv b) = divSigned a b := by
  simp only [divSigned, beq_iff_eq]
  split
  · rfl
  · apply BitVec.eq_of_toInt_eq
    rw [BitVec.toInt_sdiv, BitVec.toInt_ofInt]

theorem divUnsigned_eq (a b : Word) : (if b = 0 then BitVec.allOnes 64 else a / b) = divUnsigned a b := by
  simp only [divUnsigned, beq_iff_eq]
  split
  · rfl
  · exact BitVec.udiv_def

theorem remSigned_eq (a b : Word) : a.srem b = remSigned a b := by
  simp only [remSigned, beq_iff_eq]
  split
  · next h => subst h; exact BitVec.srem_zero
  · apply BitVec.eq_of_toInt_eq
    rw [BitVec.toInt_srem, BitVec.toInt_ofInt, ← BitVec.toInt_srem, BitVec.toInt_bmod_cancel]

theorem remUnsigned_eq (a b : Word) : a % b = remUnsigned a b := by
  simp only [remUnsigned, beq_iff_eq]
  split
  · next h => subst h; exact BitVec.umod_zero
  · exact BitVec.umod_def

theorem toNat_setWidth_six (b : Word) : (b.setWidth 6).toNat = shiftOf b := BitVec.toNat_setWidth ..

theorem oneIf_eq (p : Prop) [Decidable p] : oneIf p = boolWord (decide p) := by
  by_cases h : p <;> simp [oneIf, boolWord, h]

theorem ofInt_min_toInt (a b : Word) : BitVec.ofInt 64 (min a.toInt b.toInt) = if b.slt a then b else a := by
  by_cases h : b.toInt < a.toInt
  · rw [Int.min_eq_right (by omega), BitVec.ofInt_toInt, if_pos (by simpa [BitVec.slt] using h)]
  · rw [Int.min_eq_left (by omega), BitVec.ofInt_toInt, if_neg (by simpa [BitVec.slt] using h)]

theorem ofInt_max_toInt (a b : Word) : BitVec.ofInt 64 (max a.toInt b.toInt) = if a.slt b then b else a := by
  by_cases h : a.toInt < b.toInt
  · rw [Int.max_eq_right (by omega), BitVec.ofInt_toInt, if_pos (by simpa [BitVec.slt] using h)]
  · rw [Int.max_eq_left (by omega), BitVec.ofInt_toInt, if_neg (by simpa [BitVec.slt] using h)]

theorem ofNat_min_toNat (a b : Word) : BitVec.ofNat 64 (min a.toNat b.toNat) = if b.ult a then b else a := by
  by_cases h : b.toNat < a.toNat
  · rw [Nat.min_eq_right (by omega), BitVec.ofNat_toNat, BitVec.setWidth_eq, if_pos (by simpa [BitVec.ult] using h)]
  · rw [Nat.min_eq_left (by omega), BitVec.ofNat_toNat, BitVec.setWidth_eq, if_neg (by simpa [BitVec.ult] using h)]

theorem ofNat_max_toNat (a b : Word) : BitVec.ofNat 64 (max a.toNat b.toNat) = if a.ult b then b else a := by
  by_cases h : a.toNat < b.toNat
  · rw [Nat.max_eq_right (by omega), BitVec.ofNat_toNat, BitVec.setWidth_eq, if_pos (by simpa [BitVec.ult] using h)]
  · rw [Nat.max_eq_left (by omega), BitVec.ofNat_toNat, BitVec.setWidth_eq, if_neg (by simpa [BitVec.ult] using h)]

theorem ofInt_add_imm (a : Word) (imm : BitVec 12) : BitVec.ofInt 64 (a.toInt + imm.toInt) = a + imm.signExtend 64 := by
  rw [BitVec.ofInt_add, BitVec.ofInt_toInt]; rfl

theorem toInt_imm (imm : BitVec 12) : (imm.signExtend 64).toInt = imm.toInt := BitVec.toInt_signExtend_of_le (by decide)

theorem ofNat_and_imm (a : Word) (imm : BitVec 12) : BitVec.ofNat 64 (a.toNat &&& imm.toNat) = a &&& imm.zeroExtend 64 := by
  simp [BitVec.ofNat_and]

theorem ofNat_or_imm (a : Word) (imm : BitVec 12) : BitVec.ofNat 64 (a.toNat ||| imm.toNat) = a ||| imm.zeroExtend 64 := by
  simp [BitVec.ofNat_or]

theorem ofNat_xor_imm (a : Word) (imm : BitVec 12) : BitVec.ofNat 64 (a.toNat ^^^ imm.toNat) = a ^^^ imm.zeroExtend 64 := by
  simp [BitVec.ofNat_xor]

theorem ofNat_mul_pow (a : Word) (n : Nat) : BitVec.ofNat 64 (a.toNat * 2 ^ n) = a <<< n := by
  apply BitVec.eq_of_toNat_eq
  rw [BitVec.toNat_shiftLeft, Nat.shiftLeft_eq, BitVec.toNat_ofNat]

theorem ofNat_div_pow (a : Word) (n : Nat) : BitVec.ofNat 64 (a.toNat / 2 ^ n) = a >>> n := by
  apply BitVec.eq_of_toNat_eq
  rw [BitVec.toNat_ushiftRight, Nat.shiftRight_eq_div_pow, BitVec.toNat_ofNat, Nat.mod_eq_of_lt (Nat.lt_of_le_of_lt (Nat.div_le_self _ _) a.isLt)]

theorem ofInt_fdiv_pow (a : Word) (n : Nat) : BitVec.ofInt 64 (a.toInt.fdiv (2 ^ n)) = a.sshiftRight n := by
  rw [BitVec.sshiftRight, Int.shiftRight_eq_div_pow, Int.fdiv_eq_ediv_of_nonneg _ (Int.pow_nonneg (by decide))]
  norm_cast

theorem ofInt_mul_4096 (imm : BitVec 20) : BitVec.ofInt 64 (imm.toInt * 4096) = imm.signExtend 64 <<< 12 := by
  rw [BitVec.ofInt_mul, BitVec.shiftLeft_eq_mul_twoPow]; rfl

/-- Each integer form of the tables runs as the write of its tabled result (R138 to R141). -/
theorem exec_of_integerResult {i : Instr} {s : State} {gd : GReg} {v : Word} (h : integerResult s.me i = some (gd, v)) :
    exec i s = retireWith s gd v := by
  cases i <;> simp only [integerResult, reduceCtorEq, Option.some.injEq, Prod.mk.injEq] at h <;> obtain ⟨rfl, rfl⟩ := h
  case add => rw [ofInt_add_toInt]; rfl
  case sub => rw [ofInt_sub_toInt]; rfl
  case mul => rw [ofInt_mul_toInt]; rfl
  case mulh => rw [mulHigh_eq]; rfl
  case mulhu => rw [mulHighU_eq]; rfl
  case div => rw [divSigned_eq]; rfl
  case divu => rw [divUnsigned_eq]; rfl
  case rem => rw [remSigned_eq]; rfl
  case remu => rw [remUnsigned_eq]; rfl
  case and => rfl
  case or => rfl
  case xor => rfl
  case sll => rw [BitVec.shiftLeft_eq', toNat_setWidth_six]; rfl
  case srl => rw [BitVec.ushiftRight_eq', toNat_setWidth_six]; rfl
  case sra => rw [BitVec.sshiftRight', toNat_setWidth_six]; rfl
  case slt => rw [oneIf_eq]; rfl
  case sltu => rw [oneIf_eq]; rfl
  case min => rw [ofInt_min_toInt]; rfl
  case max => rw [ofInt_max_toInt]; rfl
  case minu => rw [ofNat_min_toNat]; rfl
  case maxu => rw [ofNat_max_toNat]; rfl
  case sel ga gb gc =>
    show retireWith s _ (if s.me.reg gc != 0 then s.me.reg ga else s.me.reg gb) = _
    congr 1
    by_cases h : s.me.reg gc = 0 <;> simp [h]
  case addi => rw [ofInt_add_imm]; rfl
  case slti => rw [oneIf_eq, ← toInt_imm]; rfl
  case andi => rw [ofNat_and_imm]; rfl
  case ori => rw [ofNat_or_imm]; rfl
  case xori => rw [ofNat_xor_imm]; rfl
  case slli => rw [ofNat_mul_pow]; rfl
  case srli => rw [ofNat_div_pow]; rfl
  case srai => rw [ofInt_fdiv_pow]; rfl
  case lhi => rw [ofInt_mul_4096]; rfl

/-- Settles O12: each form writes its tabled result and retires. -/
theorem integerInstructionsCompute : Obligations.IntegerInstructionsCompute := by
  intro i s gd v h
  obtain ⟨t, hnext, hreg, hretired, hframe⟩ := retireWith_spec s gd v
  exact ⟨t, (exec_of_integerResult h).trans hnext, hreg, hretired, hframe⟩

/-- Settles O11, by evaluation of the state after reset. -/
theorem resetState : Obligations.ResetState := by
  unfold Obligations.ResetState
  refine ⟨rfl, rfl, rfl, rfl, rfl, by decide, rfl, rfl, by decide, rfl, rfl, fun r => ?_, by decide⟩
  exact Vector.getElem_replicate ..

/-- Settles O1, by evaluation of the decoder at the words. -/
theorem writtenWordsDecode : Obligations.WrittenWordsDecode := by
  have hall : (specWords.all fun p => decide ((decodeWord (fun _ => true) p.1).toOption = some p.2)) = true := by decide
  intro p hp
  have hok := of_decide_eq_true (List.all_eq_true.mp hall p hp)
  cases h : decodeWord (fun _ => true) p.1 with
  | error e => rw [h] at hok; cases hok
  | ok i => rw [h] at hok; exact congrArg Except.ok (Option.some.inj hok)

theorem leadingZeros_counts (a : Word) : CountsLeading a (BitVec.ofNat 64 (leadingZeros a)) := by
  unfold CountsLeading leadingZeros
  by_cases h : a = 0
  · simp [h]
  have hnat : a.toNat ≠ 0 := fun hz => h (BitVec.eq_of_toNat_eq hz)
  have hlog : a.toNat.log2 < 64 := (Nat.log2_lt hnat).mpr a.isLt
  rw [if_neg h, if_neg (by simpa using h)]
  refine ⟨63 - a.toNat.log2, rfl, by omega, ?_, fun j hj => ?_⟩
  · rw [show 63 - (63 - a.toNat.log2) = a.toNat.log2 by omega]
    exact Nat.testBit_log2 hnat
  · exact Nat.testBit_lt_two_pow (Nat.lt_of_lt_of_le Nat.lt_log2_self (Nat.pow_le_pow_right (by decide) (by omega)))

theorem trailingZeros_zero (n : Nat) : trailingZeros n 0 = n := by
  induction n with
  | zero => rfl
  | succ n ih => simp [trailingZeros, ih]

theorem trailingZeros_spec {n v : Nat} (hv : v ≠ 0) (hlt : v < 2 ^ n) :
    trailingZeros n v < n ∧ v.testBit (trailingZeros n v) = true ∧ ∀ j, j < trailingZeros n v → v.testBit j = false := by
  induction n generalizing v with
  | zero => omega
  | succ n ih =>
    by_cases hodd : v % 2 = 1
    · simp [trailingZeros, hodd, Nat.testBit_zero]
    · have hhalf : v / 2 ≠ 0 := by omega
      obtain ⟨hlt', hbit, hbelow⟩ := ih hhalf (by rw [Nat.pow_succ] at hlt; omega)
      simp only [trailingZeros, beq_iff_eq, hodd, if_false]
      refine ⟨by omega, by rwa [Nat.testBit_succ], fun j hj => ?_⟩
      cases j with
      | zero => simpa [Nat.testBit_zero] using hodd
      | succ j => rw [Nat.testBit_succ]; exact hbelow j (by omega)

theorem trailingZeros_counts (a : Word) : CountsTrailing a (BitVec.ofNat 64 (trailingZeros 64 a.toNat)) := by
  unfold CountsTrailing
  by_cases h : a = 0
  · rw [if_pos h, h]; exact congrArg _ (trailingZeros_zero 64)
  obtain ⟨hlt, hbit, hbelow⟩ := trailingZeros_spec (fun hz => h (BitVec.eq_of_toNat_eq hz)) a.isLt
  rw [if_neg h]
  exact ⟨_, rfl, hlt, hbit, hbelow⟩

theorem popCount_eq_countP (n v : Nat) : popCount n v = (List.range n).countP fun j => v.testBit j := by
  induction n generalizing v with
  | zero => rfl
  | succ n ih =>
    rw [List.range_succ_eq_map, List.countP_cons, List.countP_map, popCount, ih]
    have hmod : v % 2 = if v.testBit 0 then 1 else 0 := by
      rw [Nat.testBit_zero]; rcases Nat.mod_two_eq_zero_or_one v with h | h <;> simp [h]
    rw [hmod, Nat.add_comm]
    simp [Function.comp_def, Nat.testBit_succ]

theorem popCount_counts (a : Word) : CountsOnes a (BitVec.ofNat 64 (popCount 64 a.toNat)) := congrArg _ (popCount_eq_countP 64 a.toNat)

theorem bitOf_false (a : Word) (k : Nat) : bitOf a k false = a.getLsbD k := by
  unfold bitOf
  split
  · rfl
  · exact (BitVec.getLsbD_of_ge a k (by omega)).symm

theorem fieldZero_bits (a : Word) (pos width : Nat) : IsFieldZero a (fieldZero a pos width) pos width := by
  intro j hj
  rw [bitOf_false, fieldZero, getBits, BitVec.getLsbD_ofNat, Nat.testBit_mod_two_pow, Nat.testBit_shiftRight]
  simp [hj, BitVec.getLsbD]

theorem signedOf_emod (width : Nat) (h : width ≠ 0) (z : Int) : signedOf width (z % 2 ^ width).toNat = (BitVec.ofInt width z).toInt := by
  have hnn : 0 ≤ z % 2 ^ width := Int.emod_nonneg _ (Int.ne_of_gt (Int.pow_pos (by decide)))
  have hlt : (z % 2 ^ width).toNat < 2 ^ width := by
    rw [Int.toNat_lt hnn, Int.natCast_pow]
    exact Int.emod_lt_of_pos z (Int.pow_pos (by decide))
  have htwo : 2 ^ width = 2 * 2 ^ (width - 1) := by rw [← Nat.pow_succ', Nat.succ_eq_add_one, Nat.sub_add_cancel (by omega)]
  have hnat : (BitVec.ofInt width z).toNat = (z % 2 ^ width).toNat := by rw [BitVec.toNat_ofInt]; norm_cast
  rw [signedOf, Nat.mod_eq_of_lt hlt, BitVec.toInt, hnat]
  by_cases hhalf : (z % 2 ^ width).toNat < 2 ^ (width - 1)
  · rw [if_pos hhalf, if_pos (by omega)]
  · rw [if_neg hhalf, if_neg (by omega)]

theorem fieldSigned_eq (a : Word) (pos width : Nat) (h : width ≠ 0) :
    fieldSigned a pos width = ((a.sshiftRight pos).signExtend width).signExtend 64 := by
  have hshift : a.toInt / 2 ^ pos = (a.sshiftRight pos).toInt := by
    rw [BitVec.toInt_sshiftRight, Int.shiftRight_eq_div_pow]; norm_cast
  simp only [fieldSigned, beq_iff_eq, h, if_false, signedOf_emod width h, hshift]
  rfl

theorem fieldSigned_bits (a : Word) (pos width : Nat) : IsFieldSigned a (fieldSigned a pos width) pos width := by
  intro j hj
  by_cases h : width = 0
  · simp [h, fieldSigned]
  have hmsb : a.msb = a.getLsbD 63 := BitVec.msb_eq_getLsbD_last a
  rw [fieldSigned_eq a pos width h]
  simp only [BitVec.getLsbD_signExtend, BitVec.msb_signExtend, BitVec.getLsbD_sshiftRight, BitVec.msb_sshiftRight, bitOf, ← hmsb]
  by_cases hjw : j < width
  · grind
  · grind

theorem testBit_setBits (x lo n v j : Nat) :
    (setBits x lo n v).testBit j = if lo ≤ j ∧ j < lo + n then v.testBit (j - lo) else x.testBit j := by
  have hx : x = 2 ^ lo * (2 ^ n * (x / 2 ^ lo / 2 ^ n) + x / 2 ^ lo % 2 ^ n) + x % 2 ^ lo := by
    rw [Nat.div_add_mod, Nat.div_add_mod]
  have hset : setBits x lo n v = 2 ^ lo * (2 ^ n * (x / 2 ^ lo / 2 ^ n) + v % 2 ^ n) + x % 2 ^ lo := by
    simp only [setBits, getBits, Nat.shiftRight_eq_div_pow, Nat.shiftLeft_eq]
    generalize x / 2 ^ lo / 2 ^ n = q at hx ⊢
    generalize x / 2 ^ lo % 2 ^ n = g at hx ⊢
    conv => lhs; rw [hx]
    generalize x % 2 ^ lo = r
    rw [Nat.mul_add, Nat.mul_add, Nat.mul_comm g]
    generalize 2 ^ lo * (2 ^ n * q) = y
    rw [Nat.mul_comm (v % 2 ^ n)]
    omega
  conv => rhs; rw [hx]
  rw [hset, Nat.testBit_two_pow_mul_add _ (Nat.mod_lt _ (Nat.two_pow_pos _)), Nat.testBit_two_pow_mul_add _ (Nat.mod_lt _ (Nat.two_pow_pos _)),
    Nat.testBit_two_pow_mul_add _ (Nat.mod_lt _ (Nat.two_pow_pos _)), Nat.testBit_two_pow_mul_add _ (Nat.mod_lt _ (Nat.two_pow_pos _))]
  by_cases hlo : j < lo
  · simp [hlo, Nat.not_le.mpr hlo]
  · by_cases hn : j - lo < n
    · have : lo ≤ j ∧ j < lo + n := by omega
      simp [hlo, hn, this, Nat.testBit_mod_two_pow]
    · have : ¬(lo ≤ j ∧ j < lo + n) := by omega
      simp [hlo, hn, this]

theorem fieldInsert_bits (old a : Word) (pos width : Nat) : IsFieldInsert old a (fieldInsert old a pos width) pos width := by
  intro j hj
  rw [fieldInsert, BitVec.getLsbD_ofNat, testBit_setBits]
  have hrange : (pos ≤ j ∧ j < pos + min width (64 - pos)) ↔ (pos ≤ j ∧ j < pos + width) := by omega
  simp only [hj, decide_true, Bool.true_and, hrange]
  rfl

theorem retireWith_writes {i : Instr} {s : State} {gd : GReg} {v : Word} {p : Word → Prop} (h : exec i s = retireWith s gd v) (hp : p v) :
    ∃ t v, exec i s = .next t ∧ p v ∧ t.me.reg gd = held gd v ∧ Retired s t ∧ Frame { g := [gd] } s t := by
  obtain ⟨t, hnext, hreg, hretired, hframe⟩ := retireWith_spec s gd v
  exact ⟨t, v, h.trans hnext, hp, hreg, hretired, hframe⟩

/-- Settles O13, by the bits of each value that is written. -/
theorem bitCountsAndFieldsCompute : Obligations.BitCountsAndFieldsCompute := by
  intro s gd ga pos width
  exact ⟨retireWith_writes rfl (leadingZeros_counts _), retireWith_writes rfl (trailingZeros_counts _),
    retireWith_writes rfl (popCount_counts _), retireWith_writes rfl (fieldZero_bits _ _ _),
    retireWith_writes rfl (fieldSigned_bits _ _ _), retireWith_writes rfl (fieldInsert_bits _ _ _ _)⟩

/-- Frames of one footprint follow one another. -/
theorem SameCore.follow {f : Footprint} {c d e : Core} (h : SameCore f c d) (h' : SameCore f d e) : SameCore f c e where
  g r hr := (h'.g r hr).trans (h.g r hr)
  t r hr := (h'.t r hr).trans (h.t r hr)
  a r hr := (h'.a r hr).trans (h.a r hr)
  w r hr := (h'.w r hr).trans (h.w r hr)
  h r hr := (h'.h r hr).trans (h.h r hr)
  m r hr := (h'.m r hr).trans (h.m r hr)
  flags hf := (h'.flags hf).trans (h.flags hf)
  gen hf := (h'.gen hf).trans (h.gen hf)
  brand hf := by
    obtain ⟨h1, h2, h3⟩ := h.brand hf
    obtain ⟨h1', h2', h3'⟩ := h'.brand hf
    exact ⟨h1'.trans h1, h2'.trans h2, h3'.trans h3⟩
  trap hf := by
    obtain ⟨h1, h2, h3, h4, h5⟩ := h.trap hf
    obtain ⟨h1', h2', h3', h4', h5'⟩ := h'.trap hf
    exact ⟨h1'.trans h1, h2'.trans h2, h3'.trans h3, h4'.trans h4, h5'.trans h5⟩
  sys hf := by
    obtain ⟨h1, h2, h3⟩ := h.sys hf
    obtain ⟨h1', h2', h3'⟩ := h'.sys hf
    exact ⟨h1'.trans h1, h2'.trans h2, h3'.trans h3⟩
  cwin := h'.cwin.trans h.cwin
  genNum := h'.genNum.trans h.genNum
  paddock := h'.paddock.trans h.paddock

/-- A frame that names nothing is one of every footprint. -/
theorem SameCore.widen {c d : Core} (h : SameCore {} c d) (f : Footprint) : SameCore f c d := h.trans (SameCore.refl f d)

theorem Frame.widen {s t : State} (h : Frame {} s t) (f : Footprint) : Frame f s t := h.trans (Frame.refl f t)

theorem Frame.follow {f : Footprint} {s t u : State} (h : Frame f s t) (h' : Frame f t u) : Frame f s u where
  me := h.me.follow h'.me
  id := h'.id.trans h.id
  others k hk := (h.others k hk).follow (h'.others k (by rw [h.id]; exact hk))
  mem x hx := (h'.mem x hx).trans (h.mem x hx)

/-- Registers of the moving core written within a footprint, and nothing else of the machine: what an instruction does before it retires. -/
structure Writes (f : Footprint) (s u : State) : Prop where
  same : SameCore f s.me u.me
  id : u.me.id = s.me.id
  npc : u.me.npc = s.me.npc
  count : u.me.nBundles = s.me.nBundles
  cores : u.cores = s.cores
  mem : u.mem = s.mem

theorem Writes.refl (f : Footprint) (s : State) : Writes f s s := ⟨SameCore.refl f _, rfl, rfl, rfl, rfl, rfl⟩

/-- A write to one of the core's registers after others. -/
theorem Writes.onMe {f : Footprint} {s u : State} (h : Writes f s u) {k : Core → Core} (hk : SameCore f u.me (k u.me)) (hid : (k u.me).id = u.me.id)
    (hnpc : (k u.me).npc = u.me.npc) (hcount : (k u.me).nBundles = u.me.nBundles) : Writes f s (u.onMe k) :=
  ⟨h.same.follow hk, hid.trans h.id, hnpc.trans h.npc, hcount.trans h.count, h.cores, h.mem⟩

theorem Writes.setG {f : Footprint} {s u : State} (h : Writes f s u) {r : GReg} (hr : r ∈ f.g) (v : Word) : Writes f s (u.setG r v) := by
  have hsame : SameCore f u.me (u.me.setReg r v) := by
    constructor
    case g => exact fun q hq => by rw [Core.reg_setReg, if_neg fun (e : q = r ∧ r ≠ 0) => hq (e.1 ▸ hr)]
    all_goals intros; simp only [Core.setReg]; split <;> simp [Core.brhits]
  refine Writes.onMe (k := fun c => c.setReg r v) h hsame ?_ ?_ ?_ <;> (simp only [Core.setReg]; split <;> rfl)

theorem Writes.setT {f : Footprint} {s u : State} (h : Writes f s u) {r : TReg} (hr : r ∈ f.t) (x : Tile) : Writes f s (u.setT r x) := by
  refine Writes.onMe h ?_ rfl rfl rfl
  constructor
  case t => exact fun q hq => Vector.getElem_set_ne r.isLt q.isLt (fun e => hq (Fin.ext e ▸ hr))
  all_goals intros; simp [Core.reg, Core.brhits]

theorem Writes.setA {f : Footprint} {s u : State} (h : Writes f s u) {r : AReg} (hr : r ∈ f.a) (x : Acc) : Writes f s (u.setA r x) := by
  refine Writes.onMe h ?_ rfl rfl rfl
  constructor
  case a => exact fun q hq => Vector.getElem_set_ne r.isLt q.isLt (fun e => hq (Fin.ext e ▸ hr))
  all_goals intros; simp [Core.reg, Core.brhits]

theorem Writes.setW {f : Footprint} {s u : State} (h : Writes f s u) {r : TReg} (hr : r ∈ f.w) (x : Slot) : Writes f s (u.setW r x) := by
  refine Writes.onMe h ?_ rfl rfl rfl
  constructor
  case w => exact fun q hq => Vector.getElem_set_ne r.isLt q.isLt (fun e => hq (Fin.ext e ▸ hr))
  all_goals intros; simp [Core.reg, Core.brhits]

theorem Writes.setH {f : Footprint} {s u : State} (h : Writes f s u) {r : AReg} (hr : r ∈ f.h) (x : Bank) : Writes f s (u.setH r x) := by
  refine Writes.onMe h ?_ rfl rfl rfl
  constructor
  case h => exact fun q hq => Vector.getElem_set_ne r.isLt q.isLt (fun e => hq (Fin.ext e ▸ hr))
  all_goals intros; simp [Core.reg, Core.brhits]

theorem Writes.addFlags {f : Footprint} {s u : State} (h : Writes f s u) (hf : f.flags = true) (x : Flags) : Writes f s (u.addFlags x) := by
  refine Writes.onMe (k := fun c => { c with vstat := c.vstat ||| x }) h ?_ rfl rfl rfl
  constructor <;> intros <;> simp_all [Core.reg, Core.brhits]

theorem Writes.setGen {f : Footprint} {s u : State} (h : Writes f s u) (hf : f.gen = true) (g : GenState) :
    Writes f s (u.onMe fun c => { c with gen := g }) := by
  refine Writes.onMe h ?_ rfl rfl rfl
  constructor <;> intros <;> simp_all [Core.reg, Core.brhits]

theorem Writes.frame {f : Footprint} {s u : State} (h : Writes f s u) : Frame f s u :=
  Frame.of_me h.same h.id h.cores h.mem

theorem Writes.retired {f : Footprint} {s u : State} (h : Writes f s u) : Retired s u.retire :=
  ⟨h.npc, rfl, congrArg (· + 1) h.count⟩

theorem Writes.retire_frame {f : Footprint} {s u : State} (h : Writes f s u) : Frame f s u.retire :=
  h.frame.follow (u.retire_frame.widen f)

/-- An instruction that retires after register writes. -/
theorem Writes.retires {f : Footprint} {s u : State} (h : Writes f s u) : Retired s u.retire ∧ Frame f s u.retire := ⟨h.retired, h.retire_frame⟩

theorem setG_retire_reg (u : State) (gd : GReg) (v : Word) : (u.setG gd v).retire.me.reg gd = held gd v := Core.reg_setReg_self ..

/-- What a scalar float instruction leaves: its result in gd, its flags, the generator after its draw (R143). -/
theorem writeDelivered_spec (s : State) (gd : GReg) (g : GenState) (r : Nat × Flags) :
    let t := (writeDelivered (s.onMe fun c => { c with gen := g }) gd r).retire
    t.me.reg gd = held gd (BitVec.ofNat 64 r.1) ∧ t.me.vstat = s.me.vstat ||| r.2 ∧ t.me.gen = g ∧ Retired s t ∧
      Frame { g := [gd], flags := true, gen := true } s t := by
  have hw : Writes { g := [gd], flags := true, gen := true } s (writeDelivered (s.onMe fun c => { c with gen := g }) gd r) :=
    (((Writes.refl _ s).setGen rfl g).setG (by simp) _).addFlags rfl _
  refine ⟨Core.reg_setReg_self .., ?_, ?_, hw.retires⟩ <;>
    by_cases h : gd = 0 <;> simp [writeDelivered, State.addFlags, State.retire, Core.retire, Core.squash, Core.setReg, h]

theorem scalarDraw_eq (rnd : Rnd) (g : GenState) : scalarDraw rnd g = oneDraw rnd g := by
  cases rnd <;> rfl

theorem exec_of_floatResult {i : Instr} {s : State} {gd : GReg} {rnd : Rnd} {x : Ex} {f : Flags} (h : floatResult s.me i = some (gd, rnd, x, f)) :
    exec i s = fpWith gd rnd (x, f) s := by
  cases i <;> simp only [floatResult, reduceCtorEq, Option.some.injEq, Prod.mk.injEq] at h <;> obtain ⟨rfl, rfl, hx⟩ := h
  case fadd => rw [← hx]; rfl
  case fsub => rw [← hx]; rfl
  case fmul => rw [← hx]; rfl
  case fcvtif => obtain ⟨rfl, rfl⟩ := hx; rfl
  case ffma => obtain ⟨rfl, rfl⟩ := hx; rfl

/-- Settles O15: the five forms deliver their exact result through `fpWith`. -/
theorem scalarFloatArithmeticRoundsOnce : Obligations.ScalarFloatArithmeticRoundsOnce := by
  intro i s gd rnd x f h d r
  have hspec := writeDelivered_spec s gd (scalarDraw rnd s.me.gen).2 (deliverFp32 rnd (scalarDraw rnd s.me.gen).1 (x, f))
  rw [scalarDraw_eq] at hspec
  refine ⟨_, (exec_of_floatResult h).trans ?_, hspec⟩
  rw [fpWith, scalarDraw_eq]

theorem signExtend_of_signedOf (n : Nat) : BitVec.ofNat 64 (BitVec.ofInt 64 (signedOf 32 n)).toNat = (BitVec.ofNat 32 n).signExtend 64 := by
  rw [BitVec.ofNat_toNat, BitVec.setWidth_eq, BitVec.signExtend]
  congr 1
  rw [signedOf, BitVec.toInt, BitVec.toNat_ofNat]
  by_cases h : n % 2 ^ 32 < 2 ^ (32 - 1)
  · rw [if_pos h, if_pos (by omega)]
  · rw [if_neg h, if_neg (by omega)]

/-- Settles O16: three forms write a chosen word, the fourth delivers an INT32. -/
theorem scalarFloatSelectCompareConvert : Obligations.ScalarFloatSelectCompareConvert := by
  intro s gd ga gb cond rnd a b d r
  refine ⟨?_, ?_, ?_, ?_⟩
  · exact retireWith_spec s gd _
  · exact retireWith_spec s gd _
  · obtain ⟨t, ht, hreg, hrest⟩ := retireWith_spec s gd (if condHolds cond (fp32Of (s.g ga)) (fp32Of (s.g gb)) then 1 else 0)
    exact ⟨t, ht, hreg, hrest⟩
  · have hspec := writeDelivered_spec s gd d.2 ((BitVec.ofInt 64 (signedOf 32 r.1)).toNat, r.2)
    simp only [signExtend_of_signedOf] at hspec
    refine ⟨_, ?_, hspec⟩
    show execFcvtfi gd ga rnd s = _
    rw [execFcvtfi, scalarDraw_eq]
    rfl

theorem getElem_setT (u : State) (td : TReg) (x : Tile) : (u.setT td x).me.t[td] = x := Vector.getElem_set_self ..

theorem tileResult_ok (s : State) (td : TReg) (x : Tile) (f : Flags) (g : GenState) :
    ∃ t, tileResult td (.ok (x, f, g)) s = .next t ∧ t.me.t[td] = x ∧ t.me.vstat = s.me.vstat ||| f ∧ t.me.gen = g ∧ Retired s t ∧
      Frame { t := [td], flags := true, gen := true } s t := by
  have hw : Writes { t := [td], flags := true, gen := true } s (((s.setT td x).addFlags f).onMe fun c => { c with gen := g }) :=
    (((Writes.refl _ s).setT (by simp) x).addFlags rfl f).setGen rfl g
  exact ⟨_, rfl, getElem_setT s td x, rfl, rfl, hw.retires⟩

theorem finish_trap {s : State} (h : s.me.inTrap = false) (k : Trap) : ∃ t, finish (.trap s k) = .next t ∧ Trapped k s.me.pc s t :=
  ⟨_, rfl, State.takeTrap_trapped (.inl h) k s.me.pc⟩

theorem exec_of_tileOutcome {i : Instr} {s : State} {td : TReg} {r : Except TileFault (Tile × Flags × GenState)}
    (h : tileOutcome s.me i = some (td, r)) : exec i s = tileResult td r s := by
  cases i <;> simp only [tileOutcome, reduceCtorEq, Option.some.injEq, Prod.mk.injEq] at h <;> obtain ⟨rfl, rfl⟩ := h <;> rfl

/-- Settles O18: each form delivers its tile, flags and generator, or traps on a tile operand. -/
theorem tileInstructionsDeliver : Obligations.TileInstructionsDeliver := by
  intro i s td
  refine ⟨fun x f g h => ?_, fun k h hs => ?_⟩
  · rw [exec_of_tileOutcome h]
    exact tileResult_ok s td x f g
  · rw [exec_of_tileOutcome h]
    exact finish_trap hs _

theorem tileInto_ok (s : State) (td : TReg) (x : Tile) :
    ∃ t, tileInto td (.ok x) s = .next t ∧ t.me.t[td] = x ∧ Retired s t ∧ Frame { t := [td] } s t :=
  ⟨_, rfl, getElem_setT s td x, ((Writes.refl _ s).setT (by simp) x).retires⟩

theorem exec_of_tileChosen {i : Instr} {s : State} {td : TReg} {r : Except TileFault Tile}
    (h : tileChosen (s.present s.me.id .q4blk) s.me i = some (td, r)) : exec i s = tileInto td r s := by
  cases i <;> simp only [tileChosen, reduceCtorEq, Option.some.injEq, Prod.mk.injEq] at h <;> obtain ⟨rfl, rfl⟩ := h
  case tshapeSet ta ga =>
    show execTshapeSet ta ga s = _
    unfold execTshapeSet
    show (match descOfWord (s.present s.me.id .q4blk) (s.me.reg ga) with | .ok d => _ | .error k => _) = _
    cases descOfWord (s.present s.me.id .q4blk) (s.me.reg ga) <;> rfl
  all_goals rfl

/-- Settles O19: each form leaves its tile, or traps on a tile operand. -/
theorem tileInstructionsSelectAndMove : Obligations.TileInstructionsSelectAndMove := by
  intro i s td
  refine ⟨fun x h => ?_, fun k h hs => ?_⟩
  · rw [exec_of_tileChosen h]
    exact tileInto_ok s td x
  · rw [exec_of_tileChosen h]
    exact finish_trap hs _

end Sys2Proof.Machine
end

section
/-! SUPPORT. The matrix engine, jumps, fetch, pairs, fences, system registers and the stream's end: what each leaves (02, 04, 05, 10, 16, 19). -/
namespace Sys2Proof.Machine

/-! ### The matrix engine, descriptors, slots and banks -/

theorem retire_me_fields (u : State) : u.retire.me.t = u.me.t ∧ u.retire.me.a = u.me.a ∧ u.retire.me.w = u.me.w ∧ u.retire.me.h = u.me.h ∧
    u.retire.me.vstat = u.me.vstat ∧ u.retire.me.gen = u.me.gen := ⟨rfl, rfl, rfl, rfl, rfl, rfl⟩

theorem getElem_setA (u : State) (a : AReg) (x : Acc) : (u.setA a x).me.a[a] = x := Vector.getElem_set_self ..

theorem getElem_setW (u : State) (w : TReg) (x : Slot) : (u.setW w x).me.w[w] = x := Vector.getElem_set_self ..

theorem getElem_setH (u : State) (h : AReg) (x : Bank) : (u.setH h x).me.h[h] = x := Vector.getElem_set_self ..

/-- The count of matrix steps is in no footprint. -/
theorem Writes.countMma {f : Footprint} {s u : State} (h : Writes f s u) (n : Nat) : Writes f s (u.onMe fun c => { c with nMma := n }) := by
  refine Writes.onMe (k := fun c => { c with nMma := n }) h ?_ rfl rfl rfl
  constructor <;> intros <;> simp [Core.reg, Core.brhits]

theorem matrixWith_ok {zero : Bool} {a : AReg} {t w : TReg} {q : Fin 4} {s : State} {x : Acc} {f : Flags}
    (h : matrixStep zero s.me.a[a] s.me.t[t] s.me.w[w] q.val = .ok (x, f)) :
    ∃ u, matrixWith zero a t w q s = .next u ∧ u.me.a[a] = x ∧ u.me.vstat = s.me.vstat ||| f ∧ Retired s u ∧ Frame { a := [a], flags := true } s u := by
  let u := ((s.setA a x).addFlags f).onMe fun c => { c with nMma := s.me.nMma + 1 }
  have hw : Writes { a := [a], flags := true } s u := (((Writes.refl _ s).setA (by simp) x).addFlags rfl f).countMma _
  refine ⟨u.retire, ?_, getElem_setA s a x, rfl, hw.retires⟩
  simp only [matrixWith, State.tile, h]
  rfl

theorem matrixWith_trap {zero : Bool} {a : AReg} {t w : TReg} {q : Fin 4} {s : State} {k : TileFault}
    (h : matrixStep zero s.me.a[a] s.me.t[t] s.me.w[w] q.val = .error k) (hs : s.me.inTrap = false) :
    ∃ u, matrixWith zero a t w q s = .next u ∧ Trapped (tileTrap k) s.me.pc s u := by
  simp only [matrixWith, State.tile, h]
  exact finish_trap hs _

theorem execAccz_writes (a : AReg) (mode : AccMode) (s : State) :
    ∃ u, execAccz a mode s = .next u ∧ u.me.a[a] = { data := 0, mode := mode } ∧ u.me.vstat = s.me.vstat ||| noFlags ∧ Retired s u ∧
      Frame { a := [a], flags := true } s u :=
  ⟨(s.setA a { data := 0, mode := mode }).retire, rfl, getElem_setA s a _, (BitVec.or_zero).symm, ((Writes.refl _ s).setA (by simp) _).retires⟩

theorem drainScale_eq (s : State) (gs : GReg) :
    drainScale s gs = if gs = 0 then .fin false 1 0 false else floatExact .fp32 ((s.me.reg gs).toNat % 2 ^ 32) := by
  by_cases h : gs = 0 <;> simp [drainScale, h, State.g] <;> rfl

theorem execDrain_ok {a : AReg} {td : TReg} {gs : GReg} {q : Fin 4} {h : AReg} {he sat : Bool} {rnd : Rnd} {s : State} {x : Tile} {f : Flags} {g : GenState}
    (hd : drainTile s.me.a[a] s.me.t[td] (drainScale s gs) q.val sat rnd s.me.gen = .ok (x, f, g)) :
    ∃ t, execDrain a td gs q h he sat rnd s = .next t ∧ t.me.t[td] = x ∧ t.me.vstat = s.me.vstat ||| f ∧ t.me.gen = g ∧
      t.me.h[h] = (if he then bankAfter s.me.h[h] x else s.me.h[h]) ∧ Retired s t ∧
      Frame { t := [td], h := [h], flags := true, gen := true } s t := by
  let u := ((s.setT td x).addFlags f).onMe fun c => { c with gen := g }
  have hw : Writes { t := [td], h := [h], flags := true, gen := true } s u :=
    (((Writes.refl _ s).setT (by simp) x).addFlags rfl f).setGen rfl g
  refine ⟨(if he then u.setH h (bankAfter s.me.h[h] x) else u).retire, by simp only [execDrain, State.tile, hd]; rfl, ?_⟩
  cases he with
  | false => exact ⟨getElem_setT s td x, rfl, rfl, rfl, hw.retires⟩
  | true => exact ⟨getElem_setT s td x, rfl, rfl, getElem_setH u h _, (hw.setH (by simp) _).retires⟩

theorem execDrain_trap {a : AReg} {td : TReg} {gs : GReg} {q : Fin 4} {h : AReg} {he sat : Bool} {rnd : Rnd} {s : State} {k : TileFault}
    (hd : drainTile s.me.a[a] s.me.t[td] (drainScale s gs) q.val sat rnd s.me.gen = .error k) (hs : s.me.inTrap = false) :
    ∃ t, execDrain a td gs q h he sat rnd s = .next t ∧ Trapped (tileTrap k) s.me.pc s t := by
  simp only [execDrain, State.tile, hd]
  exact finish_trap hs _

/-- Settles O21: by the form, and by what the step or the drain answers. -/
theorem matrixInstructionsAccumulateAndDrain : Obligations.MatrixInstructionsAccumulateAndDrain := by
  intro i s a td gs q h he sat rnd scale
  have hscale : scale = drainScale s gs := (drainScale_eq s gs).symm
  rw [hscale]
  refine ⟨fun x f hx => ?_, fun k hk hs => ?_, fun x f g hd => execDrain_ok hd, fun k hd hs => execDrain_trap hd hs⟩
  · cases i <;> simp only [matrixOutcome, reduceCtorEq, Option.some.injEq, Prod.mk.injEq] at hx <;> obtain ⟨rfl, hx⟩ := hx
    case mma => exact matrixWith_ok hx
    case mmaz => exact matrixWith_ok hx
    case accz b mode =>
      injection hx with hx
      injection hx with hx hf
      subst hx hf
      exact execAccz_writes b mode s
  · cases i <;> simp only [matrixOutcome, reduceCtorEq, Option.some.injEq, Prod.mk.injEq] at hk <;> obtain ⟨rfl, hk⟩ := hk
    case mma => exact matrixWith_trap hk hs
    case mmaz => exact matrixWith_trap hk hs
    case accz => cases hk

theorem execWldt_ok {w tb : TReg} {s : State} {x : Slot} (h : slotOfTile s.me.t[tb] = .ok x) :
    ∃ t, execWldt w tb s = .next t ∧ t.me.w[w] = x ∧ Retired s t ∧ Frame { w := [w] } s t := by
  refine ⟨(s.setW w x).retire, by simp only [execWldt, State.tile, h], getElem_setW s w x, ((Writes.refl _ s).setW (by simp) x).retires⟩

theorem execWldt_trap {w tb : TReg} {s : State} {k : TileFault} (h : slotOfTile s.me.t[tb] = .error k) (hs : s.me.inTrap = false) :
    ∃ t, execWldt w tb s = .next t ∧ Trapped (tileTrap k) s.me.pc s t := by
  simp only [execWldt, State.tile, h]
  exact finish_trap hs _

theorem retire_retires (s : State) : ∃ t, (.next s.retire : Result) = .next t ∧ Retired s t ∧ Frame {} s t := ⟨_, rfl, s.retire_retired, s.retire_frame⟩

/-- Settles O22, form by form. -/
theorem descriptorSlotBankAndNoOperation : Obligations.DescriptorSlotBankAndNoOperation := by
  intro s ta tb w gb h
  refine ⟨?_, fun x hx => execWldt_ok hx, fun k hk hs => execWldt_trap hk hs, ?_, retire_retires s, retire_retires s⟩
  · have hword : (s.me.t[ta]).desc.word =
        BitVec.ofNat 64 ((s.me.t[ta]).desc.rows + 2 ^ 8 * (s.me.t[ta]).desc.rb + 2 ^ 16 * (s.me.t[ta]).desc.fmt.code) := by
      rw [Desc.word, Nat.mul_comm (2 ^ 8), Nat.mul_comm (2 ^ 16)]
    rw [← hword]
    exact retireWith_spec s gb _
  · exact ⟨_, rfl, getElem_setH s h 0, ((Writes.refl _ s).setH (by simp) 0).retires⟩

/-! ### Jumps (R145) -/

theorem jalrTarget_eq (a : Word) (imm : BitVec 15) : BitVec.ofInt 64 (a.toInt + 4 * imm.toInt) = a + imm.signExtend 64 <<< 2 := by
  have h : BitVec.ofInt 64 (4 * imm.toInt) = imm.signExtend 64 <<< 2 := by
    rw [BitVec.shiftLeft_eq_mul_twoPow, BitVec.mul_comm, BitVec.ofInt_mul]
    congr 1
  rw [BitVec.ofInt_add, h, BitVec.ofInt_toInt]

/-- What a link leaves: the address after the bundle in gd, within the frame of gd. -/
theorem linkTo_writes (s : State) (gd : GReg) : Writes { g := [gd] } s (linkTo s gd) := by
  refine Writes.onMe (k := fun c => pushReturn c gd) ((Writes.refl _ s).setG (r := gd) (by simp) s.me.npc) ?_ ?_ ?_ ?_
  · constructor <;> intros <;> unfold pushReturn <;> split <;> simp [Core.reg, Core.brhits]
  all_goals unfold pushReturn; split <;> rfl

theorem pushReturn_g (c : Core) (gd : GReg) : (pushReturn c gd).g = c.g := by
  unfold pushReturn; split <;> rfl

theorem linkTo_reg (s : State) (gd : GReg) : (linkTo s gd).me.reg gd = held gd s.me.npc := by
  have h : (linkTo s gd).me.reg gd = (s.me.setReg gd s.me.npc).reg gd := by
    simp only [linkTo, State.setG, State.onMe, Core.reg, pushReturn_g]
  rw [h, Core.reg_setReg_self]
  rfl

theorem Writes.popReturn {f : Footprint} {s u : State} (h : Writes f s u) (gd : GReg) : Writes f s (u.onMe fun c => popReturn c gd) := by
  refine Writes.onMe (k := fun c => Machine.popReturn c gd) h ?_ rfl rfl rfl
  constructor <;> intros <;> simp [Machine.popReturn, Core.reg, Core.brhits]

/-- Trace bytes of the moving core leave every register as it was. -/
theorem Writes.emitAddr {f : Footprint} {s u : State} (h : Writes f s u) (reason : Nat) (va : Word) : Writes f s (u.emitAddr u.me.id reason va) := by
  obtain ⟨x, n, hx⟩ := u.emit_me (BitVec.ofNat 8 (0x10 + reason) :: bytesOf (va.toNat % 2 ^ 48) 6)
  rw [State.emitAddr, hx]
  have htrace : OnlyTrace u.me { u.me with trc := x } := rfl
  have hsame : SameCore f u.me { u.me with trc := x } := htrace.same.widen f
  exact ⟨h.same.follow hsame, h.id, h.npc, h.count, h.cores, h.mem⟩

theorem emitAddr_reg (u : State) (reason : Nat) (va : Word) (gd : GReg) : (u.emitAddr u.me.id reason va).me.reg gd = u.me.reg gd := by
  obtain ⟨x, n, hx⟩ := u.emit_me (BitVec.ofNat 8 (0x10 + reason) :: bytesOf (va.toNat % 2 ^ 48) 6)
  rw [State.emitAddr, hx]
  rfl

/-- What a form of jump does once its target has been accepted: a link where the form has one, and return-stack and trace notes. -/
def Linked (link : Option GReg) (s u : State) : Prop :=
  Writes { g := link.toList } s u ∧ ∀ gd, link = some gd → u.me.reg gd = held gd s.me.npc

theorem Linked.arrives {link : Option GReg} {s u : State} (h : Linked link s u) (a : Word) :
    ∃ t, (.next (u.retireTo a) : Result) = .next t ∧ ArrivesAt a s t ∧ (∀ gd, link = some gd → t.me.reg gd = held gd s.me.npc) ∧
      Frame { g := link.toList } s t := by
  obtain ⟨hw, hlink⟩ := h
  refine ⟨_, rfl, ⟨rfl, rfl, rfl, congrArg (· + 1) hw.count⟩, hlink, hw.frame.follow ((u.retireTo_frame a).widen _)⟩

/-- Each form of jump checks its target, then links and arrives. -/
theorem exec_of_jumpForm {i : Instr} {s : State} {a : Word} {link : Option GReg} (h : jumpForm s.me i = some (a, link)) :
    ∃ k : State → Word → State, exec i s = finishJump ((checkTarget s a).bind fun s a => .ok (k s a) a) ∧ ∀ s, Linked link s (k s a) := by
  cases i <;> simp only [jumpForm, reduceCtorEq, Option.some.injEq, Prod.mk.injEq] at h <;> obtain ⟨rfl, rfl⟩ := h
  case j off =>
    refine ⟨fun s _ => s, ?_, fun s => ⟨Writes.refl _ s, fun _ h => nomatch h⟩⟩
    rw [← branchTarget_eq]
    show finishJump _ = _
    congr 1
    cases checkTarget s (branchTarget s off) <;> rfl
  case jal gd off =>
    refine ⟨fun s _ => linkTo s gd, ?_, fun s => ⟨linkTo_writes s gd, fun r h => ?_⟩⟩
    · rw [← branchTarget_eq]; rfl
    · cases h; exact linkTo_reg s gd
  case jalr gd ga imm =>
    refine ⟨fun s a => ((linkTo s gd).onMe fun c => popReturn c gd).emitAddr s.me.id (jumpReason s.me a) a, ?_, fun s => ?_⟩
    · rw [jalrTarget_eq]; rfl
    · have hid : s.me.id = ((linkTo s gd).onMe fun c => popReturn c gd).me.id := ((linkTo_writes s gd).popReturn gd).id.symm
      show Linked (some gd) s (((linkTo s gd).onMe fun c => popReturn c gd).emitAddr s.me.id (jumpReason s.me _) _)
      rw [hid]
      refine ⟨((linkTo_writes s gd).popReturn gd).emitAddr _ _, fun r h => ?_⟩
      cases h
      rw [emitAddr_reg]
      exact linkTo_reg s gd

/-- Settles O24: by what the check of the target answers. -/
theorem jumpsLinkAndArrive : Obligations.JumpsLinkAndArrive := by
  intro i s a link hform
  obtain ⟨k, hexec, hk⟩ := exec_of_jumpForm hform
  rw [hexec]
  refine ⟨fun h s' hw => ?_, fun h s' hw hs => ?_, fun h hs => ?_⟩
  · rw [checkTarget_aligned h hw, if_neg (by decide), Ans.ok_bind]
    exact (hk s').arrives a
  · rw [checkTarget_aligned h hw, if_pos rfl, Ans.trap_bind]
    exact finishJump_trap hs _
  · rw [checkTarget_misaligned h, Ans.trap_bind]
    exact finishJump_trap hs _

/-! ### The bytes of a fetched word (R42) -/

/-- A byte of a little-endian read is the byte of memory at its place (R2). -/
theorem Memory.readN_byte (m : Memory) (a : Nat) {n k : Nat} (h : k < n) : m.readN a n / 256 ^ k % 256 = (m.read (a + k)).toNat := by
  obtain ⟨j, rfl⟩ : ∃ j, n = k + (j + 1) := ⟨n - k - 1, by omega⟩
  rw [Memory.readN_add, Nat.add_mul_div_left _ _ (Nat.pow_pos (by decide)), Nat.div_eq_of_lt (m.readN_lt a k), Nat.zero_add, Memory.readN]
  have := (m.read (a + k)).isLt
  omega

/-- The byte of a word that was read. -/
theorem extract_readN (m : Memory) (a w : Nat) {n k : Nat} (h : k < n) (hw : 8 * n ≤ w) :
    (BitVec.ofNat w (m.readN a n)).extractLsb' (8 * k) 8 = m.read (a + k) := by
  have hlt : m.readN a n < 2 ^ w :=
    calc m.readN a n < 256 ^ n := m.readN_lt a n
      _ = 2 ^ (8 * n) := by rw [show (256 : Nat) = 2 ^ 8 from rfl, ← Nat.pow_mul]
      _ ≤ 2 ^ w := Nat.pow_le_pow_right (by decide) hw
  apply BitVec.eq_of_toNat_eq
  rw [BitVec.extractLsb'_toNat, BitVec.toNat_ofNat, Nat.mod_eq_of_lt hlt, Nat.shiftRight_eq_div_pow, Nat.pow_mul]
  exact m.readN_byte a h

/-- A word of a line with no poison is not among the poisoned words. -/
theorem Clean.not_bad {s : State} {pa : Nat} (h : Clean s (pa / 128)) : s.badWords.contains (pa / 8) = false := by
  refine Bool.eq_false_iff.mpr fun hc => ?_
  have := h.1 _ (List.contains_iff_mem.mp hc)
  omega

/-- The page of an address that the core's own translation cache holds (R357). -/
theorem pageOf_hit {s : State} {va : Word} {x : Xlat} {acc : Access} {user : Bool} (h : s.me.ctc.find? (·.holds s.me.asid (va.toNat % 2 ^ 48)) = some x)
    (hp : x.permits acc user = true) : s.pageOf va acc user = .ok (s.onMe (·.fillCtc x)) (.ok x) := by
  simp only [State.pageOf, h, hp, if_true]

/-- Settles O5: the page is in the core's own cache, and the word is the four bytes there. -/
theorem fetchReadsFourBytes : Obligations.FetchReadsFourBytes := by
  intro s va x hlevel hsign hwindow hfind hpermits hphys hcode hclean
  let u := s.onMe (·.fillCtc x)
  let pa := x.pa + va.toNat % x.size
  have hplace : s.fetchPlace va = .ok u pa := by
    simp only [State.fetchPlace, beq_eq_false_iff_ne.mpr hlevel, hsign, bne_self_eq_false, hwindow, pageOf_hit hfind hpermits, Ans.ok_bind,
      hphys, Bool.false_eq_true, if_false]
    rfl
  have hbad : (u.badWords.contains (pa / 8) || u.lineCut (pa / 128)) = false := by
    rw [Bool.or_eq_false_iff]
    exact ⟨hclean.not_bad, hclean.2⟩
  have hlevel' : (u.me.level == 3) = false := beq_eq_false_iff_ne.mpr hlevel
  have hcode' : u.me.code.find? (·.1 == pa) = none := hcode
  refine ⟨BitVec.ofNat 32 (s.mem.readN pa 4), ?_, fun k hk => extract_readN s.mem pa 32 hk (by decide)⟩
  simp only [State.codeWord, hplace, Ans.ok_bind, hbad, hlevel', hcode', Bool.and_false, Bool.false_eq_true, if_false]
  rfl

/-! ### A lone word's step (R145) -/

theorem ready_of {s : State} (hrun : s.me.run = .running) (hres : s.me.res ≠ .waiting) : s.ready = true := by
  simp only [State.ready, hrun, beq_self_eq_true, Bool.true_and, bne_iff_ne]
  exact hres

theorem stateCheck_clean {s : State} (i : Instr) (h : s.me.poison = []) : stateCheck s i = none := by
  simp [stateCheck, poisonRead, h]

/-- A fetched lone word of a core with no poison runs as its instruction does (R18, R24). -/
theorem runFetched_word {s t : State} {i : Instr} (hpoison : s.me.poison = [])
    (hexec : exec i (s.onMe fun c => { c with npc := c.pc + 4 }) = .next t) :
    runFetched exec s i none = .next ((if t.me.res = .retired then t.onMe (·.wrote i) else t).onMe (·.keepBundle i none)) := by
  have hcheck : stateCheck (s.onMe fun c => { c with npc := c.pc + 4 }) i = none := stateCheck_clean i hpoison
  simp only [runFetched, Option.isSome_none, afterBundle, Bool.false_eq_true, if_false, hcheck, runWord, hexec, beq_iff_eq]

/-- Settles O7: nothing is due at the boundary, and the bundle that is fetched is one word. -/
theorem stepRunsTheDecodedWord : Obligations.StepRunsTheDecodedWord := by
  intro s s' t i hagenda hrun hres hboundary hhalt hbundle hbehind hfetch hpoison hexec
  have hrunBundle : runBundle exec s = .next ((if t.me.res = .retired then t.onMe (·.wrote i) else t).onMe (·.keepBundle i none)) := by
    rw [← runFetched_word hpoison hexec]
    simp only [runBundle, hbundle, awaitImage, hbehind, Bool.not_false, if_true, Ans.ok_bind, hfetch]
  simp only [step, hagenda, ready_of hrun hres, if_true, turn, hboundary, hhalt, Bool.false_and, Bool.false_eq_true, if_false, hrunBundle]

/-! ### A pair (R40) -/

/-- The named registers of one core put onto another: each register that is named, and no other. -/
structure Copied (d c : Core) (l : List Name) (r : Core) : Prop where
  g (x : GReg) : r.reg x = if .g x ∈ l then d.reg x else c.reg x
  t (x : TReg) : r.t[x] = if .t x ∈ l then d.t[x] else c.t[x]
  a (x : AReg) : r.a[x] = if .a x ∈ l then d.a[x] else c.a[x]
  w (x : TReg) : r.w[x] = if .w x ∈ l then d.w[x] else c.w[x]
  h (x : AReg) : r.h[x] = if .h x ∈ l then d.h[x] else c.h[x]
  pc : r.pc = c.pc
  run : r.run = c.run

theorem getElem_set_fin {α : Type} {n : Nat} (v : Vector α n) (i j : Fin n) (x : α) : (v.set i x)[j] = if j = i then x else v[j] := by
  simp only [Fin.getElem_fin, Vector.getElem_set, Fin.ext_iff, eq_comm]

theorem copyName_copied (d c : Core) (n : Name) : Copied d c [n] (copyName d c n) := by
  cases n with
  | g y =>
    refine ⟨fun x => ?_, fun x => ?_, fun x => ?_, fun x => ?_, fun x => ?_, ?_, ?_⟩
    case refine_1 =>
      simp only [copyName, Core.reg_setReg, List.mem_singleton, Name.g.injEq]
      by_cases hx : x = y
      · subst hx
        by_cases h0 : x = 0 <;> simp [h0, Core.reg]
      · simp [hx]
    all_goals simp only [copyName, Core.setReg, List.mem_singleton, reduceCtorEq, if_false]; split <;> rfl
  | t y =>
    constructor
    case t => intro x; simp only [copyName, getElem_set_fin, List.mem_singleton, Name.t.injEq]; split <;> simp_all
    all_goals intros; simp [copyName, Core.reg]
  | a y =>
    constructor
    case a => intro x; simp only [copyName, getElem_set_fin, List.mem_singleton, Name.a.injEq]; split <;> simp_all
    all_goals intros; simp [copyName, Core.reg]
  | w y =>
    constructor
    case w => intro x; simp only [copyName, getElem_set_fin, List.mem_singleton, Name.w.injEq]; split <;> simp_all
    all_goals intros; simp [copyName, Core.reg]
  | h y =>
    constructor
    case h => intro x; simp only [copyName, getElem_set_fin, List.mem_singleton, Name.h.injEq]; split <;> simp_all
    all_goals intros; simp [copyName, Core.reg]
  | _ => constructor <;> intros <;> simp [copyName]

theorem Copied.cons {d c r r' : Core} {n : Name} {l : List Name} (h : Copied d c [n] r) (h' : Copied d r l r') : Copied d c (n :: l) r' := by
  constructor
  case g => intro x; rw [h'.g, h.g]; simp only [List.mem_cons, List.not_mem_nil, or_false]; split <;> simp_all
  case t => intro x; rw [h'.t, h.t]; simp only [List.mem_cons, List.not_mem_nil, or_false]; split <;> simp_all
  case a => intro x; rw [h'.a, h.a]; simp only [List.mem_cons, List.not_mem_nil, or_false]; split <;> simp_all
  case w => intro x; rw [h'.w, h.w]; simp only [List.mem_cons, List.not_mem_nil, or_false]; split <;> simp_all
  case h => intro x; rw [h'.h, h.h]; simp only [List.mem_cons, List.not_mem_nil, or_false]; split <;> simp_all
  case pc => rw [h'.pc, h.pc]
  case run => rw [h'.run, h.run]

theorem foldl_copied (d : Core) (l : List Name) (c : Core) : Copied d c l (l.foldl (copyName d) c) := by
  induction l generalizing c with
  | nil => constructor <;> intros <;> simp
  | cons n l ih => exact (copyName_copied d c n).cons (ih _)

/-- What the merge of a pair's parts leaves: the C-part's core with the destinations of the X-part, its flags and its draws. -/
theorem mergePart_spec (c d : Core) (x : Instr) (loaded : Bool) (h : c.run ≠ .idle) :
    Copied d c (Instr.dests x) (mergePart c d x loaded) ∧ (mergePart c d x loaded).vstat = c.vstat ||| d.vstat ∧
      (mergePart c d x loaded).gen = if .gen ∈ Instr.sources x ∧ loaded = false then d.gen else c.gen := by
  have hc := foldl_copied d (Instr.dests x) c
  have hidle : (c.run == .idle) = false := beq_eq_false_iff_ne.mpr h
  have hidle' : (((Instr.dests x).foldl (copyName d) c).run == .idle) = false := by rw [hc.run, hidle]
  have hw : ∀ r : Core, (r.run == .idle) = false → (r.wrote x).g = r.g ∧ (r.wrote x).t = r.t ∧ (r.wrote x).a = r.a ∧ (r.wrote x).w = r.w ∧
      (r.wrote x).h = r.h ∧ (r.wrote x).pc = r.pc ∧ (r.wrote x).run = r.run := by
    intro r hr
    simp only [Core.wrote, hr, Bool.false_eq_true, if_false, Core.cleanse]
    split <;> split <;> exact ⟨rfl, rfl, rfl, rfl, rfl, rfl, rfl⟩
  obtain ⟨hg, ht, ha, hww, hh, hpc, hrun⟩ := hw _ hidle'
  simp only [mergePart, hidle, Bool.false_eq_true, if_false]
  refine ⟨?_, trivial, by simp⟩
  constructor
  case g => intro r; simp only [Core.reg, hg]; exact hc.g r
  case t => intro r; simp only [ht]; exact hc.t r
  case a => intro r; simp only [ha]; exact hc.a r
  case w => intro r; simp only [hww]; exact hc.w r
  case h => intro r; simp only [hh]; exact hc.h r
  case pc => simp only [hpc]; exact hc.pc
  case run => simp only [hrun]; exact hc.run

theorem wrote_kept (r : Core) (i : Instr) : (r.wrote i).g = r.g ∧ (r.wrote i).t = r.t ∧ (r.wrote i).a = r.a ∧ (r.wrote i).w = r.w ∧
    (r.wrote i).h = r.h ∧ (r.wrote i).pc = r.pc ∧ (r.wrote i).run = r.run ∧ (r.wrote i).vstat = r.vstat ∧ (r.wrote i).gen = r.gen := by
  simp only [Core.wrote, Core.cleanse]
  split
  · exact ⟨rfl, rfl, rfl, rfl, rfl, rfl, rfl, rfl, rfl⟩
  · split <;> split <;> exact ⟨rfl, rfl, rfl, rfl, rfl, rfl, rfl, rfl, rfl⟩

theorem not_trapped_running {s : State} (h : s.hasTrapped = false) : s.me.run ≠ .idle := by
  intro hr
  simp [State.hasTrapped, hr] at h

/-- A pair whose C-part is a HALT: its X-part's trap, or both effects (R40, R148). -/
theorem runPair_halt {s tc tx : State} {x : Instr} (hx : exec x { s with me := { s.me with vstat := noFlags } } = .next tx)
    (hc : exec .halt s = .next tc) :
    runPair exec .halt x none s = if tx.hasTrapped then exec x s else if tc.me.res == .waiting then .next tc
      else .next (tc.onMe fun k => mergePart (k.wrote .halt) tx.me x false) := by
  simp only [runPair, hx, hc, if_true]

/-- The C-part is a CTXLD, whose generator stands against the X-part's draws (log entry 42). -/
def loadsContext (c : Instr) : Bool := match c with | .ctxld _ => true | _ => false

theorem loadsContext_false {c : Instr} (h : ∀ ga, c ≠ .ctxld ga) : loadsContext c = false := by
  unfold loadsContext
  split
  · exact absurd rfl (h _)
  · rfl

/-- A pair with another C-part: the first trap in order, a wait, or both effects (R40). -/
theorem runPair_other {s tc tx : State} {c x : Instr} (hx : exec x { s with me := { s.me with vstat := noFlags } } = .next tx)
    (hc : exec c s = .next tc) (h : c ≠ .halt) :
    ∃ loaded, ((∀ ga, c ≠ .ctxld ga) → loaded = false) ∧
      runPair exec c x none s = if tc.hasTrapped then .next tc
        else if tx.hasTrapped then (if tc.me.res == .waiting && tc.me.pend == .none && !waitsFreely c tc then .next tc else exec x s)
        else if tc.me.res == .waiting then .next tc
        else .next (tc.onMe fun k => mergePart (k.wrote c) tx.me x loaded) := by
  refine ⟨loadsContext c, loadsContext_false, ?_⟩
  simp only [runPair, hx, hc, Bool.false_eq_true, if_false]
  rfl

/-- The parts' effects put together: the C-part's state, with the destinations, flags and draws of the X-part. -/
theorem merged_spec (tc : State) (d : Core) (c x : Instr) {loaded : Bool} (hrun : tc.me.run ≠ .idle) :
    let t := tc.onMe fun k => mergePart (k.wrote c) d x loaded
    t.mem = tc.mem ∧ Copied d tc.me (Instr.dests x) t.me ∧ t.me.vstat = tc.me.vstat ||| d.vstat ∧
      t.me.gen = if .gen ∈ Instr.sources x ∧ loaded = false then d.gen else tc.me.gen := by
  obtain ⟨hg, ht, ha, hw, hh, hpc, hr, hv, hgen⟩ := wrote_kept tc.me c
  obtain ⟨hcopied, hvstat, hgenAfter⟩ := mergePart_spec (tc.me.wrote c) d x loaded (by rw [hr]; exact hrun)
  refine ⟨rfl, ?_, by rw [← hv]; exact hvstat, by rw [← hgen]; exact hgenAfter⟩
  constructor
  case g => intro r; rw [show tc.me.reg r = (tc.me.wrote c).reg r by simp only [Core.reg, hg]]; exact hcopied.g r
  case t => intro r; rw [← ht]; exact hcopied.t r
  case a => intro r; rw [← ha]; exact hcopied.a r
  case w => intro r; rw [← hw]; exact hcopied.w r
  case h => intro r; rw [← hh]; exact hcopied.h r
  case pc => rw [← hpc]; exact hcopied.pc
  case run => rw [← hr]; exact hcopied.run

/-- Both parts retire: the pair merges them. -/
theorem runPair_retires {s tc tx : State} {c x : Instr} (hx : exec x { s with me := { s.me with vstat := noFlags } } = .next tx)
    (hc : exec c s = .next tc) (hret : tc.me.res = .retired) (htc : tc.hasTrapped = false) (htx : tx.hasTrapped = false) :
    ∃ loaded, ((∀ ga, c ≠ .ctxld ga) → loaded = false) ∧
      runPair exec c x none s = .next (tc.onMe fun k => mergePart (k.wrote c) tx.me x loaded) := by
  by_cases h : c = .halt
  · subst h
    exact ⟨false, fun _ => rfl, by rw [runPair_halt hx hc]; simp [htx, hret]⟩
  · obtain ⟨loaded, hloaded, hrun⟩ := runPair_other hx hc h
    exact ⟨loaded, hloaded, by rw [hrun]; simp [htc, htx, hret]⟩

/-- Settles O8: the pair's answer is the merge of its parts, or the first trap's. -/
theorem pairsTakeEffectOrTrapAsOne : Obligations.PairsTakeEffectOrTrapAsOne := by
  intro s tc tx c x hx hc
  refine ⟨fun hret _ htc htx => ?_, fun hne htc => ?_, fun htx hor => ?_⟩
  · obtain ⟨loaded, hloaded, hrun⟩ := runPair_retires hx hc hret htc htx
    obtain ⟨hmem, hcopied, hvstat, hgen⟩ := merged_spec tc tx.me c x (loaded := loaded) (not_trapped_running htc)
    exact ⟨_, hrun, hmem, hcopied.pc, hvstat, fun r h => (hcopied.g r).trans (if_pos h), fun r h => (hcopied.g r).trans (if_neg h),
      fun r h => (hcopied.t r).trans (if_pos h), fun r h => (hcopied.t r).trans (if_neg h),
      fun r h => (hcopied.a r).trans (if_pos h), fun r h => (hcopied.a r).trans (if_neg h),
      fun r h => (hcopied.w r).trans (if_pos h), fun r h => (hcopied.w r).trans (if_neg h),
      fun r h => (hcopied.h r).trans (if_pos h), fun r h => (hcopied.h r).trans (if_neg h),
      fun h hne => hgen.trans (if_pos ⟨h, hloaded hne⟩), fun h => hgen.trans (if_neg fun h' => h h'.1)⟩
  · obtain ⟨loaded, -, hrun⟩ := runPair_other hx hc hne
    rw [hrun, if_pos htc]
  · by_cases h : c = .halt
    · subst h
      rw [runPair_halt hx hc, if_pos htx]
    · obtain ⟨htc, hret⟩ := hor.resolve_left h
      obtain ⟨loaded, -, hrun⟩ := runPair_other hx hc h
      rw [hrun]
      simp [htc, htx, hret]

/-! ### A calm machine: nothing follows at once (log entry 6) -/

theorem settleNi_empty {s : State} (h : s.ni = []) : s.settleNi = s := by
  unfold State.settleNi
  split
  · rfl
  · rw [show (1024 : Nat) = 1023 + 1 from rfl, settleNiLoop, h, List.length_nil, serveNiFirst]

theorem settleLocks_empty {s : State} (hn : s.net = []) (hl : s.lockNet = []) : s.settleLocks = s := by
  have hearly : serveAmong s (earlyOrder s) = none := by simp [serveAmong, earlyOrder, classed, hn]
  have hrest : serveAmong s (restOrder s) = none := by simp [serveAmong, restOrder, classed, hn]
  have hclass : serveByClass s = none := by rw [serveByClass, hearly, hl, List.length_nil, serveLockFirst, hrest]
  unfold State.settleLocks
  split
  · rfl
  · rw [show (4096 : Nat) = 4095 + 1 from rfl, settleLockLoop, hclass]

theorem settleCtl_empty {s : State} (h : s.ctl = []) : s.settleCtl = s := by
  unfold State.settleCtl
  split
  · rfl
  · rw [settleCtlLoop, h, List.length_nil, serveCtlFirst]

theorem settleX_empty {s : State} (h : s.xreqs = []) : s.settleX = s := by
  have hx (i : Nat) : s.serveXreq i = none := by simp [State.serveXreq, h]
  simp [State.settleX, hx]
section
variable {s : State} (h : Calm s)
include h

theorem Calm.settle : s.settle = s := h.elim State.settle_lazy fun ⟨hn, _⟩ => State.settle_empty hn

theorem Calm.settleNi : s.settleNi = s := h.elim State.settleNi_lazy fun ⟨_, hni, _⟩ => settleNi_empty hni

theorem Calm.settleLocks : s.settleLocks = s := h.elim State.settleLocks_lazy fun ⟨hn, _, hl, _⟩ => settleLocks_empty hn hl

theorem Calm.settleCtl : s.settleCtl = s := h.elim State.settleCtl_lazy fun ⟨_, _, _, hc, _⟩ => settleCtl_empty hc

theorem Calm.settleX : s.settleX = s := h.elim State.settleX_lazy fun ⟨_, _, _, _, hx, _⟩ => settleX_empty hx
end

/-! ### FENCE (R238) -/

theorem finish_ok (s : State) : ∃ t, finish (.ok s ()) = .next t ∧ Retired s t ∧ Frame {} s t := ⟨_, rfl, s.retire_retired, s.retire_frame⟩

theorem finish_wait (s : State) : ∃ t, finish (.wait s) = .next t ∧ Waits s t ∧ Frame {} s t := ⟨_, rfl, s.hold_waits, s.hold_frame⟩

/-- The condition under which FENCE waits (R238). -/
def fenceWaits (set : FenceSet) (sc : Scope) (s : State) : Bool :=
  (set.s && !(sendsPlaced s s.me.id && (sc == .core || s.me.storesDone))) || (set.e && !(enginesPlaced s s.me.id && (sc == .core || enginesDone s s.me.id)))

theorem execFence_eq {s : State} (h : Calm s) (set : FenceSet) (sc : Scope) :
    execFence set sc s = if fenceWaits set sc s then finish (.wait s) else finish (.ok s ()) := by
  have hs : (if set.s || set.e then s.settle.settleLocks else s) = s := by
    rw [h.settle, h.settleLocks, ite_self]
  simp only [execFence, hs, fenceWaits, bne, Bool.not_not]
  rfl

theorem fenceWaits_eq_false {set : FenceSet} {sc : Scope} {s : State} :
    fenceWaits set sc s = false ↔ (set.s = true → sendsPlaced s s.me.id = true ∧ (sc ≠ .core → s.me.storesDone = true)) ∧
      (set.e = true → enginesPlaced s s.me.id = true ∧ (sc ≠ .core → enginesDone s s.me.id = true)) := by
  by_cases hcore : sc = .core <;> cases hs : set.s <;> cases he : set.e <;> simp [fenceWaits, hs, he, hcore]

/-- Settles O33: the condition of the wait is the negation of the set's being placed. -/
theorem fenceWaitsForItsSet : Obligations.FenceWaitsForItsSet := by
  intro s set sc hcalm placed
  have hexec : exec (.fence set sc) s = if fenceWaits set sc s then finish (.wait s) else finish (.ok s ()) := execFence_eq hcalm set sc
  rw [hexec]
  refine ⟨fun hp => ?_, fun hp => ?_⟩
  · rw [fenceWaits_eq_false.mpr hp, if_neg (by decide)]
    exact finish_ok s
  · rw [eq_true_of_ne_false fun h => hp (fenceWaits_eq_false.mp h), if_pos rfl]
    exact finish_wait s

/-! ### System registers (R349, R350) -/

theorem sysRead_isSome (c d : Core) (n : Nat) : (sysRead c n).isSome = (sysRead d n).isSome := by
  unfold sysRead
  split <;> simp only [Option.isSome_some, Option.isSome_none]

theorem sysNeeds_false (n : Nat) : sysNeeds n = false ↔ n < 8 := by
  unfold sysNeeds
  rw [decide_eq_false_iff_not]
  exact Nat.not_le

theorem sysNeeds_iff (c : Core) (n : Nat) : (c.level == 0 && sysNeeds n) = false ↔ c.level ≠ 0 ∨ n < 8 := by
  rw [Bool.and_eq_false_iff, sysNeeds_false]
  exact or_congr beq_eq_false_iff_ne Iff.rfl

theorem execSysrd_ok {s : State} {gd : GReg} {n : BitVec 10} {v : Word} (h : sysRead s.me n.toNat = some v) (hl : s.me.level ≠ 0 ∨ n.toNat < 8) :
    execSysrd gd n s = retireWith s gd v := by
  simp only [execSysrd, h, (sysNeeds_iff s.me n.toNat).mpr hl, Bool.false_eq_true, if_false]

/-- The core after a write of system register n. -/
def sysWritten (c : Core) (n : Nat) (v : Word) : Core := (sysWrite c n v).cleanSys [sysIndex n]

theorem execSyswr_ok {s : State} {ga : GReg} {n : BitVec 10} {v : Word} (h : sysRead s.me n.toNat = some v) (hl : s.me.level ≠ 0 ∨ n.toNat < 8) :
    execSyswr ga n s = .next (s.onMe fun c => sysWritten c n.toNat (s.me.reg ga)).retire := by
  simp only [execSyswr, h, (sysNeeds_iff s.me n.toNat).mpr hl, Bool.false_eq_true, if_false]
  rfl

theorem sysRead_poison (c : Core) (p : List PoisonName) (n : Nat) : sysRead { c with poison := p } n = sysRead c n := by
  unfold sysRead
  split <;> rfl

theorem sysRead_sysWritten (c : Core) (n k : Nat) (v : Word) : sysRead (sysWritten c n v) k = sysRead (sysWrite c n v) k := by
  obtain ⟨p, hp⟩ := (sysWrite c n v).cleanSys_eq [sysIndex n]
  rw [sysWritten, hp, sysRead_poison]

theorem and_twelve (n : Nat) : n &&& 12 = 4 * (n / 4 % 4) := by
  have hdiv : n / 4 % 4 = n >>> 2 &&& 3 := by
    rw [Nat.shiftRight_eq_div_pow]
    exact (Nat.and_two_pow_sub_one_eq_mod (n / 2 ^ 2) 2).symm
  have hmul : 4 * (n / 4 % 4) = (n / 4 % 4) <<< 2 := by rw [Nat.shiftLeft_eq, Nat.mul_comm]
  rw [hmul, hdiv, show (12 : Nat) = 3 <<< 2 from rfl]
  refine Nat.eq_of_testBit_eq fun i => ?_
  simp only [Nat.testBit_and, Nat.testBit_shiftLeft, Nat.testBit_shiftRight]
  by_cases hi : 2 ≤ i
  · simp [hi]
  · simp [hi]

theorem and_sixteen (n : Nat) : n &&& 16 = (n.testBit 4).toNat * 16 := by
  refine Nat.eq_of_testBit_eq fun i => ?_
  have h16 : Nat.testBit 16 i = decide (4 = i) := Nat.testBit_two_pow (n := 4)
  rw [Nat.testBit_and, h16]
  by_cases hi : 4 = i
  · subst hi; cases n.testBit 4 <;> rfl
  · cases n.testBit 4 <;> simp [hi, h16]

/-- The fields of STATUS lie apart, so their sum is their disjunction. -/
theorem mkStatus_fields (b : Bool) (p l : Nat) (hp : p < 4) (hl : l < 4) :
    (mkStatus b p l).setWidth 64 = BitVec.ofNat 64 (b.toNat * 16) ||| BitVec.ofNat 64 (4 * p) ||| BitVec.ofNat 64 l := by
  have h : ∀ (b : Bool) (p l : Fin 4),
      (mkStatus b p.val l.val).setWidth 64 = BitVec.ofNat 64 (b.toNat * 16) ||| BitVec.ofNat 64 (4 * p.val) ||| BitVec.ofNat 64 l.val := by decide
  exact h b ⟨p, hp⟩ ⟨l, hl⟩

/-- STATUS as it reads back after a write: INTRAP from the word, PLV where the level allows it, LVL as it was (R346, R350). -/
theorem statusWrite_reads (c : Core) (v : Word) : (statusWrite c v).setWidth 64 =
    (v &&& 0x10) ||| (if v.toNat / 4 % 4 ≤ c.level then v &&& 0xC else BitVec.ofNat 64 (4 * c.plv)) ||| BitVec.ofNat 64 c.level := by
  have hin : v &&& 0x10 = BitVec.ofNat 64 ((v.getLsbD 4).toNat * 16) := by
    apply BitVec.eq_of_toNat_eq
    rw [BitVec.toNat_and, BitVec.toNat_ofNat, Nat.mod_eq_of_lt (by cases v.getLsbD 4 <;> decide)]
    exact and_sixteen v.toNat
  have hplv : v &&& 0xC = BitVec.ofNat 64 (4 * (v.toNat / 4 % 4)) := by
    apply BitVec.eq_of_toNat_eq
    rw [BitVec.toNat_and, BitVec.toNat_ofNat, Nat.mod_eq_of_lt (by omega)]
    exact and_twelve v.toNat
  have hlevel : c.level < 4 := Nat.mod_lt _ (by decide)
  rw [hin, hplv, statusWrite, ← apply_ite (fun p => BitVec.ofNat 64 (4 * p))]
  refine mkStatus_fields _ _ _ ?_ hlevel
  split
  · exact Nat.mod_lt _ (by decide)
  · exact Nat.mod_lt _ (by decide)

/-- A write of one system register leaves what the others read. -/
theorem sysRead_sysWrite_other (c : Core) (n k : Nat) (v : Word) (h : k ≠ n) : sysRead (sysWrite c n v) k = sysRead c k := by
  unfold sysWrite
  split
  case h_9 => split <;> unfold sysRead <;> split <;> first | rfl | exact absurd rfl h
  all_goals
    unfold sysRead
    split <;> first | rfl | exact absurd rfl h

theorem vstat_reads (v : Word) : (vstatWrite v).setWidth 64 = v &&& 0x1F := by
  apply BitVec.eq_of_toNat_eq
  rw [vstatWrite, BitVec.toNat_setWidth, BitVec.toNat_setWidth, BitVec.toNat_and]
  have := Nat.and_two_pow_sub_one_eq_mod v.toNat 5
  have h : v.toNat % 2 ^ 5 < 2 ^ 64 := by omega
  rw [Nat.mod_eq_of_lt h, ← this]
  rfl

theorem asid_reads (v : Word) : BitVec.ofNat 64 (v.toNat % 65536) = v &&& 0xFFFF := by
  apply BitVec.eq_of_toNat_eq
  rw [BitVec.toNat_ofNat, BitVec.toNat_and]
  have := Nat.and_two_pow_sub_one_eq_mod v.toNat 16
  have h : v.toNat % 65536 < 2 ^ 64 := by omega
  rw [Nat.mod_eq_of_lt h]
  exact this.symm

theorem sysRead_sysWrite_same (c : Core) (n : Nat) (v : Word) : sysRead (sysWrite c n v) n = sysAfter c n v := by
  unfold sysWrite
  split
  case h_1 => exact congrArg some (vstat_reads v)
  case h_2 => exact congrArg some (statusWrite_reads c v)
  case h_9 =>
    show sysRead _ 0x020 = some _
    by_cases h : c.level = 3
    · rw [if_pos h, if_pos (beq_iff_eq.mpr h)]
      exact congrArg some (asid_reads v)
    · rw [if_neg h, if_neg (fun e => h (beq_iff_eq.mp e))]
      rfl
  case h_10 => unfold sysAfter; split <;> first | rfl | contradiction
  all_goals rfl

/-- A write of a system register within a core's flags, trap and system registers. -/
theorem sysWrite_same (c : Core) (n : Nat) (v : Word) : SameCore { flags := true, trap := true, sys := true } c (sysWrite c n v) := by
  unfold sysWrite
  split
  case h_9 => split <;> constructor <;> intros <;> simp_all [Core.reg, Core.brhits]
  all_goals constructor <;> intros <;> simp_all [Core.reg, Core.brhits]

theorem sysWrite_npc (c : Core) (n : Nat) (v : Word) : (sysWrite c n v).npc = c.npc ∧ (sysWrite c n v).id = c.id ∧ (sysWrite c n v).nBundles = c.nBundles := by
  unfold sysWrite
  split
  case h_9 => split <;> exact ⟨rfl, rfl, rfl⟩
  all_goals exact ⟨rfl, rfl, rfl⟩

/-- Trace packets of an instruction that retires leave the machine otherwise as it was. -/
theorem emitRetire_me (s : State) : ∃ x n, s.emitRetire s.me.id = { s with me := { s.me with trc := x }, tick := n } := by
  unfold State.emitRetire
  simp only [State.core_me]
  split
  · obtain ⟨x, n, h⟩ := s.emit_me (0x20 :: bytesOf (min s.me.trc.since 0xFFFFFFFF) 4)
    refine ⟨{ x with since := 0 }, n, ?_⟩
    rw [h]
    simp [State.onCore, State.setCore, State.core]
  · exact ⟨s.me.trc, s.tick, rfl⟩

theorem Writes.of_same {f : Footprint} {s : State} {k : Core → Core} (hk : SameCore f s.me (k s.me))
    (h : (k s.me).npc = s.me.npc ∧ (k s.me).id = s.me.id ∧ (k s.me).nBundles = s.me.nBundles) : Writes f s (s.onMe k) :=
  (Writes.refl f s).onMe hk h.2.1 h.1 h.2.2

theorem sysWritten_writes (s : State) (n : Nat) (v : Word) :
    Writes { flags := true, trap := true, sys := true } s (s.onMe fun c => sysWritten c n v) := by
  obtain ⟨p, hp⟩ := (sysWrite s.me n v).cleanSys_eq [sysIndex n]
  have hk : sysWritten s.me n v = { sysWrite s.me n v with poison := p } := hp
  have hsame : SameCore { flags := true, trap := true, sys := true } s.me (sysWritten s.me n v) := by
    rw [hk]
    exact (sysWrite_same s.me n v).follow (by constructor <;> intros <;> simp [Core.reg, Core.brhits])
  refine Writes.of_same hsame ?_
  rw [hk]
  exact sysWrite_npc s.me n v

theorem sysRead_retire (u : State) (n : Nat) : sysRead u.retire.me n = sysRead u.me n := by
  unfold sysRead
  split <;> rfl

theorem execSyswr_spec {s : State} {ga : GReg} {n : BitVec 10} {v : Word} (h : sysRead s.me n.toNat = some v) (hl : s.me.level ≠ 0 ∨ n.toNat < 8) :
    ∃ t, execSyswr ga n s = .next t ∧ sysRead t.me n.toNat = sysAfter s.me n.toNat (s.me.reg ga) ∧ Retired s t ∧
      (∀ k, k ≠ n.toNat → sysRead t.me k = sysRead s.me k) ∧ Frame { flags := true, trap := true, sys := true } s t := by
  have hread (k : Nat) : sysRead (s.onMe fun c => sysWritten c n.toNat (s.me.reg ga)).retire.me k = sysRead (sysWrite s.me n.toNat (s.me.reg ga)) k :=
    (sysRead_retire _ k).trans (sysRead_sysWritten s.me n.toNat k _)
  obtain ⟨hret, hframe⟩ := (sysWritten_writes s n.toNat (s.me.reg ga)).retires
  exact ⟨_, execSyswr_ok h hl, (hread _).trans (sysRead_sysWrite_same ..), hret, fun k hk => (hread k).trans (sysRead_sysWrite_other _ _ _ _ hk), hframe⟩

/-- Settles O44: by whether the register is listed. -/
theorem systemRegistersReadAndWrite : Obligations.SystemRegistersReadAndWrite := by
  intro s gd ga n
  refine ⟨fun v h hl => ⟨?_, execSyswr_spec h hl⟩, fun h hs => ⟨?_, ?_⟩⟩
  · obtain ⟨t, ht, hrest⟩ := retireWith_spec s gd v
    exact ⟨t, (execSysrd_ok h hl).trans ht, hrest⟩
  · show ∃ t, execSysrd gd n s = .next t ∧ _
    simp only [execSysrd, h]
    exact finish_trap hs _
  · show ∃ t, execSyswr ga n s = .next t ∧ _
    simp only [execSyswr, h]
    exact finish_trap hs _

/-! ### Privileged instructions at user level (R346) -/

theorem needSupervisor_user {s : State} (k : State → Result) (h : s.me.level = 0) : needSupervisor s k = finish (.trap s levelTrap) := by
  rw [needSupervisor, if_pos (beq_iff_eq.mpr h)]

theorem execSysrd_user {s : State} {gd : GReg} {n : BitVec 10} (h : s.me.level = 0) (hn : sysNeeds n.toNat = true)
    (hs : (sysRead (resetCore 0) n.toNat).isSome = true) : execSysrd gd n s = finish (.trap s levelTrap) := by
  obtain ⟨v, hv⟩ := Option.isSome_iff_exists.mp ((sysRead_isSome s.me (resetCore 0) n.toNat).trans hs)
  simp only [execSysrd, hv, h, hn, beq_self_eq_true, Bool.and_self, if_true]

theorem execSyswr_user {s : State} {ga : GReg} {n : BitVec 10} (h : s.me.level = 0) (hn : sysNeeds n.toNat = true)
    (hs : (sysRead (resetCore 0) n.toNat).isSome = true) : execSyswr ga n s = finish (.trap s levelTrap) := by
  obtain ⟨v, hv⟩ := Option.isSome_iff_exists.mp ((sysRead_isSome s.me (resetCore 0) n.toNat).trans hs)
  simp only [execSyswr, hv, h, hn, beq_self_eq_true, Bool.and_self, if_true]

/-- A privileged form asks for its level before anything else. -/
theorem exec_of_privileged {i : Instr} {s : State} (h : Privileged i) (hl : s.me.level = 0) : exec i s = finish (.trap s levelTrap) := by
  cases i <;> simp only [Privileged] at h
  case sysrd => exact execSysrd_user hl h.1 h.2
  case syswr => exact execSyswr_user hl h.1 h.2
  case tret =>
    show execTret s = _
    exact needSupervisor_user _ hl
  case xlatiRange ga gb p =>
    show xlatiWith _ _ s = _
    exact needSupervisor_user _ hl
  case xlatiAsid ga p =>
    show xlatiWith _ _ s = _
    exact needSupervisor_user _ hl
  case xlatiAll p =>
    show xlatiWith _ _ s = _
    exact needSupervisor_user _ hl
  case xlatp gd ga user acc =>
    show execXlatp gd ga user acc s = _
    exact needSupervisor_user _ hl
  case ctxsv ga =>
    show execCtxsv ga s = _
    exact needSupervisor_user _ hl
  case ctxld ga =>
    show execCtxld ga s = _
    exact needSupervisor_user _ hl

/-- Settles O45: every privileged form starts with the test of its level. -/
theorem userLevelMayNotRunThePrivileged : Obligations.UserLevelMayNotRunThePrivileged := by
  intro i s h hl hs
  rw [exec_of_privileged h hl]
  exact finish_trap hs levelTrap

/-! ### TRCMARK and PERFRD (R416, R418) -/

theorem Writes.trace {f : Footprint} {s u : State} (h : Writes f s u) (x : Trace) (n : Nat) : Writes f s { u with me := { u.me with trc := x }, tick := n } := by
  have htrace : OnlyTrace u.me { u.me with trc := x } := rfl
  exact ⟨h.same.follow (htrace.same.widen f), h.id, h.npc, h.count, h.cores, h.mem⟩

/-- The same of a trace packet after it. -/
theorem emitRetire_emit_me (s : State) (bs : List Byte) :
    ∃ x n, (s.emitRetire s.me.id).emit s.me.id bs = { s with me := { s.me with trc := x }, tick := n } := by
  obtain ⟨x, n, hx⟩ := emitRetire_me s
  obtain ⟨y, m, hy⟩ := ({ s with me := { s.me with trc := x }, tick := n } : State).emit_me bs
  exact ⟨y, m, by rw [hx]; exact hy⟩

theorem execTrcmark_spec (ga : GReg) (code : BitVec 10) (s : State) : ∃ t, execTrcmark ga code s = .next t ∧ Retired s t ∧ Frame {} s t := by
  refine ⟨_, rfl, ?_⟩
  split
  · obtain ⟨x, n, hx⟩ := emitRetire_emit_me s.retire (0x40 :: (bytesOf code.toNat 2 ++ bytesOf (s.g ga).toNat 8))
    have hid : s.me.id = s.retire.me.id := rfl
    rw [hid, hx]
    exact ⟨⟨rfl, rfl, rfl⟩, s.retire_frame.follow ((Writes.refl {} s.retire).trace x n).frame⟩
  · exact ⟨s.retire_retired, s.retire_frame⟩

/-- The counters that a stream at any level reads, where the yard does not read them as zero (R418). -/
theorem perfCounter_counts (s : State) (n : Nat) : (n = 1 → perfCounter s n = s.me.nBundles) ∧ (n = 5 → perfCounter s n = s.me.nMma) ∧
    (s.me.isYard = false → (n = 10 → perfCounter s n = s.me.nTkdone) ∧ (n = 11 → perfCounter s n = s.me.nSteals) ∧
      (n = 12 → perfCounter s n = s.me.nFailed)) := by
  refine ⟨?_, ?_, fun hy => ⟨?_, ?_, ?_⟩⟩ <;> rintro rfl <;> simp_all [perfCounter]

theorem execPerfrd_ok {gd : GReg} {n : BitVec 10} {s : State} (h : n.toNat < 15) :
    ∃ t, execPerfrd gd n s = .next t ∧ t.me.reg gd = held gd (perfCounter s n.toNat) ∧ Retired s t ∧ Frame { g := [gd] } s t := by
  let u := (s.onMe (·.readTimer n.toNat (perfCounter s n.toNat))).tock
  have hu : Writes { g := [gd] } s u := by
    constructor
    case same => constructor <;> intros <;> simp [u, Core.readTimer, Core.reg, Core.brhits]
    all_goals rfl
  refine ⟨(u.setG gd (perfCounter s n.toNat)).retire, ?_, Core.reg_setReg_self .., (hu.setG (by simp) _).retires⟩
  rw [execPerfrd, if_neg (by omega)]
  rfl

/-! ### HALT (R148) -/

theorem haltLocks_none {s : State} (h : s.me.locks = []) : s.haltLocks = s := by
  simp [State.haltLocks, heldLines, h]

theorem heldRecords_none {c : Core} (h : c.loft = []) : heldRecords c = [] := by
  simp [heldRecords, h]

theorem awaitRelease_done {s : State} (h : Calm s) (hs : s.me.storesDone = true) (he : enginesDone s s.me.id = true) : awaitRelease s = .ok s () := by
  simp only [awaitRelease, h.settle, hs, he, Bool.and_self, if_true]

theorem closeLive_idle {s : State} (h : s.me.inHand = none) : s.closeLive = s := by
  simp only [State.closeLive, h]

/-- HALT with nothing left open ends its stream at once. -/
theorem execHalt_done {s : State} (h : Calm s) (hs : s.me.storesDone = true) (he : enginesDone s s.me.id = true) (hhand : s.me.inHand = none)
    (hlocks : s.me.locks = []) (hplaced : locksPlaced s s.me.id = true) : execHalt s = .next s.retire.haltCore.endStream := by
  simp only [execHalt, awaitRelease_done h hs he, Ans.ok_bind, closeLive_idle hhand, haltLocks_none hlocks, hlocks, hplaced, List.isEmpty_nil,
    Bool.and_self, if_true]

theorem haltCore_me {s : State} (h : s.me.loft = []) : s.retire.haltCore.me =
    { s.retire.me with run := .halted, mbox := Vector.replicate 32 freshMSlot, arrivals := [], inHand := none, cut := false } := by
  have hr : heldRecords s.retire.me = [] := heldRecords_none h
  simp only [State.haltCore, hr, List.filter_nil, List.foldl_nil]
  rfl

theorem haltCore_frame {s : State} (h : s.me.loft = []) : Frame { m := List.finRange 32 } s s.retire.haltCore := by
  refine (s.retire_frame.widen _).follow (Frame.of_me ?_ ?_ rfl rfl)
  · rw [haltCore_me h]
    constructor <;> intros <;> simp_all [Core.reg, Core.brhits]
  · rw [haltCore_me h]

/-- Settles O49, form by form. -/
theorem haltMarkAndCounters : Obligations.HaltMarkAndCounters := by
  intro s gd ga n code
  refine ⟨fun hc hs he hhand hlocks hloft hplaced => ?_, execTrcmark_spec ga code s, fun h => ?_, fun h hs => ?_⟩
  · refine ⟨s.retire.haltCore, execHalt_done hc hs he hhand hlocks hplaced, ?_, ?_, fun m => ?_, ?_, ?_, ?_, haltCore_frame hloft⟩ <;>
      rw [haltCore_me hloft]
    case refine_2 => rfl
    case refine_3 => exact Vector.getElem_replicate ..
    case refine_6 => rfl
  · obtain ⟨t, ht, hreg, hret, hframe⟩ := execPerfrd_ok (s := s) (gd := gd) h
    exact ⟨t, _, ht, hreg, hret, hframe, perfCounter_counts s n.toNat⟩
  · show ∃ t, execPerfrd gd n s = .next t ∧ _
    rw [execPerfrd, if_pos h]
    exact finish_trap hs _

end Sys2Proof.Machine
end

section
/-! SUPPORT. Loads, stores, AMOs and reductions: what each leaves, by where its piece lies (04, 07, 10). -/
namespace Sys2Proof.Machine

/-! ### Effects before retirement -/

/-- What an instruction has done within a footprint before it retires: the frame, and the pc and the count of bundles as they were. -/
structure Does (f : Footprint) (s u : State) : Prop where
  frame : Frame f s u
  npc : u.me.npc = s.me.npc
  count : u.me.nBundles = s.me.nBundles

theorem Does.refl (f : Footprint) (s : State) : Does f s s := ⟨Frame.refl f s, rfl, rfl⟩

theorem Does.follow {f : Footprint} {s t u : State} (h : Does f s t) (h' : Does f t u) : Does f s u :=
  ⟨h.frame.follow h'.frame, h'.npc.trans h.npc, h'.count.trans h.count⟩

theorem Writes.does {f : Footprint} {s u : State} (h : Writes f s u) : Does f s u := ⟨h.frame, h.npc, h.count⟩

theorem Does.widen {s u : State} (h : Does {} s u) (f : Footprint) : Does f s u := ⟨h.frame.widen f, h.npc, h.count⟩

theorem Does.retires {f : Footprint} {s u : State} (h : Does f s u) : Retired s u.retire ∧ Frame f s u.retire :=
  ⟨⟨h.npc, rfl, congrArg (· + 1) h.count⟩, h.frame.follow (u.retire_frame.widen f)⟩

/-- A wait after effects that change nothing else. -/
theorem Does.waits {f : Footprint} {s u : State} (h : Does f s u) (hpc : u.me.pc = s.me.pc) : Waits s u.hold ∧ Frame f s u.hold :=
  ⟨⟨hpc, rfl, h.count⟩, h.frame.follow (u.hold_frame.widen f)⟩

/-! ### Checks of an access (R100, R103, R232, R412) -/

theorem checkWatch_unwatched {s : State} {va : Word} {n : Nat} {write : Bool} (h : Unwatched s va n write) : checkWatch s va n write = .ok s () := by
  unfold Unwatched at h
  simp only [checkWatch, h]

theorem checkAlign_aligned {s : State} {va : Word} {n row : Nat} (h : va.toNat % n = 0) : checkAlign s va n row = .ok s () := by
  rw [checkAlign, if_pos (beq_iff_eq.mpr h)]

theorem checkAlign_misaligned {s : State} {va : Word} {n row : Nat} (h : va.toNat % n ≠ 0) : checkAlign s va n row = .trap s (alignTrap va row) := by
  rw [checkAlign, if_neg fun e => h (beq_iff_eq.mp e)]

/-- The sizes of a scalar access (R231). -/
def ScalarSize (n : Nat) : Prop := n = 1 ∨ n = 2 ∨ n = 4 ∨ n = 8

/-- An aligned scalar access is one piece of its line. -/
theorem linePieces_scalar {a n : Nat} (hn : ScalarSize n) (ha : a % n = 0) : linePieces a n = [(a, n, 0)] := by
  have hfit : min (128 - a % 128) n = n := by
    rcases hn with rfl | rfl | rfl | rfl <;> omega
  have hpos : 0 < n := by rcases hn with rfl | rfl | rfl | rfl <;> omega
  rw [linePieces, splitAt, if_neg (by omega)]
  simp only [Nat.add_zero, Nat.sub_zero, hfit, Nat.zero_add]
  rw [splitAt, if_pos (Nat.le_refl n)]

/-- The one piece of a scalar access. -/
def scalarPiece (va : Word) (n row : Nat) (p : Phys) : Piece :=
  { va := va, pa := p.pa, dx := match p.leaf with | some x => x.dx | none => false, len := n, pos := 0, row := row, page := p.leaf.map fun x => (x.va, x.size) }

theorem locate_scalar {s s' : State} {va : Word} {n kind row : Nat} {p : Phys} (hn : ScalarSize n) (ha : va.toNat % n = 0)
    (h : s.translate va kind row = .ok s' p) : locate s va n kind row 0 = .ok s' [scalarPiece va n row p] := by
  have hva : BitVec.ofNat 64 va.toNat = va := by rw [BitVec.ofNat_toNat, BitVec.setWidth_eq]
  simp only [locate, linePieces_scalar hn ha, locateFrom, hva, h, Ans.ok_bind]
  rfl

/-! ### Places and poison -/

/-- Where the scratchpads of the card lie (R32). -/
theorem placeOf_scratch {s : State} {pa cell : Nat} : s.placeOf pa = .ok (.scratch cell) ↔
    pa / 2 ^ 45 % 4 = 1 ∧ pa % 2 ^ 45 / 2 ^ 20 = cell ∧ cell < 192 ∧ pa % 2 ^ 45 % 2 ^ 20 < 0x60000 ∧ pa / 2 ^ 47 % 2 = s.link.card := by
  unfold State.placeOf
  dsimp only
  split
  · rename_i h0
    rw [h0]
    grind
  · rename_i h1
    rw [h1]
    grind
  · rename_i h2
    rw [h2]
    grind
  · rename_i h0 h1 h2
    grind

/-- A scratchpad's place is that of its whole line. -/
theorem placeOf_line {s : State} {pa cell : Nat} (h : s.placeOf pa = .ok (.scratch cell)) {pa' : Nat} (hline : pa' / 128 = pa / 128) :
    s.placeOf pa' = .ok (.scratch cell) := by
  rw [placeOf_scratch] at h ⊢
  omega

theorem lineCut_scratch {s : State} {pa cell : Nat} (h : s.placeOf pa = .ok (.scratch cell)) : s.lineCut (pa / 128) = false := by
  have hplace : s.placeOf (pa / 128 * 128) = .ok (.scratch cell) := placeOf_line h (by omega)
  simp [State.lineCut, hplace]

theorem clean_scratch {s : State} {pa cell : Nat} (h : s.placeOf pa = .ok (.scratch cell)) (hbad : s.badWords = []) : Clean s (pa / 128) :=
  ⟨by simp [hbad], lineCut_scratch h⟩

/-- An access within a line that has no poison meets none (R393, R400). -/
theorem badWordIn_clean {s : State} {pa n : Nat} {partly : Bool} (h : Clean s (pa / 128)) (hn : pa % 128 + n ≤ 128) : badWordIn s pa n partly = none := by
  obtain ⟨hbad, hcut⟩ := h
  unfold badWordIn
  split
  · rfl
  · rw [List.find?_eq_none]
    intro w hw
    obtain ⟨k, -, rfl⟩ := List.mem_map.mp hw
    by_cases hlt : (pa / 8 + k) * 8 < pa + n
    · have hline : (pa / 8 + k) / 16 = pa / 128 := by omega
      have hnot : pa / 8 + k ∉ s.badWords := fun hc => hbad _ hc hline
      simp [hline, hcut, hnot]
    · simp [hlt]

theorem checkPoison_clean {s : State} {partly : Bool} {ps : List Piece} (h : ∀ p ∈ ps, Clean s (p.pa / 128) ∧ p.pa % 128 + p.len ≤ 128) :
    checkPoison s partly ps = .ok s () := by
  induction ps with
  | nil => rfl
  | cons p ps ih =>
    obtain ⟨hc, hn⟩ := h p (by simp)
    simp only [checkPoison, badWordIn_clean hc hn, ih fun q hq => h q (by simp [hq])]

theorem OwnPieces.clean {s : State} {ps : List Piece} (h : OwnPieces s ps) (hbad : s.badWords = []) :
    ∀ p ∈ ps, Clean s (p.pa / 128) ∧ p.pa % 128 + p.len ≤ 128 := by
  intro p hp
  obtain ⟨⟨cell, hplace, -⟩, hn⟩ := h p hp
  exact ⟨clean_scratch hplace hbad, hn⟩

/-! ### A line of memory (R2) -/

theorem Memory.read_cons {a : Nat} {b : Byte} {m : Memory} (h : m.wfFrom (a + 1) = true) (x : Nat) :
    Memory.read ((a, b) :: m) x = if x = a then b else m.read x := by
  by_cases hx : x = a
  · simp [Memory.read, hx]
  · by_cases hlt : x < a
    · simp [Memory.read, hx, hlt, Memory.read_below h (Nat.lt_succ_of_lt hlt)]
    · simp [Memory.read, hx, hlt]

theorem Memory.readN_cons {a : Nat} {b : Byte} {m : Memory} (h : m.wfFrom (a + 1) = true) (n : Nat) : ∀ x,
    Memory.readN ((a, b) :: m) x n = m.readN x n + if x ≤ a ∧ a < x + n then b.toNat * 256 ^ (a - x) else 0 := by
  induction n with
  | zero => intro x; rw [if_neg (by omega)]; rfl
  | succ n ih =>
    intro x
    rw [Memory.readN, Memory.readN, Memory.read_cons h, ih]
    by_cases hx : x = a
    · subst hx
      have hzero : m.read x = 0 := Memory.read_below h (Nat.lt_succ_self x)
      rw [if_pos rfl, hzero, if_neg (by omega), if_pos (by omega), Nat.sub_self, Nat.pow_zero, show (0 : Byte).toNat = 0 from rfl]
      omega
    · rw [if_neg hx]
      by_cases hin : x ≤ a ∧ a < x + (n + 1)
      · have hpow : a - x = (a - (x + 1)) + 1 := by omega
        rw [if_pos (by omega), if_pos hin, hpow, Nat.pow_succ, ← Nat.mul_assoc]
        omega
      · rw [if_neg (by omega), if_neg hin]
        omega

theorem Memory.foldl_line {m : Memory} {lo : Nat} (h : m.wfFrom lo = true) (line acc : Nat) :
    m.foldl (fun acc c => if c.1 / 128 == line then acc + c.2.toNat <<< (8 * (c.1 % 128)) else acc) acc = acc + m.readN (line * 128) 128 := by
  induction m generalizing lo acc with
  | nil => simp [Memory.readN_above [] 128 (line * 128) rfl]
  | cons c m ih =>
    obtain ⟨a, b⟩ := c
    simp only [Memory.wfFrom, Bool.and_eq_true] at h
    obtain ⟨-, hm⟩ := h
    rw [List.foldl_cons, ih hm, Memory.readN_cons hm]
    by_cases hl : a / 128 = line
    · have hoff : a - line * 128 = a % 128 := by omega
      rw [if_pos (beq_iff_eq.mpr hl), if_pos (by omega), hoff, Nat.shiftLeft_eq, Nat.pow_mul, show (2 : Nat) ^ 8 = 256 from rfl]
      show acc + b.toNat * 256 ^ (a % 128) + _ = acc + (_ + b.toNat * 256 ^ (a % 128))
      omega
    · rw [if_neg (by simpa using hl), if_neg (by omega), Nat.add_zero]

theorem Memory.line_eq {m : Memory} (h : m.wf = true) (line : Nat) : m.line line = BitVec.ofNat 1024 (m.readN (line * 128) 128) := by
  rw [Memory.line, Memory.foldl_line h, Nat.zero_add]

/-- Bytes of a line are bytes of memory. -/
theorem lineGet_line {m : Memory} (hm : m.wf = true) {pa n : Nat} (h : pa % 128 + n ≤ 128) : lineGet (m.line (pa / 128)) (pa % 128) n = m.readN pa n := by
  have hsplit := m.readN_add (pa % 128) (n + (128 - pa % 128 - n)) (pa / 128 * 128)
  have hpa : pa / 128 * 128 + pa % 128 = pa := by omega
  have hlen : pa % 128 + (n + (128 - pa % 128 - n)) = 128 := by omega
  rw [hpa, hlen, Memory.readN_add] at hsplit
  have hlt : m.readN (pa / 128 * 128) 128 < 2 ^ 1024 := by
    rw [show (2 : Nat) ^ 1024 = 256 ^ 128 by rw [show (256 : Nat) = 2 ^ 8 from rfl, ← Nat.pow_mul]]
    exact m.readN_lt _ 128
  rw [Memory.line_eq hm, lineGet, getBits, BitVec.toNat_ofNat, Nat.mod_eq_of_lt hlt, hsplit, Nat.shiftRight_eq_div_pow, Nat.pow_mul, Nat.pow_mul,
    show (2 : Nat) ^ 8 = 256 from rfl, Nat.add_mul_div_left _ _ (Nat.pow_pos (by decide)), Nat.div_eq_of_lt (m.readN_lt _ _), Nat.zero_add,
    Nat.add_mul_mod_self_left, Nat.mod_eq_of_lt (m.readN_lt _ _)]

theorem signedOf_eq (w v : Nat) : signedOf w v = if 2 ^ (w - 1) ≤ v % 2 ^ w then ((v % 2 ^ w : Nat) : Int) - ((2 ^ w : Nat) : Int) else ((v % 2 ^ w : Nat) : Int) := by
  rw [signedOf]
  by_cases h : v % 2 ^ w < 2 ^ (w - 1)
  · rw [if_pos h, if_neg (by omega)]
  · rw [if_neg h, if_pos (by omega)]

/-- A loaded value, extended as R231 says. -/
theorem extendLoad_eq {sg : Bool} {n v : Nat} (hn : n = 1 ∨ n = 2 ∨ n = 4 ∨ n = 8) (hv : sg = true ∨ v < 2 ^ (8 * n)) : extendLoad sg n v = loadedWord sg n v := by
  have hle : 2 ^ (8 * n) ≤ 2 ^ 64 := Nat.pow_le_pow_right (by decide) (by rcases hn with rfl | rfl | rfl | rfl <;> decide)
  have hmod : v % 2 ^ (8 * n) < 2 ^ (8 * n) := Nat.mod_lt _ (Nat.two_pow_pos _)
  cases sg with
  | false => simp [extendLoad, loadedWord, Nat.mod_eq_of_lt (hv.resolve_left (by decide))]
  | true =>
    simp only [extendLoad, loadedWord, signedOf_eq, if_true, Bool.true_and, decide_eq_true_eq]
    generalize 2 ^ (8 * n) = q at *
    generalize v % q = r at *
    split
    · apply BitVec.eq_of_toNat_eq
      rw [BitVec.toNat_ofInt, BitVec.toNat_ofNat]
      omega
    · exact BitVec.ofInt_natCast ..

/-! ### Loads of the own scratchpad (R160, R231) -/

theorem markOpen_of_mem {s : State} {ls : List Nat} (h : markOpen s ls = false) {l : Nat} (hl : l ∈ ls) : markOpen s [l] = false := by
  simp only [markOpen, List.any_eq_false, List.any_cons, List.any_nil, Bool.or_false, Bool.and_eq_true, List.any_eq_true] at h ⊢
  exact fun j hj hc => h j hj ⟨hc.1, l, hl, hc.2⟩

/-- A piece of the own scratchpad is read at once (R160). -/
theorem loadPiece_own {s : State} {p : Piece} {cell : Nat} {acq ef sync : Bool} (hplace : s.placeOf p.pa = .ok (.scratch cell))
    (hown : s.coreNo cell = s.me.id) (hfit : p.pa % 128 + p.len ≤ 128) (hm : s.mem.wf = true) (hmark : markOpen s [p.pa / 128] = false) :
    loadPiece s p acq ef sync = .ok s (s.mem.readN p.pa p.len, none) := by
  have hline : loadLine s p.pa acq ef sync p.bulk = .ok s (s.mem.line (p.pa / 128), none, false) := by
    simp only [loadLine, hplace, hmark, hown, beq_self_eq_true, Bool.false_eq_true, if_false, if_true]
  simp only [loadPiece, hplace, hline, Ans.ok_bind, lineGet_line hm hfit, Bool.false_eq_true, if_false]

/-- The value of pieces put together onto one that stands. -/
theorem gathered_foldl (m : Memory) (ps : List Piece) : ∀ v, ps.foldl (fun v p => v + m.readN p.pa p.len * 2 ^ (8 * p.pos)) v = v + gathered m ps := by
  induction ps with
  | nil => exact fun v => rfl
  | cons p ps ih =>
    intro v
    have hcons : gathered m (p :: ps) = 0 + m.readN p.pa p.len * 2 ^ (8 * p.pos) + gathered m ps := ih _
    rw [List.foldl_cons, ih, hcons, Nat.zero_add, Nat.add_assoc]

theorem gathered_cons (m : Memory) (p : Piece) (ps : List Piece) : gathered m (p :: ps) = m.readN p.pa p.len * 2 ^ (8 * p.pos) + gathered m ps := by
  rw [gathered, List.foldl_cons, gathered_foldl, Nat.zero_add]

theorem loadPieces_own {s : State} {acq ef sync : Bool} (hm : s.mem.wf = true) (fs : List Nat) : ∀ {ps : List Piece} (v : Nat), OwnPieces s ps →
    markOpen s (ps.map (·.pa / 128)) = false → loadPieces acq ef sync ps v fs s = .ok s (v + gathered s.mem ps, fs) := by
  intro ps
  induction ps with
  | nil => intro v _ _; rfl
  | cons p ps ih =>
    intro v hown hmark
    obtain ⟨⟨cell, hplace, hcell⟩, hfit⟩ := hown p (by simp)
    have hown' : OwnPieces s ps := fun q hq => hown q (by simp [hq])
    have hmark' : markOpen s (ps.map (·.pa / 128)) = false := by
      simp only [markOpen, List.any_eq_false, Bool.and_eq_true, List.any_eq_true, List.map_cons, List.mem_cons] at hmark ⊢
      exact fun j hj hc => hmark j hj ⟨hc.1, hc.2.elim fun l hl => ⟨l, .inr hl.1, hl.2⟩⟩
    rw [loadPieces, loadPiece_own hplace hcell hfit hm (markOpen_of_mem hmark (by simp)), Ans.ok_bind, ih _ hown' hmark']
    rw [gathered_cons, Nat.add_assoc]

theorem loadAll_own {s : State} {ps : List Piece} {acq ef sync : Bool} (hown : OwnPieces s ps) (hbad : s.badWords = []) (hm : s.mem.wf = true)
    (hmark : markOpen s (ps.map (·.pa / 128)) = false) : loadAll s ps acq ef sync = .ok s (gathered s.mem ps) := by
  simp only [loadAll, loadPieces_own hm [] 0 hown hmark, Ans.ok_bind, checkPoison_clean (hown.clean hbad), List.reverse_nil, List.foldl_nil, Nat.zero_add]

/-! ### Acquires (R182) -/

theorem Core.clean_eq (c : Core) (n : PoisonName) : ∃ poison, c.clean n = { c with poison := poison } := by
  unfold Core.clean
  split
  · exact ⟨c.poison, rfl⟩
  · exact ⟨_, rfl⟩

theorem Core.plainAcquire_eq (c : Core) (sc : Scope) :
    ∃ poison cache brand, c.plainAcquire sc = { c with poison := poison, cache := cache, brand := brand } := by
  obtain ⟨poison, h⟩ := c.clean_eq .brand
  cases sc with
  | core => exact ⟨c.poison, c.cache, c.brand, rfl⟩
  | die => exact ⟨c.poison, c.cache, c.brand, rfl⟩
  | dev => exact ⟨poison, _, _, by rw [Core.plainAcquire, h]⟩
  | sys => exact ⟨poison, _, _, by rw [Core.plainAcquire, h]⟩

theorem Writes.plainAcquireCore {f : Footprint} {s u : State} (h : Writes f s u) (hf : f.brand = true) (sc : Scope) :
    Writes f s (u.onMe (·.plainAcquire sc)) := by
  obtain ⟨poison, cache, brand, hk⟩ := u.me.plainAcquire_eq sc
  refine Writes.onMe (k := fun c => c.plainAcquire sc) h ?_ ?_ ?_ ?_ <;> rw [hk]
  constructor <;> intros <;> simp_all [Core.reg, Core.brhits]

theorem Writes.coverFills {f : Footprint} {s u : State} (h : Writes f s u) (hit : Nat → Bool) : Writes f s (u.coverFills hit) :=
  ⟨h.same, h.id, h.npc, h.count, h.cores, h.mem⟩

theorem Writes.plainAcquire {f : Footprint} {s u : State} (h : Writes f s u) (hf : f.brand = true) (sc : Scope) : Writes f s (u.plainAcquire sc) := by
  cases sc with
  | core => exact h.plainAcquireCore hf .core
  | die => exact h.plainAcquireCore hf .die
  | dev => exact (h.plainAcquireCore hf .dev).coverFills _
  | sys => exact (h.plainAcquireCore hf .sys).coverFills _

theorem Writes.acquireOrd {f : Footprint} {s u : State} (h : Writes f s u) {o : Ord} (hf : o = .acq ∨ o = .ar → f.brand = true) (sc : Scope) :
    Writes f s (u.acquireOrd o sc) := by
  cases o with
  | acq => exact h.plainAcquire (hf (.inl rfl)) sc
  | ar => exact h.plainAcquire (hf (.inr rfl)) sc
  | rlx => exact h
  | rel => exact h

theorem plainAcquire_g (c : Core) (sc : Scope) : (c.plainAcquire sc).g = c.g := by
  obtain ⟨_, _, _, hk⟩ := c.plainAcquire_eq sc
  rw [hk]

/-- An acquire leaves every register. -/
theorem acquireOrd_reg (u : State) (o : Ord) (sc : Scope) (r : GReg) : (u.acquireOrd o sc).me.reg r = u.me.reg r := by
  have hp : (u.plainAcquire sc).me.reg r = u.me.reg r := by
    cases sc <;> simp only [State.plainAcquire, State.coverFills, State.coverFillsOf, State.onMe, Core.reg, plainAcquire_g]
  cases o with
  | acq => exact hp
  | ar => exact hp
  | rlx => rfl
  | rel => rfl

/-! ### The scalar forms -/

theorem exec_of_loadForm {i : Instr} {s : State} {gd : GReg} {va : Word} {n : Nat} {sg : Bool} {o : Ord} {sc : Scope}
    (h : loadForm s.me i = some (gd, va, n, sg, o, sc)) : exec i s = loadReg s gd va n sg o sc ∧ ScalarSize n := by
  cases i <;> simp only [loadForm, reduceCtorEq, Option.some.injEq, Prod.mk.injEq] at h <;> obtain ⟨rfl, rfl, rfl, rfl, rfl, rfl⟩ := h <;>
    exact ⟨rfl, by simp [ScalarSize]⟩

theorem exec_of_storeForm {i : Instr} {s : State} {va : Word} {n : Nat} {v : Word} {o : Ord} {sc : Scope}
    (h : storeForm s.me i = some (va, n, v, o, sc)) : exec i s = storeReg s va n v o sc ∧ ScalarSize n := by
  cases i <;> simp only [storeForm, reduceCtorEq, Option.some.injEq, Prod.mk.injEq] at h <;> obtain ⟨rfl, rfl, rfl, rfl, rfl⟩ := h <;>
    exact ⟨rfl, by simp [ScalarSize]⟩

theorem exec_of_amoForm {i : Instr} {s : State} {op : AmoOp} {n : Nat} {gd ga gb : GReg} {o : Ord} {sc : Scope}
    (h : amoForm i = some (op, n, gd, ga, gb, o, sc)) : exec i s = amoReg s op n gd ga gb o sc ∧ ScalarSize n := by
  cases i <;> simp only [amoForm, reduceCtorEq, Option.some.injEq, Prod.mk.injEq] at h <;> obtain ⟨rfl, rfl, rfl, rfl, rfl, rfl, rfl⟩ := h <;>
    exact ⟨rfl, by simp [ScalarSize]⟩

theorem exec_of_reduceForm {i : Instr} {s : State} {k : GatherKind} {ga gb : GReg} {o : Ord} {sc : Scope}
    (h : reduceForm i = some (k, ga, gb, o, sc)) :
    exec i s = finish (reduceTo s k (s.me.reg ga) ((s.me.reg gb).toNat % 2 ^ (8 * k.size)) o sc) ∧ ScalarSize k.size := by
  cases i <;> simp only [reduceForm, reduceCtorEq, Option.some.injEq, Prod.mk.injEq] at h <;> obtain ⟨rfl, rfl, rfl, rfl, rfl⟩ := h <;>
    exact ⟨rfl, by simp [ScalarSize, GatherKind.size]⟩

/-- Settles O25: the watch passes, and the alignment comes next. -/
theorem misalignedAccessesTrap : Obligations.MisalignedAccessesTrap := by
  intro s hs
  refine ⟨fun i gd va n sg o sc h hw ha => ?_, fun i va n v o sc h hw ha => ?_, fun i op n gd ga gb o sc h hp hr hw ha => ?_,
    fun i k ga gb o sc h hw ha => ?_⟩
  · rw [(exec_of_loadForm h).1]
    simp only [loadReg, loadAt, checkWatch_unwatched hw, Ans.ok_bind, checkAlign_misaligned ha, Ans.trap_bind]
    exact finish_trap hs _
  · rw [(exec_of_storeForm h).1]
    simp only [storeReg, storeAt, checkWatch_unwatched hw, Ans.ok_bind, checkAlign_misaligned ha, Ans.trap_bind]
    exact finish_trap hs _
  · rw [(exec_of_amoForm h).1]
    simp only [amoReg, amoAt, amoChecks, hp, State.g, checkWatch_unwatched hr, checkWatch_unwatched hw, Ans.ok_bind, checkAlign_misaligned ha,
      Ans.trap_bind]
    exact finish_trap hs _
  · rw [(exec_of_reduceForm h).1]
    simp only [reduceTo, checkWatch_unwatched hw, Ans.ok_bind, checkAlign_misaligned ha, Ans.trap_bind]
    exact finish_trap hs _

/-- Settles O26: the bytes are read at once, and the value is extended. -/
theorem loadsReadTheirBytes : Obligations.LoadsReadTheirBytes := by
  intro i s s' gd va n sg o sc p cell h hw ha ht hplace hown hfit hbad hm hmark
  obtain ⟨hexec, hn⟩ := exec_of_loadForm h
  have hpieces : OwnPieces s' [scalarPiece va n 0 p] := by
    intro q hq
    obtain rfl := List.mem_singleton.mp hq
    exact ⟨⟨cell, hplace, hown⟩, hfit⟩
  have hload : loadAll s' [scalarPiece va n 0 p] (o == .acq) false false = .ok s' (gathered s'.mem [scalarPiece va n 0 p]) :=
    loadAll_own hpieces hbad hm hmark
  have hval : gathered s'.mem [scalarPiece va n 0 p] = s'.mem.readN p.pa n := by
    simp [gathered, scalarPiece]
  have hlt : s'.mem.readN p.pa n < 2 ^ (8 * n) := by
    rw [Nat.pow_mul]
    exact s'.mem.readN_lt p.pa n
  have hu : Writes { g := [gd], brand := decide (o = .acq ∨ o = .ar) } s'
      ((s'.setG gd (loadedWord sg n (s'.mem.readN p.pa n))).acquireOrd o sc) :=
    ((Writes.refl _ s').setG (by simp) _).acquireOrd (fun ho => by simpa using ho) sc
  refine ⟨_, ?_, ?_, hu.retires⟩
  · rw [hexec, ← extendLoad_eq hn (.inr hlt), ← hval]
    simp only [loadReg, loadAt, checkWatch_unwatched hw, Ans.ok_bind, checkAlign_aligned ha, locate_scalar hn ha ht, hload]
    rfl
  · exact (acquireOrd_reg _ o sc gd).trans (Core.reg_setReg_self ..)

/-! ### Stores to the own scratchpad (R160, R231) -/

theorem Core.noteCode_eq (m : Memory) (pa n : Nat) (c : Core) : ∃ code, c.noteCode m pa n = { c with code := code } := by
  unfold Core.noteCode
  split
  · exact ⟨_, rfl⟩
  · exact ⟨c.code, rfl⟩

theorem Core.noteCode_same (m : Memory) (pa n : Nat) (c : Core) : SameCore {} c (c.noteCode m pa n) := by
  obtain ⟨code, h⟩ := c.noteCode_eq m pa n
  rw [h]
  constructor <;> intros <;> simp [Core.reg, Core.brhits]

/-- Cores that each keep their state keep it where they are found. -/
theorem findCore_map {f : Core → Core} (hid : ∀ c, (f c).id = c.id) (hf : ∀ c, SameCore {} c (f c)) (cs : List Core) (k : Nat) :
    SameCore {} (findCore cs k) (findCore (cs.map f) k) := by
  induction cs with
  | nil => exact SameCore.refl {} _
  | cons c cs ih =>
    simp only [List.map_cons, findCore, hid]
    split
    · exact hf c
    · exact ih

/-- Bytes placed in memory, within the ranges that a store names. -/
theorem place_does {rs : List (Nat × Nat)} {s : State} (hm : s.mem.wf = true) {pa n : Nat} (hr : (pa, n) ∈ rs) (v : Nat) :
    Does { mem := rs } s (s.place pa n v) := by
  obtain ⟨code, hme⟩ := s.me.noteCode_eq s.mem pa n
  have hplaced : (s.place pa n v).me = { s.me with code := code } := hme
  have hsame : SameCore { mem := rs } s.me (s.place pa n v).me := (s.me.noteCode_same s.mem pa n).widen _
  refine ⟨⟨hsame, by rw [hplaced], fun k hk => ?_, fun x hx => ?_⟩, by rw [hplaced], by rw [hplaced]⟩
  · have hne : (s.me.id == k) = false := beq_eq_false_iff_ne.mpr fun e => hk e.symm
    have hne' : ((s.place pa n v).me.id == k) = false := by rw [hplaced]; exact hne
    simp only [State.core, hne, hne', Bool.false_eq_true, if_false]
    exact findCore_map (fun c => by obtain ⟨code, h⟩ := c.noteCode_eq s.mem pa n; rw [h]) (fun c => c.noteCode_same s.mem pa n) s.cores k
  · have hout : ¬(pa ≤ x ∧ x < pa + n) := hx (pa, n) hr
    rw [State.place_mem, Memory.read_writeN hm, if_neg hout]

theorem place_id (s : State) (pa n v : Nat) : (s.place pa n v).me.id = s.me.id := by
  obtain ⟨code, hme⟩ := s.me.noteCode_eq s.mem pa n
  exact (congrArg Core.id hme).trans rfl

theorem OwnPieces.place {s : State} {ps : List Piece} (h : OwnPieces s ps) (pa n v : Nat) : OwnPieces (s.place pa n v) ps := by
  intro p hp
  obtain ⟨⟨cell, hplace, hcell⟩, hfit⟩ := h p hp
  exact ⟨⟨cell, hplace, by rw [place_id]; exact hcell⟩, hfit⟩

theorem storePiece_own {s : State} {p : Piece} {brands ef sync : Bool} {cell : Nat} (hplace : s.placeOf p.pa = .ok (.scratch cell))
    (hown : s.coreNo cell = s.me.id) (v : Nat) : storePiece brands ef sync s p v = s.place p.pa p.len (v / 2 ^ (8 * p.pos) % 2 ^ (8 * p.len)) := by
  simp only [storePiece, hplace, hown, beq_self_eq_true, if_true]

/-- Pieces of the own scratchpad are written at once, in ascending order. -/
theorem storePieces_own {rs : List (Nat × Nat)} {brands ef sync : Bool} {v : Nat} {ps : List Piece} : ∀ {s : State}, OwnPieces s ps → s.mem.wf = true →
    (∀ p ∈ ps, (p.pa, p.len) ∈ rs) →
    (storePieces brands ef sync s ps v).mem = scattered s.mem ps v ∧ Does { mem := rs } s (storePieces brands ef sync s ps v) := by
  induction ps with
  | nil => intro s _ _ _; exact ⟨rfl, Does.refl _ s⟩
  | cons p ps ih =>
    intro s hown hm hr
    obtain ⟨⟨cell, hplace, hcell⟩, -⟩ := hown p (by simp)
    have hown' : OwnPieces s ps := fun q hq => hown q (by simp [hq])
    have hstep : storePieces brands ef sync s (p :: ps) v =
        storePieces brands ef sync (s.place p.pa p.len (v / 2 ^ (8 * p.pos) % 2 ^ (8 * p.len))) ps v := by
      rw [storePieces, List.foldl_cons, storePiece_own hplace hcell]
      rfl
    obtain ⟨hmem, hdoes⟩ := ih (hown'.place p.pa p.len (v / 2 ^ (8 * p.pos) % 2 ^ (8 * p.len))) (Memory.writeN_wf hm ..) fun q hq => hr q (by simp [hq])
    rw [hstep]
    exact ⟨hmem, (place_does hm (hr p (by simp)) _).follow hdoes⟩

theorem roomForStore_room {s : State} {n : Nat} (h : s.me.storeCount + n ≤ 128) : roomForStore s n = .ok s () := by
  simp [roomForStore, h]

theorem awaitMarks_done {s : State} {ps : List Piece} (h : markOpen s (ps.map (·.pa / 128)) = false) : awaitMarks s ps = .ok s () := by
  simp [awaitMarks, h]

theorem storeAll_clean {s : State} {ps : List Piece} {v : Nat} {ef : Bool} (hclean : ∀ p ∈ ps, Clean s (p.pa / 128) ∧ p.pa % 128 + p.len ≤ 128)
    (hmark : markOpen s (ps.map (·.pa / 128)) = false) (hroom : s.me.storeCount + ps.length ≤ 128) :
    storeAll s ps v ef = .ok (storePieces true ef false s ps v) () := by
  simp only [storeAll, checkPoison_clean hclean, Ans.ok_bind, awaitMarks_done hmark, roomForStore_room hroom]

/-- A store of the own scratchpad: its bytes in their order, and no other. -/
theorem storeAll_own {s : State} {ps : List Piece} {v : Nat} {ef : Bool} (hown : OwnPieces s ps) (hbad : s.badWords = []) (hm : s.mem.wf = true)
    (hmark : markOpen s (ps.map (·.pa / 128)) = false) (hroom : s.me.storeCount + ps.length ≤ 128) :
    ∃ t, finish (storeAll s ps v ef) = .next t ∧ t.mem = scattered s.mem ps v ∧ Retired s t ∧ Frame { mem := pieceRanges ps } s t := by
  obtain ⟨hmem, hdoes⟩ := storePieces_own (rs := pieceRanges ps) (brands := true) (ef := ef) (sync := false) (v := v) hown hm
    fun p hp => List.mem_map.mpr ⟨p, hp, rfl⟩
  refine ⟨(storePieces true ef false s ps v).retire, ?_, hmem, hdoes.retires⟩
  rw [storeAll_clean (hown.clean hbad) hmark hroom]
  rfl

/-- The wait of an ordering field is over: none is asked for, or the core's stores and marks are done (R183). -/
theorem awaitOrd_done {s : State} {o : Ord} {sc : Scope}
    (h : o = .rlx ∨ o = .acq ∨ sc = .core ∨ (Calm s ∧ s.me.storesDone = true ∧ marksDone s s.me.id = true)) : awaitOrd s o sc = .ok s () := by
  have hplain (h : sc = .core ∨ (Calm s ∧ s.me.storesDone = true ∧ marksDone s s.me.id = true)) : awaitPlainRelease s sc = .ok s () := by
    rcases h with rfl | ⟨hc, hs, hk⟩
    · rfl
    · simp only [awaitPlainRelease, hc.settle, hs, hk, Bool.and_self, if_true, ite_self]
  cases o with
  | rlx => rfl
  | acq => rfl
  | rel => exact hplain (by simpa using h)
  | ar => exact hplain (by simpa using h)

theorem exec_tile_stores {s s₁ : State} {ta tb : TReg} {a : AReg} {ga gb : GReg} {band ef : Bool} {ps : List Piece} (hown : OwnPieces s₁ ps)
    (hbad : s₁.badWords = []) (hm : s₁.mem.wf = true) (hmark : markOpen s₁ (ps.map (·.pa / 128)) = false)
    (hroom : s₁.me.storeCount + ps.length ≤ 128) :
    let v := if band then (s.me.t[ta]).band.toNat else (s.me.t[ta]).data.toNat
    let Writes (i : Instr) (v : Nat) : Prop :=
      ∃ t, exec i s = .next t ∧ t.mem = scattered s₁.mem ps v ∧ Retired s₁ t ∧ Frame { mem := pieceRanges ps } s₁ t
    (rowPieces s s.me.t[ta] none ga gb band true = .ok s₁ ps → Writes (.tst ta ga gb band ef) v) ∧
    (rowPieces s s.me.t[ta] (some s.me.t[tb]) ga gb band true = .ok s₁ ps → Writes (.tsct ta tb ga gb band ef) v) ∧
    (Unwatched s (s.me.reg ga) 16384 true → imagePieces s (s.me.reg ga) 16384 0 1 = .ok s₁ ps → Writes (.accsv a ga) (s₁.me.a[a]).data.toNat) := by
  refine ⟨fun h => ?_, fun h => ?_, fun hw h => ?_⟩
  · have hexec : exec (.tst ta ga gb band ef) s = finish (storeAll s₁ ps (if band then (s.me.t[ta]).band.toNat else (s.me.t[ta]).data.toNat) ef) := by
      show rowStore s ta none ga gb band ef = _
      simp only [rowStore, State.tile, h, Ans.ok_bind]
    obtain ⟨t, ht, hrest⟩ := storeAll_own hown hbad hm hmark hroom
    exact ⟨t, hexec.trans ht, hrest⟩
  · have hexec : exec (.tsct ta tb ga gb band ef) s = finish (storeAll s₁ ps (if band then (s.me.t[ta]).band.toNat else (s.me.t[ta]).data.toNat) ef) := by
      show rowStore s ta (some s.me.t[tb]) ga gb band ef = _
      simp only [rowStore, State.tile, h, Ans.ok_bind]
    obtain ⟨t, ht, hrest⟩ := storeAll_own hown hbad hm hmark hroom
    exact ⟨t, hexec.trans ht, hrest⟩
  · have hexec : exec (.accsv a ga) s = finish (storeAll s₁ ps (s₁.me.a[a]).data.toNat false) := by
      show execAccsv a ga s = _
      simp only [execAccsv, State.g, checkWatch_unwatched hw, Ans.ok_bind, h]
    obtain ⟨t, ht, hrest⟩ := storeAll_own hown hbad hm hmark hroom
    exact ⟨t, hexec.trans ht, hrest⟩

/-- Settles O40: the pieces are those of the own scratchpad, written at once. -/
theorem tileStoresWriteTheirRows : Obligations.TileStoresWriteTheirRows := by
  intro s s₁ ta tb a ga gb band ef ps hown hbad hm hmark hroom
  exact exec_tile_stores hown hbad hm hmark hroom

theorem dvd_pow_256 {n : Nat} (h : 1 ≤ n) : 256 ∣ 256 ^ n := Nat.pow_dvd_pow 256 h

/-- A byte of a value that keeps n bytes of a word. -/
theorem byte_of_word (v : Word) {n k : Nat} (hk : k < n) : BitVec.ofNat 8 (v.toNat % 2 ^ (8 * n) / 256 ^ k) = v.extractLsb' (8 * k) 8 := by
  apply BitVec.eq_of_toNat_eq
  rw [BitVec.toNat_ofNat, BitVec.extractLsb'_toNat, Nat.shiftRight_eq_div_pow, Nat.pow_mul, Nat.pow_mul, show (2 : Nat) ^ 8 = 256 from rfl]
  obtain ⟨j, rfl⟩ : ∃ j, n = k + 1 + j := ⟨n - k - 1, by omega⟩
  rw [Nat.add_assoc, Nat.pow_add, Nat.mod_mul_right_div_self, Nat.mod_mod_of_dvd]
  exact dvd_pow_256 (by omega)

theorem scalarStore_own {i : Instr} {s s' : State} {va : Word} {n : Nat} {v : Word} {o : Ord} {sc : Scope} {p : Phys} {cell : Nat}
    (h : storeForm s.me i = some (va, n, v, o, sc)) (hw : Unwatched s va n true) (ha : va.toNat % n = 0) (ht : s.translate va 1 0 = .ok s' p)
    (ho : o = .rlx ∨ o = .acq ∨ sc = .core ∨ (Calm s' ∧ s'.me.storesDone = true ∧ marksDone s' s'.me.id = true))
    (hplace : s'.placeOf p.pa = .ok (.scratch cell)) (hown : s'.coreNo cell = s'.me.id) (hfit : p.pa % 128 + n ≤ 128) (hbad : s'.badWords = [])
    (hmark : markOpen s' [p.pa / 128] = false) (hroom : s'.me.storeCount < 128) (hm : s'.mem.wf = true) :
    ∃ t, exec i s = .next t ∧ (∀ k, k < n → t.mem.read (p.pa + k) = v.extractLsb' (8 * k) 8) ∧ Retired s' t ∧ Frame { mem := [(p.pa, n)] } s' t := by
  obtain ⟨hexec, hn⟩ := exec_of_storeForm h
  have hpieces : OwnPieces s' [scalarPiece va n 0 p] := by
    intro q hq
    obtain rfl := List.mem_singleton.mp hq
    exact ⟨⟨cell, hplace, hown⟩, hfit⟩
  obtain ⟨t, hstore, hmem, hret, hframe⟩ := storeAll_own (v := v.toNat % 2 ^ (8 * n)) (ef := false) hpieces hbad hm hmark hroom
  refine ⟨t, ?_, fun k hk => ?_, hret, hframe⟩
  · rw [hexec, ← hstore]
    simp only [storeReg, storeAt, checkWatch_unwatched hw, Ans.ok_bind, checkAlign_aligned ha, locate_scalar hn ha ht, awaitOrd_done ho]
  · have hval : t.mem = s'.mem.writeN p.pa (v.toNat % 2 ^ (8 * n)) n := by
      rw [hmem]
      simp [scattered, scalarPiece]
    rw [hval, Memory.read_writeN hm, if_pos (by omega), Nat.add_sub_cancel_left]
    exact byte_of_word v hk

/-- Settles O28: the scalar forms are one piece, the others their located pieces. -/
theorem storesWriteTheirBytes : Obligations.StoresWriteTheirBytes := by
  refine ⟨fun i s s' va n v o sc p cell h hw ha ht ho hplace hown hfit hbad hmark hroom hm =>
    scalarStore_own h hw ha ht ho hplace hown hfit hbad hmark hroom hm, ?_⟩
  intro s s₁ ta tb a ga gb band ef ps hown hbad hm hmark hroom
  exact exec_tile_stores hown hbad hm hmark hroom

/-! ### Tile loads (R106, R110, R113) -/

theorem OwnPieces.append {s : State} {ps qs : List Piece} (h : OwnPieces s ps) (h' : OwnPieces s qs) : OwnPieces s (ps ++ qs) := by
  intro p hp
  exact (List.mem_append.mp hp).elim (h p) (h' p)

theorem OwnPieces.shift {s : State} {ps : List Piece} (h : OwnPieces s ps) (n : Nat) : OwnPieces s (shiftPieces n ps) := by
  intro p hp
  obtain ⟨q, hq, rfl⟩ := List.mem_map.mp hp
  exact h q hq

theorem markOpen_append {s : State} {ls ks : List Nat} (h : markOpen s ls = false) (h' : markOpen s ks = false) : markOpen s (ls ++ ks) = false := by
  simp only [markOpen, List.any_eq_false, Bool.and_eq_true, List.any_append, Bool.or_eq_true] at h h' ⊢
  exact fun j hj hc => hc.2.elim (fun hl => h j hj ⟨hc.1, hl⟩) fun hk => h' j hj ⟨hc.1, hk⟩

theorem shiftPieces_lines (n : Nat) (ps : List Piece) : (shiftPieces n ps).map (·.pa / 128) = ps.map (·.pa / 128) := by
  simp [shiftPieces, Function.comp_def]

/-- Settles O39, form by form: the located pieces are read at once. -/
theorem tileLoadsReadTheirRows : Obligations.TileLoadsReadTheirRows := by
  intro s s₁ s₂ ta tb w a ga gb band ef fmt mode ps bs hown hbad hm hmark put slotOf
  have hload (ef : Bool) : loadAll s₁ ps false ef false = .ok s₁ (gathered s₁.mem ps) := loadAll_own hown hbad hm hmark
  have hrow : ∃ t, (Host.Outcome.next (s₁.setT ta (put s.me.t[ta])).retire : Result) = .next t ∧ t.me.t[ta] = put s.me.t[ta] ∧ Retired s₁ t ∧
      Frame { t := [ta] } s₁ t := ⟨_, rfl, getElem_setT s₁ ta _, ((Writes.refl _ s₁).setT (by simp) _).retires⟩
  have hslot (v : Nat) (f : Fmt) : ∃ t, (Host.Outcome.next (s₁.setW w (slotOf v f)).retire : Result) = .next t ∧ Retired s₁ t ∧
      Frame { w := [w] } s₁ t ∧ t.me.w[w] = slotOf v f := by
    obtain ⟨hret, hframe⟩ := ((Writes.refl { w := [w] } s₁).setW (r := w) (by simp) (slotOf v f)).retires
    exact ⟨_, rfl, hret, hframe, getElem_setW s₁ w _⟩
  refine ⟨fun h => ?_, fun h => ?_, fun hf hw h => ?_, fun hw h => ?_, fun hwa hwb hd hb hownB hmarkB => ?_⟩
  · have hexec : exec (.tld ta ga gb band ef) s = .next (s₁.setT ta (put s.me.t[ta])).retire := by
      show rowLoad s ta none ga gb band ef = _
      simp only [rowLoad, State.tile, h, Ans.ok_bind, hload]
      rfl
    rw [hexec]
    exact hrow
  · have hexec : exec (.tgth ta tb ga gb band ef) s = .next (s₁.setT ta (put s.me.t[ta])).retire := by
      show rowLoad s ta (some s.me.t[tb]) ga gb band ef = _
      simp only [rowLoad, State.tile, h, Ans.ok_bind, hload]
      rfl
    rw [hexec]
    exact hrow
  · have hexec : exec (.wld w fmt ga gb ef) s = .next (s₁.setW w (slotOf (gathered s₁.mem ps) fmt)).retire := by
      show execWld w fmt ga gb ef s = _
      simp only [execWld, State.g, beq_eq_false_iff_ne.mpr hf, checkWatch_unwatched hw, Ans.ok_bind, h, Bool.false_eq_true, if_false, shiftPieces,
        List.map_nil, List.append_nil, hload]
      rfl
    rw [hexec]
    obtain ⟨t, ht, hret, hframe, hval⟩ := hslot (gathered s₁.mem ps) fmt
    exact ⟨t, ht, hval, hret, hframe⟩
  · have hexec : exec (.accld a ga mode) s = .next (s₁.setA a { data := BitVec.ofNat _ (gathered s₁.mem ps), mode := mode }).retire := by
      show execAccld a ga mode s = _
      simp only [execAccld, State.g, checkWatch_unwatched hw, Ans.ok_bind, h, hload]
      rfl
    rw [hexec]
    exact ⟨_, rfl, getElem_setA s₁ a _, ((Writes.refl _ s₁).setA (by simp) _).retires⟩
  · have hall : loadAll s₁ (bs ++ shiftPieces 4096 ps) false ef false = .ok s₁ (gathered s₁.mem (bs ++ shiftPieces 4096 ps)) :=
      loadAll_own (hownB.append (hown.shift 4096)) hbad hm (by
        rw [List.map_append, shiftPieces_lines]
        exact markOpen_append hmarkB hmark)
    have hexec : exec (.wld w .q4 ga gb ef) s = .next (s₁.setW w (slotOf (gathered s₁.mem (bs ++ shiftPieces 4096 ps)) .q4)).retire := by
      show execWld w .q4 ga gb ef s = _
      simp only [execWld, State.g, beq_self_eq_true, if_true, checkWatch_unwatched hwa, checkWatch_unwatched hwb, Ans.ok_bind, hd, hb, hall]
      rfl
    rw [hexec]
    exact hslot _ _

/-! ### Loads elsewhere (R171, R176, R215) -/

/-- A place that the caches serve: local or peer HBM, or the host (R171). -/
def CachedPlace (s : State) (pa : Nat) : Prop := s.placeOf pa = .ok .localHbm ∨ s.placeOf pa = .ok .peerHbm ∨ s.placeOf pa = .ok .host

theorem loadLine_cached {s : State} {pa : Nat} {acq ef sync bulk : Bool} (h : CachedPlace s pa) (hu : pa / 128 ∉ s.me.undone)
    (hh : s.me.waitsH (pa / 128) = false) (hmark : markOpen s [pa / 128] = false) :
    loadLine s pa acq ef sync bulk = match lineNow s (pa / 128) acq with
      | some r => .ok (s.onMe (·.touchLine (pa / 128))) r
      | none =>
        let s := if s.me.asked.contains (pa / 128, acq) then s.settle
          else (s.onMe fun c => { c with asked := (pa / 128, acq) :: c.asked }).request
            { core := s.me.id, line := pa / 128, req := .read acq ef false sync, bulk := bulk }
        match lineNow s (pa / 128) acq with | some r => .ok s r | none => .wait s := by
  have hu' : s.me.undone.contains (pa / 128) = false := Bool.eq_false_iff.mpr fun e => hu (List.contains_iff_mem.mp e)
  rcases h with h | h | h <;> simp only [loadLine, h, hu', hh, hmark, Bool.or_false, Bool.false_eq_true, if_false] <;> rfl

/-- A line found in the data cache serves a plain load (R171, R215). -/
theorem lineNow_hit {s : State} {line : Nat} {l : CLine} (hf : s.me.fills = []) (ha : (line, false) ∉ s.me.asked) (hl : s.me.lineOf line = some l)
    (hst : l.st = .t ∨ l.st = .u ∨ l.st = .k) : lineNow s line false = some (l.data, none, freshHit s l) := by
  have ha' : s.me.asked.contains (line, false) = false := Bool.eq_false_iff.mpr fun e => ha (List.contains_iff_mem.mp e)
  have hp : s.me.privateHit line false = some l := by
    rcases hst with h | h | h <;> simp [Core.privateHit, hl, h]
  simp only [lineNow, Core.fillOf, hf, List.find?_nil, ha', hp, Bool.false_eq_true, if_false]

theorem waitsH_of {c : Core} {line : Nat} {l : CLine} (hl : c.lineOf line = some l) (hst : l.st ≠ .h) : c.waitsH line = false := by
  simp [Core.waitsH, hl, hst]

theorem waitsH_none {c : Core} {line : Nat} (hl : c.lineOf line = none) : c.waitsH line = false := by
  simp [Core.waitsH, hl]

theorem Core.touchLine_eq (c : Core) (line : Nat) : ∃ cache, c.touchLine line = { c with cache := cache } := by
  unfold Core.touchLine
  split
  · exact ⟨_, rfl⟩
  · exact ⟨c.cache, rfl⟩

theorem Writes.touchLine {f : Footprint} {s u : State} (h : Writes f s u) (line : Nat) : Writes f s (u.onMe (·.touchLine line)) := by
  obtain ⟨cache, hk⟩ := u.me.touchLine_eq line
  refine Writes.onMe (k := fun c => c.touchLine line) h ?_ ?_ ?_ ?_ <;> rw [hk]
  constructor <;> intros <;> simp [Core.reg, Core.brhits]

/-- A brand written, and nothing else of the core. -/
theorem Writes.brand {f : Footprint} {s u : State} (h : Writes f s u) (hf : f.brand = true) (b : BitVec 960) :
    Writes f s (u.onMe fun c => { c with brand := b }) := by
  refine Writes.onMe (k := fun c => { c with brand := b }) h ?_ rfl rfl rfl
  constructor <;> intros <;> simp_all [Core.reg, Core.brhits]

theorem freshen_me (u : State) (line : Nat) : ∃ b, u.freshen u.me.id line = u.onMe fun c => { c with brand := b } := by
  unfold State.freshen
  split
  · exact ⟨brandInsert u.me.brand line, by simp [State.onCore, State.setCore, State.core, State.onMe]⟩
  · exact ⟨u.me.brand, rfl⟩

/-- Fresh lines enter the brand; no other part of the core changes. -/
theorem foldl_freshen {f : Footprint} (hf : f.brand = true) {s : State} (ls : List Nat) : ∀ {u : State}, Writes f s u →
    Writes f s (ls.foldl (fun (s : State) l => s.freshen s.me.id l) u) ∧ (ls.foldl (fun (s : State) l => s.freshen s.me.id l) u).me.g = u.me.g := by
  induction ls with
  | nil => intro u h; exact ⟨h, rfl⟩
  | cons l ls ih =>
    intro u h
    obtain ⟨b, hb⟩ := freshen_me u l
    rw [List.foldl_cons, hb]
    exact ih (h.brand hf b)

/-- The bytes of a line, as a load extends them. -/
theorem extendLoad_line {sg : Bool} {n : Nat} (hn : ScalarSize n) (d : BitVec 1024) (off : Nat) :
    extendLoad sg n (lineGet d off n) = loadedWord sg n (d.toNat / 2 ^ (8 * off)) := by
  have hv : lineGet d off n = d.toNat / 2 ^ (8 * off) % 2 ^ (8 * n) := by rw [lineGet, getBits, Nat.shiftRight_eq_div_pow]
  rw [extendLoad_eq hn (.inr (hv ▸ Nat.mod_lt _ (Nat.two_pow_pos _))), hv, loadedWord, loadedWord, Nat.mod_mod]

theorem clean_single {s : State} {va : Word} {n row : Nat} {p : Phys} (h : Clean s (p.pa / 128)) (hfit : p.pa % 128 + n ≤ 128) :
    ∀ q ∈ [scalarPiece va n row p], Clean s (q.pa / 128) ∧ q.pa % 128 + q.len ≤ 128 := by
  intro q hq
  obtain rfl := List.mem_singleton.mp hq
  exact ⟨h, hfit⟩

theorem loadPiece_cached {s : State} {p : Piece} (h : CachedPlace s p.pa) (acq ef sync : Bool) :
    loadPiece s p acq ef sync = (loadLine s p.pa acq ef sync p.bulk).bind fun s r => match r.2.1 with
      | some f => .trap s (lateTrap f p.va p.row)
      | none => .ok s (lineGet r.1 (p.pa % 128) p.len, if r.2.2 then some (p.pa / 128) else none) := by
  rcases h with h | h | h <;> simp only [loadPiece, h] <;> rfl

/-- A plain scalar load that hits: the bytes of the copy, with fresh lines in the brand. -/
theorem loadReg_hit {s s' : State} {gd : GReg} {va : Word} {n : Nat} {sg : Bool} {sc : Scope} {p : Phys} {l : CLine} (hn : ScalarSize n)
    (hw : Unwatched s va n false) (ha : va.toNat % n = 0) (ht : s.translate va 0 0 = .ok s' p) (hplace : CachedPlace s' p.pa) (hfit : p.pa % 128 + n ≤ 128)
    (hf : s'.me.fills = []) (hu : p.pa / 128 ∉ s'.me.undone) (hmark : markOpen s' [p.pa / 128] = false) (hl : s'.me.lineOf (p.pa / 128) = some l)
    (hst : l.st = .t ∨ l.st = .u ∨ l.st = .k) (hc : Clean s' (p.pa / 128)) (hasked : (p.pa / 128, false) ∉ s'.me.asked) :
    ∃ t, loadReg s gd va n sg .rlx sc = .next t ∧ t.me.reg gd = held gd (loadedWord sg n (l.data.toNat / 2 ^ (8 * (p.pa % 128)))) ∧ Retired s' t ∧
      Frame { g := [gd], brand := true } s' t := by
  have hh : s'.me.waitsH (p.pa / 128) = false := waitsH_of hl (by rcases hst with h | h | h <;> rw [h] <;> decide)
  have hpiece : loadPiece s' (scalarPiece va n 0 p) false false false =
      .ok (s'.onMe (·.touchLine (p.pa / 128))) (lineGet l.data (p.pa % 128) n, if freshHit s' l then some (p.pa / 128) else none) := by
    rw [loadPiece_cached hplace]
    simp only [scalarPiece, loadLine_cached hplace hu hh hmark, lineNow_hit hf hasked hl hst, Ans.ok_bind]
  have hrlx : (Ord.rlx == Ord.acq) = false := rfl
  let u := s'.onMe (·.touchLine (p.pa / 128))
  have hpoison : checkPoison u false [scalarPiece va n 0 p] = .ok u () := checkPoison_clean (clean_single hc hfit)
  have htouch : Writes { g := [gd], brand := true } s' u := (Writes.refl _ s').touchLine _
  have hload : ∃ ls, loadAll s' [scalarPiece va n 0 p] false false false =
      .ok (List.foldl (fun (s : State) l => s.freshen s.me.id l) u ls) (lineGet l.data (p.pa % 128) n) := by
    refine ⟨if freshHit s' l then [p.pa / 128] else [], ?_⟩
    cases hfresh : freshHit s' l <;> rw [hfresh] at hpiece <;> simp only [loadAll, loadPieces, hpiece, Ans.ok_bind, Bool.false_eq_true, if_false, if_true]
    all_goals
      rw [show checkPoison (s'.onMe (·.touchLine (p.pa / 128))) false [scalarPiece va n 0 p] = .ok u () from hpoison, Ans.ok_bind]
      simp only [scalarPiece, Nat.mul_zero, Nat.pow_zero, Nat.mul_one, Nat.zero_add]
      rfl
  obtain ⟨ls, hload⟩ := hload
  obtain ⟨hfresh, -⟩ := foldl_freshen rfl ls htouch
  refine ⟨_, ?_, ?_, (hfresh.setG (r := gd) (by simp) (loadedWord sg n (l.data.toNat / 2 ^ (8 * (p.pa % 128))))).retires⟩
  · rw [← extendLoad_line hn]
    simp only [loadReg, loadAt, checkWatch_unwatched hw, Ans.ok_bind, checkAlign_aligned ha, locate_scalar hn ha ht, hrlx, hload]
    rfl
  · exact Core.reg_setReg_self ..

/-- A plain scalar load that finds its line nowhere asks for it and waits. -/
theorem loadReg_miss {s s' : State} {gd : GReg} {va : Word} {n : Nat} {sg : Bool} {sc : Scope} {p : Phys} (hn : ScalarSize n)
    (hw : Unwatched s va n false) (ha : va.toNat % n = 0) (ht : s.translate va 0 0 = .ok s' p) (hplace : CachedPlace s' p.pa)
    (hf : s'.me.fills = []) (hu : p.pa / 128 ∉ s'.me.undone) (hmark : markOpen s' [p.pa / 128] = false) (hl : s'.me.lineOf (p.pa / 128) = none)
    (hasked : s'.me.asked = []) (hlazy : s'.lazy = true) :
    ∃ t, loadReg s gd va n sg .rlx sc = .next t ∧ Waits s' t ∧ Frame {} s' t ∧ t.me.asked = [(p.pa / 128, false)] ∧
      t.pkts = s'.pkts ++ [.req { core := s'.me.id, line := p.pa / 128, req := .read false false false false }] := by
  have hrlx : (Ord.rlx == Ord.acq) = false := rfl
  let q : MReq := { core := s'.me.id, line := p.pa / 128, req := .read false false false false }
  let u := (s'.onMe fun c => { c with asked := (p.pa / 128, false) :: c.asked }).post (.req q)
  have hsend : (s'.onMe fun c => { c with asked := (p.pa / 128, false) :: c.asked }).request q = u := State.settle_lazy hlazy
  have hnow : lineNow s' (p.pa / 128) false = none := by
    simp [lineNow, Core.fillOf, hf, hasked, Core.privateHit, hl]
  have hnow' : lineNow u (p.pa / 128) false = none := by
    simp [u, lineNow, Core.fillOf, hf, State.post, State.onMe]
  have hpiece : loadPiece s' (scalarPiece va n 0 p) false false false = .wait u := by
    rw [loadPiece_cached hplace]
    simp only [scalarPiece, loadLine_cached hplace hu (waitsH_none hl) hmark, hnow, hasked, List.contains_nil, Bool.false_eq_true, if_false]
    rw [show State.request _ _ = u from hsend]
    simp only [hnow']
    rfl
  have hu : Writes {} s' u := by
    have hasked : Writes {} s' (s'.onMe fun c => { c with asked := (p.pa / 128, false) :: c.asked }) := by
      refine Writes.onMe (k := fun c => { c with asked := (p.pa / 128, false) :: c.asked }) (Writes.refl _ s') ?_ rfl rfl rfl
      constructor <;> intros <;> simp [Core.reg, Core.brhits]
    exact ⟨hasked.same, hasked.id, hasked.npc, hasked.count, hasked.cores, hasked.mem⟩
  obtain ⟨hwaits, hframe⟩ := hu.does.waits rfl
  refine ⟨_, ?_, hwaits, hframe, ?_, ?_⟩
  · simp only [loadReg, loadAt, checkWatch_unwatched hw, Ans.ok_bind, checkAlign_aligned ha, locate_scalar hn ha ht, loadAll, loadPieces, hrlx, hpiece]
    rfl
  · show (p.pa / 128, false) :: s'.me.asked = _
    rw [hasked]
  · simp [u, State.pkts, State.post, State.hold, State.onMe, flightOf]
    rfl

/-- Settles O27: by whether the data cache holds the line. -/
theorem loadsHitTheCacheOrAskTheHome : Obligations.LoadsHitTheCacheOrAskTheHome := by
  intro i s s' gd va n sg sc p h hw ha ht hplace hfit hf hu hmark
  obtain ⟨hexec, hn⟩ := exec_of_loadForm h
  rw [hexec]
  exact ⟨fun l hl hst hc hasked => loadReg_hit hn hw ha ht hplace hfit hf hu hmark hl hst hc hasked,
    fun hl hasked hlazy => loadReg_miss hn hw ha ht hplace hf hu hmark hl hasked hlazy⟩

/-! ### Writes that leave for another place (R161, R210, R222) -/

theorem Core.brandWrite_eq (c : Core) (pa : Nat) : c.brandWrite pa = { c with brand := (c.brandWrite pa).brand } := by
  by_cases h : brandable pa <;> simp [Core.brandWrite, h]

theorem Writes.brandWrite {f : Footprint} {s u : State} (h : Writes f s u) (hf : f.brand = true) (pa : Nat) : Writes f s (u.onMe (·.brandWrite pa)) := by
  have hk : u.onMe (·.brandWrite pa) = u.onMe fun c => { c with brand := (u.me.brandWrite pa).brand } :=
    congrArg (fun c => { u with me := c }) (u.me.brandWrite_eq pa)
  rw [hk]
  exact h.brand hf _

/-- The core without its own U copy of a line (R161). -/
def withoutU (line : Nat) (c : Core) : Core := if c.holdsU line then c.dropLine line else c

theorem withoutU_eq (line : Nat) (c : Core) : ∃ cache, withoutU line c = { c with cache := cache } := by
  unfold withoutU
  split
  · exact ⟨_, rfl⟩
  · exact ⟨c.cache, rfl⟩

theorem find?_filter_ne (ls : List CLine) (line : Nat) : (ls.filter (·.line != line)).find? (·.line == line) = none := by
  rw [List.find?_eq_none]
  intro l hl
  simpa using (List.mem_filter.mp hl).2

theorem holdsU_withoutU (line : Nat) (c : Core) : (withoutU line c).holdsU line = false := by
  unfold withoutU
  cases h : c.holdsU line with
  | false => simpa using h
  | true => simp only [if_true, Core.holdsU, Core.lineOf, Core.dropLine, find?_filter_ne]

theorem Writes.ownWrite {f : Footprint} {s u : State} (h : Writes f s u) (line : Nat) : Writes f s (u.ownWrite line) := by
  obtain ⟨cache, hk⟩ := withoutU_eq line u.me
  have hu : Writes f s (u.onMe (withoutU line)) := by
    refine Writes.onMe (k := withoutU line) h ?_ ?_ ?_ ?_ <;> rw [hk]
    constructor <;> intros <;> simp [Core.reg, Core.brhits]
  exact hu.coverFills _

/-- The fills on their way that a write covers are those of the core and the line, whatever else the core holds (R171). -/
theorem coverFills_net {s u : State} (hid : u.me.id = s.me.id) (hnet : u.net = s.net) (hit : Nat → Bool) : (u.coverFills hit).net = (s.coverFills hit).net := by
  simp only [State.coverFills, State.coverFillsOf, hid, hnet]

theorem ownWrite_net (s : State) (line : Nat) : (s.ownWrite line).net = (s.coverFills (· == line)).net := by
  obtain ⟨cache, hk⟩ := withoutU_eq line s.me
  have hid : (s.onMe (withoutU line)).me.id = s.me.id := by
    show (withoutU line s.me).id = _
    rw [hk]
  exact coverFills_net hid rfl _

theorem ownWrite_me (s : State) (line : Nat) : (s.ownWrite line).me = withoutU line s.me := rfl

/-- What a posted write leaves before its request (R161, R210): the covered fills, the line that counts, the U copy gone. -/
theorem sendWrite_spec (s : State) (p : Piece) (req : Req) : ∃ u,
    s.sendWrite p req = u.request { core := s.me.id, line := p.pa / 128, req := req, bulk := p.bulk } ∧
    u.net = (s.coverFills (· == p.pa / 128)).net ∧ u.me.undone = s.me.undone ++ [p.pa / 128] ∧ u.me.brand = s.me.brand ∧
    u.me.holdsU (p.pa / 128) = false ∧ Writes {} s u := by
  obtain ⟨cache, hk⟩ := withoutU_eq (p.pa / 128) s.me
  have hme : (s.ownWrite (p.pa / 128)).me = { s.me with cache := cache } := hk
  refine ⟨_, rfl, ownWrite_net s _, ?_, ?_, ?_, ?_⟩
  · simp only [State.onMe, hme]
  · simp only [State.onMe, hme]
  · exact holdsU_withoutU (p.pa / 128) s.me
  · refine ((Writes.refl {} s).ownWrite (p.pa / 128)).onMe (k := fun c =>
      { c with undone := c.undone ++ [p.pa / 128], storePages := c.storePages ++ p.pageEntry c.asid }) ?_ rfl rfl rfl
    constructor <;> intros <;> simp [Core.reg, Core.brhits]

/-- A posted write of a core that enters its line in the brand first (R222). -/
theorem branded_sendWrite_spec (s : State) (p : Piece) (req : Req) : ∃ u,
    (s.onMe (·.brandWrite p.pa)).sendWrite p req = u.request { core := s.me.id, line := p.pa / 128, req := req, bulk := p.bulk } ∧
    u.net = (s.coverFills (· == p.pa / 128)).net ∧ u.me.undone = s.me.undone ++ [p.pa / 128] ∧ u.me.brand = (s.me.brandWrite p.pa).brand ∧
    u.me.holdsU (p.pa / 128) = false ∧ Frame { brand := true } s u := by
  have hb : Writes { brand := true } s (s.onMe (·.brandWrite p.pa)) := (Writes.refl _ s).brandWrite rfl p.pa
  have hundone : (s.me.brandWrite p.pa).undone = s.me.undone := by rw [s.me.brandWrite_eq p.pa]
  obtain ⟨u, hsend, hnet, hun, hbrand, hU, hu⟩ := sendWrite_spec (s.onMe (·.brandWrite p.pa)) p req
  refine ⟨u, ?_, hnet.trans (coverFills_net hb.id rfl _), hun.trans ?_, hbrand, hU, hb.frame.follow (hu.frame.widen _)⟩
  · rw [hsend, hb.id]
  · exact congrArg (· ++ [p.pa / 128]) hundone

theorem storePiece_cached {s : State} {p : Piece} (h : CachedPlace s p.pa) (ef sync : Bool) (v : Nat) :
    storePiece true ef sync s p v =
      (s.onMe (·.brandWrite p.pa)).sendWrite p (.write p.pa p.len (v / 2 ^ (8 * p.pos) % 2 ^ (8 * p.len)) ef sync) := by
  rcases h with h | h | h <;> simp only [storePiece, h, if_true]

/-- Settles O29: the one piece of the store leaves as a posted write. -/
theorem storesLeaveForTheirHome : Obligations.StoresLeaveForTheirHome := by
  intro i s s' va n v o sc p h hw ha ht ho hplace hfit hclean hmark hroom
  obtain ⟨hexec, hn⟩ := exec_of_storeForm h
  have hstore : storeAll s' [scalarPiece va n 0 p] (v.toNat % 2 ^ (8 * n)) false =
      .ok (storePieces true false false s' [scalarPiece va n 0 p] (v.toNat % 2 ^ (8 * n))) () := storeAll_clean (clean_single hclean hfit) hmark hroom
  obtain ⟨u, hsend, hnet, hun, hbrand, hU, hframe⟩ :=
    branded_sendWrite_spec s' (scalarPiece va n 0 p) (.write p.pa n (v.toNat % 2 ^ (8 * n)) false false)
  refine ⟨u, ?_, hnet, hun, hbrand, hU, hframe⟩
  have hpiece : storePieces true false false s' [scalarPiece va n 0 p] (v.toNat % 2 ^ (8 * n)) =
      u.request { core := s'.me.id, line := p.pa / 128, req := .write p.pa n (v.toNat % 2 ^ (8 * n)) false false } := by
    have hp : CachedPlace s' (scalarPiece va n 0 p).pa := hplace
    rw [storePieces, List.foldl_cons, List.foldl_nil, storePiece_cached hp]
    simp only [scalarPiece, Nat.mul_zero, Nat.pow_zero, Nat.div_one, Nat.mod_mod]
    exact hsend
  rw [hexec, ← hpiece]
  simp only [storeReg, storeAt, checkWatch_unwatched hw, Ans.ok_bind, checkAlign_aligned ha, locate_scalar hn ha ht, awaitOrd_done ho, hstore]
  rfl

/-! ### AMOs (R234, R235) -/

theorem amoResult_eq (op : AmoOp) {n : Nat} (hn : ScalarSize n) (v : Word) :
    amoResult op n v.toNat = if op = .fadd then v else loadedWord true n v.toNat := by
  have hv : BitVec.ofNat 64 v.toNat = v := by rw [BitVec.ofNat_toNat, BitVec.setWidth_eq]
  cases op <;> simp [amoResult, extendLoad_eq hn (.inl rfl), hv]

theorem Writes.acquireOrd_brand {s u : State} (o : Ord) (sc : Scope) (h : o = .rlx ∨ o = .rel) : (u.acquireOrd o sc).me.brand = u.me.brand := by
  rcases h with rfl | rfl <;> rfl

theorem amoAt_waiting {s : State} {op : AmoOp} {n : Nat} {gd : GReg} {va : Word} {v : Nat} {o : Ord} {sc : Scope} (h : s.me.pend ≠ .none) :
    amoAt s op n gd va v o sc = amoReply s.settle va := by
  unfold amoAt
  split
  · exact absurd ‹_› h
  · rfl

/-- Settles O31: by what has become of the request. -/
theorem amosCompleteWithTheirReply : Obligations.AmosCompleteWithTheirReply := by
  intro i s op n gd ga gb o sc h hcalm
  obtain ⟨hexec, hn⟩ := exec_of_amoForm h
  rw [hexec]
  refine ⟨fun pa v hp => ?_, fun k hp hs => ?_⟩
  · have hreply : amoReply s (s.g ga) = .ok (s.onMe fun c => c.brandWrite pa) v.toNat := by simp only [amoReply, hp]
    have hw : Writes { g := [gd], brand := true } s
        (((s.onMe fun c => c.brandWrite pa).setG gd (amoResult op n v.toNat)).acquireOrd o sc) :=
      (((Writes.refl _ s).brandWrite rfl pa).setG (by simp) _).acquireOrd (fun _ => rfl) sc
    obtain ⟨hret, hframe⟩ := hw.retires
    refine ⟨_, ?_, ?_, hret, fun ho => ?_, hframe⟩
    · rw [amoReg, amoAt_waiting (by rw [hp]; nofun), hcalm.settle, hreply, Ans.ok_bind]
      rfl
    · rw [← amoResult_eq op hn]
      exact (acquireOrd_reg _ o sc gd).trans (Core.reg_setReg_self ..)
    · have hset (c : Core) (x : Word) : (c.setReg gd x).brand = c.brand := by simp only [Core.setReg]; split <;> rfl
      exact (Writes.acquireOrd_brand (s := s) o sc ho).trans (hset _ _)
  · have hreply : amoReply s (s.g ga) = .trap s (accessTrap k (s.me.reg ga) 0) := by simp only [amoReply, hp]; rfl
    rw [amoReg, amoAt_waiting (by rw [hp]; nofun), hcalm.settle, hreply, Ans.trap_bind]
    exact finish_trap hs _

theorem amoChecks_scalar {s s' : State} {op : AmoOp} {n : Nat} {gd : GReg} {va : Word} {p : Phys} (hn : ScalarSize n) (hr : Unwatched s va n false)
    (hw : Unwatched s va n true) (ha : va.toNat % n = 0) (ht : s.translate va 2 0 = .ok s' p) (hc : Clean s' (p.pa / 128)) (hfit : p.pa % 128 + n ≤ 128) :
    amoChecks s op n gd va = .ok s' (scalarPiece va n 0 p) := by
  simp only [amoChecks, checkWatch_unwatched hr, checkWatch_unwatched hw, Ans.ok_bind, checkAlign_aligned ha, locate_scalar hn ha ht,
    checkPoison_clean (clean_single hc hfit), ite_self]

theorem sendAmo_lazy {s : State} (hlazy : s.lazy = true) (op : AmoOp) (n operand compare : Nat) (p : Piece) :
    Writes {} s (sendAmo s op n operand compare p) ∧ (sendAmo s op n operand compare p).me.pend = .sent p.pa ∧
      (sendAmo s op n operand compare p).pkts = (s.coverFills (· == p.pa / 128)).pkts ++
        [.req { core := s.me.id, line := p.pa / 128, req := .amo op n p.pa operand compare p.dx false }] ∧
      (sendAmo s op n operand compare p).me.pc = s.me.pc := by
  obtain ⟨cache, hk⟩ := withoutU_eq (p.pa / 128) s.me
  have hme : (s.ownWrite (p.pa / 128)).me = { s.me with cache := cache } := hk
  let u := (s.ownWrite (p.pa / 128)).onMe fun c => { c with pend := .sent p.pa, kept := [p] }
  let q : MReq := { core := s.me.id, line := p.pa / 128, req := .amo op n p.pa operand compare p.dx false }
  have hsend : sendAmo s op n operand compare p = u.post (.req q) := State.settle_lazy hlazy
  have hu : Writes {} s u := by
    refine ((Writes.refl {} s).ownWrite (p.pa / 128)).onMe (k := fun c => { c with pend := .sent p.pa, kept := [p] }) ?_ rfl rfl rfl
    constructor <;> intros <;> simp [Core.reg, Core.brhits]
  rw [hsend]
  refine ⟨⟨hu.same, hu.id, hu.npc, hu.count, hu.cores, hu.mem⟩, rfl, ?_, ?_⟩
  · have hnet : u.net = (s.coverFills (· == p.pa / 128)).net := ownWrite_net s _
    simp only [State.pkts, State.post, hnet, List.map_append, List.map_cons, List.map_nil]
    rfl
  · show (s.ownWrite (p.pa / 128)).me.pc = _
    rw [hme]

theorem amoCompare_eq (s : State) (op : AmoOp) (n : Nat) (gd : GReg) : amoCompare s op n gd = if op = .cas then (s.me.reg gd).toNat % 2 ^ (8 * n) else 0 := by
  cases op <;> rfl

/-- Settles O30: the checks pass, and the request is on its way. -/
theorem amosLeaveForTheirHome : Obligations.AmosLeaveForTheirHome := by
  intro i s s' op n gd ga gb o sc p dx h hp hr hw ha ht hdx hlazy hc hmark hfit ho hplace
  obtain ⟨hexec, hn⟩ := exec_of_amoForm h
  let q := scalarPiece (s.me.reg ga) n 0 p
  let v := (s.me.reg gb).toNat % 2 ^ (8 * n)
  have hord : awaitOrd s' o sc = .ok s' () := awaitOrd_done (ho.imp_right (·.imp_right (·.imp_right fun h => ⟨.inl hlazy, h⟩)))
  have hmarks : awaitMarks s' [q] = .ok s' () := awaitMarks_done hmark
  obtain ⟨hu, hpend, hpkts, hpc⟩ := sendAmo_lazy hlazy op n v (amoCompare s op n gd) q
  have hreply : amoReply (sendAmo s' op n v (amoCompare s op n gd) q) (s.me.reg ga) = .wait (sendAmo s' op n v (amoCompare s op n gd) q) := by
    simp only [amoReply, hpend]
  have hamo : amoAt s op n gd (s.me.reg ga) v o sc = .wait (sendAmo s' op n v (amoCompare s op n gd) q) := by
    simp only [amoAt, hp, amoChecks_scalar hn hr hw ha ht hc hfit, Ans.ok_bind, hord]
    split
    · exact absurd ‹_› (hplace _ _)
    · rw [hmarks, Ans.ok_bind, hreply]
  obtain ⟨hwaits, hframe⟩ := hu.does.waits hpc
  refine ⟨_, ?_, hwaits, hpend, hframe, ?_⟩
  · have hamo' : amoAt s op n gd (s.g ga) ((s.g gb).toNat % 2 ^ (8 * n)) o sc = _ := hamo
    rw [hexec, amoReg, hamo']
    rfl
  · rw [hdx, ← amoCompare_eq]
    exact hpkts

/-! ### Reductions (R218, R237) -/

/-- A write of n bytes takes the low 8n bits of its value. -/
theorem Memory.writeN_mod (v n : Nat) : ∀ (m : Memory) (a : Nat), m.writeN a (v % 256 ^ n) n = m.writeN a v n := by
  induction n generalizing v with
  | zero => intro m a; rfl
  | succ n ih =>
    intro m a
    have hbyte : BitVec.ofNat 8 (v % 256 ^ (n + 1)) = BitVec.ofNat 8 v := by
      apply BitVec.eq_of_toNat_eq
      rw [BitVec.toNat_ofNat, BitVec.toNat_ofNat]
      exact Nat.mod_mod_of_dvd v (dvd_pow_256 (by omega))
    have hrest : v % 256 ^ (n + 1) / 256 = v / 256 % 256 ^ n := by
      rw [Nat.pow_succ', Nat.mod_mul_right_div_self]
    rw [Memory.writeN, Memory.writeN, hbyte, hrest, ih]

theorem Memory.writeN_congr {m : Memory} {a v w n : Nat} (h : v % 2 ^ (8 * n) = w % 2 ^ (8 * n)) : m.writeN a v n = m.writeN a w n := by
  rw [Nat.pow_mul] at h
  rw [← Memory.writeN_mod v, ← Memory.writeN_mod w]
  exact congrArg (fun x => m.writeN a x n) h

theorem signedOf_toInt (w v : Nat) (hw : 0 < w) : signedOf w v = (BitVec.ofNat w v).toInt := by
  rw [signedOf, BitVec.toInt_eq_toNat_cond, BitVec.toNat_ofNat]
  obtain ⟨n, rfl⟩ : ∃ n, w = n + 1 := ⟨w - 1, by omega⟩
  have hpow : 2 ^ (n + 1) = 2 * 2 ^ n := by rw [Nat.pow_succ']
  rw [Nat.add_sub_cancel]
  by_cases h : v % 2 ^ (n + 1) < 2 ^ n
  · rw [if_pos h, if_pos (by omega)]
  · rw [if_neg h, if_neg (by omega)]

/-- The value of a reduction in its size, as R237 says. -/
theorem amoValue_reduce (k : GatherKind) {m o : Nat} (hm : m < 2 ^ (8 * k.size)) (ho : o < 2 ^ (8 * k.size)) :
    amoValue k.op k.size m o 0 % 2 ^ (8 * k.size) =
      (amoSpec k.op (BitVec.ofNat (8 * k.size) m) (BitVec.ofNat (8 * k.size) o) (BitVec.ofNat (8 * k.size) 0)).toNat % 2 ^ (8 * k.size) := by
  have hadd : amoValue .add k.size m o 0 % 2 ^ (8 * k.size) =
      (amoSpec .add (BitVec.ofNat (8 * k.size) m) (BitVec.ofNat (8 * k.size) o) (BitVec.ofNat (8 * k.size) 0)).toNat % 2 ^ (8 * k.size) := by
    simp [amoValue, amoSpec]
  have hmax : amoValue .max k.size m o 0 % 2 ^ (8 * k.size) =
      (amoSpec .max (BitVec.ofNat (8 * k.size) m) (BitVec.ofNat (8 * k.size) o) (BitVec.ofNat (8 * k.size) 0)).toNat % 2 ^ (8 * k.size) := by
    have hpos : 0 < 8 * k.size := by cases k <;> decide
    simp only [amoValue, amoSpec, signedLt, signedOf_toInt _ _ hpos, decide_eq_true_eq]
    split <;> simp
  have hfadd : amoValue .fadd k.size m o 0 % 2 ^ (8 * k.size) =
      (amoSpec .fadd (BitVec.ofNat (8 * k.size) m) (BitVec.ofNat (8 * k.size) o) (BitVec.ofNat (8 * k.size) 0)).toNat % 2 ^ (8 * k.size) := by
    simp [amoValue, amoSpec, Nat.mod_eq_of_lt hm, Nat.mod_eq_of_lt ho]
  cases k with
  | addW => exact hadd
  | addD => exact hadd
  | faddW => exact hfadd
  | maxW => exact hmax
  | maxD => exact hmax

/-- A reduction that passes its checks is its one piece sent. -/
theorem reduceTo_sends {s s' : State} {k : GatherKind} {va : Word} {v : Nat} {o : Ord} {sc : Scope} {p : Phys} (hn : ScalarSize k.size)
    (hw : Unwatched s va k.size true) (ha : va.toNat % k.size = 0) (ht : s.translate va 3 0 = .ok s' p) (hc : Clean s' (p.pa / 128))
    (ho : o = .rlx ∨ o = .acq ∨ sc = .core ∨ (Calm s' ∧ s'.me.storesDone = true ∧ marksDone s' s'.me.id = true))
    (hmark : markOpen s' [p.pa / 128] = false) (hroom : s'.me.storeCount < 128) (hfit : p.pa % 128 + k.size ≤ 128) :
    reduceTo s k va v o sc = .ok (sendReduction s' k v (scalarPiece va k.size 0 p)) () := by
  have hmarks : awaitMarks s' [scalarPiece va k.size 0 p] = .ok s' () := awaitMarks_done hmark
  have hroom' : roomForStore s' [scalarPiece va k.size 0 p].length = .ok s' () := roomForStore_room hroom
  simp only [reduceTo, checkWatch_unwatched hw, Ans.ok_bind, checkAlign_aligned ha, locate_scalar hn ha ht,
    checkPoison_clean (clean_single hc hfit), awaitOrd_done ho, hmarks, hroom', List.foldl_cons, List.foldl_nil]

/-- The request of a reduction that leaves the core (R212, R218). -/
def reductionReq (s : State) (k : GatherKind) (v : Nat) (p : Piece) : Req :=
  if s.placeOf p.pa matches .ok .localHbm && !s.me.isYard then .gather k (p.pa % 128) v else .amo k.op k.size p.pa v 0 p.dx true

theorem sendReduction_leaves {s : State} {k : GatherKind} {v : Nat} {p : Piece} (hcontrol : ∀ cell off, s.placeOf p.pa ≠ .ok (.control cell off))
    (hown : ¬∃ cell, s.placeOf p.pa = .ok (.scratch cell) ∧ s.coreNo cell = s.me.id) :
    sendReduction s k v p = (s.onMe (·.brandWrite p.pa)).sendWrite p (reductionReq s k v p) := by
  unfold sendReduction reductionReq
  dsimp only
  cases hp : s.placeOf p.pa with
  | error e => rfl
  | ok place =>
    cases place with
    | localHbm => cases hy : s.me.isYard <;> rfl
    | scratch cell =>
      have hne : (s.coreNo cell == s.me.id) = false := beq_eq_false_iff_ne.mpr fun e => hown ⟨cell, hp, e⟩
      simp only [hne, Bool.false_eq_true, if_false, Bool.false_and]
    | control cell off => exact absurd hp (hcontrol cell off)
    | _ => rfl

theorem sendReduction_own {s : State} {k : GatherKind} {v : Nat} {p : Piece} {cell : Nat} (hplace : s.placeOf p.pa = .ok (.scratch cell))
    (hown : s.coreNo cell = s.me.id) :
    sendReduction s k v p = s.place p.pa k.size (amoValue k.op k.size (s.mem.readN p.pa k.size) v 0) := by
  simp only [sendReduction, hplace, hown, beq_self_eq_true, if_true]

/-- Settles O32: the one piece of the reduction leaves, or is performed at the own scratchpad. -/
theorem reductionsLeaveForTheirHome : Obligations.ReductionsLeaveForTheirHome := by
  intro i s s' k ga gb o sc p dx h hw ha ht hdx hc ho hmark hroom hcontrol hfit v own q
  obtain ⟨hexec, hn⟩ := exec_of_reduceForm h
  let piece := scalarPiece (s.me.reg ga) k.size 0 p
  have hsent : exec i s = .next (sendReduction s' k v piece).retire := by
    rw [hexec, reduceTo_sends hn hw ha ht hc ho hmark hroom hfit]
    rfl
  refine ⟨fun hown => ?_, fun ⟨cell, hplace, hcell⟩ hm => ?_⟩
  · have hq : reductionReq s' k v piece = q := by
      rw [show q = if s'.placeOf p.pa matches .ok .localHbm && !s'.me.isYard then .gather k (p.pa % 128) v else .amo k.op k.size p.pa v 0 dx true from rfl, hdx]
      rfl
    obtain ⟨u, hu, hnet, hun, hbrand, -, hframe⟩ := branded_sendWrite_spec s' piece q
    refine ⟨u, ?_, hnet, hun, hbrand, hframe⟩
    rw [hsent, sendReduction_leaves hcontrol hown, hq, hu]
    rfl
  · have hv : v < 2 ^ (8 * k.size) := Nat.mod_lt _ (Nat.two_pow_pos _)
    have hread : s'.mem.readN p.pa k.size < 2 ^ (8 * k.size) := by
      rw [Nat.pow_mul]
      exact s'.mem.readN_lt _ _
    have hdoes : Does { mem := [(p.pa, k.size)] } s' (s'.place p.pa k.size (amoValue k.op k.size (s'.mem.readN p.pa k.size) v 0)) :=
      place_does hm (by simp) _
    obtain ⟨hret, hframe⟩ := hdoes.retires
    refine ⟨_, ?_, ?_, hret, hframe⟩
    · rw [hsent, sendReduction_own (p := piece) hplace hcell]
      rfl
    · show s'.mem.writeN p.pa _ k.size = _
      exact Memory.writeN_congr (amoValue_reduce k hread hv)

end Sys2Proof.Machine
end

section
/-! SUPPORT. Sync, messages, tasks, groups, locks and copies: the memory-side instructions of chapters 10, 12 to 14. -/
namespace Sys2Proof.Machine

/-! ### One line (R239, R240) -/

/-- A line-aligned access of a whole line is one piece. -/
theorem linePieces_line {a : Nat} (ha : a % 128 = 0) : linePieces a 128 = [(a, 128, 0)] := by
  have hfit : min (128 - a % 128) 128 = 128 := by omega
  rw [linePieces, splitAt, if_neg (by omega)]
  simp only [Nat.add_zero, Nat.sub_zero, hfit, Nat.zero_add]
  rw [splitAt, if_pos (Nat.le_refl 128)]

theorem locate_line {s s' : State} {va : Word} {kind row : Nat} {p : Phys} (ha : va.toNat % 128 = 0)
    (h : s.translate va kind row = .ok s' p) : locate s va 128 kind row 0 = .ok s' [scalarPiece va 128 row p] := by
  have hva : BitVec.ofNat 64 va.toNat = va := by rw [BitVec.ofNat_toNat, BitVec.setWidth_eq]
  simp only [locate, linePieces_line ha, locateFrom, hva, h, Ans.ok_bind]
  rfl

theorem writtenBrand_releaseBrand_carry (c : Core) : c.releaseBrand.carry[0] = c.carry[0] ||| c.brand ∧ c.releaseBrand.brand = 0 := by
  refine ⟨?_, rfl⟩
  simp [Core.releaseBrand]

theorem Writes.releaseBrand {f : Footprint} {s u : State} (h : Writes f s u) (hf : f.brand = true) : Writes f s (u.onMe (·.releaseBrand)) := by
  refine Writes.onMe (k := fun c => c.releaseBrand) h ?_ rfl rfl rfl
  constructor <;> intros <;> simp_all [Core.releaseBrand, Core.reg, Core.brhits]

theorem Writes.keep {f : Footprint} {s u : State} (h : Writes f s u) (ps : List Piece) : Writes f s (u.onMe fun c => { c with kept := ps }) := by
  refine Writes.onMe (k := fun c => { c with kept := ps }) h ?_ rfl rfl rfl
  constructor <;> intros <;> simp [Core.reg, Core.brhits]

/-- The value of a sync line fits its line (R225). -/
theorem syncLine_lt (v : Word) (b : BitVec 960) : syncLine v b < 2 ^ (8 * 128) := by
  have hv : v.toNat < 2 ^ 64 := v.isLt
  have hb : b.toNat < 2 ^ 960 := b.isLt
  calc syncLine v b = v.toNat + b.toNat * 2 ^ 64 := rfl
    _ < 2 ^ 64 + b.toNat * 2 ^ 64 := by omega
    _ = (b.toNat + 1) * 2 ^ 64 := by rw [Nat.succ_mul, Nat.add_comm]
    _ ≤ 2 ^ 960 * 2 ^ 64 := Nat.mul_le_mul_right _ hb
    _ = 2 ^ (8 * 128) := by rw [← Nat.pow_add]

theorem enginesDone_congr {s t : State} (hj : t.jobs = s.jobs) (ha : t.areds = s.areds) (hc : ∀ a : Ared, a.of t.me = a.of s.me) (hid : t.me.id = s.me.id) :
    enginesDone t t.me.id = enginesDone s s.me.id := by
  simp only [enginesDone, State.core_me, hj, ha, hid]
  have hcore : t.core s.me.id = t.me := by rw [← hid, State.core_me]
  simp only [hcore, hc]

/-- The premises of a release that has nothing to wait for stand after the pieces are kept. -/
theorem awaitRelease_kept {s : State} (ps : List Piece) (h : Calm s) (hs : s.me.storesDone = true) (he : enginesDone s s.me.id = true) :
    awaitRelease (s.onMe fun c => { c with kept := ps }) = .ok (s.onMe fun c => { c with kept := ps }) () :=
  awaitRelease_done h hs ((enginesDone_congr (s := s) (t := s.onMe fun c => { c with kept := ps }) rfl rfl (fun _ => rfl) rfl).trans he)

theorem storesDone_count {c : Core} (h : c.storesDone = true) : c.storeCount = 0 := by
  simp only [Core.storesDone, Bool.and_eq_true, List.isEmpty_iff, beq_iff_eq] at h
  simp [Core.storeCount, h.1, h.2]

/-- The store of a sync line: a posted write of one line, itself not in the brand (R239). -/
theorem syncStore_spec {s : State} {p : Piece} (h : CachedPlace s p.pa) (hlen : p.len = 128) (hpos : p.pos = 0) (hbulk : p.bulk = false) (v : Word) :
    ∃ u, storePieces false false true (s.onMe (·.releaseBrand)) [p] (syncLine v s.me.writtenBrand) =
        u.request { core := s.me.id, line := p.pa / 128, req := .write p.pa 128 (syncLine v s.me.writtenBrand) false true } ∧
      u.net = (s.coverFills (· == p.pa / 128)).net ∧ u.me.brand = 0 ∧ u.me.carry[0] = s.me.carry[0] ||| s.me.brand ∧
      u.me.undone = s.me.undone ++ [p.pa / 128] ∧ Frame { brand := true } s u := by
  have hb : Writes { brand := true } s (s.onMe (·.releaseBrand)) := (Writes.refl _ s).releaseBrand rfl
  have hval : syncLine v s.me.writtenBrand / 2 ^ (8 * p.pos) % 2 ^ (8 * p.len) = syncLine v s.me.writtenBrand := by
    rw [hpos, hlen, Nat.mul_zero, Nat.pow_zero, Nat.div_one, Nat.mod_eq_of_lt (syncLine_lt _ _)]
  have hpiece : storePiece false false true (s.onMe (·.releaseBrand)) p (syncLine v s.me.writtenBrand) =
      (s.onMe (·.releaseBrand)).sendWrite p (.write p.pa 128 (syncLine v s.me.writtenBrand) false true) := by
    have hp : CachedPlace (s.onMe (·.releaseBrand)) p.pa := h
    rw [hlen] at hval
    rcases hp with hp | hp | hp <;> simp only [storePiece, hp, hlen, hval, Bool.false_eq_true, if_false] <;> rfl
  obtain ⟨u, hsend, hnet, hun, hbrand, -, hu⟩ :=
    sendWrite_spec (s.onMe (·.releaseBrand)) p (.write p.pa 128 (syncLine v s.me.writtenBrand) false true)
  obtain ⟨hcarry, hzero⟩ := writtenBrand_releaseBrand_carry s.me
  refine ⟨u, ?_, hnet.trans (coverFills_net rfl rfl _), hbrand.trans hzero, ?_, hun, hb.frame.follow (hu.frame.widen _)⟩
  · rw [storePieces, List.foldl_cons, List.foldl_nil, hpiece, hsend, hbulk]
    rfl
  · rw [(hu.same.brand rfl).2.1]
    exact hcarry

/-- RELB with nothing to wait for (R239). -/
theorem execRelb_spec {s s' : State} {ga gb : GReg} {sc : Scope} {p : Phys} (ha : (s.me.reg ga).toNat % 128 = 0) (hplace : CachedPlace s' p.pa)
    (hw : Unwatched s (s.me.reg ga) 128 true) (hk : s.me.kept = []) (ht : s.translate (s.me.reg ga) 1 0 = .ok s' p) (hc : Calm s')
    (hs : s'.me.storesDone = true) (he : enginesDone s' s'.me.id = true) :
    let q : Req := .write p.pa 128 ((s'.me.reg gb).toNat + s'.me.writtenBrand.toNat * 2 ^ 64) false true
    ∃ u, exec (.relb ga gb sc) s = .next (u.request { core := s'.me.id, line := p.pa / 128, req := q }).retire ∧
      u.net = (s'.coverFills (· == p.pa / 128)).net ∧ u.me.brand = 0 ∧ u.me.carry[0] = s'.me.carry[0] ||| s'.me.brand ∧
      u.me.undone = s'.me.undone ++ [p.pa / 128] ∧ Frame { brand := true } s' u := by
  intro q
  let piece := scalarPiece (s.me.reg ga) 128 0 p
  let kept := s'.onMe fun c => { c with kept := [piece] }
  have hkept : Writes { brand := true } s' kept := (Writes.refl _ s').keep [piece]
  have hkeep : keepOr s (fun t => (checkWatch t (s.g ga) 128 true).bind fun t _ => (checkAlign t (s.g ga) 128 0).bind fun t _ =>
      locate t (s.g ga) 128 1 0 0) = .ok kept [piece] := by
    simp only [keepOr, hk, List.isEmpty_nil, if_true, State.g, checkWatch_unwatched hw, Ans.ok_bind, checkAlign_aligned ha, locate_line ha ht]
    rfl
  have hroom : roomForStore kept [piece].length = .ok kept () := roomForStore_room (by
    show s'.me.storeCount + 1 ≤ 128
    rw [storesDone_count hs]
    decide)
  obtain ⟨u, hstore, hnet, hbrand, hcarry, hun, hframe⟩ := syncStore_spec (s := kept) (p := piece) hplace rfl rfl rfl (s'.me.reg gb)
  refine ⟨u, ?_, hnet.trans (coverFills_net rfl rfl _), hbrand, hcarry, hun, hkept.frame.follow hframe⟩
  show execRelb ga gb sc s = _
  rw [execRelb]
  rw [show keepOr s _ = _ from hkeep, Ans.ok_bind, awaitRelease_kept [piece] hc hs he, Ans.ok_bind, hroom, Ans.ok_bind]
  exact congrArg (fun x : State => finish (.ok x ())) hstore

theorem loadPiece_filled {s : State} {p : Piece} {f : Fill} (h : CachedPlace s p.pa) (hu : p.pa / 128 ∉ s.me.undone)
    (hh : s.me.waitsH (p.pa / 128) = false) (hmark : markOpen s [p.pa / 128] = false) (hf : s.me.fillOf (p.pa / 128) true = some f) (hfault : f.fault = none) :
    loadPiece s p true false true =
      .ok (s.onMe (·.touchLine (p.pa / 128))) (lineGet f.data (p.pa % 128) p.len, if f.fresh then some (p.pa / 128) else none) := by
  have hnow : lineNow s (p.pa / 128) true = some (f.data, none, f.fresh) := by simp only [lineNow, hf, hfault]
  rw [loadPiece_cached h]
  simp only [loadLine_cached h hu hh hmark, hnow, Ans.ok_bind]

theorem lineGet_whole (d : BitVec 1024) : lineGet d 0 128 = d.toNat := by
  rw [lineGet, getBits, Nat.mul_zero, Nat.shiftRight_zero, show 8 * 128 = 1024 from rfl]
  exact Nat.mod_eq_of_lt d.isLt

theorem Core.brandTest_eq (c : Core) (a : BitVec 960) : ∃ n full total brand, c.brandTest a =
    { c with cache := c.cache.filter (fun l => !(l.isU && (a == fullBrand || brandHits a l.line))), brLast := n, brFull := full, brTotal := total,
             brand := brand } := by
  unfold Core.brandTest
  exact ⟨_, _, _, _, rfl⟩

/-- After the test no U line is left that the brand hits. -/
theorem Core.brandTest_cache (c : Core) (a : BitVec 960) : ∀ l ∈ (c.brandTest a).cache, l.isU = true → a ≠ fullBrand ∧ brandHits a l.line = false := by
  obtain ⟨_, _, _, _, h⟩ := c.brandTest_eq a
  rw [h]
  intro l hl hU
  have := (List.mem_filter.mp hl).2
  simpa [hU] using this

theorem retire_reg (u : State) (r : GReg) : u.retire.me.reg r = u.me.reg r := rfl

theorem brandTest_reg (u : State) (a : BitVec 960) (r : GReg) : (u.brandTest a).me.reg r = u.me.reg r := by
  obtain ⟨_, _, _, _, h⟩ := u.me.brandTest_eq a
  show (u.me.brandTest a).reg r = _
  rw [h]
  rfl

theorem Writes.brandTest {f : Footprint} {s u : State} (h : Writes f s u) (hf : f.brand = true) (a : BitVec 960) : Writes f s (u.brandTest a) := by
  obtain ⟨_, _, _, _, hk⟩ := u.me.brandTest_eq a
  have hu : Writes f s (u.onMe (·.brandTest a)) := by
    refine Writes.onMe (k := fun c => c.brandTest a) h ?_ ?_ ?_ ?_ <;> rw [hk]
    constructor <;> intros <;> simp_all [Core.reg, Core.brhits]
  exact hu.coverFills _

/-- ACQB whose line has come (R240). -/
theorem execAcqb_spec {s s' : State} {gd ga : GReg} {sc : Scope} {p : Phys} {f : Fill} (ha : (s.me.reg ga).toNat % 128 = 0) (hpa : p.pa % 128 = 0)
    (hplace : CachedPlace s' p.pa) (hw : Unwatched s (s.me.reg ga) 128 false) (ht : s.translate (s.me.reg ga) 0 0 = .ok s' p)
    (hu : p.pa / 128 ∉ s'.me.undone) (hmark : markOpen s' [p.pa / 128] = false) (hc : Clean s' (p.pa / 128))
    (hh : s'.me.waitsH (p.pa / 128) = false) (hf : s'.me.fillOf (p.pa / 128) true = some f) (hfault : f.fault = none) :
    let a : BitVec 960 := f.data.extractLsb' 64 960
    ∃ t, exec (.acqb gd ga sc) s = .next t ∧ t.me.reg gd = held gd (f.data.setWidth 64) ∧ Retired s' t ∧
      (∀ l ∈ t.me.cache, l.isU = true → a ≠ fullBrand ∧ brandHits a l.line = false) ∧ Frame { g := [gd], brand := true } s' t := by
  intro a
  let piece := scalarPiece (s.me.reg ga) 128 0 p
  let u := s'.onMe (·.touchLine (p.pa / 128))
  have hpiece : loadPiece s' piece true false true = .ok u (f.data.toNat, if f.fresh then some (p.pa / 128) else none) := by
    rw [loadPiece_filled (p := piece) hplace hu hh hmark hf hfault]
    have hget : lineGet f.data (piece.pa % 128) piece.len = f.data.toNat := by
      show lineGet f.data (p.pa % 128) 128 = _
      rw [hpa, lineGet_whole]
    rw [hget]
    rfl
  have hpoison : checkPoison u false [piece] = .ok u () := checkPoison_clean (clean_single hc (by omega))
  have htouch : Writes { g := [gd], brand := true } s' u := (Writes.refl _ s').touchLine _
  have hload : ∃ ls, loadAll s' [piece] true false true = .ok (List.foldl (fun (s : State) l => s.freshen s.me.id l) u ls) f.data.toNat := by
    refine ⟨if f.fresh then [p.pa / 128] else [], ?_⟩
    have hpos : piece.pos = 0 := rfl
    cases hfresh : f.fresh <;> rw [hfresh] at hpiece <;>
      simp only [loadAll, loadPieces, hpiece, Ans.ok_bind, Bool.false_eq_true, if_false, if_true, hpoison, hpos, Nat.mul_zero, Nat.pow_zero, Nat.mul_one,
        Nat.zero_add] <;> rfl
  obtain ⟨ls, hls⟩ := hload
  have hload : loadAll s' [scalarPiece (s.me.reg ga) 128 0 p] true false true = _ := hls
  obtain ⟨hfresh, -⟩ := foldl_freshen rfl ls htouch
  have hlow : BitVec.ofNat 64 f.data.toNat = f.data.setWidth 64 := BitVec.ofNat_toNat ..
  have hhigh : BitVec.ofNat 960 (f.data.toNat / 2 ^ 64) = a := by
    apply BitVec.eq_of_toNat_eq
    rw [BitVec.toNat_ofNat, BitVec.extractLsb'_toNat, Nat.shiftRight_eq_div_pow]
  have hdone := ((hfresh.setG (r := gd) (by simp) (f.data.setWidth 64)).brandTest rfl a)
  obtain ⟨hret, hframe⟩ := hdone.retires
  refine ⟨_, ?_, ?_, hret, ?_, hframe⟩
  · show execAcqb gd ga sc s = _
    simp only [execAcqb, loadAt, State.g, checkWatch_unwatched hw, Ans.ok_bind, checkAlign_aligned ha, locate_line ha ht, hload, hlow, hhigh]
    rfl
  · rw [retire_reg, brandTest_reg]
    exact Core.reg_setReg_self ..
  · exact Core.brandTest_cache _ a

/-- Settles O34: RELB past its wait, ACQB with its line. -/
theorem brandedReleaseAndAcquire : Obligations.BrandedReleaseAndAcquire := by
  intro s s' gd ga gb sc p ha hpa hplace
  exact ⟨fun hw hk ht hc hs he => execRelb_spec ha hplace hw hk ht hc hs he,
    fun hw ht hu hmark hc hh f hf hfault => execAcqb_spec ha hpa hplace hw ht hu hmark hc hh hf hfault⟩

/-! ### Cache control (R241, R242) -/

theorem linePiece_located {s s' : State} {va : Word} {p : Phys} (h : s.translate va 0 0 = .ok s' p) : linePiece s va = .ok s' (scalarPiece va 1 0 p) := by
  simp only [linePiece, locate_scalar (.inl rfl) (Nat.mod_one _) h, Ans.ok_bind]

theorem linePlace_located {s s' : State} {va : Word} {p : Phys} (h : s.translate va 0 0 = .ok s' p) : linePlace s va = .ok s' p.pa := by
  simp only [linePlace, linePiece_located h, Ans.ok_bind]
  rfl

/-- A PREF of nothing. -/
theorem execPref_empty {s : State} {ga gb : GReg} {ef priv : Bool} (h : s.me.reg gb = 0) : execPref ga gb ef priv s = finish (.ok s ()) := by
  simp [execPref, State.g, h]

/-- A PREF of one line whose page fails asks for nothing. -/
theorem execPref_fails {s s₁ : State} {ga gb : GReg} {ef priv : Bool} {k : Nat} (hl : s.me.level ≠ 3) (hb : s.me.reg gb ≠ 0)
    (hlen : (s.me.reg ga).toNat % 128 + (s.me.reg gb).toNat ≤ 128)
    (hp : probeAddr s (s.me.reg ga &&& ~~~127) .read (s.me.level == 0) 1024 = .ok s₁ (.error k)) :
    execPref ga gb ef priv s = .next s₁.retire := by
  have hpos : 0 < (s.me.reg gb).toNat := Nat.pos_of_ne_zero fun e => hb (BitVec.eq_of_toNat_eq (e.trans rfl))
  have hmin : min (s.me.reg gb).toNat (2 ^ 20) = (s.me.reg gb).toNat := by omega
  have hn : ((s.me.reg ga).toNat % 128 + (s.me.reg gb).toNat + 127) / 128 = 1 := by omega
  have hne : ((s.me.reg gb).toNat == 0) = false := beq_eq_false_iff_ne.mpr (by omega)
  have hline : prefLine ef priv s (s.me.reg ga &&& ~~~127) = s₁ := by
    have hplace : prefPlace s (s.me.reg ga &&& ~~~127) (s.me.level == 0) = .ok s₁ (.error k) := by
      rw [prefPlace, if_neg (by simpa using hl), hp]
    simp only [prefLine, hplace]
  simp only [execPref, State.g, hmin, hne, hn, Bool.false_eq_true, if_false, List.range_one, List.foldl_cons, List.foldl_nil, Nat.mul_zero,
    BitVec.ofNat_eq_ofNat, BitVec.add_zero]
  exact congrArg (fun t : State => finish (.ok t ())) hline

/-- CLWB of a line of local HBM: one write-back to its home. -/
theorem execClwb_local {s s' : State} {ga : GReg} {p : Phys} (h : s.translate (s.me.reg ga) 0 0 = .ok s' p) (hplace : s'.placeOf p.pa = .ok .localHbm)
    (hroom : s'.me.storeCount < 128) :
    ∃ u, exec (.clwb ga) s = .next (u.request { core := s'.me.id, line := p.pa / 128, req := .clwb }).retire ∧ u.net = s'.net ∧
      u.me.undone = s'.me.undone ++ [p.pa / 128] ∧ Frame {} s' u := by
  let q := scalarPiece (s.me.reg ga) 1 0 p
  let k (c : Core) : Core := { c with undone := c.undone ++ [p.pa / 128], storePages := c.storePages ++ q.pageEntry c.asid }
  have hu : Writes {} s' (s'.onMe k) := by
    refine Writes.onMe (k := k) (Writes.refl _ s') ?_ rfl rfl rfl
    constructor <;> intros <;> simp [k, Core.reg, Core.brhits]
  have hq : s'.placeOf (scalarPiece (s.me.reg ga) 1 0 p).pa = .ok .localHbm := hplace
  refine ⟨s'.onMe k, ?_, rfl, rfl, hu.frame⟩
  show execClwb ga s = _
  simp only [execClwb, State.g, linePiece_located h, Ans.ok_bind, hq, roomForStore_room (show s'.me.storeCount + 1 ≤ 128 from hroom)]
  rfl

theorem execClwb_other {s s' : State} {ga : GReg} {p : Phys} (h : s.translate (s.me.reg ga) 0 0 = .ok s' p) (hplace : s'.placeOf p.pa ≠ .ok .localHbm) :
    exec (.clwb ga) s = finish (.ok s' ()) := by
  show execClwb ga s = _
  simp only [execClwb, State.g, linePiece_located h, Ans.ok_bind]
  split
  · exact absurd ‹_› hplace
  · rfl

/-- What CLINV does with the state its line is in (R241). -/
def clinvFound (s : State) (line : Nat) : Ans Unit :=
  match s.me.lineOf line with
  | none => .ok s ()
  | some l => match l.st with
    | .u => .ok (s.onMe (·.dropLine line)) ()
    | .t => .ok ((s.onMe (·.dropLine line)).post (.evict s.me.id line)).settle ()
    | .h => .wait s
    | .g _ => .ok s ()
    | .k => .ok s ()

/-- CLINV at a line whose commit it need not await. -/
theorem execClinv_found {s s' : State} {ga : GReg} {p : Phys} (h : s.translate (s.me.reg ga) 0 0 = .ok s' p) (hh : s'.me.waitsH (p.pa / 128) = false) :
    exec (.clinv ga) s = finish (clinvFound s' (p.pa / 128)) := by
  show execClinv ga s = _
  simp only [execClinv, State.g, linePlace_located h, Ans.ok_bind, hh, Bool.false_eq_true, if_false]
  rfl

theorem Writes.dropLine {f : Footprint} {s u : State} (h : Writes f s u) (line : Nat) : Writes f s (u.onMe (·.dropLine line)) := by
  refine Writes.onMe (k := fun c => c.dropLine line) h ?_ rfl rfl rfl
  constructor <;> intros <;> simp [Core.dropLine, Core.reg, Core.brhits]

/-- CLINV, by the state of the line. -/
theorem execClinv_spec {s s' : State} {ga : GReg} {p : Phys} (h : s.translate (s.me.reg ga) 0 0 = .ok s' p) :
    ((s'.me.lineOf (p.pa / 128) = none ∨ ∃ l k, s'.me.lineOf (p.pa / 128) = some l ∧ (l.st = .k ∨ l.st = .g k)) →
      ∃ t, exec (.clinv ga) s = .next t ∧ t.me.cache = s'.me.cache ∧ Retired s' t ∧ Frame {} s' t) ∧
    (∀ l, s'.me.lineOf (p.pa / 128) = some l → l.st = .u →
      ∃ t, exec (.clinv ga) s = .next t ∧ t.me.cache = s'.me.cache.filter (fun x => x.line != p.pa / 128) ∧ Retired s' t ∧ Frame {} s' t) ∧
    (∀ l, s'.me.lineOf (p.pa / 128) = some l → l.st = .t →
      ∃ u, exec (.clinv ga) s = .next (u.post (.evict s'.me.id (p.pa / 128))).settle.retire ∧
        u.me.cache = s'.me.cache.filter (fun x => x.line != p.pa / 128) ∧ Frame {} s' u) ∧
    (∀ l, s'.me.lineOf (p.pa / 128) = some l → l.st = .h → Calm s' → ∃ t, exec (.clinv ga) s = .next t ∧ Waits s' t ∧ Frame {} s' t) := by
  have hkeeps : ∃ t, (finish (.ok s' ()) : Result) = .next t ∧ t.me.cache = s'.me.cache ∧ Retired s' t ∧ Frame {} s' t :=
    ⟨_, rfl, rfl, s'.retire_retired, s'.retire_frame⟩
  refine ⟨?_, fun l hl hst => ?_, fun l hl hst => ?_, fun l hl hst hc => ?_⟩
  · rintro (hl | ⟨l, k, hl, hst | hst⟩)
    · rw [execClinv_found h (waitsH_none hl), clinvFound, hl]
      exact hkeeps
    · rw [execClinv_found h (waitsH_of hl (by rw [hst]; decide)), clinvFound, hl]
      simp only [hst]
      exact hkeeps
    · rw [execClinv_found h (waitsH_of hl (by rw [hst]; nofun)), clinvFound, hl]
      simp only [hst]
      exact hkeeps
  · rw [execClinv_found h (waitsH_of hl (by rw [hst]; decide)), clinvFound, hl]
    simp only [hst]
    exact ⟨_, rfl, rfl, ((Writes.refl {} s').dropLine _).retires⟩
  · rw [execClinv_found h (waitsH_of hl (by rw [hst]; decide)), clinvFound, hl]
    simp only [hst]
    exact ⟨_, rfl, rfl, ((Writes.refl {} s').dropLine _).frame⟩
  · have hh : s'.me.waitsH (p.pa / 128) = true := by simp [Core.waitsH, hl, hst]
    show ∃ t, execClinv ga s = .next t ∧ _
    simp only [execClinv, State.g, linePlace_located h, Ans.ok_bind, hh, if_true, hc.settle, hl, hst]
    exact finish_wait s'

/-- Settles O35, instruction by instruction. -/
theorem cacheControlActsOnItsLine : Obligations.CacheControlActsOnItsLine := by
  refine ⟨fun s ga gb ef priv => ⟨⟨_, rfl, rfl⟩, fun hb => ?_, fun s₁ k hl hb hlen hp => execPref_fails hl hb hlen hp⟩, fun s s' ga p h => ⟨?_, ?_, ?_⟩⟩
  · show ∃ t, execPref ga gb ef priv s = .next t ∧ _
    rw [execPref_empty hb]
    exact finish_ok s
  · exact fun hplace hroom => execClwb_local h hplace hroom
  · intro hplace
    rw [execClwb_other h hplace]
    exact finish_ok s'
  · exact execClinv_spec h

/-! ### Retention (R243, R244) -/

theorem ctlReply_of {s : State} {a : Nat} {v : Word} (h : s.me.pend = .reply a v) : ctlReply s = .ok s v := by
  simp only [ctlReply, h]

theorem execRetain_replied {s : State} {gd ga gb : GReg} {ways : Fin 8} {a : Nat} {v : Word} (hc : Calm s) (h : s.me.pend = .reply a v) :
    execRetain gd ga gb ways s = retireWith s gd v := by
  simp only [execRetain, h, hc.settleCtl, ctlReply_of h, Ans.ok_bind]
  rfl

theorem execUnpin_replied {s : State} {gd ga : GReg} {a : Nat} {v : Word} (hc : Calm s) (h : s.me.pend = .reply a v) :
    execUnpin gd ga s = retireWith s gd v := by
  simp only [execUnpin, h, hc.settleCtl, ctlReply_of h, Ans.ok_bind]
  rfl

/-- An index beyond the eight has no retention (R244). -/
theorem execUnpin_range {s : State} {gd ga : GReg} (h : s.me.pend = .none) (hn : 8 ≤ (s.me.reg ga).toNat) :
    execUnpin gd ga s = retireWith s gd (BitVec.ofInt 64 (-4)) := by
  simp only [execUnpin, h, State.g, hn, if_true]
  rfl

theorem retainRange_none {s : State} {va len : Word} {p : Piece} {size : Nat} (h : va.toNat % 4096 ≠ 0 ∨ len.toNat % 4096 ≠ 0 ∨ len = 0) :
    retainRange s va len p size = none := by
  rw [retainRange, if_neg]
  rcases h with h | h | h <;> simp [h]

theorem execRetain_range {s s' : State} {gd ga gb : GReg} {ways : Fin 8} {p : Phys} (h : s.me.pend = .none)
    (hw : Unwatched s (s.me.reg ga) (s.me.reg gb).toNat true) (ht : s.translate (s.me.reg ga) 1 0 = .ok s' p)
    (hr : (s.me.reg ga).toNat % 4096 ≠ 0 ∨ (s.me.reg gb).toNat % 4096 ≠ 0 ∨ s.me.reg gb = 0) :
    execRetain gd ga gb ways s = retireWith s' gd (BitVec.ofInt 64 (-4)) := by
  simp only [execRetain, h, State.g, checkWatch_unwatched hw, Ans.ok_bind, locate_scalar (.inl rfl) (Nat.mod_one _) ht, retainRange_none hr]
  rfl

/-- Settles O36: by the reply that has come, or the range that is none. -/
theorem retentionRequestsWriteTheirStatus : Obligations.RetentionRequestsWriteTheirStatus := by
  intro s gd ga gb ways hc
  refine ⟨fun a v h => ⟨?_, ?_⟩, fun h hn => ?_, fun h s' p hw ht hr => ?_⟩
  · obtain ⟨t, ht, hrest⟩ := retireWith_spec s gd v
    exact ⟨t, (execRetain_replied hc h).trans ht, hrest⟩
  · obtain ⟨t, ht, hrest⟩ := retireWith_spec s gd v
    exact ⟨t, (execUnpin_replied hc h).trans ht, hrest⟩
  · obtain ⟨t, ht, hrest⟩ := retireWith_spec s gd (BitVec.ofInt 64 (-4))
    exact ⟨t, (execUnpin_range h hn).trans ht, hrest⟩
  · obtain ⟨t, ht', hrest⟩ := retireWith_spec s' gd (BitVec.ofInt 64 (-4))
    exact ⟨t, (execRetain_range h hw ht hr).trans ht', hrest⟩

/-! ### Sends (R246) -/

/-- The counter of a core's packets under way is in no footprint. -/
theorem Writes.countSent {f : Footprint} {s u : State} (h : Writes f s u) : Writes f s (u.onMe fun c => { c with others := c.others + 1 }) := by
  refine Writes.onMe (k := fun c => { c with others := c.others + 1 }) h ?_ rfl rfl rfl
  constructor <;> intros <;> simp [Core.reg, Core.brhits]

theorem sendTarget_ok {s : State} {ga : GReg} {t : Nat × Nat × Nat} (hn : (s.me.reg ga).toNat < 256) (h : launchTarget s (s.me.reg ga).toNat = some t) :
    sendTarget s ga = .ok s t := by
  simp only [sendTarget, State.g, hn, if_true, h]

theorem sendTarget_none {s : State} {ga : GReg} (h : 256 ≤ (s.me.reg ga).toNat ∨ launchTarget s (s.me.reg ga).toNat = none) :
    sendTarget s ga = .trap s targetTrap := by
  have hnone : (if (s.me.reg ga).toNat < 256 then launchTarget s (s.me.reg ga).toNat else none) = none := by
    rcases h with h | h
    · rw [if_neg (by omega)]
    · rw [h, ite_self]
  unfold sendTarget
  rw [show (if (s.g ga).toNat < 256 then launchTarget s (s.g ga).toNat else none) = none from hnone]

theorem execSend_ok {s : State} {ga gb : GReg} {m : MReg} {t : Nat × Nat × Nat} (hn : (s.me.reg ga).toNat < 256)
    (h : launchTarget s (s.me.reg ga).toNat = some t) (hroom : s.me.storeCount < 128) :
    ∃ u, exec (.send ga gb m) s = .next (u.sendNi (.msg t.1 t.2.1 t.2.2 (some s.me.id)
        { slot := m.val, value := s.me.reg gb, sender := s.me.id, scope := .core, brand := none } false)).retire ∧
      u.ni = s.ni ∧ u.me.others = s.me.others + 1 ∧ Frame {} s u := by
  refine ⟨s.onMe fun c => { c with others := c.others + 1 }, ?_, rfl, rfl, ((Writes.refl {} s).countSent).frame⟩
  show execSend ga gb m s = _
  simp only [execSend, sendTarget_ok hn h, Ans.ok_bind, roomForStore_room (show s.me.storeCount + 1 ≤ 128 from hroom)]
  rfl

theorem execSendb_ok {s : State} {ga gb : GReg} {m : MReg} {sc : Scope} {t : Nat × Nat × Nat} (hc : Calm s) (hn : (s.me.reg ga).toNat < 256)
    (h : launchTarget s (s.me.reg ga).toNat = some t) (hroom : s.me.storeCount < 128) (hs : s.me.storesDone = true) (he : enginesDone s s.me.id = true) :
    ∃ u, exec (.sendb ga gb m sc) s = .next (u.sendNi (.msg t.1 t.2.1 t.2.2 (some s.me.id)
        { slot := m.val, value := s.me.reg gb, sender := s.me.id, scope := sc, brand := some s.me.writtenBrand } false)).retire ∧
      u.ni = s.ni ∧ u.me.others = s.me.others + 1 ∧ u.me.brand = 0 ∧ Frame { brand := true } s u := by
  refine ⟨(s.onMe (·.releaseBrand)).onMe fun c => { c with others := c.others + 1 }, ?_, rfl, rfl, rfl,
    (((Writes.refl { brand := true } s).releaseBrand rfl).countSent).frame⟩
  show execSendb ga gb m sc s = _
  simp only [execSendb, sendTarget_ok hn h, Ans.ok_bind, awaitRelease_done hc hs he, roomForStore_room (show s.me.storeCount + 1 ≤ 128 from hroom)]
  rfl

/-! ### Receives (R247, R250) -/

theorem Core.fillSlot_eq (c : Core) (m : Msg) : ∃ poison mbox, c.fillSlot m = { c with poison := poison, mbox := mbox } := by
  obtain ⟨poison, h⟩ := c.clean_eq (.mbox (m.slot % 32))
  unfold Core.fillSlot
  rw [h]
  exact ⟨poison, _, rfl⟩

/-- Refilled slots: only the mailbox and what waits for it change. -/
theorem Core.refill_eq (c : Core) : ∃ poison mbox arrivals, c.refill = { c with poison := poison, mbox := mbox, arrivals := arrivals } := by
  have hfold (l : List Nat) : ∀ c : Core, ∃ poison mbox arrivals, l.foldl (fun (c : Core) m =>
      if c.slotEmpty m then
        match c.arrivals.find? (·.slot == m) with
        | some x => { c.fillSlot x with arrivals := c.arrivals.eraseP (·.slot == m) }
        | none => c
      else c) c = { c with poison := poison, mbox := mbox, arrivals := arrivals } := by
    induction l with
    | nil => exact fun c => ⟨c.poison, c.mbox, c.arrivals, rfl⟩
    | cons m l ih =>
      intro c
      rw [List.foldl_cons]
      split
      · split
        · rename_i x _
          obtain ⟨poison, mbox, hfill⟩ := c.fillSlot_eq x
          rw [hfill]
          obtain ⟨poison', mbox', arrivals', h⟩ := ih { c with poison := poison, mbox := mbox, arrivals := c.arrivals.eraseP (·.slot == m) }
          exact ⟨poison', mbox', arrivals', h⟩
        · exact ih c
      · exact ih c
  exact hfold _ c

theorem Core.refill_none {c : Core} (h : c.arrivals = []) : c.refill = c := by
  have hfold (l : List Nat) : l.foldl (fun (c : Core) m =>
      if c.slotEmpty m then
        match c.arrivals.find? (·.slot == m) with
        | some x => { c.fillSlot x with arrivals := c.arrivals.eraseP (·.slot == m) }
        | none => c
      else c) c = c := by
    induction l with
    | nil => rfl
    | cons m l ih =>
      rw [List.foldl_cons]
      have hstep : (if c.slotEmpty m then
          match c.arrivals.find? (·.slot == m) with
          | some x => { c.fillSlot x with arrivals := c.arrivals.eraseP (·.slot == m) }
          | none => c
        else c) = c := by
        simp only [h, List.find?_nil, ite_self]
      rw [hstep]
      exact ih
  exact hfold _

theorem loftMoves_none {s : State} {k : Nat} (h : (s.core k).loft = []) (fuel : Nat) : loftMoves k fuel s = s := by
  have hone (task : Bool) : loftMoveOne s k task = none := by
    simp [loftMoveOne, heldRecords, h]
  cases fuel with
  | zero => rfl
  | succ n => simp only [loftMoves, hone]

/-- What the NI of the moving core does at once in a calm machine: it refills the slots. -/
theorem niSettle_calm {s : State} (h : s.lazy = true ∨ s.me.loft = []) : s.niSettle s.me.id = s.onMe (·.refill) := by
  have hset : s.setCore (s.core s.me.id).refill = s.onMe (·.refill) := by
    obtain ⟨_, _, _, hr⟩ := s.me.refill_eq
    rw [State.core_me, State.setCore, if_pos (by rw [hr]; simp)]
    rfl
  unfold State.niSettle
  simp only [hset]
  split
  · rfl
  · rename_i hl
    rw [State.onMe_lazy] at hl
    refine loftMoves_none ?_ _
    have hloft : s.me.loft = [] := h.resolve_left hl
    obtain ⟨_, _, _, hr⟩ := s.me.refill_eq
    have hme : (s.onMe (·.refill)).me = s.me.refill := State.onMe_me s _
    have hid : s.me.id = (s.onMe (·.refill)).me.id := by rw [hme, hr]
    rw [hid, State.core_me, hme, hr]
    exact hloft

theorem Writes.refill {f : Footprint} {s u : State} (h : Writes f s u) (hf : f.m = List.finRange 32) : Writes f s (u.onMe (·.refill)) := by
  obtain ⟨_, _, _, hk⟩ := u.me.refill_eq
  refine Writes.onMe (k := fun c => c.refill) h ?_ ?_ ?_ ?_ <;> rw [hk]
  constructor <;> intros <;> simp_all [Core.reg, Core.brhits]

theorem Writes.applyBranded {f : Footprint} {s u : State} (h : Writes f s u) (hf : f.brand = true) (sc : Scope) (b : Option (BitVec 960)) :
    Writes f s (u.applyBranded sc b) := by
  unfold State.applyBranded
  split
  · exact h.brandTest hf _
  · exact h.brandTest hf _
  · exact h

theorem Core.setReg_eq (c : Core) (r : GReg) (v : Word) : ∃ g, c.setReg r v = { c with g := g } := by
  unfold Core.setReg
  split
  · exact ⟨c.g, rfl⟩
  · exact ⟨_, rfl⟩

/-- A machine that differs from a calm one in its moving core alone, with the same loft, is calm. -/
theorem Calm.me {s : State} (h : Calm s) (c : Core) (hl : c.loft = s.me.loft) : Calm { s with me := c } := by
  rcases h with h | ⟨h1, h2, h3, h4, h5, h6⟩
  · exact .inl h
  · exact .inr ⟨h1, h2, h3, h4, h5, hl.trans h6⟩

/-- The branding of a message taken by the moving core: nothing, or a test of its U lines by the message's brand. -/
theorem State.applyBranded_cases (s : State) (sc : Scope) (b : Option (BitVec 960)) :
    s.applyBranded sc b = s ∨ ∃ a, s.applyBranded sc b = s.brandTest a := by
  unfold State.applyBranded
  split
  · exact .inr ⟨_, rfl⟩
  · exact .inr ⟨_, rfl⟩
  · exact .inl rfl

/-- Covering fills changes only what travels. -/
theorem State.coverFills_eq (s : State) (hit : Nat → Bool) : ∃ net, s.coverFills hit = { s with net := net } ∧ (s.net = [] → net = []) := by
  refine ⟨(s.coverFills hit).net, rfl, fun h => ?_⟩
  rw [State.coverFills, State.coverFillsOf, h]
  rfl

theorem State.brandTest_eq (s : State) (a : BitVec 960) : ∃ net c, s.brandTest a = { s with me := c, net := net } ∧ (s.net = [] → net = []) ∧
    ∃ cache last full total brand, c = { s.me with cache := cache, brLast := last, brFull := full, brTotal := total, brand := brand } := by
  obtain ⟨last, full, total, brand, hb⟩ := s.me.brandTest_eq a
  obtain ⟨net, h, hnet⟩ := (s.onMe (·.brandTest a)).coverFills_eq fun line => a == fullBrand || brandHits a line
  rw [State.onMe_net] at hnet
  refine ⟨net, s.me.brandTest a, ?_, hnet, _, last, full, total, brand, hb⟩
  unfold State.brandTest
  rw [h, State.onMe]

theorem State.applyBranded_eq (s : State) (sc : Scope) (b : Option (BitVec 960)) : ∃ net c,
    s.applyBranded sc b = { s with me := c, net := net } ∧ (s.net = [] → net = []) ∧
    ∃ cache last full total brand, c = { s.me with cache := cache, brLast := last, brFull := full, brTotal := total, brand := brand } := by
  rcases s.applyBranded_cases sc b with h | ⟨a, h⟩
  · exact ⟨s.net, s.me, h, id, s.me.cache, s.me.brLast, s.me.brFull, s.me.brTotal, s.me.brand, rfl⟩
  · obtain ⟨net, c, hb⟩ := s.brandTest_eq a
    exact ⟨net, c, h ▸ hb⟩

/-- RECV's state before the slots are refilled. -/
def tookSlot (s : State) (m : MReg) (gd : GReg) : State :=
  ((s.setG gd (s.me.mbox[m]).value).onMe fun c => { c with mbox := c.mbox.set m { s.me.mbox[m] with present := false } }).applyBranded
    (s.me.mbox[m]).scope (s.me.mbox[m]).brand

theorem tookSlot_eq (s : State) (m : MReg) (gd : GReg) : ∃ net c, tookSlot s m gd = { s with me := c, net := net } ∧ (s.net = [] → net = []) ∧
    ∃ cache last full total brand, c = { s.me.setReg gd (s.me.mbox[m]).value with
      mbox := s.me.mbox.set m { s.me.mbox[m] with present := false }, cache := cache, brLast := last, brFull := full, brTotal := total, brand := brand } := by
  obtain ⟨net, c, h, hnet, cache, last, full, total, brand, hc⟩ := State.applyBranded_eq ((s.setG gd (s.me.mbox[m]).value).onMe fun c =>
    { c with mbox := c.mbox.set m { s.me.mbox[m] with present := false } }) (s.me.mbox[m]).scope (s.me.mbox[m]).brand
  refine ⟨net, c, h, hnet, cache, last, full, total, brand, hc.trans ?_⟩
  obtain ⟨g, hg⟩ := s.me.setReg_eq gd (s.me.mbox[m]).value
  rw [State.setG, State.onMe, hg]

/-- What stays of the moving core once it took a slot. -/
theorem tookSlot_me (s : State) (m : MReg) (gd : GReg) : (tookSlot s m gd).me.id = s.me.id ∧ (tookSlot s m gd).me.loft = s.me.loft ∧
    (tookSlot s m gd).me.arrivals = s.me.arrivals ∧ (tookSlot s m gd).me.mbox = s.me.mbox.set m { s.me.mbox[m] with present := false } ∧
    (tookSlot s m gd).me.reg gd = held gd (s.me.mbox[m]).value := by
  obtain ⟨net, c, h, -, cache, last, full, total, brand, hc⟩ := tookSlot_eq s m gd
  have hreg : (s.me.setReg gd (s.me.mbox[m]).value).reg gd = held gd (s.me.mbox[m]).value := Core.reg_setReg_self ..
  obtain ⟨g, hg⟩ := s.me.setReg_eq gd (s.me.mbox[m]).value
  rw [hg] at hc hreg
  rw [h, hc]
  exact ⟨rfl, rfl, rfl, rfl, hreg⟩

theorem Calm.tookSlot {s : State} (h : Calm s) (m : MReg) (gd : GReg) : Calm (tookSlot s m gd) := by
  obtain ⟨-, hloft, -⟩ := tookSlot_me s m gd
  obtain ⟨net, c, heq, hnet, -⟩ := tookSlot_eq s m gd
  rw [heq] at hloft ⊢
  rcases h with h | ⟨h1, h2, h3, h4, h5, h6⟩
  · exact .inl h
  · exact .inr ⟨hnet h1, h2, h3, h4, h5, hloft.trans h6⟩

theorem takeSlot_calm {s : State} (hc : Calm s) (m : MReg) (gd : GReg) : s.takeSlot m gd = (tookSlot s m gd).onMe (·.refill) := by
  have hid : (s.me.setReg gd (s.me.mbox[m]).value).id = (Machine.tookSlot s m gd).me.id := by
    rw [(tookSlot_me s m gd).1]
    obtain ⟨g, hg⟩ := s.me.setReg_eq gd (s.me.mbox[m]).value
    rw [hg]
  have hset : s.takeSlot m gd = ((Machine.tookSlot s m gd).niSettle (s.me.setReg gd (s.me.mbox[m]).value).id).settleNi := rfl
  rw [hset, hid, niSettle_calm ((hc.tookSlot m gd).imp_right fun h => h.2.2.2.2.2)]
  refine Calm.settleNi ?_
  obtain ⟨_, _, _, hr⟩ := (Machine.tookSlot s m gd).me.refill_eq
  rw [State.onMe, hr]
  exact (hc.tookSlot m gd).me _ rfl

theorem Writes.takeSlot {f : Footprint} {s : State} (hc : Calm s) {m : MReg} {gd : GReg} (hg : gd ∈ f.g) (hm : f.m = List.finRange 32)
    (hb : f.brand = true) : Writes f s (s.takeSlot m gd) := by
  rw [takeSlot_calm hc]
  refine Writes.refill (Writes.applyBranded ?_ hb _ _) hm
  refine Writes.onMe (k := fun c => { c with mbox := c.mbox.set m { s.me.mbox[m] with present := false } })
    ((Writes.refl f s).setG hg _) ?_ rfl rfl rfl
  constructor <;> intros <;> simp_all [Core.reg]

theorem takeSlot_reg {s : State} (hc : Calm s) (m : MReg) (gd : GReg) : (s.takeSlot m gd).me.reg gd = held gd (s.me.mbox[m]).value := by
  obtain ⟨-, -, -, -, hreg⟩ := tookSlot_me s m gd
  obtain ⟨_, _, _, hr⟩ := (tookSlot s m gd).me.refill_eq
  rw [takeSlot_calm hc, State.onMe_me, hr]
  exact hreg

theorem takeSlot_mbox {s : State} (hc : Calm s) (m : MReg) (gd : GReg) (ha : s.me.arrivals = []) :
    (s.takeSlot m gd).me.mbox = s.me.mbox.set m { s.me.mbox[m] with present := false } := by
  obtain ⟨-, -, harr, hmbox, -⟩ := tookSlot_me s m gd
  rw [takeSlot_calm hc, State.onMe_me, Core.refill_none (harr.trans ha), hmbox]

theorem recv_present {s : State} (hc : Calm s) (gd : GReg) {m : MReg} (hp : (s.me.mbox[m]).present = true) :
    ∃ t, exec (.recv gd m) s = .next t ∧ t.me.reg gd = held gd (s.me.mbox[m]).value ∧ Retired s t ∧
      (s.me.arrivals = [] → (t.me.mbox[m]).present = false ∧ ∀ k, k ≠ m → t.me.mbox[k] = s.me.mbox[k]) ∧
      Frame { g := [gd], m := List.finRange 32, brand := true } s t := by
  obtain ⟨hr, hf⟩ := (Writes.takeSlot (f := { g := [gd], m := List.finRange 32, brand := true }) hc (m := m) (gd := gd) (by simp) rfl rfl).does.retires
  refine ⟨(s.takeSlot m gd).retire, ?_, takeSlot_reg hc m gd, hr, fun ha => ?_, hf⟩
  · show execRecv gd m s = _
    rw [execRecv, if_pos hp]
    rfl
  · show (((s.takeSlot m gd).me.mbox)[m]).present = false ∧ ∀ k : MReg, k ≠ m → ((s.takeSlot m gd).me.mbox)[k] = s.me.mbox[k]
    rw [takeSlot_mbox hc m gd ha]
    exact ⟨by simp, fun k hk => by rw [getElem_set_fin, if_neg hk]⟩

theorem recv_absent {s : State} (gd : GReg) {m : MReg} (hp : (s.me.mbox[m]).present = false) :
    ∃ t, exec (.recv gd m) s = .next t ∧ Waits s t ∧ Frame {} s t := by
  obtain ⟨hw, hf⟩ := (Does.refl {} s).waits rfl
  refine ⟨s.hold, ?_, hw, hf⟩
  show execRecv gd m s = _
  rw [execRecv, if_neg fun e => Bool.false_ne_true (hp.symm.trans e)]
  rfl

/-- A write to one register is what the next write to another leaves. -/
theorem setG_setG_reg (s : State) {gd gb : GReg} (h : gd ≠ gb) (v w : Word) :
    ((s.setG gd v).setG gb w).me.reg gd = held gd v ∧ ((s.setG gd v).setG gb w).me.reg gb = held gb w := by
  refine ⟨?_, Core.reg_setReg_self ..⟩
  show ((s.me.setReg gd v).setReg gb w).reg gd = _
  rw [Core.reg_setReg, if_neg fun e => h e.1]
  exact Core.reg_setReg_self ..

/-- RECVANY of no slot. -/
theorem recvany_none {s : State} {gd ga gb : GReg} (hmask : (s.me.reg ga).setWidth 32 = 0#32) (hne : gd ≠ gb) :
    ∃ t, exec (.recvany gd ga gb) s = .next t ∧ t.me.reg gd = 0 ∧ t.me.reg gb = held gb (BitVec.allOnes 64) ∧ Retired s t ∧ Frame { g := [gd, gb] } s t := by
  have hzero : (s.g ga).toNat % 2 ^ 32 = 0 := by
    have h := congrArg BitVec.toNat hmask
    rw [BitVec.toNat_setWidth] at h
    exact h
  obtain ⟨hr, hf⟩ := (((Writes.refl { g := [gd, gb] } s).setG (r := gd) (by simp) 0).setG (r := gb) (by simp) (BitVec.allOnes 64)).does.retires
  obtain ⟨hgd, hgb⟩ := setG_setG_reg s hne 0 (BitVec.allOnes 64)
  refine ⟨((s.setG gd 0).setG gb (BitVec.allOnes 64)).retire, ?_, hgd.trans (ite_self _), hgb, hr, hf⟩
  show execRecvany gd ga gb s = _
  simp only [execRecvany, hzero, beq_self_eq_true, if_true]
  rfl

theorem bitAt_low32 {a : Word} (k : Fin 32) : bitAt (a.toNat % 2 ^ 32) k.val = a.getLsbD k.val := by
  have hbit : (a.toNat % 2 ^ 32).testBit k.val = a.getLsbD k.val := by
    rw [Nat.testBit_mod_two_pow, BitVec.getLsbD]
    simp
  rw [← hbit, Nat.testBit_eq_decide_div_mod_eq]
  rfl

/-- The lowest present slot of a mask. -/
theorem lowestSlot_eq {c : Core} {a : Word} {m : MReg} (hm : a.getLsbD m.val = true) (hp : (c.mbox[m]).present = true)
    (hlow : ∀ k : MReg, k < m → ¬(a.getLsbD k.val = true ∧ (c.mbox[k]).present = true)) : lowestSlot c (a.toNat % 2 ^ 32) = some m := by
  have hhas : ((List.finRange 32).find? fun k => bitAt (a.toNat % 2 ^ 32) k.val && (c.mbox[k]).present).isSome := by
    rw [List.find?_isSome]
    exact ⟨m, List.mem_finRange m, by rw [bitAt_low32, hm, hp]; rfl⟩
  obtain ⟨k, hk⟩ := Option.isSome_iff_exists.mp hhas
  have hkb := List.find?_some hk
  rw [bitAt_low32, Bool.and_eq_true] at hkb
  have hfirst : ∀ j : MReg, j < k → ¬(a.getLsbD j.val = true ∧ (c.mbox[j]).present = true) := by
    obtain ⟨-, i, hi, hik, hbefore⟩ := List.find?_eq_some_iff_getElem.mp hk
    intro j hj hjb
    have hki : k.val = i := by
      rw [← hik]
      simp
    have hjn := hbefore j.val (hki ▸ hj)
    rw [List.getElem_finRange, show Fin.cast (List.length_finRange (n := 32)) ⟨j.val, _⟩ = j from rfl, bitAt_low32, hjb.1, hjb.2] at hjn
    exact absurd hjn (by decide)
  have hle : ¬k < m := fun h => hlow k h hkb
  have hge : ¬m < k := fun h => hfirst m h ⟨hm, hp⟩
  rw [lowestSlot, hk, Fin.le_antisymm (Fin.not_lt.mp hge) (Fin.not_lt.mp hle)]

theorem recvany_lowest {s : State} (hc : Calm s) {gd ga gb : GReg} {m : MReg} (hm : (s.me.reg ga).getLsbD m.val = true)
    (hp : (s.me.mbox[m]).present = true) (hne : gd ≠ gb)
    (hlow : ∀ k : MReg, k < m → ¬((s.me.reg ga).getLsbD k.val = true ∧ (s.me.mbox[k]).present = true)) :
    ∃ t, exec (.recvany gd ga gb) s = .next t ∧ t.me.reg gd = held gd (s.me.mbox[m]).value ∧
      t.me.reg gb = held gb (BitVec.ofNat 64 m.val) ∧ Retired s t ∧ Frame { g := [gd, gb], m := List.finRange 32, brand := true } s t := by
  have hmask : ((s.g ga).toNat % 2 ^ 32 == 0) = false := by
    rw [beq_eq_false_iff_ne]
    intro h0
    have hbit := bitAt_low32 (a := s.me.reg ga) m
    rw [show (s.me.reg ga).toNat % 2 ^ 32 = 0 from h0, hm] at hbit
    simp [bitAt] at hbit
  have hfind : lowestSlot s.me ((s.g ga).toNat % 2 ^ 32) = some m := lowestSlot_eq hm hp hlow
  obtain ⟨hr, hf⟩ := ((Writes.takeSlot (f := { g := [gd, gb], m := List.finRange 32, brand := true }) hc (m := m) (gd := gd) (by simp) rfl rfl).setG
    (r := gb) (by simp) (BitVec.ofNat 64 m.val)).does.retires
  refine ⟨((s.takeSlot m gd).setG gb (BitVec.ofNat 64 m.val)).retire, ?_, ?_, Core.reg_setReg_self .., hr, hf⟩
  · show execRecvany gd ga gb s = _
    simp only [execRecvany, hmask, hfind]
    rfl
  · refine Eq.trans ?_ (takeSlot_reg hc m gd)
    show ((s.takeSlot m gd).me.setReg gb (BitVec.ofNat 64 m.val)).reg gd = _
    rw [Core.reg_setReg, if_neg fun e => hne e.1]

theorem peek_reads (s : State) {gd gb : GReg} (m : MReg) (hne : gd ≠ gb) :
    ∃ t, exec (.peek gd gb m) s = .next t ∧ t.me.reg gd = held gd (if (s.me.mbox[m]).present then (s.me.mbox[m]).value else 0) ∧
      t.me.reg gb = held gb (oneIf ((s.me.mbox[m]).present = true)) ∧ Retired s t ∧ Frame { g := [gd, gb] } s t := by
  obtain ⟨hr, hf⟩ := (((Writes.refl { g := [gd, gb] } s).setG (r := gd) (by simp) (if (s.me.mbox[m]).present then (s.me.mbox[m]).value else 0)).setG
    (r := gb) (by simp) (if (s.me.mbox[m]).present then 1 else 0)).does.retires
  obtain ⟨hgd, hgb⟩ := setG_setG_reg s hne (if (s.me.mbox[m]).present then (s.me.mbox[m]).value else 0) (if (s.me.mbox[m]).present then 1 else 0)
  exact ⟨_, rfl, hgd, hgb, hr, hf⟩

/-! ### TKADD and TKADDB (R320) -/

theorem needLaunch_some {s : State} {l : Launch} (h : s.launchOfCore s.me.id = some l) (k : Launch → Ans Unit) : needLaunch s k = finish (k l) := by
  simp only [needLaunch, h]

theorem Writes.countTask {f : Footprint} {s u : State} (h : Writes f s u) : Writes f s (u.onMe fun c => { c with sent := c.sent + 1 }) := by
  refine Writes.onMe (k := fun c => { c with sent := c.sent + 1 }) h ?_ rfl rfl rfl
  constructor <;> intros <;> simp [Core.reg, Core.brhits]

theorem execTkadd_ok {s : State} {gd ga gb : GReg} {l : Launch} {n x y : Nat} (hl : s.launchOfCore s.me.id = some l)
    (ht : taskTarget s (s.me.reg ga) = .ok s (n, x, y)) (hroom : s.me.storeCount < 128) :
    ∃ u, exec (.tkadd gd ga gb) s = .next (u.sendNi (.task n x y (some s.me.id)
        (buildTask s (s.me.reg ga) (s.me.reg gb) (s.me.reg gd) .core none) false)).retire ∧
      u.ni = s.ni ∧ u.me.sent = s.me.sent + 1 ∧ u.me.others = s.me.others + 1 ∧ Frame {} s u := by
  refine ⟨(s.onMe fun c => { c with sent := c.sent + 1 }).onMe fun c => { c with others := c.others + 1 }, ?_, rfl, rfl, rfl,
    ((Writes.refl {} s).countTask.countSent).frame⟩
  show execTkadd gd ga gb s = _
  simp only [execTkadd, needLaunch_some hl, State.g, ht, Ans.ok_bind, roomForStore_room (show s.me.storeCount + 1 ≤ 128 from hroom)]
  rfl

theorem execTkaddb_ok {s : State} {gd ga gb : GReg} {sc : Scope} {l : Launch} {n x y : Nat} (hc : Calm s) (hl : s.launchOfCore s.me.id = some l)
    (ht : taskTarget s (s.me.reg ga) = .ok s (n, x, y)) (hroom : s.me.storeCount < 128) (hs : s.me.storesDone = true)
    (he : enginesDone s s.me.id = true) :
    ∃ u, exec (.tkaddb gd ga gb sc) s = .next (u.sendNi (.task n x y (some s.me.id)
        (buildTask s (s.me.reg ga) (s.me.reg gb) (s.me.reg gd) sc (some s.me.writtenBrand)) false)).retire ∧
      u.ni = s.ni ∧ u.me.sent = s.me.sent + 1 ∧ u.me.others = s.me.others + 1 ∧ u.me.brand = 0 ∧ Frame { brand := true } s u := by
  refine ⟨((s.onMe (·.releaseBrand)).onMe fun c => { c with sent := c.sent + 1 }).onMe fun c => { c with others := c.others + 1 }, ?_, rfl, rfl, rfl, rfl,
    ((((Writes.refl { brand := true } s).releaseBrand rfl).countTask).countSent).frame⟩
  show execTkaddb gd ga gb sc s = _
  simp only [execTkaddb, needLaunch_some hl, State.g, ht, Ans.ok_bind, awaitRelease_done hc hs he,
    roomForStore_room (show s.me.storeCount + 1 ≤ 128 from hroom)]
  rfl

/-! ### RECVT (R321, R322) -/

/-- A footprint may grow where nothing outside it is touched. -/
theorem Outside.mono {rs qs : List (Nat × Nat)} (h : ∀ r ∈ qs, ∃ q ∈ rs, q.1 ≤ r.1 ∧ r.1 + r.2 ≤ q.1 + q.2) {x : Nat} (hx : Outside rs x) : Outside qs x := by
  intro r hr hin
  obtain ⟨q, hq, hlo, hhi⟩ := h r hr
  exact hx q hq ⟨by omega, by omega⟩

theorem Does.coverMem {f : Footprint} {rs qs : List (Nat × Nat)} {s u : State} (h : Does { mem := qs } s u) (hf : f.mem = rs)
    (hcover : ∀ r ∈ qs, ∃ q ∈ rs, q.1 ≤ r.1 ∧ r.1 + r.2 ≤ q.1 + q.2) : Does f s u := by
  obtain ⟨⟨hsame, hid, hothers, hmem⟩, hnpc, hcount⟩ := h
  obtain ⟨hg, ht, ha, hw, hh, hm, hflags, hgen, hbrand, htrap, hsys, hcwin, hnum, hpad⟩ := hsame
  have hsame : SameCore {} s.me u.me := ⟨hg, ht, ha, hw, hh, hm, hflags, hgen, hbrand, htrap, hsys, hcwin, hnum, hpad⟩
  exact ⟨⟨hsame.widen f, hid, hothers, fun x hx => hmem x ((hf ▸ hx).mono hcover)⟩, hnpc, hcount⟩

theorem mem_cutPieces {n : Nat} {ps : List Piece} {q : Piece} (h : q ∈ cutPieces n ps) : ∃ p ∈ ps, q.pa = p.pa ∧ q.len ≤ p.len := by
  obtain ⟨p, hp, hq⟩ := List.mem_filterMap.mp h
  split at hq
  · obtain rfl := Option.some.inj hq
    exact ⟨p, hp, rfl, Nat.min_le_left ..⟩
  · exact absurd hq (by simp)

theorem OwnPieces.cut {s : State} {ps : List Piece} (h : OwnPieces s ps) (n : Nat) : OwnPieces s (cutPieces n ps) := by
  intro q hq
  obtain ⟨p, hp, hpa, hlen⟩ := mem_cutPieces hq
  obtain ⟨hplace, hfit⟩ := h p hp
  rw [hpa]
  exact ⟨hplace, by omega⟩

/-- The landing of a task in the own scratchpad touches no byte outside its pieces. -/
theorem landing_own {s : State} {ps : List Piece} (n v : Nat) (hown : OwnPieces s ps) (hm : s.mem.wf = true) :
    Does { mem := pieceRanges ps } s (storePieces true false false s.tock (cutPieces n ps) v) := by
  have hstore : Does { mem := pieceRanges (cutPieces n ps) } s.tock (storePieces true false false s.tock (cutPieces n ps) v) :=
    (storePieces_own (s := s.tock) (hown.cut n) hm fun p hp => List.mem_map.mpr ⟨p, hp, rfl⟩).2
  have htock : Does { mem := pieceRanges ps } s s.tock := ⟨⟨SameCore.refl _ _, rfl, fun k _ => SameCore.refl _ _, fun _ _ => rfl⟩, rfl, rfl⟩
  refine htock.follow (hstore.coverMem rfl fun r hr => ?_)
  obtain ⟨q, hq, rfl⟩ := List.mem_map.mp hr
  obtain ⟨p, hp, hpa, hlen⟩ := mem_cutPieces hq
  exact ⟨(p.pa, p.len), List.mem_map.mpr ⟨p, hp, rfl⟩, by simp only [hpa]; omega, by simp only [hpa]; omega⟩

/-- The wait that is stamped on a task leaves the entry, the flags and the arguments below it. -/
theorem Task.stamp_low (t : Task) (tick : Nat) : (t.stamp tick).record.toNat % 2 ^ 192 = t.record.toNat % 2 ^ 192 := by
  refine Nat.eq_of_testBit_eq fun j => ?_
  rw [Task.stamp, Nat.testBit_mod_two_pow, Nat.testBit_mod_two_pow]
  by_cases hj : j < 192
  · rw [show (BitVec.ofNat 256 (setBits t.record.toNat 192 32 (Config.queueWait tick).toNat)).toNat.testBit j =
      (BitVec.ofNat 256 (setBits t.record.toNat 192 32 (Config.queueWait tick).toNat)).getLsbD j from rfl, BitVec.getLsbD_ofNat, testBit_setBits,
      if_neg (by omega)]
    simp [hj]
    omega
  · simp [hj]

theorem Task.stamp_entry (t : Task) (tick : Nat) : (t.stamp tick).record.toNat / 4 % 2 ^ 46 = t.record.toNat / 4 % 2 ^ 46 := by
  have h := t.stamp_low tick
  omega

theorem Task.stamp_rest (t : Task) (tick : Nat) : (t.stamp tick).rest = t.rest := by
  have h := t.stamp_low tick
  have hbit : (t.stamp tick).record.toNat / 2 % 2 = t.record.toNat / 2 % 2 := by omega
  simp only [Task.rest, bitAt, Nat.pow_one, hbit]

/-- The registers and the queue's counts as a task is taken. -/
def tookTask (u : State) (gd : GReg) (t : Task) : State :=
  (u.setG gd (sext48 (t.record.toNat / 4 % 2 ^ 46 * 4))).onMe fun c => { c with inHand := some t, taken := c.taken + 1, granted := none, search := none }

/-- A task without REST and without a brand leaves nothing but its landing, the entry, and the counts. -/
theorem takeTask_plain {s : State} {gd : GReg} {ps : List Piece} {t : Task} (hrest : t.rest = false) (hbrand : t.brand = none) :
    s.takeTask gd ps t = tookTask (storePieces true false false s.tock (cutPieces (40 + (t.stamp s.tick).snapLen) ps) (t.stamp s.tick).landing) gd
      (t.stamp s.tick) := by
  have hplain (u : State) : (u.applyBranded (t.stamp s.tick).scope none).openRestart (t.stamp s.tick) = u := by
    have hkeep : keepsRestart u (t.stamp s.tick) = false := by
      rw [keepsRestart, Task.stamp_rest, hrest, Bool.false_and]
    rw [State.applyBranded.eq_3 _ _ _ (by simp) (by simp), State.openRestart, hkeep]
    rfl
  have hnone : (t.stamp s.tick).brand = none := by
    unfold Task.stamp
    exact hbrand
  unfold State.takeTask
  extract_lets t' u v
  rw [show t'.brand = none from hnone]
  exact hplain v

theorem tookTask_does {f : Footprint} {s u : State} {gd : GReg} (t : Task) (h : Does f s u) (hg : gd ∈ f.g) : Does f s (tookTask u gd t) := by
  refine h.follow (Writes.does ?_)
  refine Writes.onMe (k := fun c => { c with inHand := some t, taken := c.taken + 1, granted := none, search := none }) ((Writes.refl f u).setG hg _) ?_ rfl rfl rfl
  constructor <;> intros <;> simp [Core.reg, Core.brhits]

theorem tookTask_me (u : State) (gd : GReg) (t : Task) : (tookTask u gd t).me.reg gd = held gd (sext48 (t.record.toNat / 4 % 2 ^ 46 * 4)) ∧
    (tookTask u gd t).me.inHand = some t ∧ (tookTask u gd t).me.taken = u.me.taken + 1 ∧ (tookTask u gd t).me.granted = none ∧
    (tookTask u gd t).me.taskQueue = u.me.taskQueue := by
  have hreg := Core.reg_setReg_self u.me gd (sext48 (t.record.toNat / 4 % 2 ^ 46 * 4))
  obtain ⟨g, hg⟩ := u.me.setReg_eq gd (sext48 (t.record.toNat / 4 % 2 ^ 46 * 4))
  unfold tookTask State.onMe State.setG
  rw [hg] at hreg ⊢
  exact ⟨hreg, rfl, rfl, rfl, rfl⟩

theorem storePieces_own_me {v : Nat} {ps : List Piece} : ∀ {s : State}, OwnPieces s ps →
    (∃ code, (storePieces true false false s ps v).me = { s.me with code := code }) ∧ (storePieces true false false s ps v).lazy = s.lazy ∧
      (storePieces true false false s ps v).ni = s.ni := by
  induction ps with
  | nil => exact fun {s} _ => ⟨⟨s.me.code, rfl⟩, rfl, rfl⟩
  | cons p ps ih =>
    intro s hown
    obtain ⟨⟨cell, hplace, hcell⟩, -⟩ := hown p (by simp)
    have hown' : OwnPieces s ps := fun q hq => hown q (by simp [hq])
    obtain ⟨code, hme⟩ := s.me.noteCode_eq s.mem p.pa p.len
    obtain ⟨⟨code', h⟩, hlazy, hni⟩ := ih (hown'.place p.pa p.len (v / 2 ^ (8 * p.pos) % 2 ^ (8 * p.len)))
    rw [storePieces, List.foldl_cons, storePiece_own hplace hcell]
    refine ⟨⟨code', h.trans ?_⟩, hlazy, hni⟩
    rw [show (s.place p.pa p.len (v / 2 ^ (8 * p.pos) % 2 ^ (8 * p.len))).me = { s.me with code := code } from hme]

/-- The taking of a plain task whose landing is in the own scratchpad (R322). -/
theorem takeTask_own {f : Footprint} {s : State} {gd : GReg} {ps : List Piece} {x : Task} (hfg : gd ∈ f.g) (hfm : f.mem = pieceRanges ps) (hrest : x.rest = false) (hbrand : x.brand = none) (hown : OwnPieces s ps)
    (hm : s.mem.wf = true) : (s.takeTask gd ps x).me.reg gd = held gd (sext48 (x.record.toNat / 4 % 2 ^ 46 * 4)) ∧
      (s.takeTask gd ps x).me.inHand = some (x.stamp s.tick) ∧ (s.takeTask gd ps x).me.taken = s.me.taken + 1 ∧ (s.takeTask gd ps x).me.granted = none ∧
      (s.takeTask gd ps x).me.taskQueue = s.me.taskQueue ∧ ((s.takeTask gd ps x).lazy = s.lazy ∧ (s.takeTask gd ps x).ni = s.ni) ∧ Does f s (s.takeTask gd ps x) := by
  have hland := landing_own (40 + (x.stamp s.tick).snapLen) (x.stamp s.tick).landing hown hm
  obtain ⟨⟨code, hme⟩, hlazy, hni⟩ := storePieces_own_me (s := s.tock) (v := (x.stamp s.tick).landing) (hown.cut (40 + (x.stamp s.tick).snapLen))
  obtain ⟨hreg, hhand, htaken, hgranted, hqueue⟩ :=
    tookTask_me (storePieces true false false s.tock (cutPieces (40 + (x.stamp s.tick).snapLen) ps) (x.stamp s.tick).landing) gd (x.stamp s.tick)
  rw [hme] at htaken hqueue
  rw [x.stamp_entry] at hreg
  rw [takeTask_plain hrest hbrand]
  exact ⟨hreg, hhand, htaken, hgranted, hqueue, ⟨hlazy, hni⟩, tookTask_does _ (hland.coverMem hfm fun r hr => ⟨r, hr, Nat.le_refl _, Nat.le_refl _⟩) hfg⟩

/-- Where RECVT stands once its checks have passed: its landing pages kept. -/
def keptLanding (s : State) (ps : List Piece) : State := s.onMe fun c => { c with kept := ps }

theorem checkGroup_fits {s : State} {l : Launch} {lgw : BitVec 3} {lgh : BitVec 2} (hw : 2 ^ lgw.toNat ≤ l.width) (hh : 2 ^ lgh.toNat ≤ l.height) :
    checkGroup s l lgw lgh = .ok s (groupOf s.me lgw lgh) := by
  rw [checkGroup, if_neg]
  simp only [Bool.or_eq_true, decide_eq_true_eq]
  omega

theorem checkGroup_large {s : State} {l : Launch} {lgw : BitVec 3} {lgh : BitVec 2} (h : l.width < 2 ^ lgw.toNat ∨ l.height < 2 ^ lgh.toNat) :
    checkGroup s l lgw lgh = .trap s (progressTrap 3) := by
  rw [checkGroup, if_pos]
  simpa only [Bool.or_eq_true, decide_eq_true_eq] using h

/-- RECVT past its checks. -/
theorem execRecvt_checked {s s₁ : State} {gd ga : GReg} {lgw : BitVec 3} {lgh : BitVec 2} {l : Launch} {ps : List Piece}
    (hl : s.launchOfCore s.me.id = some l) (hw : 2 ^ lgw.toNat ≤ l.width) (hh : 2 ^ lgh.toNat ≤ l.height) (hhand : s.me.inHand = none)
    (hkept : s.me.kept = []) (hwatch : Unwatched s (s.me.reg ga) 296 true) (ha : (s.me.reg ga).toNat % 8 = 0)
    (hp : locateProg s (s.me.reg ga) 296 1 = .ok s₁ ps) :
    exec (.recvt gd ga lgw lgh) s = finish (recvTask (keptLanding s₁ ps) gd (groupOf s.me lgw lgh) ps) := by
  show execRecvt gd ga lgw lgh s = _
  simp only [execRecvt, needLaunch_some hl, checkGroup_fits hw hh, Ans.ok_bind, hhand, Option.isSome_none, Bool.false_eq_true, if_false, keepOr, hkept,
    List.isEmpty_nil, if_true, State.g, checkWatch_unwatched hwatch, checkAlign_aligned ha, hp]
  rfl

theorem recvTask_granted {s : State} {gd : GReg} {g : Group} {ps : List Piece} {x : Task} (hmark : markOpen s (ps.map (·.pa / 128)) = false)
    (hroom : s.me.storeCount + ps.length + 4 ≤ 128) (h : s.me.granted = some x) : recvTask s gd g ps = .ok (s.takeTask gd ps x) () := by
  simp only [recvTask, awaitMarks_done hmark, Ans.ok_bind, roomForStore_room (show s.me.storeCount + (ps.length + 4) ≤ 128 by omega), h]

/-- RECVT's state once its launch is done. -/
def noTask (s : State) (gd : GReg) : State := (s.setG gd 0).onMe fun c => { c with cut := false, search := none }

theorem recvTask_done {s : State} {gd : GReg} {g : Group} {ps : List Piece} {m : Launch} (hmark : markOpen s (ps.map (·.pa / 128)) = false)
    (hroom : s.me.storeCount + ps.length + 4 ≤ 128) (h : s.me.granted = none) (hl : s.launchOfCore s.me.id = some m) (hd : m.done = true) :
    recvTask s gd g ps = .ok (noTask s gd) () := by
  simp only [recvTask, awaitMarks_done hmark, Ans.ok_bind, roomForStore_room (show s.me.storeCount + (ps.length + 4) ≤ 128 by omega), h, hl, hd, if_true]
  rfl

theorem noTask_does (s : State) (gd : GReg) : Does { g := [gd] } s (noTask s gd) ∧ (noTask s gd).me.reg gd = 0 := by
  refine ⟨Writes.does ?_, (Core.reg_setReg_self s.me gd 0).trans (ite_self _)⟩
  refine Writes.onMe (k := fun c => { c with cut := false, search := none }) ((Writes.refl _ s).setG (by simp) 0) ?_ rfl rfl rfl
  constructor <;> intros <;> simp [Core.reg, Core.brhits]

theorem launchOfCore_me (s : State) : s.launchOfCore s.me.id = s.me.launch.bind s.launchOf := by
  rw [State.launchOfCore, State.core_me]

theorem keptLanding_launch (s : State) (ps : List Piece) :
    (keptLanding s ps).launchOfCore (keptLanding s ps).me.id = s.launchOfCore s.me.id := by
  rw [launchOfCore_me, launchOfCore_me]
  rfl

theorem keptLanding_does (s : State) (ps : List Piece) : Does {} s (keptLanding s ps) := ((Writes.refl {} s).keep ps).does

/-- RECVT of a task that another queue granted. -/
theorem recvt_granted {s s₁ : State} {gd ga : GReg} {lgw : BitVec 3} {lgh : BitVec 2} {l : Launch} {ps : List Piece} {x : Task}
    (hl : s.launchOfCore s.me.id = some l) (hw : 2 ^ lgw.toNat ≤ l.width) (hh : 2 ^ lgh.toNat ≤ l.height) (hhand : s.me.inHand = none)
    (hkept : s.me.kept = []) (hwatch : Unwatched s (s.me.reg ga) 296 true) (ha : (s.me.reg ga).toNat % 8 = 0)
    (hp : locateProg s (s.me.reg ga) 296 1 = .ok s₁ ps) (hmark : markOpen s₁ (ps.map (·.pa / 128)) = false)
    (hroom : s₁.me.storeCount + ps.length + 4 ≤ 128) (hx : s₁.me.granted = some x) (hrest : x.rest = false) (hbrand : x.brand = none)
    (hown : OwnPieces s₁ ps) (hm : s₁.mem.wf = true) :
    ∃ t, exec (.recvt gd ga lgw lgh) s = .next t ∧ t.me.reg gd = held gd (sext48 (x.record.toNat / 4 % 2 ^ 46 * 4)) ∧
      t.me.inHand = some (x.stamp s₁.tick) ∧ t.me.taken = s₁.me.taken + 1 ∧ t.me.granted = none ∧ Retired s₁ t ∧
      Frame { g := [gd], mem := pieceRanges ps } s₁ t := by
  obtain ⟨hreg, hin, htaken, hnone, -, -, hdoes⟩ := takeTask_own (f := { g := [gd], mem := pieceRanges ps }) (s := keptLanding s₁ ps) (gd := gd)
    (by simp) rfl hrest hbrand hown hm
  obtain ⟨hr, hf⟩ := (((keptLanding_does s₁ ps).widen _).follow hdoes).retires
  refine ⟨((keptLanding s₁ ps).takeTask gd ps x).retire, ?_, hreg, hin, htaken, hnone, hr, hf⟩
  rw [execRecvt_checked hl hw hh hhand hkept hwatch ha hp, recvTask_granted (s := keptLanding s₁ ps) hmark hroom hx]
  rfl

/-- RECVT in a launch that is done. -/
theorem recvt_done {s s₁ : State} {gd ga : GReg} {lgw : BitVec 3} {lgh : BitVec 2} {l m : Launch} {ps : List Piece}
    (hl : s.launchOfCore s.me.id = some l) (hw : 2 ^ lgw.toNat ≤ l.width) (hh : 2 ^ lgh.toNat ≤ l.height) (hhand : s.me.inHand = none)
    (hkept : s.me.kept = []) (hwatch : Unwatched s (s.me.reg ga) 296 true) (ha : (s.me.reg ga).toNat % 8 = 0)
    (hp : locateProg s (s.me.reg ga) 296 1 = .ok s₁ ps) (hmark : markOpen s₁ (ps.map (·.pa / 128)) = false)
    (hroom : s₁.me.storeCount + ps.length + 4 ≤ 128) (hnone : s₁.me.granted = none) (hm : s₁.launchOfCore s₁.me.id = some m) (hd : m.done = true) :
    ∃ t, exec (.recvt gd ga lgw lgh) s = .next t ∧ t.me.reg gd = 0 ∧ Retired s₁ t ∧ Frame { g := [gd] } s₁ t := by
  obtain ⟨hdoes, hreg⟩ := noTask_does (keptLanding s₁ ps) gd
  obtain ⟨hr, hf⟩ := (((keptLanding_does s₁ ps).widen _).follow hdoes).retires
  have hm' : (keptLanding s₁ ps).launchOfCore (keptLanding s₁ ps).me.id = some m := (keptLanding_launch s₁ ps).trans hm
  refine ⟨(noTask (keptLanding s₁ ps) gd).retire, ?_, (retire_reg _ _).trans hreg, hr, hf⟩
  have hmark' : markOpen (keptLanding s₁ ps) (ps.map (·.pa / 128)) = false := hmark
  rw [execRecvt_checked hl hw hh hhand hkept hwatch ha hp, recvTask_done hmark' hroom hnone hm' hd]
  rfl

/-- The moving core's queue without its head, and the slots refilled. -/
def withoutHead (s : State) : State := (s.onMe fun c => { c with taskQueue := c.taskQueue.drop 1 }).onMe (·.refill)

theorem takeHead_calm {s : State} (hc : Calm s) (x : Task) (hlog : 7 ≤ s.me.paddock ∨ (s.pad s.me.paddock).rrMode = 0) :
    s.takeHead x = some (withoutHead s, x) := by
  have hout : s.logDispatch s.me.paddock 6 s.me.id s.me.id = some s := by
    rw [State.logDispatch, if_pos]
    simpa using hlog
  rw [State.takeHead, hout]
  have hquiet : s.lazy = true ∨ s.me.loft = [] := hc.imp_right fun h => h.2.2.2.2.2
  exact congrArg (fun u => some (u, x)) (niSettle_calm (s := s.onMe fun c => { c with taskQueue := c.taskQueue.drop 1 }) hquiet)

theorem withoutHead_eq (s : State) : ∃ poison mbox arrivals, withoutHead s =
    { s with me := { s.me with taskQueue := s.me.taskQueue.drop 1, poison := poison, mbox := mbox, arrivals := arrivals } } := by
  obtain ⟨poison, mbox, arrivals, h⟩ := ({ s.me with taskQueue := s.me.taskQueue.drop 1 } : Core).refill_eq
  refine ⟨poison, mbox, arrivals, ?_⟩
  rw [withoutHead, State.onMe, State.onMe, h]

theorem withoutHead_does {f : Footprint} (s : State) (hm : f.m = List.finRange 32) : Does f s (withoutHead s) := by
  refine Writes.does (Writes.refill (Writes.onMe (k := fun c => { c with taskQueue := c.taskQueue.drop 1 }) (Writes.refl f s) ?_ rfl rfl rfl) hm)
  constructor <;> intros <;> simp [Core.reg, Core.brhits]

theorem recvTask_head {s : State} {gd : GReg} {g : Group} {ps : List Piece} {m : Launch} {x : Task} {rest : List Task} (hc : Calm s)
    (hmark : markOpen s (ps.map (·.pa / 128)) = false) (hroom : s.me.storeCount + ps.length + 4 ≤ 128) (h : s.me.granted = none)
    (hl : s.launchOfCore s.me.id = some m) (hd : m.done = false) (hq : s.me.taskQueue = x :: rest) (hb : x.barf = false)
    (hlog : 7 ≤ s.me.paddock ∨ (s.pad s.me.paddock).rrMode = 0) :
    recvTask s gd g ps = .ok (((withoutHead s).takeTask gd ps x).settleNi) () := by
  have hstart : startable s s.me = some x := by
    simp only [startable, hq, hb, Bool.false_and, Bool.false_eq_true, if_false]
  simp only [recvTask, awaitMarks_done hmark, Ans.ok_bind, roomForStore_room (show s.me.storeCount + (ps.length + 4) ≤ 128 by omega), h, hl, hd, hstart,
    Bool.false_eq_true, if_false, takeHead_calm hc x hlog]

/-- RECVT of the head of the own queue. -/
theorem recvt_head {s s₁ : State} {gd ga : GReg} {lgw : BitVec 3} {lgh : BitVec 2} {l m : Launch} {ps : List Piece} {x : Task} {rest : List Task}
    (hl : s.launchOfCore s.me.id = some l) (hw : 2 ^ lgw.toNat ≤ l.width) (hh : 2 ^ lgh.toNat ≤ l.height) (hhand : s.me.inHand = none)
    (hkept : s.me.kept = []) (hwatch : Unwatched s (s.me.reg ga) 296 true) (ha : (s.me.reg ga).toNat % 8 = 0)
    (hp : locateProg s (s.me.reg ga) 296 1 = .ok s₁ ps) (hown : OwnPieces s₁ ps) (hc : Calm s₁) (hmem : s₁.mem.wf = true)
    (hmark : markOpen s₁ (ps.map (·.pa / 128)) = false) (hroom : s₁.me.storeCount + ps.length + 4 ≤ 128) (hnone : s₁.me.granted = none)
    (hm : s₁.launchOfCore s₁.me.id = some m) (hd : m.done = false) (hq : s₁.me.taskQueue = x :: rest) (hb : x.barf = false) (hrest : x.rest = false)
    (hbrand : x.brand = none) (hlog : 7 ≤ s₁.me.paddock ∨ (s₁.pad s₁.me.paddock).rrMode = 0) :
    ∃ t, exec (.recvt gd ga lgw lgh) s = .next t ∧ t.me.reg gd = held gd (sext48 (x.record.toNat / 4 % 2 ^ 46 * 4)) ∧
      t.me.inHand = some (x.stamp s₁.tick) ∧ t.me.taskQueue = rest ∧ t.me.taken = s₁.me.taken + 1 ∧ Retired s₁ t ∧
      Frame { g := [gd], m := List.finRange 32, mem := pieceRanges ps } s₁ t := by
  have hcalm : Calm (keptLanding s₁ ps) := hc.me _ rfl
  obtain ⟨poison, mbox, arrivals, hwo⟩ := withoutHead_eq (keptLanding s₁ ps)
  have hown' : OwnPieces (withoutHead (keptLanding s₁ ps)) ps := by
    rw [hwo]
    exact hown
  have hmem' : (withoutHead (keptLanding s₁ ps)).mem.wf = true := by
    rw [hwo]
    exact hmem
  obtain ⟨hreg, hin, htaken, -, hqueue, ⟨hlazy, hni⟩, hdoes⟩ := takeTask_own (f := { g := [gd], m := List.finRange 32, mem := pieceRanges ps })
    (gd := gd) (by simp) rfl hrest hbrand hown' hmem'
  have hsettle : ((withoutHead (keptLanding s₁ ps)).takeTask gd ps x).settleNi = (withoutHead (keptLanding s₁ ps)).takeTask gd ps x := by
    rcases hcalm with h | ⟨-, h, -⟩
    · exact State.settleNi_lazy (hlazy.trans h)
    · exact settleNi_empty (hni.trans h)
  obtain ⟨hr, hf⟩ := ((((keptLanding_does s₁ ps).widen _).follow (withoutHead_does _ rfl)).follow hdoes).retires
  rw [hwo] at htaken hqueue hin
  have hrestq : (keptLanding s₁ ps).me.taskQueue.drop 1 = rest := by
    show s₁.me.taskQueue.drop 1 = rest
    rw [hq]
    rfl
  refine ⟨((withoutHead (keptLanding s₁ ps)).takeTask gd ps x).retire, ?_, hreg, ?_, ?_, ?_, hr, hf⟩
  · rw [execRecvt_checked hl hw hh hhand hkept hwatch ha hp, recvTask_head (s := keptLanding s₁ ps) hcalm hmark hroom hnone
      ((keptLanding_launch s₁ ps).trans hm) hd hq hb hlog, hsettle]
    rfl
  · rw [hwo]
    exact hin
  · rw [hwo]
    exact hqueue.trans hrestq
  · rw [hwo]
    exact htaken

/-! ### TKDONE, TKSNAP and LNCH (R324 to R326) -/

theorem emitTask_eq (s : State) (t : Task) : ∃ x n, s.emitTask t = { s with me := { s.me with trc := x }, tick := n } := by
  unfold State.emitTask
  split
  · exact State.emit_me { s with tick := s.tick + 2 } _
  · exact ⟨s.me.trc, s.tick, rfl⟩

theorem Writes.endTask {f : Footprint} {s u : State} (h : Writes f s u) :
    Writes f s (u.onMe fun c => { c with inHand := none, cut := false, nTkdone := c.nTkdone + 1 }) := by
  refine Writes.onMe (k := fun c => { c with inHand := none, cut := false, nTkdone := c.nTkdone + 1 }) h ?_ rfl rfl rfl
  constructor <;> intros <;> simp [Core.reg, Core.brhits]

theorem execTkdone_ok {s : State} {l : Launch} {x : Task} (hl : s.launchOfCore s.me.id = some l) (hroom : s.me.storeCount + 2 ≤ 128)
    (hx : s.me.inHand = some x) (hk : keepsRestart s x = false) :
    ∃ u, exec .tkdone s = .next (u.sendNi (.report s.me.id x.owner x.seq l.id)).retire ∧ u.me.inHand = none ∧
      u.me.nTkdone = s.me.nTkdone + 1 ∧ u.me.others = s.me.others + 1 ∧ Frame {} s u := by
  obtain ⟨trc, tick, hemit⟩ := emitTask_eq s x
  have hw := (((Writes.refl {} s).trace trc tick).endTask).countSent
  rw [← hemit] at hw
  refine ⟨((s.emitTask x).onMe fun c => { c with inHand := none, cut := false, nTkdone := c.nTkdone + 1 }).onMe fun c => { c with others := c.others + 1 },
    ?_, rfl, ?_, ?_, hw.frame⟩
  · show execTkdone s = _
    simp only [execTkdone, needLaunch_some hl, hx, roomForStore_room hroom, Ans.ok_bind, State.closeRestart, hk, Bool.false_eq_true, if_false]
    rw [hemit]
    rfl
  · rw [hemit]
    rfl
  · rw [hemit]
    rfl

theorem execTksnap_plain {s s₁ : State} {ga gb : GReg} {l : Launch} {x : Task} {ps : List Piece} (hl : s.launchOfCore s.me.id = some l)
    (hx : s.me.inHand = some x) (hn : (s.me.reg gb).toNat ≤ 256) (hn8 : (s.me.reg gb).toNat % 8 = 0) (ha : (s.me.reg ga).toNat % 8 = 0)
    (hwatch : Unwatched s (s.me.reg ga) (s.me.reg gb).toNat false) (hp : locateProg s (s.me.reg ga) (s.me.reg gb).toNat 0 = .ok s₁ ps)
    (hown : OwnPieces s₁ ps) (hbad : s₁.badWords = []) (hm : s₁.mem.wf = true) (hmark : markOpen s₁ (ps.map (·.pa / 128)) = false)
    (hk : keepsRestart s₁ x = false) : ∃ t, exec (.tksnap ga gb) s = .next t ∧ t.me.inHand = s₁.me.inHand ∧ Retired s₁ t ∧ Frame {} s₁ t := by
  obtain ⟨hr, hf⟩ := (Does.refl {} s₁).retires
  refine ⟨s₁.retire, ?_, rfl, hr, hf⟩
  have hfits : (decide (256 < (s.me.reg gb).toNat) || (s.me.reg gb).toNat % 8 != 0) = false := by
    simp [hn8]
    omega
  show execTksnap ga gb s = _
  simp only [execTksnap, needLaunch_some hl, hx, State.g, Bool.false_eq_true, if_false, checkWatch_unwatched hwatch, checkAlign_aligned ha, hp,
    Ans.ok_bind, loadAll_own hown hbad hm hmark, hk]
  split
  · exact absurd (hfits.symm.trans ‹_›) Bool.false_ne_true
  · rfl

theorem execLnch_replied {s : State} {gd ga gb : GReg} {a : Nat} {v : Word} (hc : Calm s) (h : s.me.pend = .reply a v) :
    exec (.lnch gd ga gb) s = retireWith s gd v := by
  show execLnch gd ga gb s = _
  simp only [execLnch, h, hc.settleCtl, ctlReply_of h, Ans.ok_bind]
  rfl

/-- Settles O37: sends and receives, then the task instructions and LNCH. -/
theorem messagesAreSentAndTaken : Obligations.MessagesAreSentAndTaken := by
  intro s gd ga gb m sc hc hroom
  refine ⟨fun l x y hn ht => ⟨execSend_ok hn ht hroom, execSendb_ok hc hn ht hroom⟩, fun h hin => ?_, recv_present hc gd, recv_absent gd, recvany_none,
    recvany_lowest hc, peek_reads s m, fun l hl hroom' => ⟨fun n x y ht => ?_, ?_, fun x hx hk => ⟨execTkdone_ok hl hroom' hx hk, ?_⟩⟩, fun a v h => ?_⟩
  · have htrap (k : State → Nat × Nat × Nat → Ans Unit) : finish ((sendTarget s ga).bind k) = finish (.trap s (plainTrap 0x0A 1)) := by
      rw [sendTarget_none h]
      rfl
    obtain ⟨t, ht, htrapped⟩ := finish_trap hin (plainTrap 0x0A 1)
    exact ⟨⟨t, (htrap _).trans ht, htrapped⟩, ⟨t, (htrap _).trans ht, htrapped⟩⟩
  · obtain ⟨u, hu, -, hsent, hothers, hf⟩ := execTkadd_ok (gd := gd) (gb := gb) hl ht hroom
    refine ⟨⟨u, hu, hsent, hothers, hf⟩, fun hs he => ?_⟩
    obtain ⟨u, hu, -, hrest⟩ := execTkaddb_ok (gd := gd) (gb := gb) (sc := sc) hc hl ht hroom hs he
    exact ⟨u, hu, hrest⟩
  · intro s₁ m' lgw lgh x rest ps hw hh hhand hkept hwatch ha hp hown hc₁ hm hmark hroom₁ hnone hl₁ hd hq hb hrest hbrand hlog
    exact recvt_head hl hw hh hhand hkept hwatch ha hp hown hc₁ hm hmark hroom₁ hnone hl₁ hd hq hb hrest hbrand hlog
  · intro s₁ ps hn hn8 ha hwatch hp hown hbad hm hmark hk₁
    exact execTksnap_plain hl hx hn hn8 ha hwatch hp hown hbad hm hmark hk₁
  · obtain ⟨t, ht, hreg, hr, hf⟩ := retireWith_spec s gd v
    exact ⟨t, (execLnch_replied hc h).trans ht, hreg, hr, hf⟩

/-- Settles O41, clause by clause, with the lemmas of the task instructions. -/
theorem tasksAreAddedTakenAndEnded : Obligations.TasksAreAddedTakenAndEnded := by
  intro s s₁ gd ga gb sc lgw lgh l ps hc hl hroom
  have hroom' : s.me.storeCount < 128 := by omega
  refine ⟨fun n x y ht => ⟨?_, fun hs he => ?_⟩, ?_, fun x hx hk => ⟨?_, ?_⟩, fun a v h => ?_, fun hhand hin => ?_⟩
  · exact execTkadd_ok hl ht hroom'
  · obtain ⟨u, hu, hni, hsent, -, hrest⟩ := execTkaddb_ok (gd := gd) (gb := gb) (sc := sc) hc hl ht hroom' hs he
    exact ⟨u, hu, hni, hsent, hrest⟩
  · intro hw hh hhand hkept hwatch ha hp hmark hroom₁
    refine ⟨fun x hx _ hrest hbrand hown hm => recvt_granted hl hw hh hhand hkept hwatch ha hp hmark hroom₁ hx hrest hbrand hown hm, fun hnone hdone hsome => ?_⟩
    obtain ⟨m, hm⟩ := Option.ne_none_iff_exists'.mp hsome
    exact recvt_done hl hw hh hhand hkept hwatch ha hp hmark hroom₁ hnone hm (hdone m hm)
  · obtain ⟨u, hu, hhand, hdone, -, hf⟩ := execTkdone_ok hl (by omega) hx hk
    exact ⟨u, hu, hhand, hdone, hf⟩
  · intro hn hn8 ha hwatch hp hown hbad hm hmark hk₁
    obtain ⟨t, ht, -, hrest⟩ := execTksnap_plain hl hx hn hn8 ha hwatch hp hown hbad hm hmark hk₁
    exact ⟨t, ht, hrest⟩
  · obtain ⟨t, ht, hreg, hr, hf⟩ := retireWith_spec s gd v
    exact ⟨t, (execLnch_replied hc h).trans ht, hreg, hr, hf⟩
  · obtain ⟨t, ht, htrapped⟩ := finish_trap hin (progressTrap 4)
    refine ⟨t, Eq.trans ?_ ht, htrapped⟩
    show execTkdone s = _
    simp only [execTkdone, needLaunch_some hl, hhand]

/-! ### Contributions to groups (R282, R328) -/

theorem low32_eq (w : Word) : low32 w = w &&& 0xFFFFFFFF := by
  refine BitVec.eq_of_toNat_eq ?_
  rw [low32, BitVec.toNat_ofNat, BitVec.toNat_and, show (0xFFFFFFFF : Word).toNat = 2 ^ 32 - 1 from rfl, Nat.and_two_pow_sub_one_eq_mod]
  omega

/-- BAR and every MRED contribute. -/
theorem exec_of_contributionForm {i : Instr} {s : State} {op : GroupOp} {v : Word} {lgw : BitVec 3} {lgh : BitVec 2} {m : MReg}
    (h : contributionForm s.me i = some (op, v, lgw, lgh, m)) : exec i s = contribute op v lgw lgh m s := by
  cases i
  case bar | mredAddI64 | mredMaxI64 | mredMinI64 | mredAndI64 | mredOrI64 =>
    obtain ⟨⟩ := h
    rfl
  case mredAddF32 ga _ _ _ =>
    obtain ⟨⟩ := h
    rw [← low32_eq]
    rfl
  case mredMaxF32 ga _ _ _ =>
    obtain ⟨⟩ := h
    rw [← low32_eq]
    rfl
  case mredMinF32 ga _ _ _ =>
    obtain ⟨⟩ := h
    rw [← low32_eq]
    rfl
  all_goals exact absurd h (by simp [contributionForm])

theorem groupOf_eq (c : Core) (lgw : BitVec 3) (lgh : BitVec 2) : groupOf c lgw lgh =
    { gw := 2 ^ lgw.toNat, gh := 2 ^ lgh.toNat, gx := c.rx - c.rx % 2 ^ lgw.toNat, gy := c.ry - c.ry % 2 ^ lgh.toNat } := by
  rw [groupOf, Nat.div_mul_self_eq_mod_sub_self, Nat.div_mul_self_eq_mod_sub_self]

/-- A contribution's packet. -/
def contribution (s : State) (l : Launch) (op : GroupOp) (v : Word) (lgw : BitVec 3) (lgh : BitVec 2) (m : MReg) : Contribution :=
  { launch := l.id, group := groupOf s.me lgw lgh, episode := s.me.episodes[(Fin.ofNat 20 (lgw.toNat * 4 + lgh.toNat) : Fin 20)], rx := s.me.rx, ry := s.me.ry,
    op := op, value := v, slot := m.val }

theorem Writes.episode {f : Footprint} {s u : State} (h : Writes f s u) (ix : Fin 20) (n : Nat) :
    Writes f s (u.onMe fun c => { c with episodes := c.episodes.set ix n }) := by
  refine Writes.onMe (k := fun c => { c with episodes := c.episodes.set ix n }) h ?_ rfl rfl rfl
  constructor <;> intros <;> simp [Core.reg, Core.brhits]

theorem contribute_ok {op : GroupOp} {v : Word} {lgw : BitVec 3} {lgh : BitVec 2} {m : MReg} {s : State} {l : Launch}
    (hl : s.launchOfCore s.me.id = some l) (hw : 2 ^ lgw.toNat ≤ l.width) (hh : 2 ^ lgh.toNat ≤ l.height) (hopen : openContributions s l < 16)
    (hroom : s.me.storeCount < 128) :
    let ix : Fin 20 := Fin.ofNat 20 (lgw.toNat * 4 + lgh.toNat)
    ∃ u, contribute op v lgw lgh m s = .next (u.sendNi (.contrib s.me.id (contribution s l op v lgw lgh m))).retire ∧ u.ni = s.ni ∧
      u.me.episodes[ix] = s.me.episodes[ix] + 1 ∧ u.me.others = s.me.others + 1 ∧ Frame {} s u := by
  intro ix
  refine ⟨(s.onMe fun c => { c with episodes := c.episodes.set ix (s.me.episodes[ix] + 1) }).onMe fun c => { c with others := c.others + 1 }, ?_, rfl, ?_, rfl,
    (((Writes.refl {} s).episode ix (s.me.episodes[ix] + 1)).countSent).frame⟩
  · simp only [contribute, needLaunch_some hl, checkGroup_fits hw hh, Ans.ok_bind, Nat.not_le.mpr hopen, if_false,
      roomForStore_room (show s.me.storeCount + 1 ≤ 128 from hroom)]
    rfl
  · show (s.me.episodes.set ix (s.me.episodes[ix] + 1))[ix] = _
    rw [getElem_set_fin, if_pos rfl]

theorem contribute_large {op : GroupOp} {v : Word} {lgw : BitVec 3} {lgh : BitVec 2} {m : MReg} {s : State} {l : Launch}
    (hl : s.launchOfCore s.me.id = some l) (h : l.width < 2 ^ lgw.toNat ∨ l.height < 2 ^ lgh.toNat) :
    contribute op v lgw lgh m s = finish (.trap s (progressTrap 3)) := by
  simp only [contribute, needLaunch_some hl, checkGroup_large h]
  rfl

/-- Settles O42: the group fits its launch, or it does not. -/
theorem groupInstructionsContribute : Obligations.GroupInstructionsContribute := by
  intro i s op v lgw lgh m l hform hl ix g
  refine ⟨fun hw hh hopen hroom => ?_, fun h hin => ?_⟩
  · obtain ⟨u, hu, hni, hep, hothers, hf⟩ := contribute_ok (op := op) (v := v) (m := m) hl hw hh hopen hroom
    exact ⟨u, contribution s l op v lgw lgh m, (exec_of_contributionForm hform).trans hu, rfl, groupOf_eq .., rfl, rfl, rfl, rfl, rfl, rfl, hni, hep, hothers, hf⟩
  · obtain ⟨t, ht, htrapped⟩ := finish_trap hin (progressTrap 3)
    exact ⟨t, ((exec_of_contributionForm hform).trans (contribute_large hl h)).trans ht, htrapped⟩

/-! ### Line locks (R302 to R306, R331, R332) -/

theorem lockPlace_hbm {s s' : State} {va : Word} {watch : Bool} {p : Piece} (hw : watch = true → Unwatched s (va &&& ~~~127) 128 true)
    (hp : locateProg s va 1 1 = .ok s' [p]) (hplace : s'.placeOf p.pa = .ok .localHbm) : lockPlace s va watch = .ok s' [p] := by
  have hwatch : (if watch then checkWatch s (va &&& ~~~127) 128 true else .ok s ()) = .ok s () := by
    cases watch
    · rfl
    · exact checkWatch_unwatched (hw rfl)
  simp only [lockPlace, hwatch, Ans.ok_bind, hp, List.find?_cons, hplace, Bool.not_true, List.find?_nil]

/-- The entry that a lock request makes. -/
def lockPending (s : State) (line : Nat) (va : Word) (slot : Nat) (try_ : Bool) : LockEntry :=
  { line := line, va := va, slot := slot, num := s.nextId, st := .pending, next := none, try_ := try_, brand := none }

/-- A core's lock entries are in no footprint. -/
theorem Writes.onLocks {f : Footprint} {s u : State} (h : Writes f s u) (es : List LockEntry) : Writes f s (u.onMe fun c => { c with locks := es }) := by
  refine Writes.onMe (k := fun c => { c with locks := es }) h ?_ rfl rfl rfl
  constructor <;> intros <;> simp [Core.reg, Core.brhits]

/-- A lock packet on its way changes no core and no byte. -/
theorem Writes.postLock {f : Footprint} {s u : State} (h : Writes f s u) (src : Option Nat) (p : LockPkt) : Writes f s (u.postLock src p) :=
  ⟨h.same, h.id, h.npc, h.count, h.cores, h.mem⟩

theorem postLock_pkts (s : State) (src : Option Nat) (p : LockPkt) : (s.postLock src p).lockPkts = s.lockPkts ++ [p] := by
  simp [State.postLock, State.lockPkts]

theorem onCore_me (s : State) (k : Core → Core) (hk : (k s.me).id = s.me.id) : s.onCore s.me.id k = s.onMe k := by
  rw [State.onCore, State.core_me, State.setCore, if_pos (beq_iff_eq.mpr hk.symm)]
  rfl

/-- The moving core's request on its way: its entry, its number, and its packet. -/
def requested (s : State) (line : Nat) (va : Word) (slot : Nat) (try_ : Bool) : State :=
  (({ s with nextId := s.nextId + 1 }).onMe fun c => { c with locks := c.locks ++ [lockPending s line va slot try_] }).postLock (some s.me.id)
    (.lock { core := s.me.id, num := s.nextId } line try_)

theorem requestLock_me (s : State) (line : Nat) (va : Word) (slot : Nat) (try_ : Bool) :
    s.requestLock s.me.id line va slot try_ = (requested s line va slot try_).settleLocks := by
  have hcore := onCore_me { s with nextId := s.nextId + 1 } (fun c => { c with locks := c.locks ++ [lockPending s line va slot try_] }) rfl
  exact congrArg (fun u : State => (u.postLock (some s.me.id) (.lock { core := s.me.id, num := s.nextId } line try_)).settleLocks) hcore

theorem lockRequest_sends {s s' : State} {va : Word} {m : MReg} {try_ : Bool} {p : Piece} (hp : lockPlace s va true = .ok s' [p])
    (hnone : s'.me.lockOf (p.pa / 128) = none) (hwait : (s'.me.locks.filter (·.waits)).length < 4) (hroom : s'.me.locks.length < 8)
    (hmark : markOpen s' [p.pa / 128] = false) :
    ∃ u e, finish (lockRequest s va m try_) = .next u.settleLocks.retire ∧
      u.lockPkts = s'.lockPkts ++ [.lock { core := s'.me.id, num := s'.nextId } (p.pa / 128) try_] ∧ u.me.locks = s'.me.locks ++ [e] ∧
      e.line = p.pa / 128 ∧ e.num = s'.nextId ∧ e.st = .pending ∧ e.slot = m.val ∧ e.next = none ∧ e.try_ = try_ ∧ Frame {} s' u := by
  have hfull : (decide (4 ≤ (s'.me.locks.filter (·.waits)).length) || decide (8 ≤ s'.me.locks.length)) = false := by
    simp
    omega
  refine ⟨requested s' (p.pa / 128) va m.val try_, lockPending s' (p.pa / 128) va m.val try_, ?_, postLock_pkts .., rfl, rfl, rfl, rfl, rfl, rfl, rfl, ?_⟩
  · simp only [lockRequest, hp, Ans.ok_bind, pieceLine, hnone, awaitMarks_done (ps := [p]) hmark]
    split
    · exact absurd (hfull.symm.trans ‹_›) Bool.false_ne_true
    · rw [requestLock_me]
      rfl
  · have hnext : Writes {} s' { s' with nextId := s'.nextId + 1 } := ⟨SameCore.refl {} _, rfl, rfl, rfl, rfl, rfl⟩
    exact ((hnext.onLocks (s'.me.locks ++ [lockPending s' (p.pa / 128) va m.val try_])).postLock _ _).frame

theorem lockRequest_held {s s' : State} {va : Word} {m : MReg} {try_ : Bool} {p : Piece} {e : LockEntry} (hp : lockPlace s va true = .ok s' [p])
    (he : s'.me.lockOf (p.pa / 128) = some e) (hw : e.waits = false) :
    finish (lockRequest s va m try_) = .next (s'.tell s'.me.id (statusMsg s'.me.id { e with slot := m.val, va := va } 3 0 none)).retire := by
  simp only [lockRequest, hp, Ans.ok_bind, pieceLine, he, hw, Bool.false_eq_true, if_false]
  rfl

/-! ### Releases -/

theorem filter_lockOf {c : Core} {line : Nat} : (c.freeLock line).lockOf line = none := by
  simp [Core.lockOf, Core.freeLock]

theorem lockOf_any {c : Core} {line : Nat} {e : LockEntry} (he : c.lockOf line = some e) (hone : ∀ f ∈ c.locks, f.line = line → f = e) (hst : e.st = .held) :
    (c.locks.any fun e => e.line == line && (e.st == .held || e.st == .saved)) = true ∧ (c.locks.any fun e => e.line == line && e.st == .saved) = false := by
  have hmem : e ∈ c.locks := List.mem_of_find?_eq_some he
  have hline : e.line = line := by simpa using List.find?_some he
  refine ⟨List.any_eq_true.mpr ⟨e, hmem, by simp [hline, hst]⟩, List.any_eq_false.mpr fun f hf => ?_⟩
  by_cases h : f.line = line
  · rw [hone f hf h, hst]
    simp [hline]
  · simp [h]

theorem lockOf_none_any {c : Core} {line : Nat} (h : c.lockOf line = none) (q : LockEntry → Bool) : (c.locks.any fun e => e.line == line && q e) = false := by
  rw [Core.lockOf, List.find?_eq_none] at h
  exact List.any_eq_false.mpr fun f hf => by
    have hne := h f hf
    simp only [Bool.not_eq_true] at hne
    simp [hne]

/-- LKREL past its checks: its pages kept, its brand released. -/
def releasing (s : State) (ps : List Piece) : State := (s.onMe fun c => { c with kept := ps }).onMe (·.releaseBrand)

theorem releasing_does (s : State) (ps : List Piece) : Writes { brand := true } s (releasing s ps) := ((Writes.refl _ s).keep ps).releaseBrand rfl

theorem execLkrel_held {s s' : State} {ga : GReg} {p : Piece} {e : LockEntry} (hkept : s.me.kept = []) (hp : lockPlace s (s.me.reg ga) false = .ok s' [p])
    (he : s'.me.lockOf (p.pa / 128) = some e) (hone : ∀ f ∈ s'.me.locks, f.line = p.pa / 128 → f = e) (hst : e.st = .held) (hc : Calm s')
    (hs : s'.me.storesDone = true) (hd : enginesDone s' s'.me.id = true) :
    exec (.lkrel ga) s = .next ((releasing s' [p]).releaseLock (releasing s' [p]).me.id (p.pa / 128) s'.me.writtenBrand).retire := by
  obtain ⟨hany, hsaved⟩ := lockOf_any he hone hst
  have hcalm : Calm (s'.onMe fun c => { c with kept := [p] }) := hc.me _ rfl
  have hdone : enginesDone (s'.onMe fun c => { c with kept := [p] }) (s'.onMe fun c => { c with kept := [p] }).me.id = true :=
    (enginesDone_congr (s := s') (t := s'.onMe fun c => { c with kept := [p] }) rfl rfl (fun _ => rfl) rfl).trans hd
  have hsaved' : ((s'.onMe fun c => { c with kept := [p] }).me.locks.any fun e => e.line == p.pa / 128 && e.st == .saved) = false := hsaved
  have hs' : (s'.onMe fun c => { c with kept := [p] }).me.storesDone = true := hs
  show execLkrel ga s = _
  simp only [execLkrel, keepOr, hkept, List.isEmpty_nil, if_true, State.g, hp, Ans.ok_bind, pieceLine, hany, awaitRelease_done hcalm hs' hdone, hcalm.settleLocks,
    hsaved', Bool.false_eq_true, if_false]
  rfl

theorem execLkrel_notHeld {s s' : State} {ga : GReg} {p : Piece} (hkept : s.me.kept = []) (hp : lockPlace s (s.me.reg ga) false = .ok s' [p])
    (h : s'.me.lockOf (p.pa / 128) = none) : exec (.lkrel ga) s = finish (.trap s' (lockTrap 3)) := by
  show execLkrel ga s = _
  simp only [execLkrel, keepOr, hkept, List.isEmpty_nil, if_true, State.g, hp, Ans.ok_bind, pieceLine,
    lockOf_none_any h fun e => e.st == .held || e.st == .saved, Bool.false_eq_true, if_false]
  rfl

/-- The releaser once its lock is handed on. -/
def handedOn (s : State) (e : LockEntry) (line : Nat) (n : Waiter) (brand : BitVec 960) : State :=
  handOn (s.onMe fun c => (c.freeLock line).dropLine line) (e.who s.me.id) line n brand

theorem releaseLock_next {s : State} {line : Nat} {brand : BitVec 960} {e : LockEntry} {n : Waiter} (he : s.me.lockOf line = some e) (hn : e.next = some n) :
    s.releaseLock s.me.id line brand = (handedOn s e line n brand).settleLocks := by
  simp only [State.releaseLock, State.core_me, he, hn]
  rw [onCore_me s (fun c => (c.freeLock line).dropLine line) rfl]
  rfl

/-- The releaser once its lock is freed, a stub kept. -/
def freed (s : State) (e : LockEntry) (line : Nat) (brand : BitVec 960) : State :=
  (s.onMe fun c => (c.onLock line fun e => { e with st := .stub, brand := some brand }).dropLine line).postLock (some s.me.id) (.free (e.who s.me.id) line)

theorem releaseLock_last {s : State} {line : Nat} {brand : BitVec 960} {e : LockEntry} (he : s.me.lockOf line = some e) (hn : e.next = none) :
    s.releaseLock s.me.id line brand = (freed s e line brand).settleLocks := by
  simp only [State.releaseLock, State.core_me, he, hn]
  rw [onCore_me s (fun c => (c.onLock line fun e => { e with st := .stub, brand := some brand }).dropLine line) rfl]
  rfl

theorem handedOn_spec (s : State) (e : LockEntry) (line : Nat) (n : Waiter) (brand : BitVec 960) :
    (handedOn s e line n brand).lockPkts = s.lockPkts ++ [.moved (e.who s.me.id) line n, .handoff n line (some brand) false] ∧
    (handedOn s e line n brand).me.lockOf line = none ∧ (handedOn s e line n brand).me.brand = s.me.brand ∧ Writes {} s (handedOn s e line n brand) := by
  refine ⟨?_, filter_lockOf (c := s.me), rfl, ?_⟩
  · rw [handedOn, handOn, postLock_pkts, postLock_pkts, List.append_assoc]
    rfl
  · refine Writes.postLock (Writes.postLock ?_ _ _) _ _
    refine Writes.onMe (k := fun c => (c.freeLock line).dropLine line) (Writes.refl {} s) ?_ rfl rfl rfl
    constructor <;> intros <;> simp [Core.reg, Core.brhits, Core.freeLock, Core.dropLine]

theorem freed_spec {s : State} {e : LockEntry} {line : Nat} (brand : BitVec 960) (he : s.me.lockOf line = some e) :
    (freed s e line brand).lockPkts = s.lockPkts ++ [.free (e.who s.me.id) line] ∧
    (freed s e line brand).me.lockOf line = some { e with st := .stub, brand := some brand } ∧ (freed s e line brand).me.brand = s.me.brand ∧
    Writes {} s (freed s e line brand) := by
  refine ⟨postLock_pkts .., ?_, rfl, ?_⟩
  · have hline : e.line = line := by simpa using List.find?_some he
    show (s.me.locks.map fun e => if e.line == line then { e with st := .stub, brand := some brand } else e).find? (·.line == line) = _
    rw [List.find?_map]
    have hsame : ((fun e : LockEntry => e.line == line) ∘ fun e => if e.line == line then { e with st := .stub, brand := some brand } else e) =
        fun e : LockEntry => e.line == line := by
      funext f
      simp only [Function.comp]
      split <;> simp_all
    rw [hsame, show s.me.locks.find? (fun e => e.line == line) = some e from he]
    simp [hline]
  · refine Writes.postLock ?_ _ _
    refine Writes.onMe (k := fun c => (c.onLock line fun e => { e with st := .stub, brand := some brand }).dropLine line) (Writes.refl {} s) ?_ rfl rfl rfl
    constructor <;> intros <;> simp [Core.reg, Core.brhits, Core.onLock, Core.dropLine]

/-- Settles O43: requests by what the core holds, releases by who waits. -/
theorem lockInstructionsRequestAndRelease : Obligations.LockInstructionsRequestAndRelease := by
  intro s s' ga m p hp hplace line
  refine ⟨fun hw hmark => ⟨fun hnone hwait hroom try_ => ?_, fun e he hew try_ => ?_⟩, fun e hkept he hone hst hc hs hd => ⟨fun n hn => ?_, fun hn => ?_⟩,
    fun hkept hnone hin => ?_⟩
  · have hsend := lockRequest_sends (m := m) (try_ := try_) (lockPlace_hbm (watch := true) (fun _ => hw) hp hplace) hnone hwait hroom hmark
    cases try_
    · exact hsend
    · exact hsend
  · have hsend := lockRequest_held (m := m) (try_ := try_) (lockPlace_hbm (watch := true) (fun _ => hw) hp hplace) he hew
    cases try_
    · exact hsend
    · exact hsend
  · obtain ⟨hpkts, hnone, hbrand, hf⟩ := handedOn_spec (releasing s' [p]) e line n s'.me.writtenBrand
    have he' : (releasing s' [p]).me.lockOf line = some e := he
    refine ⟨handedOn (releasing s' [p]) e line n s'.me.writtenBrand, ?_, hpkts, hnone, hbrand, ?_⟩
    · rw [execLkrel_held hkept (lockPlace_hbm (watch := false) (by simp) hp hplace) he hone hst hc hs hd, releaseLock_next he' hn]
    · exact (releasing_does s' [p]).frame.follow (hf.frame.widen _)
  · have he' : (releasing s' [p]).me.lockOf line = some e := he
    obtain ⟨hpkts, hstub, hbrand, hf⟩ := freed_spec s'.me.writtenBrand he'
    refine ⟨freed (releasing s' [p]) e line s'.me.writtenBrand, _, ?_, hpkts, hstub, rfl, rfl, hbrand, ?_⟩
    · rw [execLkrel_held hkept (lockPlace_hbm (watch := false) (by simp) hp hplace) he hone hst hc hs hd, releaseLock_last he' hn]
    · exact (releasing_does s' [p]).frame.follow (hf.frame.widen _)
  · obtain ⟨t, ht, htrapped⟩ := finish_trap hin (lockTrap 3)
    exact ⟨t, (execLkrel_notHeld hkept (lockPlace_hbm (watch := false) (by simp) hp hplace) hnone).trans ht, htrapped⟩

/-! ### Copies and all-reduces handed over (R251, R252, R255) -/

/-- A copy's length fault (R251): its address is open (log entry 43). -/
def lengthFault (s : State) : Trap := accessTrap .copyLength (Config.faultAddress s.tick) 0

theorem lengthFault_kind (s : State) : (lengthFault s).cause = 8 ∧ (lengthFault s).kind = 11 := ⟨rfl, rfl⟩

/-- A trap taken a tick later is the same trap. -/
theorem finish_trap_tock {s : State} (h : s.me.inTrap = false) (k : Trap) : ∃ t, finish (.trap s.tock k) = .next t ∧ Trapped k s.me.pc s t := by
  obtain ⟨t, ht, htrapped⟩ := finish_trap (s := s.tock) h k
  obtain ⟨hepc, hcause, heva, hrow, hin, hplv, hlevel, hpc, hres, hframe⟩ := htrapped
  obtain ⟨hsame, hid, hothers, hmem⟩ := hframe
  exact ⟨t, ht, hepc, hcause, heva, hrow, hin, hplv, hlevel, hpc, hres, hsame, hid, hothers, hmem⟩

theorem copyWith_length {s : State} {fill : Bool} {gd ga gb : GReg} {m : MReg} {sc : Scope} (h : 2 ^ 32 < (s.me.reg gb).toNat) :
    copyWith fill gd ga gb m sc s = finish (.trap s.tock (lengthFault s)) := by
  rw [copyWith, if_pos (show 2 ^ 32 < (s.g gb).toNat from h)]
  rfl

theorem aredWith_length {s : State} {bf16 : Bool} {gd ga gb : GReg} {m : MReg} (ha : (s.me.reg ga).toNat % 128 = 0)
    (h : (s.me.reg gb).toNat % 128 ≠ 0 ∨ (s.me.reg gb).toNat < 128 ∨ 2 ^ 32 < (s.me.reg gb).toNat) :
    aredWith bf16 gd ga gb m s = finish (.trap s.tock (lengthFault s)) := by
  have hal : ((s.g ga).toNat % 128 != 0) = false := by simp [State.g, ha]
  have hlen : ((s.g gb).toNat % 128 != 0 || decide ((s.g gb).toNat < 128) || decide (2 ^ 32 < (s.g gb).toNat)) = true := by
    simp only [Bool.or_eq_true, bne_iff_ne, decide_eq_true_eq, or_assoc]
    exact h
  unfold aredWith
  dsimp only
  rw [if_neg fun e => Bool.false_ne_true (hal.symm.trans e)]
  split
  · rfl
  · exact absurd hlen ‹_›

/-- The byte ranges of located pieces. -/
def copyRanges (ps : List Piece) : List (Nat × Nat) := ps.map fun p => (p.pa, p.len)

/-- The job that a copy hands to its core's engine. -/
def copyJob (s : State) (fill : Bool) (src dst : List Piece) (pattern : Word) (len : Nat) (m : MReg) (sc : Scope) (va : Word) : Job :=
  { id := s.nextId, core := s.me.id, launch := (match s.me.launch with | some l => l | none => 0), rx := s.me.rx, ry := s.me.ry, fill := fill,
    src := copyRanges src, dst := copyRanges dst, pattern := pattern, len := len, slot := m.val, scope := sc,
    unmarked := (rangeLines (copyRanges dst)).filter fun l => (match s.placeOf (l * 128) with | .ok .localHbm => true | _ => false),
    unwritten := rangeLines (copyRanges dst), after := s.me.undone, saved := [],
    brand := copyBrand 0 (rangeLines (copyRanges dst)), status := 0, asid := s.me.asid, va := va.toNat }

/-- The machine with a copy's job in its engine, before the job's first step. -/
def copyStarted (s : State) (fill : Bool) (src dst : List Piece) (pattern : Word) (len : Nat) (m : MReg) (sc : Scope) (va : Word) : State :=
  let s' := s.onMe fun c =>
    { c with brand := copyBrand c.brand (rangeLines (copyRanges dst)),
             cache := c.cache.filter fun (l : CLine) => !(l.isU && (rangeLines (copyRanges dst)).contains l.line),
             others := if (copyJob s fill src dst pattern len m sc va).unmarked.isEmpty then c.others else c.others + 1 }
  ({ s' with nextId := s.nextId + 1, jobs := s.jobs ++ [copyJob s fill src dst pattern len m sc va] }).coverFills (rangeLines (copyRanges dst)).contains

theorem startCopy_eq (s : State) (fill : Bool) (src dst : List Piece) (pattern : Word) (len : Nat) (m : MReg) (sc : Scope) (va : Word) :
    s.startCopy fill src dst pattern len m sc va = (copyStarted s fill src dst pattern len m sc va).settleJob s.nextId := rfl

theorem copyStarted_spec (s : State) (fill : Bool) (src dst : List Piece) (pattern : Word) (len : Nat) (m : MReg) (sc : Scope) (va : Word) :
    (copyStarted s fill src dst pattern len m sc va).jobs = s.jobs ++ [copyJob s fill src dst pattern len m sc va] ∧
    Frame { brand := true } s (copyStarted s fill src dst pattern len m sc va) := by
  refine ⟨rfl, (Writes.coverFills ?_ _).frame⟩
  refine ⟨?_, rfl, rfl, rfl, rfl, rfl⟩
  constructor <;> intros <;> simp_all [State.onMe, Core.reg]

theorem execCpy_starts {s s₁ s₂ : State} {gd ga gb : GReg} {m : MReg} {sc : Scope} {src dst : List Piece} (hlen : (s.me.reg gb).toNat ≤ 2 ^ 32)
    (hw : Unwatched s (s.me.reg ga) (s.me.reg gb).toNat false) (hw' : Unwatched s (s.me.reg gd) (s.me.reg gb).toNat true)
    (hsrc : locatePages s (s.me.reg ga) (s.me.reg gb).toNat 0 = .ok s₁ src) (hdst : locatePages s₁ (s.me.reg gd) (s.me.reg gb).toNat 1 = .ok s₂ dst)
    (hout : enginesOut s₂ s₂.me.id < 4) (hroom : s₂.me.storeCount < 128) :
    exec (.cpy gd ga gb m sc) s =
      .next ((copyStarted s₂ false src dst (s.me.reg ga) (s.me.reg gb).toNat m sc (s.me.reg gd)).settleJob s₂.nextId).retire := by
  show copyWith false gd ga gb m sc s = _
  simp only [copyWith, State.g, Nat.not_lt.mpr hlen, if_false, Bool.false_eq_true, checkWatch_unwatched hw, checkWatch_unwatched hw', Ans.ok_bind, hsrc, hdst,
    Nat.not_le.mpr hout, roomForStore_room (show s₂.me.storeCount + 1 ≤ 128 from hroom), startCopy_eq]
  rfl

theorem execCpyf_starts {s s₂ : State} {gd ga gb : GReg} {m : MReg} {sc : Scope} {dst : List Piece} (hlen : (s.me.reg gb).toNat ≤ 2 ^ 32)
    (hw : Unwatched s (s.me.reg gd) (s.me.reg gb).toNat true) (hdst : locatePages s (s.me.reg gd) (s.me.reg gb).toNat 1 = .ok s₂ dst)
    (hout : enginesOut s₂ s₂.me.id < 4) (hroom : s₂.me.storeCount < 128) :
    exec (.cpyf gd ga gb m sc) s =
      .next ((copyStarted s₂ true [] dst (s.me.reg ga) (s.me.reg gb).toNat m sc (s.me.reg gd)).settleJob s₂.nextId).retire := by
  show copyWith true gd ga gb m sc s = _
  simp only [copyWith, State.g, Nat.not_lt.mpr hlen, if_false, if_true, checkWatch_unwatched hw, Ans.ok_bind, hdst,
    Nat.not_le.mpr hout, roomForStore_room (show s₂.me.storeCount + 1 ≤ 128 from hroom), startCopy_eq]
  rfl

theorem startAred_does (s : State) (bf16 : Bool) (tag : Nat) (buf : List Piece) (len : Nat) (m : MReg) :
    Does { brand := true } s (s.startAred bf16 tag buf len m) := by
  refine Writes.does ⟨?_, rfl, rfl, rfl, rfl, rfl⟩
  constructor <;> intros <;> simp_all [State.startAred, State.onMe, Core.reg]

theorem execAred_starts {s s₂ : State} {bf16 : Bool} {gd ga gb : GReg} {m : MReg} {dst : List Piece} (ha : (s.me.reg ga).toNat % 128 = 0)
    (hl : (s.me.reg gb).toNat % 128 = 0) (hlo : 128 ≤ (s.me.reg gb).toNat) (hhi : (s.me.reg gb).toNat ≤ 2 ^ 32)
    (hw : Unwatched s (s.me.reg ga) (s.me.reg gb).toNat false) (hw' : Unwatched s (s.me.reg ga) (s.me.reg gb).toNat true)
    (hdst : locatePages s (s.me.reg ga) (s.me.reg gb).toNat 2 = .ok s₂ dst) (hplace : ∀ p ∈ dst, s₂.placeOf p.pa = .ok .localHbm) (hup : s₂.link.up = true)
    (hout : enginesOut s₂ s₂.me.id < 4) (hroom : s₂.areds.length < 16) :
    aredWith bf16 gd ga gb m s = .next (s₂.startAred bf16 ((s₂.me.reg gd).toNat % 2 ^ 16) dst (s.me.reg gb).toNat m).retire := by
  have hal : ((s.me.reg ga).toNat % 128 != 0) = false := by simp [ha]
  have hlen : ((s.me.reg gb).toNat % 128 != 0 || decide ((s.me.reg gb).toNat < 128) || decide (2 ^ 32 < (s.me.reg gb).toNat)) = false := by
    simp [hl]
    omega
  have hfull : (decide (4 ≤ enginesOut s₂ s₂.me.id) || decide (16 ≤ s₂.areds.length)) = false := by
    simp
    omega
  simp only [aredWith, State.g, hal, Bool.false_eq_true, if_false, checkWatch_unwatched hw, checkWatch_unwatched hw', Ans.ok_bind, hdst, hup, Bool.not_true]
  split
  · exact absurd (hlen.symm.trans ‹_›) Bool.false_ne_true
  · split
    · rename_i p hp
      have hlocal := hplace p (List.mem_of_find?_eq_some hp)
      have hnot := List.find?_some hp
      simp [hlocal] at hnot
    · split
      · exact absurd (hfull.symm.trans ‹_›) Bool.false_ne_true
      · rfl

/-- Settles O38: the length faults, the two copies, and the all-reduce. -/
theorem copiesAndAllReducesAreHandedOver : Obligations.CopiesAndAllReducesAreHandedOver := by
  intro s s₁ s₂ gd ga gb m sc src dst len ranges
  obtain ⟨hcause, hkind⟩ := lengthFault_kind s
  refine ⟨fun hlen hin => ?_, fun ha hlen hin bf16 => ?_, fun hlen hw hw' hsrc hdst hout hroom => ?_, fun hlen hw hdst hout hroom => ?_,
    fun ha hl hlo hhi hw hw' hdst hplace hup hout hroom bf16 => ?_⟩
  · obtain ⟨t, ht, htrapped⟩ := finish_trap_tock hin (lengthFault s)
    exact ⟨⟨t, _, (copyWith_length hlen).trans ht, hcause, hkind, htrapped⟩, ⟨t, _, (copyWith_length hlen).trans ht, hcause, hkind, htrapped⟩⟩
  · obtain ⟨t, ht, htrapped⟩ := finish_trap_tock hin (lengthFault s)
    refine ⟨t, _, ?_, hcause, hkind, htrapped⟩
    cases bf16 <;> exact (aredWith_length ha hlen).trans ht
  · obtain ⟨hjobs, hf⟩ := copyStarted_spec s₂ false src dst (s.me.reg ga) len m sc (s.me.reg gd)
    exact ⟨_, _, execCpy_starts hlen hw hw' hsrc hdst hout hroom, hjobs, rfl, rfl, rfl, rfl, rfl, rfl, rfl, rfl, rfl, rfl, hf⟩
  · obtain ⟨hjobs, hf⟩ := copyStarted_spec s₂ true [] dst (s.me.reg ga) len m sc (s.me.reg gd)
    exact ⟨_, _, execCpyf_starts hlen hw hdst hout hroom, hjobs, rfl, rfl, rfl, rfl, rfl, rfl, rfl, rfl, rfl, rfl, hf⟩
  · obtain ⟨hr, hf⟩ := (startAred_does s₂ bf16 ((s₂.me.reg gd).toNat % 2 ^ 16) dst len m).retires
    have hstart := execAred_starts (bf16 := bf16) (gd := gd) (m := m) ha hl hlo hhi hw hw' hdst hplace hup hout hroom
    refine ⟨_, _, ?_, rfl, rfl, rfl, rfl, rfl, rfl, rfl, rfl, rfl, hr, hf⟩
    cases bf16 <;> exact hstart

end Sys2Proof.Machine
end

section
/-! SUPPORT. Device registers, debug, traces, errors, links, start-up and power: what each event does. -/
namespace Sys2Proof.Machine

/-! ### Start-up (R433 to R437) -/

/-- The card right after its reset (R433). -/
def cardAtReset (s : State) : State :=
  { State.reset with mem := hostMemory s, agenda := s.agenda, lazy := s.lazy, tick := s.tick, me := yardAtReset s 512,
                     cores := if (s.core 513).sram.isEmpty then [] else [yardAtReset s 513],
                     boot := { resetBoot with stage := 1, perst := s.boot.perst, cardId := s.boot.cardId } }

theorem yardAtReset_empty {s : State} {k : Nat} (h : (s.core k).sram = []) : yardAtReset s k = resetCore k := by
  rw [yardAtReset, h]
  rfl

theorem cardAtReset_core (s : State) (k : Nat) :
    (cardAtReset s).core k = if k = 512 ∨ k = 513 then { resetCore k with sram := (s.core k).sram } else resetCore k := by
  have hme : (cardAtReset s).me = yardAtReset s 512 := rfl
  have hfind : findCore (cardAtReset s).cores k = if k = 513 then yardAtReset s 513 else resetCore k := by
    have hcores : (cardAtReset s).cores = if (s.core 513).sram.isEmpty then [] else [yardAtReset s 513] := rfl
    rw [hcores]
    cases hs : (s.core 513).sram with
    | nil =>
      rw [if_pos List.isEmpty_nil, findCore]
      split
      · next h => rw [yardAtReset_empty hs, h]
      · rfl
    | cons b bs =>
      rw [if_neg (by simp), findCore, findCore]
      by_cases h : k = 513
      · rw [if_pos h, if_pos (by rw [h]; rfl)]
      · rw [if_neg h, if_neg fun e : ((yardAtReset s 513).id == k) = true => h (beq_iff_eq.mp e).symm]
  unfold State.core
  rw [hme, hfind]
  by_cases h512 : k = 512
  · rw [h512]
    rfl
  · rw [if_neg fun e : ((yardAtReset s 512).id == k) = true => h512 (beq_iff_eq.mp e).symm]
    by_cases h513 : k = 513
    · rw [if_pos h513, if_pos (.inr h513), h513]
      rfl
    · rw [if_neg h513, if_neg (by simp [h512, h513])]

theorem cardReset_spec (s : State) : ∃ t : State, exec .cardReset s = .next t ∧ t.boot.stage = 1 ∧ t.dir = [] ∧ t.launches = [] ∧
    (∀ k, t.core k = if k = 512 ∨ k = 513 then { resetCore k with sram := (s.core k).sram } else resetCore k) ∧ t.pads = State.reset.pads ∧
    t.net = [] ∧ t.link.up = false :=
  ⟨cardAtReset s, rfl, rfl, rfl, rfl, cardAtReset_core s, rfl, rfl, rfl⟩

/-- IMAGE_VERIFIED: slot A, else slot B, else recovery (R433). -/
theorem imageVerified_spec {s : State} (h : s.boot.stage = 1) :
    (∀ x y : Bool, (x = true ∨ y = true) → ∃ t : State, exec (.imageVerified x y) s = .next t ∧ t.boot.stage = 2 ∧
      t.boot.slot = (if x then 1 else 2) ∧ t.boot.verified = true) ∧
    (∃ t : State, exec (.imageVerified false false) s = .next t ∧ t.boot.stage = 15) := by
  have hstage : (s.boot.stage != 1) = false := by simp [h]
  refine ⟨fun x y hxy => ⟨{ s with
      me := s.me.startYard
      cores := s.cores.map (·.startYard)
      boot := { s.boot with stage := 2, slot := if x then 1 else 2, verified := true } }, ?_, rfl, rfl, rfl⟩,
    ⟨{ s with boot := { s.boot with stage := 15 } }, ?_, rfl⟩⟩
  · have hor : (x || y) = true := by simpa using hxy
    show execImageVerified x y s = _
    rw [execImageVerified, hstage, hor]
    rfl
  · show execImageVerified false false s = _
    rw [execImageVerified, hstage]
    rfl

/-- A cell that failed its test is unavailable. -/
def failCell (s : State) (k : Nat) : State := s.onCore (s.coreNo k) fun c => { c with available := false }

theorem failCell_core {s : State} (hcard : s.link.card = 0) (j k : Nat) :
    ((failCell s j).core k).available = if k = j then false else (s.core k).available := by
  have hno : s.coreNo j = j := by rw [State.coreNo, hcard]; omega
  rw [failCell, hno, State.core_onCore _ _ _ _ (by simp)]
  split
  · next h => rfl
  · rfl

theorem foldl_failCell {s : State} (hcard : s.link.card = 0) (ks : List Nat) (k : Nat) :
    ((ks.foldl failCell s).core k).available = if k ∈ ks then false else (s.core k).available := by
  induction ks generalizing s with
  | nil => simp
  | cons j ks ih =>
    have hlink : (failCell s j).link.card = 0 := by simpa [failCell] using hcard
    rw [List.foldl_cons, ih hlink, failCell_core hcard]
    by_cases hk : k ∈ ks <;> by_cases hj : k = j <;> simp [hk, hj]

theorem selfTest_spec {s : State} (failed : List Nat) (hstage : s.boot.stage = 2) (hperst : s.boot.perst = true) (hcard : s.link.card = 0) :
    ∃ t : State, exec (.selfTestComplete failed) s = .next t ∧ t.boot.stage = 3 ∧ t.boot.featdev = 0xFF ∧
      ∀ k ∈ failed, k < 192 → (t.core k).available = false := by
  have hgo : (s.boot.stage != 2 || !s.boot.perst) = false := by simp [hstage, hperst]
  have hexec : exec (.selfTestComplete failed) s = .next (({ (failed.filter (· < 192)).foldl failCell s with
      boot := { ((failed.filter (· < 192)).foldl failCell s).boot with stage := 3, trained := true, featdev := 0xFF } } : State)) := by
    show execSelfTestComplete failed s = _
    rw [execSelfTestComplete, hgo]
    rfl
  refine ⟨_, hexec, rfl, rfl, fun k hk hlt => ?_⟩
  refine Eq.trans (foldl_failCell hcard (failed.filter (· < 192)) k) ?_
  rw [if_pos (List.mem_filter.mpr ⟨hk, by simpa using hlt⟩)]

/-- FEATACC_WRITE, the driver's first answer (R436). -/
theorem feataccWrite_spec {s : State} {v : Word} (hdone : s.boot.done = false) (hstage : s.boot.stage = 3) (hans : s.boot.answered = false)
    (hv : v.getLsbD 63 = true) : ∃ t : State, exec (.feataccWrite v) s = .next t ∧ t.boot.done = true ∧ t.boot.stage = 4 ∧
      t.boot.featacc = v.setWidth 8 &&& s.boot.featdev ∧ ∀ d : Fin 2, t.boot.dies[d] = v.setWidth 8 &&& s.boot.featdev := by
  have hbit : v.toNat / 2 ^ 63 % 2 = 1 := by
    have h : v.toNat.testBit 63 = true := hv
    rw [Nat.testBit_eq_decide_div_mod_eq] at h
    exact of_decide_eq_true h
  have hgo : (s.boot.done || v.toNat / 2 ^ 63 % 2 == 0 || s.boot.stage != 3) = false := by
    rw [hdone, hbit, hstage]
    rfl
  have hlow : BitVec.ofNat 8 v.toNat = v.setWidth 8 := (BitVec.ofNat_toNat (m := 8) v)
  refine ⟨{ s with boot := { s.boot with
      done := true
      answered := true
      featacc := v.setWidth 8 &&& s.boot.featdev
      dies := Vector.replicate 2 (v.setWidth 8 &&& s.boot.featdev)
      stage := 4 } }, ?_, rfl, rfl, rfl, fun d => ?_⟩
  · show (.next (s.feataccSet v.toNat) : Result) = _
    rw [State.feataccSet, hgo, hans, hlow]
    rfl
  · simp

/-! ### The link's training (R440) -/

theorem renumber_link (s : State) : s.renumber.link = s.link ∧ s.renumber.boot = s.boot ∧ s.renumber.out = s.out := ⟨rfl, rfl, rfl⟩

/-- The machine under the number that a training gives its card. -/
def asCard (s : State) (card : Nat) : State := if card == s.link.card then s else s.renumber

theorem asCard_keeps (s : State) (card : Nat) : (asCard s card).link = s.link ∧ (asCard s card).boot = s.boot ∧ (asCard s card).out = s.out := by
  unfold asCard
  split
  · exact ⟨rfl, rfl, rfl⟩
  · exact renumber_link s

theorem sahaxTraining_spec {s : State} {v : Word} (hstage : s.boot.stage = 4) (hup : s.link.up = false) :
    ∃ t : State, exec (.sahaxTraining v) s = .next t ∧ t.link.up = true ∧ t.link.card = (if s.boot.cardId < v then 0 else 1) ∧
      t.link.peerId = v ∧ t.boot.stage = 5 ∧ t.out = s.out ++ [.cardId s.boot.cardId, .windowTable] := by
  have hgo : (s.boot.stage == 4 && !s.link.up) = true := by simp [hstage, hup]
  obtain ⟨hlink, hboot, hout⟩ := asCard_keeps s (if s.boot.cardId < v then 0 else 1)
  have hexec : exec (.sahaxTraining v) s = .next (({ asCard s (if s.boot.cardId < v then 0 else 1) with
      link := { (asCard s (if s.boot.cardId < v then 0 else 1)).link with up := true, card := if s.boot.cardId < v then 0 else 1, peerId := v, trained := true }
      boot := { (asCard s (if s.boot.cardId < v then 0 else 1)).boot with stage := 5 }
      out := (asCard s (if s.boot.cardId < v then 0 else 1)).out ++ [.cardId (asCard s (if s.boot.cardId < v then 0 else 1)).boot.cardId] } : State).sendWindows) := by
    show execSahaxTraining v s = _
    rw [execSahaxTraining, hgo]
    rfl
  refine ⟨_, hexec, rfl, rfl, rfl, rfl, ?_⟩
  rw [State.sendWindows, if_pos rfl, hboot, hout]
  show s.out ++ [_] ++ [_] = _
  rw [List.append_assoc]
  rfl

theorem sahaxTrainTimeout_spec {s : State} (hstage : s.boot.stage = 4) (hup : s.link.up = false) :
    ∃ t : State, exec .sahaxTrainTimeout s = .next t ∧ t.link.up = false ∧ t.link.card = 0 ∧ t.link.alone = true ∧ t.boot.stage = 5 := by
  have hgo : (s.boot.stage == 4 && !s.link.up) = true := by simp [hstage, hup]
  have hlink : (if s.link.card == 0 then s else s.renumber).link = s.link := by
    split
    · rfl
    · exact (renumber_link s).1
  have hexec : exec .sahaxTrainTimeout s = .next ({ (if s.link.card == 0 then s else s.renumber) with
      link := { (if s.link.card == 0 then s else s.renumber).link with card := 0, alone := true }
      boot := { (if s.link.card == 0 then s else s.renumber).boot with stage := 5 } } : State) := by
    show execSahaxTrainTimeout s = _
    rw [execSahaxTrainTimeout, hgo]
    rfl
  refine ⟨_, hexec, ?_, rfl, rfl, rfl⟩
  show (if s.link.card == 0 then s else s.renumber).link.up = false
  rw [hlink, hup]

/-! ### The sets of the configuration (R367, R433) -/

theorem pad_onPad (s : State) (n k : Nat) (f : Paddock → Paddock) : (s.onPad n f).pad k = if padIx k = padIx n then f (s.pad n) else s.pad k := by
  unfold State.onPad State.pad
  exact getElem_set_fin ..

theorem foldl_onCore_pads (ks : List Nat) (g : State → Nat → Nat) (f : Nat → Core → Core) (s : State) :
    (ks.foldl (fun (s : State) k => s.onCore (g s k) (f k)) s).pads = s.pads := by
  induction ks generalizing s with
  | nil => rfl
  | cons k ks ih =>
    rw [List.foldl_cons, ih, State.onCore_pads]

/-- The paddock of an active set (R375). -/
def activePaddock (n : Nat) : Paddock := { resetPaddock n with cmask := (setRow n).1, ncode := (setRow n).2.1, stackMask := (setRow n).2.2 }

theorem activate_pad (s : State) (n k : Nat) : (s.activate n).pad k = if padIx k = padIx n then activePaddock n else s.pad k := by
  have hpads : (s.activate n).pads = (s.onPad n fun _ => activePaddock n).pads := foldl_onCore_pads _ (fun s k => s.coreNo k) _ _
  rw [← pad_onPad s n k fun _ => activePaddock n, State.pad, hpads]
  rfl

theorem activePaddock_active (n : Nat) : (activePaddock n).active = true := by
  have hrow : ((setRow n).1 != 0) = true := by
    rcases n with _ | _ | _ | _ | _ | _ | n
    all_goals rfl
  exact hrow

theorem foldl_activate_active (c : List Nat) (s : State) (n : Nat) (h : n ∈ c ∨ (s.pad n).active = true) : ((c.foldl State.activate s).pad n).active = true := by
  induction c generalizing s with
  | nil => exact h.resolve_left (by simp)
  | cons m c ih =>
    refine ih (s.activate m) ?_
    rw [activate_pad]
    rcases h with h | h
    · rcases List.mem_cons.mp h with rfl | h
      · exact .inr (by rw [if_pos rfl]; exact activePaddock_active n)
      · exact .inl h
    · right
      split
      · exact activePaddock_active m
      · exact h

theorem paddockActivation_spec {s : State} {c : List Nat} (hstage : s.boot.stage = 5) (hc : isConfiguration c = true) :
    ∃ t : State, exec (.paddockActivation c) s = .next t ∧ t.boot.stage = 6 ∧ ∀ n, t.pad n = (c.foldl State.activate s).pad n := by
  have hgo : (s.boot.stage == 5 && isConfiguration c) = true := by simp [hstage, hc]
  refine ⟨{ c.foldl State.activate s with boot := { s.boot with stage := 6 } }, ?_, rfl, fun n => rfl⟩
  show execPaddockActivation c s = _
  rw [execPaddockActivation, hgo]
  rfl

/-! ### The host's accesses (R438) -/

theorem bar2_refused {s : State} {vf off size : Nat} (hvf : 1 ≤ vf) (hvf' : vf ≤ 7) (hsize : 1 ≤ size)
    (h : ¬((s.pad (vf - 1)).active = true ∧ off + size ≤ 0x3000000000 ∧ (s.pad (vf - 1)).stackMask.getLsbD (stackOf off) = true ∧
      (s.pad (vf - 1)).stackMask.getLsbD (stackOf (off + size - 1)) = true)) (x : Option Nat) :
    exec (.hostBar2Access (.bar2 vf) off size x) s = .next { s with out := s.out ++ [.ur vf off] } := by
  have hfn : (vf == 0 || decide (7 < vf)) = false := by simp; omega
  have hout : (decide (0x3000000000 < off + size) || !(s.pad (vf - 1)).active || !(s.pad (vf - 1)).stackMask.getLsbD (stackOf off)
      || !(s.pad (vf - 1)).stackMask.getLsbD (stackOf (off + (size - 1)))) = true := by
    rw [← Nat.add_sub_assoc hsize]
    refine Decidable.byContradiction fun hno => ?_
    refine h ?_
    simp only [Bool.or_eq_true, decide_eq_true_eq, Bool.not_eq_true', not_or, Bool.not_eq_false, Nat.not_lt] at hno
    obtain ⟨⟨⟨h1, h2⟩, h3⟩, h4⟩ := hno
    exact ⟨h2, h1, h3, h4⟩
  show bar2Access vf off size x s = _
  unfold bar2Access
  dsimp only
  rw [if_neg fun e => Bool.false_ne_true (hfn.symm.trans e), if_pos hout]

/-- An access within one line is one piece. -/
theorem linePieces_within {a n : Nat} (hn : 1 ≤ n) (h : a % 128 + n ≤ 128) : linePieces a n = [(a, n, 0)] := by
  have hfit : min (128 - a % 128) n = n := by omega
  rw [linePieces, splitAt, if_neg (by omega)]
  simp only [Nat.add_zero, Nat.sub_zero, hfit, Nat.zero_add]
  rw [splitAt, if_pos (Nat.le_refl n)]
section
variable {s : State} {vf off size : Nat} (hvf : 1 ≤ vf) (hvf' : vf ≤ 7) (hsize : 1 ≤ size) (hact : (s.pad (vf - 1)).active = true)
  (hend : off + size ≤ 0x3000000000) (hlo : (s.pad (vf - 1)).stackMask.getLsbD (stackOf off) = true)
  (hhi : (s.pad (vf - 1)).stackMask.getLsbD (stackOf (off + size - 1)) = true) (hdie : s.dies[Fin.ofNat 2 (stackOf off / 2)] = .up)
  (hline : off % 128 + size ≤ 128)
include hvf hvf' hsize hact hend hlo hhi hdie hline

/-- A granted write goes to its serialisation point. -/
theorem bar2_write (v : Nat) : exec (.hostBar2Access (.bar2 vf) off size (some v)) s = .next (s.request
    { core := 1024, line := (s.link.card * 2 ^ 47 + off) / 128, req := .write (s.link.card * 2 ^ 47 + off) size (v % 2 ^ (8 * size)) false false }) := by
  have hfn : (vf == 0 || decide (7 < vf)) = false := by simp; omega
  have hin : (decide (0x3000000000 < off + size) || !(s.pad (vf - 1)).active || !(s.pad (vf - 1)).stackMask.getLsbD (stackOf off)
      || !(s.pad (vf - 1)).stackMask.getLsbD (stackOf (off + (size - 1)))) = false := by
    rw [← Nat.add_sub_assoc hsize, hact, hlo, hhi]
    simpa using hend
  have hup : (s.dies[Fin.ofNat 2 (stackOf off / 2)] == .reset) = false := by rw [hdie]; rfl
  show bar2Access vf off size (some v) s = _
  unfold bar2Access
  dsimp only
  rw [if_neg fun e => Bool.false_ne_true (hfn.symm.trans e), if_neg fun e => Bool.false_ne_true (hin.symm.trans e),
    if_neg fun e => Bool.false_ne_true (hup.symm.trans e), linePieces_within hsize (by omega)]
  simp only [List.foldl_cons, List.foldl_nil, Nat.mul_zero, Nat.pow_zero, Nat.div_one]

/-- A granted read of a line that can be read completes with its bytes. -/
theorem bar2_read {d : DirLine} (hdir : s.dirOf ((s.link.card * 2 ^ 47 + off) / 128) = some d) (hst : d.st = .n) (hround : d.round = none)
    (hb : setBlocked s ((s.link.card * 2 ^ 47 + off) / 128) = false) (hp : setParked s ((s.link.card * 2 ^ 47 + off) / 128) = false)
    (hh : bankHeld s ((s.link.card * 2 ^ 47 + off) / 128) = false) : exec (.hostBar2Access (.bar2 vf) off size none) s =
      .next { s.hitDir ((s.link.card * 2 ^ 47 + off) / 128) false with out := s.out ++ [.barRead vf off (s.mem.readN (s.link.card * 2 ^ 47 + off) size)] } := by
  have hfn : (vf == 0 || decide (7 < vf)) = false := by simp; omega
  have hin : (decide (0x3000000000 < off + size) || !(s.pad (vf - 1)).active || !(s.pad (vf - 1)).stackMask.getLsbD (stackOf off)
      || !(s.pad (vf - 1)).stackMask.getLsbD (stackOf (off + (size - 1)))) = false := by
    rw [← Nat.add_sub_assoc hsize, hact, hlo, hhi]
    simpa using hend
  have hup : (s.dies[Fin.ofNat 2 (stackOf off / 2)] == .reset) = false := by rw [hdie]; rfl
  have hready : s.readyAtHome ((s.link.card * 2 ^ 47 + off) / 128) = .ok (s.hitDir ((s.link.card * 2 ^ 47 + off) / 128) false) () := by
    simp only [State.readyAtHome, hb, hp, hh, Bool.or_self, Bool.false_eq_true, if_false, hdir, hround, Option.isSome_none, hst]
  have hread : bar2Read s vf off size = .ok { s.hitDir ((s.link.card * 2 ^ 47 + off) / 128) false with
      out := s.out ++ [.barRead vf off (s.mem.readN (s.link.card * 2 ^ 47 + off) size)] } () := by
    unfold bar2Read
    rw [if_neg fun e => Bool.false_ne_true (hup.symm.trans e), readReady, linePieces_within hsize (by omega)]
    simp only [List.foldl_cons, List.foldl_nil, Ans.ok_bind, hready]
    obtain ⟨f, hf, -⟩ := s.hitDir_eq ((s.link.card * 2 ^ 47 + off) / 128) false
    rw [hf]
  show bar2Access vf off size none s = _
  unfold bar2Access
  dsimp only
  rw [if_neg fun e => Bool.false_ne_true (hfn.symm.trans e), if_neg fun e => Bool.false_ne_true (hin.symm.trans e),
    if_neg fun e => Bool.false_ne_true (hup.symm.trans e), hread]
end

/-- The bytes of a word, read one by one, are the word. -/
theorem packBits_bytes (v n : Nat) : ∀ k, packBits 8 ((List.range n).map fun i => getBits v (8 * (k + i)) 8) = v / 2 ^ (8 * k) % 2 ^ (8 * n) := by
  induction n with
  | zero => exact fun k => (Nat.mod_one _).symm
  | succ n ih =>
    intro k
    have htail : (List.range n).map ((fun i => getBits v (8 * (k + i)) 8) ∘ Nat.succ) = (List.range n).map fun i => getBits v (8 * (k + 1 + i)) 8 :=
      List.map_congr_left fun i _ => by
        simp only [Function.comp, Nat.succ_eq_add_one]
        rw [show k + (i + 1) = k + 1 + i by omega]
    rw [List.range_succ_eq_map, List.map_cons, List.map_map, htail, packBits, ih (k + 1), getBits, Nat.shiftRight_eq_div_pow, Nat.shiftLeft_eq, Nat.mod_mod,
      Nat.add_zero, show 8 * (n + 1) = 8 + 8 * n by omega, Nat.pow_add, Nat.mod_mul, Nat.div_div_eq_div_mul, ← Nat.pow_add, show 8 * (k + 1) = 8 * k + 8 by omega,
      Nat.mul_comm (2 ^ 8)]

theorem bar0_read {s : State} {fn off : Nat} (hfn : fn ≤ 7) (hoff : off % 8 = 0) :
    exec (.hostBar2Access (.bar0 fn) off 8 none) s = .next { s with out := s.out ++ [.barRead fn off (bar0Read s fn off % 2 ^ 64)] } := by
  have hbytes : bar0Bytes s fn off 8 = bar0Read s fn off % 2 ^ 64 := by
    have hlist : ((List.range 8).map fun i => getBits (bar0Read s fn ((off + i) / 8 * 8)) (8 * ((off + i) % 8)) 8) =
        (List.range 8).map fun i => getBits (bar0Read s fn off) (8 * (0 + i)) 8 := by
      refine List.map_congr_left fun i hi => ?_
      have hi8 : i < 8 := List.mem_range.mp hi
      rw [show (off + i) / 8 * 8 = off by omega, show (off + i) % 8 = 0 + i by omega]
    rw [bar0Bytes, hlist, packBits_bytes]
    simp
  have hin : ¬7 < fn := by omega
  show execHostBar2Access (.bar0 fn) off 8 none s = _
  simp only [execHostBar2Access, hin, if_false, hbytes]

/-! ### The Sahax Link (R439, R440) -/

section
variable {s : State} (hup : s.link.up = true) (hre : s.link.retraining = false)
include hup hre

theorem sahaxFlit_bad (seq ack : BitVec 12) (body : PeerRequest) : exec (.sahaxFlit seq ack true body) s = .next { s with out := s.out ++ [.nak s.link.rxSeq] } := by
  show execSahaxFlit seq ack true body s = _
  simp only [execSahaxFlit, hup, hre, Bool.not_true, Bool.or_self, Bool.false_eq_true, if_false, if_true]

/-- A flit in sequence is delivered. -/
theorem sahaxFlit_good (ack : BitVec 12) (body : PeerRequest) : exec (.sahaxFlit s.link.rxSeq ack false body) s =
    .next (({ s with link := { s.link.acked ack with rxSeq := s.link.rxSeq + 1 } } : State).deliverPeer body) := by
  show execSahaxFlit s.link.rxSeq ack false body s = _
  simp only [execSahaxFlit, hup, hre, Bool.not_true, Bool.or_self, Bool.false_eq_true, if_false, bne_self_eq_false]

theorem sahaxNak_first {seq : BitVec 12} (h : s.link.replay ≠ [seq]) : exec (.sahaxNak seq) s =
    .next { s with
      link := { s.link with replay := [seq], replays := 1 }
      out := s.out ++ (s.link.buffer.dropWhile (·.1 != seq)).map fun f => .flit f.1 f.2 } := by
  have hn : (s.link.replay == [seq]) = false := beq_eq_false_iff_ne.mpr h
  show execSahaxNak seq s = _
  simp only [execSahaxNak, hup, hre, Bool.not_true, Bool.or_self, Bool.false_eq_true, if_false, hn, show (1 : Nat) < 16 by decide, if_true]

theorem sahaxNak_last {seq : BitVec 12} (h : s.link.replay = [seq]) (h15 : s.link.replays = 15) : exec (.sahaxNak seq) s =
    .next { s with link := { s.link with replay := [], replays := 0, retraining := true, retrains := min (s.link.retrains + 1) 255 } } := by
  have hn : (s.link.replay == [seq]) = true := beq_iff_eq.mpr h
  show execSahaxNak seq s = _
  simp only [execSahaxNak, hup, hre, Bool.not_true, Bool.or_self, Bool.false_eq_true, if_false, hn, h15, if_true]
  rfl
end

theorem deliverPeer_store {s : State} {pad pa n x : Nat} (h : windowPermits s.windows.toList pad pa 1 = true) :
    s.deliverPeer (.store pad pa n x) = s.request { core := 1025, line := pa / 128, req := .write pa n x false false } := by
  simp only [State.deliverPeer, peerRequest, h, if_true]

/-- A refusal changes no byte, no core and no engine. -/
theorem refuse_keeps (s : State) (r : MReq) (f : LateFault) : (s.refuse r f).mem = s.mem ∧ (s.refuse r f).link = s.link ∧ (s.refuse r f).areds = s.areds := by
  unfold State.refuse
  split
  · split <;> exact ⟨rfl, rfl, rfl⟩
  · split <;> exact ⟨rfl, rfl, rfl⟩
  · exact ⟨rfl, rfl, rfl⟩
  · exact ⟨rfl, rfl, rfl⟩
  · exact ⟨rfl, rfl, rfl⟩

theorem foldl_refuse_keeps (rs : List MReq) (f : LateFault) (s : State) : (rs.foldl (fun (s : State) r => s.refuse r f) s).mem = s.mem ∧
    (rs.foldl (fun (s : State) r => s.refuse r f) s).link = s.link ∧ (rs.foldl (fun (s : State) r => s.refuse r f) s).areds = s.areds := by
  induction rs generalizing s with
  | nil => exact ⟨rfl, rfl, rfl⟩
  | cons r rs ih =>
    obtain ⟨hm, hl, ha⟩ := ih (s.refuse r f)
    obtain ⟨hm', hl', ha'⟩ := refuse_keeps s r f
    exact ⟨hm.trans hm', hl.trans hl', ha.trans ha'⟩

theorem sahaxLinkLoss_spec {s : State} (hup : s.link.up = true) : ∃ u : State, exec .sahaxLinkLoss s = .next u.settle ∧ u.link.up = false ∧
    u.link.lost = true ∧ u.mem = s.mem ∧ ∀ a ∈ u.areds, a.matched = true ∧ a.status ≠ 0 := by
  have hexec : ∃ (rs : List MReq) (net : List InFlight), s.linkDown = (rs.foldl (fun (s : State) r => s.refuse r (.access .linkAbsent)) { s with
      link := { s.link with up := false, lost := true, retraining := false, replay := [], replays := 0, buffer := [] }
      net := net
      areds := s.areds.map fun (a : Ared) => { a with matched := true, status := if a.status == 0 then 2 else a.status } }).settle := by
    unfold State.linkDown
    rw [hup]
    exact ⟨_, _, rfl⟩
  obtain ⟨rs, net, hdown⟩ := hexec
  obtain ⟨hmem, hlink, hareds⟩ := foldl_refuse_keeps rs (.access .linkAbsent) { s with
      link := { s.link with up := false, lost := true, retraining := false, replay := [], replays := 0, buffer := [] }
      net := net
      areds := s.areds.map fun (a : Ared) => { a with matched := true, status := if a.status == 0 then 2 else a.status } }
  refine ⟨_, congrArg Host.Outcome.next hdown, ?_, ?_, hmem, ?_⟩
  · rw [hlink]
  · rw [hlink]
  · rw [hareds]
    intro a ha
    obtain ⟨b, -, rfl⟩ := List.mem_map.mp ha
    refine ⟨rfl, ?_⟩
    show (if b.status == 0 then 2 else b.status) ≠ 0
    split
    · decide
    · simpa using ‹¬(b.status == 0) = true›
section
variable {s : State} (hup : s.link.up = false) (htrained : s.link.trained = true) (halone : s.link.alone = false)
include hup htrained halone

theorem sahaxRetrainAttempt_same : ∃ t : State, exec (.sahaxRetrainAttempt (some s.link.peerId)) s = .next t ∧ t.link.up = true ∧
    t.out = s.out ++ [.windowTable] := by
  refine ⟨{ s with
      link := { s.link with retrains := min (s.link.retrains + 1) 255, up := true, rxSeq := 0, txSeq := 0, buffer := [] }
      out := s.out ++ [.windowTable] }, ?_, rfl, rfl⟩
  show execSahaxRetrainAttempt (some s.link.peerId) s = _
  simp only [execSahaxRetrainAttempt, hup, htrained, halone, Bool.not_true, Bool.or_self, Bool.false_eq_true, if_false, beq_self_eq_true, if_true,
    State.sendWindows]

theorem sahaxRetrainAttempt_other {v : Word} (h : v ≠ s.link.peerId) : ∃ t : State, exec (.sahaxRetrainAttempt (some v)) s = .next t ∧ t.link.up = false := by
  have hne : (some v == some s.link.peerId) = false := beq_eq_false_iff_ne.mpr fun e => h (Option.some.inj e)
  refine ⟨{ s with link := { s.link with retrains := min (s.link.retrains + 1) 255 } }, ?_, hup⟩
  show execSahaxRetrainAttempt (some v) s = _
  simp only [execSahaxRetrainAttempt, hup, htrained, halone, Bool.not_true, Bool.or_self, Bool.false_eq_true, if_false, hne]
end

/-! ### Dies, power and ageing (R403, R404, R441 to R443) -/

theorem resetDie_dies (s : State) (die : Nat) : (s.resetDie die).dies = s.dies.set (Fin.ofNat 2 die) .reset := rfl

theorem resetDie_dir (s : State) (die : Nat) : ∀ d ∈ (s.resetDie die).dir, dieOf d.home ≠ die := by
  intro d hd
  obtain ⟨e, he, rfl⟩ := List.mem_map.mp hd
  have hne : dieOf e.home ≠ die := by simpa using (List.mem_filter.mp he).2
  split <;> exact hne

theorem dieWarmReset_spec (s : State) (die : Fin 2) : ∃ t : State, exec (.dieWarmReset die) s = .next t ∧ t.dies[die] = .reset ∧
    (∀ d ∈ t.dir, dieOf d.home ≠ die.val) := by
  have hsplit : ∃ u : State, s.warmReset die.val = u.resetDie die.val := ⟨_, rfl⟩
  obtain ⟨u, hu⟩ := hsplit
  refine ⟨u.resetDie die.val, congrArg Host.Outcome.next hu, ?_, resetDie_dir u die.val⟩
  rw [resetDie_dies, getElem_set_fin, if_pos (by simp)]

theorem foldl_keeps_boot (ks : List Nat) (f : State → Nat → State) (hf : ∀ s k, (f s k).boot = s.boot) (s : State) : (ks.foldl f s).boot = s.boot := by
  induction ks generalizing s with
  | nil => rfl
  | cons k ks ih => rw [List.foldl_cons, ih, hf]

theorem dieReadmit_spec {s : State} {die : Fin 2} (hdie : s.dies[die] = .reset) (hshut : s.shutdown = false)
    (hstage : s.boot.stage = 6 ∨ (s.boot.stage = 3 ∧ s.boot.answered = true)) (failed : List Nat) :
    ∃ t : State, exec (.dieReadmit die failed) s = .next t ∧ t.boot.stage = 3 ∧ t.boot.done = false ∧ die ∈ t.boot.asking := by
  have hgo : (s.dies[die] == .reset && !s.shutdown && (s.boot.stage == 6 || (s.boot.stage == 3 && s.boot.answered))) = true := by
    simp only [hdie, hshut, Bool.not_false, Bool.and_true, Bool.or_eq_true, Bool.and_eq_true, beq_iff_eq]
    exact ⟨trivial, hstage⟩
  have hexec : ∃ (ks : List Nat) (f : State → Nat → State), (∀ s k, (f s k).boot = s.boot) ∧ exec (.dieReadmit die failed) s = .next (({ ks.foldl f s with
      boot := { (ks.foldl f s).boot with done := false, stage := 3, asking := (ks.foldl f s).boot.asking.filter (· != die) ++ [die] } } : State)) := by
    refine ⟨(List.range 192).filter fun k => dieOf k == die.val, fun (s : State) k =>
        if (s.core (s.coreNo k)).available == !failed.contains k then s
        else s.onCore (s.coreNo k) fun c => { c with available := !failed.contains k }, fun s k => ?_, ?_⟩
    · dsimp only
      split
      · rfl
      · exact State.onCore_boot ..
    · show execDieReadmit die failed s = _
      rw [execDieReadmit, if_pos hgo]
  obtain ⟨ks, f, hf, hexec⟩ := hexec
  exact ⟨_, hexec, rfl, rfl, by simp⟩

theorem onQuarter_get (s : State) (q p : Fin 4) (f : Quarter → Quarter) : (s.onQuarter q f).quarters[p] = if p = q then f s.quarters[q] else s.quarters[p] :=
  getElem_set_fin ..

theorem thermalShutdown_spec (s : State) : ∃ t : State, exec .thermalShutdown s = .next t ∧ t.shutdown = true ∧ t.boot.stage = 15 ∧ t.launches = [] ∧
    t.net = [] ∧ ∀ d : Fin 2, t.dies[d] = .reset := by
  have hdies (d : Fin 2) : ((s.resetDie 0).resetDie 1).dies[d] = .reset := by
    rw [resetDie_dies, resetDie_dies, getElem_set_fin, getElem_set_fin]
    match d with
    | ⟨0, _⟩ => rfl
    | ⟨1, _⟩ => rfl
  exact ⟨_, rfl, rfl, rfl, rfl, rfl, hdies⟩

/-- A quarter after a re-plan that reads some slack (R442, R443). -/
def replanned (q : Quarter) (slack raise : BitVec 16) (limitHit : Bool) : Quarter :=
  { q with
    voff := q.voff + 25 * raiseSteps q slack raise.toNat
    slack := slack
    ceilSteps := if limitHit && slack.toNat < 40 && Config.voltageLimit < q.voff + 25 * raiseSteps q slack raise.toNat + 25 then min (q.ceilSteps + 1) maxSteps
      else q.ceilSteps }

theorem replanned_kept {q : Quarter} {slack raise : BitVec 16} {b : Bool} (h : 40 ≤ slack.toNat) :
    (replanned q slack raise b).voff = q.voff ∧ (replanned q slack raise b).ceilSteps = q.ceilSteps := by
  have hsteps : raiseSteps q slack raise.toNat = 0 := by rw [raiseSteps, if_pos h]
  have hlt : ¬slack.toNat < 40 := by omega
  unfold replanned
  rw [hsteps]
  simp [hlt]

theorem replanned_raised {q : Quarter} {slack raise : BitVec 16} {b : Bool} (h : slack.toNat < 40) :
    (replanned q slack raise b).voff = q.voff + 25 * min raise.toNat ((Config.voltageLimit - q.voff) / 25) ∧
    (replanned q slack raise b).ceilSteps =
      if b = true ∧ Config.voltageLimit < (replanned q slack raise b).voff + 25 then min (q.ceilSteps + 1) 32 else q.ceilSteps := by
  have hsteps : raiseSteps q slack raise.toNat = min raise.toNat ((Config.voltageLimit - q.voff) / 25) := by rw [raiseSteps, if_neg (by omega)]
  unfold replanned
  rw [hsteps]
  simp [h, maxSteps]

theorem ageingReplan_spec (s : State) (q : Fin 4) (raise : BitVec 16) (b : Bool) : ∃ t : State, exec (.ageingReplan q raise b) s = .next t ∧
    let slack := Config.monitorSlack s.tick
    let old := s.quarters[q]
    let new := t.quarters[q]
    new.slack = slack ∧
    (40 ≤ slack.toNat → new.voff = old.voff ∧ new.ceilSteps = old.ceilSteps) ∧
    (slack.toNat < 40 → new.voff = old.voff + 25 * min raise.toNat ((Config.voltageLimit - old.voff) / 25) ∧
      new.ceilSteps = if b = true ∧ Config.voltageLimit < new.voff + 25 then min (old.ceilSteps + 1) 32 else old.ceilSteps) := by
  have hget : (s.onQuarter q fun x => replanned x (Config.monitorSlack s.tick) raise b).tock.quarters[q] =
      replanned s.quarters[q] (Config.monitorSlack s.tick) raise b := (onQuarter_get s q q fun x => replanned x (Config.monitorSlack s.tick) raise b).trans (if_pos rfl)
  refine ⟨(s.onQuarter q fun x => replanned x (Config.monitorSlack s.tick) raise b).tock, rfl, ?_⟩
  rw [hget]
  exact ⟨rfl, replanned_kept, replanned_raised⟩

theorem powerControl_spec (s : State) (q : Fin 4) (b : Bool) : ∃ t : State, exec (.powerControl q b) s = .next t ∧
    t.quarters[q] = (if b then (s.quarters[q]).lower else (s.quarters[q]).raise) ∧ (∀ p : Fin 4, p ≠ q → t.quarters[p] = s.quarters[p]) ∧ t.mem = s.mem := by
  refine ⟨s.onQuarter q fun x => if b then x.lower else x.raise, rfl, ?_, fun p hp => ?_, rfl⟩
  · rw [onQuarter_get, if_pos rfl]
  · rw [onQuarter_get, if_neg hp]

theorem thermalThrottle_spec {s : State} {q : Fin 4} (h : max (s.quarters[q]).clockSteps (s.quarters[q]).ceilSteps < 32) :
    ∃ t : State, exec (.thermalThrottle q) s = .next t ∧ (t.quarters[q]).clockSteps = max (s.quarters[q]).clockSteps (s.quarters[q]).ceilSteps + 1 := by
  have hmax : max (s.quarters[q]).clockSteps (s.quarters[q]).ceilSteps < maxSteps := h
  refine ⟨s.onQuarter q fun x => if max x.clockSteps x.ceilSteps < maxSteps then x.lower else x, rfl, ?_⟩
  rw [onQuarter_get, if_pos rfl, if_pos hmax, Quarter.lower, if_pos hmax]

theorem hostBar0_spec {s : State} {fn off : Nat} (hfn : fn ≤ 7) (hoff : off % 8 = 0) :
    let reads := if fn = 0 then pfRead s off else if barLive s (fn - 1) = false then 2 ^ 64 - 1 else if off < 0x4000 then padRead s (fn - 1) off else 0
    ∃ t : State, exec (.hostBar2Access (.bar0 fn) off 8 none) s = .next t ∧ t.out = s.out ++ [.barRead fn off (reads % 2 ^ 64)] ∧ t.mem = s.mem := by
  intro reads
  have hreads : bar0Read s fn off = reads := by
    unfold bar0Read
    simp only [beq_iff_eq, Bool.not_eq_true', reads]
  exact ⟨_, bar0_read hfn hoff, by rw [hreads], rfl⟩

theorem activePaddock_card : (activePaddock 6).cmask = BitVec.allOnes 192 ∧ (activePaddock 6).stackMask = 15 ∧ (activePaddock 6).ncode = 2 := by
  refine ⟨?_, rfl, rfl⟩
  show (0xffffffffffffffffffffffffffffffffffffffffffffffff : BitVec 192) = _
  decide

/-- Settles O60, step by step. -/
theorem startUpLinksAndPowerProceed : Obligations.StartUpLinksAndPowerProceed := by
  intro s v vf off size seq ack die q b
  refine ⟨cardReset_spec s, ⟨{ s with boot := { s.boot with perst := true } }, rfl, rfl⟩, imageVerified_spec, selfTest_spec,
    ⟨{ s with out := s.out ++ [if s.boot.stage ≤ 2 then .crs else .configOk] }, rfl, rfl⟩, feataccWrite_spec,
    fun hstage hup => ⟨sahaxTraining_spec hstage hup, sahaxTrainTimeout_spec hstage hup⟩, fun hstage => ⟨?_, fun c hc => ?_⟩, fun hvf hvf' hsize => ?_,
    fun fn hfn hoff => hostBar0_spec hfn hoff, fun hup hre => ⟨fun body => sahaxFlit_bad hup hre seq ack body, ?_, fun pad pa n x hw => ?_, fun h => ?_, fun h h15 => ?_⟩,
    ⟨{ s with link := { s.link with retraining := false } }, rfl, rfl, rfl, rfl⟩, sahaxLinkLoss_spec,
    fun hup ht ha => ⟨sahaxRetrainAttempt_same hup ht ha, sahaxRetrainAttempt_other hup ht ha⟩,
    dieWarmReset_spec s die, dieReadmit_spec, powerControl_spec s q b, ⟨{ s with cap := v.getLsbD 0 }, rfl, rfl⟩, thermalThrottle_spec,
    thermalShutdown_spec s, fun raise => ageingReplan_spec s q raise b⟩
  · have hwhole := activePaddock_card
    obtain ⟨t, ht, h6, hpad⟩ := paddockActivation_spec (c := [6]) hstage rfl
    have hset : t.pad 6 = activePaddock 6 := by rw [hpad, List.foldl_cons, List.foldl_nil, activate_pad, if_pos rfl]
    rw [← hset] at hwhole
    exact ⟨t, ht, h6, hwhole⟩
  · obtain ⟨t, ht, h6, hpad⟩ := paddockActivation_spec hstage hc
    exact ⟨t, ht, h6, fun n hn => by rw [hpad n]; exact foldl_activate_active c s n (.inl hn)⟩
  · intro pad granted
    refine ⟨fun hno x => bar2_refused hvf hvf' hsize hno x, fun hyes hdie hline => ?_⟩
    obtain ⟨hact, hend, hlo, hhi⟩ := hyes
    refine ⟨bar2_write hvf hvf' hsize hact hend hlo hhi hdie hline, fun d hd hst hround hb hp hh =>
      ⟨_, bar2_read hvf hvf' hsize hact hend hlo hhi hdie hline hd hst hround hb hp hh, rfl, ?_⟩⟩
    obtain ⟨f, hf, -⟩ := s.hitDir_eq ((s.link.card * 2 ^ 47 + off) / 128) false
    rw [hf]
  · exact ⟨{ s with link := { s.link.acked ack with rxSeq := s.link.rxSeq + 1 } }, sahaxFlit_good hup hre ack .none, rfl, rfl⟩
  · refine ⟨{ s with link := { s.link.acked ack with rxSeq := s.link.rxSeq + 1 } }, ?_, rfl, rfl, rfl⟩
    rw [sahaxFlit_good hup hre, deliverPeer_store (s := { s with link := { s.link.acked ack with rxSeq := s.link.rxSeq + 1 } }) hw]
  · exact ⟨_, sahaxNak_first hup hre h, rfl, rfl, hre, rfl⟩
  · exact ⟨_, sahaxNak_last hup hre h h15, rfl, rfl⟩

/-! ### Error logs (R392) -/

/-- An error recorded in a log changes the sets' logs, what goes out, and the count of free values. -/
theorem State.logError_eq (s : State) (n kind core detail pa : Nat) :
    ∃ pads tick out, s.logError n kind core detail pa = { s with pads := pads, tick := tick, out := out } := by
  unfold State.logError
  dsimp only
  split
  · exact ⟨_, _, _, rfl⟩
  · exact ⟨_, _, s.out, rfl⟩

theorem foldl_logged (f : State → Nat → State) (hf : ∀ s n, ∃ pads tick out, f s n = { s with pads := pads, tick := tick, out := out }) (ns : List Nat) :
    ∀ s, ∃ pads tick out, ns.foldl f s = { s with pads := pads, tick := tick, out := out } := by
  induction ns with
  | nil => exact fun s => ⟨s.pads, s.tick, s.out, rfl⟩
  | cons n ns ih =>
    intro s
    obtain ⟨pads, tick, out, h⟩ := hf s n
    obtain ⟨pads', tick', out', h'⟩ := ih (f s n)
    refine ⟨pads', tick', out', ?_⟩
    rw [List.foldl_cons, h', h]

theorem State.logErrorAll_eq (s : State) (which : Paddock → Bool) (kind core detail pa : Nat) :
    ∃ pads tick out, s.logErrorAll which kind core detail pa = { s with pads := pads, tick := tick, out := out } := by
  unfold State.logErrorAll
  refine foldl_logged _ (fun s n => ?_) _ s
  split
  · exact s.logError_eq n kind core detail pa
  · exact ⟨s.pads, s.tick, s.out, rfl⟩

theorem State.logOutside_eq (s : State) (die kind core detail pa : Nat) :
    ∃ pads tick out, s.logOutside die kind core detail pa = { s with pads := pads, tick := tick, out := out } := by
  unfold State.logOutside
  split
  · exact s.logError_eq ..
  · exact s.logErrorAll_eq ..

theorem State.logAt_eq (s : State) (cell kind core detail pa : Nat) :
    ∃ pads tick out, s.logAt cell kind core detail pa = { s with pads := pads, tick := tick, out := out } := by
  unfold State.logAt
  split
  · exact s.logError_eq ..
  · exact s.logOutside_eq ..

theorem State.logCore_eq (s : State) (k kind detail pa : Nat) :
    ∃ pads tick out, s.logCore k kind detail pa = { s with pads := pads, tick := tick, out := out } := by
  unfold State.logCore
  split
  · exact s.logOutside_eq ..
  · exact s.logAt_eq ..

theorem State.logCore_core (s : State) (k kind detail pa j : Nat) : (s.logCore k kind detail pa).core j = s.core j := by
  obtain ⟨_, _, _, h⟩ := s.logCore_eq k kind detail pa
  rw [h]
  rfl

/-! ### Device registers (R282, R368, R374, R421) -/

theorem bitAt_word (v : Word) (i : Nat) : bitAt v.toNat i = v.getLsbD i := by
  rw [bitAt, show v.getLsbD i = v.toNat.testBit i from rfl, Nat.testBit_eq_decide_div_mod_eq]
  rfl

/-- The table of link windows after a write of one word. -/
theorem windowSet_get (s : State) (n word v : Nat) : (s.windowSet n word v).windows[Fin.ofNat 8 n] =
    if word == 0 then { s.windows[Fin.ofNat 8 n] with
        v := bitAt v 63, r := bitAt v 62, w := bitAt v 61, a := bitAt v 60, pmask := BitVec.ofNat 7 (v / 2 ^ 53), base := v / 2 ^ 12 % 2 ^ 35 }
    else { s.windows[Fin.ofNat 8 n] with limit := v / 2 ^ 12 % 2 ^ 35 } := by
  have hsend (u : State) : u.sendWindows.windows = u.windows := by
    unfold State.sendWindows
    split <;> rfl
  rw [State.windowSet, hsend]
  exact (getElem_set_fin ..).trans (if_pos rfl)

theorem linkWindowWrite_eq (s : State) {n word : Nat} (v : Word) (hn : n < 8) (hw : word < 2) :
    exec (.linkWindowWrite n word v) s = .next (s.windowSet n word v.toNat) := by
  have hgo : (decide (n < 8) && decide (word < 2)) = true := by simp [hn, hw]
  show execLinkWindowWrite n word v s = _
  rw [execLinkWindowWrite, if_pos hgo]

theorem linkWindow_base (s : State) {n : Nat} (v : Word) (hn : n < 8) : ∃ t : State, exec (.linkWindowWrite n 0 v) s = .next t ∧
    (t.windows[Fin.ofNat 8 n]).v = v.getLsbD 63 ∧ (t.windows[Fin.ofNat 8 n]).r = v.getLsbD 62 ∧ (t.windows[Fin.ofNat 8 n]).w = v.getLsbD 61 ∧
    (t.windows[Fin.ofNat 8 n]).a = v.getLsbD 60 ∧ (t.windows[Fin.ofNat 8 n]).base = v.toNat / 2 ^ 12 % 2 ^ 35 := by
  refine ⟨_, linkWindowWrite_eq s v hn (by decide), ?_⟩
  rw [windowSet_get, if_pos (by decide)]
  exact ⟨bitAt_word v 63, bitAt_word v 62, bitAt_word v 61, bitAt_word v 60, rfl⟩

theorem linkWindow_limit (s : State) {n : Nat} (v : Word) (hn : n < 8) : ∃ t : State, exec (.linkWindowWrite n 1 v) s = .next t ∧
    (t.windows[Fin.ofNat 8 n]).limit = v.toNat / 2 ^ 12 % 2 ^ 35 := by
  refine ⟨_, linkWindowWrite_eq s v hn (by decide), ?_⟩
  rw [windowSet_get, if_neg (by decide)]

theorem linkWindowTable_spec {s : State} (table : List LinkWindow) (hup : s.link.up = true) (hlen : table.length = 8) :
    ∃ t : State, exec (.linkWindowTable table) s = .next t ∧ t.peerWindows.toList = table ∧ t.mem = s.mem := by
  refine ⟨{ s with peerWindows := Vector.ofFn fun (i : Fin 8) => table.getD i.val resetWindow }, ?_, ?_, rfl⟩
  · show execLinkWindowTable table s = _
    rw [execLinkWindowTable, if_pos hup]
  · refine List.ext_getElem (by simp [hlen]) fun i h h' => ?_
    simp [List.getD_eq_getElem?_getD, List.getElem?_eq_getElem h']

theorem rrctlWrite_eq (s : State) {n : Nat} (v : Word) (hn : n < 7) : exec (.rrctlWrite n v) s = .next (s.rrSet n (v.toNat % 4)) := by
  show execRrctlWrite n v s = _
  rw [execRrctlWrite, if_pos hn]

theorem pad_onPad_self (s : State) (n : Nat) (f : Paddock → Paddock) : (s.onPad n f).pad n = f (s.pad n) := (pad_onPad s n n f).trans (if_pos rfl)

theorem rrctlWrite_idle {s : State} {n : Nat} {v : Word} (hn : n < 7) (hv : v.toNat % 4 ≠ 3) (h : ∀ l ∈ s.launches, l.pset ≠ n) :
    ∃ t : State, exec (.rrctlWrite n v) s = .next t ∧ (t.pad n).rrMode = v.toNat % 4 := by
  have hmode : (v.toNat % 4 == 3) = false := beq_eq_false_iff_ne.mpr hv
  have hnone : s.launches.any (·.pset == n) = false := List.any_eq_false.mpr fun l hl => by simpa using h l hl
  refine ⟨_, rrctlWrite_eq s v hn, ?_⟩
  rw [State.rrSet, hmode, hnone, if_neg Bool.false_ne_true, if_neg Bool.false_ne_true, pad_onPad_self]

theorem rrctlWrite_busy {s : State} {n : Nat} {v : Word} (hn : n < 7) (hv : v.toNat % 4 ≠ 3) (h : ∃ l ∈ s.launches, l.pset = n) :
    ∃ t : State, exec (.rrctlWrite n v) s = .next t ∧ (t.pad n).rrMode = (s.pad n).rrMode ∧ (t.pad n).rrRefused = true := by
  have hmode : (v.toNat % 4 == 3) = false := beq_eq_false_iff_ne.mpr hv
  obtain ⟨l, hl, hln⟩ := h
  have hsome : s.launches.any (·.pset == n) = true := List.any_eq_true.mpr ⟨l, hl, beq_iff_eq.mpr hln⟩
  refine ⟨_, rrctlWrite_eq s v hn, ?_⟩
  rw [State.rrSet, hmode, hsome, if_neg Bool.false_ne_true, if_pos rfl, pad_onPad_self]
  exact ⟨rfl, rfl⟩

theorem segOf_setSeg (p : Paddock) (r : RRSeg) : (p.setSeg r).segOf r.seg = r := by
  simp [Paddock.segOf, Paddock.setSeg]

theorem segOf_seg (p : Paddock) (m : Nat) : (p.segOf m).seg = m := by
  unfold Paddock.segOf
  split
  · next h => simpa using List.find?_some h
  · rfl

theorem replayDiverge_spec {s : State} {n m : Nat} (hn : n < 7) (hmode : (s.pad n).rrMode = 2) (hfree : ((s.pad n).segOf m).free = false) :
    ∃ u : State, exec (.replayDiverge n m) s = .next u.settle ∧ (u.pad n).rrDiverged = true ∧ ((u.pad n).segOf m).free = true := by
  have hgo : (decide (n < 7) && (s.pad n).rrMode == 2 && !((s.pad n).segOf m).free) = true := by simp [hn, hmode, hfree]
  refine ⟨s.onPad n fun p => { p.setSeg { p.segOf m with free := true } with rrDiverged := true }, ?_, ?_, ?_⟩
  · show execReplayDiverge n m s = _
    rw [execReplayDiverge, if_pos hgo]
  · rw [pad_onPad_self]
  · rw [pad_onPad_self]
    have hseg := segOf_setSeg (s.pad n) { (s.pad n).segOf m with free := true }
    have hnum : ((s.pad n).segOf m).seg = m := segOf_seg ..
    rw [show ({ (s.pad n).segOf m with free := true } : RRSeg).seg = m from hnum] at hseg
    exact congrArg RRSeg.free hseg

/-- An interface with an empty loft only refills its slots. -/
theorem niSettle_noLoft {s : State} {k : Nat} (h : (s.core k).loft = []) : s.niSettle k = s.setCore (s.core k).refill := by
  obtain ⟨_, _, _, hr⟩ := (s.core k).refill_eq
  unfold State.niSettle
  dsimp only
  split
  · rfl
  · refine loftMoves_none ?_ _
    rw [State.core_setCore, hr]
    split
    · exact h
    · exact h

theorem reclaim_empty {c : Core} (h : c.loft = []) : ∃ armed, c.reclaim = { c with loftArmed := armed } := by
  unfold Core.reclaim
  simp only [h, List.dropWhile_nil]
  split
  · exact ⟨true, by rw [← h]⟩
  · exact ⟨c.loftArmed, by rw [← h]⟩

/-- LOFTCTL with an empty loft: the new size stands at once (R282). -/
theorem loftctlWrite_empty {s : State} {k : Nat} {v : Word} (hlo : 2 ≤ v.toNat % 256) (hhi : v.toNat % 256 ≤ 192) (hloft : (s.core k).loft = []) :
    ∃ t : State, exec (.loftctlWrite k v) s = .next t ∧ (t.core k).loftSize = v.toNat % 256 ∧ (t.core k).loft = [] ∧ t.mem = s.mem := by
  have hheld : heldRecords (s.core k) = [] := heldRecords_none hloft
  have hgo : (decide (2 ≤ v.toNat % 256) && decide (v.toNat % 256 ≤ 192) &&
      decide ((heldRecords (s.core k)).foldl (fun n r => n + r.len) 0 + 1024 ≤ v.toNat % 256 * 1024)) = true := by
    rw [hheld]
    simp only [List.foldl_nil, Bool.and_eq_true, decide_eq_true_eq]
    refine ⟨⟨hlo, hhi⟩, ?_⟩
    exact decide_eq_true (by omega)
  have hset : s.loftctlSet k v.toNat = ((s.setCore { s.core k with loftSize := v.toNat % 256, loft := [], loftTail := 0 }).onCore k (·.reclaim)).niSettle k := by
    unfold State.loftctlSet
    dsimp only
    rw [if_pos hgo, hheld]
    rfl
  have hcore : (s.setCore { s.core k with loftSize := v.toNat % 256, loft := [], loftTail := 0 }).core k =
      { s.core k with loftSize := v.toNat % 256, loft := [], loftTail := 0 } := by
    rw [State.core_setCore, if_pos (State.core_id s k).symm]
  obtain ⟨armed, hreclaim⟩ := reclaim_empty (c := { s.core k with loftSize := v.toNat % 256, loft := [], loftTail := 0 }) rfl
  have hcore' : ((s.setCore { s.core k with loftSize := v.toNat % 256, loft := [], loftTail := 0 }).onCore k (·.reclaim)).core k =
      { s.core k with loftSize := v.toNat % 256, loft := [], loftTail := 0, loftArmed := armed } := by
    rw [State.core_onCore_self _ _ _ (by rw [hcore, hreclaim]; exact State.core_id s k), hcore, hreclaim]
  obtain ⟨_, _, _, hr⟩ := Core.refill_eq { s.core k with loftSize := v.toNat % 256, loft := [], loftTail := 0, loftArmed := armed }
  have hsettle := niSettle_noLoft (s := (s.setCore { s.core k with loftSize := v.toNat % 256, loft := [], loftTail := 0 }).onCore k (·.reclaim)) (k := k)
    (by rw [hcore'])
  have hend : ((s.loftctlSet k v.toNat).core k).loftSize = v.toNat % 256 ∧ ((s.loftctlSet k v.toNat).core k).loft = [] := by
    rw [hset, hsettle, hcore', hr, State.core_setCore, if_pos (State.core_id s k).symm]
    exact ⟨rfl, rfl⟩
  refine ⟨_, rfl, hend.1, hend.2, ?_⟩
  rw [hset, hsettle]
  simp

theorem loftctlWrite_range {s : State} {k : Nat} {v : Word} (h : v.toNat % 256 < 2 ∨ 192 < v.toNat % 256) : exec (.loftctlWrite k v) s = .next s := by
  show (.next (s.loftctlSet k v.toNat) : Result) = _
  unfold State.loftctlSet
  dsimp only
  rw [if_neg]
  simp only [Bool.and_eq_true, decide_eq_true_eq]
  omega

/-- HALTREQ (R411). -/
theorem haltreq_spec {s : State} {k : Nat} (h : (s.core k).run ≠ .debugHalted) :
    ∃ t : State, exec (.haltreq k) s = .next t ∧ (t.core k).dbg.haltreq = true ∧ t.mem = s.mem := by
  have hrun : ((s.core k).run == .debugHalted) = false := beq_eq_false_iff_ne.mpr h
  refine ⟨s.onCore k fun c => { c with dbg := { c.dbg with haltreq := true } }, ?_, ?_, State.onCore_mem ..⟩
  · show execHaltreq k s = _
    rw [execHaltreq, hrun, if_neg Bool.false_ne_true]
  · rw [State.core_onCore_self _ _ _ (State.core_id s k)]

/-! ### Debug halts (R411) -/

/-- `onCore` of the core that moves, at whatever name its number stands under. -/
theorem onCore_at {s : State} {k : Nat} {f : Core → Core} (hk : s.me.id = k) (hf : (f s.me).id = s.me.id) : s.onCore k f = s.onMe f := by
  subst hk
  exact onCore_me s f hf

theorem switchTo_self (s : State) : s.switchTo s.me.id = s := by
  rw [State.switchTo, if_pos (beq_self_eq_true _)]

/-- A request of the machine in flight: no core and no byte is changed before it is served. -/
theorem request_lazy {s : State} (h : s.lazy = true) (r : MReq) : s.request r = s.post (.req r) := State.settle_lazy h

theorem engineWriteAs_lazy (agent : Nat) {s : State} (h : s.lazy = true) (pa n v : Nat) :
    ∃ net stamp, s.engineWriteAs agent pa n v = { s with net := net, stamp := stamp } := by
  have hfold (ps : List (Nat × Nat × Nat)) : ∀ u : State, u.lazy = true → ∃ net stamp, ps.foldl (fun (s : State) p => s.request
      { core := agent, line := p.1 / 128, req := .write p.1 p.2.1 (v / 2 ^ (8 * p.2.2) % 2 ^ (8 * p.2.1)) false false }) u = { u with net := net, stamp := stamp } := by
    induction ps with
    | nil => exact fun u _ => ⟨u.net, u.stamp, rfl⟩
    | cons p ps ih =>
      intro u hu
      rw [List.foldl_cons, request_lazy hu]
      obtain ⟨net, stamp, h⟩ := ih (u.post (.req { core := agent, line := p.1 / 128, req := .write p.1 p.2.1 (v / 2 ^ (8 * p.2.2) % 2 ^ (8 * p.2.1)) false false })) hu
      exact ⟨net, stamp, h⟩
  exact hfold (linePieces pa n) s h

theorem squashOf_me (s : State) : ∃ net ctl xreqs ats, s.squashOf s.me.id = { s with me := s.me.squash, net := net, ctl := ctl, xreqs := xreqs, ats := ats } := by
  have hme : (s.dropAsked s.me.id).me = s.me := rfl
  refine ⟨(s.dropAsked s.me.id).net, (s.dropAsked s.me.id).ctl, (s.dropAsked s.me.id).xreqs, (s.dropAsked s.me.id).ats, ?_⟩
  rw [State.squashOf]
  exact (onCore_me (s.dropAsked s.me.id) (·.squash) rfl).trans rfl

/-- A halted core: its image is where DSAVE says, and its registers stand (R411). -/
def haltedCore (c : Core) (cause index : Nat) : Core :=
  { c with
    run := .debugHalted
    res := .trapped
    dbg := { c.dbg with
      cause := cause
      index := index
      dpc := c.pc
      haltreq := false
      stepping := false
      held := some { mbox := c.mbox, arrivals := c.arrivals, taskQueue := c.taskQueue } } }

/-- What a halt leaves of the moving core once its image is on its way: the trace moved on, and the core halted. -/
theorem debugHalt_tail (u : State) (cause index : Nat) : ∃ trc, (((((u.emitRetire u.me.id).emit u.me.id [0x68, BitVec.ofNat 8 cause]).squashOf u.me.id).onCore u.me.id
    fun c => haltedCore c cause index).me = haltedCore ({ u.me with trc := trc } : Core).squash cause index) ∧
    ((((u.emitRetire u.me.id).emit u.me.id [0x68, BitVec.ofNat 8 cause]).squashOf u.me.id).onCore u.me.id fun c => haltedCore c cause index).mem = u.mem := by
  obtain ⟨trc, tick, he⟩ := emitRetire_emit_me u [0x68, BitVec.ofNat 8 cause]
  have hid : u.me.id = ({ u with me := { u.me with trc := trc }, tick := tick } : State).me.id := rfl
  obtain ⟨net, ctl, xreqs, ats, hq⟩ := squashOf_me { u with me := { u.me with trc := trc }, tick := tick }
  refine ⟨trc, ?_⟩
  rw [he, hid, hq]
  rw [onCore_at]
  · exact ⟨rfl, rfl⟩
  · rfl
  · rfl

theorem debugHalt_eq {s : State} {pa : Nat} (h : haltImage s s.me.id = some pa) (cause index : Nat) :
    s.debugHalt s.me.id cause index = (((((s.poisonNext 1026 (poisonedWords s.me.poison fun off => some (pa + off))).engineWriteAs 1026 pa 0x40000
      (contextImage s.me s.me.pc s.me.level)).emitRetire s.me.id).emit s.me.id [0x68, BitVec.ofNat 8 cause]).squashOf s.me.id).onCore s.me.id
        fun c => haltedCore c cause index := by
  unfold State.debugHalt
  rw [h]
  dsimp only
  rw [State.core_me]
  rfl

theorem debugHalt_lazy {s : State} {pa : Nat} (hl : s.lazy = true) (h : haltImage s s.me.id = some pa) (cause index : Nat) :
    ∃ trc, (s.debugHalt s.me.id cause index).me = haltedCore ({ s.me with trc := trc } : Core).squash cause index ∧
      (s.debugHalt s.me.id cause index).mem = s.mem := by
  have hlazy : (s.poisonNext 1026 (poisonedWords s.me.poison fun off => some (pa + off))).lazy = true := hl
  obtain ⟨net, stamp, hw⟩ := engineWriteAs_lazy 1026 hlazy pa 0x40000 (contextImage s.me s.me.pc s.me.level)
  rw [debugHalt_eq h, hw]
  exact debugHalt_tail { s.poisonNext 1026 (poisonedWords s.me.poison fun off => some (pa + off)) with net := net, stamp := stamp } cause index

theorem debugHalt_spec {s : State} {pa : Nat} (hrun : s.me.run = .running) (hdue : dueAsync s.me = none) (hcom : s.me.committed = false)
    (hstop : stopHere s = none) (hreq : s.me.dbg.haltreq = true) (hi : haltImage s s.me.id = some pa) (hl : s.lazy = true) :
    ∃ t : State, exec (.debugHalt s.me.id) s = .next t ∧ t.me.run = .debugHalted ∧ t.me.dbg.cause = 1 ∧
      t.me.dbg.dpc = s.me.pc ∧ t.me.dbg.haltreq = false ∧ t.me.pc = s.me.pc ∧ t.mem = s.mem := by
  obtain ⟨trc, hme, hmem⟩ := debugHalt_lazy hl hi 1 0
  have hbound : boundary s = some (s.debugHalt s.me.id 1 0) := by
    simp only [boundary, hdue, hcom, hstop, hreq, hi, Option.isSome_some, Bool.and_self, if_true, Bool.false_eq_true, if_false]
  have hid : (s.debugHalt s.me.id 1 0).me.id = s.me.id := by rw [hme]; rfl
  have hturn : s.onTurnOf s.me.id (fun s => match boundary s with
      | some t => if t.me.run == .debugHalted then some t else none
      | none => none) = some (s.debugHalt s.me.id 1 0) := by
    have hhalted : ((s.debugHalt s.me.id 1 0).me.run == .debugHalted) = true := by rw [hme]; rfl
    rw [State.onTurnOf, State.core_me, hrun, if_pos (beq_self_eq_true _), switchTo_self, hbound]
    dsimp only
    rw [hhalted, if_pos rfl, Option.map_some]
    have hself := switchTo_self (s.debugHalt s.me.id 1 0)
    rw [hid] at hself
    rw [hself]
  refine ⟨s.debugHalt s.me.id 1 0, ?_, ?_⟩
  · exact congrArg (served s) hturn
  · rw [hme, hmem]
    exact ⟨rfl, rfl, rfl, rfl, rfl, rfl⟩

/-! ### Resuming from a debug halt (R411) -/

/-- What the interface puts back over a loaded core: its slots and its queues. -/
theorem Core.haltNi_eq (c d : Core) (img : Nat) : ∃ mbox arrivals queue, c.haltNi d img = { d with
    mbox := mbox
    arrivals := arrivals
    taskQueue := queue } := by
  unfold Core.haltNi
  split
  · exact ⟨_, _, _, rfl⟩
  · exact ⟨_, _, _, rfl⟩

/-- A register of a loaded image. -/
theorem Core.reg_loadImage (c : Core) (img : Nat) (r : GReg) :
    (c.loadImage img).reg r = held r (BitVec.ofNat 64 (imgWord img (0x80 + 8 * r.val))) := by
  unfold Core.reg held
  split
  · next h => rw [if_pos (beq_iff_eq.mp h)]
  · next h =>
    have hr : r ≠ 0 := fun e => h (beq_iff_eq.mpr e)
    rw [if_neg hr]
    refine (Vector.getElem_ofFn ..).trans ?_
    rw [if_neg]
    intro h0
    exact hr (Fin.ext (by simpa using h0))

theorem reg_of_g {c d : Core} (h : c.g = d.g) (r : GReg) : c.reg r = d.reg r := by rw [Core.reg, Core.reg, h]

theorem OnlyTrace.fields {c d : Core} (h : OnlyTrace c d) : d.run = c.run ∧ d.pc = c.pc ∧ d.g = c.g ∧ d.dbg = c.dbg ∧ d.id = c.id := by
  rw [show d = { c with trc := d.trc } from h]
  exact ⟨rfl, rfl, rfl, rfl, rfl⟩

theorem emit_core (s : State) (k : Nat) (bs : List Byte) : OnlyTrace (s.core k) ((s.emit k bs).core k) ∧ (s.emit k bs).mem = s.mem := by
  obtain ⟨d, n, hd, h | h⟩ := s.emit_spec k bs
  · rw [h]
    exact ⟨rfl, rfl⟩
  · obtain ⟨_, _, _, _, hid⟩ := hd.fields
    have hcore : (s.emit k bs).core k = d := by
      rw [h]
      show (s.setCore d).core k = d
      rw [State.core_setCore, if_pos (by rw [hid, State.core_id])]
    rw [hcore]
    refine ⟨hd, ?_⟩
    rw [h]
    exact State.setCore_mem ..

theorem coverFillsOf_core (s : State) (k j : Nat) (hit : Nat → Bool) : (s.coverFillsOf k hit).core j = s.core j := rfl

theorem Core.loadImage_id (c : Core) (img : Nat) : (c.loadImage img).id = c.id := by
  unfold Core.loadImage
  dsimp only

/-- A halt image that passes its checks, loaded. -/
theorem haltLoaded_ok {s : State} {k pa : Nat} (hi : haltImage s k = some pa)
    (hok : contextOk (s.present k .q4blk) (s.mem.readN pa 0x40000) (s.core k).level = true) :
    ∃ d, haltLoaded s k = some d ∧ d.id = k ∧ d.pc = BitVec.ofNat 64 (imgWord (s.mem.readN pa 0x40000) 0x180) ∧
      d.g = ((s.core k).loadImage (s.mem.readN pa 0x40000)).g := by
  unfold haltLoaded
  rw [hi]
  dsimp only
  generalize s.mem.readN pa 0x40000 = img at hok ⊢
  rw [hok, Bool.not_true, if_neg Bool.false_ne_true]
  have hni := (s.core k).haltNi_eq ((s.core k).loadImage img) img
  generalize (s.core k).haltNi ((s.core k).loadImage img) img = e at hni ⊢
  obtain ⟨mbox, arrivals, queue, rfl⟩ := hni
  refine ⟨_, rfl, ?_, rfl, rfl⟩
  dsimp only
  rw [Core.loadImage_id, State.core_id]

theorem debugContinue_refused {s : State} {k pa : Nat} {step : Bool} (hrun : (s.core k).run = .debugHalted) (hi : haltImage s k = some pa)
    (hopen : imageOpen s k = false) (hbad : contextOk (s.present k .q4blk) (s.mem.readN pa 0x40000) (s.core k).level = false) :
    ((s.debugContinue k step).core k).run = .debugHalted ∧ ((s.debugContinue k step).core k).dbg.err = true ∧
      (s.debugContinue k step).mem = s.mem := by
  have hload : haltLoaded s k = none := by
    unfold haltLoaded
    rw [hi]
    dsimp only
    rw [hbad]
    rfl
  have hat : haltedAt s k = true := by rw [haltedAt, hrun, hopen]; rfl
  unfold State.debugContinue
  dsimp only
  rw [hat, hload, Bool.not_true, if_neg Bool.false_ne_true, State.core_onCore_self _ _ _ (State.core_id s k)]
  exact ⟨hrun, rfl, State.onCore_mem ..⟩

theorem debugContinue_resumed {s : State} {k pa : Nat} {step : Bool} (hrun : (s.core k).run = .debugHalted) (hi : haltImage s k = some pa)
    (hopen : imageOpen s k = false) (hok : contextOk (s.present k .q4blk) (s.mem.readN pa 0x40000) (s.core k).level = true) :
    ((s.debugContinue k step).core k).run = .running ∧
      ((s.debugContinue k step).core k).pc = BitVec.ofNat 64 (imgWord (s.mem.readN pa 0x40000) 0x180) ∧
      (∀ r : GReg, ((s.debugContinue k step).core k).reg r = held r (BitVec.ofNat 64 (imgWord (s.mem.readN pa 0x40000) (0x80 + 8 * r.val)))) ∧
      ((s.debugContinue k step).core k).dbg.stepping = step ∧ ((s.debugContinue k step).core k).dbg.err = false ∧
      (s.debugContinue k step).mem = s.mem := by
  have hat : haltedAt s k = true := by rw [haltedAt, hrun, hopen]; rfl
  obtain ⟨d, hload, hid, hpc, hg⟩ := haltLoaded_ok hi hok
  have hcont : ∃ c : Core, s.debugContinue k step = ((s.setCore c).tock.coverFillsOf k fun _ => true).emitAddr k 4 c.pc ∧ c.id = k ∧
      c.run = .running ∧ c.pc = d.pc ∧ c.g = d.g ∧ c.dbg.stepping = step ∧ c.dbg.err = false := by
    unfold State.debugContinue
    dsimp only
    rw [hat, hload, Bool.not_true, if_neg Bool.false_ne_true]
    exact ⟨_, rfl, hid, rfl, rfl, rfl, rfl, rfl⟩
  obtain ⟨c, he, hid', hrun', hpc', hg', hstep, herr⟩ := hcont
  have hcore : ((s.setCore c).tock.coverFillsOf k fun _ => true).core k = c := by
    rw [coverFillsOf_core]
    show (s.setCore c).core k = c
    rw [State.core_setCore, if_pos hid'.symm]
  have hmem : ((s.setCore c).tock.coverFillsOf k fun _ => true).mem = s.mem := State.setCore_mem ..
  obtain ⟨htr, hmem'⟩ := emit_core ((s.setCore c).tock.coverFillsOf k fun _ => true) k (BitVec.ofNat 8 (0x10 + 4) :: bytesOf (c.pc.toNat % 2 ^ 48) 6)
  rw [hcore] at htr
  obtain ⟨h1, h2, h3, h4, _⟩ := htr.fields
  rw [he]
  unfold State.emitAddr
  rw [h1, h2, h4, hmem', hmem]
  refine ⟨hrun', hpc'.trans hpc, fun r => ?_, hstep, herr, rfl⟩
  rw [reg_of_g (h3.trans (hg'.trans hg)) r, Core.reg_loadImage]

theorem debugContinue_exec (s : State) (k : Nat) (step : Bool) :
    exec (if step then .debugStep k else .debugResume k) s = .next (s.debugContinue k step) := by
  cases step
  · rfl
  · rfl

/-! ### Trace sinks (R413) -/

theorem sinkFault_spec (s : State) (k pa : Nat) : ((s.sinkFault k pa).core k).trc.buf = [] ∧ ((s.sinkFault k pa).core k).trc.ctl.getLsbD 0 = false ∧
    (s.sinkFault k pa).mem = s.mem := by
  have hcore : (s.onCore k fun c => { c with trc := { c.trc with ctl := c.trc.ctl &&& ~~~1, buf := [], sent := 0 } }).core k =
      { s.core k with trc := { (s.core k).trc with ctl := (s.core k).trc.ctl &&& ~~~1, buf := [], sent := 0 } } :=
    State.core_onCore_self _ _ _ (State.core_id s k)
  have hbit : ((s.core k).trc.ctl &&& ~~~1).getLsbD 0 = false := by simp
  unfold State.sinkFault
  dsimp only
  split
  · obtain ⟨_, _, _, h⟩ := State.logError_eq (s.onCore k fun c => { c with trc := { c.trc with ctl := c.trc.ctl &&& ~~~1, buf := [], sent := 0 } })
      ((s.onCore k fun c => { c with trc := { c.trc with ctl := c.trc.ctl &&& ~~~1, buf := [], sent := 0 } }).core k).paddock 9 k 0 pa
    rw [h]
    refine ⟨?_, ?_, State.onCore_mem ..⟩
    · exact congrArg (fun c : Core => c.trc.buf) hcore
    · exact (congrArg (fun c : Core => c.trc.ctl.getLsbD 0) hcore).trans hbit
  · rw [hcore]
    exact ⟨rfl, hbit, State.onCore_mem ..⟩

theorem traceSinkWrite_faulted {s : State} {k : Nat} (hbuf : (s.core k).trc.buf ≠ []) (hsent : (s.core k).trc.sent = 0) :
    ∃ t : State, exec (.traceSinkWrite k true) s = .next t ∧ (t.core k).trc.buf = [] ∧ (t.core k).trc.ctl.getLsbD 0 = false ∧ t.mem = s.mem := by
  have hgo : ((s.core k).trc.buf.isEmpty || (s.core k).trc.sent != 0) = false := by simp [hbuf, hsent]
  refine ⟨_, ?_, sinkFault_spec s k ((s.core k).trc.base.toNat + (s.core k).trc.head)⟩
  show served s (s.sinkWrite k true) = _
  unfold State.sinkWrite
  dsimp only
  rw [hgo, if_neg Bool.false_ne_true, Bool.true_or, if_pos rfl]
  rfl

theorem traceSinkWrite_sends {s : State} {k : Nat} (hbuf : (s.core k).trc.buf ≠ []) (hsent : (s.core k).trc.sent = 0)
    (hok : sinkOk s (s.core k) ((s.core k).trc.base.toNat + (s.core k).trc.head) = true) (hroom : sinkRoom (s.core k) ≠ 0) (hl : s.lazy = true) :
    ∃ t : State, exec (.traceSinkWrite k false) s = .next t ∧ t.mem = s.mem ∧ (t.core k).trc = { (s.core k).trc with sent := sinkRoom (s.core k) } ∧
      t.pkts = s.pkts ++ [.req { core := traceAgent k, line := ((s.core k).trc.base.toNat + (s.core k).trc.head) / 128,
                                 req := .write ((s.core k).trc.base.toNat + (s.core k).trc.head) (sinkRoom (s.core k))
                                   (packBits 8 (((s.core k).trc.buf.take (sinkRoom (s.core k))).map (·.toNat))) false false }] := by
  have hgo : ((s.core k).trc.buf.isEmpty || (s.core k).trc.sent != 0) = false := by simp [hbuf, hsent]
  have hroom' : (sinkRoom (s.core k) == 0) = false := beq_eq_false_iff_ne.mpr hroom
  have hlazy (n : Nat) : (s.onCore k fun c => { c with trc := { c.trc with sent := n } }).lazy = true := by simpa using hl
  have hexec : exec (.traceSinkWrite k false) s = served s (s.sinkWrite k false) := rfl
  unfold State.sinkWrite at hexec
  dsimp only at hexec
  rw [hgo, hok, hroom', if_neg Bool.false_ne_true, Bool.not_true, Bool.or_false, if_neg Bool.false_ne_true, if_neg Bool.false_ne_true,
    request_lazy (hlazy _)] at hexec
  refine ⟨_, hexec, ?_, ?_, ?_⟩
  · exact State.onCore_mem ..
  · rw [State.core_post, State.core_onCore_self _ _ _ (State.core_id s k)]
  · rw [State.post_pkts]
    simp [State.pkts]

theorem raw_fits {c : Core} {bs : List Byte} (h : c.trc.buf.length + bs.length ≤ 256) : c.raw bs = { c with trc := { c.trc with buf := c.trc.buf ++ bs } } := by
  rw [Core.raw, if_pos h]

/-- A packet with its time, where both fit. -/
theorem timed_fits {c : Core} {tick : Nat} {time bs : List Byte} (hd : c.trc.dropped = 0)
    (htime : time = if c.trcBit 2 then 0x30 :: bytesOf (Config.duration tick).toNat 4 else [])
    (h : c.trc.buf.length + time.length + bs.length ≤ 256) :
    (c.timed tick bs).trc.dropped = 0 ∧ (c.timed tick bs).trc.buf = c.trc.buf ++ time ++ bs := by
  subst htime
  unfold Core.timed
  split
  · next ht =>
    rw [if_pos ht] at h
    rw [raw_fits (c := c) (by omega), raw_fits]
    · exact ⟨hd, rfl⟩
    · show (c.trc.buf ++ _).length + _ ≤ 256
      rw [List.length_append]
      exact h
  · next ht =>
    rw [if_neg ht] at h
    rw [raw_fits (by simpa using h), List.append_nil]
    exact ⟨hd, rfl⟩

theorem bytesOf_length (v n : Nat) : (bytesOf v n).length = n := by
  induction n generalizing v with
  | zero => rfl
  | succ n ih => rw [bytesOf, List.length_cons, ih]

theorem traceOverflow_spec {s : State} {k : Nat} (hd : (s.core k).trc.dropped ≠ 0) {time : List Byte}
    (htime : time = if (s.core k).trcBit 2 then 0x30 :: bytesOf (Config.duration s.tick).toNat 4 else [])
    (hroom : (s.core k).trc.buf.length + time.length ≤ 253) :
    ∃ t : State, exec (.traceOverflow k) s = .next t ∧ (t.core k).trc.dropped = 0 ∧
      (t.core k).trc.buf = (s.core k).trc.buf ++ time ++ 0x70 :: bytesOf (min (s.core k).trc.dropped 0xFFFF) 2 := by
  have hput : ((s.core k).putOverflow s.tick).trc.dropped = 0 ∧ ((s.core k).putOverflow s.tick).trc.buf =
      (s.core k).trc.buf ++ time ++ 0x70 :: bytesOf (min (s.core k).trc.dropped 0xFFFF) 2 := by
    have hlen : (0x70 :: bytesOf (min (s.core k).trc.dropped 0xFFFF) 2).length = 3 := rfl
    have hgo : ((s.core k).trc.dropped == 0 || decide (256 < (s.core k).trc.buf.length + (if (s.core k).trcBit 2 then 8 else 3))) = false := by
      rw [beq_eq_false_iff_ne.mpr hd, Bool.false_or, decide_eq_false_iff_not]
      split
      · next h =>
        rw [htime, if_pos h, List.length_cons, bytesOf_length] at hroom
        omega
      · omega
    unfold Core.putOverflow
    rw [hgo, if_neg Bool.false_ne_true]
    generalize 0x70 :: bytesOf (min (s.core k).trc.dropped 0xFFFF) 2 = mark at hlen ⊢
    exact timed_fits (c := { s.core k with trc := { (s.core k).trc with dropped := 0 } }) rfl htime (by rw [hlen]; exact Nat.add_le_add_right hroom 3)
  have hid : ((s.core k).putOverflow s.tick).id = k := by
    rw [show (s.core k).putOverflow s.tick = _ from (s.core k).putOverflow_only s.tick]
    exact State.core_id s k
  refine ⟨_, rfl, ?_⟩
  have hcore : (s.onCore k (·.putOverflow s.tick)).tock.core k = (s.core k).putOverflow s.tick := State.core_onCore_self _ _ _ hid
  rw [hcore]
  exact hput

/-! ### Writes of device registers (R368, R374, R411) -/

theorem registerWrite_vf {s : State} {n : Nat} {v : Word} (hlive : barLive s n = true) (hlo : 16 ≤ v.toNat % 32) (hhi : v.toNat % 32 ≤ 30) :
    ∃ t : State, exec (.registerWrite (.vf (n + 1)) 0x030 v) s = .next t ∧ (t.pad n).lkto = v.toNat % 32 ∧ t.mem = s.mem := by
  have hgo : (n + 1 != 0 && barLive s (n + 1 - 1) && (0x030 : Nat) % 8 == 0 && decide ((0x030 : Nat) < 0x4000)) = true := by simp [hlive]
  refine ⟨s.onPad n fun p => if 16 ≤ v.toNat % 32 && v.toNat % 32 ≤ 30 then { p with lkto := v.toNat % 32 } else p, ?_, ?_, rfl⟩
  · show execRegisterWrite (.vf (n + 1)) 0x030 v s = _
    unfold execRegisterWrite
    dsimp only
    rw [if_pos hgo]
    rfl
  · rw [pad_onPad_self, if_pos (by simp [hlo, hhi])]

theorem registerWrite_pf (s : State) (v : Word) : ∃ t : State, exec (.registerWrite .pf 0x018 v) s = .next t ∧ t.cap = v.getLsbD 0 := by
  refine ⟨{ s with cap := v.toNat % 2 == 1 }, rfl, ?_⟩
  rw [← bitAt_word]
  simp [bitAt]

/-- The control block of a cell at its address. -/
theorem placeOf_control {s : State} {cell off : Nat} (hcell : cell < 192) (hcard : s.link.card ≤ 1) (hlo : 0xF0000 ≤ off) (hhi : off < 0x100000) :
    s.placeOf (s.cellPa cell off) = .ok (.control cell off) := by
  have hpa : s.cellPa cell off = s.link.card * 2 ^ 47 + 2 ^ 45 + cell * 2 ^ 20 + off := rfl
  have h1 : s.cellPa cell off / 2 ^ 45 % 4 = 1 := by rw [hpa]; omega
  have h2 : s.cellPa cell off % 2 ^ 45 / 2 ^ 20 = cell := by rw [hpa]; omega
  have h3 : s.cellPa cell off % 2 ^ 45 % 2 ^ 20 = off := by rw [hpa]; omega
  have h4 : (s.cellPa cell off / 2 ^ 47 % 2 == s.link.card) = true := by rw [hpa, beq_iff_eq]; omega
  have hscratch : ¬off < 0x60000 := by omega
  unfold State.placeOf
  simp only [h1, h2, h3, h4, if_neg (Nat.not_le.mpr hcell), if_neg hscratch, if_pos hlo, if_true]

theorem regWrite_tag (s : State) {off : Nat} (hoff : off = 0xF0400) (cell v : Nat) (machine : Bool) : regWrite s cell off v machine =
    if machine then s.onCore (s.coreNo cell) fun c => { c with tag := v / 2 ^ 5 % 8, bport := v % 16 } else s := by
  unfold regWrite
  dsimp only
  rw [if_pos (beq_iff_eq.mpr hoff)]

theorem registerWrite_control {s : State} {cell off : Nat} (v : Word) (hoff : off = 0xF0400) (hcell : cell < 192) (hcard : s.link.card ≤ 1)
    (hup : s.dies[Fin.ofNat 2 (dieOf cell)] = .up) :
    (∃ t : State, exec (.registerWrite .firmware (s.cellPa cell off) v) s = .next t ∧
      (t.core (s.coreNo cell)).tag = v.toNat / 2 ^ 5 % 8 ∧ (t.core (s.coreNo cell)).bport = v.toNat % 16) ∧
    ∀ j, exec (.registerWrite (.supervisor j) (s.cellPa cell off) v) s = .next s := by
  have hplace := placeOf_control (s := s) (off := off) hcell hcard (by omega) (by omega)
  have halign : (s.cellPa cell off % 8 == 0) = true := by
    rw [beq_iff_eq, State.cellPa]
    omega
  have hdie : absentDie s (.control cell off) (s.cellPa cell off / 128) = false := by
    rw [absentDie, hup]
    rfl
  refine ⟨⟨s.onCore (s.coreNo cell) fun c => { c with tag := v.toNat / 2 ^ 5 % 8, bport := v.toNat % 16 }, ?_, ?_⟩, fun j => ?_⟩
  · show execRegisterWrite .firmware _ v s = _
    unfold execRegisterWrite
    rw [hplace]
    dsimp only
    rw [halign, hdie, Bool.not_false, Bool.and_self, if_pos rfl, regWrite_tag s hoff, if_pos rfl]
  · rw [State.core_onCore_self _ _ _ (State.core_id ..)]
    exact ⟨rfl, rfl⟩
  · show execRegisterWrite (.supervisor j) _ v s = _
    unfold execRegisterWrite
    rw [hplace]
    dsimp only
    rw [regWrite_tag s hoff, if_neg Bool.false_ne_true, ite_self]

/-! ### Storage errors (R392, R393) -/

theorem poisonWord_spec (s : State) (cell word : Nat) : word ∈ (s.poisonWord cell word).badWords ∧ (s.poisonWord cell word).mem = s.mem := by
  unfold State.poisonWord
  obtain ⟨_, _, _, h⟩ := State.logAt_eq { s with badWords := if s.badWords.contains word then s.badWords else word :: s.badWords } cell 1 (s.coreNo cell) 0 (word * 8)
  rw [h]
  refine ⟨?_, rfl⟩
  dsimp only
  split
  · next hc => simpa using hc
  · exact List.mem_cons_self

theorem poisonReg_greg {s : State} {k n : Nat} (h0 : n ≠ 0) (hn : n < 32) : .greg n ∈ ((s.poisonReg k 4 n 0).core k).poison := by
  have hname : poisonName 4 n 0 = some (.greg n) := if_pos (by simp [h0, hn])
  unfold State.poisonReg
  rw [hname]
  dsimp only
  obtain ⟨_, _, _, h⟩ := State.logAt_eq (s.onCore k fun c => { c with poison := if c.poison.contains (.greg n) then c.poison else c.poison ++ [.greg n] })
    (k % 256) 1 k (4 * 2 ^ 12 + n * 2 ^ 6 + 0) 0
  rw [h]
  show .greg n ∈ ((s.onCore k fun c => { c with poison := if c.poison.contains (.greg n) then c.poison else c.poison ++ [.greg n] }).core k).poison
  rw [State.core_onCore_self _ _ _ (State.core_id s k)]
  dsimp only
  split
  · next hc => simpa using hc
  · exact List.mem_append_right _ List.mem_cons_self

/-! ### Lost cores (R394 to R397) -/

theorem coreLost_spec (s : State) (k : Nat) (answers : Bool) : ((s.coreLost k answers).core k).run = .lost ∧ ((s.coreLost k answers).core k).available = false := by
  unfold State.coreLost
  rw [State.logCore_core, State.core_onCore_self _ _ _ (State.core_id ..)]
  exact ⟨rfl, rfl⟩

theorem coreLoss_spec (s : State) {k : Nat} (hk : k < 512) {x : Instr} (hx : x = .coreLoss k ∨ x = .coreLossNiTimeout k) :
    ∃ t : State, exec x s = .next t ∧ (t.core k).run = .lost ∧ (t.core k).available = false := by
  rcases hx with rfl | rfl
  · refine ⟨_, ?_, coreLost_spec s k true⟩
    show execCoreLoss k s = _
    rw [execCoreLoss, if_pos hk]
  · refine ⟨_, ?_, coreLost_spec s k false⟩
    show execCoreLossNiTimeout k s = _
    rw [execCoreLossNiTimeout, if_pos hk]

theorem fenceOff_spec {s : State} {k : Nat} (line : Nat) (h : (s.core k).fencedAt = none) :
    ((s.fenceOff k line).core k).run = .lost ∧ ((s.fenceOff k line).core k).available = false := by
  have h' : (s.core k).fencedAt.isSome = false := by rw [h]; rfl
  unfold State.fenceOff
  rw [h', if_neg Bool.false_ne_true]
  dsimp only
  rw [State.logCore_core, State.core_onCore_self _ _ _ (State.core_id ..)]
  exact ⟨rfl, rfl⟩

/-! A commit keeps every core but its data: what a store changes of one is its code words, and a written line in K takes the new bytes. -/

theorem findCore_mapped (f : Core → Core) (hid : ∀ c, (f c).id = c.id) (hreset : ∀ k, f (resetCore k) = resetCore k) (cs : List Core) (k : Nat) :
    findCore (cs.map f) k = f (findCore cs k) := by
  induction cs with
  | nil => exact (hreset k).symm
  | cons c cs ih =>
    rw [List.map_cons, findCore, findCore, hid, ih]
    split
    · rfl
    · rfl

theorem core_placeBy (s : State) (w : Option Nat) (pa n v k : Nat) : (s.placeBy w pa n v).core k = (s.core k).noteCode s.mem pa n := by
  have hid (c : Core) : (c.noteCode s.mem pa n).id = c.id := by
    obtain ⟨code, h⟩ := c.noteCode_eq s.mem pa n
    rw [h]
  have hfind := findCore_mapped (·.noteCode s.mem pa n) hid (fun k => rfl) s.cores k
  unfold State.core
  show (if (s.me.noteCode s.mem pa n).id == k then s.me.noteCode s.mem pa n else findCore (s.cores.map (·.noteCode s.mem pa n)) k) = _
  rw [hid, hfind]
  split
  · rfl
  · rfl

/-- What a commit and the other steps of a round keep of a core: all but its code words and its cached lines. -/
def SameButLines (c d : Core) : Prop := ∃ code cache, d = { c with code := code, cache := cache }

theorem SameButLines.refl (c : Core) : SameButLines c c := ⟨c.code, c.cache, rfl⟩

theorem SameButLines.trans {c d e : Core} (h : SameButLines c d) (h' : SameButLines d e) : SameButLines c e := by
  obtain ⟨_, _, rfl⟩ := h
  obtain ⟨code, cache, rfl⟩ := h'
  exact ⟨code, cache, rfl⟩

theorem core_placeBy_same (s : State) (w : Option Nat) (pa n v k : Nat) : SameButLines (s.core k) ((s.placeBy w pa n v).core k) := by
  obtain ⟨code, h⟩ := (s.core k).noteCode_eq s.mem pa n
  rw [core_placeBy, h]
  exact ⟨code, (s.core k).cache, rfl⟩

theorem core_mapLine_same (s : State) (j line : Nat) (f : CLine → CLine) (k : Nat) :
    SameButLines (s.core k) ((s.onCore j fun c => c.mapLine line f).core k) := by
  rw [State.core_onCore _ _ _ _ (State.core_id s j)]
  split
  · next h =>
    rw [h]
    exact ⟨_, _, rfl⟩
  · exact .refl _

/-! The steps of a commit, by name (`commitRound_eq`). -/

def commitBytes (s : State) (d : DirLine) (r : Round) : State := if r.n == 0 then s else (s.placeBy r.writer r.pa r.n r.v).noteCommit d.line

def commitHolder (s : State) (d : DirLine) (r : Round) : State :=
  match d.st with
  | .k (some h) _ _ _ _ =>
    s.onCore h.core fun c => c.mapLine d.line fun l => if l.st == PState.k then { l with data := lineSet l.data (r.pa % 128) r.n r.v } else l
  | _ => s

def commitDir (s : State) (d : DirLine) (r : Round) : State := s.onDir d.line fun d =>
  { d with round := none, dirty := d.dirty || r.n != 0, sharers := if r.n == 0 then [] else d.sharers }

def commitNotes (s : State) (d : DirLine) (r : Round) : State := if r.n == 0 then s else s.postAll (d.sharers.map fun k => .commit k d.line)

def commitReply (s : State) (d : DirLine) (r : Round) : State :=
  match r.amo with
  | some (k, old) => s.post (.amoReply k d.line old none)
  | none => s

def commitDone (s : State) (d : DirLine) (r : Round) : State :=
  match r.writer with
  | some w => s.post (.done w d.line)
  | none => s

theorem commitRound_eq (s : State) (d : DirLine) (r : Round) :
    s.commitRound d r = commitDone (commitReply (commitNotes (commitDir (commitHolder (commitBytes s d r) d r) d r) d r) d r) d r := rfl

theorem core_commitBytes (s : State) (d : DirLine) (r : Round) (k : Nat) : SameButLines (s.core k) ((commitBytes s d r).core k) := by
  unfold commitBytes
  split
  · exact .refl _
  · exact core_placeBy_same s r.writer r.pa r.n r.v k

theorem core_commitHolder (s : State) (d : DirLine) (r : Round) (k : Nat) : SameButLines (s.core k) ((commitHolder s d r).core k) := by
  unfold commitHolder
  split
  · exact core_mapLine_same ..
  · exact .refl _

theorem core_commitNotes (s : State) (d : DirLine) (r : Round) (k : Nat) : (commitNotes s d r).core k = s.core k := by
  unfold commitNotes
  split
  · rfl
  · exact State.core_postAll ..

theorem core_commitReply (s : State) (d : DirLine) (r : Round) (k : Nat) : (commitReply s d r).core k = s.core k := by
  unfold commitReply
  split
  · rfl
  · rfl

theorem core_commitDone (s : State) (d : DirLine) (r : Round) (k : Nat) : (commitDone s d r).core k = s.core k := by
  unfold commitDone
  split
  · rfl
  · rfl

theorem core_commitRound_same (s : State) (d : DirLine) (r : Round) (k : Nat) : SameButLines (s.core k) ((s.commitRound d r).core k) := by
  rw [commitRound_eq, core_commitDone, core_commitReply, core_commitNotes, commitDir, State.core_onDir]
  exact (core_commitBytes s d r k).trans (core_commitHolder ..)

theorem ackRound_same (s : State) (j line : Nat) (drop : Bool) (k : Nat) : SameButLines (s.core k) ((s.ackRound j line drop).core k) := by
  have hround (u : State) (hu : u.core k = s.core k) : SameButLines (s.core k) ((match u.dirOf line with
      | some d => match d.round with
        | some r => if r.waiting.isEmpty then u.commitRound d r else u
        | none => u
      | none => u).core k) := by
    rw [← hu]
    split
    · split
      · split
        · exact core_commitRound_same ..
        · exact .refl _
      · exact .refl _
    · exact .refl _
  exact hround _ (State.core_onDir ..)

theorem ackRound_fenced (s : State) (j line : Nat) (drop : Bool) (k : Nat) : ((s.ackRound j line drop).core k).fencedAt = (s.core k).fencedAt := by
  obtain ⟨_, _, h⟩ := ackRound_same s j line drop k
  rw [h]

theorem ackTimeout_spec {s : State} {line k : Nat} {d : DirLine} {r : Round} (hk : k < 512) (hf : (s.core k).fencedAt = none) (hd : s.dirOf line = some d)
    (hr : d.round = some r) (hw : k ∈ r.waiting) :
    ∃ u : State, exec (.ackTimeout line k) s = .next u.settle ∧ (u.core k).run = .lost ∧ (u.core k).available = false := by
  have hw' : r.waiting.contains k = true := by simpa using hw
  have hexec : s.ackTimeout line k = some ((({ s with net := s.net.filter fun f => !fenced k line f.pkt } : State).ackRound k line true).fenceOff k line).settle := by
    unfold State.ackTimeout
    rw [hd]
    dsimp only
    rw [hr]
    dsimp only
    rw [hw', if_pos rfl]
  have hfenced : ((({ s with net := s.net.filter fun f => !fenced k line f.pkt } : State).ackRound k line true).core k).fencedAt = none := by
    rw [ackRound_fenced]
    exact hf
  refine ⟨_, ?_, fenceOff_spec line hfenced⟩
  show (if k < 512 then served s (s.ackTimeout line k) else .next s) = _
  rw [if_pos hk, hexec]
  rfl

/-! ### Mesh links and die-to-die modules (R400 to R403) -/

theorem linkAt_cell (s : State) (cell port : Nat) : (s.linkAt cell port).cell = cell ∧ (s.linkAt cell port).port = port := by
  unfold State.linkAt
  split
  · next h => simpa using List.find?_some h
  · exact ⟨rfl, rfl⟩

theorem linkAt_setLink (s : State) (l : MeshLink) (cell port : Nat) :
    (s.setLink l).linkAt cell port = if l.cell = cell ∧ l.port = port then l else s.linkAt cell port := by
  unfold State.linkAt State.setLink
  dsimp only
  rw [List.find?_append]
  by_cases h : l.cell = cell ∧ l.port = port
  · have hnone : (s.mesh.filter fun m => !(m.cell == l.cell && m.port == l.port)).find? (fun m => m.cell == cell && m.port == port) = none := by
      refine List.find?_eq_none.mpr fun m hm hq => ?_
      obtain ⟨rfl, rfl⟩ := h
      rw [List.mem_filter, hq] at hm
      exact Bool.false_ne_true hm.2
    have hhit : (l.cell == cell && l.port == port) = true := by simpa using h
    rw [if_pos h, hnone, List.find?_singleton, hhit, if_pos rfl]
    rfl
  · have hmiss : (l.cell == cell && l.port == port) = false := by simpa using h
    have hsame : (fun m : MeshLink => decide ((!(m.cell == l.cell && m.port == l.port)) = true ∧ (m.cell == cell && m.port == port) = true)) =
        fun m => m.cell == cell && m.port == port := by
      funext m
      rw [Bool.eq_iff_iff, decide_eq_true_iff]
      refine ⟨And.right, fun hm => ⟨?_, hm⟩⟩
      rw [Bool.not_eq_true', Bool.eq_false_iff]
      intro e
      simp only [Bool.and_eq_true, beq_iff_eq] at hm e
      exact h ⟨e.1.symm.trans hm.1, e.2.symm.trans hm.2⟩
    rw [if_neg h, List.find?_filter, hsame, List.find?_singleton, hmiss, if_neg Bool.false_ne_true, Option.or_none]

/-- Each end of a link, after the same update of its ends. -/
theorem linkAt_onEnds (f : MeshLink → MeshLink) (hf : ∀ l, (f l).cell = l.cell ∧ (f l).port = l.port) (P : MeshLink → Prop) (hP : ∀ l, P (f l))
    (ends : List (Nat × Nat)) : ∀ (s : State) (done : List (Nat × Nat)), (∀ e ∈ done, P (s.linkAt e.1 e.2)) →
      ∀ e ∈ done ++ ends, P ((ends.foldl (fun (s : State) e => s.setLink (f (s.linkAt e.1 e.2))) s).linkAt e.1 e.2) := by
  induction ends with
  | nil => exact fun s done h e he => h e (by simpa using he)
  | cons x xs ih =>
    intro s done h e he
    refine ih (s.setLink (f (s.linkAt x.1 x.2))) (done ++ [x]) (fun y hy => ?_) e (by simpa using he)
    rw [linkAt_setLink]
    split
    · exact hP _
    · next hne =>
      rcases List.mem_append.mp hy with hy | hy
      · exact h y hy
      · refine absurd ?_ hne
        rw [List.mem_singleton.mp hy, (hf _).1, (hf _).2]
        exact linkAt_cell s x.1 x.2

theorem linkAt_onLink (s : State) (cell port : Nat) (f : MeshLink → MeshLink) (hf : ∀ l, (f l).cell = l.cell ∧ (f l).port = l.port)
    (P : MeshLink → Prop) (hP : ∀ l, P (f l)) : ∀ e ∈ linkEnds cell port, P ((s.onLink cell port f).linkAt e.1 e.2) :=
  linkAt_onEnds f hf P hP (linkEnds cell port) s [] fun _ h => absurd h List.not_mem_nil

theorem onLink_mem (s : State) (cell port : Nat) (f : MeshLink → MeshLink) : (s.onLink cell port f).mem = s.mem := by
  unfold State.onLink
  generalize linkEnds cell port = ends
  induction ends generalizing s with
  | nil => rfl
  | cons x xs ih => exact ih _

theorem failLink_spec {s : State} {cell port : Nat} (hport : isPort cell port = true) (hok : (s.linkAt cell port).failed = false) :
    (∀ e ∈ linkEnds cell port, ((s.failLink cell port).linkAt e.1 e.2).failed = true) ∧ (s.failLink cell port).mem = s.mem := by
  have hgo : (isPort cell port && !(s.linkAt cell port).failed) = true := by rw [hport, hok]; rfl
  obtain ⟨_, _, _, h⟩ := (s.onLink cell port fun l => { l with failed := true }).logAt_eq cell 6 (s.coreNo cell) port 0
  unfold State.failLink
  rw [if_pos hgo, h]
  exact ⟨linkAt_onLink s cell port (fun l => { l with failed := true }) (fun _ => ⟨rfl, rfl⟩) (·.failed = true) (fun _ => rfl), onLink_mem ..⟩

theorem beatReplay_counts {s : State} {cell port : Nat} (hport : isPort cell port = true) (hok : (s.linkAt cell port).failed = false)
    (hfew : (s.linkAt cell port).replays < 8) : ∃ t : State, exec (.beatReplay cell port) s = .next t ∧
      (t.linkAt cell port).replays = (s.linkAt cell port).replays + 1 ∧ t.mem = s.mem := by
  have hgo : (isPort cell port && !(s.linkAt cell port).failed) = true := by rw [hport, hok]; rfl
  refine ⟨s.setLink { s.linkAt cell port with replays := (s.linkAt cell port).replays + 1 }, ?_, ?_, rfl⟩
  · show execBeatReplay cell port s = _
    unfold execBeatReplay
    dsimp only
    rw [if_pos hgo, if_neg (by omega)]
  · rw [linkAt_setLink, if_pos (linkAt_cell s cell port)]

theorem meshLink_fails {s : State} {cell port : Nat} (hport : isPort cell port = true) (hok : (s.linkAt cell port).failed = false) {x : Instr}
    (hx : x = .meshLinkFailure cell port ∨ (x = .beatReplay cell port ∧ 8 ≤ (s.linkAt cell port).replays)) :
    ∃ t : State, exec x s = .next t ∧ (∀ e ∈ linkEnds cell port, (t.linkAt e.1 e.2).failed = true) ∧ t.mem = s.mem := by
  have hgo : (isPort cell port && !(s.linkAt cell port).failed) = true := by rw [hport, hok]; rfl
  refine ⟨_, ?_, failLink_spec hport hok⟩
  rcases hx with rfl | ⟨rfl, hmany⟩
  · rfl
  · show execBeatReplay cell port s = _
    unfold execBeatReplay
    dsimp only
    rw [if_pos hgo, if_pos hmany]

theorem detourComputed_spec {s : State} {cell port : Nat} (hbad : (s.linkAt cell port).failed = true) :
    ∃ t : State, exec (.detourComputed cell port) s = .next t ∧ (t.linkAt cell port).detour = true ∧ t.mem = s.mem := by
  refine ⟨_, rfl, ?_⟩
  rw [hbad, Bool.true_and]
  split
  · exact ⟨linkAt_onLink s cell port (fun l => { l with detour := true }) (fun _ => ⟨rfl, rfl⟩) (·.detour = true) (fun _ => rfl) (cell, port)
      List.mem_cons_self, onLink_mem ..⟩
  · next h => exact ⟨by simpa using h, rfl⟩

theorem setUcie_get (s : State) (m : Nat) (u : UcieState) : (s.setUcie m u).ucie[Fin.ofNat 36 m] = u := by
  have hget : (s.ucie.set (Fin.ofNat 36 m) u)[Fin.ofNat 36 m] = u := (getElem_set_fin ..).trans (if_pos rfl)
  unfold State.setUcie
  dsimp only
  split
  · obtain ⟨_, _, _, h⟩ := State.logError_eq { s with ucie := s.ucie.set (Fin.ofNat 36 m) u } 6 7 0 m 0
    rw [h]
    exact hget
  · obtain ⟨_, _, _, h⟩ := State.logErrorAll_eq { s with ucie := s.ucie.set (Fin.ofNat 36 m) u } (fun _ => true) 7 0 m 0
    rw [h]
    exact hget

theorem ucieLaneLoss_spec {s : State} {m : Nat} (hm : m < 36) :
    (s.ucie[Fin.ofNat 36 m] = .full → ∃ t : State, exec (.ucieLaneLoss m) s = .next t ∧ t.ucie[Fin.ofNat 36 m] = .retraining) ∧
    (s.ucie[Fin.ofNat 36 m] = .half → ∃ t : State, exec (.ucieLaneLoss m) s = .next t ∧ t.ucie[Fin.ofNat 36 m] = .disabled) := by
  refine ⟨fun h => ⟨_, ?_, setUcie_get s m .retraining⟩, fun h => ⟨_, ?_, setUcie_get s m .disabled⟩⟩
  · show execUcieLaneLoss m s = _
    rw [execUcieLaneLoss, if_neg (Nat.not_le.mpr hm), h]
  · show execUcieLaneLoss m s = _
    rw [execUcieLaneLoss, if_neg (Nat.not_le.mpr hm), h]

theorem ucieRetrainDone_spec {s : State} {m : Nat} (hm : m < 36) (h : s.ucie[Fin.ofNat 36 m] = .retraining) (ok : Bool) :
    ∃ t : State, exec (.ucieRetrainDone m ok) s = .next t ∧ t.ucie[Fin.ofNat 36 m] = if ok then .half else .disabled := by
  have hgo : (decide (m < 36) && s.ucie[Fin.ofNat 36 m] == .retraining) = true := by rw [h, decide_eq_true hm]; rfl
  have hexec : exec (.ucieRetrainDone m ok) s = .next (if ok then { s with ucie := s.ucie.set (Fin.ofNat 36 m) .half } else s.setUcie m .disabled) := by
    show execUcieRetrainDone m ok s = _
    rw [execUcieRetrainDone, if_pos hgo]
  cases ok
  · exact ⟨_, hexec, setUcie_get s m .disabled⟩
  · exact ⟨_, hexec, (getElem_set_fin ..).trans (if_pos rfl)⟩

/-! ### The statement -/

/-- Settles O59: each event's clause is its own lemma above. -/
theorem registersDebugAndErrorsAct : Obligations.RegistersDebugAndErrorsAct := by
  unfold Obligations.RegistersDebugAndErrorsAct
  intro s k n m cell port v
  refine ⟨⟨loftctlWrite_range, fun hlo hhi hloft _ => loftctlWrite_empty hlo hhi hloft⟩, linkWindow_base s v, linkWindow_limit s v,
    fun table => linkWindowTable_spec table, fun hn hv => ⟨rrctlWrite_idle hn hv, rrctlWrite_busy hn hv⟩, replayDiverge_spec, haltreq_spec,
    fun pa => debugHalt_spec, fun pa hrun hi hopen step => ⟨fun hok => ?_, fun hbad => ?_⟩,
    fun hbuf hsent => ⟨traceSinkWrite_faulted hbuf hsent, traceSinkWrite_sends hbuf hsent⟩, fun hd => traceOverflow_spec hd rfl,
    fun _ hlive => registerWrite_vf hlive, registerWrite_pf s v, registerWrite_control v rfl, ⟨?_, rfl, ?_, fun h0 hn => ?_⟩,
    fun hk x => coreLoss_spec s hk, fun line d r => ackTimeout_spec, fun hport hok => ⟨beatReplay_counts hport hok, fun x => meshLink_fails hport hok⟩,
    detourComputed_spec, fun hm => ⟨(ucieLaneLoss_spec hm).1, (ucieLaneLoss_spec hm).2, ucieRetrainDone_spec hm⟩⟩
  · exact ⟨_, debugContinue_exec s k step, debugContinue_resumed hrun hi hopen hok⟩
  · exact ⟨_, debugContinue_exec s k step, debugContinue_refused hrun hi hopen hbad⟩
  · exact ⟨_, rfl, poisonWord_spec s (s.homeOf (m / 16)) m⟩
  · refine ⟨s.countCorrected k, rfl, ?_⟩
    rw [State.countCorrected, State.core_onCore_self _ _ _ (State.core_id s k)]
  · exact ⟨s.poisonReg k 4 n 0, rfl, poisonReg_greg h0 hn⟩

end Sys2Proof.Machine
end

section
/-! SUPPORT. Packets of memory traffic, timers and engines: what each step leaves of memory, of the packets and of the lines. -/
namespace Sys2Proof.Machine

/-! ### One packet served -/

theorem State.inherit_eq (s : State) (f : InFlight) : ∃ net, s.inherit f = { s with net := net } := by
  unfold State.inherit
  split
  · exact ⟨s.net, rfl⟩
  · split
    · exact ⟨_, rfl⟩
    · exact ⟨s.net, rfl⟩

/-- A packet whose serving is known: what the served state leaves of memory and of the packets, and what holds of the rest of it. -/
theorem serves_used {x : Instr} {s u : State} {i : Nat} {p : Pkt} {is : Pkt → Bool} {m : Memory} {ps : List Pkt} {P : State → Prop}
    (h : AtIndex s i p) (hx : exec x s = servePktIf s i is) (hi : is p = true) (hf : ∀ k l d tr a pr fr e, p ≠ .fill k l d tr a pr fr e)
    (hs : servePkt (s.took i) p = .used u) (hm : u.mem = m) (hp : u.pkts = (s.took i).pkts ++ ps) (hP : ∀ net, P { u with net := net }) :
    Serves x s i m ps P := by
  obtain ⟨f, hexec⟩ := servePktIf_used h hi hf hs
  obtain ⟨net, hnet⟩ := u.inherit_eq f
  refine ⟨u.inherit f, hx.trans hexec, ?_, ?_, ?_⟩
  · rw [hnet]
    exact hm
  · rw [State.inherit_pkts, hp]
  · rw [hnet]
    exact hP net

theorem requestAt_place {s : State} {r : MReq} {p : Place} {where_ : Place → Bool} {what : Req → Bool} (hplace : s.placeOf (r.line * 128) = .ok p)
    (hw : where_ p = true) (hq : what r.req = true) : Pkt.requestAt s where_ what (.req r) = true := by
  unfold Pkt.requestAt
  dsimp only
  rw [hplace]
  dsimp only
  rw [hw, hq]
  rfl

/-! ### The directory after a hit -/

theorem find_map_line (f : DirLine → DirLine) (hf : ∀ d, (f d).line = d.line) (ds : List DirLine) (line : Nat) :
    (ds.map f).find? (·.line == line) = (ds.find? (·.line == line)).map f := by
  rw [List.find?_map]
  refine congrArg (Option.map f) ?_
  congr 1
  funext d
  exact congrArg (· == line) (hf d)

theorem hitDir_dirOf {s : State} {line : Nat} {d : DirLine} (h : s.dirOf line = some d) (ef : Bool) :
    ∃ e, (s.hitDir line ef).dirOf line = some e ∧ e.line = d.line ∧ e.st = d.st ∧ e.sharers = d.sharers ∧ e.round = d.round := by
  obtain ⟨f, hf, hkeep⟩ := s.hitDir_eq line ef
  obtain ⟨hline, _, hst, hsh, hround, _⟩ := hkeep d
  refine ⟨f d, ?_, hline, hst, hsh, hround⟩
  rw [hf]
  show (s.dir.map f).find? (·.line == line) = _
  rw [find_map_line f (fun e => (hkeep e).1)]
  exact congrArg (Option.map f) h

theorem hitDir_keeps (s : State) (line : Nat) (ef : Bool) : ∃ dir, s.hitDir line ef = { s with dir := dir } := by
  obtain ⟨f, hf, _⟩ := s.hitDir_eq line ef
  exact ⟨_, hf⟩

/-! ### Commits and rounds (R208, R210) -/

theorem commitBytes_keeps (s : State) (d : DirLine) (r : Round) :
    (commitBytes s d r).mem = s.mem.writeN r.pa r.v r.n ∧ (commitBytes s d r).pkts = s.pkts ∧ (commitBytes s d r).dir = s.dir := by
  unfold commitBytes
  split
  · next h =>
    rw [beq_iff_eq.mp h]
    exact ⟨rfl, rfl, rfl⟩
  · exact ⟨rfl, rfl, rfl⟩

theorem commitHolder_n (s : State) {d : DirLine} (h : d.st = .n) (r : Round) : commitHolder s d r = s := by
  unfold commitHolder
  rw [h]

theorem commitReply_eq (s : State) (d : DirLine) (r : Round) :
    commitReply s d r = s.postAll (r.amo.toList.map fun a => .amoReply a.1 d.line a.2 none) := by
  unfold commitReply
  split
  · next h => rw [h]; rfl
  · next h => rw [h]; rfl

theorem commitDone_eq (s : State) (d : DirLine) (r : Round) : commitDone s d r = s.postAll (r.writer.toList.map fun w => .done w d.line) := by
  unfold commitDone
  split
  · next h => rw [h]; rfl
  · next h => rw [h]; rfl

theorem commitNotes_eq (s : State) (d : DirLine) (r : Round) :
    commitNotes s d r = s.postAll (if r.n == 0 then [] else d.sharers.map fun k => .commit k d.line) := by
  unfold commitNotes
  split
  · rfl
  · rfl

/-- What a commit of a line in N leaves of memory, of the packets, and of its line (R208, R210). -/
theorem commitRound_spec (s : State) {d : DirLine} (hst : d.st = .n) (r : Round) :
    (s.commitRound d r).mem = s.mem.writeN r.pa r.v r.n ∧
    (s.commitRound d r).pkts = s.pkts ++ (if r.n == 0 then [] else d.sharers.map fun k => .commit k d.line) ++
      (r.amo.toList.map fun a => .amoReply a.1 d.line a.2 none) ++ (r.writer.toList.map fun w => .done w d.line) ∧
    (s.commitRound d r).dirOf d.line = (s.dirOf d.line).map fun d =>
      { d with round := none, dirty := d.dirty || r.n != 0, sharers := if r.n == 0 then [] else d.sharers } := by
  obtain ⟨hmem, hpkts, hdir⟩ := commitBytes_keeps s d r
  rw [commitRound_eq, commitHolder_n _ hst, commitDone_eq, commitReply_eq, commitNotes_eq]
  refine ⟨?_, ?_, ?_⟩
  · rw [State.postAll_mem, State.postAll_mem, State.postAll_mem]
    exact hmem
  · rw [State.postAll_pkts, State.postAll_pkts, State.postAll_pkts]
    congr 3
  · rw [State.dirOf_postAll, State.dirOf_postAll, State.dirOf_postAll, commitDir, State.dirOf_onDir, if_pos rfl, State.dirOf_congr hdir]
    exact fun _ h => h

/-- A write placed at its home: at once with no sharer, by a round otherwise (R208). -/
theorem openRound_spec (s : State) {d : DirLine} (hst : d.st = .n) (pa n v : Nat) (w : Option Nat) (amo : Option (Nat × Nat)) :
    (s.openRound d pa n v w amo).mem = openedMem s.mem d pa n v ∧
    (s.openRound d pa n v w amo).pkts = s.pkts ++ openedPkts d pa n v w amo ∧
    (d.sharers ≠ [] → (s.openRound d pa n v w amo).dirOf d.line = (s.dirOf d.line).map fun d' =>
      { d' with round := some { waiting := d.sharers, pa := pa, n := n, v := v, writer := w, amo := amo } }) := by
  unfold State.openRound openedMem openedPkts
  dsimp only
  split
  · next h =>
    have hnil : d.sharers = [] := by simpa using h
    obtain ⟨hmem, hpkts, _⟩ := commitRound_spec s hst { waiting := d.sharers, pa := pa, n := n, v := v, writer := w, amo := amo }
    rw [if_pos hnil, if_pos hnil, hmem, hpkts]
    refine ⟨rfl, ?_, fun hne => absurd hnil hne⟩
    have hnone : (if n == 0 then [] else d.sharers.map fun k => Pkt.commit k d.line) = [] := by rw [hnil]; simp
    rw [hnone, List.append_nil, List.append_assoc]
  · next h =>
    have hne : d.sharers ≠ [] := by simpa using h
    rw [if_neg hne, if_neg hne]
    refine ⟨State.postAll_mem .., State.postAll_pkts .., fun _ => ?_⟩
    rw [State.dirOf_postAll, State.dirOf_onDir, if_pos rfl]
    exact fun _ h => h

/-! ### AMO values (R234) -/

theorem overflowMag_fp32 (rnd : Rnd) (sat s : Bool) : overflowMag .fp32 rnd sat s ≤ infPattern .fp32 := by
  cases rnd <;> cases sat <;> cases s <;> decide

/-- A sign and a magnitude below it, in FP32's 32 bits. -/
theorem signed_fp32_lt {s : Bool} {mag : Nat} (h : mag ≤ infPattern .fp32) : (if s then signBit .fp32 else 0) + mag < 2 ^ 32 := by
  have hinf : infPattern .fp32 + 2 ^ 31 < 2 ^ 32 := by decide
  have hsign : (if s then signBit .fp32 else 0) ≤ 2 ^ 31 := by cases s <;> decide
  exact Nat.lt_of_le_of_lt (Nat.add_comm _ mag ▸ Nat.add_le_add h hsign) hinf

theorem deliverFloat_fp32_inf (rnd : Rnd) (sat s : Bool) (d : Nat) : (deliverFloat .fp32 rnd sat d (.inf s)).1 < 2 ^ 32 := by
  have hmax : maxFinite .fp32 ≤ infPattern .fp32 := by decide
  have hnot : (Fmt.fp32 == .e4m3) = false := rfl
  rw [deliverFloat, hnot, if_neg Bool.false_ne_true]
  cases sat with
  | true => exact signed_fp32_lt hmax
  | false => exact signed_fp32_lt (Nat.le_refl _)

theorem deliverFloat_fp32_fin (rnd : Rnd) (sat s : Bool) (d m : Nat) (e : Int) (t : Bool) : (deliverFloat .fp32 rnd sat d (.fin s m e t)).1 < 2 ^ 32 := by
  have hmax : maxFinite .fp32 ≤ infPattern .fp32 := by decide
  have hnot : (Fmt.fp32 == .e4m3) = false := rfl
  have hlt (o mag : Nat) (ho : o ≤ infPattern .fp32) (fl fl' : Flags) :
      (if maxFinite .fp32 < mag then
        ((if Fmt.fp32 == .e4m3 && decide (maxFinite .fp32 < o) then canonicalNaN .fp32 else (if s then signBit .fp32 else 0) + o), fl)
      else ((if s then signBit .fp32 else 0) + mag, fl')).1 < 2 ^ 32 := by
    rw [hnot, Bool.false_and, if_neg Bool.false_ne_true]
    split
    · exact signed_fp32_lt ho
    · next h => exact signed_fp32_lt (Nat.le_trans (Nat.not_lt.mp h) hmax)
  exact hlt _ _ (overflowMag_fp32 rnd sat s) _ _

theorem deliverFloat_fp32_lt (rnd : Rnd) (sat : Bool) (d : Nat) (x : Ex) : (deliverFloat .fp32 rnd sat d x).1 < 2 ^ 32 := by
  cases x with
  | nan => exact show canonicalNaN .fp32 < 2 ^ 32 by decide
  | inf s => exact deliverFloat_fp32_inf rnd sat s d
  | fin s m e t => exact deliverFloat_fp32_fin rnd sat s d m e t

theorem deliverFp32_lt (rnd : Rnd) (d : Nat) (x : Ex × Flags) : (deliverFp32 rnd d x).1 < 2 ^ 32 := deliverFloat_fp32_lt ..

theorem faddLanes_lt {n : Nat} (hn : n = 4 ∨ n = 8) (m o : Nat) : faddLanes n m o < 2 ^ (8 * n) := by
  rcases hn with rfl | rfl
  · exact deliverFp32_lt ..
  · have hlo : (fp32Add (m % 2 ^ 32) (o % 2 ^ 32)).1 < 2 ^ 32 := deliverFp32_lt ..
    have hhi : (fp32Add (m / 2 ^ 32) (o / 2 ^ 32)).1 < 2 ^ 32 := deliverFp32_lt ..
    show (fp32Add (m % 2 ^ 32) (o % 2 ^ 32)).1 + (fp32Add (m / 2 ^ 32) (o / 2 ^ 32)).1 * 2 ^ 32 < 2 ^ (8 * 8)
    omega

/-- The value of an AMO, as R234 says it. -/
theorem amoValue_spec {op : AmoOp} {n m o c : Nat} (hn : n = 4 ∨ n = 8) (hm : m < 2 ^ (8 * n)) (ho : o < 2 ^ (8 * n)) (hc : c < 2 ^ (8 * n)) :
    amoValue op n m o c = (amoSpec op (BitVec.ofNat (8 * n) m) (BitVec.ofNat (8 * n) o) (BitVec.ofNat (8 * n) c)).toNat := by
  have hpos : 0 < 8 * n := by omega
  have hm' : (BitVec.ofNat (8 * n) m).toNat = m := (BitVec.toNat_ofNat ..).trans (Nat.mod_eq_of_lt hm)
  have ho' : (BitVec.ofNat (8 * n) o).toNat = o := (BitVec.toNat_ofNat ..).trans (Nat.mod_eq_of_lt ho)
  have hc' : (BitVec.ofNat (8 * n) c).toNat = c := (BitVec.toNat_ofNat ..).trans (Nat.mod_eq_of_lt hc)
  cases op with
  | add => rw [amoValue, amoSpec, BitVec.toNat_add, hm', ho']
  | and => rw [amoValue, amoSpec, BitVec.toNat_and, hm', ho']
  | or => rw [amoValue, amoSpec, BitVec.toNat_or, hm', ho']
  | xor => rw [amoValue, amoSpec, BitVec.toNat_xor, hm', ho']
  | min =>
    simp only [amoValue, amoSpec, signedLt, signedOf_toInt _ _ hpos, decide_eq_true_eq]
    split
    · exact ho'.symm
    · exact hm'.symm
  | max =>
    simp only [amoValue, amoSpec, signedLt, signedOf_toInt _ _ hpos, decide_eq_true_eq]
    split
    · exact ho'.symm
    · exact hm'.symm
  | minu =>
    simp only [amoValue, amoSpec, hm', ho']
    split
    · next h => rw [ho', Nat.min_eq_right (Nat.le_of_lt h)]
    · next h => rw [hm', Nat.min_eq_left (Nat.not_lt.mp h)]
  | maxu =>
    simp only [amoValue, amoSpec, hm', ho']
    split
    · next h => rw [ho', Nat.max_eq_right (Nat.le_of_lt h)]
    · next h => rw [hm', Nat.max_eq_left (Nat.not_lt.mp h)]
  | swp => exact ho'.symm
  | cas =>
    rw [amoValue, amoSpec]
    by_cases h : m = c
    · rw [if_pos (beq_iff_eq.mpr h), if_pos (by rw [h]), ho']
    · rw [if_neg (fun e => h (beq_iff_eq.mp e)), if_neg, hm']
      intro e
      exact h (hm'.symm.trans ((congrArg BitVec.toNat e).trans hc'))
  | fadd =>
    have h8 : 8 * n / 8 = n := by omega
    rw [amoValue, amoSpec, h8, hm', ho', BitVec.toNat_ofNat, Nat.mod_eq_of_lt (faddLanes_lt hn m o)]

/-! ### Requests at their home (R165, R171, R208, R218, R234, R241) -/

theorem placeOf_mine {s : State} {pa : Nat} (h : s.placeOf pa = .ok .localHbm) : pa / 2 ^ 47 % 2 = s.link.card := by
  unfold State.placeOf at h
  dsimp only at h
  by_cases hc : (pa / 2 ^ 47 % 2 == s.link.card) = true
  · exact beq_iff_eq.mp hc
  · rw [Bool.not_eq_true] at hc
    rw [hc] at h
    simp only [Bool.false_eq_true, if_false] at h
    revert h
    repeat' split
    all_goals simp

/-- What a request at a ready home may count on (R165, R208). -/
structure HomeServes (s : State) (i : Nat) (r : MReq) (d : DirLine) : Prop where
  at_ : AtIndex s i (.req r)
  core : r.core ≠ 1025
  ready : HomeReady s r.line d
  open_ : setBlocked s r.line = false
  unlogged : Unlogged s r.line

theorem logSlice_off {s : State} {line : Nat} (h : Unlogged s line) (home kind core sub : Nat) : s.logSlice home line kind core sub = some s := by
  unfold State.logSlice
  split
  · rfl
  · next p hp => rw [h p hp, if_pos (beq_self_eq_true _)]

theorem logReq_off {s : State} {r : MReq} (h : Unlogged s r.line) (d : DirLine) (asAmo : Bool) : logReq s d r asAmo = some s := by
  unfold logReq
  split
  · exact logSlice_off h ..
  · exact logSlice_off h ..
  · exact logSlice_off h ..
  · split
    · exact logSlice_off h ..
    · rfl
  · rfl

theorem serveReq_home {s : State} {r : MReq} (hcore : r.core ≠ 1025) (hplace : s.placeOf (r.line * 128) = .ok .localHbm)
    (hdie : absentDie s .localHbm r.line = false) : serveReq s r = serveHome s r := by
  have hmine := placeOf_mine hplace
  have hcard : (r.line / 2 ^ 40 % 2 != s.link.card) = false := by
    rw [bne_eq_false_iff_eq, ← hmine]
    omega
  have hcore' : (r.core == 1025) = false := beq_eq_false_iff_ne.mpr hcore
  unfold serveReq
  rw [hcard, if_neg Bool.false_ne_true, hplace]
  dsimp only
  rw [hdie, if_neg Bool.false_ne_true, hcore', if_neg Bool.false_ne_true]

theorem serveHomeLine_n {s : State} {r : MReq} {d : DirLine} (hopen : setBlocked s r.line = false) (hlog : Unlogged s r.line)
    (hdir : s.dirOf r.line = some d) (hst : d.st = .n) (hround : d.round = none) : serveHomeLine s r = serveNow s d r := by
  have hlocked : lockedReduction d r = none := by
    unfold lockedReduction
    rw [hst]
  unfold serveHomeLine
  rw [hopen, if_neg Bool.false_ne_true, hdir]
  dsimp only
  rw [hlocked]
  dsimp only
  rw [hround, Option.isSome_none, if_neg Bool.false_ne_true, hst]
  dsimp only
  rw [serveN, logReq_off hlog]

theorem HomeServes.served {s : State} {i : Nat} {r : MReq} {d : DirLine} (h : HomeServes s i r d) (hfill : r.fillsHome = false) :
    servePkt (s.took i) (.req r) = serveNow (s.took i) d r := by
  show serveReq (s.took i) r = _
  rw [serveReq_home (s := s.took i) h.core h.ready.place h.ready.die, serveHome, hfill, Bool.false_and, Bool.false_and, if_neg Bool.false_ne_true,
    serveHomeLine_n (s := s.took i) h.open_ h.unlogged h.ready.dir h.ready.state h.ready.round]

theorem fillsHome_read {r : MReq} (h : ∀ acq ef pref sync, r.req ≠ .read acq ef pref sync) : r.fillsHome = false := by
  unfold MReq.fillsHome
  split
  · next heq => exact absurd heq (h _ _ _ _)
  · exact Bool.and_false _

theorem HomeServes.fills {s : State} {i : Nat} {r : MReq} {d : DirLine} (h : HomeServes s i r d) {acq ef pref sync : Bool}
    (hreq : r.req = .read acq ef pref sync) (hfill : r.fillsHome = true) : Serves (.homeRead i) s i s.mem [] fun _ => True := by
  have hgo : (r.fillsHome && ((s.took i).dirOf r.line).isSome && !setBlocked (s.took i) r.line) = true := by
    rw [hfill, State.dirOf_took, h.ready.dir, show setBlocked (s.took i) r.line = false from h.open_]
    rfl
  obtain ⟨dir, hdir⟩ := hitDir_keeps (s.took i) r.line ef
  refine serves_used h.at_ rfl (requestAt_place h.ready.place rfl (by rw [hreq])) (fun _ _ _ _ _ _ _ _ => Pkt.noConfusion)
    (u := (s.took i).hitDir r.line ef) ?_ ?_ ?_ fun _ => trivial
  · show serveReq (s.took i) r = _
    rw [serveReq_home (s := s.took i) h.core h.ready.place h.ready.die, serveHome, if_pos hgo, hreq]
  · rw [hdir]
    rfl
  · rw [hdir, List.append_nil]
    rfl

theorem postFill_eq (s : State) (k line : Nat) (tracked acq pref : Bool) :
    s.postFill k line tracked acq pref = (s.post (.fill k line (s.mem.line line) tracked acq pref (homeFresh s line) none)).tock := rfl

theorem HomeServes.reads {s : State} {i : Nat} {r : MReq} {d : DirLine} (h : HomeServes s i r d) {acq ef pref sync : Bool}
    (hreq : r.req = .read acq ef pref sync) (hfill : r.fillsHome = false) :
    Serves (.homeRead i) s i s.mem [.fill r.core r.line (s.mem.line r.line) (canShare s r.core r.line) acq pref (homeFresh (s.took i) r.line) none] fun u =>
      canShare s r.core r.line = true → ∃ e, u.dirOf r.line = some e ∧ r.core ∈ e.sharers ∧ ∀ k ∈ d.sharers, k ∈ e.sharers := by
  obtain ⟨e, he, _, _, hsh, _⟩ := hitDir_dirOf (s := s.took i) h.ready.dir ef
  obtain ⟨dir, hdir⟩ := hitDir_keeps (s.took i) r.line ef
  rw [hdir] at he
  have hshare : canShare (s.took i) r.core r.line = canShare s r.core r.line := rfl
  have hserve := h.served hfill
  rw [serveNow, hreq] at hserve
  dsimp only at hserve
  rw [hdir, hshare] at hserve
  refine serves_used h.at_ rfl (requestAt_place h.ready.place rfl (by rw [hreq])) (fun _ _ _ _ _ _ _ _ => Pkt.noConfusion) hserve ?_ ?_ fun net => ?_
  · split
    · rfl
    · rfl
  · rw [postFill_eq]
    show (State.post _ _).pkts = _
    rw [State.post_pkts]
    split
    · rfl
    · rfl
  · intro hcan
    rw [hcan, if_pos rfl]
    refine ⟨{ e with sharers := e.sharers.filter (· != r.core) ++ [r.core] }, ?_, List.mem_append_right _ List.mem_cons_self, fun k hk => ?_⟩
    · show (({ s.took i with dir := dir } : State).onDir r.line fun d => { d with sharers := d.sharers.filter (· != r.core) ++ [r.core] }).dirOf r.line = _
      rw [State.dirOf_onDir, if_pos rfl, he]
      · rfl
      · exact fun _ h => h
    · by_cases hk' : k = r.core
      · exact List.mem_append_right _ (by rw [hk']; exact List.mem_cons_self)
      · exact List.mem_append_left _ (List.mem_filter.mpr ⟨by rw [hsh]; exact hk, by simpa using hk'⟩)

/-- A write or an AMO that opens its round at the home. -/
theorem HomeServes.opens {s : State} {i : Nat} {r : MReq} {d : DirLine} (h : HomeServes s i r d) {x : Instr} {what : Req → Bool} {ef : Bool} {pa n v : Nat}
    {w : Option Nat} {amo : Option (Nat × Nat)} (hx : exec x s = servePktIf s i (Pkt.requestAt s Place.isHome what)) (hq : what r.req = true)
    (hserve : servePkt (s.took i) (.req r) = .used (((s.took i).hitDir r.line ef).openRound d pa n v w amo)) :
    Serves x s i (openedMem s.mem d pa n v) (openedPkts d pa n v w amo) fun u =>
      d.sharers ≠ [] → ∃ e, u.dirOf r.line = some e ∧ e.round = some { waiting := d.sharers, pa := pa, n := n, v := v, writer := w, amo := amo } := by
  obtain ⟨e, he, _, _, _, _⟩ := hitDir_dirOf (s := s.took i) h.ready.dir ef
  obtain ⟨dir, hdir⟩ := hitDir_keeps (s.took i) r.line ef
  obtain ⟨hmem, hpkts, hround⟩ := openRound_spec ((s.took i).hitDir r.line ef) h.ready.state pa n v w amo
  refine serves_used h.at_ hx (requestAt_place h.ready.place rfl hq) (fun _ _ _ _ _ _ _ _ => Pkt.noConfusion) hserve ?_ ?_ fun net => ?_
  · rw [hmem, hdir]
    rfl
  · rw [hpkts, hdir]
    rfl
  · intro hne
    have hround := hround hne
    rw [h.ready.line, he] at hround
    exact ⟨_, hround, rfl⟩

theorem HomeServes.writes {s : State} {i : Nat} {r : MReq} {d : DirLine} (h : HomeServes s i r d) {pa n v : Nat} {ef sync : Bool}
    (hreq : r.req = .write pa n v ef sync) :
    Serves (.storeRound i) s i (openedMem s.mem d pa n v) (openedPkts d pa n v (some r.core) none) fun u =>
      d.sharers ≠ [] → ∃ e, u.dirOf r.line = some e ∧ e.round = some { waiting := d.sharers, pa := pa, n := n, v := v, writer := some r.core } := by
  refine h.opens rfl (by rw [hreq]) (ef := ef) ?_
  rw [h.served (fillsHome_read fun _ _ _ _ => by rw [hreq]; exact Req.noConfusion), serveNow, hreq]

theorem amoWord_value {op : AmoOp} {m : Memory} {pa n o c : Nat} (hn : n = 4 ∨ n = 8) (ho : o < 2 ^ (8 * n)) (hc : c < 2 ^ (8 * n)) :
    amoValue op n (m.readN pa n) o c = amoWord m op pa n o c := by
  have hm : m.readN pa n < 2 ^ (8 * n) := by
    rw [Nat.pow_mul]
    exact m.readN_lt pa n
  exact amoValue_spec hn hm ho hc

theorem HomeServes.amos {s : State} {i : Nat} {r : MReq} {d : DirLine} (h : HomeServes s i r d) {op : AmoOp} {n pa o c : Nat} {dx reduce : Bool}
    (hreq : r.req = .amo op n pa o c dx reduce) (hreg : Regular r) :
    Serves (.amoAtHome i) s i (openedMem s.mem d pa n (amoWord s.mem op pa n o c))
      (openedPkts d pa n (amoWord s.mem op pa n o c) (if reduce then some r.core else none) (if reduce then none else some (r.core, s.mem.readN pa n))) fun u =>
        d.sharers ≠ [] → ∃ e, u.dirOf r.line = some e ∧ e.round = some
          { waiting := d.sharers, pa := pa, n := n, v := amoWord s.mem op pa n o c, writer := if reduce then some r.core else none,
            amo := if reduce then none else some (r.core, s.mem.readN pa n) } := by
  rw [Regular, hreq] at hreg
  obtain ⟨hn, ho, hc⟩ := hreg
  refine h.opens rfl (by rw [hreq]) (ef := false) ?_
  rw [h.served (fillsHome_read fun _ _ _ _ => by rw [hreq]; exact Req.noConfusion), serveNow, hreq]
  dsimp only
  rw [amoWord_value hn ho hc]
  rfl

theorem HomeServes.cleans {s : State} {i : Nat} {r : MReq} {d : DirLine} (h : HomeServes s i r d) (hreq : r.req = .clwb) :
    Serves (.hbmWriteComplete i) s i s.mem [.done r.core r.line] fun u => ∃ e, u.dirOf r.line = some e ∧ e.dirty = false := by
  obtain ⟨e, he, _, _, _, _⟩ := hitDir_dirOf (s := s.took i) h.ready.dir false
  obtain ⟨dir, hdir⟩ := hitDir_keeps (s.took i) r.line false
  have hserve := h.served (fillsHome_read fun _ _ _ _ => by rw [hreq]; exact Req.noConfusion)
  rw [serveNow, hreq] at hserve
  dsimp only at hserve
  rw [hdir] at hserve he
  refine serves_used h.at_ rfl (requestAt_place h.ready.place rfl (by rw [hreq])) (fun _ _ _ _ _ _ _ _ => Pkt.noConfusion) hserve rfl ?_ fun net => ?_
  · rw [State.post_pkts]
    rfl
  · refine ⟨{ e with dirty := false }, ?_, rfl⟩
    show (({ s.took i with dir := dir } : State).onDir r.line fun d => { d with dirty := false }).dirOf r.line = _
    rw [State.dirOf_onDir, if_pos rfl, he]
    · rfl
    · exact fun _ h => h

/-- A line installed where its set has a way for it. -/
theorem install_way {s : State} {k : Nat} {l : CLine} (h : ((s.core k).dropLine l.line).hasWay l.line = true) :
    s.install k l = s.setCore { (s.core k).dropLine l.line with cache := l :: ((s.core k).dropLine l.line).cache } := by
  unfold State.install
  dsimp only
  rw [if_pos h]

theorem gatherHeld_off {s : State} {line : Nat} (h : Unlogged s line) (core : Nat) : gatherHeld s line core = false := by
  unfold gatherHeld
  split
  · rfl
  · next p hp =>
    rw [h p hp]
    rfl

theorem core_net (s : State) (net : List InFlight) (k : Nat) : ({ s with net := net } : State).core k = s.core k := rfl

theorem dirOf_net (s : State) (net : List InFlight) (line : Nat) : ({ s with net := net } : State).dirOf line = s.dirOf line := rfl

theorem HomeServes.gathers {s : State} {i : Nat} {r : MReq} {d : DirLine} (h : HomeServes s i r d) {k : GatherKind} {off o : Nat}
    (hreq : r.req = .gather k off o) (hsh : d.sharers = []) (hway : ((s.core r.core).dropLine r.line).hasWay r.line = true) :
    Serves (.gatherRequest i) s i s.mem [.done r.core r.line] fun u =>
      ∃ e l, u.dirOf r.line = some e ∧ e.st = .g [r.core] false ∧ (u.core r.core).lineOf r.line = some l ∧ l.st = .g k ∧
        l.data = reduceAt k (identityLine k) off o := by
  obtain ⟨e, he, _, _, _, _⟩ := hitDir_dirOf (s := s.took i) h.ready.dir false
  obtain ⟨dir, hdir⟩ := hitDir_keeps (s.took i) r.line false
  rw [hdir] at he
  have hneeds (u : State) (hu : u.core r.core = s.core r.core) : needsWay u r = false := by
    rw [needsWay, hu, hway]
    rfl
  have hserve := h.served (fillsHome_read fun _ _ _ _ => by rw [hreq]; exact Req.noConfusion)
  rw [serveNow, hreq] at hserve
  dsimp only at hserve
  have hno : noWay (s.took i) r = false := by
    rw [noWay, hneeds (s.took i) rfl]
    rfl
  rw [hno, hsh, hdir, if_neg Bool.false_ne_true, List.isEmpty_nil, Bool.not_true, if_neg Bool.false_ne_true, startGather,
    gatherHeld_off (s := { s.took i with dir := dir }) h.unlogged, if_neg Bool.false_ne_true, hneeds { s.took i with dir := dir } rfl, if_neg Bool.false_ne_true] at hserve
  dsimp only at hserve
  rw [install_way hway] at hserve
  refine serves_used h.at_ rfl (requestAt_place h.ready.place rfl (by rw [hreq])) (fun _ _ _ _ _ _ _ _ => Pkt.noConfusion) hserve ?_ ?_ fun net => ?_
  · exact State.setCore_mem ..
  · rw [State.post_pkts]
    simp only [State.pkts, State.setCore_net]
    rfl
  · refine ⟨{ e with st := .g [r.core] false }, { line := r.line, st := .g k, data := reduceAt k (identityLine k) off o, unread := 1 }, ?_, rfl, ?_, rfl, rfl⟩
    · rw [dirOf_net, State.dirOf_post, State.dirOf_setCore, State.dirOf_onDir, if_pos rfl]
      · exact congrArg (Option.map fun d => { d with st := .g ([].filter (· != r.core) ++ [r.core]) false }) he
      · exact fun _ h => h
    · rw [core_net, State.core_post, State.core_setCore, if_pos]
      · exact List.find?_cons_of_pos (beq_self_eq_true _)
      · exact (State.core_id _ r.core).symm

theorem hbmFill_spec {s : State} {line : Nat} {d : DirLine} (hd : s.dirOf line = some d) (hst : d.st = .w) :
    ∃ (u : State) (e : DirLine), exec (.hbmFill line) s = .next u.settle ∧ u.mem = s.mem ∧ u.dirOf line = some e ∧ e.st = .n := by
  refine ⟨s.onDir line fun d => if d.st == .w then { d with st := .n } else d, { d with st := .n }, rfl, rfl, ?_, rfl⟩
  rw [State.dirOf_onDir, if_pos rfl, hd]
  · show some (if d.st == .w then _ else d) = _
    rw [hst]
    rfl
  · intro d hd
    split
    · exact hd
    · exact hd

/-- Settles O50: each kind of request at a ready home is its own lemma above. -/
theorem requestsAreServedAtTheirHome : Obligations.RequestsAreServedAtTheirHome := by
  unfold Obligations.RequestsAreServedAtTheirHome
  intro s i r d
  refine ⟨fun hat hcore hready hopen hlog => ?_, fun line => hbmFill_spec⟩
  have h : HomeServes s i r d := ⟨hat, hcore, hready, hopen, hlog⟩
  exact ⟨fun acq ef pref sync hreq => ⟨h.fills hreq, h.reads hreq⟩, fun pa n v ef sync => h.writes, fun op n pa o c dx reduce => h.amos,
    fun k off o => h.gathers, h.cleans⟩

/-! ### Requests at a port, at the host and at the peer (R160, R169, R170, R236, R374) -/

/-- A request performed at the one place of its bytes. -/
theorem servePort_spec {s : State} {r : MReq} (hreg : Regular r) (fresh : Bool) :
    (servePort s r fresh).mem = (portResult s.mem r fresh).1 ∧ (servePort s r fresh).pkts = s.pkts ++ [(portResult s.mem r fresh).2] := by
  unfold servePort portResult
  unfold Regular at hreg
  generalize r.req = q at hreg ⊢
  cases q with
  | read acq ef pref sync => exact ⟨rfl, State.post_pkts ..⟩
  | write pa n v ef sync => exact ⟨rfl, State.post_pkts ..⟩
  | amo op n pa o c dx reduce =>
    obtain ⟨hn, ho, hc⟩ := hreg
    dsimp only
    rw [amoWord_value hn ho hc]
    cases reduce with
    | true => exact ⟨rfl, State.post_pkts ..⟩
    | false => exact ⟨rfl, State.post_pkts ..⟩
  | gather k off o =>
    have hk : k.size = 4 ∨ k.size = 8 := by cases k <;> decide
    dsimp only at hreg ⊢
    rw [amoWord_value hk hreg (Nat.two_pow_pos _)]
    exact ⟨rfl, State.post_pkts ..⟩
  | clwb => exact ⟨rfl, State.post_pkts ..⟩

theorem placeOf_card {s : State} {pa : Nat} {p : Place} (h : s.placeOf pa = .ok p) :
    (pa / 2 ^ 47 % 2 == s.link.card) = !Place.isPeer p := by
  unfold State.placeOf at h
  dsimp only at h
  cases hc : pa / 2 ^ 47 % 2 == s.link.card with
  | true =>
    rw [hc] at h
    simp only [if_true] at h
    revert h
    repeat' split
    all_goals simp (contextual := true) [Place.isPeer, eq_comm]
  | false =>
    rw [hc] at h
    simp only [Bool.false_eq_true, if_false] at h
    revert h
    repeat' split
    all_goals simp (contextual := true) [Place.isPeer, eq_comm]

theorem line_card (line : Nat) : line / 2 ^ 40 % 2 = line * 128 / 2 ^ 47 % 2 := by omega

theorem local_card {s : State} {r : MReq} {p : Place} (hplace : s.placeOf (r.line * 128) = .ok p) (hpeer : Place.isPeer p = false) :
    (r.line / 2 ^ 40 % 2 != s.link.card) = false := by
  rw [line_card, bne, placeOf_card hplace, hpeer]
  rfl

theorem serveReq_scratch {s : State} {r : MReq} {cell : Nat} (hplace : s.placeOf (r.line * 128) = .ok (.scratch cell))
    (hdie : absentDie s (.scratch cell) r.line = false) : serveReq s r = .used (servePort s r false) := by
  unfold serveReq
  rw [local_card hplace rfl, if_neg Bool.false_ne_true, hplace]
  dsimp only
  rw [hdie, if_neg Bool.false_ne_true]

theorem serveReq_host {s : State} {r : MReq} (hplace : s.placeOf (r.line * 128) = .ok .host) (hfree : hostBusy s r.line = false) :
    serveReq s r = .used (serveHost s r) := by
  unfold serveReq
  rw [local_card hplace rfl, if_neg Bool.false_ne_true, hplace]
  dsimp only
  rw [show absentDie s .host r.line = false from rfl, if_neg Bool.false_ne_true, hfree, if_neg Bool.false_ne_true]

theorem serveReq_peer {s : State} {r : MReq} {p : Place} (hplace : s.placeOf (r.line * 128) = .ok p) (hpeer : Place.isPeer p = true)
    (hretrain : s.link.retraining = false) : serveReq s r = .used (servePeer s r) := by
  have hcard : (r.line / 2 ^ 40 % 2 != s.link.card) = true := by
    rw [line_card, bne, placeOf_card hplace, hpeer]
    rfl
  unfold serveReq
  rw [hcard, if_pos rfl, hretrain, if_neg Bool.false_ne_true]

/-- Where each kind of access goes that is refused (R231, R446). -/
theorem refuses_of {x : Instr} {s t : State} {i : Nat} {r : MReq} {k : AccessKind}
    (h : ∀ p, t.refuse r (.access k) = t.post p → Serves x s i s.mem [p] fun _ => True) : Refuses x s i r k := by
  refine ⟨fun acq ef sync hreq => h _ ?_, fun op n pa o c dx hreq => h _ ?_, fun pa n v ef sync hreq => h _ ?_⟩
  · rw [State.refuse, hreq]
    rfl
  · rw [State.refuse, hreq]
    rfl
  · rw [State.refuse, hreq]

theorem scratchpadPort_spec {s : State} {i : Nat} {r : MReq} {cell : Nat} (hat : AtIndex s i (.req r)) (hreg : Regular r)
    (hplace : s.placeOf (r.line * 128) = .ok (.scratch cell)) (hdie : absentDie s (.scratch cell) r.line = false) :
    Serves (.scratchpadPortAccess i) s i (portResult s.mem r false).1 [(portResult s.mem r false).2] fun _ => True := by
  obtain ⟨hmem, hpkts⟩ := servePort_spec (s := s.took i) hreg false
  exact serves_used hat rfl (requestAt_place hplace rfl rfl) (fun _ _ _ _ _ _ _ _ => Pkt.noConfusion)
    (serveReq_scratch (s := s.took i) hplace hdie) hmem hpkts fun _ => trivial

/-- A request at the host agent that its port may take. -/
structure HostServes (s : State) (i : Nat) (r : MReq) : Prop where
  at_ : AtIndex s i (.req r)
  place : s.placeOf (r.line * 128) = .ok .host
  up : s.dies[(0 : Fin 2)] = .up
  free : hostBusy (s.took i) r.line = false

theorem HostServes.served {s : State} {i : Nat} {r : MReq} (h : HostServes s i r) : servePkt (s.took i) (.req r) = .used (serveHost (s.took i) r) :=
  serveReq_host (s := s.took i) h.place h.free

theorem HostServes.serves {s u : State} {i : Nat} {r : MReq} {m : Memory} {ps : List Pkt} (h : HostServes s i r) (hu : serveHost (s.took i) r = u)
    (hm : u.mem = m) (hp : u.pkts = (s.took i).pkts ++ ps) : Serves (.hostAgentRequest i) s i m ps fun _ => True :=
  serves_used h.at_ rfl (requestAt_place h.place rfl rfl) (fun _ _ _ _ _ _ _ _ => Pkt.noConfusion) (hu ▸ h.served) hm hp fun _ => trivial

theorem HostServes.up_took {s : State} {i : Nat} {r : MReq} (h : HostServes s i r) : ((s.took i).dies[(0 : Fin 2)] == .reset) = false := by
  show (s.dies[(0 : Fin 2)] == .reset) = false
  rw [h.up]
  rfl

theorem HostServes.all {s : State} {i : Nat} {r : MReq} (h : HostServes s i r) :
    (∀ pa n v ef sync, r.req = .write pa n v ef sync →
      Serves (.hostAgentRequest i) s i (s.mem.writeN pa v n) [.done r.core r.line] fun _ => True) ∧
    (∀ acq ef pref sync, r.req = .read acq ef pref sync → Serves (.hostAgentRequest i) s i s.mem [.hostWait r 0] fun _ => True) ∧
    (∀ op n pa o c dx reduce, r.req = .amo op n pa o c dx reduce → (dx = true ∨ s.cardFeature 6 = true) →
      Serves (.hostAgentRequest i) s i s.mem [.hostWait r 0] fun _ => True) ∧
    (∀ op n pa o c, r.req = .amo op n pa o c false false → s.cardFeature 6 = false →
      Serves (.hostAgentRequest i) s i s.mem [.amoReply r.core r.line 0 (some (.access .hostAtomic))] fun _ => True) := by
  have hfeature : (s.took i).cardFeature 6 = s.cardFeature 6 := rfl
  refine ⟨fun pa n v ef sync hreq => ?_, fun acq ef pref sync hreq => ?_, fun op n pa o c dx reduce hreq hgo => ?_, fun op n pa o c hreq hno => ?_⟩
  · refine h.serves (u := (((s.took i).toHost r).placeBy (some r.core) pa n v).post (.done r.core r.line)) ?_ rfl (State.post_pkts ..)
    rw [serveHost, h.up_took, if_neg Bool.false_ne_true, hreq]
  · refine h.serves (u := ((s.took i).toHost r).post (.hostWait r 0)) ?_ rfl (State.post_pkts ..)
    rw [serveHost, h.up_took, if_neg Bool.false_ne_true, hreq]
  · have hpass : (!dx && !s.cardFeature 6) = false := by
      rcases hgo with hgo | hgo
      · rw [hgo]
        rfl
      · rw [hgo]
        exact Bool.and_false _
    refine h.serves (u := ((s.took i).toHost r).post (.hostWait r 0)) ?_ rfl (State.post_pkts ..)
    rw [serveHost, h.up_took, if_neg Bool.false_ne_true, hreq]
    dsimp only
    rw [hfeature, hpass, if_neg Bool.false_ne_true]
  · refine h.serves (u := (s.took i).post (.amoReply r.core r.line 0 (some (.access .hostAtomic)))) ?_ rfl (State.post_pkts ..)
    rw [serveHost, h.up_took, if_neg Bool.false_ne_true, hreq]
    dsimp only
    rw [hfeature, hno, Bool.not_false, Bool.and_self, if_pos rfl, State.refuse, hreq]
    rfl

/-- A request of a core at the bridge, with its link not in training. -/
structure PeerServes (s : State) (i : Nat) (r : MReq) : Prop where
  at_ : AtIndex s i (.req r)
  place : s.placeOf (r.line * 128) = .ok .peerHbm ∨ s.placeOf (r.line * 128) = .ok .peerScratch
  core : r.core < 512
  trained : s.link.retraining = false

theorem PeerServes.serves {s u : State} {i : Nat} {r : MReq} {m : Memory} {ps : List Pkt} (h : PeerServes s i r) (hu : servePeer (s.took i) r = u)
    (hm : u.mem = m) (hp : u.pkts = (s.took i).pkts ++ ps) : Serves (.peerAccess i) s i m ps fun _ => True := by
  have hserved : servePkt (s.took i) (.req r) = .used u := by
    rw [← hu]
    rcases h.place with hplace | hplace
    · exact serveReq_peer (s := s.took i) hplace rfl h.trained
    · exact serveReq_peer (s := s.took i) hplace rfl h.trained
  have his : Pkt.requestAt s Place.isPeer (fun _ => true) (.req r) = true := by
    rcases h.place with hplace | hplace
    · exact requestAt_place hplace rfl rfl
    · exact requestAt_place hplace rfl rfl
  exact serves_used h.at_ rfl his (fun _ _ _ _ _ _ _ _ => Pkt.noConfusion) hserved hm hp fun _ => trivial

theorem PeerServes.refuses {s : State} {i : Nat} {r : MReq} {k : AccessKind} (h : PeerServes s i r)
    (hu : servePeer (s.took i) r = (s.took i).refuse r (.access k)) : Refuses (.peerAccess i) s i r k :=
  refuses_of (t := s.took i) fun _ hp => h.serves (hu.trans hp) rfl (State.post_pkts ..)

theorem tagOf_core (s : State) {k : Nat} (h : k < 512) : s.tagOf k = (s.core k).tag := by
  have htraced : tracedCore k = none := by
    unfold tracedCore
    exact if_neg fun e => by
      have := (Bool.and_eq_true_iff.mp e).1
      have := of_decide_eq_true this
      omega
  have hask : askingCore k = k := by
    rw [askingCore, htraced]
    exact if_neg (by omega)
  rw [State.tagOf, hask, if_neg (by omega)]

theorem placeOf_sent (s : State) (line pa : Nat) : ({ s with link := s.link.sent line } : State).placeOf pa = s.placeOf pa := rfl

theorem servePeer_passes {s : State} {r : MReq} (hplace : s.placeOf (r.line * 128) = .ok .peerHbm ∨ s.placeOf (r.line * 128) = .ok .peerScratch)
    (hup : s.link.up = true) (hwin : windowPermits s.peerWindows.toList (s.tagOf r.core) (r.line * 128) r.req.windowKind = true) :
    servePeer s r = (servePort { s with link := s.link.sent r.line } r (Config.fresh s.tick [])).tock := by
  unfold servePeer
  rw [hup, hwin, Bool.not_true, if_neg Bool.false_ne_true, if_neg Bool.false_ne_true]
  dsimp only
  rw [placeOf_sent]
  rcases hplace with hplace | hplace
  · rw [hplace]
  · rw [hplace]

theorem PeerServes.all {s : State} {i : Nat} {r : MReq} (h : PeerServes s i r) (hreg : Regular r) :
    (s.link.up = true → windowPermits s.peerWindows.toList (s.core r.core).tag (r.line * 128) r.req.windowKind = true →
      Serves (.peerAccess i) s i (portResult s.mem r (Config.fresh s.tick [])).1 [(portResult s.mem r (Config.fresh s.tick [])).2] fun _ => True) ∧
    (s.link.up = true → windowPermits s.peerWindows.toList (s.core r.core).tag (r.line * 128) r.req.windowKind = false →
      Refuses (.peerAccess i) s i r .linkWindow) ∧
    (s.link.up = false → Refuses (.peerAccess i) s i r .linkAbsent) := by
  have htag : (s.took i).tagOf r.core = (s.core r.core).tag := tagOf_core (s.took i) h.core
  refine ⟨fun hup hwin => ?_, fun hup hwin => h.refuses ?_, fun hup => h.refuses ?_⟩
  · obtain ⟨hmem, hpkts⟩ := servePort_spec (s := { s.took i with link := s.link.sent r.line }) hreg (Config.fresh s.tick [])
    refine h.serves (u := (servePort { s.took i with link := s.link.sent r.line } r (Config.fresh s.tick [])).tock) ?_ hmem hpkts
    exact servePeer_passes (s := s.took i) h.place hup (htag.symm ▸ hwin)
  · rw [servePeer, show (s.took i).link.up = true from hup, htag, show (s.took i).peerWindows = s.peerWindows from rfl, hwin, Bool.not_true,
      if_neg Bool.false_ne_true, Bool.not_false, if_pos rfl]
  · rw [servePeer, show (s.took i).link.up = false from hup, Bool.not_false, if_pos rfl]

/-! ### Completions of the host (R29, R236) -/

theorem hostWait_moves {s : State} {f : InFlight} {r : MReq} {n : Nat} (h : f.pkt = .hostWait r n) :
    s.discards f = false ∧ s.travels f = false ∧ s.waitsBehind f = false := by
  refine ⟨?_, ?_, ?_⟩
  · unfold State.discards
    rw [h]
    exact Bool.and_false _
  · unfold State.travels State.inputHeld InFlight.dataHeld Pkt.homeLine Pkt.channel
    rw [h]
    exact Bool.and_false _
  · unfold State.waitsBehind
    rw [h]
    rfl

/-- A completion taken: the host's answer is used up. -/
theorem hostCompletion_serves {s u : State} {i n : Nat} {r : MReq} {a : HostReply} {m : Memory} {ps : List Pkt} (hat : AtIndex s i (.hostWait r n))
    (hu : completeHost (s.took i) r n a = u) (hm : u.mem = m) (hp : u.pkts = (s.took i).pkts ++ ps) :
    Serves (.hostCompletion i a) s i m ps fun _ => True := by
  obtain ⟨f, hx, hpkt, hd, ht, hq⟩ := hat
  have hserve : serveFlight ({ s with hostReplies := a :: s.hostReplies, net := s.net.eraseIdx i } : State) f = .used u := by
    unfold serveFlight
    rw [hpkt]
    exact congrArg Served.used hu
  have hat : serveAt { s with hostReplies := a :: s.hostReplies } i = some (u.inherit f) := by
    unfold serveAt
    rw [show ({ s with hostReplies := a :: s.hostReplies } : State).net[i]? = some f from hx]
    dsimp only
    obtain ⟨hd', ht', hw'⟩ := hostWait_moves (s := { s with hostReplies := a :: s.hostReplies }) hpkt
    have hq' : ({ s with hostReplies := a :: s.hostReplies } : State).queued i f = false := by
      unfold State.queued at hq ⊢
      rw [Bool.or_eq_false_iff] at hq ⊢
      exact ⟨hq.1, hw'⟩
    rw [hd', ht', hq', if_neg Bool.false_ne_true, if_neg Bool.false_ne_true, if_neg Bool.false_ne_true, hserve]
  obtain ⟨net, hnet⟩ := u.inherit_eq f
  refine ⟨u.inherit f, ?_, ?_, ?_, trivial⟩
  · show execHostCompletion i a s = _
    unfold execHostCompletion
    rw [hx]
    dsimp only
    rw [hpkt]
    dsimp only
    rw [hat]
    rfl
  · rw [hnet]
    exact hm
  · rw [State.inherit_pkts, hp]

theorem hostCompletion_all {s : State} {i n : Nat} {r : MReq} (hat : AtIndex s i (.hostWait r n)) (hreg : Regular r) :
    ((r.loops = false ∨ n ≠ 0) →
      Serves (.hostCompletion i .ok) s i (portResult s.mem r true).1 [(portResult s.mem r true).2] fun _ => True) ∧
    (r.loops = true → n = 0 → Serves (.hostCompletion i .ok) s i s.mem [.hostWait r 1] fun _ => True) ∧
    Refuses (.hostCompletion i .denied) s i r .hostDenied ∧ Refuses (.hostCompletion i .abort) s i r .hostAbort := by
  refine ⟨fun hgo => ?_, fun hloops hn => ?_, ?_, ?_⟩
  · obtain ⟨hmem, hpkts⟩ := servePort_spec (s := s.took i) hreg true
    refine hostCompletion_serves hat (u := servePort (s.took i) r true) ?_ hmem hpkts
    have hno : (r.loops && n == 0) = false := by
      rcases hgo with hgo | hgo
      · rw [hgo, Bool.false_and]
      · rw [beq_eq_false_iff_ne.mpr hgo, Bool.and_false]
    rw [completeHost, hno, if_neg Bool.false_ne_true]
  · refine hostCompletion_serves hat (u := (s.took i).post (.hostWait r 1)) ?_ rfl (State.post_pkts ..)
    rw [completeHost, hloops, hn]
    rfl
  · exact refuses_of (t := s.took i) fun p hp => hostCompletion_serves hat hp rfl (State.post_pkts ..)
  · exact refuses_of (t := s.took i) fun p hp => hostCompletion_serves hat hp rfl (State.post_pkts ..)

/-- Settles O51: a port, the host agent, the bridge and a completion each have their lemma above. -/
theorem portsHostAndPeerPerformRequests : Obligations.PortsHostAndPeerPerformRequests := by
  unfold Obligations.PortsHostAndPeerPerformRequests
  intro s i r
  refine ⟨fun hat hreg => ⟨fun cell hplace hdie => scratchpadPort_spec hat hreg hplace hdie,
    fun hplace hup hfree => HostServes.all ⟨hat, hplace, hup, hfree⟩, fun hplace hcore => ⟨fun hup htr hwin => ?_, fun hup htr hwin => ?_, fun hup htr => ?_⟩⟩,
    fun n hat hreg => hostCompletion_all hat hreg⟩
  · exact (PeerServes.all ⟨hat, hplace, hcore, htr⟩ hreg).1 hup hwin
  · exact (PeerServes.all ⟨hat, hplace, hcore, htr⟩ hreg).2.1 hup hwin
  · exact (PeerServes.all ⟨hat, hplace, hcore, htr⟩ hreg).2.2 hup

/-! ### Lines of a cache -/

theorem lineOf_dropLine (c : Core) (line : Nat) : (c.dropLine line).lineOf line = none := by
  refine List.find?_eq_none.mpr fun l hl => ?_
  simpa using (List.mem_filter.mp hl).2

theorem lineOf_mapLine {c : Core} {line : Nat} {l : CLine} {f : CLine → CLine} (hf : (f l).line = l.line) (h : c.lineOf line = some l) :
    (c.mapLine line f).lineOf line = some (f l) := by
  unfold Core.lineOf Core.mapLine at *
  have hl : (l.line == line) = true := List.find?_some (p := fun x : CLine => x.line == line) h
  dsimp only
  generalize c.cache = ls at h ⊢
  induction ls with
  | nil => exact absurd h (by simp)
  | cons x xs ih =>
    rw [List.map_cons]
    by_cases hx : (x.line == line) = true
    · obtain rfl : x = l := by simpa [List.find?_cons, hx] using h
      rw [if_pos hx]
      refine List.find?_cons_of_pos ?_
      rw [hf]
      exact hl
    · rw [if_neg hx, List.find?_cons_of_neg (p := fun x : CLine => x.line == line) hx]
      exact ih (by rwa [List.find?_cons_of_neg (p := fun x : CLine => x.line == line) hx] at h)

/-- The way a line takes is not that of its own older copy. -/
theorem hasWay_dropLine {c : Core} {line : Nat} (h : c.hasWay line = true) : (c.dropLine line).hasWay line = true := by
  unfold Core.hasWay Core.dropLine at *
  exact decide_eq_true (Nat.lt_of_le_of_lt (List.filter_sublist.filter _).length_le (of_decide_eq_true h))

theorem dropLine_cache (c : Core) (line : Nat) (cache : List CLine) : { c.dropLine line with cache := cache } = { c with cache := cache } := by
  unfold Core.dropLine
  dsimp only

/-- What an installed line changes of its core: the cache. -/
theorem install_core (s : State) (k : Nat) (l : CLine) : ∃ cache, (s.install k l).core k = { s.core k with cache := cache } := by
  have hset (cache : List CLine) : (s.setCore { s.core k with cache := cache }).core k = { s.core k with cache := cache } := by
    rw [State.core_setCore, if_pos (State.core_id s k).symm]
  unfold State.install
  dsimp only
  rw [dropLine_cache]
  split
  · exact ⟨_, hset _⟩
  · split
    · exact ⟨_, hset _⟩
    · next v _ =>
      rw [dropLine_cache, dropLine_cache]
      split
      · exact ⟨_, hset _⟩
      · exact ⟨_, hset _⟩

theorem install_mem (s : State) (k : Nat) (l : CLine) : (s.install k l).mem = s.mem := by
  unfold State.install
  dsimp only
  split
  · exact State.setCore_mem ..
  · split
    · exact State.setCore_mem ..
    · split
      · exact State.setCore_mem ..
      · exact State.setCore_mem ..

/-! ### Fills (R209, R213) -/

/-- A core after it has taken a fill it asked for. -/
def tookFill (c : Core) (fl : Fill) : Core := { c with fills := fl :: c.fills, asked := c.asked.filter (· != (fl.line, fl.acq)) }

theorem arriveFill_spec {s : State} {k line : Nat} {d : BitVec 1024} {tr acq fr slow : Bool} {f : Option LateFault} (hk : k < 1024)
    (hasked : (line, acq) ∈ (s.core k).asked) :
    (arriveFill s k line d tr acq false fr f slow).mem = s.mem ∧
    ((arriveFill s k line d tr acq false fr f slow).core k).fills = { line := line, acq := acq, data := d, fresh := fr, fault := f } :: (s.core k).fills ∧
    (f = none → tr = true → (s.core k).lineOf line = none → (s.core k).hasWay line = true →
      ((arriveFill s k line d tr acq false fr f slow).core k).lineOf line = some { line := line, st := .t, data := d, unread := 0 }) := by
  have hcontains : (s.core k).asked.contains (line, acq) = true := by simpa using hasked
  have hk' : (k == 1025) = false := beq_eq_false_iff_ne.mpr (by omega)
  have hcore : (s.setCore (tookFill (s.core k) { line := line, acq := acq, data := d, fresh := fr, fault := f })).core k =
      tookFill (s.core k) { line := line, acq := acq, data := d, fresh := fr, fault := f } := by
    rw [State.core_setCore, if_pos]
    exact (State.core_id s k).symm
  have hmem : (s.setCore (tookFill (s.core k) { line := line, acq := acq, data := d, fresh := fr, fault := f })).mem = s.mem := State.setCore_mem ..
  have hinst (l : CLine) : ((s.setCore (tookFill (s.core k) { line := line, acq := acq, data := d, fresh := fr, fault := f })).install k l).mem = s.mem ∧
      (((s.setCore (tookFill (s.core k) { line := line, acq := acq, data := d, fresh := fr, fault := f })).install k l).core k).fills =
        { line := line, acq := acq, data := d, fresh := fr, fault := f } :: (s.core k).fills := by
    obtain ⟨cache, h⟩ := install_core (s.setCore (tookFill (s.core k) { line := line, acq := acq, data := d, fresh := fr, fault := f })) k l
    rw [install_mem, hmem, h, hcore]
    exact ⟨rfl, rfl⟩
  have heq : arriveFill s k line d tr acq false fr f slow =
      let t := s.setCore (tookFill (s.core k) { line := line, acq := acq, data := d, fresh := fr, fault := f })
      if f.isSome || (match (s.core k).lineOf line with | some l => l.pinned | none => false) then t
      else if tr then t.install k { line := line, st := .t, data := d, unread := 0 }
      else if slow then t.onCore k fun c => if c.holdsU line then c.dropLine line else c
      else if (acq && !(tookFill (s.core k) { line := line, acq := acq, data := d, fresh := fr, fault := f }).holdsU line) || !mayHoldU t k line then t
      else t.install k { line := line, st := .u, data := d, unread := 0 } := by
    unfold arriveFill
    rw [if_neg (by omega), hk', if_neg Bool.false_ne_true, if_neg (by omega)]
    dsimp only
    rw [hcontains]
    rfl
  rw [heq]
  dsimp only
  generalize hpin : (match (s.core k).lineOf line with | some l => l.pinned | none => false) = pin
  refine ⟨?_, ?_, fun hf htr hline hway => ?_⟩
  · split
    · exact hmem
    · split
      · exact (hinst _).1
      · split
        · exact (State.onCore_mem ..).trans hmem
        · split
          · exact hmem
          · exact (hinst _).1
  · split
    · rw [hcore]
      rfl
    · split
      · exact (hinst _).2
      · split
        · rw [State.core_onCore_self, hcore]
          · split
            · rfl
            · rfl
          · rw [hcore]
            split
            · exact State.core_id s k
            · exact State.core_id s k
        · split
          · rw [hcore]
            rfl
          · exact (hinst _).2
  · have hno : (f.isSome || pin) = false := by
      rw [hf, ← hpin, hline]
      rfl
    rw [hno, if_neg Bool.false_ne_true, htr, if_pos rfl, install_way]
    · rw [State.core_setCore, if_pos]
      · exact List.find?_cons_of_pos (beq_self_eq_true _)
      · exact (State.core_id _ k).symm
    · rw [hcore]
      exact hasWay_dropLine hway

theorem fillArrival_spec {s : State} {i k line : Nat} {d : BitVec 1024} {tr acq fr : Bool} {f : Option LateFault}
    (hat : AtIndex s i (.fill k line d tr acq false fr f)) (hk : k < 1024) (hasked : (line, acq) ∈ (s.core k).asked) :
    ∃ u : State, exec (.fillArrival i) s = .next u.settle ∧ u.mem = s.mem ∧
      (u.core k).fills = { line := line, acq := acq, data := d, fresh := fr, fault := f } :: (s.core k).fills ∧
      (f = none → tr = true → s.placeOf (line * 128) = .ok .localHbm → (s.core k).lineOf line = none → (s.core k).hasWay line = true →
        (u.core k).lineOf line = some { line := line, st := .t, data := d, unread := 0 }) := by
  obtain ⟨g, slow, n, hexec⟩ := servePktIf_fill (is := fun p => match p with | .fill .. => true | _ => false) hat rfl
  obtain ⟨net, hnet⟩ := ({ arriveFill (s.took i) k line d tr acq false fr f slow with tick := n } : State).inherit_eq g
  obtain ⟨hmem, hfills, hline⟩ := arriveFill_spec (s := s.took i) (d := d) (tr := tr) (fr := fr) (slow := slow) (f := f) hk hasked
  refine ⟨_, hexec, ?_, ?_, ?_⟩
  · rw [hnet]
    exact hmem
  · rw [hnet]
    exact hfills
  · rw [hnet]
    exact fun hf htr _ hno hway => hline hf htr hno hway

/-! ### Packets of the protocol (R208 to R213, R218 to R220, R235, R446) -/

theorem setCore_pkts (s : State) (c : Core) : (s.setCore c).pkts = s.pkts := by
  unfold State.pkts
  rw [State.setCore_net]

theorem onCore_pkts (s : State) (k : Nat) (f : Core → Core) : (s.onCore k f).pkts = s.pkts := setCore_pkts ..

/-- A served packet whose result changes a core of the state and sends one packet. -/
theorem core_put (s : State) {c : Core} {k : Nat} (h : c.id = k) : (s.setCore c).core k = c := by
  rw [State.core_setCore, if_pos h.symm]

theorem update_spec {s : State} {i k line pa n v : Nat} {l : CLine} (hat : AtIndex s i (.update k line pa n v))
    (hcome : fillComing (s.took i) k line = false) (hl : (s.core k).lineOf line = some l) (ht : l.st = .t) :
    (l.unread < 3 → Serves (.sharerUpdate i) s i s.mem [.ack k line false] fun u =>
      (u.core k).lineOf line = some { l with st := .h, unread := l.unread + 1, data := lineSet l.data (pa % 128) n v }) ∧
    (3 ≤ l.unread → Serves (.sharerUpdate i) s i s.mem [.ack k line true] fun u => (u.core k).lineOf line = none) := by
  have hserve : servePkt (s.took i) (.update k line pa n v) = .used (arriveUpdate (s.took i) k line pa n v) := if_neg (by rw [hcome]; exact Bool.false_ne_true)
  have hst : (l.st == .t) = true := beq_iff_eq.mpr ht
  refine ⟨fun hfew => ?_, fun hmany => ?_⟩
  · have hup : arriveUpdate (s.took i) k line pa n v = ((s.took i).setCore ((s.core k).mapLine line fun l =>
        { l with st := .h, unread := l.unread + 1, data := lineSet l.data (pa % 128) n v })).post (.ack k line false) := by
      have hgo : (l.st == .t && decide (l.unread < 3)) = true := by rw [hst, decide_eq_true hfew]; rfl
      unfold arriveUpdate
      dsimp only
      rw [show ((s.took i).core k).lineOf line = some l from hl]
      dsimp only
      rw [if_pos hgo]
      rfl
    refine serves_used (is := fun p => match p with | .update .. => true | _ => false) hat rfl rfl (fun _ _ _ _ _ _ _ _ => Pkt.noConfusion) (hserve.trans (congrArg Served.used hup)) (State.setCore_mem ..) ?_ fun net => ?_
    · rw [State.post_pkts, setCore_pkts]
    · rw [core_net, State.core_post, core_put]
      · exact lineOf_mapLine (f := fun l => { l with st := .h, unread := l.unread + 1, data := lineSet l.data (pa % 128) n v }) rfl hl
      · exact State.core_id s k
  · have hup : arriveUpdate (s.took i) k line pa n v = ((s.took i).setCore ((s.core k).dropLine line)).post (.ack k line true) := by
      have hgo : (l.st == .t && decide (l.unread < 3)) = false := by rw [decide_eq_false (by omega), Bool.and_false]
      unfold arriveUpdate
      dsimp only
      rw [show ((s.took i).core k).lineOf line = some l from hl]
      dsimp only
      rw [hgo, if_neg Bool.false_ne_true, if_pos hst]
      rfl
    refine serves_used (is := fun p => match p with | .update .. => true | _ => false) hat rfl rfl (fun _ _ _ _ _ _ _ _ => Pkt.noConfusion) (hserve.trans (congrArg Served.used hup)) (State.setCore_mem ..) ?_ fun net => ?_
    · rw [State.post_pkts, setCore_pkts]
    · rw [core_net, State.core_post, core_put]
      · exact lineOf_dropLine ..
      · exact State.core_id s k

/-- The directory's line after an acknowledgement: the core leaves those awaited, and the sharers where it dropped the line. -/
def ackedLine (k : Nat) (drop : Bool) (d : DirLine) : DirLine :=
  { d with
    sharers := if drop then d.sharers.filter (· != k) else d.sharers
    round := d.round.map fun r => { r with waiting := r.waiting.filter (· != k) } }

theorem ackRound_eq (s : State) (k line : Nat) (drop : Bool) : s.ackRound k line drop =
    match (s.onDir line (ackedLine k drop)).dirOf line with
    | some d => (match d.round with
      | some r => if r.waiting.isEmpty then (s.onDir line (ackedLine k drop)).commitRound d r else s.onDir line (ackedLine k drop)
      | none => s.onDir line (ackedLine k drop))
    | none => s.onDir line (ackedLine k drop) := rfl

theorem ack_spec {s : State} {i k line : Nat} {drop : Bool} {d : DirLine} {r : Round} (hat : AtIndex s i (.ack k line drop)) (hd : s.dirOf line = some d)
    (hst : d.st = .n) (hr : d.round = some r) :
    (r.waiting.filter (· != k) = [] → r.n ≠ 0 →
      Serves (.updateAck i) s i (s.mem.writeN r.pa r.v r.n)
        ((if drop then d.sharers.filter (· != k) else d.sharers).map (fun c => .commit c line) ++ r.amo.toList.map (fun a => .amoReply a.1 line a.2 none) ++
          r.writer.toList.map fun w => .done w line)
        fun u => ∃ e, u.dirOf line = some e ∧ e.round = none ∧ e.sharers = if drop then d.sharers.filter (· != k) else d.sharers) ∧
    (r.waiting.filter (· != k) ≠ [] → Serves (.updateAck i) s i s.mem [] fun u =>
      ∃ e, u.dirOf line = some e ∧ e.round = some { r with waiting := r.waiting.filter (· != k) } ∧
        e.sharers = if drop then d.sharers.filter (· != k) else d.sharers) := by
  have hline : d.line = line := State.dirOf_line hd
  have hdir : ((s.took i).onDir line (ackedLine k drop)).dirOf line = some (ackedLine k drop d) := by
    rw [State.dirOf_onDir, if_pos rfl, State.dirOf_took, hd]
    · rfl
    · exact fun _ h => h
  have hround : (ackedLine k drop d).round = some { r with waiting := r.waiting.filter (· != k) } := by
    rw [ackedLine, hr]
    rfl
  have hserve : servePkt (s.took i) (.ack k line drop) = .used ((s.took i).ackRound k line drop) := rfl
  rw [ackRound_eq, hdir] at hserve
  dsimp only at hserve
  rw [hround] at hserve
  dsimp only at hserve
  refine ⟨fun hlast hn => ?_, fun hmore => ?_⟩
  · obtain ⟨hmem, hpkts, hdirOf⟩ := commitRound_spec ((s.took i).onDir line (ackedLine k drop)) (d := ackedLine k drop d) hst
      { r with waiting := r.waiting.filter (· != k) }
    have hn' : (r.n == 0) = false := beq_eq_false_iff_ne.mpr hn
    rw [if_pos (by rw [hlast]; rfl)] at hserve
    refine serves_used (is := fun p => match p with | .ack .. => true | _ => false) hat rfl rfl (fun _ _ _ _ _ _ _ _ => Pkt.noConfusion) hserve hmem ?_ fun net => ?_
    · rw [hpkts]
      dsimp only
      rw [hn', if_neg Bool.false_ne_true, ← hline, List.append_assoc, List.append_assoc, List.append_assoc]
      rfl
    · rw [show (ackedLine k drop d).line = line from hline, hdir] at hdirOf
      refine ⟨_, hdirOf, rfl, ?_⟩
      exact if_neg fun e => hn (beq_iff_eq.mp e)
  · rw [if_neg (by simpa using hmore)] at hserve
    refine serves_used (is := fun p => match p with | .ack .. => true | _ => false) hat rfl rfl (fun _ _ _ _ _ _ _ _ => Pkt.noConfusion) hserve rfl (List.append_nil _).symm fun net => ?_
    exact ⟨_, hdir, hround, rfl⟩

theorem commit_spec {s : State} {i k line : Nat} {l : CLine} (hat : AtIndex s i (.commit k line)) (hl : (s.core k).lineOf line = some l) (hh : l.st = .h) :
    Serves (.roundCommit i) s i s.mem [] fun u => (u.core k).lineOf line = some { l with st := .t, commit := some (s.core k).cycFrame } := by
  have hst : (l.st == .h) = true := beq_iff_eq.mpr hh
  refine serves_used (is := fun p => match p with | .commit .. => true | _ => false) hat rfl rfl (fun _ _ _ _ _ _ _ _ => Pkt.noConfusion) (u := (s.took i).onCore k fun c => c.mapLine line fun l =>
      let l := { l with commit := some c.cycFrame }
      if l.st == .h then { l with st := .t } else l) rfl (State.onCore_mem ..) ?_ fun net => ?_
  · rw [onCore_pkts, List.append_nil]
  · rw [core_net, State.core_onCore_self]
    · refine (lineOf_mapLine ?_ hl).trans ?_
      · dsimp only
        rw [hst]
        rfl
      · dsimp only
        rw [hst]
        rfl
    · exact State.core_id s k

theorem tracedCore_small {k : Nat} (h : k < 1088) : tracedCore k = none := by
  unfold tracedCore
  refine if_neg fun e => ?_
  have := of_decide_eq_true (Bool.and_eq_true_iff.mp e).1
  omega

theorem doneLine_spec (s : State) (k line : Nat) : (s.doneLine k line).mem = s.mem ∧ (s.doneLine k line).pkts = s.pkts ∧
    ((s.doneLine k line).core k).undone = (s.core k).undone.erase line ∧ ((s.doneLine k line).core k).asyncs = (s.core k).asyncs := by
  have hcore : (s.doneLine k line).core k = { s.core k with undone := (s.core k).undone.erase line, storePages := (s.core k).storePages.eraseP (·.1 == line) } :=
    State.core_onCore_self _ _ _ (State.core_id s k)
  rw [hcore]
  exact ⟨State.onCore_mem .., onCore_pkts .., rfl, rfl⟩

theorem done_spec {s : State} {i k line : Nat} (hat : AtIndex s i (.done k line)) (hk : k < 1024) :
    Serves (.storeDone i) s i s.mem [] fun u => (u.core k).undone = (s.core k).undone.erase line := by
  obtain ⟨hmem, hpkts, hundone, _⟩ := doneLine_spec (s.took i) k line
  have hserve : servePkt (s.took i) (.done k line) = .used ((s.took i).doneLine k line) := by
    show Served.used _ = _
    rw [tracedCore_small (by omega)]
    dsimp only
    rw [beq_eq_false_iff_ne.mpr (by omega : k ≠ 1025), if_neg Bool.false_ne_true, if_neg (by omega)]
  exact serves_used (is := fun p => match p with | .done .. => true | _ => false) hat rfl rfl (fun _ _ _ _ _ _ _ _ => Pkt.noConfusion) hserve hmem (by rw [hpkts, List.append_nil]) fun net => hundone

theorem evict_spec {s : State} {i k line : Nat} {d : DirLine} (hat : AtIndex s i (.evict k line)) (hd : s.dirOf line = some d) :
    Serves (.evictionNotice i) s i s.mem [] fun u => u.dirOf line = some { d with sharers := d.sharers.filter (· != k) } := by
  refine serves_used (is := fun p => match p with | .evict .. => true | _ => false) hat rfl rfl (fun _ _ _ _ _ _ _ _ => Pkt.noConfusion) (u := (s.took i).onDir line fun d => { d with sharers := d.sharers.filter (· != k) })
    rfl rfl (List.append_nil _).symm fun net => ?_
  rw [dirOf_net, State.dirOf_onDir, if_pos rfl, State.dirOf_took, hd]
  · rfl
  · exact fun _ h => h

theorem recall_spec {s : State} {i k line : Nat} (hat : AtIndex s i (.recall k line)) (hcome : fillComing (s.took i) k line = false)
    (hpin : ∀ l, (s.core k).lineOf line = some l → l.pinned = false) :
    Serves (.recall i) s i s.mem [.ack k line true] fun u => (u.core k).lineOf line = none := by
  have hserve : ∃ c : Core, servePkt (s.took i) (.recall k line) = .used (((s.took i).setCore c).post (.ack k line true)) ∧ c.id = k ∧ c.lineOf line = none := by
    have hgo : servePkt (s.took i) (.recall k line) = .used (((s.took i).setCore (match (s.core k).lineOf line with
        | some l => if l.pinned then s.core k else (s.core k).dropLine line
        | none => s.core k)).post (.ack k line true)) := if_neg (by rw [hcome]; exact Bool.false_ne_true)
    refine ⟨_, hgo, ?_⟩
    split
    · next l hl =>
      rw [hpin l hl, if_neg Bool.false_ne_true]
      exact ⟨State.core_id s k, lineOf_dropLine ..⟩
    · next hl => exact ⟨State.core_id s k, hl⟩
  obtain ⟨c, hserve, hid, hnone⟩ := hserve
  refine serves_used (is := fun p => match p with | .recall .. => true | _ => false) hat rfl rfl (fun _ _ _ _ _ _ _ _ => Pkt.noConfusion) hserve (State.setCore_mem ..) ?_ fun net => ?_
  · rw [State.post_pkts, setCore_pkts]
  · rw [core_net, State.core_post, core_put _ hid]
    exact hnone

theorem grecall_spec {s : State} {i k line : Nat} {l : CLine} {kind : GatherKind} (hat : AtIndex s i (.grecall k line)) (hl : (s.core k).lineOf line = some l)
    (hg : l.st = .g kind) : Serves (.gRecall i) s i s.mem [.gcopy k line kind l.data] fun u => (u.core k).lineOf line = none := by
  have hserve : servePkt (s.took i) (.grecall k line) = .used (((s.took i).setCore ((s.core k).dropLine line)).post (.gcopy k line kind l.data)) := by
    unfold servePkt
    dsimp only
    rw [show ((s.took i).core k).lineOf line = some l from hl]
    dsimp only
    rw [hg]
    rfl
  refine serves_used (is := fun p => match p with | .grecall .. => true | _ => false) hat rfl rfl (fun _ _ _ _ _ _ _ _ => Pkt.noConfusion) hserve (State.setCore_mem ..) ?_ fun net => ?_
  · rw [State.post_pkts, setCore_pkts]
  · rw [core_net, State.core_post, core_put]
    · exact lineOf_dropLine ..
    · exact State.core_id s k

theorem logCombine_off {s : State} {line : Nat} (h : Unlogged s line) (home : Nat) (counts : List (Nat × Nat)) : s.logCombine home line counts = some s := by
  unfold State.logCombine
  split
  · rfl
  · next p hp =>
    rw [h p hp]
    rfl

theorem way_spec {s : State} {i k line : Nat} {d : DirLine} {gs : List Nat} (hat : AtIndex s i (.way k line)) (hlog : Unlogged s line)
    (hd : s.dirOf line = some d) (hst : d.st = .g gs false) :
    Serves (.wayRequest i) s i s.mem (gs.map fun c => .grecall c line) fun u => ∃ e, u.dirOf line = some e ∧ e.st = .g gs true := by
  have hserve : servePkt (s.took i) (.way k line) = .used (((s.took i).onDir line fun d => { d with st := .g gs true }).postAll (gs.map fun k => .grecall k line)) := by
    unfold servePkt
    dsimp only
    rw [State.dirOf_took, hd]
    dsimp only
    rw [hst]
    dsimp only
    unfold State.recallG
    rw [logCombine_off (s := s.took i) hlog]
    rfl
  refine serves_used (is := fun p => match p with | .way .. => true | _ => false) hat rfl rfl (fun _ _ _ _ _ _ _ _ => Pkt.noConfusion) hserve (State.postAll_mem ..) (State.postAll_pkts ..) fun net => ?_
  rw [dirOf_net, State.dirOf_postAll, State.dirOf_onDir, if_pos rfl, State.dirOf_took, hd]
  · exact ⟨_, rfl, rfl⟩
  · exact fun _ h => h

/-- What an AMO's reply makes of the AMO that waits (R235). -/
def repliedPend (f : Option LateFault) (old : Nat) (p : Pending) : Pending :=
  match f, p with
  | some f, .sent _ => .fault f
  | none, .sent pa => .reply pa (BitVec.ofNat 64 old)
  | _, p => p

theorem amoReply_served {s : State} {k : Nat} (hk : k < 1024) (line old : Nat) (f : Option LateFault) :
    servePkt s (.amoReply k line old f) = .used (s.onCore k fun c => { c with pend := repliedPend f old c.pend }) := by
  have hpeer : (k == 1025) = false := beq_eq_false_iff_ne.mpr (by omega)
  unfold servePkt
  dsimp only
  rw [hpeer, if_neg Bool.false_ne_true, if_neg (by omega)]
  rfl

theorem amoReply_spec {s : State} {i k line old : Nat} (f : Option LateFault) {pa : Nat} (hat : AtIndex s i (.amoReply k line old f)) (hk : k < 1024)
    (hp : (s.core k).pend = .sent pa) :
    Serves (.amoReply i) s i s.mem [] fun u => (u.core k).pend = repliedPend f old (.sent pa) := by
  refine serves_used (is := fun p => match p with | .amoReply .. => true | _ => false) hat rfl rfl (fun _ _ _ _ _ _ _ _ => Pkt.noConfusion) (amoReply_served hk line old f) (State.onCore_mem ..)
    (by rw [onCore_pkts, List.append_nil]) fun net => ?_
  rw [core_net, State.core_onCore_self]
  · exact congrArg (repliedPend f old) hp
  · exact State.core_id s k

theorem refusal_spec {s : State} {i k pa : Nat} (hat : AtIndex s i (.refusal k pa)) (hk : k < 512) :
    Serves (.postedRefusal i) s i s.mem [] fun u =>
      (u.core k).asyncs = (s.core k).asyncs ++ [.posted pa] ∧ (u.core k).undone = (s.core k).undone.erase (pa / 128) := by
  obtain ⟨hmem, hpkts, hundone, hasyncs⟩ := doneLine_spec
    { s.took i with poisonDue := (s.took i).poisonDue.filter fun p => !(p.1 == k && p.2 / 16 == pa / 128) } k (pa / 128)
  generalize hu : State.doneLine _ k (pa / 128) = u at hmem hpkts hundone hasyncs
  obtain ⟨pads, tick, out, hlog⟩ := (u.onCore k fun c => { c with asyncs := c.asyncs ++ [.posted pa] }).logCore_eq k 9 0 pa
  have hserve : servePkt (s.took i) (.refusal k pa) = .used ((u.onCore k fun c => { c with asyncs := c.asyncs ++ [.posted pa] }).logCore k 9 0 pa) := by
    have hpeer : (k == 1025) = false := beq_eq_false_iff_ne.mpr (by omega)
    unfold servePkt
    dsimp only
    rw [if_neg (by omega), hpeer, if_neg Bool.false_ne_true, if_neg (by omega), ← hu]
  rw [hlog] at hserve
  refine serves_used (is := fun p => match p with | .refusal .. => true | _ => false) hat rfl rfl (fun _ _ _ _ _ _ _ _ => Pkt.noConfusion) hserve ((State.onCore_mem ..).trans hmem) ?_ fun net => ?_
  · exact ((onCore_pkts ..).trans hpkts).trans (List.append_nil _).symm
  · have hcore : (u.onCore k fun c => { c with asyncs := c.asyncs ++ [.posted pa] }).core k = { u.core k with asyncs := (u.core k).asyncs ++ [.posted pa] } :=
      State.core_onCore_self _ _ _ (State.core_id u k)
    refine ⟨(congrArg Core.asyncs hcore).trans ?_, (congrArg Core.undone hcore).trans hundone⟩
    exact congrArg (· ++ [Async.posted pa]) hasyncs

/-! ### Gathered copies (R219) -/

theorem combineFrom_none {s : State} {line : Nat} (h : ∀ f ∈ s.net, ∀ c kd y, f.pkt ≠ .gcopy c line kd y) (d : BitVec 1024) (k : Nat) :
    combineFrom s line d k = d := by
  unfold combineFrom
  generalize s.net = fs at h ⊢
  induction fs with
  | nil => rfl
  | cons f fs ih =>
    rw [List.foldl_cons]
    have hstep : (match f.pkt with | .gcopy c l kind x => if c == k && l == line then combineLine kind d x else d | _ => d) = d := by
      split
      · next c l kind x hp =>
        refine if_neg fun e => ?_
        have hl : l = line := beq_iff_eq.mp (Bool.and_eq_true_iff.mp e).2
        exact h f List.mem_cons_self c kind x (hl ▸ hp)
      · rfl
    exact (congrArg (fun d => List.foldl _ d fs) hstep).trans (ih fun g hg => h g (List.mem_cons_of_mem _ hg))

theorem combineFrom_post {s : State} {line : Nat} (h : ∀ f ∈ s.net, ∀ c kd y, f.pkt ≠ .gcopy c line kd y) (d x : BitVec 1024) (k : Nat) (kind : GatherKind) :
    combineFrom (s.post (.gcopy k line kind x)) line d k = combineLine kind d x := by
  have hsplit : combineFrom (s.post (.gcopy k line kind x)) line d k =
      if k == k && line == line then combineLine kind (combineFrom s line d k) x else combineFrom s line d k := List.foldl_append ..
  rw [hsplit, combineFrom_none h, if_pos (by simp)]

theorem copiesIn_post (s : State) (k line : Nat) (kind : GatherKind) (x : BitVec 1024) : copiesIn (s.post (.gcopy k line kind x)) line [k] = true := by
  have hlast : (s.post (.gcopy k line kind x)).net = s.net ++ [flightOf s.stamp (.gcopy k line kind x)] := rfl
  unfold copiesIn
  rw [hlast, List.all_cons, List.all_nil, Bool.and_true, List.any_append]
  simp [flightOf]

theorem range_one {k : Nat} (hk : k < 512) : (List.range 512).filter [k].contains = [k] := by
  have hp : ([k].contains : Nat → Bool) = (· == k) := by
    funext x
    rw [List.contains_cons, List.contains_nil, Bool.or_false]
  rw [hp, List.filter_beq, List.count_range, if_pos hk]
  rfl

theorem gcopy_spec {s : State} {i k line : Nat} {kind : GatherKind} {x : BitVec 1024} {d : DirLine} {b : Bool} (hat : AtIndex s i (.gcopy k line kind x))
    (hd : s.dirOf line = some d) (hst : d.st = .g [k] b) (hk : k < 512) (hno : ∀ f ∈ (s.took i).net, ∀ c kd y, f.pkt ≠ .gcopy c line kd y) :
    Serves (.gatheredCopy i) s i (s.mem.writeN (line * 128) (combineLine kind (s.mem.line line) x).toNat 128) [] fun u =>
      ∃ e, u.dirOf line = some e ∧ e.st = .n ∧ e.sharers = [] := by
  have hserve : servePkt (s.took i) (.gcopy k line kind x) = .used (((s.took i).post (.gcopy k line kind x)).combine line [k]) := by
    unfold servePkt
    dsimp only
    rw [State.dirOf_took, hd]
    dsimp only
    rw [hst]
    dsimp only
    rw [copiesIn_post, if_pos rfl]
  refine serves_used (is := fun p => match p with | .gcopy .. => true | _ => false) hat rfl rfl (fun _ _ _ _ _ _ _ _ => Pkt.noConfusion) hserve ?_ ?_ fun net => ?_
  · unfold State.combine
    dsimp only
    rw [range_one hk, List.foldl_cons, List.foldl_nil, combineFrom_post hno]
    rfl
  · have hkeep : (s.took i).net.filter (fun f => match f.pkt with | .gcopy _ l _ _ => l != line | _ => true) = (s.took i).net := by
      refine List.filter_eq_self.mpr fun f hf => ?_
      split
      · next c l kd y hp => exact bne_iff_ne.mpr fun e => hno f hf c kd y (e ▸ hp)
      · rfl
    have hnet : (((s.took i).post (.gcopy k line kind x)).combine line [k]).net = (s.took i).net := by
      show ((s.took i).net ++ [flightOf s.stamp (.gcopy k line kind x)]).filter (fun f => match f.pkt with | .gcopy _ l _ _ => l != line | _ => true) = _
      rw [List.filter_append, hkeep]
      simp [flightOf]
    rw [State.pkts, hnet, List.append_nil]
    rfl
  · have hdir : (((s.took i).post (.gcopy k line kind x)).combine line [k]).dirOf line =
        (((s.took i).post (.gcopy k line kind x)).onDir line fun d => { d with st := .n, sharers := [], dirty := true }).dirOf line := rfl
    rw [dirOf_net, hdir, State.dirOf_onDir, if_pos rfl, State.dirOf_post, State.dirOf_took, hd]
    · exact ⟨_, rfl, rfl, rfl⟩
    · exact fun _ h => h

/-- Settles O52: each packet's clause is its own lemma above. -/
theorem packetsActWhereTheyArrive : Obligations.PacketsActWhereTheyArrive := by
  unfold Obligations.PacketsActWhereTheyArrive
  intro s i k line
  exact ⟨fun d tr acq fr f hat hk => fillArrival_spec hat hk, fun pa n v l hat => update_spec hat, fun drop d r hat => ack_spec hat, fun l => commit_spec,
    done_spec, fun d => evict_spec, recall_spec, fun l kind hat _ => grecall_spec hat, fun kind x d b => gcopy_spec, fun d gs => way_spec,
    fun old pa hk hp => ⟨fun hat => amoReply_spec none hat hk hp, fun f hat => amoReply_spec (some f) hat hk hp⟩, fun pa => refusal_spec⟩

/-! ### What comes due without a packet (R13, R23, R216, R224, R228) -/

theorem markTableClear_spec (s : State) (k : Nat) : ∃ t : State, exec (.markTableClear k) s = .next t ∧ (t.core k).marks = [] ∧ t.mem = s.mem ∧ t.net = s.net := by
  refine ⟨_, rfl, ?_, State.onCore_mem .., State.setCore_net ..⟩
  rw [State.core_onCore_self _ _ _ (State.core_id s k)]

theorem uLineAgeExpiry_spec {s : State} {k line : Nat} (h : (s.core k).holdsU line = true) :
    ∃ t : State, exec (.uLineAgeExpiry k line) s = .next t ∧ (t.core k).cache = (s.core k).cache.filter (·.line != line) ∧ t.mem = s.mem := by
  refine ⟨s.onCore k (·.dropLine line), ?_, ?_, State.onCore_mem ..⟩
  · show execULineAgeExpiry k line s = _
    rw [execULineAgeExpiry, if_pos h]
  · rw [State.core_onCore_self]
    · rfl
    · exact State.core_id s k

theorem core_mapped (s : State) (f : Core → Core) (hid : ∀ c, (f c).id = c.id) (hreset : ∀ k, f (resetCore k) = resetCore k) (net : List InFlight) (k : Nat) :
    ({ s with me := f s.me, cores := s.cores.map f, net := net } : State).core k = f (s.core k) := by
  show (if (f s.me).id == k then f s.me else findCore (s.cores.map f) k) = f (if s.me.id == k then s.me else findCore s.cores k)
  rw [hid, findCore_mapped f hid hreset]
  split
  · rfl
  · rfl

/-- The core whose frame turns: its carry has moved, its CYC counts one frame more. -/
def framed (c : Core) : Core := { c.shiftCarry with cycFrame := (c.cycFrame + 1) % 2 ^ 52 }

theorem shiftCarry_carry (c : Core) :
    c.shiftCarry.carry[0] = 0 ∧ c.shiftCarry.carry[1] = c.carry[0] ∧ c.shiftCarry.carry[2] = c.carry[1] ∧ c.shiftCarry.carry[3] = c.carry[2] := by
  unfold Core.shiftCarry
  simp

theorem ageLines_fields (c : Core) (k : Nat) : (c.ageLines k).carry = c.carry ∧ (c.ageLines k).cycFrame = c.cycFrame ∧ (c.ageLines k).brand = c.brand :=
  ⟨rfl, rfl, rfl⟩

theorem framed_aged (c : Core) (k : Nat) : ((framed c).ageLines k).carry = c.shiftCarry.carry ∧
    ((framed c).ageLines k).cycFrame = (c.cycFrame + 1) % 2 ^ 52 ∧ ((framed c).ageLines k).brand = c.brand := by
  obtain ⟨hcarry, hcyc, hbrand⟩ := ageLines_fields (framed c) k
  rw [hcarry, hcyc, hbrand]
  unfold framed
  exact ⟨rfl, rfl, rfl⟩

theorem carryFrameShift_spec (s : State) (k : Nat) : ∃ t : State, exec (.carryFrameShift k) s = .next t ∧ (t.core k).carry[0] = 0 ∧
    (t.core k).carry[1] = (s.core k).carry[0] ∧ (t.core k).carry[2] = (s.core k).carry[1] ∧ (t.core k).carry[3] = (s.core k).carry[2] ∧
    (t.core k).cycFrame = ((s.core k).cycFrame + 1) % 2 ^ 52 ∧ (t.core k).brand = (s.core k).brand ∧ t.mem = s.mem := by
  have hcore : (s.onCore k framed).core k = framed (s.core k) := State.core_onCore_self _ _ _ (State.core_id s k)
  have hexec : exec (.carryFrameShift k) s = .next { s.onCore k framed with
      me := (s.onCore k framed).me.ageLines k
      cores := (s.onCore k framed).cores.map (·.ageLines k)
      net := (s.onCore k framed).net.map fun (f : InFlight) => if f.pkt.mayInstall then { f with ages := bumpAge k f.ages } else f } := rfl
  refine ⟨_, hexec, ?_⟩
  rw [core_mapped (s.onCore k framed) (·.ageLines k) (fun _ => rfl) (fun _ => rfl), hcore]
  obtain ⟨hcarry, hcyc, hbrand⟩ := framed_aged (s.core k) k
  rw [hcarry, hcyc, hbrand]
  obtain ⟨h0, h1, h2, h3⟩ := shiftCarry_carry (s.core k)
  exact ⟨h0, h1, h2, h3, rfl, rfl, State.onCore_mem ..⟩

theorem onFlight_at {s : State} {i : Nat} {f : InFlight} (h : s.net[i]? = some f) (g : InFlight → InFlight) :
    s.onFlight i g = { s with net := s.net.set i (g f) } := by
  unfold State.onFlight
  rw [h]

theorem requestPromotion_spec {s : State} {i : Nat} {f : InFlight} (h : s.net[i]? = some f) {r : MReq} (hp : f.pkt = .req r)
    (hplace : s.placeOf (r.line * 128) = .ok .localHbm) (ht : s.travels f = false) :
    exec (.requestPromotion i) s = .next { s with net := s.net.set i { f with promoted := true } } := by
  have hgo : (Pkt.requestAt s Place.isHome (fun _ => true) f.pkt && !s.travels f) = true := by
    rw [hp, requestAt_place hplace rfl rfl, ht]
    rfl
  show execRequestPromotion i s = _
  rw [execRequestPromotion, onFlight_at h, if_pos hgo]

theorem escapeChannelMove_spec {s : State} {i : Nat} {f : InFlight} (h : s.net[i]? = some f) {c l : Nat} {d : BitVec 1024} {tr acq pref fr : Bool}
    {e : Option LateFault} (hp : f.pkt = .fill c l d tr acq pref fr e) (hst : f.stage = .transit) :
    exec (.escapeChannelMove i) s = .next { s with net := s.net.set i { f with escape := true } } := by
  have hgo : (f.stage == .transit && f.pkt.onData s) = true := by
    rw [hst, hp]
    rfl
  show execEscapeChannelMove i s = _
  rw [execEscapeChannelMove, onFlight_at h, if_pos hgo]

theorem sharedPointPromotion_spec {s : State} {i : Nat} {f : InFlight} (h : s.net[i]? = some f) :
    exec (.sharedPointPromotion i) s = .next { s with net := s.net.set i { f with promoted := true } } := by
  show execSharedPointPromotion i s = _
  rw [execSharedPointPromotion, onFlight_at h]

/-! ### A read that waits too long (R307) -/

theorem sendNi_lazy {s : State} (h : s.lazy = true) (p : NiPkt) : s.sendNi p = s.postNi p := State.settleNi_lazy h

theorem tell_lazy {s : State} (h : s.lazy = true) (k : Nat) (m : Msg) : (s.tell k m).lazy = true ∧ (s.tell k m).mem = s.mem ∧ (s.tell k m).net = s.net := by
  unfold State.tell
  dsimp only
  split
  · rw [sendNi_lazy h]
    exact ⟨h, rfl, rfl⟩
  · rw [sendNi_lazy h]
    exact ⟨h, rfl, rfl⟩

/-- OVERDUE is sent to the lock's holder alone: no byte and no packet of memory traffic is touched. -/
theorem overdue_lazy {s : State} (h : s.lazy = true) (line core : Nat) : 
    (s.overdue line core).lazy = true ∧ (s.overdue line core).mem = s.mem ∧ (s.overdue line core).net = s.net := by
  unfold State.overdue
  split
  · exact ⟨h, rfl, rfl⟩
  · dsimp only
    split
    · split
      · split
        · rw [sendNi_lazy]
          · exact ⟨h, rfl, rfl⟩
          · exact h
        · exact ⟨h, rfl, rfl⟩
      · split
        · exact tell_lazy (s := { s with overdues := (line, s.homeFrame line) :: s.overdues.filter (·.1 != line) }.tock) h _ _
        · exact ⟨h, rfl, rfl⟩
    · exact ⟨h, rfl, rfl⟩

theorem accessLockTimeout_spec {s : State} {i : Nat} {f : InFlight} (hx : s.net[i]? = some f) {r : MReq} {acq ef sync : Bool} {d : DirLine} {h : Waiter}
    (hp : f.pkt = .req r) (hreq : r.req = .read acq ef false sync) (hcore : r.core < 1024) (hl : s.lazy = true)
    (hplace : s.placeOf (r.line * 128) = .ok .localHbm) (ht : s.travels f = false) (hd : s.dirOf r.line = some d) (hr : d.round = none)
    (hk : s.kOf r.line = some (some h, some h, false, none, false)) (hne : h.core ≠ r.core) (hrun : (s.core h.core).run ≠ .debugHalted) :
    ∃ t : State, exec (.accessLockTimeout i) s = .next t ∧ t.mem = s.mem ∧
      t.pkts = (s.took i).pkts ++ [.fill r.core r.line 0 false acq false false (some (.access .lockTimeout))] := by
  have hdebug : holderInDebug s r.line = false := by
    unfold holderInDebug
    rw [hk]
    exact beq_eq_false_iff_ne.mpr hrun
  have hwait : waitsLong s r = true := by
    have hne' : ((some h : Option Waiter).map (·.core) == some r.core) = false := by simpa using hne
    unfold waitsLong waitsOnK
    rw [hd]
    dsimp only
    rw [hk, hr]
    dsimp only
    rw [hne', hdebug]
    rfl
  have hgo : s.accessTimeout i = some (((s.took i).post (.fill r.core r.line 0 false acq false false (some (.access .lockTimeout)))).overdue r.line r.core) := by
    unfold State.accessTimeout
    rw [hx]
    dsimp only
    rw [hp]
    dsimp only
    rw [ht, hplace, hwait, hreq]
    dsimp only
    rw [if_pos hcore, State.refuse, hreq]
    rfl
  obtain ⟨hlazy, hmem, hnet⟩ := overdue_lazy (s := (s.took i).post (.fill r.core r.line 0 false acq false false (some (.access .lockTimeout)))) hl r.line r.core
  refine ⟨_, ?_, hmem, ?_⟩
  · show served s ((s.accessTimeout i).map (·.settle)) = _
    rw [hgo, Option.map_some, State.settle_lazy hlazy]
    rfl
  · rw [State.pkts, hnet]
    exact State.post_pkts ..

/-! ### Asynchronous traps (R387, R397, R399, R446) -/

theorem takeAsync_spec {s : State} (a : Async) : (s.takeAsync a).me.asyncs = s.me.asyncs.erase a ∧ Trapped (a.trap s.me) s.me.pc s (s.takeAsync a) ∧
    (s.takeAsync a).me.id = s.me.id := by
  have htrap : Trapped (a.trap s.me) s.me.pc (s.onMe fun c => { c with asyncs := c.asyncs.erase a }) (s.takeAsync a) :=
    State.takeTrap_trapped (.inr rfl) ..
  have hkeep : Frame {} s (s.onMe fun c => { c with asyncs := c.asyncs.erase a }) :=
    Frame.of_me ⟨fun _ _ => rfl, fun _ _ => rfl, fun _ _ => rfl, fun _ _ => rfl, fun _ _ => rfl, fun _ _ => rfl, fun _ => rfl, fun _ => rfl,
      fun _ => ⟨rfl, rfl, rfl⟩, fun _ => ⟨rfl, rfl, rfl, rfl, rfl⟩, fun _ => ⟨rfl, rfl, rfl⟩, rfl, rfl, rfl⟩ rfl rfl rfl
  refine ⟨?_, ⟨htrap.epc, htrap.ecause, htrap.eva, htrap.erow, htrap.inTrap, htrap.plv, htrap.level, htrap.pc, htrap.res, hkeep.trans htrap.frame⟩, htrap.frame.id⟩
  obtain ⟨trc, n, htrc⟩ := (s.onMe fun c => { c with asyncs := c.asyncs.erase a }).emitTrap_me (a.trap s.me)
  unfold State.takeAsync
  rw [State.takeTrap_eq (.inr rfl), htrc]
  obtain ⟨poison, hp⟩ := ({ (s.onMe fun c => { c with asyncs := c.asyncs.erase a }).me with trc := trc } : Core).squash.cleanSys_eq [5, 6, 7, 8]
  dsimp only
  rw [Core.enterTrap, hp]
  rfl

theorem takeDue_spec {s : State} {a : Async} {is : Async → Bool} (hrun : s.me.run = .running) (hdue : dueAsync s.me = some a) (his : is a = true) :
    s.takeDue s.me.id is = some (s.takeAsync a) := by
  obtain ⟨_, _, hid⟩ := takeAsync_spec (s := s) a
  have hrun' : (s.me.run == .running) = true := beq_iff_eq.mpr hrun
  unfold State.takeDue State.onTurnOf
  rw [State.core_me, hrun', if_pos rfl, switchTo_self]
  dsimp only
  rw [hdue]
  dsimp only
  rw [his, if_pos rfl, Option.map_some]
  have hself := switchTo_self (s.takeAsync a)
  rw [hid] at hself
  rw [hself]

/-- Settles O53: each timer and each asynchronous trap has its lemma above. -/
theorem dueEventsHappen : Obligations.DueEventsHappen := by
  unfold Obligations.DueEventsHappen
  intro s i k line f
  refine ⟨markTableClear_spec s k, uLineAgeExpiry_spec, carryFrameShift_spec s k, fun hx => ⟨fun r => requestPromotion_spec hx,
    fun c l d tr acq pref fr e => escapeChannelMove_spec hx, sharedPointPromotion_spec hx, fun r acq ef sync d h => accessLockTimeout_spec hx⟩,
    fun a hrun _ hdue => ⟨fun pa ha => ?_, fun l lost ha => ?_, fun ha => ?_⟩⟩
  · subst ha
    obtain ⟨has, htr, _⟩ := takeAsync_spec (s := s) (.posted pa)
    exact ⟨_, congrArg (served s) (takeDue_spec (is := fun a => match a with | .posted _ => true | _ => false) hrun hdue rfl), has, htr⟩
  · subst ha
    obtain ⟨has, htr, _⟩ := takeAsync_spec (s := s) (.fenceOff l lost)
    exact ⟨_, congrArg (served s) (takeDue_spec (is := fun a => match a with | .fenceOff .. => true | _ => false) hrun hdue rfl), has, htr⟩
  · subst ha
    obtain ⟨has, htr, _⟩ := takeAsync_spec (s := s) .overflow
    exact ⟨_, _, congrArg (served s) (takeDue_spec (is := fun a => match a with | .overflow => true | _ => false) hrun hdue rfl), has, rfl, htr⟩

/-! ### Copies (R191, R252 to R254) -/

theorem jobOf_id {s : State} {id : Nat} {j : Job} (h : s.jobOf id = some j) : j.id = id := beq_iff_eq.mp (List.find?_some (p := fun j : Job => j.id == id) h)

theorem jobOf_map {js : List Job} {id : Nat} {j : Job} {f : Job → Job} (hf : ∀ j, (f j).id = j.id) (h : js.find? (·.id == id) = some j) :
    (js.map fun (j : Job) => if j.id == id then f j else j).find? (·.id == id) = some (f j) := by
  rw [List.find?_map]
  have hp : ((fun j : Job => j.id == id) ∘ fun (j : Job) => if j.id == id then f j else j) = fun j => j.id == id := by
    funext x
    show ((if x.id == id then f x else x).id == id) = _
    split
    · rw [hf]
    · rfl
  rw [hp, h, Option.map_some]
  have hj : (j.id == id) = true := List.find?_some (p := fun j : Job => j.id == id) h
  rw [if_pos hj]

theorem jobOf_onJob {s : State} {id : Nat} {j : Job} {f : Job → Job} (hf : ∀ j, (f j).id = j.id) (h : s.jobOf id = some j) :
    (s.onJob id f).jobOf id = some (f j) := jobOf_map hf h

theorem lineMarked_spec {s : State} {id : Nat} {j : Job} (rest : List Nat) (h : s.jobOf id = some j) :
    (s.lineMarked j rest).mem = s.mem ∧ (s.lineMarked j rest).dir = s.dir ∧ (s.lineMarked j rest).jobOf id = some { j with unmarked := rest } ∧
    ((s.lineMarked j rest).core j.core).others = (s.core j.core).others - (if rest = [] then 1 else 0) := by
  have hjob : (s.onJob j.id fun (k : Job) => { k with unmarked := rest }).jobOf id = some { j with unmarked := rest } := by
    obtain rfl := jobOf_id h
    exact jobOf_onJob (f := fun k => { k with unmarked := rest }) (fun _ => rfl) h
  unfold State.lineMarked
  dsimp only
  split
  · next he =>
    rw [if_pos (List.isEmpty_iff.mp he)]
    refine ⟨State.onCore_mem .., State.setCore_dir .., ?_, ?_⟩
    · exact (congrArg (List.find? fun k : Job => k.id == id) (State.setCore_jobs ..)).trans hjob
    · rw [State.core_onCore_self]
      · rfl
      · exact State.core_id ..
  · next he =>
    rw [if_neg fun e => he (List.isEmpty_iff.mpr e)]
    exact ⟨rfl, rfl, hjob, rfl⟩

theorem copyMark_spec {s : State} {id : Nat} {j : Job} {line : Nat} {rest : List Nat} {d : DirLine} (hj : s.jobOf id = some j)
    (hun : j.unmarked = line :: rest) (hafter : line ∉ j.after) (hset : setBlocked s line = false) (hpark : setParked s line = false)
    (hbank : bankHeld s line = false) (how : olderWrites s j.core id line = false) (hor : olderReads s j.core id line = false)
    (hd : s.dirOf line = some d) (hr : d.round = none) (hst : d.st = .n) (hsh : d.sharers = []) :
    ∃ (t : State) (e : DirLine) (k : Job), exec (.copyMark id) s = .next t ∧ t.mem = s.mem ∧
      t.dirOf line = some e ∧ e.st = .e id false ∧ t.jobOf id = some k ∧ k.unmarked = rest ∧
      (t.core j.core).others = (s.core j.core).others - (if rest = [] then 1 else 0) := by
  obtain ⟨dir, hdir⟩ := hitDir_keeps s line false
  obtain ⟨e, he, _, _, _, _⟩ := hitDir_dirOf hd false
  have hnot : j.after.contains line = false := by simpa using hafter
  have hexec : exec (.copyMark id) s = .next (((s.hitDir line false).onDir line fun d => { d with st := .e id false, sharers := [] }).lineMarked j rest) := by
    show served s (s.copyMark id) = _
    unfold State.copyMark
    rw [hj]
    dsimp only
    rw [hun]
    dsimp only
    rw [hnot, hset, hpark, hbank, how, hor, hd]
    dsimp only
    rw [hr, hst, hsh]
    rfl
  rw [hdir] at hexec he
  obtain ⟨hmem, hdir', hjob, hothers⟩ := lineMarked_spec (s := ({ s with dir := dir } : State).onDir line fun d => { d with st := .e id false, sharers := [] })
    (id := id) rest hj
  refine ⟨_, { e with st := .e id false, sharers := [] }, _, hexec, hmem, ?_, rfl, hjob, rfl, hothers⟩
  rw [State.dirOf_congr hdir', State.dirOf_onDir, if_pos rfl, he]
  · rfl
  · exact fun _ h => h

theorem coverFillsOf_keeps (s : State) (k : Nat) (hit : Nat → Bool) : (s.coverFillsOf k hit).mem = s.mem ∧ (s.coverFillsOf k hit).jobs = s.jobs ∧
    ∀ pa, (s.coverFillsOf k hit).placeOf pa = s.placeOf pa := ⟨rfl, rfl, fun _ => rfl⟩

theorem placeOf_link {s t : State} (h : t.link = s.link) (pa : Nat) : t.placeOf pa = s.placeOf pa := by
  unfold State.placeOf
  rw [h]

/-- A piece that the engine writes at a local HBM line. -/
theorem enginePiece_local {s : State} {j : Job} {pa : Nat} (h : s.placeOf pa = .ok .localHbm) (n v : Nat) :
    (enginePiece s j pa n v).mem = s.mem.writeN pa v n ∧ (enginePiece s j pa n v).jobs = s.jobs ∧ (enginePiece s j pa n v).link = s.link := by
  have hlink : (s.ownWriteOf j.core (pa / 128)).link = s.link := State.setCore_link ..
  unfold enginePiece
  dsimp only
  rw [placeOf_link hlink, h]
  refine ⟨?_, State.setCore_jobs .., hlink⟩
  exact congrArg (fun m : Memory => m.writeN pa v n) (State.setCore_mem ..)

theorem enginePieces_local {j : Job} (data : List (Nat × Nat × Nat)) : ∀ s : State, (∀ p ∈ data, s.placeOf p.1 = .ok .localHbm) →
    (data.foldl (fun (s : State) p => enginePiece s j p.1 p.2.1 p.2.2) s).mem = data.foldl (fun m p => m.writeN p.1 p.2.2 p.2.1) s.mem ∧
    (data.foldl (fun (s : State) p => enginePiece s j p.1 p.2.1 p.2.2) s).jobs = s.jobs := by
  induction data with
  | nil => exact fun s _ => ⟨rfl, rfl⟩
  | cons p ps ih =>
    intro s hp
    obtain ⟨hmem, hjobs, hlink⟩ := enginePiece_local (j := j) (hp p List.mem_cons_self) p.2.1 p.2.2
    obtain ⟨hmem', hjobs'⟩ := ih (enginePiece s j p.1 p.2.1 p.2.2) fun q hq => (placeOf_link hlink _).trans (hp q (List.mem_cons_of_mem _ hq))
    rw [List.foldl_cons, List.foldl_cons, hmem', hmem, hjobs', hjobs]
    exact ⟨rfl, rfl⟩

theorem copyWrite_open {s : State} {id line : Nat} {j : Job} (hun : line ∈ j.unwritten) (hmark : line ∉ j.unmarked) (hafter : j.after = [])
    (hloc : isLocal s line = true ∨ (olderWrites s j.core id line = false ∧ olderReads s j.core id line = false)) :
    (!(j.unwritten.contains line) || j.unmarked.contains line || !j.after.isEmpty
      || (!isLocal s line && (olderWrites s j.core id line || olderReads s j.core id line))) = false := by
  have h1 : j.unwritten.contains line = true := by simpa using hun
  have h2 : j.unmarked.contains line = false := by simpa using hmark
  have h3 : (!isLocal s line && (olderWrites s j.core id line || olderReads s j.core id line)) = false := by
    rcases hloc with hloc | ⟨how, hor⟩
    · rw [hloc]
      rfl
    · rw [how, hor]
      exact Bool.and_false _
  rw [h1, h2, h3, hafter]
  rfl

theorem copyEngineWrite_spec {s s₁ : State} {id line : Nat} {j : Job} (hj : s.jobOf id = some j) (hun : line ∈ j.unwritten) (hmark : line ∉ j.unmarked)
    (hafter : j.after = []) (hloc : isLocal s line = true) (hpoison : j.meetsPoison s line = false)
    (hlost : (j.sourceLines line).any (sourceLost s j) = false) (hlink : needsLink s line = false)
    (hready : sourcesReady j (j.sourceLines line) s = .ok s₁ ()) (hj₁ : s₁.jobOf id = some j)
    (hplace : ∀ p ∈ j.piecesOf line, s₁.placeOf p.2.1 = .ok .localHbm) :
    ∃ (t : State) (k : Job), exec (.copyEngineWrite id line false) s = .next t ∧ t.jobOf id = some k ∧
      k.unwritten = j.unwritten.erase line ∧ k.status = j.status ∧
      t.mem = (j.piecesOf line).foldl (fun m p => m.writeN p.2.1 (copyBytes s₁ j p.1 p.2.2) p.2.2) s₁.mem := by
  obtain ⟨hmem, hjobs⟩ := enginePieces_local (j := j) ((j.piecesOf line).map fun p => (p.2.1, p.2.2, copyBytes s₁ j p.1 p.2.2)) s₁ fun q hq => by
    obtain ⟨p, hp, rfl⟩ := List.mem_map.mp hq
    exact hplace p hp
  generalize hfold : List.foldl (fun (s : State) (p : Nat × Nat × Nat) => enginePiece s j p.1 p.2.1 p.2.2) s₁
    ((j.piecesOf line).map fun p => (p.2.1, p.2.2, copyBytes s₁ j p.1 p.2.2)) = u at hmem hjobs
  have hexec : ∃ (tick : Nat) (saved held : List (Nat × Nat)), exec (.copyEngineWrite id line false) s = .next { (u.liftMarks id [line]).onJob id fun (k : Job) =>
      { k with unwritten := k.unwritten.erase line, saved := k.saved ++ saved, held := k.held ++ held } with tick := tick } := by
    have hrun : exec (.copyEngineWrite id line false) s = served s (s.copyWrite id line false) := rfl
    unfold State.copyWrite at hrun
    rw [hj] at hrun
    dsimp only at hrun
    rw [copyWrite_open hun hmark hafter (.inl hloc), if_neg Bool.false_ne_true, hpoison, Bool.or_false, if_neg Bool.false_ne_true, hlost,
      if_neg Bool.false_ne_true, hlink, if_neg Bool.false_ne_true, hready] at hrun
    dsimp only at hrun
    rw [hj₁] at hrun
    dsimp only at hrun
    rw [hfold] at hrun
    exact ⟨_, _, _, hrun⟩
  obtain ⟨tick, saved, held, hexec⟩ := hexec
  have hu : u.jobOf id = some j := (congrArg (List.find? fun k : Job => k.id == id) hjobs).trans hj₁
  refine ⟨_, _, hexec, jobOf_onJob (s := u.liftMarks id [line])
    (f := fun k => { k with unwritten := k.unwritten.erase line, saved := k.saved ++ saved, held := k.held ++ held }) (fun _ => rfl) hu, rfl, rfl, ?_⟩
  show u.mem = _
  rw [hmem, List.foldl_map]

theorem logError_jobs (s : State) (n kind core detail pa : Nat) : (s.logError n kind core detail pa).jobs = s.jobs := by
  obtain ⟨_, _, _, h⟩ := s.logError_eq n kind core detail pa
  rw [h]

theorem foldl_jobs {α : Type} (f : State → α → State) (hf : ∀ s a, (f s a).jobs = s.jobs) (as : List α) : ∀ s, (as.foldl f s).jobs = s.jobs := by
  induction as with
  | nil => exact fun _ => rfl
  | cons a as ih => exact fun s => (ih (f s a)).trans (hf s a)

/-- A copy that ends at a line with MEMERR: its own entry takes the status. -/
theorem endCopyAt_jobs (s : State) (j : Job) (line : Nat) : ∃ f : Job → Job, (∀ k, (f k).id = k.id ∧ (f k).status = 1) ∧
    (s.endCopyAt j line 1).jobs = s.jobs.map fun (k : Job) => if k.id == j.id then f k else k := by
  have hlog (u : State) (b : Bool) (n a c d e : Nat) : (if b then u.logError n a c d e else u).jobs = u.jobs := by
    cases b
    · rfl
    · exact logError_jobs ..
  have hcore (u : State) (b : Bool) (k : Nat) (g : Core → Core) : (if b then u else u.onCore k g).jobs = u.jobs := by
    cases b
    · exact State.setCore_jobs ..
    · rfl
  have hfold := foldl_jobs (fun (u : State) (p : Nat × Nat × Nat) => u.placeBy (some (2048 + j.core)) p.2.1 p.2.2
    (packBits 8 ((List.range p.2.2).map fun i => (Config.lostByte u.tick (p.1 + i)).toNat))) (fun _ _ => rfl)
  refine ⟨_, ?_, (hlog ..).trans (congrArg (List.map _) ((hcore ..).trans ?_))⟩
  · exact fun k => ⟨rfl, rfl⟩
  · rw [State.liftMarks, bne_self_eq_false, if_neg Bool.false_ne_true]
    dsimp only
    exact hfold _ s

theorem copyEngineWrite_memErr {s : State} {id line : Nat} {j : Job} (hj : s.jobOf id = some j) (hun : line ∈ j.unwritten) (hmark : line ∉ j.unmarked)
    (hafter : j.after = []) (hloc : isLocal s line = true ∨ (olderWrites s j.core id line = false ∧ olderReads s j.core id line = false)) :
    ∃ (t : State) (k : Job), exec (.copyEngineWrite id line true) s = .next t ∧ t.jobOf id = some k ∧ k.status = 1 := by
  have hexec : exec (.copyEngineWrite id line true) s = .next (s.endCopyAt j line 1) := by
    show served s (s.copyWrite id line true) = _
    unfold State.copyWrite
    rw [hj]
    dsimp only
    rw [copyWrite_open hun hmark hafter hloc]
    rfl
  obtain ⟨f, hf, hjobs⟩ := endCopyAt_jobs s j line
  obtain rfl := jobOf_id hj
  refine ⟨_, f j, hexec, ?_, (hf j).2⟩
  rw [State.jobOf, hjobs]
  exact jobOf_map (fun k => (hf k).1) hj

/-- A write of a core's copy engine, or the refusal of one, is on its way. -/
def copyTraffic (s : State) (j : Job) : Bool := s.net.any fun f => match f.pkt with
  | .req r => r.core == 2048 + j.core
  | .refusal k _ => k == 2048 + j.core
  | _ => false

theorem copyDone_at {s : State} {id : Nat} {j : Job} (h : s.jobOf id = some j) : s.copyDone id =
    if !j.unmarked.isEmpty || !j.unwritten.isEmpty || copyTraffic s j then none
    else some (({ s with jobs := s.jobs.filter (·.id != id) } : State).sendCompletion j.core j.launch j.rx j.ry j.slot
      (completionWord j.status j.fill.toNat 0 j.len) j.scope j.brand) := by
  unfold State.copyDone
  rw [h]
  rfl

theorem copyCompletion_spec {s : State} {id : Nat} {j : Job} (hj : s.jobOf id = some j) (hmark : j.unmarked = []) (hun : j.unwritten = [])
    (hnet : ∀ f ∈ s.net, (∀ r, f.pkt = .req r → r.core ≠ 2048 + j.core) ∧ ∀ pa, f.pkt ≠ .refusal (2048 + j.core) pa) :
    exec (.copyCompletion id) s = .next (({ s with jobs := s.jobs.filter (·.id != id) } : State).sendNi
      (.msg j.launch (if j.launch = 0 then j.core else j.rx) j.ry none
        { slot := j.slot, value := BitVec.ofNat 64 (j.status * 2 ^ 60 + (if j.fill then 2 ^ 56 else 0) + j.len % 2 ^ 33), sender := j.core,
          scope := j.scope, brand := some j.brand } false)) := by
  have hopen : copyTraffic s j = false := by
    refine List.any_eq_false.mpr fun f hf => ?_
    obtain ⟨hreq, href⟩ := hnet f hf
    split
    · next r hp => simpa using hreq r hp
    · next k pa hp =>
      intro e
      exact href pa (beq_iff_eq.mp e ▸ hp)
    · exact Bool.false_ne_true
  have hword : completionWord j.status j.fill.toNat 0 j.len = BitVec.ofNat 64 (j.status * 2 ^ 60 + (if j.fill then 2 ^ 56 else 0) + j.len % 2 ^ 33) := by
    unfold completionWord
    cases j.fill
    · simp
    · simp
  show served s (s.copyDone id) = _
  rw [copyDone_at hj, hmark, hun, hopen, ← hword]
  simp only [List.isEmpty_nil, Bool.not_true, Bool.or_false, Bool.false_eq_true, if_false, served, State.sendCompletion, beq_iff_eq]

/-! ### All-reduces (R255 to R257) -/

theorem ared_map {as : List Ared} {id : Nat} {a : Ared} {f : Ared → Ared} (hf : ∀ a, (f a).id = a.id) (h : as.find? (·.id == id) = some a) :
    (as.map fun (a : Ared) => if a.id == id then f a else a).find? (·.id == id) = some (f a) := by
  rw [List.find?_map]
  have hp : ((fun a : Ared => a.id == id) ∘ fun (a : Ared) => if a.id == id then f a else a) = fun a => a.id == id := by
    funext x
    show ((if x.id == id then f x else x).id == id) = _
    split
    · rw [hf]
    · rfl
  rw [hp, h, Option.map_some]
  have ha : (a.id == id) = true := List.find?_some (p := fun a : Ared => a.id == id) h
  rw [if_pos ha]

theorem aredMatch_spec {s : State} {id : Nat} {a : Ared} (peerBf16 : Bool) (peerBuf : List (Nat × Nat)) (ha : s.areds.find? (·.id == id) = some a)
    (htag : s.areds.find? (fun b => b.tag == a.tag && !b.matched) = some a) (hup : s.link.up = true) :
    ∃ (t : State) (b : Ared), exec (.aredMatch id peerBuf peerBf16) s = .next t ∧ t.areds.find? (·.id == id) = some b ∧
      b.matched = true ∧ t.mem = s.mem ∧
      (if (peerBuf.map (·.2)).sum = a.len ∧ peerBf16 = a.bf16 then b.status = a.status ∧ b.peer = peerBuf else b.status = 3) := by
  have hid : (a.id == id) = true := List.find?_some (p := fun a : Ared => a.id == id) ha
  have hfresh : a.matched = false := by
    have := List.find?_some (p := fun b : Ared => b.tag == a.tag && !b.matched) htag
    simpa using this
  have hexec : exec (.aredMatch id peerBuf peerBf16) s = .next (if rangeBytes peerBuf != a.len || peerBf16 != a.bf16 then
        s.onAred id fun (a : Ared) => { a with matched := true, status := 3 }
      else s.onAred id fun (a : Ared) => { a with matched := true, peer := peerBuf }) := by
    show served s (s.aredMatch id peerBuf peerBf16) = _
    unfold State.aredMatch
    rw [ha]
    dsimp only
    rw [htag]
    dsimp only
    have hgo : (a.matched || !(a.id == id) || !s.link.up) = false := by rw [hfresh, hid, hup]; rfl
    rw [hgo, if_neg Bool.false_ne_true]
    split
    · rfl
    · rfl
  by_cases hm : (peerBuf.map (·.2)).sum = a.len ∧ peerBf16 = a.bf16
  · have hno : (rangeBytes peerBuf != a.len || peerBf16 != a.bf16) = false := by
      simp [rangeBytes, hm.1, hm.2]
    rw [hno, if_neg Bool.false_ne_true] at hexec
    refine ⟨_, { a with matched := true, peer := peerBuf }, hexec, ?_, rfl, rfl, ?_⟩
    · exact ared_map (f := fun a => { a with matched := true, peer := peerBuf }) (fun _ => rfl) ha
    · rw [if_pos hm]
      exact ⟨rfl, rfl⟩
  · have hyes : (rangeBytes peerBuf != a.len || peerBf16 != a.bf16) = true := by
      refine Decidable.byContradiction fun hc => ?_
      refine hm ?_
      simpa [rangeBytes] using hc
    rw [hyes, if_pos rfl] at hexec
    refine ⟨_, { a with matched := true, status := 3 }, hexec, ?_, rfl, rfl, ?_⟩
    · exact ared_map (f := fun a => { a with matched := true, status := 3 }) (fun _ => rfl) ha
    · rw [if_neg hm]

/-- A line of an all-reduce's buffer that its home may read (R165). -/
structure ChunkReady (s : State) (id : Nat) (a : Ared) (line : Nat) (d : DirLine) : Prop where
  clean : Clean s line
  set_ : setBlocked s line = false
  parked : setParked s line = false
  bank : bankHeld s line = false
  writes : olderWrites s a.core id line = false
  reads : olderReads s a.core id line = false
  dir : s.dirOf line = some d
  round : d.round = none
  state : d.st = .n

theorem readyAtHome_n {s : State} {line : Nat} {d : DirLine} (hset : setBlocked s line = false) (hpark : setParked s line = false)
    (hbank : bankHeld s line = false) (hd : s.dirOf line = some d) (hr : d.round = none) (hst : d.st = .n) :
    s.readyAtHome line = .ok (s.hitDir line false) () := by
  unfold State.readyAtHome
  rw [hset, hpark, hbank, hd]
  dsimp only
  rw [hd]
  dsimp only
  rw [hr, hst]
  rfl

theorem stored_engine (as : List Ared) (pa n : Nat) : as.map (·.stored (some 1028) pa n) = as := by
  refine (List.map_congr_left fun a _ => ?_).trans (List.map_id as)
  unfold Ared.stored
  rw [if_pos (by simp)]
  rfl

theorem placeBy_mem (s : State) (w : Option Nat) (pa n v : Nat) : (s.placeBy w pa n v).mem = s.mem.writeN pa v n := rfl

/-- The peer's half of a chunk: the same sum over its own line. -/
def peerChunk (s : State) (a : Ared) (chunk : Nat) (sum : BitVec 1024) : State :=
  match (rangeLines a.peer)[chunk]? with
  | some l => s.placeBy (some 1028) (l * 128) 128 sum.toNat
  | none => s

theorem peerChunk_spec (s : State) (a : Ared) (chunk : Nat) (sum : BitVec 1024) :
    (peerChunk s a chunk sum).mem = (match (rangeLines a.peer)[chunk]? with | some l => s.mem.writeN (l * 128) sum.toNat 128 | none => s.mem) ∧
    (peerChunk s a chunk sum).pkts = s.pkts ∧ (peerChunk s a chunk sum).out = s.out ∧ (peerChunk s a chunk sum).areds = s.areds := by
  unfold peerChunk
  generalize (rangeLines a.peer)[chunk]? = o
  cases o with
  | some l =>
    dsimp only
    exact ⟨placeBy_mem .., rfl, rfl, stored_engine s.areds (l * 128) 128⟩
  | none => exact ⟨rfl, rfl, rfl, rfl⟩

theorem aredChunk_spec {s : State} {id chunk line : Nat} {a : Ared} {d : DirLine} (incoming : BitVec 1024) (ha : s.areds.find? (·.id == id) = some a)
    (hmatched : a.matched = true) (hstatus : a.status = 0) (hafter : a.after = []) (hline : (rangeLines a.buf)[chunk]? = some line) (hleft : line ∈ a.left)
    (h : ChunkReady s id a line d) (hl : s.lazy = true) :
    let sum := aredLine a.bf16 (s.mem.line line) incoming
    ∃ (t : State) (b : Ared), exec (.aredChunk id chunk incoming) s = .next t ∧
      t.mem = (match (rangeLines a.peer)[chunk]? with | some l => s.mem.writeN (l * 128) sum.toNat 128 | none => s.mem) ∧
      t.pkts = s.pkts ++ [.req { core := 1028, line := line, req := .write (line * 128) 128 sum.toNat false false }] ∧
      t.out = s.out ++ [.aredChunk a.tag chunk (s.mem.line line)] ∧
      t.areds.find? (·.id == id) = some b ∧ b.left = a.left.erase line := by
  intro sum
  obtain ⟨dir, hdir⟩ := hitDir_keeps s line false
  have hin : a.left.contains line = true := by simpa using hleft
  have hgo : (!a.matched || a.status != 0 || !(a.left.contains line) || !a.after.isEmpty || olderWrites s a.core id line || olderReads s a.core id line) = false := by
    rw [hmatched, hstatus, hin, hafter, h.writes, h.reads]
    rfl
  have hclean : badWordIn s (line * 128) 128 false = none := by
    refine badWordIn_clean ?_ ?_
    · rw [Nat.mul_div_cancel _ (by decide)]
      exact h.clean
    · omega
  have hexec : exec (.aredChunk id chunk incoming) s = .next ((peerChunk (({ ({ s with dir := dir } : State) with out := s.out ++ [Out.aredChunk a.tag chunk (s.mem.line line)] } : State).post
      (.req { core := 1028, line := line, req := .write (line * 128) 128 sum.toNat false false })) a chunk sum).onAred id
        fun (a : Ared) => { a with left := a.left.erase line }) := by
    show served s (s.aredChunk id chunk incoming) = _
    unfold State.aredChunk
    rw [ha]
    dsimp only
    rw [hline]
    dsimp only
    rw [hgo, if_neg Bool.false_ne_true, hclean, Option.isSome_none, if_neg Bool.false_ne_true, readyAtHome_n h.set_ h.parked h.bank h.dir h.round h.state, hdir]
    dsimp only
    rw [request_lazy]
    · rfl
    · exact hl
  obtain ⟨hmem, hpkts, hout, hareds⟩ := peerChunk_spec (({ ({ s with dir := dir } : State) with out := s.out ++ [Out.aredChunk a.tag chunk (s.mem.line line)] } : State).post
      (.req { core := 1028, line := line, req := .write (line * 128) 128 sum.toNat false false })) a chunk sum
  refine ⟨_, { a with left := a.left.erase line }, hexec, hmem, hpkts.trans (State.post_pkts ..), hout, ?_, rfl⟩
  refine (congrArg (fun as : List Ared => (as.map fun (a : Ared) => if a.id == id then { a with left := a.left.erase line } else a).find? (·.id == id)) hareds).trans ?_
  exact ared_map (f := fun a => { a with left := a.left.erase line }) (fun _ => rfl) ha

theorem aredCompletion_spec {s : State} {id : Nat} {a : Ared} (ha : s.areds.find? (·.id == id) = some a) (hmatched : a.matched = true) (hstatus : a.status = 0)
    (hleft : a.left = []) (hbad : a.bad = false) (hopen : ∀ l ∈ rangeLines a.buf, engineOpen s l = false) :
    exec (.aredCompletion id) s = .next (({ s with areds := s.areds.filter (·.id != id) } : State).sendNi
      (.msg a.launch (if a.launch = 0 then a.core else a.rx) a.ry none
        { slot := a.slot, value := BitVec.ofNat 64 ((if a.bf16 then 3 else 2) * 2 ^ 56 + a.tag % 2 ^ 16 * 2 ^ 40 + a.len % 2 ^ 33),
          sender := a.core, scope := .sys, brand := some a.brand } false)) := by
  have hnone : (rangeLines a.buf).any (engineOpen s) = false := List.any_eq_false.mpr fun l hl => by rw [hopen l hl]; exact Bool.false_ne_true
  have hword : completionWord 0 (2 + a.bf16.toNat) a.tag a.len =
      BitVec.ofNat 64 ((if a.bf16 then 3 else 2) * 2 ^ 56 + a.tag % 2 ^ 16 * 2 ^ 40 + a.len % 2 ^ 33) := by
    unfold completionWord
    rw [Nat.zero_mul, Nat.zero_add]
    cases a.bf16
    · rfl
    · rfl
  show served s (s.aredDone id) = _
  unfold State.aredDone
  rw [ha]
  dsimp only
  rw [hmatched, hleft, hnone, hbad, hstatus, ← hword]
  simp only [List.isEmpty_nil, Bool.not_true, Bool.and_false, Bool.or_false, Bool.false_eq_true, if_false, served, State.sendCompletion, beq_iff_eq, if_true,
    beq_self_eq_true]

/-! ### Requests to the paddock's logic (R243, R244, R326) -/

theorem replyTo_pend {s : State} {core : Nat} (h : (s.core core).pend = .sent ctlMark) (v : Int) :
    ((s.replyTo core v).core core).pend = .reply ctlMark (BitVec.ofInt 64 v) := by
  unfold State.replyTo
  rw [State.core_onCore_self _ _ _ (State.core_id s core)]
  dsimp only
  rw [h]

theorem replyTo_pads (s : State) (core : Nat) (v : Int) : (s.replyTo core v).pads = s.pads := State.setCore_pads ..

theorem replyTo_pad (s : State) (core : Nat) (v : Int) (n : Nat) : (s.replyTo core v).pad n = s.pad n := by
  unfold State.pad
  rw [replyTo_pads]

theorem pad_ctl (s : State) (ctl : List CtlReq) (n : Nat) : ({ s with ctl := ctl } : State).pad n = s.pad n := rfl

theorem pad_dir (s : State) (dir : List DirLine) (n : Nat) : ({ s with dir := dir } : State).pad n = s.pad n := rfl

theorem serveCtlIf_spec {s u : State} {i : Nat} {r : CtlReq} {is : CtlReq → Bool} (h : s.ctl[i]? = some r) (his : is r = true) (hs : s.serveCtl i = some u) :
    serveCtlIf s i is = .next u := by
  unfold serveCtlIf
  rw [h]
  dsimp only
  rw [his, if_pos rfl, hs]
  rfl

theorem retain_spec {s : State} {i core asid base limit ways : Nat} (h : s.ctl[i]? = some (.retain core asid base limit ways))
    (hp : (s.core core).pend = .sent ctlMark) :
    ∃ t : State, exec (.retentionRequest i) s = .next t ∧ t.ctl = s.ctl.eraseIdx i ∧
      ((s.pad (s.core core).paddock).retained = [] → ways ≤ 8 →
        (t.pad (s.core core).paddock).retained = [(0, { asid := asid, base := base, limit := limit, ways := ways })] ∧
        (t.core core).pend = .reply ctlMark 0) ∧
      ((∃ e ∈ (s.pad (s.core core).paddock).retained, base < e.2.limit ∧ e.2.base < limit) →
        (t.core core).pend = .reply ctlMark (BitVec.ofInt 64 (-3)) ∧ t.pads = s.pads) := by
  have hserve : s.serveCtl i = some (({ s with ctl := s.ctl.eraseIdx i } : State).serveRetain core asid base limit ways) := by
    unfold State.serveCtl
    rw [h]
  have hexec : exec (.retentionRequest i) s = .next (({ s with ctl := s.ctl.eraseIdx i } : State).serveRetain core asid base limit ways) :=
    serveCtlIf_spec (is := fun r => match r with | .retain .. => true | .unpin .. => true | _ => false) h rfl hserve
  have hretain (st : Int) (hst : retainStatus (s.pad (s.core core).paddock).retained base limit ways = st) :
      ({ s with ctl := s.ctl.eraseIdx i } : State).serveRetain core asid base limit ways =
        (if 0 ≤ st then ({ s with ctl := s.ctl.eraseIdx i } : State).onPad (s.core core).paddock fun p =>
            { p with retained := p.retained ++ [(st.toNat, { asid := asid, base := base, limit := limit, ways := ways })] }
          else { s with ctl := s.ctl.eraseIdx i }).replyTo core st := by
    subst hst
    rfl
  refine ⟨_, hexec, ?_, fun hnone hways => ?_, fun hover => ?_⟩
  · rw [hretain _ rfl]
    refine (State.setCore_ctl ..).trans ?_
    split
    · rfl
    · rfl
  · have hst : retainStatus (s.pad (s.core core).paddock).retained base limit ways = 0 := by
      rw [hnone]
      unfold retainStatus
      rw [List.any_nil, if_neg Bool.false_ne_true, List.foldl_nil, if_neg (by omega)]
      rfl
    rw [hretain _ hst, if_pos (Int.le_refl _)]
    refine ⟨?_, replyTo_pend ?_ 0⟩
    · rw [replyTo_pad, pad_onPad_self]
      dsimp only
      rw [pad_ctl, hnone]
      rfl
    · rw [State.core_onPad]
      exact hp
  · have hst : retainStatus (s.pad (s.core core).paddock).retained base limit ways = -3 := by
      obtain ⟨e, he, h1, h2⟩ := hover
      unfold retainStatus
      rw [if_pos]
      exact List.any_eq_true.mpr ⟨e, he, by simp [h1, h2]⟩
    rw [hretain _ hst, if_neg (by decide)]
    exact ⟨replyTo_pend (s := { s with ctl := s.ctl.eraseIdx i }) hp (-3), replyTo_pads ..⟩

theorem unpin_spec {s : State} {i core asid n : Nat} {user : Bool} {x : Nat × RetEntry} (h : s.ctl[i]? = some (.unpin core asid n user))
    (hp : (s.core core).pend = .sent ctlMark) (hpad : (s.core core).paddock < 7)
    (hx : (s.pad (s.core core).paddock).retained.find? (·.1 == n) = some x) (hown : user = false ∨ x.2.asid = asid) :
    ∃ t : State, exec (.retentionRequest i) s = .next t ∧ (t.core core).pend = .reply ctlMark 0 ∧
      (t.pad (s.core core).paddock).retained = (s.pad (s.core core).paddock).retained.filter (·.1 != n) := by
  have hserve : s.serveCtl i = some (({ s with ctl := s.ctl.eraseIdx i } : State).serveUnpin core asid n user) := by
    unfold State.serveCtl
    rw [h]
  have hmay : (user && x.2.asid != asid) = false := by
    rcases hown with hown | hown
    · rw [hown]
      rfl
    · rw [hown, bne_self_eq_false, Bool.and_false]
  have hunpin : ∃ (u : State), ({ s with ctl := s.ctl.eraseIdx i } : State).serveUnpin core asid n user = u.replyTo core 0 ∧ u.core core = s.core core ∧
      (u.pad (s.core core).paddock).retained = (s.pad (s.core core).paddock).retained.filter (·.1 != n) := by
    unfold State.serveUnpin
    dsimp only
    rw [show ({ s with ctl := s.ctl.eraseIdx i } : State).core core = s.core core from rfl, if_neg (by omega),
      show ({ s with ctl := s.ctl.eraseIdx i } : State).pad (s.core core).paddock = s.pad (s.core core).paddock from rfl, hx]
    dsimp only
    rw [hmay, if_neg Bool.false_ne_true]
    refine ⟨_, rfl, rfl, ?_⟩
    rw [pad_dir, pad_onPad_self]
    rfl
  obtain ⟨u, hu, hcore, hret⟩ := hunpin
  rw [hu] at hserve
  refine ⟨_, serveCtlIf_spec (is := fun r => match r with | .retain .. => true | .unpin .. => true | _ => false) h rfl hserve,
    replyTo_pend (by rw [hcore]; exact hp) 0, ?_⟩
  rw [replyTo_pad, hret]

theorem lnch_spec {s : State} {i core pset q : Nat} {lr : LaunchRec} (h : s.ctl[i]? = some (.lnch core pset q lr)) (hp : (s.core core).pend = .sent ctlMark)
    (hpset : pset < 7) (hq : q < 16) (hst : (s.pad pset).st = .run) (hact : (s.pad pset).active = true) (hlevel : (s.core core).level ≠ 0)
    (hroom : ((s.pad pset).queues[Fin.ofNat 16 q]).recs.length < 64) :
    ∃ t : State, exec (.lnchRequest i) s = .next t ∧
      (t.core core).pend = .reply ctlMark (BitVec.ofNat 64 ((s.pad pset).queues[Fin.ofNat 16 q]).nextSeq.toNat) ∧
      ((t.pad pset).queues[Fin.ofNat 16 q]).recs = ((s.pad pset).queues[Fin.ofNat 16 q]).recs ++
        [(((s.pad pset).queues[Fin.ofNat 16 q]).nextSeq.toNat, (s.pad pset).arrival, lr)] ∧
      ((t.pad pset).queues[Fin.ofNat 16 q]).nextSeq = ((s.pad pset).queues[Fin.ofNat 16 q]).nextSeq + 1 := by
  have hserve : s.serveCtl i = some (({ s with ctl := s.ctl.eraseIdx i } : State).serveLnch core pset q lr) := by
    unfold State.serveCtl
    rw [h]
  have hlnch : ({ s with ctl := s.ctl.eraseIdx i } : State).serveLnch core pset q lr =
      (({ s with ctl := s.ctl.eraseIdx i } : State).enqueue pset q lr).replyTo core ((s.pad pset).queues[Fin.ofNat 16 q]).nextSeq.toNat := by
    have hlow : ((s.core core).level == 0) = false := beq_eq_false_iff_ne.mpr hlevel
    have hbad : (decide (16 ≤ q) || decide (7 ≤ pset)) = false := by simp; omega
    unfold State.serveLnch
    dsimp only
    rw [show ({ s with ctl := s.ctl.eraseIdx i } : State).core core = s.core core from rfl,
      show ({ s with ctl := s.ctl.eraseIdx i } : State).pad pset = s.pad pset from rfl, hbad, if_neg Bool.false_ne_true, hst, bne_self_eq_false,
      if_neg Bool.false_ne_true, hact, Bool.not_true, if_neg Bool.false_ne_true, hlow, Bool.false_and, if_neg Bool.false_ne_true, if_neg (by omega)]
  have hpad : ((({ s with ctl := s.ctl.eraseIdx i } : State).enqueue pset q lr).pad pset) = { s.pad pset with
      arrival := (s.pad pset).arrival + 1
      queues := (s.pad pset).queues.set (Fin.ofNat 16 q) { (s.pad pset).queues[Fin.ofNat 16 q] with
        recs := ((s.pad pset).queues[Fin.ofNat 16 q]).recs ++ [(((s.pad pset).queues[Fin.ofNat 16 q]).nextSeq.toNat, (s.pad pset).arrival, lr)]
        nextSeq := ((s.pad pset).queues[Fin.ofNat 16 q]).nextSeq + 1 } } := pad_onPad_self ..
  rw [hlnch] at hserve
  refine ⟨_, serveCtlIf_spec (is := fun r => match r with | .lnch .. => true | _ => false) h rfl hserve, ?_, ?_, ?_⟩
  · refine (replyTo_pend ?_ _).trans ?_
    · exact hp
    · rw [BitVec.ofInt_natCast]
  · rw [replyTo_pad, hpad]
    dsimp only
    rw [(getElem_set_fin ..).trans (if_pos rfl)]
  · rw [replyTo_pad, hpad]
    dsimp only
    rw [(getElem_set_fin ..).trans (if_pos rfl)]

/-- Settles O54: each step of an engine, and each request to the paddock's logic, has its lemma above. -/
theorem enginesAndRequestsProceed : Obligations.EnginesAndRequestsProceed := by
  unfold Obligations.EnginesAndRequestsProceed
  intro s id i
  exact ⟨fun j line rest d => copyMark_spec, fun j line s₁ => copyEngineWrite_spec, fun j line => copyEngineWrite_memErr, fun j => copyCompletion_spec,
    fun a peerBf16 peerBuf => aredMatch_spec peerBf16 peerBuf,
    fun a chunk line d incoming ha hm hst haf hline hleft hclean hset hpark hbank how hor hd hr hn hl =>
      aredChunk_spec incoming ha hm hst haf hline hleft ⟨hclean, hset, hpark, hbank, how, hor, hd, hr, hn⟩ hl,
    fun a => aredCompletion_spec, fun core asid base limit ways => retain_spec, fun core asid n user x => unpin_spec, fun core pset q lr => lnch_spec⟩

end Sys2Proof.Machine
end

section
/-! SUPPORT. Translations and the network interfaces -/
namespace Sys2Proof.Machine

/-! ### One level of the walk (R354 to R356) -/

/-- A table line that its home may read. -/
structure TableReady (s : State) (a : Nat) (d : DirLine) : Prop where
  dir : s.dirOf (a / 128) = some d
  round : d.round = none
  state : d.st = .n
  set_ : setBlocked s (a / 128) = false
  parked : setParked s (a / 128) = false
  bank : bankHeld s (a / 128) = false

theorem TableReady.word {s : State} {a : Nat} {d : DirLine} (h : TableReady s a d) : s.wordAtHome a = .ok (s.hitDir (a / 128) false) (s.mem.readN a 8) := by
  obtain ⟨dir, hdir⟩ := hitDir_keeps s (a / 128) false
  rw [State.wordAtHome, readyAtHome_n h.set_ h.parked h.bank h.dir h.round h.state, Ans.ok_bind, hdir]

theorem hitDir_mem (s : State) (line : Nat) (ef : Bool) : (s.hitDir line ef).mem = s.mem := by
  obtain ⟨dir, hdir⟩ := hitDir_keeps s line ef
  rw [hdir]

/-- A level of the walk once its entry has been read: the entry at its place, and what follows from it. -/
theorem walkLevels_reads {s : State} {n asid va : Nat} {svm : Bool} {fuel level t : Nat} {d : DirLine} (hcard : t / 2 ^ 47 = s.link.card)
    (hhbm : t / 2 ^ 45 % 4 = 0) (hsize : t % 2 ^ 45 < 0x3000000000) (hstack : (s.pad n).stackMask.getLsbD (stackOf t) = true)
    (h : TableReady s (t + 8 * (va / 2 ^ (39 - 9 * level) % 512)) d) :
    let ix := va / 2 ^ (39 - 9 * level) % 512
    let e := s.mem.readN (t + 8 * ix) 8
    let s' := s.hitDir ((t + 8 * ix) / 128) false
    walkLevels n asid va svm (fuel + 1) level t s =
      if !bitAt e 0 then .ok s' (.error .notPresent)
      else if reservedEntry e then .ok s' (.error .format)
      else if !bitAt e 1 then
        if level == 3 then .ok s' (.error .format)
        else walkLevels n asid va svm fuel (level + 1) (e / 2 ^ 12 % 2 ^ 36 * 2 ^ 12) s'
      else match pageSize level (e / 2 ^ 8 % 4) with
        | none => .ok s' (.error .format)
        | some (size, run) =>
          let first := t + 8 * (ix / run * run)
          let es := runEntries s'.mem first run
          let same := es.all (· == e)
          let q := if same then e else es.getD ((Config.runEntry s'.tick).val % run) e
          let s' := if same then s' else s'.tock
          if !bitAt q 0 then .ok s' (.error .notPresent)
          else if reservedEntry q || !bitAt q 1 then .ok s' (.error .format)
          else
            let x := leafXlat asid va q size
            if leafFormat svm x then .ok s' (.error .format) else .ok s' (.ok x) := by
  intro ix e s'
  have hin : (!(t / 2 ^ 47 == s.link.card && t / 2 ^ 45 % 4 == 0 && decide (t % 2 ^ 45 < 0x3000000000) && (s.pad n).stackMask.getLsbD (stackOf t))) = false := by
    rw [hcard, hhbm, hstack, decide_eq_true hsize]
    simp
  rw [walkLevels, hin, if_neg Bool.false_ne_true]
  dsimp only
  rw [h.word, Ans.ok_bind] <;> rfl

theorem bitAt_zero (e : Nat) : bitAt e 0 = (e % 2 == 1) := by rw [bitAt, Nat.pow_zero, Nat.div_one]

theorem bitAt_one (e : Nat) : bitAt e 1 = (e / 2 % 2 == 1) := by rw [bitAt, Nat.pow_one]

theorem leaf_entry {s : State} {n asid va : Nat} {svm : Bool} {fuel t : Nat} {d : DirLine} (hcard : t / 2 ^ 47 = s.link.card)
    (hhbm : t / 2 ^ 45 % 4 = 0) (hsize : t % 2 ^ 45 < 0x3000000000) (hstack : (s.pad n).stackMask.getLsbD (stackOf t) = true)
    (h : TableReady s (t + 8 * (va / 2 ^ (39 - 9 * 3) % 512)) d) (hbits : s.mem.readN (t + 8 * (va / 2 ^ (39 - 9 * 3) % 512)) 8 % 4 = 3)
    (hres : reservedEntry (s.mem.readN (t + 8 * (va / 2 ^ (39 - 9 * 3) % 512)) 8) = false)
    (hspan : s.mem.readN (t + 8 * (va / 2 ^ (39 - 9 * 3) % 512)) 8 / 2 ^ 8 % 4 = 0)
    (hform : leafFormat svm (leafXlat asid va (s.mem.readN (t + 8 * (va / 2 ^ (39 - 9 * 3) % 512)) 8) 4096) = false) :
    walkLevels n asid va svm (fuel + 1) 3 t s = .ok (s.hitDir ((t + 8 * (va / 2 ^ (39 - 9 * 3) % 512)) / 128) false)
      (.ok (leafXlat asid va (s.mem.readN (t + 8 * (va / 2 ^ (39 - 9 * 3) % 512)) 8) 4096)) := by
  rw [walkLevels_reads hcard hhbm hsize hstack h]
  have hrun (ix : Nat) (m : Memory) : runEntries m (t + 8 * (ix / 1 * 1)) 1 = [m.readN (t + 8 * ix) 8] := by
    rw [Nat.div_one, Nat.mul_one]
    rfl
  generalize va / 2 ^ (39 - 9 * 3) % 512 = ix at *
  have hmem := hitDir_mem s ((t + 8 * ix) / 128) false
  generalize s.hitDir ((t + 8 * ix) / 128) false = s' at hmem ⊢
  generalize he : s.mem.readN (t + 8 * ix) 8 = e at *
  have hpage : pageSize 3 (e / 2 ^ 8 % 4) = some (4096, 1) := by
    rw [hspan]
    decide
  have h0 : bitAt e 0 = true := by rw [bitAt_zero, beq_iff_eq]; omega
  have h1 : bitAt e 1 = true := by rw [bitAt_one, beq_iff_eq]; omega
  rw [h0, h1, hres, hpage]
  dsimp only
  rw [hrun, hmem, he]
  have hsame : [e].all (· == e) = true := by simp
  rw [hsame, if_pos rfl, h0, h1, hres, hform]
  rfl

theorem walk_levels {s : State} {n asid va : Nat} {svm : Bool} {fuel level t : Nat} {d : DirLine} (hcard : t / 2 ^ 47 = s.link.card)
    (hhbm : t / 2 ^ 45 % 4 = 0) (hsize : t % 2 ^ 45 < 0x3000000000) (hstack : (s.pad n).stackMask.getLsbD (stackOf t) = true)
    (h : TableReady s (t + 8 * (va / 2 ^ (39 - 9 * level) % 512)) d) :
    let a := t + 8 * (va / 2 ^ (39 - 9 * level) % 512)
    let e := s.mem.readN a 8
    let s' := s.hitDir (a / 128) false
    (e % 2 = 0 → walkLevels n asid va svm (fuel + 1) level t s = .ok s' (.error .notPresent)) ∧
    (e % 2 = 1 → reservedEntry e = true → walkLevels n asid va svm (fuel + 1) level t s = .ok s' (.error .format)) ∧
    (e % 4 = 1 → reservedEntry e = false → level < 3 →
      walkLevels n asid va svm (fuel + 1) level t s = walkLevels n asid va svm fuel (level + 1) (e / 2 ^ 12 % 2 ^ 36 * 2 ^ 12) s') ∧
    (e % 4 = 3 → reservedEntry e = false → level = 3 → e / 2 ^ 8 % 4 = 0 → leafFormat svm (leafXlat asid va e 4096) = false →
      walkLevels n asid va svm (fuel + 1) level t s = .ok s' (.ok (leafXlat asid va e 4096))) := by
  intro a e s'
  have hreads := walkLevels_reads (asid := asid) (svm := svm) (fuel := fuel) hcard hhbm hsize hstack h
  refine ⟨fun hbit => ?_, fun hbit hres => ?_, fun hbits hres hlevel => ?_, fun hbits hres hlevel hspan hform => ?_⟩
  · have h0 : bitAt e 0 = false := by rw [bitAt_zero, beq_eq_false_iff_ne]; omega
    refine hreads.trans ?_
    rw [show bitAt _ 0 = false from h0]
    rfl
  · have h0 : bitAt e 0 = true := by rw [bitAt_zero, beq_iff_eq]; exact hbit
    refine hreads.trans ?_
    rw [show bitAt _ 0 = true from h0, show reservedEntry _ = true from hres]
    rfl
  · have h0 : bitAt e 0 = true := by rw [bitAt_zero, beq_iff_eq]; omega
    have h1 : bitAt e 1 = false := by rw [bitAt_one, beq_eq_false_iff_ne]; omega
    have hl : (level == 3) = false := beq_eq_false_iff_ne.mpr (by omega)
    refine hreads.trans ?_
    rw [show bitAt _ 0 = true from h0, show bitAt _ 1 = false from h1, show reservedEntry _ = false from hres, hl]
    rfl
  · subst hlevel
    exact leaf_entry hcard hhbm hsize hstack h hbits hres hspan hform

/-! ### Translation requests (R357 to R359) -/

theorem fillCtc_head (c : Core) (x : Xlat) : (c.fillCtc x).ctc.head? = some x := rfl

theorem xlatAnswer_spec {s : State} {r : XReq} {x : Xlat} (hcore : r.core < 1024) :
    (x.permits r.acc r.user = true → ((s.xlatAnswer r x).core r.core).ctc.head? = some x) ∧
    (x.permits r.acc r.user = false → ((s.xlatAnswer r x).core r.core).xfault = some (r.va / 4096, .permission)) ∧
    (s.xlatAnswer r x).mem = s.mem ∧ (s.xlatAnswer r x).xreqs = s.xreqs := by
  have hfault : s.xlatFault r.core r.va .permission = s.onCore r.core fun c => { c with xfault := some (r.va / 4096, .permission) } := if_neg (by omega)
  unfold State.xlatAnswer
  cases x.permits r.acc r.user with
  | true =>
    rw [if_pos rfl]
    refine ⟨fun _ => ?_, fun h => absurd h.symm Bool.false_ne_true, State.onCore_mem .., State.setCore_xreqs ..⟩
    rw [State.core_onCore_self]
    · exact fillCtc_head ..
    · exact State.core_id ..
  | false =>
    rw [if_neg Bool.false_ne_true, hfault]
    refine ⟨fun h => absurd h Bool.false_ne_true, fun _ => ?_, State.onCore_mem .., State.setCore_xreqs ..⟩
    rw [State.core_onCore_self]
    exact State.core_id ..

theorem stcRequest_exec {s : State} {i : Nat} {r : XReq} (h : s.xreqs[i]? = some r) (hw : r.walking = false) :
    exec (.stcRequest i) s = .next (({ s with xreqs := s.xreqs.eraseIdx i } : State).serveStc r) := by
  show serveXreqIf s i false = _
  unfold serveXreqIf State.serveXreq
  rw [h]
  dsimp only
  rw [hw]
  rfl

theorem serveStc_hit {s : State} {r : XReq} {x : Xlat} (h : (s.pad (s.core r.core).paddock).stcHit r.asid r.va = some x) : s.serveStc r = s.xlatAnswer r x := by
  unfold State.serveStc
  rw [h]

theorem serveStc_miss {s : State} {r : XReq} (h : (s.pad (s.core r.core).paddock).stcHit r.asid r.va = none) :
    s.serveStc r = { s with xreqs := s.xreqs ++ [{ r with walking := true }] } := by
  unfold State.serveStc
  rw [h]

theorem stcRequest_spec {s : State} {i : Nat} {r : XReq} (h : s.xreqs[i]? = some r) (hw : r.walking = false) (hcore : r.core < 1024) :
    (∀ x, (s.pad (s.core r.core).paddock).stcHit r.asid r.va = some x →
      (x.permits r.acc r.user = true → ∃ t : State, exec (.stcRequest i) s = .next t ∧ (t.core r.core).ctc.head? = some x ∧ t.mem = s.mem) ∧
      (x.permits r.acc r.user = false →
        ∃ t : State, exec (.stcRequest i) s = .next t ∧ (t.core r.core).xfault = some (r.va / 4096, .permission) ∧ t.mem = s.mem)) ∧
    ((s.pad (s.core r.core).paddock).stcHit r.asid r.va = none →
      ∃ t : State, exec (.stcRequest i) s = .next t ∧ t.xreqs = s.xreqs.eraseIdx i ++ [{ r with walking := true }] ∧ t.mem = s.mem) := by
  have hexec := stcRequest_exec h hw
  refine ⟨fun x hx => ?_, fun hx => ?_⟩
  · obtain ⟨hyes, hno, hmem, _⟩ := xlatAnswer_spec (s := { s with xreqs := s.xreqs.eraseIdx i }) (x := x) hcore
    rw [serveStc_hit (s := { s with xreqs := s.xreqs.eraseIdx i }) hx] at hexec
    exact ⟨fun hp => ⟨_, hexec, hyes hp, hmem⟩, fun hp => ⟨_, hexec, hno hp, hmem⟩⟩
  · rw [serveStc_miss (s := { s with xreqs := s.xreqs.eraseIdx i }) hx] at hexec
    exact ⟨_, hexec, rfl, rfl⟩

theorem walkComplete_exec {s s₁ : State} {i : Nat} {r : XReq} {w : Except PageKind (Nat × Xlat)} (h : s.xreqs[i]? = some r) (hw : r.walking = true)
    (hbusy : walkersBusy s i r = false) (hwalk : walk s (s.core r.core).paddock r.asid r.va = .ok s₁ w)
    (hone : (s.xreqs.filter fun q => q.walking && sameWalk s q r) = [r]) :
    exec (.walkComplete i) s = .next (State.walked w { s₁ with xreqs := s.xreqs.filter fun q => !(q.walking && sameWalk s q r) } r) := by
  show serveXreqIf s i true = _
  unfold serveXreqIf State.serveXreq
  rw [h]
  dsimp only
  rw [hw, hbusy, hwalk]
  dsimp only
  rw [hone]
  rfl

theorem walkComplete_spec {s s₁ : State} {i : Nat} {r : XReq} {w : Except PageKind (Nat × Xlat)} (h : s.xreqs[i]? = some r) (hw : r.walking = true)
    (hcore : r.core < 1024) (hbusy : walkersBusy s i r = false) (hwalk : walk s (s.core r.core).paddock r.asid r.va = .ok s₁ w)
    (hone : (s.xreqs.filter fun q => q.walking && sameWalk s q r) = [r]) :
    let rest := s.xreqs.filter fun q => !(q.walking && sameWalk s q r)
    (∀ x w0, w = .ok (w0, x) → x.host = false → x.permits r.acc r.user = true →
      ∃ t : State, exec (.walkComplete i) s = .next t ∧ (t.core r.core).ctc.head? = some x ∧ t.xreqs = rest ∧ t.mem = s₁.mem) ∧
    (∀ k, w = .error k →
      ∃ t : State, exec (.walkComplete i) s = .next t ∧ (t.core r.core).xfault = some (r.va / 4096, k) ∧ t.xreqs = rest ∧ t.mem = s₁.mem) := by
  intro rest
  have hexec := walkComplete_exec h hw hbusy hwalk hone
  refine ⟨fun x w0 hx hhost hp => ?_, fun k hk => ?_⟩
  · obtain ⟨hyes, _, hmem, hxreqs⟩ := xlatAnswer_spec (s := { s₁ with xreqs := rest }) (x := x) hcore
    have hwalked : State.walked w { s₁ with xreqs := rest } r = ({ s₁ with xreqs := rest } : State).xlatAnswer r x := by
      rw [hx, State.walked, hhost]
      rfl
    exact ⟨_, hexec.trans (congrArg _ hwalked), hyes hp, hxreqs, hmem⟩
  · have hwalked : State.walked w { s₁ with xreqs := rest } r = ({ s₁ with xreqs := rest } : State).onCore r.core fun c => { c with xfault := some (r.va / 4096, k) } := by
      rw [hk]
      exact if_neg (by omega)
    refine ⟨_, hexec.trans (congrArg _ hwalked), ?_, State.setCore_xreqs .., State.onCore_mem ..⟩
    rw [State.core_onCore_self]
    exact State.core_id ..

/-! ### The host's answers (R363, R364) -/

theorem dispatchedSet_core {k : Nat} (h : k < 1024) : dispatchedSet k = none := by
  unfold dispatchedSet
  refine if_neg fun e => ?_
  have := of_decide_eq_true (Bool.and_eq_true_iff.mp e).1
  omega

theorem denyWait_core {s : State} {a : AtsWait} (h : a.core < 1024) :
    s.denyWait a = s.onCore a.core fun c => { c with xfault := some (a.va / 4096, .hostDenied) } := by
  unfold State.denyWait
  rw [dispatchedSet_core h, Option.isSome_none, if_neg Bool.false_ne_true]
  exact if_neg (by omega)

theorem atsCompletion_spec {s : State} {i iova : Nat} {a : AtsWait} (rd wr : Bool) (h : s.ats[i]? = some a) (h1 : a.stage ≠ 1) (h3 : a.stage ≠ 3)
    (hcore : a.core < 1024) :
    let x : Xlat := { a.leaf with pa := s.link.card * 2 ^ 47 + 2 ^ 46 + iova % 2 ^ 45 / 4096 * 4096, r := a.leaf.r && rd, w := a.leaf.w && wr }
    (x.permits a.acc false = true → ∃ t : State, exec (.atsCompletion i (.granted iova rd wr)) s = .next t ∧
      (t.core a.core).ctc.head? = some x ∧ t.ats = s.ats.eraseIdx i) ∧
    ((s.pad a.pset).priStopped = false → a.stage = 0 → ∃ (t : State) (b : AtsWait), exec (.atsCompletion i .fault) s = .next t ∧
      t.ats[i]? = some b ∧ b.stage = 1 ∧ b.core = a.core ∧ b.va = a.va) ∧
    (((s.pad a.pset).priStopped = true ∨ a.stage = 2) → ∃ t : State, exec (.atsCompletion i .fault) s = .next t ∧
      (t.core a.core).xfault = some (a.va / 4096, .hostDenied) ∧ t.ats = s.ats.eraseIdx i) := by
  intro x
  have hstage : (a.stage == 1 || a.stage == 3) = false := by simp [h1, h3]
  have hpeer : (a.core == 1025) = false := beq_eq_false_iff_ne.mpr (by omega)
  have hlt : i < s.ats.length := (List.getElem?_eq_some_iff.mp h).1
  refine ⟨fun hp => ?_, fun hgo h0 => ?_, fun hstop => ?_⟩
  · have hexec : exec (.atsCompletion i (.granted iova rd wr)) s =
        .next ((({ s with ats := s.ats.eraseIdx i } : State).onPad a.pset (·.fillStc a.va x)).onCore a.core (·.fillCtc x)) := by
      show (.next (s.atsAnswer i (.granted iova rd wr)) : Result) = _
      unfold State.atsAnswer
      rw [h]
      dsimp only
      rw [hstage, if_neg Bool.false_ne_true, hpeer, if_neg Bool.false_ne_true, if_pos, if_neg (by omega)]
      rw [show Xlat.permits _ a.acc false = true from hp]
      rfl
    refine ⟨_, hexec, ?_, State.setCore_ats ..⟩
    rw [State.core_onCore_self]
    · exact fillCtc_head ..
    · exact State.core_id ..
  · have h2 : (a.stage == 2) = false := by rw [h0]; rfl
    have hexec : ∃ (index : Nat) (out : List Out), exec (.atsCompletion i .fault) s = .next { s with ats := s.ats.set i { a with stage := 1, index := index }, out := out } := by
      have hrun : exec (.atsCompletion i .fault) s = .next (s.atsAnswer i .fault) := rfl
      unfold State.atsAnswer at hrun
      rw [h] at hrun
      dsimp only at hrun
      rw [hstage, if_neg Bool.false_ne_true, hpeer, if_neg Bool.false_ne_true, hgo, h2, Bool.or_self, if_neg Bool.false_ne_true] at hrun
      exact ⟨_, _, hrun⟩
    obtain ⟨index, out, hexec⟩ := hexec
    exact ⟨_, { a with stage := 1, index := index }, hexec, List.getElem?_set_self hlt, rfl, rfl, rfl⟩
  · have hyes : ((s.pad a.pset).priStopped || a.stage == 2) = true := by
      rcases hstop with hstop | hstop
      · rw [hstop, Bool.true_or]
      · rw [hstop]
        exact Bool.or_true _
    have hexec : exec (.atsCompletion i .fault) s = .next (({ s with ats := s.ats.eraseIdx i } : State).denyWait a) := by
      show (.next (s.atsAnswer i .fault) : Result) = _
      unfold State.atsAnswer
      rw [h]
      dsimp only
      rw [hstage, if_neg Bool.false_ne_true, hpeer, if_neg Bool.false_ne_true, hyes, if_pos rfl]
    rw [denyWait_core hcore] at hexec
    refine ⟨_, hexec, ?_, State.setCore_ats ..⟩
    rw [State.core_onCore_self]
    exact State.core_id ..

/-! ### Page-request responses (R364, R365) -/

/-- An open page request of set n has index i. -/
def indexUsed (ats : List AtsWait) (n i : Nat) : Bool := ats.any fun b => b.stage == 1 && b.pset == n && b.index == i

theorem indexUsed_iff {ats : List AtsWait} {n i : Nat} : indexUsed ats n i = true ↔ ∃ b ∈ ats, b.stage = 1 ∧ b.pset = n ∧ b.index = i := by
  simp [indexUsed, and_assoc]

/-- Where the search for a free index stands after k steps: every smaller index is used, and it has stopped or has moved k times. -/
theorem indexSearch (ats : List AtsWait) (n k : Nat) :
    let v := (List.range k).foldl (fun i _ => if indexUsed ats n i then i + 1 else i) 0
    (∀ j < v, indexUsed ats n j = true) ∧ (indexUsed ats n v = true → v = k) := by
  induction k with
  | zero => exact ⟨fun j hj => absurd hj (Nat.not_lt_zero j), fun _ => rfl⟩
  | succ k ih =>
    rw [List.range_succ, List.foldl_append]
    dsimp only [List.foldl_cons, List.foldl_nil]
    generalize (List.range k).foldl (fun i _ => if indexUsed ats n i then i + 1 else i) 0 = v at ih
    obtain ⟨hbelow, hat⟩ := ih
    cases hu : indexUsed ats n v with
    | false => exact ⟨hbelow, fun h => absurd (hu.symm.trans h) Bool.false_ne_true⟩
    | true =>
      rw [if_pos rfl]
      refine ⟨fun j hj => ?_, fun _ => congrArg (· + 1) (hat hu)⟩
      rcases Nat.lt_succ_iff_lt_or_eq.mp hj with hj | rfl
      · exact hbelow j hj
      · exact hu

/-- A list that holds every number below n has at least n entries. -/
theorem length_ge_of_range_subset {n : Nat} : ∀ {l : List Nat}, (∀ j < n, j ∈ l) → n ≤ l.length := by
  induction n with
  | zero => exact fun _ => Nat.zero_le _
  | succ n ih =>
    intro l h
    have hn : n ∈ l := h n (Nat.lt_succ_self n)
    have hle := ih (l := l.erase n) fun j hj => (List.mem_erase_of_ne (Nat.ne_of_lt hj)).mpr (h j (Nat.lt_succ_of_lt hj))
    have hpos := List.length_pos_of_mem hn
    rw [List.length_erase_of_mem hn] at hle
    omega

theorem freeIndex_free (ats : List AtsWait) (n : Nat) : indexUsed ats n (freeIndex ats n) = false := by
  obtain ⟨hbelow, hat⟩ := indexSearch ats n (ats.length + 1)
  have hdef : freeIndex ats n = (List.range (ats.length + 1)).foldl (fun i _ => if indexUsed ats n i then i + 1 else i) 0 := rfl
  rw [← hdef] at hbelow hat
  refine Decidable.byContradiction fun hused => ?_
  rw [Bool.not_eq_false] at hused
  have hall : ∀ j < ats.length + 1, j ∈ ats.map (·.index) := fun j hj => by
    obtain ⟨b, hb, _, _, hix⟩ := indexUsed_iff.mp (hbelow j (by rw [hat hused]; exact hj))
    exact List.mem_map.mpr ⟨b, hb, hix⟩
  have := length_ge_of_range_subset hall
  rw [List.length_map] at this
  omega

/-- A wait that sendPageRequest leaves was there, or is one that waited for room and has taken an index that was free. -/
theorem sendPageRequest_ats {s : State} {n : Nat} {old : List AtsWait} {a : AtsWait} (h : a ∈ (s.sendPageRequest n old).ats) :
    a ∈ s.ats ∨ (a.stage = 1 ∧ a.pset = n ∧ a.index = freeIndex old n) := by
  unfold State.sendPageRequest at h
  dsimp only at h
  split at h
  · exact .inl (List.mem_filter.mp h).1
  · split at h
    · exact .inl (List.mem_filter.mp h).1
    · obtain ⟨b, hb, rfl⟩ := List.mem_map.mp h
      split
      · next hdue =>
        dsimp only
        rw [Bool.and_eq_true, Bool.and_eq_true, Bool.and_eq_true, beq_iff_eq, beq_iff_eq] at hdue
        exact .inr ⟨hdue.1.1.1, hdue.1.1.2, rfl⟩
      · exact .inl (List.mem_filter.mp hb).1

/-- A wait of no open page request stands through sendPageRequest. -/
theorem sendPageRequest_keeps {s : State} {n : Nat} {old : List AtsWait} {a : AtsWait} (ha : a ∈ s.ats) (h : a.stage ≠ 1) : a ∈ (s.sendPageRequest n old).ats := by
  have hstage : (a.stage == 1) = false := beq_eq_false_iff_ne.mpr h
  have hfilter : a ∈ s.ats.filter fun a => !(a.stage == 1 && a.pset == n && a.index == unsentIndex && (a.gone || s.deadWait a)) :=
    List.mem_filter.mpr ⟨ha, by rw [hstage]; rfl⟩
  unfold State.sendPageRequest
  dsimp only
  split
  · exact hfilter
  · split
    · exact hfilter
    · refine List.mem_map.mpr ⟨a, hfilter, ?_⟩
      refine if_neg ?_
      rw [Bool.not_eq_true, hstage]
      rfl

theorem sendPageRequest_core (s : State) (n : Nat) (old : List AtsWait) (k : Nat) : (s.sendPageRequest n old).core k = s.core k := by
  unfold State.sendPageRequest
  dsimp only
  split
  · rfl
  · split <;> rfl

theorem core_eq_of_ats (s : State) (ats : List AtsWait) (k : Nat) : ({ s with ats := ats } : State).core k = s.core k := rfl

/-- Waits refused: a wait that stands afterwards stood before or stands refused, and a core that waited has its fault. -/
theorem denyWait_ats {s : State} {w a : AtsWait} (h : a ∈ (s.denyWait w).ats) : a ∈ s.ats ∨ a.stage = 3 := by
  unfold State.denyWait at h
  split at h
  · rcases List.mem_append.mp h with h | h
    · exact .inl h
    · rw [List.mem_singleton.mp h]
      exact .inr rfl
  · unfold State.xlatFault at h
    split at h
    · exact .inl h
    · rw [State.onCore, State.setCore_ats] at h
      exact .inl h

theorem denyWait_faulted {s : State} {w : AtsWait} {k : Nat} (h : (s.core k).xfault ≠ none) : ((s.denyWait w).core k).xfault ≠ none := by
  unfold State.denyWait
  split
  · exact h
  · unfold State.xlatFault
    split
    · exact h
    · rw [State.core_onCore _ _ _ _ (State.core_id ..)]
      split
      · exact Option.some_ne_none _
      · exact h

theorem denyWaits_ats {ws : List AtsWait} {s : State} {a : AtsWait} (h : a ∈ (s.denyWaits ws).ats) : a ∈ s.ats ∨ a.stage = 3 := by
  induction ws generalizing s with
  | nil => exact .inl h
  | cons w ws ih =>
    rcases ih (s := s.denyWait w) h with h | h
    · exact denyWait_ats h
    · exact .inr h

theorem denyWaits_faulted {ws : List AtsWait} {s : State} {k : Nat} (h : (s.core k).xfault ≠ none) : ((s.denyWaits ws).core k).xfault ≠ none := by
  induction ws generalizing s with
  | nil => exact h
  | cons w ws ih => exact ih (denyWait_faulted h)

theorem denyWaits_faults {ws : List AtsWait} {s : State} {a : AtsWait} (ha : a ∈ ws) (hcore : a.core < 1024) : ((s.denyWaits ws).core a.core).xfault ≠ none := by
  induction ws generalizing s with
  | nil => exact absurd ha List.not_mem_nil
  | cons w ws ih =>
    rcases List.mem_cons.mp ha with rfl | ha
    · refine denyWaits_faulted (s := s.denyWait a) ?_
      rw [denyWait_core hcore, State.core_onCore_self]
      · exact Option.some_ne_none _
      · exact State.core_id ..
    · exact ih ha

/-- An open page request of set n that the response names. -/
def AtsWait.named (n index pasid : Nat) (a : AtsWait) : Bool := a.stage == 1 && a.pset == n && a.index == index && a.index != unsentIndex && a.pasid == pasid

theorem priResponse_exec {n : Nat} (h : n < 7) (index pasid : Nat) (code : PriCode) (s : State) :
    exec (.priResponse n index pasid code) s = .next (s.priAnswer n index pasid code) := by
  show (.next (if n < 7 then s.priAnswer n index pasid code else s) : Result) = _
  rw [if_pos h]

theorem priAnswer_stray {s : State} {n index pasid : Nat} {code : PriCode}
    (h : ∀ a ∈ s.ats, ¬(a.stage = 1 ∧ a.pset = n ∧ a.index = index ∧ a.pasid = pasid)) (hfull : (s.pad n).priStray ≠ BitVec.allOnes 32) :
    ((s.priAnswer n index pasid code).pad n).priStray = (s.pad n).priStray + 1 ∧ (s.priAnswer n index pasid code).ats = s.ats := by
  have hnone : s.ats.any (AtsWait.named n index pasid) = false := by
    rw [List.any_eq_false]
    intro a ha hnamed
    simp only [AtsWait.named, Bool.and_eq_true, beq_iff_eq] at hnamed
    obtain ⟨⟨⟨⟨h1, h2⟩, h3⟩, _⟩, h5⟩ := hnamed
    exact h a ha ⟨h1, h2, h3, h5⟩
  have heq : s.priAnswer n index pasid code = s.onPad n fun p => { p with priStray := if p.priStray == BitVec.allOnes 32 then p.priStray else p.priStray + 1 } := by
    unfold State.priAnswer
    refine if_pos ?_
    exact congrArg not hnone
  rw [heq, pad_onPad_self]
  refine ⟨?_, rfl⟩
  rw [if_neg (by rw [beq_iff_eq]; exact hfull)]

section named
variable {s : State} {n index pasid : Nat} {a : AtsWait} (ha : a ∈ s.ats) (hnamed : a.named n index pasid = true) (hdead : s.deadWait a = false)
include ha hnamed hdead

/-- What the response does where a live request is named. -/
theorem priAnswer_live (code : PriCode) :
    a ∈ (s.ats.filter (AtsWait.named n index pasid)).filter (fun a => !s.deadWait a) ∧
    s.priAnswer n index pasid code = match (generalizing := false) code with
      | .success => ({ s with
          ats := (s.ats.filter fun a => !(a.named n index pasid && (a.gone || s.deadWait a))).map fun a => if a.named n index pasid then { a with stage := 2 } else a
          out := s.out ++ (((s.ats.filter (AtsWait.named n index pasid)).filter fun a => !s.deadWait a).filter fun (a : AtsWait) => !a.gone).map
            fun (a : AtsWait) => Out.atsRequest (n + 1) pasid a.va (a.acc == Access.write) } : State).sendPageRequest n s.ats
      | .invalid => (({ s with ats := s.ats.filter fun a => !a.named n index pasid } : State).denyWaits
          ((s.ats.filter (AtsWait.named n index pasid)).filter fun a => !s.deadWait a)).sendPageRequest n s.ats
      | .failure => (({ s with ats := s.ats.filter fun a => !(a.stage == 1 && a.pset == n) } : State).denyWaits
          (s.ats.filter fun a => (a.stage == 1 && a.pset == n) && !s.deadWait a)).onPad n fun p => { p with priStopped := true } := by
  have hlive : a ∈ (s.ats.filter (AtsWait.named n index pasid)).filter (fun a => !s.deadWait a) :=
    List.mem_filter.mpr ⟨List.mem_filter.mpr ⟨ha, hnamed⟩, by rw [hdead]; rfl⟩
  refine ⟨hlive, ?_⟩
  have hany : s.ats.any (AtsWait.named n index pasid) = true := List.any_eq_true.mpr ⟨a, ha, hnamed⟩
  have hfull : ((s.ats.filter (AtsWait.named n index pasid)).filter (fun a => !s.deadWait a)).isEmpty = false :=
    List.isEmpty_eq_false_iff.mpr (List.ne_nil_of_mem hlive)
  unfold State.priAnswer
  rw [if_neg, if_neg]
  · cases code <;> rfl
  · rw [Bool.not_eq_true]
    exact hfull
  · rw [Bool.not_eq_true]
    exact congrArg not hany

theorem priAnswer_success (hcore : a.core < 1024) : { a with stage := 2 } ∈ (s.priAnswer n index pasid .success).ats := by
  rw [(priAnswer_live ha hnamed hdead .success).2]
  refine sendPageRequest_keeps (List.mem_map.mpr ⟨a, List.mem_filter.mpr ⟨ha, ?_⟩, ?_⟩) (Nat.succ_ne_self 1)
  · have hgone : a.gone = false := beq_eq_false_iff_ne.mpr (by omega)
    rw [hgone, hdead, Bool.or_self, Bool.and_false]
    rfl
  · rw [hnamed, if_pos rfl]

theorem priAnswer_invalid (h1 : a.stage = 1) (hset : a.pset = n) (hcore : a.core < 1024) :
    a ∉ (s.priAnswer n index pasid .invalid).ats ∧ ((s.priAnswer n index pasid .invalid).core a.core).xfault ≠ none := by
  obtain ⟨hlive, heq⟩ := priAnswer_live ha hnamed hdead .invalid
  rw [heq]
  refine ⟨fun hin => ?_, ?_⟩
  · rcases sendPageRequest_ats hin with hin | ⟨_, _, hix⟩
    · rcases denyWaits_ats hin with hin | h3
      · have := (List.mem_filter.mp hin).2
        rw [hnamed] at this
        exact Bool.false_ne_true this
      · rw [h1] at h3
        exact absurd h3 (by decide)
    · have hused := indexUsed_iff.mpr ⟨a, ha, h1, hset, hix⟩
      rw [freeIndex_free] at hused
      exact Bool.false_ne_true hused
  · rw [sendPageRequest_core]
    exact denyWaits_faults hlive hcore

theorem priAnswer_failure (h1 : a.stage = 1) (hset : a.pset = n) :
    a ∉ (s.priAnswer n index pasid .failure).ats ∧ ((s.priAnswer n index pasid .failure).pad n).priStopped = true := by
  rw [(priAnswer_live ha hnamed hdead .failure).2]
  refine ⟨fun hin => ?_, congrArg Paddock.priStopped (pad_onPad_self ..)⟩
  rcases denyWaits_ats hin with hin | h3
  · have := (List.mem_filter.mp hin).2
    rw [h1, hset, beq_self_eq_true, beq_self_eq_true] at this
    exact Bool.false_ne_true this
  · rw [h1] at h3
    exact absurd h3 (by decide)
end named

theorem priResponse_spec {s : State} {n index pasid : Nat} (code : PriCode) (hn : n < 7) :
    ((∀ a ∈ s.ats, ¬(a.stage = 1 ∧ a.pset = n ∧ a.index = index ∧ a.pasid = pasid)) → (s.pad n).priStray ≠ BitVec.allOnes 32 →
      ∃ t : State, exec (.priResponse n index pasid code) s = .next t ∧ (t.pad n).priStray = (s.pad n).priStray + 1 ∧ t.ats = s.ats) ∧
    (∀ a ∈ s.ats, index < 512 → a.core < 1024 → a.stage = 1 → a.pset = n → a.index = index → a.pasid = pasid → s.deadWait a = false →
      (∃ t : State, exec (.priResponse n index pasid .success) s = .next t ∧ { a with stage := 2 } ∈ t.ats) ∧
      (∃ t : State, exec (.priResponse n index pasid .invalid) s = .next t ∧ a ∉ t.ats ∧ (t.core a.core).xfault ≠ none) ∧
      (∃ t : State, exec (.priResponse n index pasid .failure) s = .next t ∧ a ∉ t.ats ∧ (t.pad n).priStopped = true)) := by
  have hexec := fun code => priResponse_exec hn index pasid code s
  refine ⟨fun hnone hfull => ⟨_, hexec code, priAnswer_stray hnone hfull⟩, fun a ha hix hcore h1 hset hindex hpasid hdead => ?_⟩
  have hunsent : (a.index != unsentIndex) = true := by
    rw [bne_iff_ne, hindex, unsentIndex]
    omega
  have hnamed : a.named n index pasid = true := by
    rw [AtsWait.named, h1, hset, hunsent, hindex, hpasid]
    simp
  exact ⟨⟨_, hexec .success, priAnswer_success ha hnamed hdead hcore⟩, ⟨_, hexec .invalid, priAnswer_invalid ha hnamed hdead h1 hset hcore⟩,
    ⟨_, hexec .failure, priAnswer_failure ha hnamed hdead h1 hset⟩⟩

/-! ### Invalidations and removals (R360, R361, R366) -/

theorem removeAtSlices_stc (s : State) (n : Nat) (sel : XSel) : ((removeAtSlices s n sel).pad n).stc = (s.pad n).stc.filter fun x => !sel.hits x.2.2 :=
  congrArg Paddock.stc (pad_onPad_self ..)

theorem serveRemoval_slices {s t : State} {core n : Nat} {sel : XSel} (h : serveRemoval s core n sel 1027 = some t) : t = removeAtSlices s n sel := by
  unfold serveRemoval at h
  rw [if_pos (by rfl)] at h
  split at h
  · exact absurd h (by simp)
  · exact (Option.some.inj h).symm

theorem removeEverywhere_stc {s t : State} {n : Nat} {sel : XSel} (h : removeEverywhere s n sel = some t) : ∀ x ∈ (t.pad n).stc, sel.hits x.2.2 = false := by
  unfold removeEverywhere at h
  dsimp only at h
  split at h
  · exact absurd h (by simp)
  · intro x hx
    rw [serveRemoval_slices h, removeAtSlices_stc] at hx
    simpa using (List.mem_filter.mp hx).2

theorem atsInvalidate_eq {s s₁ : State} {vf pasid base len : Nat} {asids : List Nat} (h1 : 1 ≤ vf) (h7 : vf ≤ 7)
    (h : pasidAsids (vf - 1) pasid (namedAsids s (vf - 1)) s = .ok s₁ asids) :
    s.atsInvalidate vf pasid base len =
      (asids.foldl (fun (o : Option State) a => o.bind fun s => removeEverywhere s (vf - 1) (.range a base (base + len))) (some s₁)).map fun s =>
        { s with out := s.out ++ [.invalidationDone vf pasid] } := by
  have hvf : (vf == 0 || decide (7 < vf)) = false := by
    rw [Bool.or_eq_false_iff, beq_eq_false_iff_ne, decide_eq_false_iff_not]
    omega
  unfold State.atsInvalidate
  rw [hvf, if_neg Bool.false_ne_true]
  dsimp only
  rw [h]

theorem atsInvalidation_spec {s : State} {vf pasid base len : Nat} (h1 : 1 ≤ vf) (h7 : vf ≤ 7) :
    (∀ s₁, pasidAsids (vf - 1) pasid (namedAsids s (vf - 1)) s = .ok s₁ [] →
      exec (.atsInvalidation vf pasid base len) s = .next { s₁ with out := s₁.out ++ [.invalidationDone vf pasid] }) ∧
    (∀ s₁ a t, pasidAsids (vf - 1) pasid (namedAsids s (vf - 1)) s = .ok s₁ [a] →
      removeEverywhere s₁ (vf - 1) (.range a base (base + len)) = some t →
      exec (.atsInvalidation vf pasid base len) s = .next { t with out := t.out ++ [.invalidationDone vf pasid] } ∧
      ∀ x ∈ (t.pad (vf - 1)).stc, (XSel.range a base (base + len)).hits x.2.2 = false) := by
  refine ⟨fun s₁ h => ?_, fun s₁ a t h ht => ⟨?_, removeEverywhere_stc ht⟩⟩
  · exact congrArg (served s) (atsInvalidate_eq h1 h7 h)
  · refine (congrArg (served s) (atsInvalidate_eq h1 h7 h)).trans ?_
    rw [List.foldl_cons, List.foldl_nil, Option.bind_some, ht]
    rfl

theorem xlatiRemoval_spec {s : State} {i core n target : Nat} {sel : XSel} (h : s.ctl[i]? = some (.removal core n sel target)) :
    (target ≠ 1027 → .removal core n sel 1027 ∉ s.ctl → heldXlat s target sel = false → engineUses s n sel = false →
      ∃ t : State, exec (.xlatiRemoval i) s = .next t ∧ (t.core target).ctc = (s.core target).ctc.filter (fun x => !sel.hits x) ∧
        t.ctl = s.ctl.eraseIdx i ∧ t.mem = s.mem) ∧
    (target = 1027 → s.ats = [] → ∃ t : State, exec (.xlatiRemoval i) s = .next t ∧
      (t.pad n).stc = (s.pad n).stc.filter (fun x => !sel.hits x.2.2) ∧ t.ctl = s.ctl.eraseIdx i ∧ t.mem = s.mem) := by
  have hserve : s.serveCtl i = serveRemoval { s with ctl := s.ctl.eraseIdx i } core n sel target := by
    unfold State.serveCtl
    rw [h]
  refine ⟨fun htarget hslices hheld hengine => ?_, fun htarget hats => ?_⟩
  · have hgo : serveRemoval { s with ctl := s.ctl.eraseIdx i } core n sel target = some (removeAtCore { s with ctl := s.ctl.eraseIdx i } target sel) := by
      have hno : (s.ctl.eraseIdx i).contains (.removal core n sel 1027) = false := by
        rw [← Bool.not_eq_true, List.contains_iff_mem]
        exact fun hin => hslices (List.mem_of_mem_eraseIdx hin)
      have hused : ((s.ctl.eraseIdx i).contains (.removal core n sel 1027) || heldXlat s target sel || engineUses s n sel) = false := by
        rw [hno, hheld, hengine]
        rfl
      unfold serveRemoval
      rw [if_neg (by rw [beq_iff_eq]; exact htarget)]
      refine if_neg ?_
      rw [Bool.not_eq_true]
      exact hused
    refine ⟨_, serveCtlIf_spec h rfl (hserve.trans hgo), ?_, State.setCore_ctl .., State.onCore_mem ..⟩
    rw [removeAtCore, State.core_onCore_self]
    · rfl
    · exact State.core_id ..
  · have hgo : serveRemoval { s with ctl := s.ctl.eraseIdx i } core n sel target = some (removeAtSlices { s with ctl := s.ctl.eraseIdx i } n sel) := by
      unfold serveRemoval
      rw [htarget, if_pos (by rfl), if_neg]
      dsimp only
      rw [hats]
      exact Bool.false_ne_true
    exact ⟨_, serveCtlIf_spec h rfl (hserve.trans hgo), removeAtSlices_stc .., rfl, rfl⟩

/-! ### Boundary ports (R371) -/

theorem dropNet_req {s : State} {i : Nat} {f : InFlight} {r : MReq} (h : f.pkt = .req r) (hplace : s.placeOf (r.line * 128) = .ok .localHbm) :
    dropNet s i f = some ⟨s.tagOf r.core, askingCore r.core, r.address, (s.took i).refuse r (.access .boundary)⟩ := by
  unfold dropNet
  rw [h]
  dsimp only
  rw [hplace]
  rfl

theorem boundaryDrop_refuses {s : State} {i cell port : Nat} {f : InFlight} {r : MReq} (hf : s.net[i]? = some f) (hr : f.pkt = .req r) (hcore : r.core < 512)
    (htag : (s.core r.core).tag ≠ 7) (hplace : s.placeOf (r.line * 128) = .ok .localHbm) (hcell : cell < 192) (hport : port < 4)
    (hbit : bitAt (s.core (s.coreNo cell)).bport port = true) : Refuses (.boundaryDrop i cell port) s i r .boundary := by
  refine refuses_of (t := s.took i) fun p hp => ?_
  have hopen : ((s.core r.core).tag == 7 || decide (192 ≤ cell) || decide (4 ≤ port) || !bitAt (s.core (s.coreNo cell)).bport port) = false := by
    rw [hbit, beq_eq_false_iff_ne.mpr htag, decide_eq_false (by omega), decide_eq_false (by omega)]
    rfl
  have hexec : exec (.boundaryDrop i cell port) s = served s ((s.dropAtBoundary i cell port).map (·.settle)) := rfl
  unfold State.dropAtBoundary at hexec
  rw [hf] at hexec
  dsimp only at hexec
  rw [dropNet_req hr hplace] at hexec
  dsimp only at hexec
  rw [tagOf_core s hcore, hopen, if_neg Bool.false_ne_true, hp] at hexec
  split at hexec
  · exact ⟨_, hexec, rfl, State.post_pkts .., trivial⟩
  · exact ⟨_, hexec, rfl, State.post_pkts .., trivial⟩

/-- Settles O55: each walk level, each answer and each removal by its own lemma. -/
theorem translationsAreAnsweredAndRemoved : Obligations.TranslationsAreAnsweredAndRemoved := by
  unfold Obligations.TranslationsAreAnsweredAndRemoved
  intro s i
  refine ⟨fun n asid va svm fuel level t d hcard hhbm hsize hstack _ => ?_, fun r h hw hcore => stcRequest_spec h hw hcore,
    fun r s₁ w h hw hcore hbusy hwalk hone => walkComplete_spec h hw hcore hbusy hwalk hone,
    fun a iova rd wr h h1 h3 hcore => atsCompletion_spec rd wr h h1 h3 hcore, fun n index pasid code hn => priResponse_spec code hn,
    fun vf pasid base len h1 h7 => atsInvalidation_spec h1 h7, fun core n sel target h => xlatiRemoval_spec h,
    fun f r cell port hf hr hcore htag hplace hcell hport hbit => boundaryDrop_refuses hf hr hcore htag hplace hcell hport hbit⟩
  exact fun hdir hround hst hset hparked hbank => walk_levels hcard hhbm hsize hstack ⟨hdir, hround, hst, hset, hparked, hbank⟩

/-! ### What a network interface takes (R247, R279, R285) -/

/-- What a change of one core leaves as it was there, it leaves in every core. -/
theorem setCore_keeps {β : Type} (g : Core → β) {s : State} {c : Core} (h : g c = g (s.core c.id)) (k : Nat) : g ((s.setCore c).core k) = g (s.core k) := by
  rw [State.core_setCore]
  split
  · next hk =>
    rw [h, hk]
  · rfl

theorem setCore_at {s : State} {c : Core} {k : Nat} (h : c.id = k) : (s.setCore c).core k = c := by
  rw [State.core_setCore, if_pos h.symm]

theorem onCore_keeps {β : Type} (g : Core → β) {s : State} {j : Nat} {f : Core → Core} (hid : (f (s.core j)).id = j) (h : g (f (s.core j)) = g (s.core j)) (k : Nat) :
    g ((s.onCore j f).core k) = g (s.core k) := setCore_keeps g (by rw [hid]; exact h) k

theorem serveNiIf_takes {x : Instr} {s u : State} {i : Nat} {p : NiPkt} {is : NiPkt → Bool} {P : State → Prop} (hexec : exec x s = serveNiIf s i is)
    (hat : NiAt s i p) (his : is p = true) (hu : s.serveNi i = some u) (hP : P u) : TakesNi x s P := by
  obtain ⟨f, hf, rfl, _⟩ := hat
  refine ⟨u, ?_, hP⟩
  rw [hexec, serveNiIf, hf]
  dsimp only
  rw [his, if_pos rfl, hu]
  rfl

theorem eraseIdx_map_comm {α β : Type} (f : α → β) : ∀ (l : List α) (i : Nat), (l.map f).eraseIdx i = (l.eraseIdx i).map f
  | [], _ => rfl
  | _ :: _, 0 => rfl
  | a :: l, i + 1 => congrArg (f a :: ·) (eraseIdx_map_comm f l i)

theorem niPkts_erase {s : State} {i : Nat} : s.niPkts.eraseIdx i = (s.ni.eraseIdx i).map (·.pkt) := by
  exact eraseIdx_map_comm _ _ _

/-- What the serving of a message, or of a task, is once it may move. -/
theorem serveNi_msg {s u : State} {i launch rx ry : Nat} {counts : Option Nat} {m : Msg} {refused : Bool}
    (hat : NiAt s i (.msg launch rx ry counts m refused)) (hheld : heldBack (s.ni.take i) launch rx ry m.sender = false)
    (hu : arriveAt { s with ni := s.ni.eraseIdx i } launch rx ry (.inl m) = some u) : s.serveNi i = some (u.uncount counts) := by
  obtain ⟨f, hf, hp, hshut, hwait⟩ := hat
  rw [← hp] at hshut
  unfold State.serveNi
  rw [hf]
  dsimp only
  rw [hshut, if_neg Bool.false_ne_true, hp, hwait]
  dsimp only
  rw [hheld, Bool.and_false, Bool.or_self, if_neg Bool.false_ne_true, hu]

theorem serveNi_task {s u : State} {i launch rx ry : Nat} {counts : Option Nat} {t : Task} {refused : Bool}
    (hat : NiAt s i (.task launch rx ry counts t refused)) (hheld : heldBack (s.ni.take i) launch rx ry t.sender = false)
    (hu : arriveAt { s with ni := s.ni.eraseIdx i } launch rx ry (.inr t) = some u) : s.serveNi i = some (u.uncount counts) := by
  obtain ⟨f, hf, hp, hshut, hwait⟩ := hat
  rw [← hp] at hshut
  unfold State.serveNi
  rw [hf]
  dsimp only
  rw [hshut, if_neg Bool.false_ne_true, hp, hwait]
  dsimp only
  rw [hheld, Bool.and_false, Bool.or_self, if_neg Bool.false_ne_true, hu]

theorem logArrival_off {s : State} {k sender slot : Nat} {task : Bool} (h : 7 ≤ (s.core k).paddock ∨ (s.pad (s.core k).paddock).rrMode = 0) :
    s.logArrival k sender slot task = some s := by
  unfold State.logArrival
  refine if_pos ?_
  rw [Bool.or_eq_true, decide_eq_true_eq, beq_iff_eq]
  exact h

theorem logDispatch_off {s : State} {n kind who x : Nat} (h : 7 ≤ n ∨ (s.pad n).rrMode = 0) : s.logDispatch n kind who x = some s := by
  unfold State.logDispatch
  refine if_pos ?_
  rw [Bool.or_eq_true, decide_eq_true_eq, beq_iff_eq]
  exact h

/-- No record or replay is on at core k. -/
def Unrecorded (s : State) (k : Nat) : Prop := 7 ≤ (s.core k).paddock ∨ (s.pad (s.core k).paddock).rrMode = 0

theorem Unrecorded.setCore {s : State} {k : Nat} {c : Core} (h : Unrecorded s k) (hc : c.paddock = (s.core c.id).paddock) : Unrecorded (s.setCore c) k := by
  unfold Unrecorded
  rw [setCore_keeps (·.paddock) hc k]
  unfold State.pad
  rw [State.setCore_pads]
  exact h

/-- A message's place at an interface whose loft holds none before it. -/
theorem placeMsg_slot {s : State} {k : Nat} {m : Msg} (hloft : (s.core k).lofting = false) (hhas : loftHas s (s.core k) false = false)
    (hempty : (s.core k).slotEmpty m.slot = true) : placeMsg s k m = some (s.setCore ((s.core k).fillSlot m)) := by
  unfold placeMsg
  dsimp only
  rw [hloft, hhas, Bool.or_self, if_neg Bool.false_ne_true, hempty, if_pos rfl]

theorem placeMsg_queue {s : State} {k : Nat} {m : Msg} (hloft : (s.core k).lofting = false) (hhas : loftHas s (s.core k) false = false)
    (hempty : (s.core k).slotEmpty m.slot = false) (hroom : (s.core k).arrivals.length < 64) :
    placeMsg s k m = some (s.setCore { s.core k with arrivals := (s.core k).arrivals ++ [m] }) := by
  unfold placeMsg
  dsimp only
  rw [hloft, hhas, Bool.or_self, if_neg Bool.false_ne_true, hempty, if_neg Bool.false_ne_true, if_pos hroom]

theorem placeMsg_full {s : State} {k : Nat} {m : Msg} (hloft : (s.core k).lofting = false) (hhas : loftHas s (s.core k) false = false)
    (hempty : (s.core k).slotEmpty m.slot = false) (hfull : (s.core k).arrivals.length = 64) (hfree : (s.core k).loftFree < (msgRecord m).1) :
    placeMsg s k m = none := by
  unfold placeMsg
  dsimp only
  rw [hloft, hhas, Bool.or_self, if_neg Bool.false_ne_true, hempty, if_neg Bool.false_ne_true, if_neg (by omega), loftPut, if_pos hfree]
  rfl

theorem deliverMsg_placed {s u : State} {k : Nat} {m : Msg} (h : placeMsg s k m = some u) (hlog : Unrecorded u k) : deliverMsg s k m = some u := by
  unfold deliverMsg
  rw [h]
  exact logArrival_off hlog

theorem deliverMsg_refused {s : State} {k : Nat} {m : Msg} (h : placeMsg s k m = none) : deliverMsg s k m = none := by
  unfold deliverMsg
  rw [h]

theorem Core.fillSlot_mbox (c : Core) (m : Msg) :
    (c.fillSlot m).mbox[Fin.ofNat 32 m.slot] = { value := m.value, present := true, scope := m.scope, brand := m.brand } := Vector.getElem_set_self ..

/-- What arrives at an interface that is live goes to it. -/
theorem NiLive.arrives {s : State} {launch rx ry k : Nat} (h : NiLive s launch rx ry k) (ni : List NiFlight) :
    (∀ m, arriveAt { s with ni := ni } launch rx ry (.inl m) = deliverMsg { s with ni := ni } k m) ∧
    (∀ x, arriveAt { s with ni := ni } launch rx ry (.inr x) = deliverTask { s with ni := ni } k launch x) := by
  obtain ⟨hnamed, ⟨l, t, hl, hkilled, ht, hlive, hleaving, hcore, hlate⟩, _⟩ := h
  have hplace (r : Sum Msg Task) : arriveAt { s with ni := ni } launch rx ry r = placeAtNi { s with ni := ni } launch t r := by
    unfold arriveAt
    rw [if_neg (by rw [beq_iff_eq]; exact hnamed), show State.launchOf { s with ni := ni } launch = some l from hl]
    dsimp only
    rw [if_neg (by rw [beq_iff_eq]; exact hkilled), ht]
    dsimp only
    rw [hlive]
    dsimp only
    rw [hleaving, if_neg Bool.false_ne_true, hlate]
    rfl
  refine ⟨fun m => (hplace _).trans ?_, fun x => (hplace _).trans ?_⟩
  · rw [placeAtNi, hlive, hcore]
    rfl
  · rw [placeAtNi, hcore]

theorem uncount_ni (s : State) (c : Option Nat) : (s.uncount c).ni = s.ni := by
  cases c with
  | none => rfl
  | some c => exact State.onCore_ni ..

theorem uncount_launches (s : State) (c : Option Nat) : (s.uncount c).launches = s.launches := by
  cases c with
  | none => rfl
  | some c => exact State.onCore_launches ..

theorem uncount_keeps {β : Type} (g : Core → β) (hg : ∀ (c : Core) (n : Nat), g { c with others := n } = g c) (s : State) (c : Option Nat) (k : Nat) :
    g ((s.uncount c).core k) = g (s.core k) := by
  cases c with
  | none => rfl
  | some c => exact onCore_keeps g (State.core_id ..) (hg ..) k

theorem uncount_others (s : State) (c : Nat) : ((s.uncount (some c)).core c).others = (s.core c).others - 1 := by
  refine congrArg Core.others (State.core_onCore_self s c (fun c => { c with others := c.others - 1 }) (State.core_id ..))

section arrival
variable {s : State} {i launch rx ry k : Nat} {counts : Option Nat} {m : Msg} (hlive : NiLive s launch rx ry k)
  (hheld : heldBack (s.ni.take i) launch rx ry m.sender = false) (hloft : (s.core k).lofting = false) (hhas : loftHas s (s.core k) false = false)
include hlive hheld hloft hhas
omit hloft hhas in

theorem message_served {u : State} {refused : Bool} (hat : NiAt s i (.msg launch rx ry counts m refused))
    (hu : placeMsg { s with ni := s.ni.eraseIdx i } k m = some u) (hlog : Unrecorded u k) : s.serveNi i = some (u.uncount counts) :=
  serveNi_msg hat hheld (((hlive.arrives _).1 m).trans (deliverMsg_placed hu hlog))

theorem message_slot {x : Instr} {refused : Bool} (hx : x = (if refused then .sendRetry i else .messageArrival i))
    (hat : NiAt s i (.msg launch rx ry counts m refused)) (hempty : (s.core k).slotEmpty m.slot = true) :
    TakesNi x s fun u =>
      (u.core k).mbox[Fin.ofNat 32 m.slot] = { value := m.value, present := true, scope := m.scope, brand := m.brand } ∧
      u.niPkts = s.niPkts.eraseIdx i ∧ ∀ c, counts = some c → (u.core c).others = (s.core c).others - 1 := by
  obtain ⟨poison, mbox, hfill⟩ := (s.core k).fillSlot_eq m
  have hid : ((s.core k).fillSlot m).id = k := by
    rw [hfill]
    exact State.core_id s k
  have hothers : ((s.core k).fillSlot m).others = (s.core ((s.core k).fillSlot m).id).others := by rw [hid, hfill]
  have hpaddock : ((s.core k).fillSlot m).paddock = (s.core ((s.core k).fillSlot m).id).paddock := by rw [hid, hfill]
  have hserved := message_served hlive hheld hat (placeMsg_slot (s := { s with ni := s.ni.eraseIdx i }) hloft hhas hempty)
    (Unrecorded.setCore (s := { s with ni := s.ni.eraseIdx i }) hlive.unlogged hpaddock)
  have hP : ∀ u, u = ((({ s with ni := s.ni.eraseIdx i } : State).setCore ((s.core k).fillSlot m)).uncount counts) →
      (u.core k).mbox[Fin.ofNat 32 m.slot] = { value := m.value, present := true, scope := m.scope, brand := m.brand } ∧
      u.niPkts = s.niPkts.eraseIdx i ∧ ∀ c, counts = some c → (u.core c).others = (s.core c).others - 1 := by
    rintro u rfl
    refine ⟨?_, ?_, ?_⟩
    · rw [uncount_keeps (fun c => c.mbox[Fin.ofNat 32 m.slot]) (fun _ _ => rfl), setCore_at hid]
      exact Core.fillSlot_mbox ..
    · rw [niPkts_erase, State.niPkts, uncount_ni, State.setCore_ni]
    · rintro c rfl
      rw [uncount_others]
      exact congrArg (· - 1) (setCore_keeps (s := { s with ni := s.ni.eraseIdx i }) (·.others) hothers c)
  cases refused with
  | false =>
    rw [show x = .messageArrival i from hx]
    exact serveNiIf_takes (is := fun p => match p with | .msg _ _ _ _ _ refused => !refused | _ => false)
      rfl hat rfl hserved (hP _ rfl)
  | true =>
    rw [show x = .sendRetry i from hx]
    exact serveNiIf_takes (is := fun p => match p with | .msg _ _ _ _ _ refused => refused | .task _ _ _ _ _ refused => refused | _ => false) rfl hat rfl hserved (hP _ rfl)

theorem message_queued {x : Instr} {refused : Bool} (hx : x = (if refused then .sendRetry i else .messageArrival i))
    (hat : NiAt s i (.msg launch rx ry counts m refused)) (hempty : (s.core k).slotEmpty m.slot = false) (hroom : (s.core k).arrivals.length < 64) :
    TakesNi x s fun u => (u.core k).arrivals = (s.core k).arrivals ++ [m] ∧ (u.core k).mbox = (s.core k).mbox ∧ u.niPkts = s.niPkts.eraseIdx i := by
  have hid : ({ s.core k with arrivals := (s.core k).arrivals ++ [m] } : Core).id = k := State.core_id s k
  have hserved := message_served hlive hheld hat (placeMsg_queue (s := { s with ni := s.ni.eraseIdx i }) hloft hhas hempty hroom)
    (Unrecorded.setCore (s := { s with ni := s.ni.eraseIdx i }) hlive.unlogged (congrArg (fun j => (s.core j).paddock) hid).symm)
  have hP : ∀ u, u = ((({ s with ni := s.ni.eraseIdx i } : State).setCore { s.core k with arrivals := (s.core k).arrivals ++ [m] }).uncount counts) →
      (u.core k).arrivals = (s.core k).arrivals ++ [m] ∧ (u.core k).mbox = (s.core k).mbox ∧ u.niPkts = s.niPkts.eraseIdx i := by
    rintro u rfl
    refine ⟨?_, ?_, ?_⟩
    · rw [uncount_keeps (·.arrivals) (fun _ _ => rfl), setCore_at hid]
    · rw [uncount_keeps (·.mbox) (fun _ _ => rfl), setCore_at hid]
    · rw [niPkts_erase, State.niPkts, uncount_ni, State.setCore_ni]
  cases refused with
  | false =>
    rw [show x = .messageArrival i from hx]
    exact serveNiIf_takes (is := fun p => match p with | .msg _ _ _ _ _ refused => !refused | _ => false)
      rfl hat rfl hserved (hP _ rfl)
  | true =>
    rw [show x = .sendRetry i from hx]
    exact serveNiIf_takes (is := fun p => match p with | .msg _ _ _ _ _ refused => refused | .task _ _ _ _ _ refused => refused | _ => false) rfl hat rfl hserved (hP _ rfl)

theorem message_refused (hat : NiAt s i (.msg launch rx ry counts m false)) (hempty : (s.core k).slotEmpty m.slot = false)
    (hfull : (s.core k).arrivals.length = 64) (hfree : (s.core k).loftFree < (msgRecord m).1) :
    TakesNi (.messageArrival i) s fun u => u.niPkts = s.niPkts.set i (.msg launch rx ry counts m true) ∧ u.me = s.me ∧ u.cores = s.cores ∧ u.mem = s.mem := by
  have harr := ((hlive.arrives (s.ni.eraseIdx i)).1 m).trans (deliverMsg_refused (placeMsg_full (s := { s with ni := s.ni.eraseIdx i }) hloft hhas hempty hfull hfree))
  have hwarm : s.warmLate launch rx ry (.inl m) false = some s := by
    obtain ⟨l, t, hl, _, ht, hst, hleaving, _⟩ := hlive.stream
    unfold State.warmLate
    rw [hl, Option.bind_some, ht]
    dsimp only [Option.map_some]
    rw [hst, hleaving]
    rfl
  have hserved : ∃ f : NiFlight, s.serveNi i = some { s with ni := s.ni.set i { f with pkt := .msg launch rx ry counts m true } } := by
    obtain ⟨f, hf, hp, hshut, hwait⟩ := hat
    rw [← hp] at hshut
    refine ⟨f, ?_⟩
    unfold State.serveNi
    rw [hf]
    dsimp only
    rw [hshut, if_neg Bool.false_ne_true, hp, hwait]
    dsimp only
    rw [hheld, Bool.and_false, Bool.or_self, if_neg Bool.false_ne_true, harr, hwarm]
    rfl
  obtain ⟨f, hserved⟩ := hserved
  exact serveNiIf_takes (x := .messageArrival i) (is := fun p => match p with | .msg _ _ _ _ _ refused => !refused | _ => false) rfl hat rfl hserved
    ⟨List.map_set .., rfl, rfl, rfl⟩
end arrival

/-! ### Tasks (R285, R288) -/

/-- A search that the arrival of a task at (rx, ry) of a launch ends. -/
def Core.woken (launch rx ry : Nat) (c : Core) : Core :=
  match c.search with
  | some (_, g) =>
    if c.launch == some launch && decide (g.gx ≤ rx) && decide (rx < g.gx + g.gw) && decide (g.gy ≤ ry) && decide (ry < g.gy + g.gh)
      && c.granted.isNone then { c with search := none } else c
  | none => c

theorem Core.woken_eq (launch rx ry : Nat) (c : Core) : ∃ search, c.woken launch rx ry = { c with search := search } := by
  unfold Core.woken
  split
  · split
    · exact ⟨_, rfl⟩
    · exact ⟨c.search, rfl⟩
  · exact ⟨c.search, rfl⟩

theorem wakeSearch_eq (s : State) (launch rx ry : Nat) :
    s.wakeSearch launch rx ry = { s with me := s.me.woken launch rx ry, cores := s.cores.map (·.woken launch rx ry) } := rfl

theorem wakeSearch_core (s : State) (launch rx ry k : Nat) : (s.wakeSearch launch rx ry).core k = (s.core k).woken launch rx ry := by
  rw [wakeSearch_eq]
  refine core_mapped s (·.woken launch rx ry) (fun c => ?_) (fun k => rfl) s.net k
  obtain ⟨search, h⟩ := c.woken_eq launch rx ry
  rw [h]

theorem wakeSearch_keeps {β : Type} (g : Core → β) (hg : ∀ (c : Core) search, g { c with search := search } = g c) (s : State) (launch rx ry k : Nat) :
    g ((s.wakeSearch launch rx ry).core k) = g (s.core k) := by
  obtain ⟨search, h⟩ := (s.core k).woken_eq launch rx ry
  rw [wakeSearch_core, h, hg]

/-- A task as its first queue numbers it. -/
def Task.numberedAt (c : Core) (t : Task) : Task := { t with owner := c.ry * 16 + c.rx, seq := c.taskSeq, numbered := true }

theorem enqueueTask_room {s : State} {k : Nat} {t : Task} (hloft : (s.core k).lofting = false) (hhas : loftHas s (s.core k) true = false)
    (hroom : (s.core k).taskQueue.length < 64) : enqueueTask s k t = some (s.setCore { s.core k with taskQueue := (s.core k).taskQueue ++ [t] }) := by
  unfold enqueueTask
  dsimp only
  rw [hloft, hhas, decide_eq_true hroom]
  rfl

theorem deliverTask_room {s : State} {k launch : Nat} {t : Task} (hloft : (s.core k).lofting = false) (hhas : loftHas s (s.core k) true = false)
    (hroom : (s.core k).taskQueue.length < 64) (hlog : Unrecorded s k) :
    (t.numbered = false → ∃ u, deliverTask s k launch t = some u ∧ (u.core k).taskQueue = (s.core k).taskQueue ++ [t.numberedAt (s.core k)] ∧
      (u.core k).openTasks = (s.core k).openTasks ++ [(s.core k).taskSeq] ∧ (u.core k).taskSeq = (s.core k).taskSeq + 1) ∧
    (t.numbered = true → ∃ u, deliverTask s k launch t = some u ∧ (u.core k).taskQueue = (s.core k).taskQueue ++ [t] ∧
      (u.core k).openTasks = (s.core k).openTasks) := by
  have hid (q : List Task) : ({ s.core k with taskQueue := q } : Core).id = k := State.core_id s k
  have hlogged (x : Task) (sender : Nat) : (enqueueTask s k x).bind (fun s => s.logArrival k sender 0 true) =
      some (s.setCore { s.core k with taskQueue := (s.core k).taskQueue ++ [x] }) := by
    rw [enqueueTask_room hloft hhas hroom]
    exact logArrival_off (hlog.setCore (congrArg (fun j => (s.core j).paddock) (State.core_id s k)).symm)
  refine ⟨fun hn => ⟨((s.setCore { s.core k with taskQueue := (s.core k).taskQueue ++ [t.numberedAt (s.core k)] }).onCore k
      fun c => { c with taskSeq := c.taskSeq + 1, openTasks := c.openTasks ++ [(s.core k).taskSeq] }).wakeSearch launch (s.core k).rx (s.core k).ry, ?_, ?_⟩,
    fun hn => ⟨(s.setCore { s.core k with taskQueue := (s.core k).taskQueue ++ [t] }).wakeSearch launch (s.core k).rx (s.core k).ry, ?_, ?_⟩⟩
  · unfold deliverTask
    dsimp only
    rw [hn, Bool.not_false, if_pos rfl, hlogged]
    rfl
  · rw [wakeSearch_keeps (·.taskQueue) (fun _ _ => rfl), wakeSearch_keeps (·.openTasks) (fun _ _ => rfl), wakeSearch_keeps (·.taskSeq) (fun _ _ => rfl),
      State.core_onCore_self, setCore_at (hid _)]
    · exact ⟨rfl, rfl, rfl⟩
    · exact State.core_id ..
  · unfold deliverTask
    dsimp only
    rw [hn, Bool.not_true, if_neg Bool.false_ne_true, hlogged]
    rfl
  · rw [wakeSearch_keeps (·.taskQueue) (fun _ _ => rfl), wakeSearch_keeps (·.openTasks) (fun _ _ => rfl), setCore_at (hid _)]
    exact ⟨rfl, rfl⟩

theorem task_spec {s : State} {i launch rx ry k : Nat} {counts : Option Nat} {t : Task} (hlive : NiLive s launch rx ry k)
    (hheld : heldBack (s.ni.take i) launch rx ry t.sender = false) (hloft : (s.core k).lofting = false) (hhas : loftHas s (s.core k) true = false)
    (hroom : (s.core k).taskQueue.length < 64) (hat : NiAt s i (.task launch rx ry counts t false)) :
    (t.numbered = false → TakesNi (.taskArrival i) s fun u =>
      (u.core k).taskQueue = (s.core k).taskQueue ++ [{ t with owner := (s.core k).ry * 16 + (s.core k).rx, seq := (s.core k).taskSeq, numbered := true }] ∧
      (u.core k).openTasks = (s.core k).openTasks ++ [(s.core k).taskSeq] ∧ (u.core k).taskSeq = (s.core k).taskSeq + 1) ∧
    (t.numbered = true → TakesNi (.taskArrival i) s fun u =>
      (u.core k).taskQueue = (s.core k).taskQueue ++ [t] ∧ (u.core k).openTasks = (s.core k).openTasks) := by
  obtain ⟨hfresh, hkept⟩ := deliverTask_room (s := { s with ni := s.ni.eraseIdx i }) (launch := launch) (t := t) hloft hhas hroom hlive.unlogged
  have htakes {u : State} {P : State → Prop} (hu : deliverTask { s with ni := s.ni.eraseIdx i } k launch t = some u) (hP : P (u.uncount counts)) :
      TakesNi (.taskArrival i) s P :=
    serveNiIf_takes (is := fun p => match p with | .task _ _ _ _ _ refused => !refused | _ => false) rfl hat rfl
      (serveNi_task hat hheld (((hlive.arrives _).2 t).trans hu)) hP
  refine ⟨fun hn => ?_, fun hn => ?_⟩
  · obtain ⟨u, hu, hqueue, hopen, hseq⟩ := hfresh hn
    exact htakes hu ⟨(uncount_keeps (·.taskQueue) (fun _ _ => rfl) ..).trans hqueue, (uncount_keeps (·.openTasks) (fun _ _ => rfl) ..).trans hopen,
      (uncount_keeps (·.taskSeq) (fun _ _ => rfl) ..).trans hseq⟩
  · obtain ⟨u, hu, hqueue, hopen⟩ := hkept hn
    exact htakes hu ⟨(uncount_keeps (·.taskQueue) (fun _ _ => rfl) ..).trans hqueue, (uncount_keeps (·.openTasks) (fun _ _ => rfl) ..).trans hopen⟩

/-! ### Late rings (R279) -/

theorem frameWrite_lazy {s t : State} {l : Launch} {va n v : Nat} (hlazy : s.lazy = true) (h : frameWrite s l va n v = some t) :
    ∃ net stamp, t = { s with net := net, stamp := stamp } := by
  have hfold (ps : List (Nat × Nat × Nat)) : ∀ u : State, u.lazy = true → ps.foldl (fun (o : Option State) p =>
      match o with
      | none => none
      | some s => match framePa s l p.1 with
        | none => none
        | some pa => some (s.dispatcherWrite l.pset pa p.2.1 (v / 256 ^ p.2.2 % 256 ^ p.2.1))) (some u) = some t →
      ∃ net stamp, t = { u with net := net, stamp := stamp } := by
    induction ps with
    | nil => exact fun u _ hu => ⟨u.net, u.stamp, (Option.some.inj hu).symm⟩
    | cons p ps ih =>
      intro u hu hstep
      rw [List.foldl_cons] at hstep
      dsimp only at hstep
      cases hpa : framePa u l p.1 with
      | none =>
        rw [hpa] at hstep
        have hnone (qs : List (Nat × Nat × Nat)) : qs.foldl (fun (o : Option State) p =>
            match o with
            | none => none
            | some s => match framePa s l p.1 with
              | none => none
              | some pa => some (s.dispatcherWrite l.pset pa p.2.1 (v / 256 ^ p.2.2 % 256 ^ p.2.1))) none = none := by
          induction qs with
          | nil => rfl
          | cons q qs ih => exact ih
        exact absurd ((hnone ps).symm.trans hstep) (by simp)
      | some pa =>
        rw [hpa] at hstep
        obtain ⟨net, stamp, hw⟩ := engineWriteAs_lazy (dispatcherAgent l.pset) hu pa p.2.1 (v / 256 ^ p.2.2 % 256 ^ p.2.1)
        obtain ⟨net', stamp', ht⟩ := ih (u.dispatcherWrite l.pset pa p.2.1 (v / 256 ^ p.2.2 % 256 ^ p.2.1)) (by rw [State.dispatcherWrite, hw]; exact hu) hstep
        refine ⟨net', stamp', ?_⟩
        rw [ht, State.dispatcherWrite, hw]
  exact hfold _ s hlazy h

theorem launchOf_id {s : State} {id : Nat} {l : Launch} (h : s.launchOf id = some l) : l.id = id := by
  have := List.find?_some h
  simpa using this

theorem launchOf_onLaunch {s : State} {id : Nat} {l : Launch} {f : Launch → Launch} (h : s.launchOf id = some l) (hid : ∀ l, (f l).id = l.id) :
    (s.onLaunch id f).launchOf id = some (f l) := by
  show (s.launches.map fun l => if l.id == id then f l else l).find? (·.id == id) = _
  rw [List.find?_map]
  have hcomp : ((fun x : Launch => x.id == id) ∘ fun l => if l.id == id then f l else l) = fun x => x.id == id := by
    funext x
    dsimp only [Function.comp]
    split
    · rw [hid]
    · rfl
  rw [hcomp, show s.launches.find? _ = some l from h, Option.map_some, if_pos (by rw [launchOf_id h]; exact beq_self_eq_true _)]

theorem stream_onStream {l : Launch} {rx ry : Nat} {t : Stream} {f : Stream → Stream} (h : l.stream rx ry = some t)
    (hplace : ∀ t, (f t).rx = t.rx ∧ (f t).ry = t.ry) : (l.onStream rx ry f).stream rx ry = some (f t) := by
  show (l.streams.map fun t => if t.rx == rx && t.ry == ry then f t else t).find? (fun t => t.rx == rx && t.ry == ry) = _
  rw [List.find?_map]
  have hcomp : ((fun t : Stream => t.rx == rx && t.ry == ry) ∘ fun t => if t.rx == rx && t.ry == ry then f t else t) = fun t => t.rx == rx && t.ry == ry := by
    funext x
    dsimp only [Function.comp]
    split
    · rw [(hplace x).1, (hplace x).2]
    · rfl
  rw [hcomp, show l.streams.find? _ = some t from h, Option.map_some, if_pos (by simpa using List.find?_some h)]

theorem stream_place {l : Launch} {rx ry : Nat} {t : Stream} (h : l.stream rx ry = some t) : t.rx = rx ∧ t.ry = ry := by
  have := List.find?_some h
  simpa using this

theorem lateAppend_written {s u : State} {l : Launch} {t : Stream} {m : Msg} (hroom : lateBytes t.late + (msgRecord m).1 ≤ 0x20000)
    (hw : frameWrite s l (latePlace l t) (msgRecord m).1 (msgRecord m).2 = some u) :
    lateAppend s l t (.inl m) = some (u.onLaunch l.id fun l => l.onStream t.rx t.ry fun t => { t with late := t.late ++ [.inl m] }) := by
  unfold lateAppend
  dsimp only
  rw [show (lateRecord (.inl m)) = msgRecord m from rfl, if_neg (by omega), hw]

theorem arriveAt_saved {s : State} {launch rx ry : Nat} {l : Launch} {t : Stream} (r : Sum Msg Task) (hnamed : launch ≠ 0) (hl : s.launchOf launch = some l)
    (hkilled : l.st ≠ .killed) (ht : l.stream rx ry = some t) (hst : t.st = .saved) : arriveAt s launch rx ry r = lateAppend s l t r := by
  unfold arriveAt
  rw [if_neg (by rw [beq_iff_eq]; exact hnamed), hl]
  dsimp only
  rw [if_neg (by rw [beq_iff_eq]; exact hkilled), ht]
  dsimp only
  rw [hst]

theorem lateRingAppend_spec {s : State} {i launch rx ry : Nat} {counts : Option Nat} {l : Launch} {t : Stream} {m : Msg} {refused : Bool}
    (hnamed : launch ≠ 0) (hl : s.launchOf launch = some l) (hkilled : l.st ≠ .killed) (ht : l.stream rx ry = some t) (hst : t.st = .saved)
    (hlazy : s.lazy = true) (hheld : heldBack (s.ni.take i) launch rx ry m.sender = false) (hat : NiAt s i (.msg launch rx ry counts m refused))
    (hroom : lateBytes t.late + (msgRecord m).1 ≤ 0x20000)
    (hw : (frameWrite { s with ni := s.ni.eraseIdx i } l (latePlace l t) (msgRecord m).1 (msgRecord m).2).isSome = true) :
    TakesNi (.lateRingAppend i) s fun u => ∃ l' t', u.launchOf launch = some l' ∧ l'.stream rx ry = some t' ∧
      t'.late = t.late ++ [.inl m] ∧ u.niPkts = s.niPkts.eraseIdx i := by
  obtain ⟨u, hu⟩ := Option.isSome_iff_exists.mp hw
  obtain ⟨net, stamp, hfields⟩ := frameWrite_lazy (s := { s with ni := s.ni.eraseIdx i }) hlazy hu
  have hid := launchOf_id hl
  obtain ⟨hrx, hry⟩ := stream_place ht
  have harr := (arriveAt_saved (s := { s with ni := s.ni.eraseIdx i }) (.inl m) hnamed hl hkilled ht hst).trans (lateAppend_written hroom hu)
  rw [hid, hrx, hry] at harr
  have hsaved : streamSaved s launch rx ry = true := by
    unfold streamSaved
    rw [hl, Option.bind_some, ht]
    dsimp only
    rw [Stream.inFrame, hst]
    rfl
  refine serveNiIf_takes (is := fun p => match p with
    | .msg l x y _ _ _ => streamSaved s l x y
    | .task l x y _ _ _ => streamSaved s l x y
    | _ => false) rfl hat hsaved (serveNi_msg hat hheld harr) ?_
  have hlaunch : u.launchOf launch = some l := by
    rw [hfields]
    exact hl
  refine ⟨l.onStream rx ry fun t => { t with late := t.late ++ [.inl m] }, { t with late := t.late ++ [.inl m] }, ?_,
    stream_onStream ht (fun _ => ⟨rfl, rfl⟩), rfl, ?_⟩
  · refine Eq.trans (congrArg (List.find? fun x : Launch => x.id == launch) (uncount_launches _ counts)) ?_
    exact launchOf_onLaunch (f := fun l => l.onStream rx ry fun t => { t with late := t.late ++ [.inl m] }) hlaunch (fun _ => rfl)
  · rw [niPkts_erase, State.niPkts, uncount_ni, hfields]
    rfl

/-! ### Thefts (R287) -/

/-- What the serving of a packet of the other kinds is, once it may move. -/
theorem serveNi_steal {s : State} {i launch rx ry n : Nat} {g : Group} (hat : NiAt s i (.steal launch rx ry g n)) :
    s.serveNi i = serveSteal { s with ni := s.ni.eraseIdx i } launch rx ry g n := by
  obtain ⟨f, hf, hp, hshut, hwait⟩ := hat
  rw [← hp] at hshut
  unfold State.serveNi
  rw [hf]
  dsimp only
  rw [hshut, if_neg Bool.false_ne_true, hp, hwait]
  dsimp only
  rw [if_neg Bool.false_ne_true]

theorem serveNi_stealReply {s : State} {i launch rx ry n : Nat} {g : Group} {t : Option Task} (hat : NiAt s i (.stealReply launch rx ry g n t)) :
    s.serveNi i = serveStealReply { s with ni := s.ni.eraseIdx i } launch rx ry g n t := by
  obtain ⟨f, hf, hp, hshut, hwait⟩ := hat
  rw [← hp] at hshut
  unfold State.serveNi
  rw [hf]
  dsimp only
  rw [hshut, if_neg Bool.false_ne_true, hp, hwait]
  dsimp only
  rw [if_neg Bool.false_ne_true]

theorem serveNi_contrib {s : State} {i c : Nat} {d : Contribution} (hat : NiAt s i (.contrib c d)) :
    s.serveNi i = some ((tryEpisode { s with ni := s.ni.eraseIdx i, contribs := s.contribs ++ [d] } d).uncount (some c)) := by
  obtain ⟨f, hf, hp, hshut, hwait⟩ := hat
  rw [← hp] at hshut
  unfold State.serveNi
  rw [hf]
  dsimp only
  rw [hshut, if_neg Bool.false_ne_true, hp, hwait]
  dsimp only
  rw [if_neg Bool.false_ne_true]

theorem serveNi_report {s : State} {i c rx ry seq launch : Nat} {l : Launch} {t : Stream} (hat : NiAt s i (.report c (ry * 16 + rx) seq launch))
    (hrx : rx < 16) (hl : s.launchOf launch = some l) (ht : l.stream rx ry = some t) (hst : t.st = .live) :
    s.serveNi i = some (((({ s with ni := s.ni.eraseIdx i } : State).onCore t.core fun c => { c with openTasks := c.openTasks.erase seq }).wakeSearch
      launch rx ry).uncount (some c)) := by
  have hmod : (ry * 16 + rx) % 16 = rx := by omega
  have hdiv : (ry * 16 + rx) / 16 = ry := by omega
  obtain ⟨f, hf, hp, hshut, hwait⟩ := hat
  rw [← hp] at hshut
  unfold State.serveNi
  rw [hf]
  dsimp only
  rw [hshut, if_neg Bool.false_ne_true, hp, hwait]
  dsimp only
  rw [if_neg Bool.false_ne_true, hmod, hdiv, hl, Option.bind_some, ht]
  dsimp only
  rw [hst]
  rfl

theorem Unrecorded.of_same {s u : State} {k : Nat} (h : Unrecorded s k) (hp : (u.core k).paddock = (s.core k).paddock) (hpads : u.pads = s.pads) :
    Unrecorded u k := by
  unfold Unrecorded
  rw [hp, State.pad, hpads]
  exact h

/-- What a thief takes from a core whose loft is empty: the queue's tail, unless it carries BARF. -/
theorem takeTail_queue {s : State} {k : Nat} {t : Task} (hloft : (s.core k).lofting = false) (hempty : (s.core k).loft = [])
    (ht : (s.core k).taskQueue.getLast? = some t) :
    takeTail s k = if t.barf then none else some ((s.setCore { s.core k with taskQueue := (s.core k).taskQueue.dropLast }).niSettle k, t) := by
  unfold takeTail
  dsimp only
  rw [hloft, if_neg Bool.false_ne_true, show heldRecords (s.core k) = [] from congrArg (List.filter _) hempty, List.filter_nil, List.getLast?_nil]
  dsimp only
  rw [ht]

theorem serveSteal_none {s : State} {launch rx ry n thief : Nat} {g : Group} (hthief : s.streamCore launch rx ry = some thief)
    (h : (victimOf s launch rx ry g n).bind (fun v => (takeTail s v).map fun x => (v, x.1, x.2)) = none) :
    serveSteal s launch rx ry g n = some (s.postNi (.stealReply launch rx ry g n none)) := by
  unfold serveSteal
  rw [hthief]
  dsimp only
  rw [h]

theorem serveSteal_taken {s u : State} {launch rx ry n thief v : Nat} {g : Group} {t : Task} (hthief : s.streamCore launch rx ry = some thief)
    (hv : victimOf s launch rx ry g n = some v) (ht : takeTail s v = some (u, t)) (hlog : Unrecorded u v) :
    serveSteal s launch rx ry g n = some (u.postNi (.stealReply launch rx ry g n (some t))) := by
  unfold serveSteal
  rw [hthief]
  dsimp only
  rw [hv, Option.bind_some, ht]
  dsimp only [Option.map_some]
  rw [logDispatch_off hlog]
  rfl

theorem postNi_niPkts (s : State) (p : NiPkt) : (s.postNi p).niPkts = s.niPkts ++ [p] := List.map_append ..

theorem stealRequest_spec {s : State} {i launch rx ry n thief : Nat} {g : Group} (hat : NiAt s i (.steal launch rx ry g n))
    (hthief : s.streamCore launch rx ry = some thief) :
    (victimOf s launch rx ry g n = none →
      TakesNi (.stealRequest i) s fun u => u.niPkts = s.niPkts.eraseIdx i ++ [.stealReply launch rx ry g n none]) ∧
    (∀ v t, victimOf s launch rx ry g n = some v → (s.core v).lofting = false → (s.core v).loft = [] →
      (s.core v).taskQueue.getLast? = some t → (7 ≤ (s.core v).paddock ∨ (s.pad (s.core v).paddock).rrMode = 0) →
      (t.barf = false → TakesNi (.stealRequest i) s fun u =>
        (u.core v).taskQueue = (s.core v).taskQueue.dropLast ∧ u.niPkts = s.niPkts.eraseIdx i ++ [.stealReply launch rx ry g n (some t)]) ∧
      (t.barf = true → TakesNi (.stealRequest i) s fun u =>
        (u.core v).taskQueue = (s.core v).taskQueue ∧ u.niPkts = s.niPkts.eraseIdx i ++ [.stealReply launch rx ry g n none])) := by
  have htakes {u : State} {P : State → Prop} (hu : serveSteal { s with ni := s.ni.eraseIdx i } launch rx ry g n = some u) (hP : P u) :
      TakesNi (.stealRequest i) s P :=
    serveNiIf_takes (is := fun p => match p with | .steal .. => true | _ => false) rfl hat rfl ((serveNi_steal hat).trans hu) hP
  have hpkts (u : State) (p : NiPkt) (hu : u.ni = s.ni.eraseIdx i) : (u.postNi p).niPkts = s.niPkts.eraseIdx i ++ [p] := by
    rw [postNi_niPkts, niPkts_erase, State.niPkts, hu]
  refine ⟨fun hv => htakes (serveSteal_none hthief ?_) (hpkts _ _ rfl), fun v t hv hloft hempty ht hlog => ⟨fun hbarf => ?_, fun hbarf => ?_⟩⟩
  · rw [show victimOf { s with ni := s.ni.eraseIdx i } launch rx ry g n = none from hv]
    rfl
  · have htake := takeTail_queue (s := { s with ni := s.ni.eraseIdx i }) hloft hempty ht
    rw [hbarf, if_neg Bool.false_ne_true] at htake
    have hid : ({ s.core v with taskQueue := (s.core v).taskQueue.dropLast } : Core).id = v := State.core_id s v
    have hsettle : ∀ t : State, (t.core v).loft = [] → ((t.niSettle v).core v).taskQueue = (t.core v).taskQueue ∧
        ((t.niSettle v).core v).paddock = (t.core v).paddock ∧ (t.niSettle v).ni = t.ni ∧ (t.niSettle v).pads = t.pads := by
      intro t hno
      obtain ⟨_, _, _, hr⟩ := (t.core v).refill_eq
      rw [niSettle_noLoft hno, setCore_at (by rw [hr]; exact State.core_id t v), hr]
      exact ⟨rfl, rfl, State.setCore_ni .., State.setCore_pads ..⟩
    have hcore := setCore_at (s := { s with ni := s.ni.eraseIdx i }) hid
    obtain ⟨hqueue, hpad, hni, hpads⟩ := hsettle _ ((congrArg Core.loft hcore).trans hempty)
    have hpaddock := hpad.trans (congrArg Core.paddock hcore)
    refine htakes (serveSteal_taken hthief hv htake ?_) ⟨?_, hpkts _ _ (hni.trans (State.setCore_ni ..))⟩
    · exact Unrecorded.of_same (s := s) hlog hpaddock (hpads.trans (State.setCore_pads ..))
    · exact hqueue.trans (congrArg Core.taskQueue hcore)
  · have htake := takeTail_queue (s := { s with ni := s.ni.eraseIdx i }) hloft hempty ht
    rw [hbarf, if_pos rfl] at htake
    refine htakes (serveSteal_none hthief ?_) ⟨rfl, hpkts _ _ rfl⟩
    rw [show victimOf { s with ni := s.ni.eraseIdx i } launch rx ry g n = some v from hv, Option.bind_some, htake]
    rfl

theorem stealReply_spec {s : State} {i launch rx ry n : Nat} {g : Group} {l : Launch} {v : Stream} (hl : s.launchOf launch = some l) (hkilled : l.st ≠ .killed)
    (hv : l.stream rx ry = some v) (hst : v.st = .live) (hres : (s.core v.core).res = .waiting) (hsearch : (s.core v.core).search = some (n, g)) :
    (∀ t, NiAt s i (.stealReply launch rx ry g n (some t)) → TakesNi (.stealReply i) s fun u =>
      (u.core v.core).granted = some t ∧ (u.core v.core).nSteals = (s.core v.core).nSteals + 1) ∧
    (NiAt s i (.stealReply launch rx ry g n none) → TakesNi (.stealReply i) s fun u =>
      (u.core v.core).search = some (n + 1, g) ∧ (u.core v.core).nFailed = (s.core v.core).nFailed + 1) := by
  have hserve (t : Option Task) : ∃ f : Core → Core, (∀ c, (f c).id = c.id) ∧
      serveStealReply { s with ni := s.ni.eraseIdx i } launch rx ry g n t = some (({ s with ni := s.ni.eraseIdx i } : State).onCore v.core f) ∧
      (∀ x, t = some x → (f (s.core v.core)).granted = some x ∧ (f (s.core v.core)).nSteals = (s.core v.core).nSteals + 1) ∧
      (t = none → (f (s.core v.core)).search = some (n + 1, g) ∧ (f (s.core v.core)).nFailed = (s.core v.core).nFailed + 1) := by
    have hhere : (v.st == .live && (s.core v.core).res == .waiting && (s.core v.core).search == some (n, g)) = true := by
      rw [hst, hres, hsearch]
      simp
    unfold serveStealReply
    rw [show State.launchOf { s with ni := s.ni.eraseIdx i } launch = some l from hl]
    dsimp only
    rw [hv]
    dsimp only
    rw [if_neg (by rw [beq_iff_eq]; exact hkilled), show State.core { s with ni := s.ni.eraseIdx i } v.core = s.core v.core from rfl, hhere]
    cases t with
    | none =>
      refine ⟨fun c => { c with search := some (n + 1, g), nFailed := c.nFailed + 1 }, fun _ => rfl, ?_, fun _ h => absurd h (by simp), fun _ => ⟨rfl, rfl⟩⟩
      dsimp only
      rw [hst]
      rfl
    | some x =>
      exact ⟨fun c => { c with granted := some x, nSteals := c.nSteals + 1 }, fun _ => rfl, rfl, fun y h => ⟨h, rfl⟩, fun h => absurd h (by simp)⟩
  refine ⟨fun t hat => ?_, fun hat => ?_⟩
  · obtain ⟨f, hid, hu, hsome, _⟩ := hserve (some t)
    refine serveNiIf_takes (is := fun p => match p with | .stealReply .. => true | _ => false) rfl hat rfl ((serveNi_stealReply hat).trans hu) ?_
    rw [State.core_onCore_self]
    · exact hsome t rfl
    · exact (hid _).trans (State.core_id ..)
  · obtain ⟨f, hid, hu, _, hnone⟩ := hserve none
    refine serveNiIf_takes (is := fun p => match p with | .stealReply .. => true | _ => false) rfl hat rfl ((serveNi_stealReply hat).trans hu) ?_
    rw [State.core_onCore_self]
    · exact hnone rfl
    · exact (hid _).trans (State.core_id ..)

/-! ### Reports and contributions (R282, R288) -/

theorem report_spec {s : State} {i launch rx ry c seq : Nat} {l : Launch} {t : Stream} (hat : NiAt s i (.report c (ry * 16 + rx) seq launch))
    (hrx : rx < 16) (hl : s.launchOf launch = some l) (ht : l.stream rx ry = some t) (hst : t.st = .live) :
    TakesNi (.taskCompletionReport i) s fun u =>
      (u.core t.core).openTasks = (s.core t.core).openTasks.erase seq ∧ (u.core c).others = (s.core c).others - 1 := by
  refine serveNiIf_takes (is := fun p => match p with | .report .. => true | _ => false) rfl hat rfl (serveNi_report hat hrx hl ht hst) ⟨?_, ?_⟩
  · rw [uncount_keeps (·.openTasks) (fun _ _ => rfl), wakeSearch_keeps (·.openTasks) (fun _ _ => rfl), State.core_onCore_self]
    · rfl
    · exact State.core_id ..
  · rw [uncount_others, wakeSearch_keeps (·.others) (fun _ _ => rfl)]
    exact congrArg (· - 1) (onCore_keeps (s := { s with ni := s.ni.eraseIdx i }) (·.others) (State.core_id ..) rfl c)

/-- Results posted one after the other. -/
theorem postNi_each {α : Type} (f : α → NiPkt) (xs : List α) (s : State) :
    ∃ ni stamp, xs.foldl (fun (s : State) x => s.postNi (f x)) s = { s with ni := ni, stamp := stamp } ∧ ni.map (·.pkt) = s.niPkts ++ xs.map f := by
  induction xs generalizing s with
  | nil => exact ⟨s.ni, s.stamp, rfl, (List.append_nil _).symm⟩
  | cons x xs ih =>
    obtain ⟨ni, stamp, hfold, hpkts⟩ := ih (s.postNi (f x))
    refine ⟨ni, stamp, hfold, ?_⟩
    rw [hpkts, postNi_niPkts, List.append_assoc, List.map_cons, List.singleton_append]

theorem tryEpisode_open {s : State} {d : Contribution} {l : Launch} (hl : s.launchOf d.launch = some l)
    (h : ¬∀ t ∈ members l d.group, t.st.isHalted = true ∨ (contribOf (s.contribs.filter (sameEpisode d)) t.rx t.ry).isSome = true) : tryEpisode s d = s := by
  have hdone : ((members l d.group).all fun t => t.st.isHalted || (contribOf (s.contribs.filter (sameEpisode d)) t.rx t.ry).isSome) = false := by
    rw [← Bool.not_eq_true, List.all_eq_true]
    exact fun hall => h fun t ht => by simpa using hall t ht
  unfold tryEpisode
  rw [hl]
  dsimp only
  rw [hdone]
  rfl

theorem tryEpisode_complete {s : State} {d : Contribution} {l : Launch} (hl : s.launchOf d.launch = some l)
    (h : ∀ t ∈ members l d.group, t.st.isHalted = true ∨ (contribOf (s.contribs.filter (sameEpisode d)) t.rx t.ry).isSome = true)
    (hops : ∀ e ∈ s.contribs.filter (sameEpisode d), e.op = d.op) :
    ∃ (sender : Contribution → Nat) (ni : List NiFlight) (stamp : Nat), tryEpisode s d =
        { s with
          contribs := s.contribs.filter fun e => !sameEpisode d e
          ni := ni
          stamp := stamp } ∧
      ni.map (·.pkt) = s.niPkts ++ (s.contribs.filter (sameEpisode d)).map fun e => .msg e.launch e.rx e.ry none
        { slot := e.slot, value := BitVec.ofNat 64 (episodeValue l d.group (s.contribs.filter (sameEpisode d)) d.op), sender := sender e, scope := .core, brand := none } false := by
  have hdone : ((members l d.group).all fun t => t.st.isHalted || (contribOf (s.contribs.filter (sameEpisode d)) t.rx t.ry).isSome) = true := by
    rw [List.all_eq_true]
    exact fun t ht => by simpa using h t ht
  have hsame : ((s.contribs.filter (sameEpisode d)).any fun e => e.op != d.op) = false := by
    rw [List.any_eq_false]
    exact fun e he => by rw [hops e he]; simp
  refine ⟨fun e => match l.stream e.rx e.ry with | some t => t.core | none => 0, ?_⟩
  obtain ⟨ni, stamp, hfold, hpkts⟩ := postNi_each (fun e : Contribution => NiPkt.msg e.launch e.rx e.ry none
    { slot := e.slot, value := BitVec.ofNat 64 (episodeValue l d.group (s.contribs.filter (sameEpisode d)) d.op),
      sender := match l.stream e.rx e.ry with | some t => t.core | none => 0, scope := .core, brand := none } false) (s.contribs.filter (sameEpisode d))
    { s with contribs := s.contribs.filter fun e => !sameEpisode d e }
  refine ⟨ni, stamp, ?_, hpkts⟩
  rw [← hfold]
  unfold tryEpisode
  rw [hl]
  dsimp only
  rw [hdone, hsame]
  rfl

theorem contribution_spec {s : State} {i c : Nat} {d : Contribution} {l : Launch} (hat : NiAt s i (.contrib c d)) (hl : s.launchOf d.launch = some l) :
    let cs := (s.contribs ++ [d]).filter (sameEpisode d)
    let complete := ∀ t ∈ members l d.group, t.st.isHalted = true ∨ (contribOf cs t.rx t.ry).isSome = true
    (¬complete → TakesNi (.episodeContribution i) s fun u =>
      u.contribs = s.contribs ++ [d] ∧ u.niPkts = s.niPkts.eraseIdx i ∧ (u.core c).others = (s.core c).others - 1) ∧
    (complete → (∀ e ∈ cs, e.op = d.op) → TakesNi (.episodeContribution i) s fun u =>
      u.contribs = s.contribs.filter (fun e => !sameEpisode d e) ∧ (u.core c).others = (s.core c).others - 1 ∧
      u.niPkts.length = (s.niPkts.eraseIdx i).length + cs.length ∧
      ∀ e ∈ cs, ∃ sender, .msg e.launch e.rx e.ry none
        { slot := e.slot, value := BitVec.ofNat 64 (episodeValue l d.group cs d.op), sender := sender, scope := .core, brand := none } false
          ∈ u.niPkts) := by
  intro cs complete
  have htakes {P : State → Prop} (hP : P ((tryEpisode { s with ni := s.ni.eraseIdx i, contribs := s.contribs ++ [d] } d).uncount (some c))) :
      TakesNi (.episodeContribution i) s P :=
    serveNiIf_takes (is := fun p => match p with | .contrib .. => true | _ => false) rfl hat rfl (serveNi_contrib hat) hP
  refine ⟨fun hopen => htakes ?_, fun hdone hops => htakes ?_⟩
  · rw [tryEpisode_open (s := { s with ni := s.ni.eraseIdx i, contribs := s.contribs ++ [d] }) hl hopen, niPkts_erase, State.niPkts, uncount_ni]
    exact ⟨State.onCore_contribs .., rfl, uncount_others ..⟩
  · obtain ⟨sender, ni, stamp, htry, hpkts⟩ := tryEpisode_complete (s := { s with ni := s.ni.eraseIdx i, contribs := s.contribs ++ [d] }) hl hdone hops
    have hrest : (s.contribs ++ [d]).filter (fun e => !sameEpisode d e) = s.contribs.filter fun e => !sameEpisode d e := by
      rw [List.filter_append, List.filter_cons_of_neg (by simp [sameEpisode])]
      exact List.append_nil _
    have hni := hpkts.trans (congrArg (· ++ _) (niPkts_erase (s := s) (i := i)).symm)
    rw [htry, State.niPkts, uncount_ni, hni]
    refine ⟨(State.onCore_contribs ..).trans hrest, uncount_others .., ?_, fun e he => ⟨sender e, List.mem_append_right _ (List.mem_map.mpr ⟨e, he, rfl⟩)⟩⟩
    rw [List.length_append, List.length_map]

/-! ### Moves out of the loft (R247, R285) -/

theorem Core.takeRecord_eq (c : Core) (place : Nat) : ∃ loft armed, c.takeRecord place = { c with loft := loft, loftArmed := armed } := by
  unfold Core.takeRecord Core.reclaim
  dsimp only
  split
  · exact ⟨_, _, rfl⟩
  · exact ⟨_, c.loftArmed, rfl⟩

theorem refill_full {c : Core} (h : ∀ n : MReg, (c.mbox[n]).present = true) : c.refill = c := by
  have hslot (m : Nat) : c.slotEmpty m = false := by
    unfold Core.slotEmpty
    rw [h]
    rfl
  have hfold (ms : List Nat) : ms.foldl (fun (c : Core) m =>
      if c.slotEmpty m then
        match c.arrivals.find? (·.slot == m) with
        | some x => { c.fillSlot x with arrivals := c.arrivals.eraseP (·.slot == m) }
        | none => c
      else c) c = c := by
    induction ms with
    | nil => rfl
    | cons m ms ih =>
      rw [List.foldl_cons, hslot, if_neg Bool.false_ne_true]
      exact ih
  exact hfold _

theorem loftMove_spec {s : State} {k : Nat} {task : Bool} {r : LoftRec}
    (hr : (heldRecords (s.core k)).find? (fun r => loftIsTask s (s.core k) r == task) = some r) (hloft : (s.core k).lofting = false)
    (hbad : loftBad s (s.core k) r = []) :
    (∀ t, task = true → loftDecode s (s.core k) r = .inr t → (s.core k).taskQueue.length < 64 →
      ∃ u : State, exec (.loftMove k true) s = .next u ∧ (u.core k).taskQueue = (s.core k).taskQueue ++ [t] ∧ u.mem = s.mem) ∧
    (∀ m, task = false → loftDecode s (s.core k) r = .inl m → (s.core k).arrivals.length < 64 → (∀ n : MReg, ((s.core k).mbox[n]).present = true) →
      ∃ u : State, exec (.loftMove k false) s = .next u ∧ (u.core k).arrivals = (s.core k).arrivals ++ [m] ∧ u.mem = s.mem) := by
  obtain ⟨loft, armed, htaken⟩ := (s.core k).takeRecord_eq r.place
  refine ⟨fun t ht hdec hroom => ?_, fun m ht hdec hroom hfull => ?_⟩
  · subst ht
    have hmove : loftMoveOne s k true =
        some (s.setCore { (s.core k).takeRecord r.place with taskQueue := ((s.core k).takeRecord r.place).taskQueue ++ [t] }) := by
      unfold loftMoveOne
      dsimp only
      rw [hloft, if_pos (by simpa using hroom), hr]
      dsimp only
      rw [hbad, hdec]
      rfl
    have hid : { (s.core k).takeRecord r.place with taskQueue := ((s.core k).takeRecord r.place).taskQueue ++ [t] }.id = k := by
      rw [htaken]
      exact State.core_id s k
    refine ⟨_, congrArg (served s) hmove, (congrArg Core.taskQueue (setCore_at hid)).trans ?_, State.setCore_mem ..⟩
    rw [htaken]
  · subst ht
    have hmove : loftMoveOne s k false =
        some (s.setCore { (s.core k).takeRecord r.place with arrivals := ((s.core k).takeRecord r.place).arrivals ++ [m] }.refill) := by
      unfold loftMoveOne
      dsimp only
      rw [hloft, if_pos (by simpa using hroom), hr]
      dsimp only
      rw [hbad, hdec]
      rfl
    have hkept : { (s.core k).takeRecord r.place with arrivals := ((s.core k).takeRecord r.place).arrivals ++ [m] }.refill =
        { (s.core k).takeRecord r.place with arrivals := ((s.core k).takeRecord r.place).arrivals ++ [m] } := by
      refine refill_full ?_
      rw [htaken]
      exact hfull
    rw [hkept] at hmove
    have hid : { (s.core k).takeRecord r.place with arrivals := ((s.core k).takeRecord r.place).arrivals ++ [m] }.id = k := by
      rw [htaken]
      exact State.core_id s k
    refine ⟨_, congrArg (served s) hmove, (congrArg Core.arrivals (setCore_at hid)).trans ?_, State.setCore_mem ..⟩
    rw [htaken]

/-- Settles O56: each arrival and each move by its own lemma. -/
theorem interfacesTakeTheirArrivals : Obligations.InterfacesTakeTheirArrivals := by
  unfold Obligations.InterfacesTakeTheirArrivals
  intro s i k launch rx ry counts
  refine ⟨fun m hlive hheld hloft hhas => ⟨fun x refused hx hat => ⟨message_slot hlive hheld hloft hhas hx hat, message_queued hlive hheld hloft hhas hx hat⟩,
      message_refused hlive hheld hloft hhas⟩,
    fun t hlive hheld hloft hhas hroom hat => task_spec hlive hheld hloft hhas hroom hat,
    fun l t m refused hnamed hl hkilled ht hst hlazy hheld hat hroom hw => lateRingAppend_spec hnamed hl hkilled ht hst hlazy hheld hat hroom hw,
    fun thief g n hat hthief => stealRequest_spec hat hthief,
    fun l v g n hl hkilled hv hst hres hsearch => stealReply_spec hl hkilled hv hst hres hsearch,
    fun c seq l t hat hrx hl ht hst => report_spec hat hrx hl ht hst, fun c d l hat hl => contribution_spec hat hl,
    fun task r hr hloft hbad => loftMove_spec hr hloft hbad⟩

end Sys2Proof.Machine
end

section
/-! SUPPORT. The hitch queue, and a save of a lost core -/
namespace Sys2Proof.Machine

/-! ### What a lock packet does where it is taken -/

/-- The state from which the lock packet at index i has been taken. -/
def State.tookLock (s : State) (i : Nat) : State := { s with lockNet := s.lockNet.eraseIdx i }

/-- A lock packet is used up: memory stays, some lock packets are sent, and P holds. -/
def UsesLock (s : State) (p : LockPkt) (ps : List LockPkt) (P : State → Prop) : Prop :=
  ∃ u, serveLockPkt s p = .used u ∧ u.mem = s.mem ∧ u.lockPkts = s.lockPkts ++ ps ∧ P u

theorem UsesLock.takes {x : Instr} {s : State} {i : Nat} {p : LockPkt} {ps : List LockPkt} {P : State → Prop} {is : LockPkt → Bool}
    (h : UsesLock (s.tookLock i) p ps P) (hexec : exec x s = serveLockIf s i is) (hat : LockAt s i p) (hi : is p = true) : TakesLock x s i ps P := by
  obtain ⟨u, hu, hmem, hpkts, hP⟩ := h
  refine ⟨u, hexec.trans (serveLockIf_used hat hi hu), hmem, ?_, hP⟩
  rw [hpkts, State.tookLock, State.lockPkts, State.lockPkts, eraseIdx_map_comm]

theorem kOf_some {s : State} {line : Nat} {h t : Option Waiter} {sv : Bool} {nx : Option Waiter} {p : Bool} (hk : s.kOf line = some (h, t, sv, nx, p)) :
    ∃ d, s.dirOf line = some d ∧ d.st = .k h t sv nx p := by
  unfold State.kOf at hk
  split at hk
  · next d hd =>
    refine ⟨d, hd, ?_⟩
    split at hk
    · next hst =>
      rw [hst]
      simp only [Option.some.injEq, Prod.mk.injEq] at hk
      obtain ⟨rfl, rfl, rfl, rfl, rfl⟩ := hk
      rfl
    · exact absurd hk (by simp)
  · exact absurd hk (by simp)

theorem kOf_of {s : State} {line : Nat} {d : DirLine} {h t : Option Waiter} {sv : Bool} {nx : Option Waiter} {p : Bool} (hd : s.dirOf line = some d)
    (hst : d.st = .k h t sv nx p) : s.kOf line = some (h, t, sv, nx, p) := by
  unfold State.kOf
  rw [hd]
  dsimp only
  rw [hst]

theorem kOf_setK {s : State} {line : Nat} {d : DirLine} (hd : s.dirOf line = some d) (h t : Option Waiter) (sv : Bool) (nx : Option Waiter) (p : Bool) :
    (s.setK line h t sv nx p).kOf line = some (h, t, sv, nx, p) := by
  refine kOf_of (d := { d with st := .k h t sv nx p }) ?_ rfl
  rw [State.setK, State.dirOf_onDir, if_pos rfl, hd]
  · rfl
  · exact fun _ h => h

theorem dirOf_unlock {s : State} {line : Nat} {d : DirLine} (hd : s.dirOf line = some d) :
    (s.unlockLine line).dirOf line = some { d with st := .n, sharers := [] } := by
  rw [State.unlockLine, State.dirOf_onDir, if_pos rfl, hd]
  · rfl
  · exact fun _ h => h

theorem kOf_unlock {s : State} {line : Nat} {d : DirLine} (hd : s.dirOf line = some d) : (s.unlockLine line).kOf line = none := by
  unfold State.kOf
  rw [dirOf_unlock hd]

theorem hitDir_kOf (s : State) (line : Nat) : (s.hitDir line false).kOf line = s.kOf line := by
  cases hd : s.dirOf line with
  | none =>
    have : s.hitDir line false = s := by
      unfold State.hitDir
      rw [hd]
    rw [this]
  | some d =>
    obtain ⟨e, he, _, hst, _⟩ := hitDir_dirOf hd false
    unfold State.kOf
    rw [he, hd]
    dsimp only
    rw [hst]

theorem hitDir_lockPkts (s : State) (line : Nat) : (s.hitDir line false).lockPkts = s.lockPkts ∧ (s.hitDir line false).mem = s.mem ∧
    (s.hitDir line false).withdrawn = s.withdrawn := by
  obtain ⟨dir, h⟩ := hitDir_keeps s line false
  rw [h]
  exact ⟨rfl, rfl, rfl⟩

/-! ### Requests at the home (R306, R311, R314) -/

section request
variable {s : State} {w : Waiter} {line : Nat} {d : DirLine} (hset : setBlocked s line = false) (hd : s.dirOf line = some d) (hround : d.round = none)
  (hlog : Unlogged s line)
include hset hd hround hlog

theorem lockRequest_free (try_ : Bool) (hst : d.st = .n) (hsh : d.sharers = []) :
    UsesLock s (.lock w line try_) [.handoff w line none false] fun u => u.kOf line = some (some w, some w, false, none, false) := by
  refine ⟨((s.hitDir line false).setK line (some w) (some w) false none false).postLock none (.handoff w line none false), ?_, ?_, ?_, ?_⟩
  · unfold serveLockPkt serveLock
    dsimp only
    rw [hset, if_neg Bool.false_ne_true, hd]
    dsimp only
    rw [hround, hst]
    dsimp only
    rw [Option.isSome_none, if_neg Bool.false_ne_true, hsh, logSlice_off hlog]
    rfl
  · exact (hitDir_lockPkts s line).2.1
  · rw [State.postLock_pkts]
    exact congrArg (· ++ _) (hitDir_lockPkts s line).1
  · obtain ⟨e, he, _⟩ := hitDir_dirOf hd false
    exact kOf_setK he ..

theorem lockRequest_queue {h : Option Waiter} {t : Waiter} {sv : Bool} {nx : Option Waiter} {p : Bool} (hst : d.st = .k h (some t) sv nx p)
    (hsaved : ¬(sv = true ∧ h = some t)) (hgone : s.withdrawnOf line t = none) :
    UsesLock s (.lock w line false) [.link t line w] fun u => u.kOf line = some (h, some w, sv, nx, p) := by
  have hkeeps : (sv && h == some t) = false := by
    rw [← Bool.not_eq_true, Bool.and_eq_true, beq_iff_eq]
    exact hsaved
  have hgone' : (s.hitDir line false).withdrawnOf line t = none := by
    unfold State.withdrawnOf
    rw [(hitDir_lockPkts s line).2.2]
    exact hgone
  refine ⟨((s.hitDir line false).setK line h (some w) sv nx p).postLock none (.link t line w), ?_, ?_, ?_, ?_⟩
  · unfold serveLockPkt serveLock
    dsimp only
    rw [hset, if_neg Bool.false_ne_true, hd]
    dsimp only
    rw [hround, hst]
    dsimp only
    rw [Option.isSome_none, if_neg Bool.false_ne_true, Option.isNone_some, Bool.and_false, if_neg Bool.false_ne_true, if_neg Bool.false_ne_true, logSlice_off hlog]
    dsimp only
    rw [hkeeps, hgone']
    rfl
  · exact (hitDir_lockPkts s line).2.1
  · rw [State.postLock_pkts]
    exact congrArg (· ++ _) (hitDir_lockPkts s line).1
  · obtain ⟨e, he, _⟩ := hitDir_dirOf hd false
    exact kOf_setK he ..

theorem lockRequest_saved {h : Waiter} {nx : Option Waiter} {p : Bool} (hst : d.st = .k (some h) (some h) true nx p) :
    UsesLock s (.lock w line false) [] fun u => u.kOf line = some (some h, some w, true, some w, p) := by
  obtain ⟨e, he, _⟩ := hitDir_dirOf hd false
  have hk := kOf_setK he (some h) (some w) true nx p
  have hlink : linkHome ((s.hitDir line false).setK line (some h) (some w) true nx p) h line w =
      ((s.hitDir line false).setK line (some h) (some w) true nx p).onDir line fun d => match d.st with
        | .k h t sv _ p => { d with st := .k h t sv (some w) p }
        | _ => d := by
    unfold linkHome
    rw [hk]
    dsimp only
    exact if_pos (beq_self_eq_true _)
  refine ⟨linkHome ((s.hitDir line false).setK line (some h) (some w) true nx p) h line w, ?_, ?_, ?_, ?_⟩
  · unfold serveLockPkt serveLock
    dsimp only
    rw [hset, if_neg Bool.false_ne_true, hd]
    dsimp only
    rw [hround, hst]
    dsimp only
    rw [Option.isSome_none, if_neg Bool.false_ne_true, Option.isNone_some, Bool.and_false, if_neg Bool.false_ne_true, if_neg Bool.false_ne_true, logSlice_off hlog]
    dsimp only
    rw [beq_self_eq_true, Bool.and_self, Bool.true_or, if_pos rfl]
  · rw [hlink]
    exact (hitDir_lockPkts s line).2.1
  · rw [hlink, List.append_nil]
    exact (hitDir_lockPkts s line).1
  · obtain ⟨d', hd', hst'⟩ := kOf_some hk
    rw [hlink]
    refine kOf_of (d := { d' with st := .k (some h) (some w) true (some w) p }) ?_ rfl
    rw [State.dirOf_onDir, if_pos rfl, hd']
    · dsimp only [Option.map_some]
      rw [hst']
    · intro d _
      split <;> assumption

theorem lockTry_busy {h : Waiter} {t : Option Waiter} {sv : Bool} {nx : Option Waiter} {p : Bool} (hst : d.st = .k (some h) t sv nx p) :
    UsesLock s (.lock w line true) [.busy w line] fun u => u.kOf line = s.kOf line := by
  refine ⟨(s.hitDir line false).postLock none (.busy w line), ?_, (hitDir_lockPkts s line).2.1, ?_, hitDir_kOf s line⟩
  · unfold serveLockPkt serveLock
    dsimp only
    rw [hset, if_neg Bool.false_ne_true, hd]
    dsimp only
    rw [hround, hst]
    dsimp only
    rw [Option.isSome_none, if_neg Bool.false_ne_true, Option.isNone_some, Bool.false_and, Bool.false_and, if_neg Bool.false_ne_true, if_pos rfl, logSlice_off hlog]
  · rw [State.postLock_pkts]
    exact congrArg (· ++ _) (hitDir_lockPkts s line).1

theorem lockTry_poisoned {sv : Bool} {nx : Option Waiter} (hst : d.st = .k none none sv nx true) (hsh : d.sharers = []) :
    UsesLock s (.lock w line true) [.handoff w line none true] fun u => u.kOf line = some (some w, some w, false, none, false) := by
  refine ⟨((s.hitDir line false).setK line (some w) (some w) false none false).postLock none (.handoff w line none true), ?_, ?_, ?_, ?_⟩
  · unfold serveLockPkt serveLock
    dsimp only
    rw [hset, if_neg Bool.false_ne_true, hd]
    dsimp only
    rw [hround, hst]
    dsimp only
    rw [Option.isSome_none, if_neg Bool.false_ne_true, hsh, logSlice_off hlog]
    rfl
  · exact (hitDir_lockPkts s line).2.1
  · rw [State.postLock_pkts]
    exact congrArg (· ++ _) (hitDir_lockPkts s line).1
  · obtain ⟨e, he, _⟩ := hitDir_dirOf hd false
    exact kOf_setK he ..
end request

/-! ### Links (R306, R308) -/

/-- Packets and bytes that a change of one core leaves. -/
theorem onCore_lockPkts (s : State) (k : Nat) (f : Core → Core) : (s.onCore k f).lockPkts = s.lockPkts := by
  rw [State.lockPkts, State.onCore_lockNet]
  rfl

theorem entryOf_names {c : Core} {line num : Nat} {e : LockEntry} (h : c.entryOf line num = some e) : e.line = line ∧ e.num = num := by
  have := List.find?_some (p := fun e : LockEntry => e.line == line && e.num == num) h
  simpa using this

theorem entryOf_onLock {c : Core} {line num : Nat} {e : LockEntry} {f : LockEntry → LockEntry} (h : c.entryOf line num = some e)
    (hf : ∀ e, (f e).line = e.line ∧ (f e).num = e.num) : (c.onLock line f).entryOf line num = some (f e) := by
  show (c.locks.map fun e => if e.line == line then f e else e).find? (fun e => e.line == line && e.num == num) = _
  rw [List.find?_map]
  have hcomp : ((fun e : LockEntry => e.line == line && e.num == num) ∘ fun e => if e.line == line then f e else e) = fun e => e.line == line && e.num == num := by
    funext e
    dsimp only [Function.comp]
    split
    · rw [(hf e).1, (hf e).2]
    · rfl
  have hline : (e.line == line) = true := beq_iff_eq.mpr (entryOf_names h).1
  rw [hcomp, show c.locks.find? _ = some e from h, Option.map_some, if_pos hline]

theorem freeLock_lockOf (c : Core) (line : Nat) : (c.freeLock line).lockOf line = none := by
  refine List.find?_eq_none.mpr fun e he => ?_
  have := (List.mem_filter.mp he).2
  simpa using this

theorem lockLink_waits {s : State} {w next : Waiter} {line : Nat} {e : LockEntry} (he : (s.core w.core).entryOf line w.num = some e)
    (hst : e.st = .pending ∨ e.st = .held) :
    UsesLock s (.link w line next) [] fun u => ∃ e', (u.core w.core).entryOf line w.num = some e' ∧ e'.next = some next ∧
      e'.st = (if e.st = .pending then .linked else .held) := by
  have hgives (f : LockEntry → LockEntry) (hf : ∀ e, (f e).line = e.line ∧ (f e).num = e.num) (hnext : (f e).next = some next)
      (hst' : (f e).st = (if e.st = .pending then .linked else .held))
      (hu : serveLockPkt s (.link w line next) = .used (s.onCore w.core fun c => c.onLock line f)) :
      UsesLock s (.link w line next) [] fun u => ∃ e', (u.core w.core).entryOf line w.num = some e' ∧ e'.next = some next ∧
        e'.st = (if e.st = .pending then .linked else .held) := by
    refine ⟨_, hu, State.onCore_mem .., (onCore_lockPkts ..).trans (List.append_nil _).symm, f e, ?_, hnext, hst'⟩
    rw [State.core_onCore_self]
    · exact entryOf_onLock he hf
    · exact State.core_id ..
  rcases hst with hst | hst
  · refine hgives (fun e => { e with st := .linked, next := some next }) (fun _ => ⟨rfl, rfl⟩) rfl (by rw [hst]; rfl) ?_
    unfold serveLockPkt
    dsimp only
    rw [he]
    dsimp only
    rw [hst]
  · refine hgives (fun e => { e with next := some next }) (fun _ => ⟨rfl, rfl⟩) rfl (by dsimp only; rw [hst]; rfl) ?_
    unfold serveLockPkt
    dsimp only
    rw [he]
    dsimp only
    rw [hst]

theorem lockLink_stub {s : State} {w next : Waiter} {line : Nat} {e : LockEntry} {b : BitVec 960} (he : (s.core w.core).entryOf line w.num = some e)
    (hst : e.st = .stub) (hb : e.brand = some b) :
    UsesLock s (.link w line next) [.moved w line next, .handoff next line (some b) false] fun u => (u.core w.core).lockOf line = none := by
  refine ⟨handOn (s.onCore w.core fun c => c.freeLock line) w line next b, ?_, State.onCore_mem .., ?_, ?_⟩
  · unfold serveLockPkt
    dsimp only
    rw [he]
    dsimp only
    rw [hst, hb]
  · rw [handOn, State.postLock_pkts, State.postLock_pkts, onCore_lockPkts, List.append_assoc]
    rfl
  · refine Eq.trans (congrArg (fun c => Core.lockOf c line) (State.core_onCore_self s w.core (fun c => c.freeLock line) (State.core_id ..))) (freeLock_lockOf ..)

theorem lockLink_none {s : State} {w next : Waiter} {line : Nat} (he : (s.core w.core).entryOf line w.num = none) :
    UsesLock s (.link w line next) [.linkBack w line next] fun u => u.cores = s.cores ∧ u.me = s.me := by
  refine ⟨s.postLock (some w.core) (.linkBack w line next), ?_, rfl, State.postLock_pkts .., rfl, rfl⟩
  unfold serveLockPkt
  dsimp only
  rw [he]

theorem linkBack_noted {s : State} {w next : Waiter} {line : Nat} {x : Withdrawn} (hk : s.kOf line = none) (hx : s.withdrawnOf line w = some x) :
    UsesLock s (.linkBack w line next) [] fun u => u.withdrawnOf line w = some { x with next := some next } := by
  refine ⟨{ s with withdrawn := s.withdrawn.map fun x => if x.line == line && x.who == w then { x with next := some next } else x }, ?_, rfl,
    (List.append_nil _).symm, ?_⟩
  · unfold serveLockPkt linkHome
    dsimp only
    rw [hk, hx]
    rfl
  · show (s.withdrawn.map fun x => if x.line == line && x.who == w then { x with next := some next } else x).find? (fun x => x.line == line && x.who == w) = _
    rw [List.find?_map]
    have hcomp : ((fun x : Withdrawn => x.line == line && x.who == w) ∘ fun x => if x.line == line && x.who == w then { x with next := some next } else x) =
        fun x => x.line == line && x.who == w := by
      funext x
      dsimp only [Function.comp]
      split
      · rfl
      · rfl
    have hthis : (x.line == line && x.who == w) = true := by simpa using List.find?_some hx
    rw [hcomp, show s.withdrawn.find? _ = some x from hx, Option.map_some, if_pos hthis]

/-! ### The hand-off (R306, R308) -/

/-- The core of a granted request: its entries of the line held, the line out of its cache. -/
def grantedAt (s : State) (k line : Nat) : State := s.onCore k fun c => (c.onLock line fun e => { e with st := .held }).dropLine line

theorem grantedAt_core (s : State) (k line : Nat) :
    ((grantedAt s k line).core k).locks = ((s.core k).onLock line fun e => { e with st := .held }).locks ∧
    ((grantedAt s k line).core k).cache = (s.core k).cache.filter (·.line != line) := by
  rw [grantedAt, State.core_onCore_self s k (fun c => (c.onLock line fun e => { e with st := .held }).dropLine line) (State.core_id ..)]
  exact ⟨rfl, rfl⟩

theorem entryOf_congr {c d : Core} (h : c.locks = d.locks) (line num : Nat) : c.entryOf line num = d.entryOf line num := by
  unfold Core.entryOf
  rw [h]

theorem hasWay_congr {c d : Core} {line : Nat} (h : c.cache = d.cache.filter (·.line != line)) : (c.dropLine line).hasWay line = (d.dropLine line).hasWay line := by
  unfold Core.hasWay Core.dropLine
  dsimp only
  rw [h, List.filter_filter, List.filter_filter, List.filter_filter]
  refine congrArg (fun l : List CLine => decide (l.length < 4)) (List.filter_congr fun l _ => ?_)
  rw [Bool.and_assoc _ (l.line != line) (l.line != line), Bool.and_self]

/-- A granted line put into its core's cache. -/
theorem install_granted {s : State} {k line : Nat} {e : LockEntry} {data : BitVec 1024} {num : Nat} (he : (s.core k).entryOf line num = some e) :
    (((grantedAt s k line).install k { line := line, st := .k, data := data, unread := 0 }).core k).entryOf line num = some { e with st := .held } ∧
    ((grantedAt s k line).install k { line := line, st := .k, data := data, unread := 0 }).mem = s.mem ∧
    (((s.core k).dropLine line).hasWay line = true →
      (((grantedAt s k line).install k { line := line, st := .k, data := data, unread := 0 }).core k).lineOf line =
        some { line := line, st := .k, data := data, unread := 0 }) := by
  obtain ⟨hlocks, hcache⟩ := grantedAt_core s k line
  refine ⟨?_, (install_mem ..).trans (State.onCore_mem ..), fun hway => ?_⟩
  · obtain ⟨cache, hc⟩ := install_core (grantedAt s k line) k { line := line, st := .k, data := data, unread := 0 }
    have hsame := entryOf_congr ((congrArg Core.locks hc).trans hlocks) line num
    exact hsame.trans (entryOf_onLock (f := fun e => { e with st := .held }) he (fun _ => ⟨rfl, rfl⟩))
  · rw [install_way ((hasWay_congr hcache).trans hway), dropLine_cache, State.core_setCore, if_pos (State.core_id (grantedAt s k line) k).symm]
    exact List.find?_cons_of_pos (beq_self_eq_true line)

theorem handoff_granted {s : State} {i line : Nat} {w : Waiter} {b : Option (BitVec 960)} {poisoned : Bool} {e : LockEntry} (hat : LockAt s i (.handoff w line b poisoned))
    (he : (s.core w.core).entryOf line w.num = some e) (hwaits : e.waits = true) (hkilled : killedCore s w.core = false) : ∃ v : State,
      exec (.handoff i) s = .next (v.tell w.core (statusMsg w.core e (if poisoned then 1 else 0) 0
        (some (match (generalizing := false) b with | some x => x | none => fullBrand)))).settle.settleLocks ∧
      (v.core w.core).entryOf line w.num = some { e with st := .held } ∧ v.mem = s.mem ∧
      (((s.core w.core).dropLine line).hasWay line = true → ∃ l, (v.core w.core).lineOf line = some l ∧ l.st = .k ∧ l.data = s.mem.line line) := by
  have hmem : (grantedAt (s.tookLock i) w.core line).mem = s.mem := State.onCore_mem ..
  have hu : serveLockPkt (s.tookLock i) (.handoff w line b poisoned) =
      .used (((grantedAt (s.tookLock i) w.core line).install w.core
        { line := line, st := .k, data := (grantedAt (s.tookLock i) w.core line).mem.line line, unread := 0 }).tell w.core
      (statusMsg w.core e (if poisoned then 1 else 0) 0 (some (match (generalizing := false) b with | some x => x | none => fullBrand)))) := by
    unfold serveLockPkt
    dsimp only
    rw [show Core.entryOf (State.core (s.tookLock i) w.core) line w.num = some e from he]
    dsimp only
    rw [hwaits, show killedCore (s.tookLock i) w.core = false from hkilled, Bool.and_false, if_neg Bool.false_ne_true, if_pos rfl]
    cases b <;> rfl
  obtain ⟨hheld, hbytes, hway⟩ := install_granted (s := s.tookLock i) (data := (grantedAt (s.tookLock i) w.core line).mem.line line) he
  exact ⟨_, serveLockIf_used (is := fun p => match p with | .handoff .. => true | .busy .. => true | _ => false) hat rfl hu, hheld, hbytes,
    fun h => ⟨_, hway h, rfl, congrArg (fun m : Memory => m.line line) hmem⟩⟩

theorem handoff_passed {s : State} {line : Nat} {w : Waiter} {b : Option (BitVec 960)} {poisoned : Bool}
    (h : ∀ e, (s.core w.core).entryOf line w.num = some e → e.waits = false) :
    UsesLock s (.handoff w line b poisoned) [.pass w line poisoned] fun u => u.cores = s.cores ∧ u.me = s.me := by
  refine ⟨s.postLock (some w.core) (.pass w line poisoned), ?_, rfl, State.postLock_pkts .., rfl, rfl⟩
  unfold serveLockPkt
  dsimp only
  split
  · rfl
  · next e he =>
    rw [h e he]
    rfl

theorem busy_answered {s : State} {i line : Nat} {w : Waiter} {e : LockEntry} (hat : LockAt s i (.busy w line)) (he : (s.core w.core).entryOf line w.num = some e) :
    ∃ v : State, exec (.handoff i) s = .next (v.tell w.core (statusMsg w.core e 5 0 none)).settle.settleLocks ∧ (v.core w.core).lockOf line = none := by
  have hu : serveLockPkt (s.tookLock i) (.busy w line) =
      .used (((s.tookLock i).onCore w.core fun c => c.freeLock line).tell w.core (statusMsg w.core e 5 0 none)) := by
    unfold serveLockPkt
    dsimp only
    rw [show Core.entryOf (State.core (s.tookLock i) w.core) line w.num = some e from he]
  refine ⟨(s.tookLock i).onCore w.core fun c => c.freeLock line,
    serveLockIf_used (is := fun p => match p with | .handoff .. => true | .busy .. => true | _ => false) hat rfl hu, ?_⟩
  exact Eq.trans (congrArg (fun c => Core.lockOf c line) (State.core_onCore_self (s.tookLock i) w.core (fun c => c.freeLock line) (State.core_id ..))) (freeLock_lockOf ..)

/-! ### Messages of the holder (R306, R308, R310, R311) -/

theorem withdrawnOf_cleared (s : State) (line : Nat) (w : Waiter) : (s.clearWithdrawn line w).withdrawnOf line w = none := by
  refine List.find?_eq_none.mpr fun x hx => ?_
  rw [Bool.not_eq_true, ← Bool.not_eq_true']
  exact (List.mem_filter.mp hx).2
section holder
variable {s : State} {w h : Waiter} {line : Nat} {t : Option Waiter} {sv : Bool} {nx : Option Waiter} {p : Bool}
  (hk : s.kOf line = some (some h, t, sv, nx, p)) (hnum : h.num = w.num)
include hk hnum

theorem asHolder_holds (f : Option Waiter → Bool → Option Waiter → Bool → Served) : asHolder s w line f = f t sv nx p := by
  unfold asHolder
  rw [hk]
  exact if_pos (beq_iff_eq.mpr hnum)

theorem moved_spec (next : Waiter) :
    UsesLock s (.moved w line next) [] fun u => u.kOf line = some (some next, (if t = some w then some next else t), sv, nx, p) := by
  obtain ⟨d, hd, _⟩ := kOf_some hk
  refine ⟨s.setK line (some next) (if t == some w then some next else t) sv nx p, asHolder_holds hk hnum _, rfl, (List.append_nil _).symm, ?_⟩
  dsimp only
  rw [kOf_setK hd]
  simp only [beq_iff_eq]

theorem free_last (ht : t = some w) :
    UsesLock s (.free w line) [.freed w line] fun u => u.kOf line = none ∧ ∃ d, u.dirOf line = some d ∧ d.st = .n := by
  obtain ⟨d, hd, _⟩ := kOf_some hk
  refine ⟨(s.unlockLine line).postLock none (.freed w line), ?_, rfl, State.postLock_pkts .., kOf_unlock hd, _, dirOf_unlock hd, rfl⟩
  exact (asHolder_holds hk hnum _).trans (congrArg Served.used (if_pos (beq_iff_eq.mpr ht)))

theorem free_followed (ht : t ≠ some w) : UsesLock s (.free w line) [] fun u => u.kOf line = s.kOf line := by
  refine ⟨s, ?_, rfl, (List.append_nil _).symm, rfl⟩
  exact (asHolder_holds hk hnum _).trans (congrArg Served.used (if_neg (by rw [beq_iff_eq]; exact ht)))

theorem force_next {next : Option Waiter} {stub : Bool} {n : Waiter} (hn : (if next.isSome then next else nx) = some n) :
    UsesLock s (.force w line next stub) [.handoff n line none true] fun u => u.kOf line = some (some n, t, false, none, false) := by
  obtain ⟨d, hd, _⟩ := kOf_some hk
  refine ⟨s.grantOn line n t true, ?_, rfl, State.postLock_pkts .., kOf_setK hd ..⟩
  unfold serveLockPkt
  dsimp only
  rw [hk]
  dsimp only
  rw [Option.map_some, hnum, if_neg (by simp), hn]

theorem force_last {stub : Bool} (hnx : nx = none) (ht : t.map (·.num) = some w.num) :
    UsesLock s (.force w line none stub) [] fun u => u.kOf line = some (none, none, false, none, true) := by
  obtain ⟨d, hd, _⟩ := kOf_some hk
  refine ⟨s.setK line none none false none true, ?_, rfl, (List.append_nil _).symm, kOf_setK hd ..⟩
  unfold serveLockPkt
  dsimp only
  rw [hk]
  dsimp only
  rw [Option.map_some, hnum, if_neg (by simp), hnx, ht]
  dsimp only [Option.isSome_none, if_false]
  rw [if_neg Bool.false_ne_true]
  dsimp only
  rw [if_pos (beq_self_eq_true _)]
  rfl

theorem saved_spec (next : Option Waiter) :
    UsesLock s (.saved w line next) [] fun u => u.kOf line = some (some w, t, true, (if next.isSome then next else nx), p) := by
  obtain ⟨d, hd, _⟩ := kOf_some hk
  exact ⟨s.setK line (some w) t true (if next.isSome then next else nx) p, asHolder_holds hk hnum _, rfl, (List.append_nil _).symm, kOf_setK hd ..⟩

theorem pass_next {poisoned : Bool} {x : Withdrawn} {n : Waiter} (hx : s.withdrawnOf line w = some x) (hn : x.next = some n) :
    UsesLock s (.pass w line poisoned) [.handoff n line none poisoned] fun u =>
      u.kOf line = some (some n, t, false, none, false) ∧ u.withdrawnOf line w = none := by
  obtain ⟨d, hd, _⟩ := kOf_some hk
  refine ⟨(s.clearWithdrawn line w).grantOn line n t poisoned, ?_, rfl, State.postLock_pkts .., kOf_setK (s := s.clearWithdrawn line w) hd .., withdrawnOf_cleared ..⟩
  refine (asHolder_holds hk hnum _).trans ?_
  rw [hx]
  dsimp only
  rw [hn]

theorem pass_last {poisoned : Bool} {x : Withdrawn} (hx : s.withdrawnOf line w = some x) (hn : x.next = none) (ht : t = some w) :
    UsesLock s (.pass w line poisoned) [] fun u =>
      u.kOf line = (if poisoned then some (none, none, false, none, true) else none) ∧ u.withdrawnOf line w = none := by
  obtain ⟨d, hd, _⟩ := kOf_some hk
  refine ⟨(s.clearWithdrawn line w).endQueue line poisoned, ?_, ?_, ?_, ?_⟩
  · refine (asHolder_holds hk hnum _).trans ?_
    rw [hx]
    dsimp only
    rw [hn]
    dsimp only
    rw [if_pos (beq_iff_eq.mpr ht)]
  · cases poisoned <;> rfl
  · cases poisoned <;> exact (List.append_nil _).symm
  · cases poisoned with
    | true => exact ⟨kOf_setK (s := s.clearWithdrawn line w) hd .., withdrawnOf_cleared ..⟩
    | false => exact ⟨kOf_unlock (s := s.clearWithdrawn line w) hd, withdrawnOf_cleared ..⟩
end holder

theorem resume_spec {s : State} {w h : Waiter} {line : Nat} {t nx : Option Waiter} {p : Bool} {e : LockEntry}
    (hk : s.kOf line = some (some h, t, true, nx, p)) (hnum : h.num = w.num) (he : (s.core w.core).entryOf line w.num = some e) :
    UsesLock s (.resume w line) [] fun u => u.kOf line = some (some w, (if t.map (·.num) = some w.num then some w else t), false, none, p) ∧
      (u.core w.core).entryOf line w.num = some { e with st := .held, next := nx } := by
  obtain ⟨d, hd, _⟩ := kOf_some hk
  let t' := if t.map (·.num) == some w.num then some w else t
  let s₁ := s.setK line (some w) t' false none p
  let s₂ := s₁.onCore w.core fun c => c.onLock line fun e => { e with st := .held, next := nx }
  have hu : serveLockPkt s (.resume w line) = .used (s₂.install w.core { line := line, st := .k, data := s₂.mem.line line, unread := 0 }) := by
    refine (asHolder_holds hk hnum _).trans ?_
    dsimp only
    rw [Bool.not_true, if_neg Bool.false_ne_true, he, Option.isNone_some, if_neg Bool.false_ne_true]
  have hcore : (s₂.core w.core).locks = ((s.core w.core).onLock line fun e => { e with st := .held, next := nx }).locks :=
    congrArg Core.locks (State.core_onCore_self s₁ w.core _ (State.core_id ..))
  have hinstall : (s₂.install w.core { line := line, st := .k, data := s₂.mem.line line, unread := 0 }).lockPkts = s₂.lockPkts ∧
      (s₂.install w.core { line := line, st := .k, data := s₂.mem.line line, unread := 0 }).dir = s₂.dir := by
    unfold State.install
    dsimp only
    split
    · exact ⟨by rw [State.lockPkts, State.setCore_lockNet]; rfl, State.setCore_dir ..⟩
    · split
      · exact ⟨by rw [State.lockPkts, State.setCore_lockNet]; rfl, State.setCore_dir ..⟩
      · split
        · exact ⟨by rw [State.lockPkts, State.post_lockNet, State.setCore_lockNet]; rfl, State.setCore_dir ..⟩
        · exact ⟨by rw [State.lockPkts, State.setCore_lockNet]; rfl, State.setCore_dir ..⟩
  refine ⟨_, hu, (install_mem ..).trans (State.onCore_mem ..), ?_, ?_, ?_⟩
  · rw [hinstall.1, List.append_nil]
    exact onCore_lockPkts ..
  · have hkOf (u v : State) (h : u.dir = v.dir) : u.kOf line = v.kOf line := by
      unfold State.kOf State.dirOf
      rw [h]
    rw [hkOf _ s₁ (hinstall.2.trans (State.onCore_dir ..)), kOf_setK hd]
    simp only [t', beq_iff_eq]
  · obtain ⟨cache, hc⟩ := install_core s₂ w.core { line := line, st := .k, data := s₂.mem.line line, unread := 0 }
    refine (entryOf_congr ((congrArg Core.locks hc).trans hcore) line w.num).trans ?_
    exact entryOf_onLock (f := fun e => { e with st := .held, next := nx }) he (fun _ => ⟨rfl, rfl⟩)

/-! ### Stubs and withdrawals (R306, R308, R309) -/

theorem freed_stub {s : State} {w : Waiter} {line : Nat} {e : LockEntry} (he : (s.core w.core).entryOf line w.num = some e) (hst : e.st = .stub) :
    UsesLock s (.freed w line) [] fun u => (u.core w.core).lockOf line = none := by
  have hfreed (c : Core) (hc : c.entryOf line w.num = some e) :
      (match c.entryOf line w.num with | some e => if e.st == .stub then c.freeLock line else c | none => c) = c.freeLock line := by
    rw [hc]
    exact if_pos (beq_iff_eq.mpr hst)
  refine ⟨s.onCore w.core fun c => match c.entryOf line w.num with | some e => if e.st == .stub then c.freeLock line else c | none => c, rfl,
    State.onCore_mem .., (onCore_lockPkts ..).trans (List.append_nil _).symm, ?_⟩
  dsimp only
  rw [State.core_onCore_self, hfreed _ he]
  · exact freeLock_lockOf ..
  · rw [hfreed _ he]
    exact State.core_id ..

theorem withdraw_noted {s : State} {w : Waiter} {line : Nat} {next : Option Waiter} {try_ : Bool}
    (h : try_ = false ∨ ∃ t sv nx p, s.kOf line = some (some w, t, sv, nx, p)) (hroom : tableCount s line < 32) :
    UsesLock s (.withdraw w line next try_) [] fun u => u.withdrawn = s.withdrawn ++ [{ line := line, who := w, next := next }] := by
  refine ⟨{ s with withdrawn := s.withdrawn ++ [{ line := line, who := w, next := next }] }, ?_, rfl, (List.append_nil _).symm, rfl⟩
  unfold serveLockPkt
  dsimp only
  rw [if_neg, if_pos hroom]
  rcases h with rfl | ⟨t, sv, nx, p, hk⟩
  · rw [Bool.false_and]
    exact Bool.false_ne_true
  · rw [hk]
    simp

theorem withdraw_dropped {s : State} {w : Waiter} {line : Nat} {next : Option Waiter} (h : ∀ t sv nx p, s.kOf line ≠ some (some w, t, sv, nx, p)) :
    UsesLock s (.withdraw w line next true) [] fun u => u.withdrawn = s.withdrawn := by
  refine ⟨s, ?_, rfl, (List.append_nil _).symm, rfl⟩
  unfold serveLockPkt
  dsimp only
  refine if_pos ?_
  rw [Bool.true_and]
  split
  · next v t sv nx p hk =>
    rw [bne_iff_ne]
    rintro rfl
    exact h _ _ _ _ hk
  · rfl

/-- A withdrawal that the table has room for. -/
theorem withdrawEntry_room {s : State} {k line : Nat} {e : LockEntry} (status : Option (Nat × Nat)) (he : (s.core k).lockOf line = some e) (hwaits : e.waits = true)
    (hroom : withdrawnCount s line < 32) :
    ∃ v, s.withdrawEntry k line status = (match (generalizing := false) status with | some st => v.tell k (statusMsg k e st.1 st.2 none) | none => v) ∧
      (v.core k).lockOf line = none ∧ v.lockPkts = s.lockPkts ++ [.withdraw (e.who k) line e.next e.try_] ∧ v.mem = s.mem ∧ v.lazy = s.lazy := by
  refine ⟨(s.onCore k fun c => c.freeLock line).postLock (some k) (.withdraw (e.who k) line e.next e.try_), ?_, ?_, ?_, State.onCore_mem .., State.onCore_lazy ..⟩
  · unfold State.withdrawEntry
    rw [he]
    dsimp only
    rw [hwaits, Bool.not_true, if_neg Bool.false_ne_true, if_pos hroom]
    cases status <;> rfl
  · exact Eq.trans (congrArg (fun c => Core.lockOf c line) (State.core_onCore_self s k (fun c => c.freeLock line) (State.core_id ..))) (freeLock_lockOf ..)
  · rw [State.postLock_pkts, onCore_lockPkts]

theorem withdrawLock_room {s : State} {k line : Nat} {e : LockEntry} (status : Option (Nat × Nat)) (hlazy : s.lazy = true) (he : (s.core k).lockOf line = some e)
    (hwaits : e.waits = true) (hroom : withdrawnCount s line < 32) :
    ∃ v, s.withdrawLock k line status = (match (generalizing := false) status with | some st => v.tell k (statusMsg k e st.1 st.2 none) | none => v) ∧
      (v.core k).lockOf line = none ∧ v.lockPkts = s.lockPkts ++ [.withdraw (e.who k) line e.next e.try_] ∧ v.mem = s.mem := by
  obtain ⟨v, hv, hfreed, hpkts, hmem, hl⟩ := withdrawEntry_room status he hwaits hroom
  refine ⟨v, ?_, hfreed, hpkts, hmem⟩
  rw [← hv]
  refine State.settleLocks_lazy ?_
  rw [hv]
  cases status with
  | none => exact hl.trans hlazy
  | some st => exact (tell_lazy (hl.trans hlazy) ..).1

theorem withdrawnCount_took (s : State) (i line : Nat) : withdrawnCount (s.tookLock i) line ≤ withdrawnCount s line :=
  Nat.add_le_add_left (((List.eraseIdx_sublist s.lockNet i).filter _).length_le) _

theorem lockOf_line {c : Core} {line : Nat} {e : LockEntry} (h : c.lockOf line = some e) : e.line = line := by
  have := List.find?_some (p := fun e : LockEntry => e.line == line) h
  simpa using this

theorem entryOf_lockOf {c : Core} {line : Nat} {e : LockEntry} (h : c.lockOf line = some e) : c.entryOf line e.num = some e := by
  unfold Core.lockOf at h
  unfold Core.entryOf
  obtain ⟨hp, as, bs, hl, has⟩ := List.find?_eq_some_iff_append.mp h
  refine List.find?_eq_some_iff_append.mpr ⟨by rw [Bool.and_eq_true]; exact ⟨hp, beq_self_eq_true _⟩, as, bs, hl, fun a ha => ?_⟩
  have := has a ha
  rw [Bool.not_eq_true'] at this ⊢
  rw [this, Bool.false_and]

theorem withdrawRetry_spec {s : State} {i line : Nat} {w : Waiter} {status : Option (Nat × Nat)}
    (hat : ∃ f, s.lockNet[i]? = some f ∧ f.pkt = .withdrawRefused w line status) (hlazy : s.lazy = true) (hroom : withdrawnCount s line < 32) :
    ((s.core w.core).entryOf line w.num = none → ∃ t : State, exec (.withdrawRetry i) s = .next t ∧ t.lockNet = s.lockNet.eraseIdx i ∧ t.me = s.me) ∧
    (∀ e, (s.core w.core).lockOf line = some e → e.num = w.num → e.waits = true → ∃ v t : State, exec (.withdrawRetry i) s = .next t ∧
      t = (match (generalizing := false) status with | some st => v.tell w.core (statusMsg w.core e st.1 st.2 none) | none => v) ∧
      (v.core w.core).lockOf line = none ∧ v.lockPkts = s.lockPkts.eraseIdx i ++ [.withdraw (e.who w.core) line e.next e.try_]) := by
  obtain ⟨f, hf, hp⟩ := hat
  have hexec : exec (.withdrawRetry i) s = served s (match (s.core w.core).entryOf line w.num with
      | some e => if e.waits then some ((s.tookLock i).withdrawLock w.core line status) else some (s.tookLock i)
      | none => some (s.tookLock i)) := by
    show served s (s.retryWithdraw i) = _
    unfold State.retryWithdraw
    rw [hf]
    dsimp only
    rw [hp]
    dsimp only
    rw [if_neg (by omega)]
    rfl
  refine ⟨fun he => ?_, fun e he hnum hwaits => ?_⟩
  · rw [he] at hexec
    exact ⟨_, hexec, rfl, rfl⟩
  · obtain ⟨v, hv, hfreed, hpkts, _⟩ := withdrawLock_room (s := s.tookLock i) status hlazy he hwaits (Nat.lt_of_le_of_lt (withdrawnCount_took s i line) hroom)
    have hentry := entryOf_lockOf he
    rw [hnum] at hentry
    rw [hentry] at hexec
    dsimp only at hexec
    rw [hwaits, if_pos rfl] at hexec
    refine ⟨v, (s.tookLock i).withdrawLock w.core line status, hexec, hv, hfreed, ?_⟩
    rw [hpkts, State.tookLock, State.lockPkts, State.lockPkts, eraseIdx_map_comm]

/-! ### Timers and probes (R309, R312, R313) -/

/-- OVERDUE is sent to the lock's holder alone: the cores, the locks' packets and the withdrawal table stay. -/
theorem sendNi_fields {s : State} (h : s.lazy = true) (p : NiPkt) : ∃ ni stamp, s.sendNi p = { s with ni := ni, stamp := stamp } :=
  ⟨_, _, sendNi_lazy h p⟩

theorem tell_fields {s : State} (h : s.lazy = true) (k : Nat) (m : Msg) : ∃ ni stamp, s.tell k m = { s with ni := ni, stamp := stamp } := by
  unfold State.tell
  dsimp only
  split
  · exact sendNi_fields h _
  · exact sendNi_fields h _

theorem overdue_fields {s : State} (h : s.lazy = true) (line core : Nat) : ∃ tick overdues ni stamp, s.overdue line core =
    { s with
      tick := tick
      overdues := overdues
      ni := ni
      stamp := stamp } := by
  unfold State.overdue
  dsimp only
  split
  · exact ⟨_, s.overdues, s.ni, s.stamp, rfl⟩
  · split
    · split
      · split
        · obtain ⟨ni, stamp, hs⟩ := sendNi_fields (s := ({ s with overdues := (line, s.homeFrame line) :: s.overdues.filter (·.1 != line) } : State).tock) h
            (.msg _ _ _ none (statusMsg _ _ 6 core none) false)
          exact ⟨_, _, ni, stamp, hs⟩
        · exact ⟨s.tick, s.overdues, s.ni, s.stamp, rfl⟩
      · split
        · obtain ⟨ni, stamp, hs⟩ := tell_fields (s := ({ s with overdues := (line, s.homeFrame line) :: s.overdues.filter (·.1 != line) } : State).tock) h
            _ (statusMsg _ _ 6 core none)
          exact ⟨_, _, ni, stamp, hs⟩
        · exact ⟨s.tick, s.overdues, s.ni, s.stamp, rfl⟩
    · exact ⟨s.tick, s.overdues, s.ni, s.stamp, rfl⟩

theorem lockTimers_spec {s : State} {k line : Nat} {e : LockEntry} (he : (s.core k).lockOf line = some e) (hwaits : e.waits = true) (htry : e.try_ = false)
    (hlazy : s.lazy = true) :
    (withdrawnCount s line < 32 → holderInDebug s line = false → ∃ v t : State, exec (.lockWaitTimeout k line) s = .next t ∧
      t = v.tell k (statusMsg k e 4 0 none) ∧
      (v.core k).lockOf line = none ∧ v.lockPkts = s.lockPkts ++ [.withdraw (e.who k) line e.next false] ∧ v.mem = s.mem) ∧
    (∃ t : State, exec (.probeTimer k line) s = .next t ∧ t.lockPkts = s.lockPkts ++ [.probe (e.who k) line line []] ∧ t.mem = s.mem) := by
  refine ⟨fun hroom hdebug => ?_, (s.postLock (some k) (.probe (e.who k) line line [])), ?_, State.postLock_pkts .., rfl⟩
  · have hexec : exec (.lockWaitTimeout k line) s = .next ((s.overdue line k).withdrawLock k line (some (4, 0))) := by
      show served s (s.lockTimeout k line) = _
      unfold State.lockTimeout
      rw [he]
      dsimp only
      rw [hwaits, htry, hdebug]
      rfl
    obtain ⟨tick, overdues, ni, stamp, hover⟩ := overdue_fields hlazy line k
    rw [hover] at hexec
    obtain ⟨v, hv, hfreed, hpkts, hmem⟩ := withdrawLock_room (s := { s with
      tick := tick
      overdues := overdues
      ni := ni
      stamp := stamp }) (some (4, 0)) hlazy he hwaits hroom
    rw [htry] at hpkts
    exact ⟨v, _, hexec, hv, hfreed, hpkts, hmem⟩
  · show served s _ = _
    rw [he]
    dsimp only
    rw [hwaits, htry, State.settleLocks_lazy (s := s.postLock (some k) (.probe (e.who k) line line [])) hlazy]
    rfl

theorem postLock_each {α : Type} (src : Option Nat) (f : α → LockPkt) (xs : List α) (s : State) :
    ∃ lockNet stamp, xs.foldl (fun (s : State) x => s.postLock src (f x)) s = { s with lockNet := lockNet, stamp := stamp } ∧
      lockNet.map (·.pkt) = s.lockPkts ++ xs.map f := by
  induction xs generalizing s with
  | nil => exact ⟨s.lockNet, s.stamp, rfl, (List.append_nil _).symm⟩
  | cons x xs ih =>
    obtain ⟨lockNet, stamp, hfold, hpkts⟩ := ih (s.postLock src (f x))
    refine ⟨lockNet, stamp, hfold, ?_⟩
    rw [hpkts, State.postLock_pkts, List.append_assoc, List.map_cons, List.singleton_append]

theorem probe_spec {s : State} {w h : Waiter} {line start : Nat} {path : List (Nat × Nat)} {t nx : Option Waiter} {p : Bool}
    (hk : s.kOf line = some (some h, t, false, nx, p)) (hother : h.core ≠ w.core) (hrun : (s.core h.core).run ≠ .debugHalted) (hpath : path.length < 8) :
    UsesLock s (.probe w start line path) (((s.core h.core).locks.filter (·.waits)).map fun e => .probe w start e.line (path ++ [(h.core, line)]))
      fun u => u.me = s.me := by
  obtain ⟨lockNet, stamp, hfold, hpkts⟩ := postLock_each (some h.core) (fun e : LockEntry => .probe w start e.line (path ++ [(h.core, line)]))
    ((s.core h.core).locks.filter (·.waits)) s
  have hserve : serveProbe s w start line path = { s with lockNet := lockNet, stamp := stamp } := by
    have hgo : ((s.core h.core).run == .debugHalted || decide (8 < (path ++ [(h.core, line)]).length)) = false := by
      rw [beq_eq_false_iff_ne.mpr hrun, List.length_append, List.length_singleton, decide_eq_false (by omega)]
      rfl
    unfold serveProbe
    rw [hk]
    dsimp only
    rw [hgo, if_neg Bool.false_ne_true, if_neg (by rw [beq_iff_eq]; exact hother), hfold]
  exact ⟨_, congrArg Served.used hserve, rfl, hpkts, rfl⟩

/-- Settles O58: each lock packet and timer by its own lemma. -/
theorem lockPacketsKeepTheQueue : Obligations.LockPacketsKeepTheQueue := by
  unfold Obligations.LockPacketsKeepTheQueue
  intro s i line w
  refine ⟨fun d hat hset hd hround hlog => ⟨fun hst hsh => ?_, fun h t sv nx p hst hsaved hgone => ?_, fun h nx p hst => ?_⟩,
    fun d hat hset hd hround hlog => ⟨fun h t sv nx p hst => ?_, fun sv nx hst hsh => ?_⟩,
    fun next hat => ⟨fun e he => ⟨fun hst => ?_, fun b hst hb => ?_⟩, fun he => ?_⟩, fun next x hat hk hx => ?_,
    fun b poisoned hat => ⟨fun e he hwaits hkilled => handoff_granted hat he hwaits hkilled, fun h => ?_⟩, fun e hat he => busy_answered hat he,
    fun next h t sv nx p hat hk hnum => ?_, fun h t sv nx p hat hk hnum => ⟨fun ht => ?_, fun ht => ?_⟩,
    fun next stub h t sv nx p hat hk hnum => ⟨fun n hn => ?_, fun hnext hnx ht => ?_⟩, fun e hat he hst => ?_,
    fun next try_ hat => ⟨fun h hroom => ?_, fun htry h => ?_⟩,
    fun poisoned x h t sv nx p hat hx hk hnum => ⟨fun n hn => ?_, fun hn ht => ?_⟩, fun status hat hlazy hroom => withdrawRetry_spec hat hlazy hroom,
    fun e he hwaits htry hlazy => lockTimers_spec he hwaits htry hlazy, fun next h t sv nx p hat hk hnum => ?_, fun h t nx p e hat hk hnum he => ?_,
    fun start path h t nx p hat hk hother hrun hpath => ?_⟩
  · exact (lockRequest_free (s := s.tookLock i) hset hd hround hlog false hst hsh).takes (is := fun p => match p with | .lock .. => true | _ => false) rfl hat rfl
  · exact (lockRequest_queue (s := s.tookLock i) hset hd hround hlog hst hsaved hgone).takes (is := fun p => match p with | .lock .. => true | _ => false) rfl hat rfl
  · exact (lockRequest_saved (s := s.tookLock i) hset hd hround hlog hst).takes (is := fun p => match p with | .lock .. => true | _ => false) rfl hat rfl
  · exact (lockTry_busy (s := s.tookLock i) hset hd hround hlog hst).takes (is := fun p => match p with | .lock .. => true | _ => false) rfl hat rfl
  · exact (lockTry_poisoned (s := s.tookLock i) hset hd hround hlog hst hsh).takes (is := fun p => match p with | .lock .. => true | _ => false) rfl hat rfl
  · exact (lockLink_waits (s := s.tookLock i) he hst).takes (is := fun p => match p with | .link .. => true | .linkBack .. => true | _ => false) rfl hat rfl
  · exact (lockLink_stub (s := s.tookLock i) he hst hb).takes (is := fun p => match p with | .link .. => true | .linkBack .. => true | _ => false) rfl hat rfl
  · exact (lockLink_none (s := s.tookLock i) he).takes (is := fun p => match p with | .link .. => true | .linkBack .. => true | _ => false) rfl hat rfl
  · exact (linkBack_noted (s := s.tookLock i) hk hx).takes (is := fun p => match p with | .link .. => true | .linkBack .. => true | _ => false) rfl hat rfl
  · exact (handoff_passed (s := s.tookLock i) h).takes (is := fun p => match p with | .handoff .. => true | .busy .. => true | _ => false) rfl hat rfl
  · exact (moved_spec (s := s.tookLock i) hk hnum next).takes (is := fun p => match p with | .moved .. => true | _ => false) rfl hat rfl
  · exact (free_last (s := s.tookLock i) hk hnum ht).takes (is := fun p => match p with | .free .. => true | .force .. => true | _ => false) rfl hat rfl
  · exact (free_followed (s := s.tookLock i) hk hnum ht).takes (is := fun p => match p with | .free .. => true | .force .. => true | _ => false) rfl hat rfl
  · exact (force_next (s := s.tookLock i) hk hnum hn).takes (is := fun p => match p with | .free .. => true | .force .. => true | _ => false) rfl hat rfl
  · subst hnext
    exact (force_last (s := s.tookLock i) hk hnum hnx ht).takes (is := fun p => match p with | .free .. => true | .force .. => true | _ => false) rfl hat rfl
  · exact (freed_stub (s := s.tookLock i) he hst).takes (is := fun p => match p with | .freed .. => true | _ => false) rfl hat rfl
  · exact (withdraw_noted (s := s.tookLock i) h hroom).takes (is := fun p => match p with | .withdraw .. => true | _ => false) rfl hat rfl
  · subst htry
    exact (withdraw_dropped (s := s.tookLock i) h).takes (is := fun p => match p with | .withdraw .. => true | _ => false) rfl hat rfl
  · exact (pass_next (s := s.tookLock i) hk hnum hx hn).takes (is := fun p => match p with | .pass .. => true | _ => false) rfl hat rfl
  · exact (pass_last (s := s.tookLock i) hk hnum hx hn ht).takes (is := fun p => match p with | .pass .. => true | _ => false) rfl hat rfl
  · exact (saved_spec (s := s.tookLock i) hk hnum next).takes (is := fun p => match p with | .saved .. => true | _ => false) rfl hat rfl
  · exact (resume_spec (s := s.tookLock i) hk hnum he).takes (is := fun p => match p with | .resume .. => true | _ => false) rfl hat rfl
  · exact (probe_spec (s := s.tookLock i) hk hother hrun hpath).takes (is := fun p => match p with | .probe .. => true | _ => false) rfl hat rfl

/-! ### A stream on a lost core that is saved all the same (R276, R399) -/

theorem finishSave_core (s : State) (id k : Nat) : (s.finishSave id).core k = s.core k := by
  unfold State.finishSave
  split
  · rfl
  · split <;> rfl

theorem drainGathered_lazy {s : State} (h : s.lazy = true) (k : Nat) : (s.drainGathered k).lazy = true ∧ ∀ j, (s.drainGathered k).core j = s.core j := by
  unfold State.drainGathered
  dsimp only
  have hlazy : ∀ ps, (s.postAll ps).lazy = true := fun ps => (State.postAll_lazy s ps).trans h
  rw [State.settle_lazy (hlazy _)]
  exact ⟨hlazy _, fun j => State.core_congr (State.postAll_me ..) (State.postAll_cores ..) j⟩

/-- The last part of a save releases the core; `cellOnly` keeps a lost one lost. -/
theorem released_lost {s : State} (hlazy : s.lazy = true) {q id : Nat} (hlost : (s.core q).run = .lost) :
    ((((s.setCore (s.core q).cellOnly).settleLocks).finishSave id).core q).run = .lost := by
  have hid : (s.core q).cellOnly.id = q := State.core_id s q
  rw [finishSave_core, State.settleLocks_lazy ((State.setCore_lazy ..).trans hlazy), setCore_at hid]
  exact if_pos (beq_iff_eq.mpr hlost)

/-- The stream of a saved core put down in its launch, and what its core has asked for dropped. -/
def keptStream (s : State) (id : Nat) (t : Stream) (c : Core) : State :=
  s.onLaunch id fun l => l.onStream t.rx t.ry (·.keep c (if t.st == .live then .saved else .haltedSaved))

def leftCell (s : State) (q : Nat) : State := { (s.dropAsked q) with prefs := s.prefs.filter (·.core != q) }

theorem leftCell_keeps (s : State) (q : Nat) : (leftCell s q).lazy = s.lazy ∧ (leftCell s q).core q = s.core q := ⟨rfl, rfl⟩

theorem keptStream_keeps (s : State) (id : Nat) (t : Stream) (c : Core) (q : Nat) :
    (keptStream s id t c).lazy = s.lazy ∧ (keptStream s id t c).core q = s.core q := ⟨rfl, rfl⟩

theorem saveStream_eq {s s₂ : State} {q : Nat} {l : Launch} {t : Stream} (hl : s.launchOfCore q = some l)
    (ht : l.stream (s.core q).rx (s.core q).ry = some t) (hmove : saveMove s l t (s.core q) = some .save)
    (hw : writeFrame (savePoison s l t (savedCore s q)) l t (savedCore s q) = some s₂) :
    s.saveStream q = (((leftCell ((parkLocks (keptStream s₂ l.id t (s.core q)) q (s.core q)).drainGathered q) q).setCore
      ((leftCell ((parkLocks (keptStream s₂ l.id t (s.core q)) q (s.core q)).drainGathered q) q).core q).cellOnly).settleLocks).finishSave l.id := by
  unfold State.saveStream
  rw [hl]
  dsimp only
  rw [ht]
  dsimp only
  rw [hmove]
  dsimp only
  rw [hw]
  dsimp only
  unfold keptStream leftCell
  dsimp only

theorem saveStream_lost {s s₂ : State} {q : Nat} {l : Launch} {t : Stream} (hl : s.launchOfCore q = some l)
    (ht : l.stream (s.core q).rx (s.core q).ry = some t) (hmove : saveMove s l t (s.core q) = some .save) (hlocks : (s.core q).locks = [])
    (hw : writeFrame (savePoison s l t (savedCore s q)) l t (savedCore s q) = some s₂) (hlazy : s₂.lazy = true) (hlost : (s₂.core q).run = .lost) :
    ((s.saveStream q).core q).run = .lost := by
  obtain ⟨hkept, hsame⟩ := keptStream_keeps s₂ l.id t (s.core q) q
  obtain ⟨hdrained, hcore⟩ := drainGathered_lazy (hkept.trans hlazy) q
  obtain ⟨hleft, hcell⟩ := leftCell_keeps ((keptStream s₂ l.id t (s.core q)).drainGathered q) q
  rw [saveStream_eq hl ht hmove hw, parkLocks, hlocks, List.foldl_nil]
  refine released_lost (hleft.trans hdrained) ?_
  rw [hcell, hcore, hsame]
  exact hlost

/-- The state of the save's test with the core of the stream lost. -/
def lostSave : State := Tests.launched .preempting .live fun s => Tests.mapped (Tests.onFive (fun c => { c with run := .lost }) s)

/-- The same once the two lines of its tables have been read. -/
def lostSave2 : State := (lostSave.hitDir 0x80000 false).hitDir 0x80020 false

/-- Every packet of memory traffic is on its way. -/
def Travelling (N : List InFlight) : Prop := ∀ f ∈ N, f.stage = .transit

theorem lostSave_walk {N : List InFlight} {k va : Nat} (hN : Travelling N) (hva : va < 2 ^ 21) :
    walk (Tests.quiet lostSave N k) 6 1 va = .ok (Tests.quiet lostSave2 N k) (.ok (0x8000000000004000, leafXlat 1 va 0xF (2 ^ 30))) := by
  have htop : va / 2 ^ (39 - 9 * 0) % 512 = 0 := by omega
  have hnext : va / 2 ^ (39 - 9 * 1) % 512 = 0 := by omega
  have hslice : stcSlice ((Tests.quiet lostSave N k).pad 6) 1 va = stcSlice (lostSave.pad 6) 1 0 := by
    have hlow : va / 2 ^ 21 % 2 ^ 16 = 0 / 2 ^ 21 % 2 ^ 16 := by omega
    have hhigh : va / 2 ^ 37 % 2 ^ 11 = 0 / 2 ^ 37 % 2 ^ 11 := by omega
    unfold stcSlice
    simp only [hlow, hhigh]
    rfl
  have hasid : asidEntry (Tests.quiet lostSave N k) 6 1 (some (stcSlice (lostSave.pad 6) 1 0)) =
      .ok (Tests.quiet lostSave N k) (.ok (0x8000000000004000, 0)) := by rfl
  have htable := Tests.wordAtHome_quiet (s := lostSave) (N := N) (k := k) (pa := 0x4000000) (v := 0x4001001) (d := lostSave.dir[0]) hN rfl
    (by decide +kernel) (by decide +kernel) (by decide +kernel) (by decide +kernel) (by decide +kernel)
  have hleaf := Tests.wordAtHome_quiet (s := lostSave.hitDir 0x80000 false) (N := N) (k := k) (pa := 0x4001000) (v := 0xF)
    (d := (lostSave.hitDir 0x80000 false).dir[1]) hN (by decide +kernel)
    (by decide +kernel) (by decide +kernel) (by decide +kernel) (by decide +kernel) (by decide +kernel)
  have hbytes : lostSave2.mem.readN 0x4001000 8 = 0xF := by decide +kernel
  have hin : Tests.tableOk lostSave 6 0x4000000 = true := by decide +kernel
  have hin' : Tests.tableOk (lostSave.hitDir 0x80000 false) 6 0x4001000 = true := by decide +kernel
  have hlevel := Tests.walkLevels_table (asid := 1) (va := va) (fuel := 3) (svm := svmOf (Tests.quiet lostSave N k) 0x8000000000004000)
    (s := Tests.quiet lostSave N k) (n := 6) (level := 0) (t := 0x4000000) (e := 0x4001001) hin (by rw [htop]; exact htable) rfl rfl rfl rfl
  have hpage := Tests.walkLevels_leaf (asid := 1) (va := va) (fuel := 2) (svm := svmOf (Tests.quiet lostSave N k) 0x8000000000004000)
    (s := Tests.quiet (lostSave.hitDir (0x4000000 / 128) false) N k) (n := 6) (level := 1) (t := 0x4001000) (e := 0xF) (size := 2 ^ 30) hin'
    (by rw [hnext]; exact hleaf) rfl rfl rfl rfl (by rw [hnext]; exact hbytes) (Tests.leaf_format _ va)
  unfold walk
  rw [hslice, hasid, Ans.ok_bind]
  dsimp only
  rw [show (0x8000000000004000 % 2 ^ 36 * 2 ^ 12) = 0x4000000 from rfl, hlevel]
  rw [show (0x4001001 / 2 ^ 12 % 2 ^ 36 * 2 ^ 12) = 0x4001000 from rfl, hpage]
  rfl

theorem lostSave_framePa {N : List InFlight} {k va : Nat} (hN : Travelling N) (hva : va < 2 ^ 21) (hat : Tests.frameAt lostSave2 va = true) :
    framePa (Tests.quiet lostSave N k) Tests.launch9 va = some va := by
  have hpage : (leafXlat 1 va 0xF (2 ^ 30)).pa + va % (leafXlat 1 va 0xF (2 ^ 30)).size = va := by
    show 0 + va % 2 ^ 30 = va
    omega
  have hasid : recField Tests.launch9.record 48 16 = 1 := by decide +kernel
  have hplace : framePlace (Tests.quiet lostSave N k) Tests.launch9 va = .ok (Tests.quiet lostSave2 N k) (some va) := by
    unfold framePlace
    dsimp only
    rw [Nat.mod_eq_of_lt (show va < 2 ^ 48 by omega), hasid, show Tests.launch9.pset = 6 from rfl, lostSave_walk hN hva, Ans.ok_bind]
    dsimp only
    rw [hpage, show State.placeOf (Tests.quiet lostSave2 N k) va = lostSave2.placeOf va from rfl]
    unfold Tests.frameAt at hat
    split at hat
    · next hhbm =>
      rw [hhbm]
      dsimp only
      rw [show (State.pad (Tests.quiet lostSave2 N k) 6).stackMask.getLsbD (stackOf va) = (lostSave2.pad 6).stackMask.getLsbD (stackOf va) from rfl,
        show absentDie (Tests.quiet lostSave2 N k) .localHbm (va / 128) = absentDie lostSave2 .localHbm (va / 128) from rfl, hat]
      rfl
    · exact absurd hat Bool.false_ne_true
  unfold framePa
  rw [hplace]

/-- A write into a save area whose pages are all known only sends packets. -/
theorem frameWrite_sends {s : State} (hlazy : s.lazy = true) {l : Launch} {va n v : Nat}
    (hpa : ∀ N k p, Travelling N → p ∈ splitAt 4096 va n (n / 4096 + 2) 0 → ∃ pa, framePa (Tests.quiet s N k) l p.1 = some pa) {N : List InFlight} {k : Nat}
    (hN : Travelling N) : ∃ N' k', frameWrite (Tests.quiet s N k) l va n v = some (Tests.quiet s N' k') ∧ Travelling N' := by
  unfold frameWrite
  generalize splitAt 4096 va n (n / 4096 + 2) 0 = ps at hpa
  induction ps generalizing N k with
  | nil => exact ⟨N, k, rfl, hN⟩
  | cons p ps ih =>
    obtain ⟨pa, hp⟩ := hpa N k p hN List.mem_cons_self
    obtain ⟨N₁, k₁, hwrite, hN₁⟩ := Tests.dispatcherWrite_quiet (k := k) hlazy hN l.pset pa p.2.1 (v / 256 ^ p.2.2 % 256 ^ p.2.1)
    rw [List.foldl_cons]
    dsimp only
    rw [hp]
    dsimp only
    rw [hwrite]
    exact ih hN₁ fun N k q hN hq => hpa N k q hN (List.mem_cons_of_mem _ hq)

theorem lostSave_frameWrite {va n : Nat} (v : Nat) (hva : va + n ≤ 2 ^ 21)
    (hat : (splitAt 4096 va n (n / 4096 + 2) 0).all (fun p => Tests.frameAt lostSave2 p.1) = true) {N : List InFlight} {k : Nat} (hN : Travelling N) :
    ∃ N' k', frameWrite (Tests.quiet lostSave N k) Tests.launch9 va n v = some (Tests.quiet lostSave N' k') ∧ Travelling N' :=
  frameWrite_sends rfl (fun _ _ p hN hp => ⟨p.1, lostSave_framePa hN (Nat.lt_of_lt_of_le (Tests.splitAt_mem hp).2 hva) (List.all_eq_true.mp hat p hp)⟩) hN

/-- The stream of launch 9. -/
def stream9 : Stream := Tests.launch9.streams[0]

theorem lostSave_frame : ∃ s₁ N k,
    frameWrite (savePoison lostSave Tests.launch9 stream9 (savedCore lostSave 5)) Tests.launch9 (Tests.launch9.frame 0 0) 0x60000
      (lostSave.mem.readN (lostSave.cellPa (5 % 256) 0) 0x60000) = some s₁ ∧
    frameWrite s₁ Tests.launch9 (Tests.launch9.frame 0 0 + 0x60000) 0x40000
      (contextImage (savedCore lostSave 5) (savedCore lostSave 5).pc (savedCore lostSave 5).level) = some (Tests.quiet lostSave N k) := by
  have hclean : savePoison lostSave Tests.launch9 stream9 (savedCore lostSave 5) = Tests.quiet lostSave [] lostSave.stamp := by decide +kernel
  obtain ⟨N, k, hscratch, hN⟩ := lostSave_frameWrite (va := Tests.launch9.frame 0 0) (n := 0x60000) (N := []) (k := lostSave.stamp)
    (lostSave.mem.readN (lostSave.cellPa (5 % 256) 0) 0x60000) (by decide +kernel) (by decide +kernel) (fun _ h => absurd h List.not_mem_nil)
  obtain ⟨N', k', himage, _⟩ := lostSave_frameWrite (va := Tests.launch9.frame 0 0 + 0x60000) (n := 0x40000) (k := k)
    (contextImage (savedCore lostSave 5) (savedCore lostSave 5).pc (savedCore lostSave 5).level) (by decide +kernel) (by decide +kernel) hN
  exact ⟨_, N', k', hclean ▸ hscratch, himage⟩

theorem lostSave_writeFrame {s₁ s₂ : State}
    (h₁ : frameWrite (savePoison lostSave Tests.launch9 stream9 (savedCore lostSave 5)) Tests.launch9 (Tests.launch9.frame 0 0) 0x60000
      (lostSave.mem.readN (lostSave.cellPa (5 % 256) 0) 0x60000) = some s₁)
    (h₂ : frameWrite s₁ Tests.launch9 (Tests.launch9.frame 0 0 + 0x60000) 0x40000
      (contextImage (savedCore lostSave 5) (savedCore lostSave 5).pc (savedCore lostSave 5).level) = some s₂) :
    writeFrame (savePoison lostSave Tests.launch9 stream9 (savedCore lostSave 5)) Tests.launch9 stream9 (savedCore lostSave 5) = some s₂ := by
  have hplain : (recField Tests.launch9.record 179 1 == 1 || !(stream9.st == .live)) = false := by decide +kernel
  have hlive : (stream9.st == .live) = true := by decide +kernel
  have hid : (savedCore lostSave 5).id = 5 := by decide +kernel
  have hrx : stream9.rx = 0 := by decide +kernel
  have hry : stream9.ry = 0 := by decide +kernel
  have hmem : (savePoison lostSave Tests.launch9 stream9 (savedCore lostSave 5)).mem = lostSave.mem := rfl
  have hcell : (savePoison lostSave Tests.launch9 stream9 (savedCore lostSave 5)).cellPa (5 % 256) 0 = lostSave.cellPa (5 % 256) 0 := rfl
  unfold writeFrame
  dsimp only
  rw [hplain, if_neg Bool.false_ne_true, hlive, if_pos rfl, hid, hrx, hry, hmem, hcell, h₁, Option.bind_some]
  exact h₂

/-- Refutes O57: nothing in a save's premises keeps the core from being lost, and a lost core is not idle after it but still lost: core 5 of
`lostSave`, whose stream's frame is mapped and whose save may be made. -/
theorem not_dispatchersMoveLaunches : ¬ Obligations.DispatchersMoveLaunches := by
  unfold Obligations.DispatchersMoveLaunches
  intro h
  obtain ⟨_, _, hlaunch, _⟩ := h lostSave 0 5 9
  have hl : lostSave.launchOf 9 = some Tests.launch9 := by decide +kernel
  have hof : lostSave.launchOfCore 5 = some Tests.launch9 := by decide +kernel
  obtain ⟨_, hsave, _⟩ := hlaunch Tests.launch9 stream9 hl rfl rfl
  obtain ⟨s₁, N, k, hscratch, himage⟩ := lostSave_frame
  obtain ⟨t, m, hexec, _, _, hidle, _⟩ := hsave s₁ (Tests.quiet lostSave N k) rfl rfl rfl hof rfl rfl (by decide +kernel) (by decide +kernel)
    (by decide +kernel) hscratch himage
  have ht : lostSave.saveStream 5 = t := by
    have hstep : exec (.preemptionSave 5) lostSave = .next (lostSave.saveStream 5) := rfl
    rw [hstep] at hexec
    injection hexec
  have hlost := saveStream_lost (s₂ := Tests.quiet lostSave N k) hof (t := stream9) (by decide +kernel) (by decide +kernel) (by decide +kernel)
    (lostSave_writeFrame hscratch himage) rfl rfl
  rw [ht, hidle] at hlost
  exact absurd hlost (by decide)

end Sys2Proof.Machine
end

section
/-! SUPPORT. Kills, removals, contexts, and the instructions of the system (16 R348 to R352, R360 to R362, R376 to R378, 18 R391, 19 R416). What a kill sets going
keeps killed launches killed and the moving core the one it is: a lemma for each function that a kill or an engine's write can reach, each resting on
those of the functions that it calls. -/
namespace Sys2Proof.Machine

set_option Elab.async false

/-- The moving core is core mid, and every launch of number lid has been killed. -/
def Killed (lid mid : Nat) (me : Nat) (ls : List Launch) : Prop := me = mid ∧ ∀ l ∈ ls, l.id = lid → l.st = .killed

/-- The same of a state. -/
abbrev State.Stays (s : State) (lid mid : Nat) : Prop := Killed lid mid s.me.id s.launches

/-- The same of the state of an answer. -/
def Ans.Stays {α : Type} (lid mid : Nat) : Ans α → Prop
  | .ok s _ => s.Stays lid mid
  | .wait s => s.Stays lid mid
  | .trap s _ => s.Stays lid mid

/-- The same of what serving a packet leaves. -/
def Served.Stays (lid mid : Nat) : Served → Prop
  | .used s => s.Stays lid mid
  | .stays s => s.Stays lid mid
  | .becomes s _ => s.Stays lid mid
  | .blocked => True
section
variable {lid mid : Nat}

theorem foldl_stays {α : Type} (f : State → α → State) (hf : ∀ s a, s.Stays lid mid → (f s a).Stays lid mid) (xs : List α) (s : State) (hs : s.Stays
    lid mid) :
    (xs.foldl f s).Stays lid mid := by
  induction xs generalizing s with
  | nil => exact hs
  | cons x xs ih => exact ih _ (hf s x hs)

theorem Ans.bind_stays {α β : Type} {x : Ans α} {f : State → α → Ans β} (hx : x.Stays lid mid) (hf : ∀ s v, s.Stays lid mid → (f s v).Stays lid mid) :
    (x.bind f).Stays lid mid := by
  cases x <;> simp_all [Ans.Stays, Ans.bind]

theorem findSome_stays {α : Type} {f : α → Option State} (hf : ∀ a u, f a = some u → u.Stays lid mid) (xs : List α) : ∀ u, xs.findSome? f = some u →
    u.Stays lid mid := by
  intro u h
  obtain ⟨a, -, ha⟩ := List.exists_of_findSome?_eq_some h
  exact hf a u ha

theorem foldlSome_stays {α : Type} (f : Option State → α → Option State)
    (hf : ∀ o a, (∀ u, o = some u → u.Stays lid mid) → ∀ u, f o a = some u → u.Stays lid mid) (xs : List α) (o : Option State)
    (ho : ∀ u, o = some u → u.Stays lid mid) : ∀ u, xs.foldl f o = some u → u.Stays lid mid := by
  induction xs generalizing o with
  | nil => exact ho
  | cons x xs ih => exact ih _ (hf o x ho)

theorem foldlAns_stays {α β : Type} (f : Ans β → α → Ans β) (hf : ∀ x a, x.Stays lid mid → (f x a).Stays lid mid) (xs : List α) (x : Ans β) (hx :
    x.Stays lid mid) :
    (xs.foldl f x).Stays lid mid := by
  induction xs generalizing x with
  | nil => exact hx
  | cons a xs ih => exact ih _ (hf x a hx)

theorem firstOf_stays {xs : List (Option State)} (h : ∀ o ∈ xs, ∀ u, o = some u → u.Stays lid mid) :
    ∀ u, firstOf xs = some u → u.Stays lid mid := by
  intro u hu
  obtain ⟨o, ho, hou⟩ := List.exists_of_findSome?_eq_some hu
  exact h o ho u hou

theorem State.tock_stays {s : State} (hs : s.Stays lid mid) : (State.tock s).Stays lid mid := by
  grind [State.tock]

theorem State.postLock_stays {s : State} (src : Option Nat) (p : LockPkt) (hs : s.Stays lid mid) : (State.postLock s src p).Stays lid mid := by
  grind [State.postLock]

theorem State.postNi_stays {s : State} (p : NiPkt) (hs : s.Stays lid mid) : (State.postNi s p).Stays lid mid := by
  grind [State.postNi]

theorem State.onLaunch_stays {s : State} (id : Nat) {f : Launch → Launch} (hs : s.Stays lid mid)
    (hf : ∀ l, (f l).id = l.id ∧ (l.st = .killed → (f l).st = .killed)) : (State.onLaunch s id f).Stays lid mid := by
  refine ⟨hs.1, fun l hl hi => ?_⟩
  obtain ⟨m, hm, rfl⟩ := List.mem_map.mp hl
  obtain ⟨hid, hst⟩ := hf m
  by_cases hc : m.id == id
  · rw [if_pos hc] at hi ⊢
    exact hst (hs.2 m hm (hid.symm.trans hi))
  · rw [if_neg hc] at hi ⊢
    exact hs.2 m hm hi

theorem tryEpisode_stays {s : State} (c : Contribution) (hs : s.Stays lid mid) : (tryEpisode s c).Stays lid mid := by
  unfold tryEpisode
  split
  · exact hs
  · dsimp only
    split
    · exact hs
    · refine foldl_stays _ (fun _ _ h => State.postNi_stays _ h) _ _ ?_
      split
      · exact State.onLaunch_stays _ hs fun _ => ⟨rfl, id⟩
      · exact hs

theorem State.setCore_stays {s : State} (c : Core) (hs : s.Stays lid mid) : (State.setCore s c).Stays lid mid := by
  grind [State.setCore]

theorem State.onCore_stays {s : State} (k : Nat) (f : Core → Core) (hs : s.Stays lid mid) : (State.onCore s k f).Stays lid mid := by
  grind [State.onCore, State.setCore_stays]

theorem State.wakeSearch_stays {s : State} (launch : Nat) (rx : Nat) (ry : Nat) (hs : s.Stays lid mid) : (State.wakeSearch s launch rx
    ry).Stays lid mid := by
  grind [State.wakeSearch]

theorem State.onPad_stays {s : State} (n : Nat) (f : Paddock → Paddock) (hs : s.Stays lid mid) : (State.onPad s n f).Stays lid mid := by
  grind [State.onPad]

theorem State.diverge_stays {s : State} (n : Nat) (seg : Nat) (hs : s.Stays lid mid) : (State.diverge s n seg).Stays lid mid := by
  grind [State.diverge, State.onPad_stays]

theorem State.post_stays {s : State} (p : Pkt) (hs : s.Stays lid mid) : (State.post s p).Stays lid mid := by
  grind [State.post]

theorem State.writeEntry_stays {s : State} (p : Paddock) (seg : Nat) (i : Nat) (w0 : Nat) (w1 : Nat) (hs : s.Stays lid mid) : (State.writeEntry
    s p seg i w0 w1).Stays lid mid := by
  grind [State.writeEntry, State.post_stays]

theorem State.appendEntry_stays {s : State} (n : Nat) (seg : Nat) (w0 : Nat) (x : Nat) (run : Nat) (hs : s.Stays lid mid) : (State.appendEntry
    s n seg w0 x run).Stays lid mid := by
  grind [State.appendEntry, State.onPad_stays, State.writeEntry_stays]

theorem State.logPoint_stays {s : State} (n : Nat) (seg : Nat) (w0 : Nat) (x : Nat) (hs : s.Stays lid mid) : ∀ u, State.logPoint s n seg w0 x =
    some u → u.Stays lid mid := by
  grind [State.logPoint, State.writeEntry_stays, State.onPad_stays, State.appendEntry_stays, State.diverge_stays]

theorem State.logArrival_stays {s : State} (k : Nat) (sender : Nat) (slot : Nat) (task : Bool) (hs : s.Stays lid mid) : ∀ u, State.logArrival s
    k sender slot task = some u → u.Stays lid mid := by
  grind [State.logArrival, State.logPoint_stays]

/-- The bytes of code that a write touches are noted, and the core stays the one it is. -/
theorem Core.noteCode_id (c : Core) (m : Memory) (pa n : Nat) : (c.noteCode m pa n).id = c.id := by
  unfold Core.noteCode
  split <;> rfl

theorem State.placeBy_stays {s : State} (w : Option Nat) (pa : Nat) (n : Nat) (v : Nat) (hs : s.Stays lid mid) : (State.placeBy s w pa n
    v).Stays lid mid := by
  have hid := s.me.noteCode_id s.mem pa n
  grind [State.placeBy]

theorem State.place_stays {s : State} (pa : Nat) (n : Nat) (v : Nat) (hs : s.Stays lid mid) : (State.place s pa n v).Stays lid mid := by
  grind [State.place, State.placeBy_stays]

theorem loftWrite_stays {s : State} (c : Core) (pos : Nat) (n : Nat) (v : Nat) (hs : s.Stays lid mid) : (loftWrite s c pos n v).Stays lid mid
    := by
  grind [loftWrite, State.place_stays, foldl_stays]

theorem loftPut_stays {s : State} (k : Nat) (n : Nat) (v : Nat) (r : LoftRec) (hs : s.Stays lid mid) : ∀ u, loftPut s k n v r = some u →
    u.Stays lid mid := by
  grind [loftPut, loftWrite_stays, State.setCore_stays]

theorem loftMoveOne_stays {s : State} (k : Nat) (task : Bool) (hs : s.Stays lid mid) : ∀ u, loftMoveOne s k task = some u → u.Stays lid mid :=
    by
  grind [loftMoveOne, State.setCore_stays]

theorem loftMoves_stays (k : Nat) (n1 : Nat) {s : State} (hs : s.Stays lid mid) : (loftMoves k n1 s).Stays lid mid := by
  induction n1 generalizing s with
  | zero => exact hs
  | succ n ih =>
    unfold loftMoves
    grind [loftMoveOne_stays]

theorem State.niSettle_stays {s : State} (k : Nat) (hs : s.Stays lid mid) : (State.niSettle s k).Stays lid mid := by
  grind [State.niSettle, State.setCore_stays, loftMoves_stays]

theorem enqueueTask_stays {s : State} (k : Nat) (t : Task) (hs : s.Stays lid mid) : ∀ u, enqueueTask s k t = some u → u.Stays lid mid := by
  grind (splits := 25) [enqueueTask, State.setCore_stays, State.niSettle_stays, loftPut_stays, Option.map_eq_some_iff]

theorem deliverTask_stays {s : State} (k : Nat) (launch : Nat) (t : Task) (hs : s.Stays lid mid) : ∀ u, deliverTask s k launch t = some u →
    u.Stays lid mid := by
  intro u h
  unfold deliverTask at h
  have key : ∀ (t : Task) v, ((enqueueTask s k t).bind fun s => s.logArrival k t.sender 0 true) = some v → v.Stays lid mid := by
    intro t v hv
    obtain ⟨w, hw, hv⟩ := Option.bind_eq_some_iff.mp hv
    exact State.logArrival_stays k t.sender 0 true (enqueueTask_stays k t hs w hw) v hv
  grind [State.wakeSearch_stays, State.onCore_stays]

theorem placeMsg_stays {s : State} (k : Nat) (m : Msg) (hs : s.Stays lid mid) : ∀ u, placeMsg s k m = some u → u.Stays lid mid := by
  grind (splits := 25) [placeMsg, State.niSettle_stays, loftPut_stays, State.setCore_stays, Option.map_eq_some_iff]

theorem deliverMsg_stays {s : State} (k : Nat) (m : Msg) (hs : s.Stays lid mid) : ∀ u, deliverMsg s k m = some u → u.Stays lid mid := by
  intro u h
  unfold deliverMsg at h
  split at h
  · cases h
  · exact State.logArrival_stays _ _ _ _ (placeMsg_stays k m hs _ ‹_›) u h

theorem placeAtNi_stays {s : State} (launch : Nat) (t : Stream) (r : Msg ⊕ Task) (hs : s.Stays lid mid) : ∀ u, placeAtNi s launch t r = some u
    → u.Stays lid mid := by
  intro u h
  unfold placeAtNi at h
  split at h
  · split at h
    · cases h
      exact State.onLaunch_stays _ hs fun _ => ⟨rfl, id⟩
    · exact deliverMsg_stays _ _ hs u h
  · exact deliverTask_stays _ _ _ hs u h

theorem State.askHostFor_stays {s : State} (n : Nat) (gen : Nat) (agent : Nat) (asid : Nat) (va : Nat) (acc : Access) (w0 : Nat) (x : Xlat) (hs
    : s.Stays lid mid) : (State.askHostFor s n gen agent asid va acc w0 x).Stays lid mid := by
  grind [State.askHostFor]

theorem hostFrame_stays {s : State} (l : Launch) (w0 : Nat) (x : Xlat) (va : Nat) (hs : s.Stays lid mid) : (hostFrame s l w0 x va).Stays lid mid := by
  grind [hostFrame, State.askHostFor_stays, Ans.Stays]

theorem State.inherit_stays {s : State} (f : InFlight) (hs : s.Stays lid mid) : (State.inherit s f).Stays lid mid := by
  grind [State.inherit]

theorem State.logError_stays {s : State} (n : Nat) (kind : Nat) (core : Nat) (detail : Nat) (pa : Nat) (hs : s.Stays lid mid) : (State.logError
    s n kind core detail pa).Stays lid mid := by
  grind [State.logError, State.onPad_stays, State.tock_stays]

theorem State.logErrorAll_stays {s : State} (which : Paddock → Bool) (kind : Nat) (core : Nat) (detail : Nat) (pa : Nat) (hs : s.Stays lid mid)
    : (State.logErrorAll s which kind core detail pa).Stays lid mid := by
  grind [State.logErrorAll, State.logError_stays, foldl_stays]

theorem State.logOutside_stays {s : State} (die : Nat) (kind : Nat) (core : Nat) (detail : Nat) (pa : Nat) (hs : s.Stays lid mid) :
    (State.logOutside s die kind core detail pa).Stays lid mid := by
  grind [State.logOutside, State.logError_stays, State.logErrorAll_stays]

theorem State.logAt_stays {s : State} (cell : Nat) (kind : Nat) (core : Nat) (detail : Nat) (pa : Nat) (hs : s.Stays lid mid) : (State.logAt s
    cell kind core detail pa).Stays lid mid := by
  grind [State.logAt, State.logError_stays, State.logOutside_stays]

theorem State.logCore_stays {s : State} (k : Nat) (kind : Nat) (detail : Nat) (pa : Nat) (hs : s.Stays lid mid) : (State.logCore s k kind
    detail pa).Stays lid mid := by
  grind [State.logCore, State.logOutside_stays, State.logAt_stays]

theorem State.sinkFault_stays {s : State} (k : Nat) (pa : Nat) (hs : s.Stays lid mid) : (State.sinkFault s k pa).Stays lid mid := by
  grind [State.sinkFault, State.onCore_stays, State.logError_stays]

theorem State.hostStored_stays {s : State} (r : MReq) (v : Nat) (hs : s.Stays lid mid) : (State.hostStored s r v).Stays lid mid := by
  grind [State.hostStored, State.place_stays]

theorem State.refuse_stays {s : State} (r : MReq) (f : LateFault) (hs : s.Stays lid mid) : (State.refuse s r f).Stays lid mid := by
  grind [State.refuse, State.post_stays]

theorem servePort_stays {s : State} (r : MReq) (fresh : Bool) (hs : s.Stays lid mid) : (servePort s r fresh).Stays lid mid := by
  grind [servePort, State.post_stays, State.placeBy_stays]

theorem completeHost_stays {s : State} (r : MReq) (tries : Nat) (ans : HostReply) (hs : s.Stays lid mid) : (completeHost s r tries ans).Stays lid mid
    := by
  unfold completeHost
  grind (splits := 25) [State.post_stays, servePort_stays, State.refuse_stays, State.hostStored_stays]

theorem State.freshen_stays {s : State} (k : Nat) (line : Nat) (hs : s.Stays lid mid) : (State.freshen s k line).Stays lid mid := by
  grind [State.freshen, State.onCore_stays]

theorem State.install_stays {s : State} (k : Nat) (l : CLine) (hs : s.Stays lid mid) : (State.install s k l).Stays lid mid := by
  grind [State.install, State.setCore_stays, State.post_stays]

theorem arriveFill_stays {s : State} (k : Nat) (line : Nat) (d : BitVec 1024) (tracked : Bool) (acq : Bool) (pref : Bool) (fresh : Bool) (f :
    Option LateFault) (slow : Bool) (hs : s.Stays lid mid) : (arriveFill s k line d tracked acq pref fresh f slow).Stays lid mid := by
  grind (splits := 25) [arriveFill, State.setCore_stays, State.install_stays, State.freshen_stays, State.onCore_stays, Option.map_eq_some_iff]

theorem State.logCombine_stays {s : State} (home : Nat) (line : Nat) (counts : List (Nat × Nat)) (hs : s.Stays lid mid) : ∀ u, State.logCombine
    s home line counts = some u → u.Stays lid mid := by
  grind [State.logCombine, State.appendEntry_stays, State.diverge_stays, State.onPad_stays, foldl_stays]

theorem State.onDir_stays {s : State} (line : Nat) (f : DirLine → DirLine) (hs : s.Stays lid mid) : (State.onDir s line f).Stays lid mid := by
  grind [State.onDir]

theorem State.postAll_stays {s : State} (ps : List Pkt) (hs : s.Stays lid mid) : (State.postAll s ps).Stays lid mid := by
  grind [State.postAll, State.post_stays, foldl_stays]

theorem State.recallG_stays {s : State} (line : Nat) (gs : List Nat) (hs : s.Stays lid mid) : ∀ u, State.recallG s line gs = some u → u.Stays lid mid
    := by
  grind (splits := 25) [State.recallG, State.postAll_stays, State.onDir_stays, State.logCombine_stays, Option.map_eq_some_iff]

theorem State.noteCommit_stays {s : State} (line : Nat) (hs : s.Stays lid mid) : (State.noteCommit s line).Stays lid mid := by
  grind [State.noteCommit]

theorem State.combine_stays {s : State} (line : Nat) (gs : List Nat) (hs : s.Stays lid mid) : (State.combine s line gs).Stays lid mid := by
  have hn : (s.noteCommit line).Stays lid mid := State.noteCommit_stays _ hs
  have hid := s.me.noteCode_id s.mem (line * 128) 128
  unfold State.combine
  exact ⟨hid.trans hn.1, hn.2⟩

theorem State.doneLine_stays {s : State} (k : Nat) (line : Nat) (hs : s.Stays lid mid) : (State.doneLine s k line).Stays lid mid := by
  grind [State.doneLine, State.onCore_stays]

theorem State.traceDone_stays {s : State} (k : Nat) (hs : s.Stays lid mid) : (State.traceDone s k).Stays lid mid := by
  grind [State.traceDone, State.onCore_stays]

theorem State.commitRound_stays {s : State} (d : DirLine) (r : Round) (hs : s.Stays lid mid) : (State.commitRound s d r).Stays lid mid := by
  unfold State.commitRound
  extract_lets s₁ s₂ s₃ s₄ s₅
  have h₁ : s₁.Stays lid mid := by grind [State.noteCommit_stays, State.placeBy_stays]
  have h₂ : s₂.Stays lid mid := by grind [State.onCore_stays]
  have h₃ : s₃.Stays lid mid := State.onDir_stays _ _ h₂
  have h₄ : s₄.Stays lid mid := by grind [State.postAll_stays]
  have h₅ : s₅.Stays lid mid := by grind [State.post_stays]
  grind [State.post_stays]

theorem State.ackRound_stays {s : State} (k : Nat) (line : Nat) (drop : Bool) (hs : s.Stays lid mid) : (State.ackRound s k line drop).Stays lid mid :=
    by
  grind [State.ackRound, State.onDir_stays, State.commitRound_stays]

theorem arriveUpdate_stays {s : State} (k : Nat) (line : Nat) (pa : Nat) (n : Nat) (v : Nat) (hs : s.Stays lid mid) : (arriveUpdate s k line pa
    n v).Stays lid mid := by
  grind [arriveUpdate, State.post_stays, State.setCore_stays]

theorem State.toHost_stays {s : State} (r : MReq) (hs : s.Stays lid mid) : (State.toHost s r).Stays lid mid := by
  grind [State.toHost]

theorem serveHost_stays {s : State} (r : MReq) (hs : s.Stays lid mid) : (serveHost s r).Stays lid mid := by
  grind [serveHost, State.refuse_stays, State.post_stays, State.placeBy_stays, State.toHost_stays]

theorem State.postFill_stays {s : State} (k : Nat) (line : Nat) (tracked : Bool) (acq : Bool) (pref : Bool) (hs : s.Stays lid mid) :
    (State.postFill s k line tracked acq pref).Stays lid mid := by
  grind [State.postFill, State.tock_stays, State.post_stays]

theorem State.logSlice_stays {s : State} (home : Nat) (line : Nat) (kind : Nat) (core : Nat) (sub : Nat) (hs : s.Stays lid mid) : ∀ u,
    State.logSlice s home line kind core sub = some u → u.Stays lid mid := by
  grind [State.logSlice, State.logPoint_stays]

theorem logReq_stays {s : State} (d : DirLine) (r : MReq) (asAmo : Bool) (hs : s.Stays lid mid) : ∀ u, logReq s d r asAmo = some u → u.Stays lid mid
    := by
  grind [logReq, State.logSlice_stays]

theorem State.hitDir_stays {s : State} (line : Nat) (ef : Bool) (hs : s.Stays lid mid) : (State.hitDir s line ef).Stays lid mid := by
  grind [State.hitDir]

theorem State.openRound_stays {s : State} (d : DirLine) (pa : Nat) (n : Nat) (v : Nat) (writer : Option Nat) (amo : Option (Nat × Nat)) (hs :
    s.Stays lid mid) : (State.openRound s d pa n v writer amo).Stays lid mid := by
  grind [State.openRound, State.commitRound_stays, State.postAll_stays, State.onDir_stays]

theorem reduceAsAmo_stays {s : State} (d : DirLine) (r : MReq) (k : GatherKind) (off : Nat) (o : Nat) (hs : s.Stays lid mid) : (reduceAsAmo s d
    r k off o).Stays lid mid := by
  grind [reduceAsAmo, logReq_stays, State.openRound_stays, State.hitDir_stays, Served.Stays]

theorem State.spoilAreds_stays {s : State} (w : Option Nat) (pa : Nat) (n : Nat) (hs : s.Stays lid mid) : (State.spoilAreds s w pa n).Stays lid mid :=
    by
  grind [State.spoilAreds]

theorem askWay_stays {s : State} (k : Nat) (v : CLine) (hs : s.Stays lid mid) : (askWay s k v).Stays lid mid := by
  grind [askWay, State.post_stays, Served.Stays]

theorem startGather_stays {s : State} (r : MReq) (gs : List Nat) (k : GatherKind) (off : Nat) (o : Nat) (hs : s.Stays lid mid) : (startGather s
    r gs k off o).Stays lid mid := by
  grind [startGather, askWay_stays, State.onDir_stays, State.spoilAreds_stays, State.install_stays, State.post_stays, Served.Stays]

theorem recallFirst_stays {s : State} (line : Nat) (gs : List Nat) (hs : s.Stays lid mid) : (recallFirst s line gs).Stays lid mid := by
  grind [recallFirst, State.recallG_stays, Served.Stays]

theorem State.startRecall_stays {s : State} (d : DirLine) (hs : s.Stays lid mid) : (State.startRecall s d).Stays lid mid := by
  grind [State.startRecall, State.postAll_stays, State.onDir_stays]

theorem serveNow_stays {s : State} (d : DirLine) (r : MReq) (hs : s.Stays lid mid) : (serveNow s d r).Stays lid mid := by
  grind [serveNow, State.hitDir_stays, State.onDir_stays, State.postFill_stays, State.openRound_stays, State.startRecall_stays, startGather_stays,
    State.post_stays, Served.Stays]

theorem serveN_stays {s : State} (d : DirLine) (r : MReq) (hs : s.Stays lid mid) : (serveN s d r).Stays lid mid := by
  grind [serveN, logReq_stays, serveNow_stays, Served.Stays]

theorem State.dropDir_stays {s : State} (v : DirLine) (hs : s.Stays lid mid) : (State.dropDir s v).Stays lid mid := by
  grind [State.dropDir]

theorem State.addDir_stays {s : State} (d : DirLine) (ef : Bool) (hs : s.Stays lid mid) : (State.addDir s d ef).Stays lid mid := by
  grind [State.addDir]

theorem allocate_stays {s : State} (line : Nat) (ef : Bool) (hs : s.Stays lid mid) : (allocate s line ef).Stays lid mid := by
  grind [allocate, State.addDir_stays, State.dropDir_stays, State.startRecall_stays, Served.Stays]

theorem serveHomeLine_stays {s : State} (r : MReq) (hs : s.Stays lid mid) : (serveHomeLine s r).Stays lid mid := by
  unfold serveHomeLine
  repeat' split
  all_goals
    grind (splits := 20) [Served.Stays, allocate_stays, State.post_stays, serveN_stays, State.onCore_stays, State.spoilAreds_stays,
      State.hitDir_stays,
      recallFirst_stays, startGather_stays, reduceAsAmo_stays, logReq_stays, State.postFill_stays]

theorem serveHome_stays {s : State} (r : MReq) (hs : s.Stays lid mid) : (serveHome s r).Stays lid mid := by
  grind [serveHome, State.hitDir_stays, serveHomeLine_stays, Served.Stays]

theorem serveFromPeer_stays {s : State} (r : MReq) (hs : s.Stays lid mid) : (serveFromPeer s r).Stays lid mid := by
  grind [serveFromPeer, serveHome_stays, Served.Stays]

theorem servePeerControl_stays {s : State} (r : MReq) (hs : s.Stays lid mid) : (servePeerControl s r).Stays lid mid := by
  grind [servePeerControl, State.tock_stays, State.post_stays]

theorem servePeer_stays {s : State} (r : MReq) (hs : s.Stays lid mid) : (servePeer s r).Stays lid mid := by
  grind [servePeer, State.refuse_stays, servePeerControl_stays, State.tock_stays, servePort_stays]

theorem serveReq_stays {s : State} (r : MReq) (hs : s.Stays lid mid) : (serveReq s r).Stays lid mid := by
  grind [serveReq, servePeer_stays, State.refuse_stays, serveFromPeer_stays, serveHome_stays, servePort_stays, serveHost_stays, Served.Stays]

theorem servePkt_stays {s : State} (p : Pkt) (hs : s.Stays lid mid) : (servePkt s p).Stays lid mid := by
  unfold servePkt
  repeat' split
  all_goals grind (splits := 25) [serveReq_stays, arriveUpdate_stays, State.ackRound_stays, State.onCore_stays, State.traceDone_stays,
    State.doneLine_stays,
    State.onDir_stays, State.post_stays, State.setCore_stays, State.combine_stays, State.recallG_stays, arriveFill_stays, completeHost_stays,
      State.sinkFault_stays,
    State.logCore_stays, Served.Stays, Option.map_eq_some_iff]

theorem serveFlight_stays {s : State} (f : InFlight) (hs : s.Stays lid mid) : (serveFlight s f).Stays lid mid := by
  grind [serveFlight, arriveFill_stays, State.tock_stays, servePkt_stays, Served.Stays]

theorem State.holdAt_stays {s : State} (i : Nat) (f : InFlight) (hs : s.Stays lid mid) : ∀ u, State.holdAt s i f = some u → u.Stays lid mid :=
    by
  grind [State.holdAt]

theorem serveAt_stays {s : State} (i : Nat) (hs : s.Stays lid mid) : ∀ u, serveAt s i = some u → u.Stays lid mid := by
  have hf := @serveFlight_stays lid mid
  grind [serveAt, State.holdAt_stays, State.inherit_stays, Served.Stays]

theorem serveAmong_stays {s : State} (is : List Nat) (hs : s.Stays lid mid) : ∀ u, serveAmong s is = some u → u.Stays lid mid := by
  grind (splits := 25) [serveAmong, serveAt_stays, findSome_stays, Option.map_eq_some_iff]

theorem serveFirst_stays {s : State} (hs : s.Stays lid mid) : ∀ u, serveFirst s = some u → u.Stays lid mid := by
  grind [serveFirst, serveAmong_stays]

theorem settleLoop_stays (n1 : Nat) {s : State} (hs : s.Stays lid mid) : (settleLoop n1 s).Stays lid mid := by
  induction n1 generalizing s with
  | zero => exact hs
  | succ n ih =>
    unfold settleLoop
    grind [serveFirst_stays]

theorem State.settle_stays {s : State} (hs : s.Stays lid mid) : (State.settle s).Stays lid mid := by
  grind [State.settle, settleLoop_stays]

theorem State.readyAtHome_stays {s : State} (line : Nat) (hs : s.Stays lid mid) : (State.readyAtHome s line).Stays lid mid := by
  unfold State.readyAtHome
  split
  · exact hs
  · have hu : ∀ u : State, u = (match s.dirOf line with
        | none => (match allocate s line false with | .stays s => s | _ => s)
        | some _ => s) → u.Stays lid mid := by
      rintro u rfl
      have := allocate_stays line false hs
      grind [Served.Stays]
    extract_lets u
    have hw : u.Stays lid mid := hu u rfl
    clear_value u
    split
    · exact hw
    split
    · exact hw
    split
    · exact State.hitDir_stays _ _ hw
    · exact hw
    · exact hw
    · grind [State.hitDir_stays, Ans.Stays]
    · exact hw
    · split
      · exact hw
      · have := State.settle_stays (State.recallG_stays _ _ hw _ ‹_›)
        grind [State.hitDir_stays, Ans.Stays]

theorem State.wordAtHome_stays {s : State} (pa : Nat) (hs : s.Stays lid mid) : (State.wordAtHome s pa).Stays lid mid := by
  grind (splits := 25) [State.wordAtHome, State.readyAtHome_stays, Ans.Stays, Option.bind_eq_some_iff, Ans.bind_stays]

theorem walkLevels_stays (n : Nat) (asid : Nat) (va : Nat) (svm : Bool) (n1 : Nat) (n2 : Nat) (n3 : Nat) {s : State} (hs : s.Stays lid mid) :
    (walkLevels n asid va svm n1 n2 n3 s).Stays lid mid := by
  induction n1 generalizing n2 n3 s with
  | zero => exact hs
  | succ fuel ih =>
    unfold walkLevels
    split
    · exact hs
    · refine Ans.bind_stays (State.wordAtHome_stays _ hs) fun s e hs => ?_
      grind [State.tock_stays, Ans.Stays]

theorem asidEntry_stays {s : State} (n : Nat) (asid : Nat) (slice : Option Nat) (hs : s.Stays lid mid) : (asidEntry s n asid slice).Stays lid mid :=
    by
  unfold asidEntry
  extract_lets p check
  have hcheck : ∀ (s : State) w0 w1, s.Stays lid mid → (check s w0 w1).Stays lid mid := by
    intro s w0 w1 hs
    grind [Ans.Stays]
  split
  · exact hcheck s _ _ hs
  · split
    · exact hs
    split
    · exact hs
    refine Ans.bind_stays (State.wordAtHome_stays _ hs) fun s w0 hs => Ans.bind_stays (State.wordAtHome_stays _ hs) fun s w1 hs =>
      Ans.bind_stays (hcheck s _ _ hs) fun s r hs => ?_
    grind [State.onPad_stays, Ans.Stays]

theorem walk_stays {s : State} (n : Nat) (asid : Nat) (va : Nat) (hs : s.Stays lid mid) : (walk s n asid va).Stays lid mid := by
  grind (splits := 25) [walk, asidEntry_stays, walkLevels_stays, Ans.Stays, Option.bind_eq_some_iff, Ans.bind_stays]

theorem framePlace_stays {s : State} (l : Launch) (va : Nat) (hs : s.Stays lid mid) : (framePlace s l va).Stays lid mid := by
  unfold framePlace
  refine Ans.bind_stays (walk_stays _ _ _ hs) fun t found ht => ?_
  grind [hostFrame_stays, Ans.Stays]

theorem frameWait_stays {s : State} (l : Launch) (va : Nat) (n : Nat) (hs : s.Stays lid mid) : ∀ u, frameWait s l va n = some u → u.Stays lid mid :=
    by
  have hf := @framePlace_stays lid mid
  grind [frameWait, Ans.Stays, findSome_stays]

theorem State.request_stays {s : State} (r : MReq) (hs : s.Stays lid mid) : (State.request s r).Stays lid mid := by
  grind [State.request, State.settle_stays, State.post_stays]

theorem State.engineWriteAs_stays (agent : Nat) {s : State} (pa : Nat) (n : Nat) (v : Nat) (hs : s.Stays lid mid) : (State.engineWriteAs agent
    s pa n v).Stays lid mid := by
  grind [State.engineWriteAs, State.request_stays, foldl_stays]

theorem State.dispatcherWrite_stays {s : State} (n : Nat) (pa : Nat) (len : Nat) (v : Nat) (hs : s.Stays lid mid) : (State.dispatcherWrite s n
    pa len v).Stays lid mid := by
  grind [State.dispatcherWrite, State.engineWriteAs_stays]

theorem frameWrite_stays {s : State} (l : Launch) (va : Nat) (n : Nat) (v : Nat) (hs : s.Stays lid mid) : ∀ u, frameWrite s l va n v = some u →
    u.Stays lid mid := by
  unfold frameWrite
  refine foldlSome_stays _ (fun o p ho => ?_) _ _ (by simpa using hs)
  grind [State.dispatcherWrite_stays]

theorem lateAppend_stays {s : State} (l : Launch) (t : Stream) (r : Msg ⊕ Task) (hs : s.Stays lid mid) : ∀ u, lateAppend s l t r = some u →
    u.Stays lid mid := by
  intro u h
  unfold lateAppend at h
  dsimp only at h
  split at h
  · cases h
  · split at h
    · next v hv =>
      cases h
      exact State.onLaunch_stays _ (frameWrite_stays _ _ _ _ hs v hv) fun _ => ⟨rfl, id⟩
    · split at h
      · cases h
      · cases h
        exact State.onLaunch_stays _ hs fun _ => ⟨rfl, id⟩

theorem arriveAt_stays {s : State} (launch : Nat) (rx : Nat) (ry : Nat) (r : Msg ⊕ Task) (hs : s.Stays lid mid) : ∀ u, arriveAt s launch rx ry
    r = some u → u.Stays lid mid := by
  have hd : s.Stays lid mid → (s.onLaunch launch fun l => { l with dropped := min (l.dropped + 1) 0xFFFF }).Stays lid mid :=
    fun h => State.onLaunch_stays _ h fun _ => ⟨rfl, id⟩
  grind [arriveAt, deliverMsg_stays, lateAppend_stays, placeAtNi_stays]

theorem serveStealReply_stays {s : State} (launch : Nat) (rx : Nat) (ry : Nat) (g : Group) (k : Nat) (t : Option Task) (hs : s.Stays lid mid) :
    ∀ u, serveStealReply s launch rx ry g k t = some u → u.Stays lid mid := by
  intro u h
  unfold serveStealReply at h
  repeat' split at h
  all_goals grind (splits := 25) [State.onCore_stays, arriveAt_stays, Option.map_eq_some_iff]

theorem State.logDispatch_stays {s : State} (n : Nat) (kind : Nat) (who : Nat) (x : Nat) (hs : s.Stays lid mid) : ∀ u, State.logDispatch s n
    kind who x = some u → u.Stays lid mid := by
  grind [State.logDispatch, State.logPoint_stays]

theorem takeTail_stays {s : State} (k : Nat) (hs : s.Stays lid mid) : ∀ u, takeTail s k = some u → u.1.Stays lid mid := by
  grind [takeTail, State.niSettle_stays, State.setCore_stays]

theorem serveSteal_stays {s : State} (launch : Nat) (rx : Nat) (ry : Nat) (g : Group) (k : Nat) (hs : s.Stays lid mid) : ∀ u, serveSteal s
    launch rx ry g k = some u → u.Stays lid mid := by
  intro u h
  unfold serveSteal at h
  have := @takeTail_stays lid mid s
  grind [State.postNi_stays, State.logDispatch_stays, Option.map_eq_some_iff, Option.bind_eq_some_iff]

theorem State.warmLate_stays {s : State} (launch : Nat) (rx : Nat) (ry : Nat) (r : Msg ⊕ Task) (refused : Bool) (hs : s.Stays lid mid) : ∀ u,
    State.warmLate s launch rx ry r refused = some u → u.Stays lid mid := by
  grind [State.warmLate, frameWait_stays]

theorem State.uncount_stays {s : State} (c : Option Nat) (hs : s.Stays lid mid) : (State.uncount s c).Stays lid mid := by
  unfold State.uncount
  grind (splits := 25) [State.onCore_stays]

theorem State.serveNi_stays {s : State} (i : Nat) (hs : s.Stays lid mid) : ∀ u, State.serveNi s i = some u → u.Stays lid mid := by
  intro u h
  unfold State.serveNi at h
  split at h
  · cases h
  extract_lets v before waits at h
  have hv : v.Stays lid mid := hs
  clear_value v
  have hm : ∀ (launch rx ry : Nat) (r : Sum Msg Task) (refused : Bool) (g : State → State),
      (∀ s, (g s).me = s.me ∧ (g s).launches = s.launches) → ∀ w, (s.warmLate launch rx ry r refused).map g = some w → w.Stays lid mid := by
    intro launch rx ry r refused g hg w hw
    obtain ⟨x, hx, rfl⟩ := Option.map_eq_some_iff.mp hw
    have hx := State.warmLate_stays _ _ _ _ _ hs x hx
    grind
  split at h
  · cases h; exact hv
  split at h
  · grind [arriveAt_stays, State.uncount_stays]
  · grind [arriveAt_stays, State.uncount_stays]
  · grind [serveSteal_stays]
  · grind [serveStealReply_stays]
  · split at h
    · cases h
    · split at h
      · cases h
        exact State.uncount_stays _ hv
      · split at h
        · cases h
          exact State.uncount_stays _ (State.onLaunch_stays _ hv fun _ => ⟨rfl, id⟩)
        · cases h
          exact State.uncount_stays _ (State.wakeSearch_stays _ _ _ (State.onCore_stays _ _ hv))
  · split at h
    · cases h
    · cases h; exact State.uncount_stays _ (tryEpisode_stays _ hv)

theorem serveNiFirst_stays {s : State} (n1 : Nat) (n2 : Nat) (hs : s.Stays lid mid) : ∀ u, serveNiFirst s n1 n2 = some u → u.Stays lid mid :=
    by
  induction n1 generalizing n2 with
  | zero => intro u h; cases h
  | succ n ih =>
    intro u h
    unfold serveNiFirst at h
    grind [State.serveNi_stays]

theorem settleNiLoop_stays (n1 : Nat) {s : State} (hs : s.Stays lid mid) : (settleNiLoop n1 s).Stays lid mid := by
  induction n1 generalizing s with
  | zero => exact hs
  | succ n ih =>
    unfold settleNiLoop
    grind [serveNiFirst_stays]

theorem State.settleNi_stays {s : State} (hs : s.Stays lid mid) : (State.settleNi s).Stays lid mid := by
  grind [State.settleNi, settleNiLoop_stays]

theorem State.sendNi_stays {s : State} (p : NiPkt) (hs : s.Stays lid mid) : (State.sendNi s p).Stays lid mid := by
  grind [State.sendNi, State.settleNi_stays, State.postNi_stays]

theorem State.tell_stays {s : State} (k : Nat) (m : Msg) (hs : s.Stays lid mid) : (State.tell s k m).Stays lid mid := by
  grind [State.tell, State.sendNi_stays]

theorem State.withdrawEntry_stays {s : State} (k : Nat) (line : Nat) (status : Option (Nat × Nat)) (hs : s.Stays lid mid) :
    (State.withdrawEntry s k line status).Stays lid mid := by
  grind [State.withdrawEntry, State.postLock_stays, State.onCore_stays, State.tell_stays]

theorem serveProbe_stays {s : State} (origin : Waiter) (start : Nat) (line : Nat) (path : List (Nat × Nat)) (hs : s.Stays lid mid) :
    (serveProbe s origin start line path).Stays lid mid := by
  grind [serveProbe, State.onPad_stays, State.withdrawEntry_stays, State.postLock_stays, foldl_stays]

theorem State.unlockLine_stays {s : State} (line : Nat) (hs : s.Stays lid mid) : (State.unlockLine s line).Stays lid mid := by
  grind [State.unlockLine, State.onDir_stays]

theorem State.setK_stays {s : State} (line : Nat) (h : Option Waiter) (t : Option Waiter) (sv : Bool) (nx : Option Waiter) (p : Bool) (hs :
    s.Stays lid mid) : (State.setK s line h t sv nx p).Stays lid mid := by
  grind [State.setK, State.onDir_stays]

theorem State.endQueue_stays {s : State} (line : Nat) (poisoned : Bool) (hs : s.Stays lid mid) : (State.endQueue s line poisoned).Stays lid mid
    := by
  grind [State.endQueue, State.setK_stays, State.unlockLine_stays]

theorem State.clearWithdrawn_stays {s : State} (line : Nat) (w : Waiter) (hs : s.Stays lid mid) : (State.clearWithdrawn s line w).Stays lid mid
    := by
  grind [State.clearWithdrawn]

theorem State.grantOn_stays {s : State} (line : Nat) (to_ : Waiter) (tail : Option Waiter) (poisoned : Bool) (hs : s.Stays lid mid) :
    (State.grantOn s line to_ tail poisoned).Stays lid mid := by
  grind [State.grantOn, State.postLock_stays, State.setK_stays]

theorem asHolder_stays {s : State} (w : Waiter) (line : Nat) (f : Option Waiter → Bool → Option Waiter → Bool → Served) (hf : ∀ a b c d, (f a b
    c d).Stays lid mid) (hs : s.Stays lid mid) : (asHolder s w line f).Stays lid mid := by
  grind [asHolder, Served.Stays]

theorem linkHome_stays {s : State} (w : Waiter) (line : Nat) (next : Waiter) (hs : s.Stays lid mid) : (linkHome s w line next).Stays lid mid :=
    by
  grind [linkHome, State.onDir_stays, State.postLock_stays]

theorem handOn_stays {s : State} (from_ : Waiter) (line : Nat) (next : Waiter) (brand : BitVec 960) (hs : s.Stays lid mid) : (handOn s from_
    line next brand).Stays lid mid := by
  grind [handOn, State.postLock_stays]

theorem serveLock_stays {s : State} (w : Waiter) (line : Nat) (try_ : Bool) (hs : s.Stays lid mid) : (serveLock s w line try_).Stays lid mid := by
  unfold serveLock
  repeat' split
  all_goals
    grind (splits := 20) [Served.Stays, allocate_stays, recallFirst_stays, State.startRecall_stays, State.logSlice_stays, State.hitDir_stays,
      State.setK_stays,
      State.postLock_stays, linkHome_stays]

theorem serveLockPkt_stays {s : State} (p : LockPkt) (hs : s.Stays lid mid) : (serveLockPkt s p).Stays lid mid := by
  have h1 := @serveLock_stays lid mid
  have h2 := @asHolder_stays lid mid
  unfold serveLockPkt
  repeat' split
  all_goals grind (splits := 25) [State.onCore_stays, handOn_stays, State.postLock_stays, linkHome_stays, State.install_stays, State.tell_stays,
    State.setK_stays, State.unlockLine_stays, State.grantOn_stays, State.clearWithdrawn_stays, State.endQueue_stays, serveProbe_stays, Served.Stays,
    Option.map_eq_some_iff]

theorem State.holdLock_stays {s : State} (i : Nat) (f : LockFlight) (hs : s.Stays lid mid) : ∀ u, State.holdLock s i f = some u → u.Stays lid mid :=
    by
  grind [State.holdLock]

theorem State.serveLockAt_stays {s : State} (i : Nat) (hs : s.Stays lid mid) : ∀ u, State.serveLockAt s i = some u → u.Stays lid mid := by
  have hf := @serveLockPkt_stays lid mid
  grind [State.serveLockAt, State.holdLock_stays, Served.Stays]

theorem serveLockFirst_stays {s : State} (n1 : Nat) (n2 : Nat) (hs : s.Stays lid mid) : ∀ u, serveLockFirst s n1 n2 = some u → u.Stays lid mid
    := by
  induction n1 generalizing n2 with
  | zero => intro u h; cases h
  | succ n ih =>
    intro u h
    unfold serveLockFirst at h
    grind [State.serveLockAt_stays]

theorem serveByClass_stays {s : State} (hs : s.Stays lid mid) : ∀ u, serveByClass s = some u → u.Stays lid mid := by
  grind [serveByClass, serveAmong_stays, serveLockFirst_stays]

theorem settleLockLoop_stays (n1 : Nat) {s : State} (hs : s.Stays lid mid) : (settleLockLoop n1 s).Stays lid mid := by
  induction n1 generalizing s with
  | zero => exact hs
  | succ n ih =>
    unfold settleLockLoop
    grind [serveByClass_stays]

theorem State.settleLocks_stays {s : State} (hs : s.Stays lid mid) : (State.settleLocks s).Stays lid mid := by
  grind [State.settleLocks, settleLockLoop_stays]

theorem State.forceRelease_stays {s : State} (k : Nat) (e : LockEntry) (hs : s.Stays lid mid) : (State.forceRelease s k e).Stays lid mid := by
  grind [State.forceRelease, State.settleLocks_stays, State.postLock_stays]

theorem State.dropLocks_stays {s : State} (k : Nat) (answers : Bool) (hs : s.Stays lid mid) : (State.dropLocks s k answers).Stays lid mid := by
  grind [State.dropLocks, State.onCore_stays, State.settleLocks_stays, State.settle_stays, State.withdrawEntry_stays, State.postLock_stays,
    foldl_stays]

theorem killStream_stays {s : State} (t : Stream) (hs : s.Stays lid mid) : (killStream s t).Stays lid mid := by
  grind [killStream, State.onCore_stays, State.dropLocks_stays, State.forceRelease_stays, foldl_stays]

theorem State.releaseCores_stays {s : State} (l : Launch) (hs : s.Stays lid mid) : (State.releaseCores s l).Stays lid mid := by
  grind [State.releaseCores, State.setCore_stays, foldl_stays]

theorem State.cellsLeft_stays {s : State} (id : Nat) (hs : s.Stays lid mid) : (State.cellsLeft s id).Stays lid mid := by
  refine ⟨hs.1, fun l hl hi => ?_⟩
  obtain ⟨m, hm, rfl⟩ := List.mem_map.mp hl
  by_cases hc : m.awaits.contains id
  · rw [if_pos hc] at hi ⊢
    exact hs.2 m hm hi
  · rw [if_neg hc] at hi ⊢
    exact hs.2 m hm hi

theorem State.onQueue_stays {s : State} (n : Nat) (q : Nat) (f : Queue → Queue) (hs : s.Stays lid mid) : (State.onQueue s n q f).Stays lid mid
    := by
  grind [State.onQueue, State.onPad_stays]

theorem State.endWord_stays {s : State} (n : Nat) (q : Nat) (status : Nat) (mismatch : Bool) (dropped : Nat) (seq : BitVec 32) (hs : s.Stays lid mid)
    : (State.endWord s n q status mismatch dropped seq).Stays lid mid := by
  grind [State.endWord, State.dispatcherWrite_stays, State.onQueue_stays]

theorem State.finishLaunch_stays {s : State} (l : Launch) (status : Nat) (hs : s.Stays lid mid) : (State.finishLaunch s l status).Stays lid mid
    := by
  have hl : ({ s with launches := s.launches.filter (·.id != l.id) } : State).Stays lid mid :=
    ⟨hs.1, fun m hm => hs.2 m (List.mem_filter.mp hm).1⟩
  exact State.endWord_stays _ _ _ _ _ _ (State.cellsLeft_stays _ (State.onPad_stays _ _ hl))

theorem State.endLaunch_stays {s : State} (id : Nat) (hs : s.Stays lid mid) : (State.endLaunch s id).Stays lid mid := by
  grind [State.endLaunch, State.finishLaunch_stays, State.releaseCores_stays, State.onPad_stays]

theorem State.poisonNext_stays {s : State} (agent : Nat) (words : List Nat) (hs : s.Stays lid mid) : (State.poisonNext s agent words).Stays lid mid :=
    by
  grind [State.poisonNext]

theorem State.dumpCount_stays {s : State} (n : Nat) (written : Nat) (skipped : Nat) (outcome : Nat) (hs : s.Stays lid mid) : (State.dumpCount s
    n written skipped outcome).Stays lid mid := by
  grind [State.dumpCount, State.onPad_stays]

theorem State.dumpStep_stays {s : State} (n : Nat) (hs : s.Stays lid mid) : ∀ u, State.dumpStep s n = some u → u.Stays lid mid := by
  grind [State.dumpStep, State.dumpCount_stays, State.dispatcherWrite_stays, State.poisonNext_stays]

theorem State.settleDumps_stays {s : State} (n : Nat) (hs : s.Stays lid mid) : (State.settleDumps s n).Stays lid mid := by
  unfold State.settleDumps
  have hn : ∀ u : State, u.Stays lid mid → ((u.dumpStep n).getD u).Stays lid mid := by
    intro u hu
    cases h : u.dumpStep n with
    | none => exact hu
    | some v => exact State.dumpStep_stays n hu v h
  grind

theorem State.dump_stays {s : State} (l : Launch) (t : Stream) (reason : Nat) (hs : s.Stays lid mid) : (State.dump s l t reason).Stays lid mid
    := by
  grind [State.dump, State.dumpCount_stays, State.onPad_stays, State.settleDumps_stays]

theorem State.forgetFills_stays {s : State} (k : Nat) (hs : s.Stays lid mid) : (State.forgetFills s k).Stays lid mid := by
  grind [State.forgetFills]

theorem State.dropAsked_stays {s : State} (k : Nat) (hs : s.Stays lid mid) : (State.dropAsked s k).Stays lid mid := by
  grind [State.dropAsked, State.forgetFills_stays]

theorem State.emit_stays {s : State} (k : Nat) (bs : List Byte) (hs : s.Stays lid mid) : (State.emit s k bs).Stays lid mid := by
  grind [State.emit, State.setCore_stays]

theorem State.emitRetire_stays {s : State} (k : Nat) (hs : s.Stays lid mid) : (State.emitRetire s k).Stays lid mid := by
  grind [State.emitRetire, State.onCore_stays, State.emit_stays]

theorem State.killLaunch_stays {s : State} (id : Nat) (saveFault : Bool) (hs : s.Stays lid mid) : (State.killLaunch s id saveFault).Stays lid mid :=
    by
  unfold State.killLaunch
  split
  · exact hs
  split
  · exact hs
  refine State.endLaunch_stays _ (State.onPad_stays _ _ (foldl_stays _ (fun _ _ h => killStream_stays _ h) _ _ ?_))
  exact State.onLaunch_stays _ hs fun _ => ⟨rfl, fun _ => rfl⟩

theorem State.dumpWhen_stays {s : State} (l : Launch) (t : Stream) (reason : Nat) (hs : s.Stays lid mid) : (State.dumpWhen s l t reason).Stays lid mid
    := by
  unfold State.dumpWhen
  split
  · exact State.onLaunch_stays _ hs fun _ => ⟨rfl, id⟩
  · exact State.dump_stays _ _ _ hs

theorem State.squashOf_stays {s : State} (k : Nat) (hs : s.Stays lid mid) : (State.squashOf s k).Stays lid mid := by
  grind [State.squashOf, State.onCore_stays, State.dropAsked_stays]end

/-! ### A launch that has been killed (R348, R391) -/

theorem State.Stays.killed {s : State} {lid mid : Nat} (h : s.Stays lid mid) {m : Launch} (hm : s.launchOf lid = some m) : m.st = .killed :=
  h.2 m (List.mem_of_find?_eq_some hm) (launchOf_id hm)

/-- A launch marked killed: every launch of its number is. -/
theorem State.stays_onLaunch (s : State) (lid : Nat) {f : Launch → Launch} (hf : ∀ l, (f l).id = l.id ∧ (f l).st = .killed) :
    (s.onLaunch lid f).Stays lid s.me.id := by
  refine ⟨rfl, fun l hl hi => ?_⟩
  obtain ⟨m, hm, rfl⟩ := List.mem_map.mp hl
  by_cases hc : m.id == lid
  · rw [if_pos hc]
    exact (hf m).2
  · rw [if_neg hc] at hi
    exact absurd (beq_iff_eq.mpr hi) hc

/-- A launch that KILL names is killed or gone. -/
theorem killLaunch_killed {s : State} {lid : Nat} {saveFault : Bool} {m : Launch} (hm : (s.killLaunch lid saveFault).launchOf lid = some m) :
    m.st = .killed := by
  unfold State.killLaunch at hm
  split at hm
  · next h =>
    rw [h] at hm
    cases hm
  · next l h =>
    by_cases hk : l.st == .killed
    · rw [if_pos hk, h] at hm
      cases hm
      exact beq_iff_eq.mp hk
    · rw [if_neg hk] at hm
      refine State.Stays.killed (mid := s.me.id) ?_ hm
      refine State.endLaunch_stays _ (State.onPad_stays _ _ (foldl_stays _ (fun _ _ h => killStream_stays _ h) _ _ ?_))
      exact State.stays_onLaunch s lid fun _ => ⟨rfl, rfl⟩

/-- Whatever befell a core's stream, its launch is killed or gone. -/
theorem killCore_killed {s : State} {k reason : Nat} {l m : Launch} (hl : s.launchOfCore k = some l)
    (hm : (s.killCore k reason).launchOf l.id = some m) : m.st = .killed := by
  unfold State.killCore at hm
  rw [hl] at hm
  exact killLaunch_killed hm

/-- A trap inside a trap kills the launch of its core (R348). -/
theorem takeTrap_kills {s : State} {k : Trap} {epc : Word} {l m : Launch} (hin : s.me.inTrap = true) (hyard : s.me.isYard = false)
    (hl : s.launchOfCore s.me.id = some l) (hm : (s.takeTrap k epc false).launchOf l.id = some m) : m.st = .killed := by
  have hdouble : s.takeTrap k epc false = (s.onMe fun c => { c.squash with res := .trapped }).killCore s.me.id (if k.cause == 0x11 then 2 else 1) := by
    rw [State.takeTrap, hin, State.doubleTrap, hyard]
    rfl
  rw [hdouble] at hm
  refine killCore_killed ?_ hm
  rw [launchOfCore_me] at hl
  exact (launchOfCore_me (s.onMe fun c => { c.squash with res := .trapped })).trans hl

/-- Settles O46: a trap that is taken saves and enters, and one inside a trap marks the launch killed, which nothing of the kill undoes. -/
theorem takingATrapSavesAndEnters : Obligations.TakingATrapSavesAndEnters := fun _ k epc _ =>
  ⟨fun h => State.takeTrap_trapped h k epc, fun hin hyard _ hl _ hm => takeTrap_kills hin hyard hl hm⟩

/-! ### Removals (R360, R361) -/

theorem needSupervisor_ok {s : State} (k : State → Result) (h : s.me.level ≠ 0) : needSupervisor s k = k s := by
  rw [needSupervisor, if_neg fun e => h (beq_iff_eq.mp e)]

/-- What an XLATI does once its removals are on their way or over. -/
def removalsEnd (s : State) : Result := finish (if removalsOver s then .ok s () else .wait s)

theorem xlatiWith_sent {s : State} {p : Fin 8} {sel : XSel} (hl : s.me.level ≠ 0) (hc : Calm s) (hp : s.me.pend ≠ .none) :
    xlatiWith p sel s = removalsEnd s := by
  rw [xlatiWith, needSupervisor_ok _ hl]
  dsimp only
  rw [hc.settleCtl]
  split
  · next h => exact absurd h hp
  · rfl

theorem xlatiWith_first {s : State} {p : Fin 8} {sel : XSel} (hl : s.me.level ≠ 0) (hc : Calm s) (hp : s.me.pend = .none)
    (hs : s.me.storesDone = true) : xlatiWith p sel s = removalsEnd (s.sendRemovals (xlatiSets s p) sel).settleCtl := by
  rw [xlatiWith, needSupervisor_ok _ hl]
  dsimp only
  rw [hp]
  dsimp only
  rw [hc.settle, hs]
  rfl

theorem removalsEnd_over {s : State} (h : removalsOver s = true) : ∃ t, removalsEnd s = .next t ∧ Retired s t ∧ Frame {} s t := by
  rw [removalsEnd, if_pos h]
  exact finish_ok s

theorem xlatiSets_own {s : State} {p : Fin 8} (hl : s.me.level = 1) (hp : s.me.paddock < 7) : xlatiSets s p = [s.me.paddock] := by
  rw [xlatiSets, hl, if_neg (by decide), if_pos hp]

/-- The removal that an XLATI of the moving core sends, by its target. -/
def removalTo (s : State) (sel : XSel) (target : Nat) : CtlReq := .removal s.me.id s.me.paddock sel target

theorem sendRemovals_own (s : State) (sel : XSel) : s.sendRemovals [s.me.paddock] sel = { s with
    ctl := s.ctl ++ (s.allCores.filter fun c => c.id < 512 && [s.me.paddock].contains c.paddock).map (fun c => .removal s.me.id c.paddock sel c.id) ++
      [removalTo s sel 1027]
    me := { s.me with pend := .sent xlatiMark } } := rfl

theorem sendRemovals_writes (s : State) (sets : List Nat) (sel : XSel) : Writes {} s (s.sendRemovals sets sel) :=
  ⟨by constructor <;> intros <;> simp [State.sendRemovals, Core.reg, Core.brhits], rfl, rfl, rfl, rfl, rfl⟩

/-- Removals on their way: the slices of the set are sent one. -/
theorem removal_sent_slices (s : State) (sel : XSel) : removalTo s sel 1027 ∈ (s.sendRemovals [s.me.paddock] sel).ctl := by
  rw [sendRemovals_own]
  exact List.mem_append_right _ (List.mem_singleton.mpr rfl)

/-- And every core of the set. -/
theorem removal_sent_core {s : State} (sel : XSel) {c : Core} (hc : c ∈ s.allCores) (hid : c.id < 512) (hp : c.paddock = s.me.paddock) :
    removalTo s sel c.id ∈ (s.sendRemovals [s.me.paddock] sel).ctl := by
  have hown : (decide (c.id < 512) && [s.me.paddock].contains c.paddock) = true := by
    rw [hp, decide_eq_true hid, List.contains_cons, beq_self_eq_true]
    rfl
  have hfilter : c ∈ s.allCores.filter fun c => c.id < 512 && [s.me.paddock].contains c.paddock := List.mem_filter.mpr ⟨hc, hown⟩
  have hmem := List.mem_map_of_mem (f := fun c : Core => CtlReq.removal s.me.id c.paddock sel c.id) hfilter
  rw [hp] at hmem
  rw [sendRemovals_own]
  exact List.mem_append_left _ (List.mem_append_right _ hmem)

theorem removalsOver_sent (s : State) (sel : XSel) : removalsOver (s.sendRemovals [s.me.paddock] sel) = false := by
  rw [removalsOver, Bool.not_eq_false', List.any_eq_true]
  exact ⟨_, removal_sent_slices s sel, beq_self_eq_true _⟩

/-- XLATI while requests travel: the removals are sent, and it waits. -/
theorem xlatiAll_waits {s : State} {n : Fin 8} (hlazy : s.lazy = true) (hp : s.me.pend = .none) (hs : s.me.storesDone = true) (hl : s.me.level = 1)
    (hpad : s.me.paddock < 7) : ∃ t, exec (.xlatiAll n) s = .next t ∧ Waits s t ∧ Frame {} s t ∧ removalTo s .all 1027 ∈ t.ctl ∧
      ∀ c ∈ s.allCores, c.id < 512 → c.paddock = s.me.paddock → removalTo s .all c.id ∈ t.ctl := by
  have hlazy' : (s.sendRemovals [s.me.paddock] .all).lazy = true := hlazy
  have hex : exec (.xlatiAll n) s = finish (.wait (s.sendRemovals [s.me.paddock] .all)) := by
    show xlatiWith n .all s = _
    rw [xlatiWith_first (by rw [hl]; decide) (.inl hlazy) hp hs, xlatiSets_own hl hpad, State.settleCtl_lazy hlazy', removalsEnd, removalsOver_sent, if_neg
      Bool.false_ne_true]
  obtain ⟨hw, hf⟩ := (sendRemovals_writes s [s.me.paddock] .all).does.waits rfl
  exact ⟨_, hex.trans rfl, hw, hf, removal_sent_slices s .all, fun c hc hid hp => removal_sent_core .all hc hid hp⟩

/-- The three forms of XLATI, all of whose removals have been acknowledged. -/
theorem xlati_completes {s : State} (ga gb : GReg) (n : Fin 8) (hl : s.me.level ≠ 0) (hc : Calm s) (hp : s.me.pend ≠ .none) (ho : removalsOver s = true) :
    (∃ t, exec (.xlatiRange ga gb n) s = .next t ∧ Retired s t ∧ Frame {} s t) ∧ (∃ t, exec (.xlatiAsid ga n) s = .next t ∧ Retired s t ∧ Frame {} s t) ∧
      (∃ t, exec (.xlatiAll n) s = .next t ∧ Retired s t ∧ Frame {} s t) := by
  have hall (sel : XSel) : ∃ t, xlatiWith n sel s = .next t ∧ Retired s t ∧ Frame {} s t := by
    rw [xlatiWith_sent hl hc hp]
    exact removalsEnd_over ho
  exact ⟨hall _, hall _, hall _⟩

/-! ### XLATP (R362) -/

theorem xlatp_spec {s s₁ : State} {gd ga : GReg} {user : Bool} {acc : Access} {r : Except Nat Phys} (hl : s.me.level ≠ 0)
    (h : probeAddr s (s.me.reg ga) acc user s.me.id = .ok s₁ r) :
    ∃ t, exec (.xlatp gd ga user acc) s = .next t ∧ t.me.reg gd = held gd (probeWord r) ∧ Retired s₁ t ∧ Frame { g := [gd] } s₁ t := by
  have hex : exec (.xlatp gd ga user acc) s = .next (s₁.setG gd (probeWord r)).retire := by
    show execXlatp gd ga user acc s = _
    rw [execXlatp, needSupervisor_ok _ hl, show s.g ga = s.me.reg ga from rfl, h]
    rfl
  exact ⟨_, hex, setG_retire_reg s₁ gd (probeWord r), ((Writes.refl { g := [gd] } s₁).setG (by simp) _).retires⟩

/-! ### Contexts (R376 to R378) -/

theorem startLofting_writes (s : State) : Writes {} s s.startLofting :=
  (Writes.refl {} s).onMe (by constructor <;> intros <;> simp [Core.reg, Core.brhits]) rfl rfl rfl

theorem Calm.startLofting {s : State} (h : Calm s) : Calm s.startLofting := h

theorem enginesDone_startLofting (s : State) : enginesDone s.startLofting s.me.id = enginesDone s s.me.id := by
  have hcore : s.startLofting.core s.me.id = { s.me with lofting := true } := s.startLofting.core_me
  unfold enginesDone
  rw [hcore, State.core_me]
  rfl

theorem contextImage_startLofting (s : State) (pc : Word) (lvl : Nat) : contextImage s.startLofting.me pc lvl = contextImage s.me pc lvl := by
  have h : contextPieces s.startLofting.me pc lvl = contextPieces s.me pc lvl := rfl
  rw [contextImage, contextImage, h]

/-- A stream about to save or load a context has everything older performed (R180, R197). -/
structure OlderDone (s : State) : Prop where
  calm : Calm s
  stores : s.me.storesDone = true
  engines : enginesDone s s.me.id = true
  locks : locksPlaced s s.me.id = true

theorem awaitOlder_done {s : State} (h : OlderDone s) : awaitOlder s.startLofting = .ok s.startLofting () := by
  have he : enginesDone s.startLofting s.startLofting.me.id = true := (enginesDone_startLofting s).trans h.engines
  have hl : locksPlaced s.startLofting s.startLofting.me.id = true := h.locks
  rw [awaitOlder, awaitRelease_done h.calm.startLofting h.stores he, Ans.ok_bind]
  dsimp only
  rw [h.calm.startLofting.settleLocks, hl, if_pos rfl]

theorem markOpen_engines {s : State} (h : enginesDone s s.me.id = true) (ls : List Nat) : markOpen s ls = false := by
  have hj : (s.jobs.any fun j => j.core == s.me.id) = false := by
    rw [enginesDone, Bool.and_eq_true, Bool.not_eq_true'] at h
    exact h.1
  rw [markOpen, List.any_eq_false]
  intro j hm hc
  have := List.any_eq_false.mp hj j hm
  rw [Bool.and_eq_true] at hc
  exact this hc.1

theorem OwnPieces.of_me {s t : State} {ps : List Piece} (h : OwnPieces s ps) (hc : t.me.id = s.me.id) (hp : t.placeOf = s.placeOf)
    (hn : t.coreNo = s.coreNo) : OwnPieces t ps := by
  intro p hm
  rw [hp, hn, hc]
  exact h p hm

/-- An image written to pages of the own scratchpad: the bytes of the image and no other. -/
theorem storeImage_own {s : State} {ps : List Piece} (hown : OwnPieces s ps) (hm : s.mem.wf = true) :
    (storeImage s ps).mem = scattered s.mem ps (contextImage s.me s.me.epc s.me.plv) ∧ Does { mem := pieceRanges ps } s (storeImage s ps) := by
  let words := (poisonedWords s.me.poison (pieceAt ps)).filter fun w => !ownWord s w
  have hown' : OwnPieces (s.poisonNext s.me.id words) ps := hown
  have hm' : (s.poisonNext s.me.id words).mem.wf = true := hm
  obtain ⟨hmem, hdoes⟩ := storePieces_own (rs := pieceRanges ps) (brands := false) (ef := false) (sync := false)
    (v := contextImage s.me s.me.epc s.me.plv) hown' hm' fun p hp => List.mem_map.mpr ⟨p, hp, rfl⟩
  have hframe : Frame {} s (s.poisonNext s.me.id words) := Frame.of_me (SameCore.refl {} s.me) rfl rfl rfl
  have hnext : Does { mem := pieceRanges ps } s (s.poisonNext s.me.id words) := Does.widen ⟨hframe, rfl, rfl⟩ _
  obtain ⟨hframe, hnpc, hcount⟩ := hnext.follow hdoes
  exact ⟨hmem, ⟨⟨hframe.me, hframe.id, hframe.others, hframe.mem⟩, hnpc, hcount⟩⟩

/-- CTXSV to pages of the own scratchpad. -/
theorem ctxsv_own {s s₁ : State} {ga : GReg} {ps : List Piece} (hl : s.me.level ≠ 0) (hw : Unwatched s (s.me.reg ga) 0x40000 true)
    (ha : (s.me.reg ga).toNat % 4096 = 0) (hloc : locate s (s.me.reg ga) 0x40000 1 0 0 = .ok s₁ ps) (hd : OlderDone s₁) (hown : OwnPieces s₁ ps)
    (hm : s₁.mem.wf = true) : ∃ t, exec (.ctxsv ga) s = .next t ∧ t.mem = scattered s₁.mem ps (contextImage s₁.me s₁.me.epc s₁.me.plv) ∧
      Retired s₁ t ∧ Frame { mem := pieceRanges ps } s₁ t := by
  have hex : exec (.ctxsv ga) s = .next ((storeImage s₁.startLofting ps).onMe fun c => { c with behind := true }).retire := by
    show execCtxsv ga s = _
    rw [execCtxsv, needSupervisor_ok _ hl]
    dsimp only
    rw [show s.g ga = s.me.reg ga from rfl, checkWatch_unwatched hw, Ans.ok_bind, checkAlign_aligned ha, Ans.ok_bind, hloc, Ans.ok_bind,
      awaitOlder_done hd, Ans.ok_bind]
    rfl
  have hown' : OwnPieces s₁.startLofting ps := hown
  have hm' : s₁.startLofting.mem.wf = true := hm
  obtain ⟨hmem, hdoes⟩ := storeImage_own hown' hm'
  have hbehind : Does {} (storeImage s₁.startLofting ps) ((storeImage s₁.startLofting ps).onMe fun c => { c with behind := true }) :=
    ((Writes.refl {} _).onMe (by constructor <;> intros <;> simp [Core.reg, Core.brhits]) rfl rfl rfl).does
  refine ⟨_, hex, ?_, ((((startLofting_writes s₁).does.widen _).follow hdoes).follow (hbehind.widen _)).retires⟩
  refine hmem.trans ?_
  rw [contextImage_startLofting]
  rfl

/-- What CTXLD puts into the core, spelled out where a statement speaks of it (R378). -/
def loadedCore (c : Core) (img : Nat) (poison : List PoisonName) : Core := { c.loadContext img poison with lofting := false }

theorem Core.adoptQueue_eq (old c : Core) : ∃ queue hand opened seq, old.adoptQueue c = { c with
    taskQueue := queue
    inHand := hand
    openTasks := opened
    taskSeq := seq } := ⟨_, _, _, _, rfl⟩

/-- A loaded core: its registers are the image's, and it is where it was. -/
structure LoadedFrom (img : Nat) (c d : Core) : Prop where
  reg : ∀ r : GReg, d.reg r = held r (BitVec.ofNat 64 (imgWord img (0x80 + 8 * r.val)))
  epc : d.epc = BitVec.ofNat 64 (imgWord img 0x180)
  status : d.status = mkStatus c.inTrap (imgWord img 0x188) c.level
  id : d.id = c.id
  npc : d.npc = c.npc
  count : d.nBundles = c.nBundles
  loft : d.loft = c.loft

theorem loadedCore_from (c : Core) (img : Nat) (poison : List PoisonName) : LoadedFrom img c (loadedCore c img poison) := by
  obtain ⟨queue, hand, opened, seq, h⟩ := c.adoptQueue_eq (c.loadImage img)
  have hid : (c.loadImage img).id = c.id := c.loadImage_id img
  have hnpc : (c.loadImage img).npc = c.npc := by unfold Core.loadImage; dsimp only
  have hcount : (c.loadImage img).nBundles = c.nBundles := by unfold Core.loadImage; dsimp only
  have hloft : (c.loadImage img).loft = c.loft := by unfold Core.loadImage; dsimp only
  have hreg (r : GReg) := c.reg_loadImage img r
  unfold loadedCore Core.loadContext
  rw [h]
  generalize c.loadImage img = d at hid hnpc hcount hloft hreg
  exact ⟨fun r => (reg_of_g rfl r).trans (hreg r), rfl, rfl, hid, hnpc, hcount, hloft⟩

theorem LoadedFrom.refill {img : Nat} {c d : Core} (h : LoadedFrom img c d) : LoadedFrom img c d.refill := by
  obtain ⟨poison, mbox, arrivals, hr⟩ := d.refill_eq
  rw [hr]
  exact ⟨h.reg, h.epc, h.status, h.id, h.npc, h.count, h.loft⟩

/-- The state that CTXLD leaves before its bundle retires. -/
def loadedState (s : State) (img : Nat) (poison : List PoisonName) : State :=
  ((s.onMe fun c => loadedCore c img poison).coverFills fun _ => true).niSettle s.me.id

/-- The interface settled after a load: the core's slots are filled, and memory stays. -/
theorem LoadedFrom.settles {img : Nat} {c : Core} {v : State} (h : LoadedFrom img c v.me) (hl : v.lazy = true ∨ c.loft = []) (hit : Nat → Bool) :
    LoadedFrom img c ((v.coverFills hit).niSettle c.id).me ∧ ((v.coverFills hit).niSettle c.id).mem = v.mem := by
  obtain ⟨net, hcover, -⟩ := v.coverFills_eq hit
  have hid : c.id = ({ v with net := net } : State).me.id := h.id.symm
  have hloft : ({ v with net := net } : State).lazy = true ∨ ({ v with net := net } : State).me.loft = [] := hl.imp (fun h => h) h.loft.trans
  rw [hcover, hid, niSettle_calm hloft]
  refine ⟨?_, State.onMe_mem ..⟩
  rw [State.onMe_me]
  exact h.refill

theorem loadedState_spec {s : State} (hc : Calm s) (img : Nat) (poison : List PoisonName) :
    LoadedFrom img s.me (loadedState s img poison).me ∧ (loadedState s img poison).mem = s.mem := by
  have hfrom : LoadedFrom img s.me (s.onMe fun c => loadedCore c img poison).me := by
    rw [State.onMe_me]
    exact loadedCore_from s.me img poison
  have hmem : (s.onMe fun c => loadedCore c img poison).mem = s.mem := State.onMe_mem ..
  have hlazy : (s.onMe fun c => loadedCore c img poison).lazy = s.lazy := State.onMe_lazy ..
  unfold loadedState
  generalize (s.onMe fun c => loadedCore c img poison) = v at hfrom hmem hlazy
  obtain ⟨hload, hkeep⟩ := hfrom.settles (v := v) (hc.imp hlazy.trans fun ⟨_, _, _, _, _, h⟩ => h) fun _ => true
  exact ⟨hload, hkeep.trans hmem⟩

/-- What a CTXLD that has read its image does with it. -/
def loadChecked (s : State) (ps : List Piece) (img : Nat) : Ans Unit :=
  if !contextOk (s.present s.me.id .q4blk) img s.me.level then .trap s (tileTrap .format)
  else .ok (loadedState s img (imagePoison s.badWords fun off => match pieceAt ps off with | some pa => pa | none => 0)) ()

theorem ctxld_own {s s₁ : State} {ga : GReg} {ps : List Piece} (hl : s.me.level ≠ 0) (hw : Unwatched s (s.me.reg ga) 0x40000 false)
    (ha : (s.me.reg ga).toNat % 4096 = 0) (hloc : locate s (s.me.reg ga) 0x40000 0 0 0 = .ok s₁ ps) (hd : OlderDone s₁) (hown : OwnPieces s₁ ps)
    (hm : s₁.mem.wf = true) : exec (.ctxld ga) s = finish (loadChecked s₁.startLofting ps (gathered s₁.mem ps)) := by
  have hown' : OwnPieces s₁.startLofting ps := hown
  have hm' : s₁.startLofting.mem.wf = true := hm
  have he : enginesDone s₁.startLofting s₁.startLofting.me.id = true := (enginesDone_startLofting s₁).trans hd.engines
  have hload := loadPieces_own (acq := false) (ef := false) (sync := false) hm' [] 0 hown' (markOpen_engines he _)
  rw [Nat.zero_add] at hload
  show execCtxld ga s = _
  rw [execCtxld, needSupervisor_ok _ hl]
  dsimp only
  rw [show s.g ga = s.me.reg ga from rfl, checkWatch_unwatched hw, Ans.ok_bind, checkAlign_aligned ha, Ans.ok_bind, hloc, Ans.ok_bind,
    awaitOlder_done hd, Ans.ok_bind, hload, Ans.ok_bind]
  rfl

/-- CTXLD of an image that passes every check (R378). -/
theorem ctxld_loads {s s₁ : State} {ga : GReg} {ps : List Piece} (hl : s.me.level ≠ 0) (hw : Unwatched s (s.me.reg ga) 0x40000 false)
    (ha : (s.me.reg ga).toNat % 4096 = 0) (hloc : locate s (s.me.reg ga) 0x40000 0 0 0 = .ok s₁ ps) (hd : OlderDone s₁) (hown : OwnPieces s₁ ps)
    (hm : s₁.mem.wf = true) (hok : contextOk (s₁.present s₁.me.id .q4blk) (gathered s₁.mem ps) s₁.me.level = true) :
    ∃ t, exec (.ctxld ga) s = .next t ∧
      (∀ r : GReg, t.me.reg r = held r (BitVec.ofNat 64 (imgWord (gathered s₁.mem ps) (0x80 + 8 * r.val)))) ∧
      t.me.epc = BitVec.ofNat 64 (imgWord (gathered s₁.mem ps) 0x180) ∧ t.me.plv = imgWord (gathered s₁.mem ps) 0x188 % 4 ∧
      t.me.level = s₁.me.level ∧ t.me.inTrap = s₁.me.inTrap ∧ Retired s₁ t ∧ t.mem = s₁.mem := by
  rw [ctxld_own hl hw ha hloc hd hown hm]
  generalize gathered s₁.mem ps = img at hok ⊢
  have hok' : contextOk (s₁.startLofting.present s₁.startLofting.me.id .q4blk) img s₁.startLofting.me.level = true := hok
  rw [loadChecked, hok', Bool.not_true, if_neg Bool.false_ne_true]
  obtain ⟨hfrom, hmem⟩ := loadedState_spec hd.calm.startLofting img
    (imagePoison s₁.startLofting.badWords fun off => match pieceAt ps off with | some pa => pa | none => 0)
  generalize loadedState s₁.startLofting img
    (imagePoison s₁.startLofting.badWords fun off => match pieceAt ps off with | some pa => pa | none => 0) = u at hfrom hmem
  refine ⟨u.retire, rfl, hfrom.reg, hfrom.epc, Core.plv_of_status hfrom.status, ?_, ?_, ⟨hfrom.npc, rfl, congrArg (· + 1) hfrom.count⟩, hmem⟩
  · exact (Core.level_of_status hfrom.status).trans (Nat.mod_eq_of_lt s₁.me.level_lt)
  · exact Core.inTrap_of_status hfrom.status

/-- CTXLD of an image that fails one. -/
theorem ctxld_refuses {s s₁ : State} {ga : GReg} {ps : List Piece} (hl : s.me.level ≠ 0) (hw : Unwatched s (s.me.reg ga) 0x40000 false)
    (ha : (s.me.reg ga).toNat % 4096 = 0) (hloc : locate s (s.me.reg ga) 0x40000 0 0 0 = .ok s₁ ps) (hd : OlderDone s₁) (hown : OwnPieces s₁ ps)
    (hm : s₁.mem.wf = true) (hbad : contextOk (s₁.present s₁.me.id .q4blk) (gathered s₁.mem ps) s₁.me.level = false) (hin : s₁.me.inTrap = false) :
    ∃ t, exec (.ctxld ga) s = .next t ∧ Trapped (tileTrap .format) s₁.me.pc s₁ t := by
  rw [ctxld_own hl hw ha hloc hd hown hm]
  generalize gathered s₁.mem ps = img at hbad ⊢
  have hbad' : contextOk (s₁.startLofting.present s₁.startLofting.me.id .q4blk) img s₁.startLofting.me.level = false := hbad
  rw [loadChecked, hbad', Bool.not_false, if_pos rfl]
  obtain ⟨t, ht, hk⟩ := finish_trap (s := s₁.startLofting) hin (tileTrap .format)
  exact ⟨t, ht, { hk with frame := (startLofting_writes s₁).frame.widen _ |>.follow hk.frame }⟩

/-- Settles O48, form by form. -/
theorem translationsAndContexts : Obligations.TranslationsAndContexts := by
  intro s s₁ gd ga gb n user acc ps hl
  refine ⟨fun hc hp ho => xlati_completes ga gb n hl hc hp ho, fun hlazy hp hs hl1 hpad => xlatiAll_waits hlazy hp hs hl1 hpad, fun r h => xlatp_spec hl h,
    fun hw ha hloc hc hs he hown hk hm => ctxsv_own hl hw ha hloc ⟨hc, hs, he, hk⟩ hown hm, fun hw ha hloc hown hm hc hs he hk => ⟨fun hok => ?_, fun hbad hin => ?_⟩⟩
  · exact ctxld_loads hl hw ha hloc ⟨hc, hs, he, hk⟩ hown hm hok
  · exact ctxld_refuses hl hw ha hloc ⟨hc, hs, he, hk⟩ hown hm hbad hin

/-! ### Removals served at once (R360, R361) -/

theorem serveCtl_removal {s : State} {i k n target : Nat} {sel : XSel} (h : s.ctl[i]? = some (.removal k n sel target)) :
    s.serveCtl i = serveRemoval { s with ctl := s.ctl.eraseIdx i } k n sel target := by
  rw [State.serveCtl, h]

theorem serveRemoval_blocked {s : State} {k n target : Nat} {sel : XSel} (ht : target ≠ 1027) (h : .removal k n sel 1027 ∈ s.ctl) :
    serveRemoval s k n sel target = none := by
  have hb : (target == 1027) = false := beq_eq_false_iff_ne.mpr ht
  have hc : s.ctl.contains (.removal k n sel 1027) = true := List.contains_iff_mem.mpr h
  rw [serveRemoval, hb, if_neg Bool.false_ne_true, hc, Bool.true_or, Bool.true_or, if_pos rfl]

theorem serveRemoval_atSlices {s : State} {k n : Nat} {sel : XSel} (h : s.ats = []) : serveRemoval s k n sel 1027 = some (removeAtSlices s n sel) := by
  have hb : ((1027 : Nat) == 1027) = true := rfl
  rw [serveRemoval, hb, if_pos rfl, h, List.any_nil, if_neg Bool.false_ne_true]

/-- No engine works, and the moving core holds nothing that a removal waits for (R360). -/
structure Unheld (s : State) : Prop where
  ats : s.ats = []
  jobs : s.jobs = []
  areds : s.areds = []
  storePages : s.me.storePages = []
  kept : s.me.kept = []

theorem serveRemoval_atCore {s : State} {n : Nat} {sel : XSel} (hid : s.me.id ≠ 1027) (hctl : s.ctl = []) (h : Unheld s) :
    serveRemoval s s.me.id n sel s.me.id = some (removeAtCore s s.me.id sel) := by
  have hb : (s.me.id == 1027) = false := beq_eq_false_iff_ne.mpr hid
  have hheld : heldXlat s s.me.id sel = false := by
    rw [heldXlat, State.core_me, h.storePages, h.kept]
    rfl
  have huses : engineUses s n sel = false := by
    rw [engineUses, h.jobs, h.areds]
    rfl
  rw [serveRemoval, hb, if_neg Bool.false_ne_true, hctl, hheld, huses]
  rfl

/-- The slices of set n have removed what they hold, and core k's removal is still on its way. -/
def slicesRemoved (s : State) (n : Nat) (sel : XSel) : State := removeAtSlices { s with ctl := [.removal s.me.id n sel s.me.id] } n sel

theorem slicesRemoved_fields (s : State) (n : Nat) (sel : XSel) : (slicesRemoved s n sel).me = s.me ∧ (slicesRemoved s n sel).cores = s.cores ∧
    (slicesRemoved s n sel).mem = s.mem ∧ (slicesRemoved s n sel).jobs = s.jobs ∧ (slicesRemoved s n sel).areds = s.areds ∧
    (slicesRemoved s n sel).ctl = [.removal s.me.id n sel s.me.id] := ⟨rfl, rfl, rfl, rfl, rfl, rfl⟩

theorem slicesRemoved_unheld {s : State} (n : Nat) (sel : XSel) (h : Unheld s) : Unheld { slicesRemoved s n sel with ctl := [] } := by
  obtain ⟨hme, -, -, hjobs, hareds, -⟩ := slicesRemoved_fields s n sel
  refine ⟨?_, hjobs.trans h.jobs, hareds.trans h.areds, (congrArg Core.storePages hme).trans h.storePages, (congrArg Core.kept hme).trans h.kept⟩
  have hats : (slicesRemoved s n sel).ats = s.ats.map fun a : AtsWait =>
    if a.pset == n && sel.hitsWait a then { a with core := if a.stage == 1 then 1024 else 1025 } else a := rfl
  refine hats.trans ?_
  rw [h.ats]
  rfl

/-- Everything that the moving core's XLATI removes is gone. -/
def removedState (s : State) (n : Nat) (sel : XSel) : State := removeAtCore { slicesRemoved s n sel with ctl := [] } s.me.id sel

theorem removedState_eq (s : State) (n : Nat) (sel : XSel) : removedState s n sel = ({ slicesRemoved s n sel with ctl := [] } : State).onMe fun c =>
    { c with ctc := c.ctc.filter fun x => !sel.hits x } := by
  have hid : ({ slicesRemoved s n sel with ctl := [] } : State).me.id = s.me.id := congrArg Core.id (slicesRemoved_fields s n sel).1
  rw [removedState, removeAtCore]
  exact onCore_at hid rfl

theorem removedState_writes {r s : State} (n : Nat) (sel : XSel) (h : Writes {} r s) : Writes {} r (removedState s n sel) := by
  obtain ⟨hme, hcores, hmem, -⟩ := slicesRemoved_fields s n sel
  have hslices : Writes {} r { slicesRemoved s n sel with ctl := [] } :=
    ⟨hme ▸ h.same, hme ▸ h.id, hme ▸ h.npc, hme ▸ h.count, hcores.trans h.cores, hmem.trans h.mem⟩
  rw [removedState_eq]
  exact hslices.onMe (by constructor <;> intros <;> simp [Core.reg, Core.brhits]) rfl rfl rfl

theorem removedState_caches (s : State) (n : Nat) (sel : XSel) : (removedState s n sel).me.ctc = s.me.ctc.filter (fun x => !sel.hits x) ∧
    ((removedState s n sel).pad n).stc = (s.pad n).stc.filter (fun e => !sel.hits e.2.2) ∧ (removedState s n sel).ctl = [] := by
  rw [removedState_eq]
  refine ⟨rfl, ?_, rfl⟩
  exact removeAtSlices_stc { s with ctl := [.removal s.me.id n sel s.me.id] } n sel

theorem settleCtl_removals {s : State} {n : Nat} {sel : XSel} (hlazy : s.lazy = false) (hid : s.me.id ≠ 1027) (h : Unheld s)
    (hctl : s.ctl = [.removal s.me.id n sel s.me.id, .removal s.me.id n sel 1027]) : s.settleCtl = removedState s n sel := by
  have hslices : s.serveCtl 1 = some (slicesRemoved s n sel) := by
    rw [serveCtl_removal (by rw [hctl]; rfl), hctl]
    exact serveRemoval_atSlices h.ats
  have hblocked : s.serveCtl 0 = none := by
    rw [serveCtl_removal (by rw [hctl]; rfl), hctl]
    exact serveRemoval_blocked hid (List.mem_singleton.mpr rfl)
  have hcore : (slicesRemoved s n sel).serveCtl 0 = some (removedState s n sel) := by
    rw [serveCtl_removal (k := s.me.id) (n := n) (sel := sel) (target := s.me.id) rfl]
    exact serveRemoval_atCore (s := { slicesRemoved s n sel with ctl := [] }) hid rfl (slicesRemoved_unheld n sel h)
  have hlen : s.ctl.length = 2 := by rw [hctl]; rfl
  have hnone : (removedState s n sel).ctl.length = 0 := by rw [(removedState_caches s n sel).2.2]; rfl
  rw [State.settleCtl, hlazy, if_neg Bool.false_ne_true, hlen, settleCtlLoop, hlen, serveCtlFirst, hblocked]
  dsimp only
  rw [serveCtlFirst, hslices]
  dsimp only
  rw [settleCtlLoop, show (slicesRemoved s n sel).ctl.length = 1 from rfl, serveCtlFirst, hcore]
  dsimp only
  rw [settleCtlLoop, hnone, serveCtlFirst]

theorem sendRemovals_alone {s : State} {sel : XSel} (hctl : s.ctl = []) (hid : s.me.id < 512)
    (halone : ∀ c ∈ s.cores, c.id < 512 → c.paddock ≠ s.me.paddock) :
    (s.sendRemovals [s.me.paddock] sel).ctl = [.removal s.me.id s.me.paddock sel s.me.id, .removal s.me.id s.me.paddock sel 1027] := by
  have hme : (decide (s.me.id < 512) && [s.me.paddock].contains s.me.paddock) = true := by simp [hid]
  have hcores : (s.cores.filter fun c => c.id < 512 && [s.me.paddock].contains c.paddock) = [] := by
    rw [List.filter_eq_nil_iff]
    intro c hc
    have := halone c hc
    simpa using this
  rw [sendRemovals_own, State.allCores, List.filter_cons, if_pos hme, hcores, hctl]
  rfl

/-- XLATI with nothing in the way of its removals: they are served at once (R360). -/
theorem xlatiWith_removes {s : State} {n : Fin 8} {sel : XSel} (hlazy : s.lazy = false) (hc : Calm s) (hp : s.me.pend = .none)
    (hs : s.me.storesDone = true) (hl : s.me.level = 1) (hpad : s.me.paddock < 7) (hid : s.me.id < 512)
    (halone : ∀ c ∈ s.cores, c.id < 512 → c.paddock ≠ s.me.paddock) (h : Unheld s) :
    ∃ t, xlatiWith n sel s = .next t ∧ t.me.ctc = s.me.ctc.filter (fun x => !sel.hits x) ∧
      (t.pad s.me.paddock).stc = (s.pad s.me.paddock).stc.filter (fun e => !sel.hits e.2.2) ∧ Retired s t ∧ Frame {} s t := by
  have hctl : s.ctl = [] := (hc.resolve_left (by rw [hlazy]; decide)).2.2.2.1
  have hsettle := settleCtl_removals (s := s.sendRemovals [s.me.paddock] sel) (n := s.me.paddock) (sel := sel) hlazy
    (show s.me.id ≠ 1027 by omega) ⟨h.ats, h.jobs, h.areds, h.storePages, h.kept⟩ (sendRemovals_alone hctl hid halone)
  obtain ⟨hctc, hstc, hgone⟩ := removedState_caches (s.sendRemovals [s.me.paddock] sel) s.me.paddock sel
  have hover : removalsOver (removedState (s.sendRemovals [s.me.paddock] sel) s.me.paddock sel) = true := by
    rw [removalsOver, hgone]
    rfl
  have hw := removedState_writes s.me.paddock sel (sendRemovals_writes s [s.me.paddock] sel)
  have hex : xlatiWith n sel s = .next (removedState (s.sendRemovals [s.me.paddock] sel) s.me.paddock sel).retire := by
    rw [xlatiWith_first (by rw [hl]; decide) hc hp hs, xlatiSets_own hl hpad, hsettle, removalsEnd, if_pos hover]
    rfl
  exact ⟨_, hex, hctc, hstc, hw.retires⟩

/-! ### TRAP and TRET (R351, R352) -/

theorem Core.enterTrap_keeps (c : Core) (k : Trap) (epc : Word) : (c.enterTrap k epc).run = c.run ∧ (c.enterTrap k epc).nBundles = c.nBundles := by
  obtain ⟨poison, h⟩ := c.squash.cleanSys_eq [5, 6, 7, 8]
  rw [Core.enterTrap, h]
  exact ⟨rfl, rfl⟩

theorem takeTrap_keeps {s : State} (h : s.me.inTrap = false) (k : Trap) (epc : Word) :
    (s.takeTrap k epc false).me.run = s.me.run ∧ (s.takeTrap k epc false).me.nBundles = s.me.nBundles := by
  obtain ⟨trc, n, htrc⟩ := s.emitTrap_me k
  rw [State.takeTrap_eq (.inl h), htrc]
  exact ({ s.me with trc := trc } : Core).enterTrap_keeps k epc

theorem onMe_congr {s : State} {f g : Core → Core} (h : f s.me = g s.me) : s.onMe f = s.onMe g := by rw [State.onMe, State.onMe, h]

/-- A trap that a TRAP takes once it has retired. -/
def syscallTaken (s : State) (code : BitVec 10) : State := s.retire.takeTrap (syscallTrap code) s.me.npc false

theorem execTrap_eq {s : State} {code : BitVec 10} (hin : s.me.inTrap = false) (hrun : s.me.run = .running) :
    exec (.trap code) s = .next ((syscallTaken s code).onMe fun c => { c with res := .retired }) := by
  have hr : (syscallTaken s code).me.run = .running := (takeTrap_keeps (s := s.retire) hin _ _).1.trans hrun
  show execTrap code s = _
  have hme : ((syscallTaken s code).onMe fun c => if c.run == .running then { c with res := .retired } else c) =
      (syscallTaken s code).onMe fun c => { c with res := .retired } := onMe_congr (if_pos (beq_iff_eq.mpr hr))
  exact congrArg Host.Outcome.next hme

theorem syscall_ecause (code : BitVec 10) : 5 * 2 ^ 24 + 0 * 2 ^ 16 + code.toNat % 1024 = 5 * 2 ^ 24 + code.toNat := by
  have := code.isLt
  omega

/-- TRAP retires, and its trap is taken at the next bundle. -/
theorem trap_spec {s : State} (code : BitVec 10) (hin : s.me.inTrap = false) (hrun : s.me.run = .running) :
    ∃ t, exec (.trap code) s = .next t ∧ t.me.epc = s.me.npc ∧ t.me.ecause = BitVec.ofNat 64 (5 * 2 ^ 24 + code.toNat) ∧ t.me.eva = 0 ∧ t.me.erow = 0 ∧
      t.me.inTrap = true ∧ t.me.plv = s.me.level ∧ t.me.level = (if s.me.isYard then 3 else 1) ∧ t.me.pc = s.me.stvec ∧
      t.me.nBundles = s.me.nBundles + 1 ∧ Frame { trap := true } s t := by
  have hk : Trapped (syscallTrap code) s.me.npc s.retire (syscallTaken s code) :=
    State.takeTrap_trapped (s := s.retire) (.inl hin) _ _
  have hcount : (syscallTaken s code).me.nBundles = s.me.nBundles + 1 := (takeTrap_keeps (s := s.retire) hin _ _).2
  have hres : Frame {} (syscallTaken s code) ((syscallTaken s code).onMe fun c => { c with res := .retired }) :=
    ((Writes.refl {} _).onMe (by constructor <;> intros <;> simp [Core.reg, Core.brhits]) rfl rfl rfl).frame
  have hcause := hk.ecause
  rw [show (syscallTrap code).cause = 5 from rfl, show (syscallTrap code).kind = 0 from rfl, show (syscallTrap code).code = code.toNat from rfl,
    syscall_ecause] at hcause
  exact ⟨_, execTrap_eq hin hrun, hk.epc, hcause, hk.eva, hk.erow, hk.inTrap, hk.plv, hk.level, hk.pc, hcount,
    ((s.retire_frame.widen _).follow hk.frame).follow (hres.widen _)⟩

/-- The status that TRET leaves (R352). -/
theorem leaveTrap_writes (s : State) : Writes { trap := true } s (s.onMe (·.leaveTrap)) :=
  (Writes.refl _ s).onMe (by constructor <;> intros <;> simp_all [Core.leaveTrap, Core.reg, Core.brhits]) rfl rfl rfl

theorem tret_spec {s : State} (hl : s.me.level ≠ 0) : ∃ t, exec .tret s = .next t ∧ t.me.inTrap = false ∧
    t.me.level = (if s.me.isYard then 3 else s.me.plv) ∧ ArrivesAt s.me.epc s t ∧ t.me.epc = s.me.epc ∧ t.me.ecause = s.me.ecause ∧
    t.me.eva = s.me.eva ∧ t.me.erow = s.me.erow ∧ Frame { trap := true } s t := by
  have hex : exec .tret s = .next (((s.onMe (·.leaveTrap)).emitAddr s.me.id 2 s.me.epc).retireTo s.me.epc) := by
    show execTret s = _
    rw [execTret, needSupervisor_ok _ hl]
  have hw : Writes { trap := true } s ((s.onMe (·.leaveTrap)).emitAddr s.me.id 2 s.me.epc) := (leaveTrap_writes s).emitAddr 2 s.me.epc
  obtain ⟨x, n, hx⟩ := (s.onMe (·.leaveTrap)).emit_me (BitVec.ofNat 8 (0x10 + 2) :: bytesOf (s.me.epc.toNat % 2 ^ 48) 6)
  have hme : ((s.onMe (·.leaveTrap)).emitAddr s.me.id 2 s.me.epc).me = { s.me.leaveTrap with trc := x } := congrArg State.me hx
  generalize (s.onMe (·.leaveTrap)).emitAddr s.me.id 2 s.me.epc = w at hex hw hme
  obtain ⟨hepc, hecause, heva, herow⟩ : w.me.epc = s.me.epc ∧ w.me.ecause = s.me.ecause ∧ w.me.eva = s.me.eva ∧ w.me.erow = s.me.erow := by
    rw [hme]
    exact ⟨rfl, rfl, rfl, rfl⟩
  have hstatus : (w.retireTo s.me.epc).me.status = mkStatus false s.me.plv (if s.me.isYard then 3 else s.me.plv) := congrArg Core.status hme
  have hplv : (if s.me.isYard then 3 else s.me.plv) % 4 = if s.me.isYard then 3 else s.me.plv := by
    have : s.me.plv < 4 := Nat.mod_lt _ (by decide)
    split <;> omega
  exact ⟨_, hex, Core.inTrap_of_status hstatus, (Core.level_of_status hstatus).trans hplv, ⟨rfl, rfl, rfl, congrArg (· + 1) hw.count⟩,
    hepc, hecause, heva, herow, hw.frame.follow ((w.retireTo_frame _).widen _)⟩

/-! ### BRK (R416) -/

theorem brk_traps {s : State} (code : BitVec 10) (hin : s.me.inTrap = false) (h : s.me.dbg.brken = false ∨ haltImage s s.me.id = none) :
    ∃ t, exec (.brk code) s = .next t ∧ Trapped { cause := 0x12, kind := 0, code := code.toNat, va := 0, row := 0 } s.me.pc s t := by
  have hno : (s.me.dbg.brken && (haltImage s s.me.id).isSome && !s.me.dbg.skips 5 0) = false := by
    rcases h with h | h
    · rw [h, Bool.false_and, Bool.false_and]
    · rw [h, Option.isSome_none, Bool.and_false, Bool.false_and]
  have hex : exec (.brk code) s = finish (.trap s (debugTrap code.toNat)) := by
    show execBrk code s = _
    rw [execBrk, hno, if_neg Bool.false_ne_true]
  rw [hex]
  exact finish_trap hin _

theorem exists_above (l : List Nat) : ∃ n, ∀ x ∈ l, x < n := by
  induction l with
  | nil => exact ⟨0, nofun⟩
  | cons a l ih =>
    obtain ⟨n, hn⟩ := ih
    refine ⟨a + n + 1, fun x hx => ?_⟩
    rcases List.mem_cons.mp hx with rfl | hx
    · omega
    · have := hn x hx
      omega

/-- Memory traffic of an engine leaves the moving core the one it is. -/
theorem engineWriteAs_id (s : State) (agent pa n v : Nat) : (s.engineWriteAs agent pa n v).me.id = s.me.id := by
  obtain ⟨lid, hlid⟩ := exists_above (s.launches.map (·.id))
  have hnone : s.Stays lid s.me.id := ⟨rfl, fun l hl hi => absurd hi (Nat.ne_of_lt (hlid l.id (List.mem_map_of_mem hl)))⟩
  exact (State.engineWriteAs_stays agent pa n v hnone).1

theorem brk_halts {s : State} (code : BitVec 10) (hb : s.me.dbg.brken = true) (hi : haltImage s s.me.id ≠ none) (hskip : s.me.dbg.skips 5 0 = false) :
    ∃ t, exec (.brk code) s = .next t ∧ t.me.run = .debugHalted ∧ t.me.dbg.cause = 5 := by
  obtain ⟨pa, hpa⟩ := Option.ne_none_iff_exists'.mp hi
  have hex : exec (.brk code) s = .next (s.debugHalt s.me.id 5 0) := by
    show execBrk code s = _
    rw [execBrk, hb, hpa, hskip]
    rfl
  have hid := engineWriteAs_id (s.poisonNext 1026 (poisonedWords s.me.poison fun off => some (pa + off))) 1026 pa 0x40000
    (contextImage s.me s.me.pc s.me.level)
  rw [debugHalt_eq hpa] at hex
  generalize (s.poisonNext 1026 (poisonedWords s.me.poison fun off => some (pa + off))).engineWriteAs 1026 pa 0x40000
    (contextImage s.me s.me.pc s.me.level) = u at hid hex
  have hid' : s.me.id = u.me.id := hid.symm
  obtain ⟨trc, hme, -⟩ := debugHalt_tail u 5 0
  rw [hid'] at hex
  refine ⟨_, hex, ?_, ?_⟩
  · rw [hme]
    rfl
  · rw [hme]
    rfl

/-! ### O47 -/

/-- Settles O47, form by form: BRK's halt rests on the moving core staying the one it is while its image is written. -/
theorem trapReturnAndBreak : Obligations.TrapReturnAndBreak := by
  intro s code
  refine ⟨trap_spec code, tret_spec, brk_traps code, brk_halts code, fun gd ga gb n hl => ?_, fun hc hs he hhand hlocks hloft hplaced => ?_,
    fun ga => execTrcmark_spec ga code s, fun gd h => ?_⟩
  · intro va len lo hi
    refine ⟨fun hc hp ho => xlati_completes ga gb n hl hc hp ho, fun hlazy hc hp hs hkept hl1 hpad hid halone hats hjobs hareds hpages => ?_,
      fun s₁ user acc r h => xlatp_spec hl h, fun s₁ ps ha hown hc hs he hk hm => ⟨fun hw hloc => ctxsv_own hl hw ha hloc ⟨hc, hs, he, hk⟩ hown hm,
        fun hw hloc hok => ctxld_loads hl hw ha hloc ⟨hc, hs, he, hk⟩ hown hm hok⟩⟩
    intro Removes
    have hremoves (sel : XSel) := xlatiWith_removes (n := n) (sel := sel) hlazy hc hp hs hl1 hpad hid halone ⟨hats, hjobs, hareds, hpages, hkept⟩
    refine ⟨?_, hremoves _, hremoves _⟩
    have hrange : exec (.xlatiRange ga gb n) s = xlatiWith n (.range (va / 2 ^ 48) lo hi) s := by
      show execXlatiRange ga gb n s = _
      simp only [execXlatiRange, beq_iff_eq]
      rfl
    obtain ⟨t, ht, hrest⟩ := hremoves (.range (va / 2 ^ 48) lo hi)
    exact ⟨t, hrange.trans ht, hrest⟩
  · obtain ⟨u, hu, hrun, hres, hslots, harr, -, hqueue, hframe⟩ := (haltMarkAndCounters s 0 0 0 0).1 hc hs he hhand hlocks hloft hplaced
    exact ⟨u, hu, hrun, hres, hslots, harr, hqueue, hframe⟩
  · obtain ⟨t, ht, hreg, hret, hframe⟩ := execPerfrd_ok (s := s) (gd := gd) h
    exact ⟨t, _, ht, hreg, hret, hframe, (perfCounter_counts s code.toNat).1⟩

end Sys2Proof.Machine
end

section
/-! SUPPORT. Values of a floating format delivered to it, and tile arithmetic element by element (03 R61 to R73, 05 R119 to R123). -/
namespace Sys2Proof.Machine

/-! ### Values of a floating format delivered to it (R61 to R63, R73) -/

theorem log2_of_hidden {k m : Nat} (h : m < 2 ^ k) : (2 ^ k + m).log2 = k := by
  rw [Nat.log2_eq_iff (by have := Nat.two_pow_pos k; omega), Nat.pow_succ]
  omega

/-- A subnormal fraction lies on the lowest grid. -/
theorem gridExp_subnormal {f : Fmt} {m : Nat} (h : m < 2 ^ fracBits f) : gridExp f m (expMin f - fracBits f) = expMin f - fracBits f := by
  unfold gridExp
  split
  · rfl
  · next h0 =>
    have hm : m ≠ 0 := fun e => h0 (beq_iff_eq.mpr e)
    have hlog : m.log2 < fracBits f := (Nat.log2_lt hm).mpr h
    rw [Int.max_eq_right (by omega)]

/-- A normal significand lies on the grid of its exponent. -/
theorem gridExp_normal {f : Fmt} {m ex : Nat} (h : m < 2 ^ fracBits f) (hex : 1 ≤ ex) :
    gridExp f (2 ^ fracBits f + m) (expMin f + (ex : Int) - 1 - fracBits f) = expMin f + (ex : Int) - 1 - fracBits f := by
  have h0 : (2 ^ fracBits f + m == 0) = false := beq_eq_false_iff_ne.mpr (by have := Nat.two_pow_pos (fracBits f); omega)
  rw [gridExp, h0, if_neg Bool.false_ne_true, log2_of_hidden h, Int.max_eq_left (by omega)]
  omega

/-- A finite value on its grid is delivered as it is, whatever the mode and the draw. -/
theorem deliverFloat_onGrid {f : Fmt} {m k : Nat} {e : Int} (hgrid : gridExp f m e = e) (hk : e = expMin f - fracBits f + k)
    (hmax : k * 2 ^ fracBits f + m ≤ maxFinite f) (rnd : Rnd) (sat : Bool) (d : Nat) (s : Bool) :
    deliverFloat f rnd sat d (.fin s m e false) = ((if s then signBit f else 0) + (k * 2 ^ fracBits f + m), noFlags) := by
  have hround : roundAt rnd s m e false e d = (m, false) := by
    rw [roundAt, if_pos (Int.le_refl e), Int.sub_self]
    simp
  have hoff : (e - (expMin f - fracBits f)).toNat = k := by omega
  unfold deliverFloat
  dsimp only
  rw [hgrid, hround, hoff, if_neg (by omega)]
  have hexact : flagIf false flagNX ||| flagIf (false && decide (k * 2 ^ fracBits f + m < 2 ^ fracBits f)) flagUF = noFlags := by
    rw [Bool.false_and]
    decide
  rw [hexact]

/-- The sign and the magnitude of a pattern. -/
theorem pattern_split {f : Fmt} {p : Nat} (h : p < 2 * signBit f) :
    (if p / signBit f % 2 == 1 then signBit f else 0) + p % signBit f = p := by
  have hpos : 0 < signBit f := Nat.two_pow_pos _
  have hdiv : p / signBit f < 2 := Nat.div_lt_of_lt_mul (by omega)
  have hmod := Nat.div_add_mod p (signBit f)
  have hq : p / signBit f = 0 ∨ p / signBit f = 1 := Nat.le_one_iff_eq_zero_or_eq_one.mp (Nat.le_of_lt_succ hdiv)
  rcases hq with hq | hq
  · rw [hq, Nat.mul_zero, Nat.zero_add] at hmod
    rw [hq, hmod]
    simp
  · rw [hq, Nat.mul_one] at hmod
    rw [hq, ← hmod]
    simp

theorem twice_signBit (f : Fmt) : 2 ^ (8 * fmtBytes f) = 2 * signBit f := by
  cases f <;> decide

/-- A pattern that is neither a NaN nor an infinity is a finite magnitude. -/
theorem mag_le_of_finite {f : Fmt} {p : Nat} (hnan : (floatExact f p).isNaN = false) (hinf : (floatExact f p).isInf = false) :
    p % signBit f ≤ maxFinite f := by
  refine Decidable.byContradiction fun h => ?_
  have hlt : maxFinite f < p % signBit f := by omega
  unfold floatExact at hnan hinf
  dsimp only at hnan hinf
  rw [if_pos hlt] at hnan hinf
  split at hnan
  · exact absurd hnan (by decide)
  · next he4 =>
    rw [if_neg he4] at hinf
    split at hnan
    · next hm =>
      rw [if_pos hm] at hinf
      exact absurd hinf (by simp [Ex.isInf])
    · exact absurd hnan (by decide)

/-- A finite pattern is delivered as itself. -/
theorem deliverFloat_self {f : Fmt} {p : Nat} (hp : p < 2 * signBit f) (hmax : p % signBit f ≤ maxFinite f) (rnd : Rnd) (sat : Bool) (d : Nat) :
    deliverFloat f rnd sat d (floatExact f p) = (p, noFlags) := by
  have hm : p % signBit f % 2 ^ fracBits f < 2 ^ fracBits f := Nat.mod_lt _ (Nat.two_pow_pos _)
  have hmag := Nat.div_add_mod (p % signBit f) (2 ^ fracBits f)
  have hsplit := pattern_split hp
  unfold floatExact
  dsimp only
  rw [if_neg (by omega)]
  generalize p % signBit f / 2 ^ fracBits f = ex at hmag ⊢
  split
  · next h0 =>
    have hex : ex = 0 := beq_iff_eq.mp h0
    rw [hex, Nat.mul_zero, Nat.zero_add] at hmag
    rw [deliverFloat_onGrid (k := 0) (gridExp_subnormal hm) (by omega) (by omega), Nat.zero_mul, Nat.zero_add, hmag, hsplit]
  · next h0 =>
    have hex : 1 ≤ ex := Nat.one_le_iff_ne_zero.mpr fun e => h0 (beq_iff_eq.mpr e)
    have hk : (ex - 1) * 2 ^ fracBits f + (2 ^ fracBits f + p % signBit f % 2 ^ fracBits f) = p % signBit f := by
      obtain ⟨j, rfl⟩ := Nat.exists_eq_add_of_le hex
      rw [Nat.add_sub_cancel_left]
      calc j * 2 ^ fracBits f + (2 ^ fracBits f + p % signBit f % 2 ^ fracBits f)
          = 2 ^ fracBits f * (1 + j) + p % signBit f % 2 ^ fracBits f := by
            rw [Nat.mul_add, Nat.mul_one, Nat.mul_comm j]
            omega
        _ = p % signBit f := hmag
    rw [deliverFloat_onGrid (k := ex - 1) (gridExp_normal hm hex) (by omega) (by omega), hk, hsplit]

/-- Settles O17: a finite pattern's value lies on its own grid, so nothing is rounded. -/
theorem aValueOfAFormatDeliversItself : Obligations.AValueOfAFormatDeliversItself := by
  intro f rnd sat d p _ hp _
  refine ⟨fun hnan hinf => deliverFloat_self (by rwa [← twice_signBit]) (mag_le_of_finite hnan hinf) rnd sat d, fun hnan => ?_⟩
  generalize floatExact f p = x at hnan ⊢
  cases x with
  | nan => rfl
  | inf s => exact absurd hnan (by simp [Ex.isNaN])
  | fin s m e t => exact absurd hnan (by simp [Ex.isNaN])

/-! ### Elements of a packed tile (R94) -/

/-- Values packed w bits each, read back: past the last one there is nothing. -/
theorem packBits_element (w : Nat) (xs : List Nat) (i : Nat) : packBits w xs / 2 ^ (w * i) % 2 ^ w = xs.getD i 0 % 2 ^ w := by
  have hpos : 0 < 2 ^ w := Nat.two_pow_pos w
  induction xs generalizing i with
  | nil => simp [packBits]
  | cons x xs ih =>
    rw [packBits, Nat.shiftLeft_eq, Nat.mul_comm (packBits w xs)]
    cases i with
    | zero => simp
    | succ i =>
      have hx : x % 2 ^ w < 2 ^ w := Nat.mod_lt _ hpos
      rw [Nat.mul_succ, Nat.add_comm (w * i), Nat.pow_add, ← Nat.div_div_eq_div_mul, Nat.add_mul_div_left _ _ hpos, Nat.div_eq_of_lt hx, Nat.zero_add, ih]
      rfl

/-- A field within the low n bits of a number is one of the number cut to n bits. -/
theorem field_of_mod {x k m n : Nat} (h : k + m ≤ n) : x % 2 ^ n / 2 ^ k % 2 ^ m = x / 2 ^ k % 2 ^ m := by
  refine Nat.eq_of_testBit_eq fun i => ?_
  simp only [Nat.testBit_mod_two_pow, Nat.testBit_div_two_pow]
  by_cases hi : i < m
  · simp [hi, show i + k < n by omega]
  · simp [hi]

theorem getD_map_range {α : Type} (g : Nat → α) (n i : Nat) (d : α) : ((List.range n).map g).getD i d = if i < n then g i else d := by
  rw [List.getD_eq_getElem?_getD, List.getElem?_map]
  split
  · next h => rw [List.getElem?_range h, Option.map_some, Option.getD_some]
  · next h => rw [List.getElem?_eq_none (by rw [List.length_range]; omega), Option.map_none, Option.getD_none]

/-- An element of packed rows. -/
theorem packRows_element {w : Nat} {rows : List (List Nat)} {r c : Nat} (hr : r < 64) (hc : w * c + w ≤ 512) :
    (packRows w rows).toNat / 2 ^ (512 * r + w * c) % 2 ^ w = (rows.getD r []).getD c 0 % 2 ^ w := by
  have hrow : packBits 512 (rows.map (packBits w)) / 2 ^ (512 * r) % 2 ^ 512 = packBits w (rows.getD r []) % 2 ^ 512 := by
    rw [packBits_element]
    refine congrArg (· % 2 ^ 512) ?_
    rw [List.getD_eq_getElem?_getD, List.getElem?_map, List.getD_eq_getElem?_getD]
    cases rows[r]? <;> rfl
  calc (packRows w rows).toNat / 2 ^ (512 * r + w * c) % 2 ^ w
      = packBits 512 (rows.map (packBits w)) / 2 ^ (512 * r + w * c) % 2 ^ w := by
        rw [packRows, BitVec.toNat_ofNat, field_of_mod (by omega)]
    _ = packBits 512 (rows.map (packBits w)) / 2 ^ (512 * r) % 2 ^ 512 / 2 ^ (w * c) % 2 ^ w := by
        rw [Nat.pow_add, ← Nat.div_div_eq_div_mul, field_of_mod hc]
    _ = (rows.getD r []).getD c 0 % 2 ^ w := by rw [hrow, field_of_mod hc, packBits_element]

/-! ### Tiles built in element order without draws (R74, R122) -/

theorem mapRow_noDraws (f : Nat → Nat → Nat × Flags) (cs : List Nat) : (mapRow f cs []).1 = cs.map (fun c => (f c 0).1) ∧ (mapRow f cs []).2.2 = [] := by
  induction cs with
  | nil => exact ⟨rfl, rfl⟩
  | cons c cs ih =>
    obtain ⟨hvals, hdraws⟩ := ih
    exact ⟨congrArg ((f c 0).1 :: ·) hvals, hdraws⟩

theorem mapRows_noDraws (f : Nat → Nat → Nat → Nat × Flags) (n : Nat) (rows : List Nat) :
    (mapRows f n rows []).1 = rows.map fun i => (List.range n).map fun c => (f i c 0).1 := by
  induction rows with
  | nil => rfl
  | cons i rows ih =>
    obtain ⟨hvals, hdraws⟩ := mapRow_noDraws (f i) (List.range n)
    show (mapRow (f i) (List.range n) []).1 :: (mapRows f n rows (mapRow (f i) (List.range n) []).2.2).1 = _
    rw [hvals, hdraws, ih, List.map_cons]

/-- A tile built without draws: its elements are the function's, and all else is zero (R122). -/
theorem buildTile_pattern {d : Desc} {rnd : Rnd} (g : GenState) (f : Nat → Nat → Nat → Nat × Flags) (hrnd : rnd ≠ .sr) {r c : Nat} (hr : r < 64)
    (hc : fmtBytes d.fmt * c + fmtBytes d.fmt ≤ 64) :
    (buildTile d rnd g f).1.pattern (fmtBytes d.fmt) r c = if r < d.rows ∧ c < d.cols then (f r c 0).1 % 2 ^ (8 * fmtBytes d.fmt) else 0 := by
  have hdraws : drawsFor rnd (d.rows * d.cols) g = ([], g) := by rw [drawsFor, if_neg fun h => hrnd (beq_iff_eq.mp h)]
  have hdata : (buildTile d rnd g f).1.data =
      packRows (8 * fmtBytes d.fmt) ((List.range d.rows).map fun i => (List.range d.cols).map fun c => (f i c 0).1) := by
    rw [← mapRows_noDraws, buildTile, hdraws]
  have hoff : 8 * (64 * r + c * fmtBytes d.fmt) = 512 * r + 8 * fmtBytes d.fmt * c := by
    rw [Nat.mul_assoc 8, Nat.mul_comm c]
    omega
  rw [Tile.pattern, hdata, getBits, Nat.shiftRight_eq_div_pow, hoff, packRows_element hr (by rw [Nat.mul_assoc]; omega), getD_map_range]
  by_cases hrow : r < d.rows
  · rw [if_pos hrow, getD_map_range]
    by_cases hcol : c < d.cols
    · rw [if_pos hcol, if_pos ⟨hrow, hcol⟩]
    · rw [if_neg hcol, if_neg fun h => hcol h.2, Nat.zero_mod]
  · rw [if_neg hrow, if_neg fun h => hrow h.1, List.getD_nil, Nat.zero_mod]

/-- What a vector form of arithmetic leaves, element by element (R119, R123). -/
theorem vecArith_elementwise {i : Instr} {s : State} {td : TReg} {a b : Tile} {op : Rnd → Ex → Ex → Ex × Flags} {sat : Bool} {rnd : Rnd}
    (h : tileOutcome s.me i = some (td, vecArith op a b sat rnd s.me.gen)) (hrnd : rnd ≠ .sr) (hcheck : check2 fmtNumeric a b = none) :
    ∃ t, exec i s = .next t ∧ (t.me.t[td]).desc = a.desc ∧ (t.me.t[td]).band = 0 ∧
      ∀ r c, r < 64 → c < 64 / fmtBytes a.desc.fmt → (t.me.t[td]).pattern (fmtBytes a.desc.fmt) r c =
        if r < a.desc.rows ∧ c < a.desc.cols then
          (deliverWith a.desc.fmt rnd sat 0 (op rnd (a.exact r c) (b.exact r c))).1 % 2 ^ (8 * fmtBytes a.desc.fmt) else 0 := by
  rw [vecArith, hcheck, orFault] at h
  obtain ⟨t, ht, htile, -⟩ := tileResult_ok s td _ _ _
  refine ⟨t, (exec_of_tileOutcome h).trans ht, ?_⟩
  rw [htile]
  refine ⟨rfl, rfl, fun r c hr hc => buildTile_pattern s.me.gen _ hrnd hr ?_⟩
  have := Nat.mul_le_of_le_div _ _ _ (Nat.succ_le_of_lt hc)
  rw [Nat.succ_mul] at this
  rwa [Nat.mul_comm]

/-- Settles O20, form by form: no mode but SR draws, and the rows of a tile lie apart. -/
theorem tileArithmeticIsElementwise : Obligations.TileArithmeticIsElementwise := by
  intro s td ta tb sat rnd a b n Delivers hrnd _ hcheck
  exact ⟨vecArith_elementwise (i := .tadd td ta tb sat rnd) rfl hrnd hcheck, vecArith_elementwise (i := .tsub td ta tb sat rnd) rfl hrnd hcheck,
    vecArith_elementwise (i := .tmul td ta tb sat rnd) rfl hrnd hcheck⟩

end Sys2Proof.Machine
end
